-- ==== Sys2Proof/Word.lean ====
section
/-! DEFINITION. The word types of the Sypra (R13, R14) and their plainest arithmetic. -/

namespace Sys2Proof

/-- A 64-bit word as the node stores, sends and delivers it (05_data_formats.md). -/
abbrev Word := BitVec 64

/-- A 32-bit register. -/
abbrev W32 := BitVec 32

/-- A byte. -/
abbrev Byte := BitVec 8

/-- A 64-bit word with its poison mark (R173). -/
structure PWord where
  w : Word
  poison : Bool := false
  deriving DecidableEq, Repr

end Sys2Proof
end

