-- ==== Sys2Proof/Syntax.lean ====
section
/-! DEFINITION. The commands of the Sypra: one constructor per row of spec/opcode_table.json, with the operands the
environment supplies (an index, a measured value, a word on a link or in BAR0, the upset that struck a code word). -/

namespace Sys2Proof

/-- The key of a fragment or merge context: a frame, or a trigger number with its number source (R124, R196). -/
inductive MergeKey where
  | frame (f : BitVec 32)
  | event (nsrc : BitVec 2) (num : BitVec 32)
  deriving DecidableEq, Repr

/-- A reader of OUTPUT (R205-R207). -/
inductive Reader where
  | n0 | n1 | p | dma
  deriving DecidableEq, Repr

/-- Who sends a message or reads a lock at this node directly (R364): the host through BAR0, or own firmware. -/
inductive Sender where
  | host | ownFirmware
  deriving DecidableEq, Repr

/-- An access of the host to BAR0 or BAR2 (R346, R357). -/
structure BarAccess where
  bar2 : Bool
  write : Bool
  offset : Nat
  length : Nat
  poisoned : Bool
  deriving DecidableEq, Repr

/-- The outcome of a read of a host image buffer (R344). -/
inductive HostOutcome where
  | success | poisoned | unsupportedRequest | completerAbort
  deriving DecidableEq, Repr

/-- A completion of a read of a host image buffer (R344): the mailbox whose message named the buffer, and the bytes that come. -/
structure HostData where
  mbox : Fin 16
  bytes : List Byte
  deriving DecidableEq, Repr

/-- A write to an inbound mailbox at this node directly (R361, R363, R369): who writes, and the bytes. -/
structure MboxData where
  who : Sender
  bytes : List Byte
  deriving DecidableEq, Repr

/-- The response of a PTM dialog (R355): the master time that it gives and the propagation delay that it reports, in the units of that
time. -/
structure PtmResponse where
  time : BitVec 64
  delay : BitVec 32
  deriving DecidableEq, Repr

/-- The straps as RESET_N is released (R1, R294), and whether VDDX is there (R458). -/
structure Straps where
  role : BitVec 2
  vddx : Bool := true
  deriving DecidableEq, Repr

/-- An edge of a discriminator (R104): the raw fine code of its interpolation, and whether an electrostatic discharge at the cell input makes it
(R519). -/
structure DiscEdge where
  raw : BitVec 13
  discharge : Bool := false
  deriving DecidableEq, Repr

/-- What a scan through the test access port leaves (R492-R495): the level of TRST_N, the cells of the boundary register as updated, and the
levels that its observe-only cells 0-8 have captured. -/
structure JtagScan where
  trstN : Bool
  cells : BitVec 29
  pins : BitVec 9
  deriving DecidableEq, Repr

/-- What the host programs in the configuration space of the PCI Express function besides the power state and Bus Master Enable (R342, R344,
R346, R352, R355): Max Payload Size and Max Read Request Size as powers of two times 128 B, Relaxed Ordering, PTM Enable, MSI-X Enable and the
MSI-X Function Mask; the bases of BAR0 (64 KiB) and BAR2 (16 MiB), ASPM L1, the generation and the checking of ECRC in AER control, and the
code of the Completion Timeout range. -/
structure PcieControl where
  maxPayload : Fin 3 := 0
  maxRead : Fin 6 := 2
  relaxed : Bool := true
  ptm : Bool := false
  msix : Bool := false
  functionMask : Bool := false
  bar0 : BitVec 48 := 0
  bar2 : BitVec 40 := 0
  aspmL1 : Bool := false
  ecrcGenerate : Bool := false
  ecrcCheck : Bool := false
  timeoutRange : BitVec 4 := 0
  deriving DecidableEq, Repr

/-- The CFG_A training word of the far end (form A of R265). -/
structure CfgA where
  portKind : BitVec 2
  role : BitVec 2
  pairEn : Bool
  pairPos : Bool
  nodeId : BitVec 12
  incarnation : BitVec 8
  rate : BitVec 2
  rxLanes : BitVec 2
  deriving DecidableEq, Repr

/-- The CFG_B training word of the far end (form B of R265). -/
structure CfgB where
  nextRxData : BitVec 16
  nextRxCtl : BitVec 16
  farInc : BitVec 8
  farValid : Bool
  deriving DecidableEq, Repr

/-- A packet as it arrives (R269, R270): header fields, payload, trailer CRC, and whether its framing is intact under
R271. -/
structure Packet where
  control : Bool
  seq : BitVec 16
  lenM1 : BitVec 6
  first : Bool
  last : Bool
  poisonMap : BitVec 32
  payload : List Word
  crc : BitVec 32
  framed : Bool
  deriving DecidableEq, Repr

/-- A grant of the chip arbiter, and the upsets that strike the words of a port's fragments in the fabric's latches on their way into the pool:
which word of the port's FIFO, which bits (R528). -/
structure FabricGrant where
  req : Fin 25
  upsets : List (Nat × BitVec 64) := []
  deriving DecidableEq, Repr

/-- A packet that a port sends, and the upsets that strike data words in the fabric's latches on their way to the port: which word of the
packet, which bits (R528). -/
structure PortSend where
  port : Fin 19
  upsets : List (Nat × BitVec 64) := []
  deriving DecidableEq, Repr

/-- What a memory BIST finds (R483): the reads whose mismatch vector is not 0, by their place among its 1,310,720 reads, in order. -/
structure MbistResult where
  mismatches : List (Nat × BitVec 19)
  deriving DecidableEq, Repr

/-- The crossings found failing by partition 8 (R482). -/
structure Xfail where
  count : BitVec 12
  firstCell : BitVec 11
  other : Bool
  deriving DecidableEq, Repr

/-- An upset of one copy of a triplicated word (R333): which word, which copy, which bits. -/
structure TmrUpset where
  word : Nat
  copy : Fin 3
  bits : BitVec 80
  deriving DecidableEq, Repr

/-- A unit of retirement (R336): a page or a bank of a memory. -/
structure RetireUnit where
  mem : Fin 3
  bank : Bool
  index : Nat
  deriving DecidableEq, Repr

/-- A housekeeping sample step of a pass (R418). -/
inductive HkStep where
  | reference
  | monitor (m : Fin 16)
  | auxin (entry : Fin 16)
  deriving DecidableEq, Repr

/-- The four codes of a sensor-port conversion (R425). -/
structure SxpCodes where
  sigPlus : BitVec 16
  sensePlus : BitVec 16
  sigMinus : BitVec 16
  senseMinus : BitVec 16
  deriving DecidableEq, Repr

/-- The six line codes of a diagnostic phase (R428), in its order. -/
structure SxpLeads where
  excP : BitVec 16
  excM : BitVec 16
  senseP : BitVec 16
  senseM : BitVec 16
  sigP : BitVec 16
  sigM : BitVec 16
  deriving DecidableEq, Repr

/-- The commands, in the order of the table. -/
inductive Instr where
  /-- POWER_ON (R456): A monitored rail rises from OFF and the node enters RESET. -/
  | powerOn
  /-- RAIL_FALL (R457): A monitored rail falls below its reset threshold; this acts as a power-on reset and outputs reach their RESET state within 1 us. -/
  | railFall
  /-- RESET_N_LOW (R460): RESET_N goes low; the node enters RESET, losing its configuration but keeping retirement and patch. -/
  | resetNLow
  /-- RESET_RELEASE (R456): Every rail has been above its threshold for 1 ms with RESET_N high; the node leaves RESET for BOOT. -/
  | resetRelease (role : Straps) (pairEn pairPos : Bool)
  /-- BOOT_COMPLETE (R456): Firmware has initialised RAM, checked ROM and applied any patch; the node enters LINKUP. -/
  | bootComplete
  /-- FIRMWARE_RESTART_DONE (R461): A firmware restart of the Idsan controller completes, rewriting firmware RAM from ROM, while the rest of the node runs on. -/
  | firmwareRestartDone
  /-- PCIE_LINK_UP (R456): At the root the PCI Express link reaches Data Link Layer active and BAR0 is ready; the node enters UNCONFIGURED with its NODE_ID. -/
  | pcieLinkUp
  /-- PERST_N_EVENT (R359): PERST_N resets the PCI Express controller and physical layer, with the same effect on the node as a function level reset. -/
  | perstNEvent (level : Bool)
  /-- FUNCTION_LEVEL_RESET (R359): A function level reset returns the BAR0 registers and the MSI-X table to reset values, which disables every ring, while acquisition continues. -/
  | functionLevelReset
  /-- PCIE_POWER_STATE_CHANGE (R359): Entry to or exit from D3hot, or a change of Bus Master Enable, stops or resumes DMA and MSI-X, with a pending vector signalled once on return. -/
  | pciePowerStateChange (d3hot bme : Bool) (control : PcieControl)
  /-- REFCLK_ABSENT (R47): No REFCLK edge has arrived for 20–30 ns; REFCLK is declared absent and REFCLK_LOST is set. -/
  | refclkAbsent
  /-- REFCLK_PRESENT (R47): After 1,024 consecutive REFCLK edges, REFCLK is declared present. -/
  | refclkPresent
  /-- TB_PHASE_COMPARE (R448): A REFCLK edge is measured by the region phase detector, which updates PHASE_ERR, or the comparison is skipped and REFCLK_GAP counted. -/
  | tbPhaseCompare (region : Fin 8) (edge : Option (BitVec 13))
  /-- TB_LOCKED (R52): PHASE_ERR has stayed within 8 LSB for 4,096 comparisons; the timebase enters LOCKED. -/
  | tbLocked (region : Fin 8)
  /-- TB_LOCK_LOSS (R52): PHASE_ERR exceeds 64 LSB on 16 consecutive comparisons; a LOCKED timebase enters HOLDOVER and sets LOCK_LOST. -/
  | tbLockLoss (region : Fin 8)
  /-- TB_ACQUIRE_TIMEOUT (R53): A timebase has not locked within 10 ms of entering ACQUIRE and enters FAILED. -/
  | tbAcquireTimeout (region : Fin 8)
  /-- TB_RING_STOPPED (R53): A region ring stops oscillating; the timebase enters FAILED and its discriminators are gated off. -/
  | tbRingStopped (region : Fin 8)
  /-- HOLDOVER_BOUND_UPDATE (R69): Every 1 ms, firmware updates HOLDOVER_BOUNDn of each region in HOLDOVER or SLEW. -/
  | holdoverBoundUpdate (region : Fin 8)
  /-- COARSE_TICK_VOTE (R55): At each tick boundary, the region coarse counter copies are majority-voted into the coarse time, and disagreeing copies count COARSE_FIX. -/
  | coarseTickVote (upsets : List (Fin 8 × BitVec 48))
  /-- COARSE_WRAP (R57): The 48-bit coarse counter wraps; COARSE_WRAP is set and the next frame header carries WRAP. -/
  | coarseWrap
  /-- EPOCH_EDGE (R66): An EPOCH rising edge is measured and replaces EPOCH_LAST, and in window mode it may be a start. -/
  | epochEdge (fine : BitVec 13)
  /-- WINDOW_OPEN (R61): At tick s + WIN_DELAY the window of an accepted start opens. -/
  | windowOpen
  /-- WINDOW_CLOSE (R61): At tick s + WIN_DELAY + WIN_WIDTH the window closes. -/
  | windowClose
  /-- START_HOLDOFF_END (R64): Four ticks after a window closes, the node again accepts starts. -/
  | startHoldoffEnd
  /-- CAL_UPDATE (R77): A cell's interpolation count reaches 2^CAL_HITS_LOG; it computes M[s], applies the update rule and switches the table. -/
  | calUpdate (cell : Fin 2048)
  /-- CAL_PULSE (R81): The region calibration pulser delivers a pulse into a cell interpolator, dropped if a real stop is busy. -/
  | calPulse (cell : Fin 2048) (raw : BitVec 13)
  /-- DISC_RISE (R104): The discriminator of a cell rises and the edge either starts a hit and is interpolated, or is lost to double-pulse resolution. -/
  | discRise (cell : Fin 2048) (raw : DiscEdge)
  /-- INTERPOLATION_DONE (R123): A stop's interpolation completes; it is counted for calibration and is the decision instant of CELL and BLOCK triggers. -/
  | interpolationDone (cell : Fin 2048)
  /-- DISC_FALL (R100): The discriminator of a cell falls; in TIMING the time over threshold is completed. -/
  | discFall (cell : Fin 2048) (period : BitVec 3) (saturated : Bool)
  /-- TOT_LIMIT (R112): In TIMING the time-over-threshold count reaches 4,095 and the cell completes the hit. -/
  | totLimit (cell : Fin 2048) (saturated : Bool)
  /-- HIT_WORD_FORMED (R110): A hit word is completed after its Q window or falling edge and enters the cell derandomiser. -/
  | hitWordFormed (cell : Fin 2048)
  /-- RANGE_SWITCH_UP (R93): An overload comparator trips and the cell switches to the next higher range, and the sample is marked SETTLE. -/
  | rangeSwitchUp (cell : Fin 2048)
  /-- RANGE_SWITCH_DOWN (R94): After 16 qualifying samples the cell switches down one range at the next sample. -/
  | rangeSwitchDown (cell : Fin 2048)
  /-- CELL_SETTLE_END (R114): 2 us after a cell enters TIMING or FULL, its analog stages have settled and it starts producing hits. -/
  | cellSettleEnd (cell : Fin 2048)
  /-- PAGE_ADVANCE (R126): The block samplers finish a page and begin the next free page, or write nothing when none is free. -/
  | pageAdvance (blk : Fin 128) (n : Nat)
  /-- TRIG_IN_EDGE (R121): A TRIG_IN rising edge is measured and, if accepted, takes the next EXTERNAL number and is judged by each enabled block. -/
  | trigInEdge (fine : BitVec 13)
  /-- TREE_TRIGGER_DUE (R123): A pending tree trigger reaches its decision instant and every block with TREE enabled judges it. -/
  | treeTriggerDue
  /-- RECORD_COMPLETE (R130): A record's last sample is written; the block enters REARM, or Frost when it is FREEZING. -/
  | recordComplete (blk : Fin 128)
  /-- REARM_END (R130): After 64 sample periods of REARM the block enters ARMED, or WAIT_PAGES when short of pages. -/
  | rearmEnd (blk : Fin 128)
  /-- RECORD_READ (R132): The record builder reads a completed record oldest sample first, flags STALE cells, frees pages and closes the event fragment when due. -/
  | recordRead (blk : Fin 128)
  /-- BLOCK_GRANT (R30): The block arbiter grants the oldest head word or record among its 16 cells. -/
  | blockGrant (blk : Fin 128)
  /-- REGION_GRANT (R30): The region arbiter grants the oldest head word among its 16 blocks to the frame builder. -/
  | regionGrant (region : Fin 8)
  /-- ORIGIN_FRAGMENT_OPEN (R530): An origin fragment opens and takes its first pool slot for placeholder headers, or is dropped whole if no slot is available. -/
  | originFragmentOpen (key : MergeKey)
  /-- FRAME_CLOSE (R193): At tick (F + 1) × 65,536 + GUARD the origin frame fragment of frame F closes. -/
  | frameClose (frame : BitVec 32)
  /-- CHIP_GRANT (R32): The chip arbiter grants a requester up to G words, which the write stage corrects, compresses and stores in the pool. -/
  | chipGrant (req : FabricGrant)
  /-- WRITE_STAGE_COMPLETE (R191): The write stage processes a fragment's trailer and rewrites its headers and trailer, so the item becomes complete. -/
  | writeStageComplete
  /-- RECLAIM_PASS (R186): A reclaim pass in idle slots marks reachable slots and frees every allocated slot it did not reach. -/
  | reclaimPass
  /-- CONTEXT_OPEN (R196): At tick F × 65,536 a merging node opens the context of frame F. -/
  | contextOpen (frame : BitVec 32)
  /-- CONTEXT_DEADLINE (R198): A context reaches its deadline and closes, with remaining entries MISSING. -/
  | contextDeadline (key : MergeKey)
  /-- CONTEXT_CLOSE (R203): A closing context writes its header item and child table, once a slot is free, and splices the chain into OUTPUT. -/
  | contextClose (key : MergeKey)
  /-- OUTPUT_READER_SELECT (R204): A reader of OUTPUT finishes an item and chooses the head item of the highest-priority complete class. -/
  | outputReaderSelect (reader : Reader)
  /-- THROTTLE_PERIODIC (R210): Every 1 ms while THROTTLE_AGG is asserted, a THROTTLE message is sent on each trained north port. -/
  | throttlePeriodic
  /-- DMA_ITEM_WRITE (R349): The root DMA engine writes the chosen item into its ring within FREE and advances HEAD, waiting and setting FULL when there is no room. -/
  | dmaItemWrite
  /-- RING_WRITEBACK (R350): Within 1 us of a HEAD advance, the node writes HEAD and the write-back count to WB_ADDR. -/
  | ringWriteback (ring : Fin 8)
  /-- MSIX_HOLDOFF_END (R352): HOLDOFF us after the last signal, a vector with an intervening write-back is signalled. -/
  | msixHoldoffEnd (ring : Fin 8)
  /-- RING_ENABLE (R348): A host write that changes RING_CTL EN from 0 to 1 sets HEAD to TAIL. -/
  | ringEnable (ring : Fin 8) (value : BitVec 32)
  /-- RING_TAIL_WRITE (R350): A host write to TAIL frees ring space, serialised with the node's FREE test. -/
  | ringTailWrite (ring : Fin 8) (value : BitVec 32)
  /-- BAR_ACCESS (R346): A host BAR0 or BAR2 write of bad size or alignment, or any BAR2 write, is discarded and counted in BAR_ACCESS_ERR. -/
  | barAccess (access : BarAccess)
  /-- REGISTER_WRITE (R16): A write to a register without a row of its own acts by the field access codes. -/
  | registerWrite (offset : BitVec 16) (wide : Bool) (value : BitVec 64)
  /-- APERTURE_READ (R358): A BAR2 aperture read reads code words under R319, logging corrections and handling UEs. -/
  | apertureRead (offset : BitVec 23) (count : Nat) (upsets : List (BitVec 152))
  /-- PTM_DIALOG (R355): Every PTM_INTERVAL ms the root completes a PTM dialog and stores a new correspondence pair. -/
  | ptmDialog (master : PtmResponse) (fine : BitVec 13)
  /-- HOST_READ_COMPLETION (R344): A completion for a host image buffer read returns data or fails the command with POISONED or INTEGRITY. -/
  | hostReadCompletion (outcome : HostOutcome) (data : HostData)
  /-- LINK_BLOCK_LOCK (R264): A lane sees 64 consecutive valid sync headers and gains block lock. -/
  | linkBlockLock (port : Fin 19) (lane : Fin 2)
  /-- LINK_BLOCK_LOCK_LOSS (R264): A lane loses block lock after 16 invalid headers in 64, and an UP port retrains. -/
  | linkBlockLockLoss (port : Fin 19) (lane : Fin 2)
  /-- ALIGNMENT_MISSING (R264): Two consecutive alignment words are missing, and the port retrains. -/
  | alignmentMissing (port : Fin 19) (found : List Word)
  /-- ALIGN_WORD_TX (R262): Every 16,384 blocks per lane, or every 64 in deskew, an alignment word is sent on every lane. -/
  | alignWordTx (port : Fin 19)
  /-- LINK_LANE_READY (R266): A lane has received ACK and sent 16 ACKs and is ready. -/
  | linkLaneReady (port : Fin 19) (lane : Fin 2)
  /-- LINK_LANE_WAIT_EXPIRY (R266): 500 us after one lane is ready, deskew proceeds on the ready lanes only. -/
  | linkLaneWaitExpiry (port : Fin 19)
  /-- LINK_DESKEW_DONE (R263): Deskew completes and the port sends CFG_A and CFG_B. -/
  | linkDeskewDone (port : Fin 19) (lead : Nat)
  /-- LINK_CFG_DONE (R267): Eight identical far configuration words are received; the port becomes UP or MISMATCH and resumes or restarts its channels. -/
  | linkCfgDone (port : Fin 19) (a : CfgA) (b : CfgB) (partnerOn : Bool)
  /-- LINK_DWELL_EXPIRY (R268): A port that reaches no ready lane within its dwell time moves down the rate ladder. -/
  | linkDwellExpiry (port : Fin 19)
  /-- PACKET_TX (R278): A transmitter with enough credit begins a packet, control packets first. -/
  | packetTx (port : PortSend)
  /-- PACKET_RX (R275): A received packet is accepted, discarded as a duplicate with an ACK, or failed with CRC_ERR and a NAK. -/
  | packetRx (port : Fin 19) (pkt : Packet)
  /-- LINK_ACK_RX (R274): A LINK_CTL ACK releases acknowledged packets and frees their slots, and updates credit. -/
  | linkAckRx (port : Fin 19) (word : Word)
  /-- LINK_NAK_RX (R276): A NAK starts a replay from the named SEQ after the packet in progress. -/
  | linkNakRx (port : Fin 19) (word : Word)
  /-- ACK_TIMER (R274): At least every 10 us while UP, a receiver sends an ACK for each channel. -/
  | ackTimer (port : Fin 19)
  /-- REPLAY_TIMEOUT (R276): The oldest unacknowledged packet has gone REPLAY_TIMEOUT without acknowledgement, and a replay begins. -/
  | replayTimeout (port : Fin 19) (control : Bool)
  /-- REPLAY_WINDOW_END (R276): At the end of each 1 ms window, REPLAYS_1MS takes the window's replay count. -/
  | replayWindowEnd (port : Fin 19)
  /-- TIMING_MARKER_TX (R288): At each frame boundary, a timing marker is sent on L0 of every UP south port. -/
  | timingMarkerTx
  /-- TIMING_MARKER_RX (R289): A received timing marker loads coarse time, or is compared with it, setting MARKER_MISMATCH on disagreement. -/
  | timingMarkerRx (port : Fin 19) (word : Word)
  /-- TRIGGER_RX (R284): A TRIGGER message on a north port is taken, de-duplicated and forwarded south. -/
  | triggerRx (port : Fin 19)
  /-- THROTTLE_RX (R286): A THROTTLE message on a south port records its STATE in THROTTLE_IN. -/
  | throttleRx (port : Fin 19)
  /-- MBOX_MSG_RX (R373): A received MBOX_MSG is accepted into its mailbox, or discarded as a collision to be answered BUSY. -/
  | mboxMsgRx (port : Fin 19)
  /-- MBOX_REPLY_RX (R376): A received MBOX_REPLY is routed toward its requester, or discarded as stale. -/
  | mboxReplyRx (port : Fin 19)
  /-- DOORBELL_RX (R373): A DOORBELL message sets an IN_DOORBELL bit or reports POST CLEARED, which lets a hop release its lock. -/
  | doorbellRx (port : Fin 19)
  /-- LOCK_READ_RX (R373): A LOCK_READ message acts on the lock and is answered with a LOCK_RESULT. -/
  | lockReadRx (port : Fin 19)
  /-- LOCK_WRITE_RX (R373): A LOCK_WRITE message releases the lock if the value matches the owner. -/
  | lockWriteRx (port : Fin 19)
  /-- LOCK_RESULT_RX (R374): A LOCK_RESULT reaches the hop sender, which retries or posts the MBOX_MSG. -/
  | lockResultRx (port : Fin 19)
  /-- GRANT_RX (R304): A received GRANT sets whether the member is active, and a member that is newly granted carries out switchover. -/
  | grantRx (port : Fin 19)
  /-- HEARTBEAT_RX (R311): A received HEARTBEAT resets HB_AGE and, over P, triggers the signature comparison. -/
  | heartbeatRx (port : Fin 19)
  /-- HEALTH_RX (R302): A received health word may declare the member failed through storm or FAIL. -/
  | healthRx (port : Fin 19)
  /-- HB_ARM_WRITE (R299): Firmware writes HB_ARM to arm the next heartbeat. -/
  | hbArmWrite (value : BitVec 32)
  /-- HEARTBEAT_TICK (R299): At each 100 us mark the hardware sends a HEARTBEAT and toggles HEALTH_OUT if armed. -/
  | heartbeatTick
  /-- HEALTH_SEND (R300): Every 1 ms firmware sends the health word on N0, N1 and P. -/
  | healthSend
  /-- HB_TIMEOUT (R302): 350 us without a heartbeat declares the member failed, and the arbiter may move the grant. -/
  | hbTimeout (port : Fin 16)
  /-- GRANT_PERIODIC (R304): Every 100 us the arbiter sends GRANT to both members. -/
  | grantPeriodic
  /-- GRANT_IN_CHANGE (R309): A GRANT_IN level held for 1 us grants or withdraws the root member. -/
  | grantInChange (level : Bool)
  /-- SIG_SEAL (R310): At tick (F + SIG_DELAY) × 65,536 the signature of frame F is sealed. -/
  | sigSeal (frame : BitVec 32)
  /-- BIST_IDLE_START (R312): A standby starts memory BIST on a pool bank with no allocated slot. -/
  | bistIdleStart (bank : Fin 12)
  /-- BIST_IDLE_DONE (R312): The idle BIST ends, and the bank returns to allocation or BIST_FAIL and FAIL are set. -/
  | bistIdleDone (result : MbistResult)
  /-- PAIR_IMAGE_RX (R313): A member receives its partner's committed image over P and keeps it. -/
  | pairImageRx (own : Bool) (image : List Byte)
  /-- RESYNC_DIR_COPY_DONE (R314): The partner finishes copying the active directory bank, then sends timing markers on P. -/
  | resyncDirCopyDone (bankB : Bool) (entries : List (Nat × Word))
  /-- RESYNC_JOIN (R314): At frame F_join the returning member opens contexts and starts its own acquisition. -/
  | resyncJoin (partnerRunning : Bool)
  /-- MEM_POISON_REWRITE (R324): In the next idle slot, a location read UE is rewritten with the poison pattern if still UE. -/
  | memPoisonRewrite (mem : Fin 6) (addr : Nat)
  /-- MERGE_BUFFER_DRAIN (R328): A merge buffer entry drains, with a read-modify-write for a partial entry. -/
  | mergeBufferDrain (mem : Fin 6) (upset : BitVec 152)
  /-- SCRUB_VISIT (R330): The scrubber reads a code word in an idle slot and corrects or poisons it. -/
  | scrubVisit (mem : Fin 6) (upset : BitVec 152)
  /-- LAP_OVERDUE (R331): A lap exceeds SCRUB_LAP_MAX and LAP_OVERDUE is set. -/
  | lapOverdue (mem : Fin 6)
  /-- LEAK_PERIOD (R332): At the end of each LEAK_PERIOD, LEVEL falls by one, re-arming the bucket at half the threshold. -/
  | leakPeriod (mem : Fin 6)
  /-- TMR_REFRESH (R333): Every 100 us the triplicated words are compared and disagreeing copies rewritten. -/
  | tmrRefresh (upsets : List TmrUpset)
  /-- RETIRE_MAP_REPAIR (R326): Within 1 ms, firmware rewrites a poisoned retirement-map code word from its record. -/
  | retireMapRepair (unit : RetireUnit)
  /-- MBOX_WRITE (R363): A write to an inbound mailbox is stored, or discarded as a collision when posted or taken. -/
  | mboxWrite (mbox : Fin 16) (offset : Fin 256) (data : MboxData)
  /-- MBOX_POST (R369): Writing a POST bit of IN_DOORBELL posts the mailbox with the sender's stamp. -/
  | mboxPost (mbox : Fin 16) (who : Sender)
  /-- MBOX_ABORT (R378): Setting an ABORT bit discards a posted message, or clears when taken or empty. -/
  | mboxAbort (mbox : Fin 16)
  /-- LOCK_READ (R366): A read of a free LOCKi takes the lock for the reader's stamp. -/
  | lockRead (lock : Fin 16) (who : Sender)
  /-- LOCK_WRITE (R366): A write of the owner's stamp frees LOCKi; any other write counts LOCK_BAD_RELEASE. -/
  | lockWrite (lock : Fin 16) (value : BitVec 32)
  /-- FW_TAKE_MESSAGE (R372): Firmware takes the next posted message in posting order and checks it under R386. -/
  | fwTakeMessage (upsets : List (BitVec 152)) (ram : List (Nat × BitVec 152))
  /-- NODE_IDENTIFY (R394): Returns the node identity reply. -/
  | nodeIdentify
  /-- NODE_RESET (R395): Writes the reply, then performs a firmware restart or warm reset. -/
  | nodeReset
  /-- COUNTER_CLEAR (R392): Clears counters in the given scope. -/
  | counterClear
  /-- NODE_REG_READ (R390): Reads registers of the node group. -/
  | nodeRegRead
  /-- NODE_REG_CLEAR (R390): Clears W1C flags of the node group. -/
  | nodeRegClear
  /-- CFG_DATA (R396): Delivers a chunk of a configuration image stream for staging. -/
  | cfgData
  /-- CFG_COMMIT (R401): Checks the staged image, writes the commit record and applies the configuration. -/
  | cfgCommit
  /-- CFG_QUERY (R400): Returns the commit record and the staging status. -/
  | cfgQuery
  /-- CFG_DISCARD (R400): Discards the staged configuration image. -/
  | cfgDiscard
  /-- ACQ_START (R147): Arms blocks, zeroes SELF and EXTERNAL numbers and makes the node RUNNING. -/
  | acqStart
  /-- ACQ_STOP (R147): Stops judging triggers at the next sample boundary and lets accepted records complete. -/
  | acqStop
  /-- ACQ_STOP_COMPLETE (R147): The last accepted records are delivered; the reply is written and the node is CONFIGURED. -/
  | acqStopComplete
  /-- ACQ_THAW (R142): Thaws the named blocks in Frost at the next sample boundary. -/
  | acqThaw
  /-- ACQ_CELL_SET (R403): Sets THR, HYST, DISC_EN or CELL_MODE of a range of cells. -/
  | acqCellSet
  /-- ACQ_MASK_WRITE (R404): Writes mask table points of an idle or frozen block. -/
  | acqMaskWrite
  /-- ACQ_TRIGGER (R402): Takes a tree trigger at this node and forwards it south. -/
  | acqTrigger
  /-- ACQ_REG_READ (R390): Reads acquisition registers. -/
  | acqRegRead
  /-- ACQ_REG_CLEAR (R390): Clears W1C flags of acquisition registers. -/
  | acqRegClear
  /-- TB_RESTART (R405): Returns the named FAILED timebases to ACQUIRE. -/
  | tbRestart
  /-- CAL_RESTART (R405): Clears CAL_SUSPECT and the counters and resets k for the named cells. -/
  | calRestart
  /-- CAL_TABLE_READ (R405): Returns a cell's active INL table with its poison map. -/
  | calTableRead
  /-- CAL_TABLE_WRITE (R405): Writes and switches to a new INL table for a cell. -/
  | calTableWrite
  /-- TB_REG_READ (R390): Reads timebase registers. -/
  | tbRegRead
  /-- TB_REG_CLEAR (R390): Clears W1C flags of timebase registers. -/
  | tbRegClear
  /-- DIR_SHADOW_BEGIN (R226): Moves the shadow bank to BUILDING and clears its page record. -/
  | dirShadowBegin
  /-- DIR_IMAGE (R226): Writes directory images into the building shadow. -/
  | dirImage
  /-- DIR_SHADOW_END (R227): Moves the shadow to COMPLETE or EMPTY by its page record. -/
  | dirShadowEnd
  /-- DIR_SWAP (R228): Schedules the bank swap at frame F_s. -/
  | dirSwap
  /-- DIR_SWAP_COMPLETE (R230): At the deadline of frame F_s the banks exchange roles and SWAP_DONE is set. -/
  | dirSwapComplete
  /-- DIR_WRITE (R231): Writes one directory entry into the active bank, the shadow or both. -/
  | dirWrite
  /-- DIR_ENTRY_READ (R406): Returns directory entries with their poison map. -/
  | dirEntryRead
  /-- DIR_REG_READ (R390): Reads directory registers. -/
  | dirRegRead
  /-- DIR_REG_CLEAR (R390): Clears W1C flags of directory registers. -/
  | dirRegClear
  /-- ENUM_START (R466): The root numbers the tree breadth-first and sends assignments and routes. -/
  | enumStart
  /-- ENUM_REPLY_TIMEOUT (R469): A child's assignment is not answered in time; the child counts as not UP and FAULT 4 is recorded. -/
  | enumReplyTimeout (port : Fin 16)
  /-- ENUM_ASSIGN (R468): Sets the receiver's NODE_ID, level and partner and retrains its north and pair ports. -/
  | enumAssign
  /-- ENUM_RELAY (R407): Sends ENUM_ASSIGN on a south port and relays the reply. -/
  | enumRelay
  /-- ENUM_ROUTE (R407): Sets the NODE_ID ranges below each south port for routing. -/
  | enumRoute (final : Bool)
  /-- PAIR_GRANT (R408): Sets a root member's own grant or moves a child pair's grant. -/
  | pairGrant
  /-- PAIR_FORCE_FAIL (R407): Sets FAIL with FAIL_CAUSE 5 in a paired node. -/
  | pairForceFail
  /-- LINK_RETRAIN (R407): Retrains the named enabled ports. -/
  | linkRetrain
  /-- LINK_REG_READ (R390): Reads link and pair registers. -/
  | linkRegRead
  /-- LINK_REG_CLEAR (R390): Clears W1C flags of link and pair registers. -/
  | linkRegClear
  /-- MEM_RETIRE (R336): Retires a page or bank of the pool, the directory or segment memory. -/
  | memRetire
  /-- MEM_LOG_READ (R409): Returns error-log entries. -/
  | memLogRead
  /-- MEM_READ (R409): Reads code words of memory as an aperture read does. -/
  | memRead
  /-- MEM_REG_READ (R390): Reads memory, pool and compression registers. -/
  | memRegRead
  /-- MEM_REG_CLEAR (R390): Clears W1C flags of those registers. -/
  | memRegClear
  /-- LOOP_SETPOINT (R446): Sets a loop target and starts a Spring ramp at the next evaluation. -/
  | loopSetpoint
  /-- LOOP_ENABLE (R447): Enables or disables loops 8–31 with bumpless transfer. -/
  | loopEnable
  /-- LOOP_CLAMP_WRITE (R443): Writes both clamp limits of a loop into triplicated storage. -/
  | loopClampWrite
  /-- SXP_COEF_WRITE (R426): Writes the twelve coefficients of a sensor port. -/
  | sxpCoefWrite
  /-- HK_POWER_MODE (R422): Selects normal or low-power housekeeping from each converter's next pass. -/
  | hkPowerMode
  /-- HK_REG_READ (R390): Reads housekeeping and loop registers. -/
  | hkRegRead
  /-- HK_REG_CLEAR (R390): Clears W1C flags of housekeeping and loop registers. -/
  | hkRegClear
  /-- BIST_LOGIC (R480): Starts logic BIST of one partition. -/
  | bistLogic
  /-- BIST_LOGIC_DONE (R481): Logic BIST ends and SIGNATURE and PASS are reported. -/
  | bistLogicDone (signature : BitVec 32) (xfail : Xfail)
  /-- BIST_MEM (R483): Starts memory BIST of one group of the pool, the directory or segment memory. -/
  | bistMem
  /-- BIST_MEM_DONE (R485): Memory BIST ends, updating TEST_MBIST and setting BIST_FAIL on failure. -/
  | bistMemDone (result : MbistResult)
  /-- TEST_REG_READ (R390): Reads test registers. -/
  | testRegRead
  /-- TEST_REG_CLEAR (R390): Clears W1C flags of test registers. -/
  | testRegClear
  /-- PATCH_DATA (R396): Delivers a chunk of a firmware patch stream. -/
  | patchData
  /-- PATCH_APPLY (R413): Authenticates the staged patch and restarts firmware into it. -/
  | patchApply
  /-- PATCH_STATUS (R412): Returns the patch in force and the staging status. -/
  | patchStatus
  /-- HK_PASS_START (R418): A converter begins a pass and emits its pass marker. -/
  | hkPassStart (conv : Fin 2)
  /-- HK_SAMPLE (R434): A reference, monitor or AUXIN sample completes and its word enters the housekeeping FIFO. -/
  | hkSample (conv : Fin 2) (step : HkStep) (code : BitVec 16)
  /-- SXP_CONVERSION (R425): A sensor-port entry completes its Equinox pair, computes x and y, and updates the result and ILKn. -/
  | sxpConversion (conv : Fin 2) (entry : Fin 16) (codes : SxpCodes) (excLimit : Bool)
  /-- SXP_DIAG_PHASE (R428): An open-wire diagnostic phase measures the six leads. -/
  | sxpDiagPhase (conv : Fin 2) (entry : Fin 16) (codes : SxpLeads)
  /-- ILK_PERIOD (R431): An ILK output period ends, and the next period takes the new value. -/
  | ilkPeriod (port : Fin 8)
  /-- ITEM_CLOSE_TIMER (R180): A housekeeping or telemetry item closes at 30 words or 100 us after its first word. -/
  | itemCloseTimer (telemetry : Bool)
  /-- PACING_EVENT (R439): Every 64 coarse ticks the loop engine evaluates every due loop, counting an overrun when a pass is late. -/
  | pacingEvent (late : Bool)
  /-- JTAG_UPDATE_IR (R495): A new instruction takes effect, giving the output pins to the boundary register or back to the function. -/
  | jtagUpdateIr (ir : BitVec 8) (boundary : JtagScan)
  /-- JTAG_TEST_LOGIC_RESET (R495): Entry to Test-Logic-Reset selects IDCODE and returns the pins to the function. -/
  | jtagTestLogicReset
  /-- SAMPLE_CONVERSION (R105): Every 12.5 ns in CELL_MODE FULL a cell's converter completes a sample, which is written as a container into segment memory and judged for range switching. -/
  | sampleConversion (cell : Fin 2048) (n : Nat) (code : BitVec 10)
  /-- PCIE_LINK_LOSS (R359): The root's PCI Express link goes down, DMA stops and items wait under R207 until the link returns. -/
  | pcieLinkLoss
  /-- MAILBOX_READ (R363): A host read of a mailbox classifies its code words, so a poisoned word completes with the poisoned bit set and a first UE is logged with origin READ and rewritten as poison. -/
  | mailboxRead (outbound : Bool) (mbox : Fin 16) (offset : Fin 256) (length : Nat) (upsets : List (BitVec 152))
  /-- COMPLETION_TIMEOUT (R344): A read request for a host image buffer gets no completion within the programmed range, and the command fails with STATUS INTEGRITY. -/
  | completionTimeout
  deriving DecidableEq, Repr

end Sys2Proof
end

