-- ==== Sys2Proof/Config.lean ====
section
/-! DEFINITION. The values the manual leaves open. None has a body, so no proof can see what it is. -/

namespace Sys2Proof.Config

/-- A free value: what one outcome the manual leaves unspecified turns out to be, drawn by the counter
`State.free` (assumption 4). -/
opaque freeValue : Nat → BitVec 64

/-- DIE_ID, the part's 64-bit die identifier (R394): fixed in one part, not given by the manual. -/
opaque dieId : BitVec 64

/-- Where MEM 5 holds, by code word, the INL tables (cell, copy B, group of eight entries), the mask points (block, point), the free-slot
map (by 128 slots), the queue pointers (queue, class, copy), the words of the port input FIFOs (port, place) and the retirement map (the
code word that describes a page or a bank of a memory): the addresses are internal (R321; assumption 84). -/
opaque inlWord : Nat → Bool → Nat → Nat
opaque maskWord : Nat → Nat → Nat
opaque mapWord : Nat → Nat
opaque pointerWord : Nat → Nat → Bool → Nat
opaque fifoWord : Nat → Nat → Nat
opaque retireWord : Nat → Bool → Nat → Nat

/-- The code word, within its group, that element 6 of memory BIST reads as its `k`-th: its order is any (R483; assumption 175). -/
opaque lastElement : Nat → Fin 262144

/-- The code words of firmware RAM that hold the patch area; the others hold firmware's data (R327). -/
opaque patchArea : Nat → Bool

/-- The verdict of the check of a patch's authentication block against the key in ROM (R413).
The manual gives neither the block's layout nor the key. -/
opaque patchAuthentic : List (BitVec 8) → Bool

/-- The identity fields of a patch (PATCH_ID, PATCH_CRC) and whether it names this stepping: the manual gives no
layout of a patch image (R413). -/
opaque patchId : List (BitVec 8) → BitVec 32
opaque patchCrc : List (BitVec 8) → BitVec 32
opaque patchStepping : List (BitVec 8) → BitVec 8

end Sys2Proof.Config
end

