-- ==== Sys2Proof/Machine/Tab.lean ====
section
/-! DEFINITION. Tables: finite maps over Nat with a default, as lists in one canonical form (keys strictly rising,
no entry equal to the default), so that equal tables are equal data. -/

namespace Sys2Proof.Machine

/-- A table of `α`: what it does not list reads as the table's default. -/
abbrev Tab (α : Type) := List (Nat × α)

/-- The entry of key `k`, or the default `d`. -/
def Tab.get {α : Type} (d : α) : Tab α → Nat → α
  | [], _ => d
  | (j, v) :: t, k => if k < j then d else if k = j then v else Tab.get d t k

/-- The table after the entries that stand at keys up to `k` at its front are dropped. -/
def Tab.above {α : Type} : Tab α → Nat → Tab α
  | [], _ => []
  | (j, v) :: t, k => if j ≤ k then Tab.above t k else (j, v) :: t

/-- The table with `v` at key `k`. An entry equal to the default is not listed. -/
def Tab.set {α : Type} [DecidableEq α] (d : α) : Tab α → Nat → α → Tab α
  | [], k, v => if v = d then [] else [(k, v)]
  | (j, w) :: t, k, v =>
    if k < j then (if v = d then (j, w) :: t else (k, v) :: (j, w) :: t)
    else if k = j then (if v = d then Tab.above t k else (k, v) :: t)
    else (j, w) :: Tab.set d t k v

/-- Every entry of keys `lo` to `lo + n - 1` replaced by `f` of it. -/
def Tab.update {α : Type} [DecidableEq α] (d : α) (t : Tab α) (lo : Nat) : Nat → (Nat → α → α) → Tab α
  | 0, _ => t
  | n + 1, f =>
    let u := Tab.update d t lo n f
    Tab.set d u (lo + n) (f (lo + n) (Tab.get d u (lo + n)))

/-- The table without the entries of keys `lo` to `hi - 1`, which then read as the default. -/
def Tab.clear {α : Type} (t : Tab α) (lo hi : Nat) : Tab α :=
  t.filter fun e => e.1 < lo || hi ≤ e.1

/-- The canonical form: no entry equals the default and keys rise strictly. -/
def Tab.wf {α : Type} [DecidableEq α] (d : α) : Tab α → Bool
  | [] => true
  | (j, v) :: t => v ≠ d && (t.head?.all fun e => j < e.1) && Tab.wf d t

end Sys2Proof.Machine
end

