-- ==== Sys2Proof/Machine/State.lean ====
section
/-! DEFINITION. The state of the node as plain data: every register, buffer, queue, memory and pin the spec gives it,
the queue of waiting commands, and the outcomes of a step. -/

namespace Sys2Proof.Machine

/-- The node states of R455, in the order of their codes. -/
inductive NodeState where
  | off | reset | boot | linkup | unconfigured | configured | running | safe
  deriving DecidableEq, Repr

/-- An action that takes effect at the next sample boundary (R102, R114, R142, R147). -/
inductive BoundaryAct where
  | cellSet (first count : Nat) (fields : BitVec 8) (thr : Nat) (hyst : Nat) (discEn : Nat) (mode : Nat)
  | thaw (mask : BitVec 128)
  | stop
  deriving DecidableEq, Repr

/-- Node control: power, pins, identity and boot (R1, R294, R365, R394, R455-R459). -/
structure NodeSt where
  state : NodeState := .off
  perstN : Bool := false
  /-- VDDX is there (R458). -/
  vddx : Bool := true
  /-- NODE_ID, 0xFFF before enumeration (R394). -/
  nodeId : BitVec 12 := 0xFFF
  level : BitVec 8 := 0xFF
  partnerId : BitVec 12 := 0xFFF
  /-- The NODE_ID ranges below each south port (R375). -/
  routes : Tab (List (Nat × Nat)) := []
  routed : Bool := false
  incarnation : BitVec 8 := 0
  bootCause : BitVec 8 := 0
  patchDiscarded : Bool := false
  noticeSeq : BitVec 16 := 0
  /-- A configuration has been committed since the last reset (R440, R463). -/
  committed : Bool := false
  /-- Acquisition was stopped and its accepted records are not all delivered (R147). -/
  stopping : Bool := false
  /-- What waits for the next sample boundary. -/
  acts : List BoundaryAct := []
  deriving DecidableEq, Repr

/-- An accepted window start (R61). -/
structure Window where
  s : BitVec 48
  num : BitVec 32
  stamp : BitVec 61
  /-- The start's tick as `State.ticks` counts. -/
  at_ : Nat := 0
  opened : Bool := false
  closed : Bool := false
  deriving DecidableEq, Repr

/-- The node's time base state outside the registers (R55-R66). -/
structure TimeSt where
  coarse : BitVec 48 := 0
  /-- The value the next tick boundary is expected to take, where a load or the start at commit sets it (R55). -/
  expected : Option (BitVec 48) := none
  /-- P of R105: the parity of the sampling ticks, as `State.ticks` counts them (assumption 125). -/
  parity : Bool := false
  wrapDue : Bool := false
  wrapped : Bool := false
  /-- ACQ_STARTs carried out since the commit (R71). -/
  starts : Nat := 0
  /-- The next window start number (R61). -/
  nextStart : BitVec 32 := 0
  /-- The load point: the stamp from which stops are recorded (R65). -/
  loadPoint : BitVec 61 := 0
  /-- The first sample after the load (R127). -/
  loadSample : Nat := 0
  window : Option Window := none
  /-- The frame that holds the load, and the last frame of the run (R158). -/
  firstFrame : Option (BitVec 32) := none
  lastFrame : Option (BitVec 32) := none
  /-- The run began at a join whose partner was not RUNNING: the node only merges (R314). -/
  mergeOnly : Bool := false
  deriving DecidableEq, Repr

/-- A hold-over of a region, in ticks as `State.ticks` counts them: from its entry to HOLDOVER, to the end of HOLDOVER or SLEW, and
to the tick of the next LOCKED (R68). -/
structure Hold where
  first : Nat
  out : Option Nat := none
  lock : Option Nat := none
  deriving DecidableEq, Repr

/-- One region timebase outside its registers (R51-R71, R449). -/
structure Region where
  copy : BitVec 48 := 0
  goodRun : Nat := 0
  badRun : Nat := 0
  acquiredAt : Nat := 0
  /-- It has been LOCKED since the commit: its next LOCKED is a return (R415). -/
  wasLocked : Bool := false
  /-- Its hold-overs, newest first (R68). -/
  holds : List Hold := []
  holdSince : Nat := 0
  boundHeld : Nat := 0
  /-- The temperature monitor code at entry and its largest excursion since, in 1/128 K (R69, R420). -/
  tempEntry : Int := 0
  dtMax : Nat := 0
  /-- The number of starts from which a load clears REALIGN_NEEDED (R71). -/
  realignFrom : Nat := 0
  /-- No phase comparison has succeeded since the loss of lock (R71). -/
  retry : Bool := false
  frozenTrim : Int := 0
  lastTrim : Int := 0
  prevTrim : Int := 0
  /-- The PHASE_ERR kept as set-point while REALIGN_NEEDED (R71, R449). -/
  keptOffset : Option Int := none
  deriving DecidableEq, Repr

/-- A hit in progress in a cell (R104-R113). -/
structure Hit where
  coarse : BitVec 48
  raw : BitVec 13
  /-- The corrected stamp, once its interpolation has completed. -/
  stamp : Option (BitVec 61) := none
  pileup : Bool := false
  /-- The time over threshold and saturation, once the hit is complete in TIMING (R112). -/
  tot : Option (Nat × Bool) := none
  full : Bool := false
  /-- The stop may be recorded: the node recorded, or awaited its load, when the edge came, and its stamp has not been judged
otherwise (R61, R65, R141). -/
  live : Bool := false
  /-- Its edge came in Frost, and the node recorded stops: its word is dropped and counted when it is formed (R141). -/
  frost : Bool := false
  /-- A discharge made its edge: SAT is 1 (R519). -/
  struck : Bool := false
  /-- It came while the node awaited its load, which has not come since (R65). -/
  early : Bool := false
  /-- The fragment it belongs to, once its stamp is judged, and the tick COARSE_LO counts from (R63, R155). -/
  key : Option MergeKey := none
  base : BitVec 48 := 0
  deriving DecidableEq, Repr

/-- A hit word in a derandomiser, with the full stamp the arbiters compare (R30, R144). -/
structure HitWord where
  word : Word
  stamp : BitVec 61
  key : MergeKey
  deriving DecidableEq, Repr

/-- A sampler's staging register (R322): the code word of segment memory that it collects, the bytes collected, and its eight
containers under the code. -/
structure Staging where
  addr : Nat
  mask : BitVec 16 := 0
  cw : BitVec 152 := 0
  deriving DecidableEq, Repr

/-- One cell outside its registers and configuration. -/
structure Cell where
  hits : List Hit := []
  /-- The last edge that started a hit, in fine LSB of `State.ticks` (R104). -/
  lastEdge : Option Nat := none
  derand : List HitWord := []
  downCount : Nat := 0
  /-- The current sample's window contains a range switch (R93, R94). -/
  switched : Bool := false
  /-- The tick in which the cell entered the mode in which it still settles (R114). -/
  settling : Option Nat := none
  /-- The tick of the last discharge that struck its input (R519). -/
  struck : Option Nat := none
  staging : Option Staging := none
  /-- The last sample converted (R105). -/
  lastConv : Option Nat := none
  /-- The two INL copies, entries 0-63 (R76). -/
  tableA : Tab Int := []
  tableB : Tab Int := []
  activeB : Bool := false
  calTotal : Nat := 0
  /-- Interpolations by segment of their raw code: N_below(s) is the sum below s (R77). -/
  calSeg : Tab Nat := []
  rejectRun : Nat := 0
  /-- Stops kept in the window whose start came in tick `winAt` (R62). -/
  winCount : Nat := 0
  winAt : Option Nat := none
  /-- The last sample of the previous hit's Q window (R109). -/
  lastWindowEnd : Option Nat := none
  /-- Sample intervals in CELL_MODE FULL, newest first (R135). -/
  full : List (Nat × Option Nat) := []
  deriving DecidableEq, Repr

/-- A page of a block's segment memory (R126): the fillings of it that still show, newest first, each with its first sample and the
containers that it has written from the page's start; and the records that hold the page. -/
structure Page where
  gens : List (Nat × Nat) := []
  holders : List Nat := []
  deriving DecidableEq, Repr

/-- An accepted trigger of a block, or its empty TOO_LATE result (R131, R132). -/
structure Rec where
  id : Nat
  src : BitVec 3
  cells : BitVec 16
  key : MergeKey
  trigTime : BitVec 61
  t0 : Nat
  first : Nat
  last : Nat
  preShort : Bool := false
  complete : Bool := false
  read : Bool := false
  /-- The sample at which it was accepted (R130). -/
  accepted : Nat := 0
  /-- Mask points that ACQ_MASK_WRITE has replaced since, as they stood at the acceptance: point, LOWER, UPPER (R404). -/
  points : List (Nat × Nat × Nat) := []
  deriving DecidableEq, Repr

/-- A unit that travels as one through the arbiters: a hit word or a whole record (R136). -/
structure Unit' where
  key : MergeKey
  stamp : BitVec 61
  cell : Nat
  words : List PWord
  isRecord : Bool
  deriving DecidableEq, Repr

/-- One block outside its registers and configuration. -/
structure Block where
  sampling : Bool := false
  gap : Bool := false
  page : Option Nat := none
  pages : Tab Page := []
  /-- The histories, newest first: first sample, and last sample once it has ended (R127). -/
  runs : List (Nat × Option Nat) := []
  recs : List Rec := []
  /-- Unconsumed hit-starting edges: stamp and cell (R120). -/
  edges : List (BitVec 61 × Nat) := []
  /-- Records read and waiting for the block arbiter. -/
  records : List Unit' := []
  /-- The word or record granted toward the region (R30). -/
  head : Option Unit' := none
  /-- What the Frost notice names: cell, sample j, trigger time (R415). -/
  frost : Option (Nat × Nat × BitVec 61) := none
  /-- The page written last, from which the next free page is sought (R126). -/
  lastPage : Nat := 63
  deriving DecidableEq, Repr

/-- A tree trigger (R122). -/
structure TreeTrig where
  num : BitVec 32
  time : BitVec 61
  deriving DecidableEq, Repr

/-- Node trigger state (R121, R122, R284). -/
structure TrigSt where
  pending : List TreeTrig := []
  recent : List TreeTrig := []
  /-- The last accepted TRIG_IN edge, in fine LSB of `State.ticks` (R121). -/
  lastExt : Option Nat := none
  /-- The number of the next record. -/
  nextRec : Nat := 0
  deriving DecidableEq, Repr

/-- An origin fragment under construction (R157, R193, R530). -/
structure Frag where
  key : MergeKey
  trigTime : BitVec 61
  /-- It holds its first pool slot (R530). -/
  item : Option Nat := none
  opened : Bool := false
  dropped : Bool := false
  closed : Bool := false
  /-- Records of the trigger that the frame builder has not yet taken (R125). -/
  waiting : Nat := 0
  /-- The tick at which a START fragment closes (R193). -/
  closeAt : Option (BitVec 48) := none
  /-- The body words stored so far, and the items lost (R195). -/
  body : List PWord := []
  lost : Nat := 0
  holdover : Bool := false
  poison : Bool := false
  /-- The directory bank with which its hits were treated (R222). -/
  bank : Option Bool := none
  deriving DecidableEq, Repr

/-- A word in a port's input FIFO (R32), with the framing of its packet (R269). -/
structure FifoWord where
  word : PWord
  first : Bool
  last : Bool
  deriving DecidableEq, Repr

/-- Item classes (R184), highest priority first. -/
inductive Cls where
  | control | triggered | streaming | housekeeping | monitoring
  deriving DecidableEq, Repr

/-- An item in the shared pool (R180): its chain of slots, its queue and class, and which readers have begun and
finished it. -/
structure Item where
  id : Nat
  queue : Nat
  cls : Cls
  slots : List Nat
  /-- The words of an item under construction, in order; empty once it is complete. -/
  words : List PWord := []
  /-- The words a reader delivers, trailer included (ITEM_WORDS). -/
  length : Nat := 0
  /-- The reader generates the trailer of a merged fragment (R203). -/
  gen : Bool := false
  complete : Bool := false
  /-- Order of completion: the item's age (R184). -/
  age : Nat := 0
  begun : List Reader := []
  done : List Reader := []
  key : Option MergeKey := none
  trigFrame : Nat := 0
  /-- Held for the standby's retention (R297). -/
  retained : Bool := false
  /-- The queue that allocated each of its slots (R179). -/
  homes : List Nat := []
  /-- In OUTPUT where no reader reads it (R196). -/
  hidden : Bool := false
  /-- The port it came in on, none for the node's own. -/
  src : Option Nat := none
  /-- Of a merged fragment: the run in which it was merged, as `TimeSt.starts` numbers runs (R297, R299). -/
  run : Nat := 0
  /-- The pair port's view of an own-cell fragment (R206): it owns no slot, its words stand in these slots of the item
  `holder`. -/
  view : List Nat := []
  holder : Option Nat := none
  /-- What the header of a complete fragment says, and the bank with which this node corrected it (R161, R203). -/
  bank : Option Bool := none
  /-- Words that each reader's link has had acknowledged, and whether slots of them are free already (R205). -/
  acked : Tab Nat := []
  part : Bool := false
  freed : Nat := 0
  hold : Bool := false
  degr : Bool := false
  pois : Bool := false
  /-- TRIG_TIME, where its header word reads intact (R160). -/
  trigTime : Option (BitVec 61) := none
  deriving DecidableEq, Repr

/-- An item being assembled from a port (R190, R191): none while its words are discarded. -/
structure Asm where
  item : Option Nat := none
  active : Bool := false
  late : Bool := false
  ctx : Option MergeKey := none
  deriving DecidableEq, Repr

/-- What a merge expects of one child (R165). -/
inductive Child where
  | south (port : Nat)
  | own
  | partner
  deriving DecidableEq, Repr

/-- The state of an entry (R164, R197). -/
inductive EntryState where
  | waiting | storing | present | missing | lost
  deriving DecidableEq, Repr

structure Entry where
  node : BitVec 12
  child : Child
  st : EntryState := .waiting
  item : Option Nat := none
  words : Nat := 0
  /-- LOST because the formerly active member's link dropped the item (R306). -/
  lostByLink : Bool := false
  deriving DecidableEq, Repr

/-- A merge context (R196). -/
structure Ctx where
  key : MergeKey
  index : Nat
  deadline : BitVec 48
  entries : List Entry
  closing : Bool := false
  seq : Nat := 0
  deriving DecidableEq, Repr

/-- A reader of OUTPUT (R204): the item it delivers and how many words are sent. -/
structure Rd where
  item : Option Nat := none
  pos : Nat := 0
  /-- The words of the item, as read when it was begun. -/
  words : List PWord := []
  /-- Of the DMA engine: the item's ring, fixed as it is chosen, its class, and the bytes written since HEAD last advanced (R349, R351). -/
  ring : Nat := 0
  cls : Cls := .control
  written : Nat := 0
  deriving DecidableEq, Repr

/-- The shared pool and the merge (R178-R212). -/
structure PoolSt where
  items : List Item := []
  nextItem : Nat := 0
  nextAge : Nat := 0
  bankPtr : Nat := 0
  /-- Slots of reset queues that no reclaim pass has freed (R186). -/
  orphans : List Nat := []
  ctxs : List Ctx := []
  nextCtx : Nat := 0
  lastClosed : Option (BitVec 32) := none
  /-- The last 4,096 event contexts to close, with the NODE_IDs of their PRESENT entries (R200, R306). -/
  closedEvents : List (MergeKey × List (BitVec 12)) := []
  /-- The 16 frames whose contexts closed last, newest first, each with its run (R297). -/
  closedFrames : List (Nat × BitVec 32) := []
  /-- Own fragments lost before a context of their key has opened, newest first (R530). -/
  ownLost : List MergeKey := []
  asms : Tab Asm := []
  /-- Fragments whose trailer has been written and whose rewrite of R191 is due, oldest first. -/
  toComplete : List Nat := []
  arbPos : Nat := 0
  /-- THROTTLE_AGG as last signalled (R209-R211). -/
  agg : Bool := false
  /-- Bytes compressed and written that do not yet make a KiB (R255). -/
  rawRem : Nat := 0
  outRem : Nat := 0
  regFifo : Tab (List Unit') := []
  /-- Words of each region FIFO's first unit already granted, and of its last unit not yet come in (R32). -/
  regDone : Tab Nat := []
  regMore : Tab Nat := []
  frags : List Frag := []
  /-- The frame whose origin fragment closed last since the load (R193). -/
  frameDone : Option (BitVec 32) := none
  readers : Tab Rd := []
  /-- By ring: the item that waits in it, begun (R207). -/
  parked : Tab Rd := []
  /-- Items that one north port has chosen and the other has not, in the order of the choice (R35). -/
  north : List (Reader × Nat) := []
  /-- Items that wait for a slot until a bank's test ends: queue, class, words (R312). -/
  held : List (Nat × Cls × List PWord) := []
  reclaimDue : Bool := false
  lastThrottle : Nat := 0
  excludedBank : Option Nat := none
  deriving DecidableEq, Repr

/-- The directory outside its registers and its two banks (R225-R230, R315). -/
structure DirSt where
  /-- The entries written into the shadow by images that did not fail: first entry and count of each (R226). -/
  good : List (Nat × Nat) := []
  /-- The partner's helper copies the active bank (R314), and the entries written meanwhile. -/
  copying : Bool := false
  copyWrites : List (Nat × Word) := []
  deriving DecidableEq, Repr

/-- A control-channel message (R281). -/
structure CtlMsg where
  mtype : BitVec 8
  target : BitVec 12
  stamp : BitVec 32
  payload : List Word
  /-- Its poisoned words: the header is word 0 (R272). -/
  bad : List Nat
  deriving DecidableEq, Repr

/-- A message with no poisoned word. -/
def CtlMsg.of (mtype : BitVec 8) (target : BitVec 12) (stamp : BitVec 32) (payload : List Word) : CtlMsg :=
  ⟨mtype, target, stamp, payload, []⟩

/-- A packet sent and not acknowledged (R276). -/
structure TxPkt where
  seq : BitVec 16
  first : Bool
  last : Bool
  words : List PWord
  item : Option Nat
  /-- The tick at which it was last sent, and last resent. -/
  sentAt : Nat := 0
  resent : Option Nat := none
  deriving DecidableEq, Repr

/-- One direction pair of a channel of a port (R274-R279). -/
structure Chan where
  txSeq : BitVec 16 := 0
  rxSeq : BitVec 16 := 0
  unacked : List TxPkt := []
  replay : List TxPkt := []
  sent : BitVec 16 := 0
  credit : Option (BitVec 16) := none
  /-- The credit limit this receiver reports (R278). -/
  limit : BitVec 16 := 0
  nakSent : Bool := false
  deriving DecidableEq, Repr

/-- An Ocnis Link port outside its registers (R264-R280). -/
structure Port where
  lock : BitVec 2 := 0
  ready : BitVec 2 := 0
  waiting : Bool := false
  farA : Option CfgA := none
  farLastInc : Option (BitVec 8) := none
  data : Chan := {}
  ctl : Chan := {}
  ctlQueue : List CtlMsg := []
  ctlIn : List CtlMsg := []
  fifo : List FifoWord := []
  /-- The place of the input FIFO's oldest word among its 512 (R32). -/
  fifoAt : Nat := 0
  rxOpen : Bool := false
  aseq : BitVec 16 := 0
  replays : Nat := 0
  /-- The item in arrival is discarded at the port (R273, R306, R464, R531). -/
  rxDrop : Bool := false
  deriving DecidableEq, Repr

/-- The arbiter of a child pair, kept at one of its south ports (R302-R305). -/
structure Arb where
  lastHb : Option Nat := none
  hbFail : Bool := false
  storm : Bool := false
  ackFrame : Option (BitVec 32) := none
  deriving DecidableEq, Repr

/-- Redundant-pair state outside the registers (R297-R315). -/
structure PairSt where
  /-- HB_SEQ (R299), of which PAIR_HB of the status area holds a copy (R356). -/
  hbSeq : BitVec 16 := 0
  epoch : BitVec 16 := 0
  hbArmed : Bool := false
  healthOut : Bool := false
  failCause : BitVec 4 := 0
  /-- The 16 newest sealed signatures, newest first (R310). -/
  sigs : List (BitVec 32 × BitVec 32) := []
  /-- Trailer CRCs of merged fragments closed and not sealed: frame and XOR so far. -/
  sigOpen : List (BitVec 32 × BitVec 32) := []
  lastCompared : Option (BitVec 32) := none
  agreeRun : Nat := 0
  sigBadRun : BitVec 8 := 0
  mismatchRecent : Bool := false
  partnerHb : Option (Word × Word) := none
  partnerHealth : Word := 0
  /-- The newest merged frame sent to the end, with its run (R299). -/
  outFrame : Option (Nat × BitVec 32) := none
  heldImage : Option (List Byte) := none
  /-- The image of this member that its partner sent before the member was UNCONFIGURED (R314). -/
  ownImage : Option (List Byte) := none
  resyncStep : Nat := 0
  joinFrame : Option (BitVec 32) := none
  queueResets : List Nat := []
  grantIn : Bool := false
  arbs : Tab Arb := []
  /-- The other port of each south port that belongs to a recognised child pair (R298). -/
  mates : Tab (Option Nat) := []
  /-- A standby memory BIST has failed (R300, R312). -/
  bistFailed : Bool := false
  deriving DecidableEq, Repr

/-- An entry of a merge buffer (R328): its code word, which bytes are written, their values. -/
structure MbEntry where
  addr : Nat
  mask : BitVec 16
  data : BitVec 128
  deriving DecidableEq, Repr

/-- One memory (R318-R332): its code words (152 raw bits each) and its protection state. -/
structure Mem where
  cells : Tab (BitVec 152) := []
  buffer : List MbEntry := []
  scrubAt : Nat := 0
  lapStart : Nat := 0
  overdue : Bool := false
  armed : Bool := true
  leakAt : Nat := 0
  /-- Code words classified UE whose conditional rewrite is due (R324). -/
  ueSeen : List Nat := []
  noticeCauses : BitVec 3 := 0
  noticeAt : Option Nat := none
  deriving DecidableEq, Repr

/-- Three copies of a triplicated word (R333). -/
structure Tri where
  a : BitVec 80 := 0
  b : BitVec 80 := 0
  c : BitVec 80 := 0
  deriving DecidableEq, Repr

/-- Memory protection state shared by the memories (R333-R337). -/
structure ProtSt where
  tri : Tab Tri := []
  /-- The error log: words 0 and 1 of each slot (R334). -/
  log : Tab (Word × Word) := []
  /-- The 8 newest entries' macros with the tick of each, newest first (R335). -/
  recent : List (Nat × Nat) := []
  logTimes : Tab Nat := []
  suppressed : Tab Nat := []
  pages : List (Nat × Nat) := []
  banks : List (Nat × Nat) := []
  /-- Code words of the retirement map whose units stay withheld until the next power-on (R326). -/
  withheld : List Nat := []
  deriving DecidableEq, Repr

/-- What the host has done to a ring that R360 calls unpredictable: BASE not aligned; BASE, WB_ADDR or SIZE_LOG2 written while EN = 1; a
TAIL that is not in order. The last two last until EN rises again. -/
structure RingOdd where
  base : Bool := false
  moved : Bool := false
  tail : Bool := false
  deriving DecidableEq, Repr

/-- The PCI Express host interface outside the status area (R341-R360). -/
structure HostSt where
  /-- BAR0 registers by offset: rings, RING_ROUTE, doorbells, occurrence counters, MSI-X table. -/
  bar0 : Tab W32 := []
  pba : BitVec 64 := 0
  linkUp : Bool := false
  d3hot : Bool := false
  busMaster : Bool := false
  wbCount : Tab (BitVec 32) := []
  wbDue : Tab Bool := []
  lastSignal : Tab (Option Nat) := []
  holdPending : Tab Bool := []
  ptmMaster : BitVec 64 := 0
  ptmStamp : BitVec 61 := 0
  odd : Tab RingOdd := []
  /-- What the host has programmed in configuration space (R342). -/
  control : PcieControl := {}
  deriving DecidableEq, Repr

/-- A message in an inbound mailbox that firmware has taken (R382). -/
structure Msg where
  mbox : Nat
  stamp : BitVec 32
  opcode : BitVec 16
  tag : BitVec 16
  length : Nat
  target : BitVec 12
  quiet : Bool
  args : List Byte
  deriving DecidableEq, Repr

/-- A step of a hop (R374). -/
inductive HopState where
  | lockWait | sent | acked | release
  deriving DecidableEq, Repr

/-- A message being forwarded (R374). -/
structure Hop where
  mbox : Nat
  port : Nat
  stamp : BitVec 32
  bytes : List Byte
  st : HopState := .lockWait
  /-- The words of the MBOX_MSG that go out poisoned, numbered as in `CtlMsg.bad`. -/
  bad : List Nat := []
  /-- The message in the own mailbox completes with this hop: not so for a chunk of a stream that others follow (R398). -/
  fin : Bool := true
  deriving DecidableEq, Repr

/-- Mailboxes outside their memory and registers (R361-R378). -/
structure MboxSt where
  order : List Nat := []
  inDoorbell : BitVec 32 := 0
  outDoorbell : BitVec 32 := 0
  /-- The port each posted MBOX_MSG arrived on. -/
  arrival : Tab (Option Nat) := []
  hops : List Hop := []
  /-- Mailboxes whose TAKEN message is to be carried out again from its start (R379). -/
  redo : List Nat := []
  /-- Answers that firmware owes to messages that were not taken while it was stopped, oldest first: mailbox, stamp, OPCODE, TAG and STATUS
  (R373, R375). -/
  owed : List (Nat × W32 × Nat × Nat × Nat) := []
  deriving DecidableEq, Repr

/-- An image transfer (R397): its owner, the stream bytes received, and the directory entries and images already written. -/
structure Xfer where
  owner : BitVec 32
  stream : List Byte := []
  taken : Nat := 0
  images : Nat := 0
  fromUnconfigured : Bool := false
  deriving DecidableEq, Repr

/-- What firmware waits for in a command that it has begun (R388). -/
inductive FwWait where
  /-- A host buffer (R344): the bytes that have come, those not yet forwarded to another node, and the bytes that each request still has to
  bring, with the tick in which it left. -/
  | hostRead (got : Nat) (rest : List Byte) (requests : List (Nat × Nat))
  | acqStop
  | thaw
  | bistLogic
  | bistMem
  /-- A memory BIST that waits for the idle test to end (R485). -/
  | bistIdle
  | enumReply
  | relay
  deriving DecidableEq, Repr

/-- A node that enumeration has numbered (R466). -/
structure EnumNode where
  id : Nat
  level : Nat
  parent : Nat
  port : Nat
  /-- Member B of a pair: its children are those of member A. -/
  pairB : Bool := false
  southUp : Nat := 0
  southPair : Nat := 0
  deriving DecidableEq, Repr

/-- An assignment that enumeration has to make: a child of `parent` on `port`, alone (0), as member A (1) or as member B (2) of
a pair. -/
structure EnumJob where
  parent : Nat
  port : Nat
  member : Nat
  deriving DecidableEq, Repr

/-- A request of the firmware that waits for its reply: the port it left on, its TAG and when it was sent. -/
structure Ask where
  port : Nat
  tag : BitVec 16
  sentAt : Nat
  deriving DecidableEq, Repr

/-- Enumeration in progress at the root (R466-R469). -/
structure EnumSt where
  nodes : List EnumNode := []
  work : List EnumJob := []
  ask : Option (EnumJob × Ask) := none
  /-- The NODE_ID that the next child takes. -/
  next : Nat := 1
  level : Nat := 0
  pairs : Nat := 0
  /-- Member A of the pair in hand was numbered. -/
  mateOk : Bool := false
  fault : Nat := 0
  faultNode : Nat := 0
  deriving DecidableEq, Repr

/-- The Idsan firmware's state (R327, R388, R396-R415). -/
structure FwSt where
  cur : Option Msg := none
  waits : List (Msg × FwWait) := []
  cfg : Option Xfer := none
  dir : Option Xfer := none
  patch : Option Xfer := none
  /-- Transfers that failed, by their opcode and owner, until that owner opens one of the kind (R399). -/
  failed : List (BitVec 16 × BitVec 32) := []
  /-- The complete staged configuration image: its decoded bytes, the unstaged images included (R400). -/
  staged : Option (List Byte) := none
  stagedPatch : Option (List Byte) := none
  patchInForce : Option (List Byte) := none
  restart : Option (BitVec 8) := none
  poisonRestarts : List Nat := []
  /-- Code words of the retirement map for which firmware holds no valid record (R326, R336). -/
  noRecord : List Nat := []
  enum : EnumSt := {}
  /-- The ENUM_ASSIGN that an ENUM_RELAY has sent on (R407). -/
  relay : Option Ask := none
  nextTag : BitVec 16 := 0
  /-- The newest reply to a message of its own that firmware has taken (R376). -/
  reply : Option (List Byte) := none
  deriving DecidableEq, Repr

/-- A housekeeping converter's pass (R418-R422): the last step it took, when it began, and its power mode. -/
structure Conv where
  started : Bool := false
  lastStep : Nat := 0
  passStart : Nat := 0
  low : Bool := false
  /-- It has taken a reference sample since the last commit or change of power mode (R421). -/
  refTaken : Bool := false
  deriving DecidableEq, Repr

/-- A sensor port and its ILK output (R423-R433): conversions since commit, the excitation that the port has driven in its last conversion
(in 10 mV, in order, 0 where it was removed), the period and high time on the pin, and the value that the next period takes. -/
structure Sxp where
  conv : Nat := 0
  exc : List Int := []
  diagDue : Bool := false
  period : Nat := 0
  high : Nat := 0
  next : Option (Nat × Nat) := none
  deriving DecidableEq, Repr

/-- Housekeeping (R416-R435). Each word of the FIFO stands with the tick at which it entered. -/
structure HkSt where
  conv : Tab Conv := []
  fifo : List (Word × Nat) := []
  sxp : Tab Sxp := []
  /-- The power mode that each converter takes at its next pass. -/
  lowNext : Bool := false
  /-- Privileged passes begun since entry to LINKUP (R420). -/
  privPass : Nat := 0
  deriving DecidableEq, Repr

/-- A loop of the loop engine outside its registers (R441-R449): I, the last measurement and SP_CUR as mantissas, and the output in
units of 2^(-160). -/
structure Loop where
  i : Int := 0
  mqPrev : Option Int := none
  sp : Int := 0
  /-- A Spring ramp starts with the next evaluation (R445). -/
  ramp : Bool := false
  /-- I takes the output in force at the next evaluation (R447, R449). -/
  bumpless : Bool := false
  out : Int := 0
  /-- A new result of the source has come (R438). -/
  due : Bool := false
  /-- Evaluations since commit. -/
  evals : Nat := 0
  deriving DecidableEq, Repr

/-- The loop engine (R438-R451). Each word of the telemetry FIFO stands with the tick at which it entered. -/
structure LoopSt where
  loops : Tab Loop := []
  telFifo : List (Word × Nat) := []
  /-- The code that drives each BIASCTL output (R450). -/
  biasCode : Tab (BitVec 16) := []
  /-- When the last pacing event came. -/
  lastPace : Option Nat := none
  deriving DecidableEq, Repr

/-- BIST in progress (R480-R485): the partition of a logic BIST; memory, group and whether it is the idle test of a memory BIST.
The test access port (R492-R495): the level of TRST_N, low where the pin is unconnected; the instruction and the boundary register as last
updated; the levels that the boundary register's observe-only cells 0-8 have captured. -/
structure TestSt where
  logic : Option (BitVec 8) := none
  mem : Option (Nat × Nat × Bool) := none
  trstN : Bool := false
  ir : BitVec 8 := 1
  boundary : BitVec 29 := 0
  pins : BitVec 9 := 0
  deriving DecidableEq, Repr

/-- What the node sends to the outside world, newest first in `State.out`. -/
inductive Out where
  | msix (vector : Nat)
  | linkWord (port : Nat) (lane : Nat) (word : Word)
  /-- The header stands on `lane`; where the far receiver takes two lanes, the words behind it alternate between them (R261). -/
  | packet (port : Nat) (lane : Nat) (header : Word) (payload : List Word) (trailer : Word)
  /-- A DMA write or head write-back of `length` bytes: its address form is the 64-bit one where `wide`, and `relaxed` is the Relaxed Ordering
  attribute (R343, R346). The data stands in `hostMem`. -/
  | memWrite (addr : Nat) (length : Nat) (wide relaxed : Bool)
  /-- Configuration Request Retry Status (R341). -/
  | configRetry
  | barRead (data : List Byte) (poisoned : List Bool)
  | unsupported
  | hostRead (addr : Nat) (length : Nat)
  | poisonedTlp
  /-- A configuration image sent over P: the receiver's own that this node held, or the one this node has committed (R313, R314). -/
  | configImage (ofPartner : Bool) (image : List Byte)
  /-- DIR_WRITEs of the active bank repeated at the partner once the copy has ended (R315). -/
  | dirWrites (bankB : Bool) (writes : List (Nat × Word))
  | lockValue (value : BitVec 32)
  deriving DecidableEq, Repr

/-- The node. -/
structure State where
  pending : List Instr := []
  /-- The model's own field: how many free values have been drawn (assumption 4). -/
  free : Nat := 0
  /-- Coarse ticks counted since power-on (assumption 6). -/
  ticks : Nat := 0
  /-- What the node has sent to the outside world, newest first (assumption 7). -/
  out : List Out := []
  /-- Host memory as the node has written it, by 8-byte word (assumption 7). -/
  hostMem : Tab Word := []
  /-- Straps as last sampled (R1, R294), with their register copies in triplicated storage. -/
  node : NodeSt := {}
  /-- The registers of the BAR2 layout by byte offset (R357, R390). -/
  regs : Tab W32 := []
  /-- The configuration in force: packed records by key (R472). -/
  cfg : Tab Nat := []
  time : TimeSt := {}
  regions : Tab Region := []
  cells : Tab Cell := []
  blocks : Tab Block := []
  trig : TrigSt := {}
  pool : PoolSt := {}
  dir : DirSt := {}
  ports : Tab Port := []
  pair : PairSt := {}
  mems : Tab Mem := []
  prot : ProtSt := {}
  host : HostSt := {}
  mbox : MboxSt := {}
  fw : FwSt := {}
  hk : HkSt := {}
  loop : LoopSt := {}
  test : TestSt := {}
  deriving DecidableEq, Repr

/-- The reasons a command stops the model. -/
inductive Fault where
  /-- Raised by nothing: an unpredictable result (R18, R360) is a free value, and the node goes on (assumption 12). -/
  | unpredictable
  deriving DecidableEq, Repr

/-- The reasons a command is refused by the model. -/
inductive Refusal where
  /-- Raised by an arm of `exec` whose command has no meaning yet. Safe. -/
  | notModelled (mnemonic : String)
  deriving DecidableEq, Repr

/-- The node before its first power-on: state OFF, every register at its reset value, every queue empty
(R356: NODE_STATE resets to 0x0, which is OFF in R455; assumption 5). -/
def State.reset : State := {}

end Sys2Proof.Machine
end

