-- ==== Sys2Proof/Machine/Codes.lean ====
section
/-! DEFINITION. The codes of the spec as pure functions: byte order (R14), CRC-32C (R162), CRC-8 (R260), the memory code
over GF(2^8) (R318, R319) and the time-stamp arithmetic (R59, R74). -/

namespace Sys2Proof.Machine

/-- The `n` little-endian bytes of a value (R14). -/
def leBytes : Nat → Nat → List Byte
  | 0, _ => []
  | n + 1, v => BitVec.ofNat 8 v :: leBytes n (v / 256)

/-- The value of little-endian bytes (R14). -/
def leVal : List Byte → Nat
  | [] => 0
  | b :: l => b.toNat + 256 * leVal l

/-- The bytes of a list from `off`, `n` of them; bytes that are not there read 0. -/
def bytesAt (l : List Byte) (off n : Nat) : List Byte :=
  let t := (l.drop off).take n
  t ++ List.replicate (n - t.length) 0

/-- The little-endian value of `n` bytes at an offset. -/
def leAt (l : List Byte) (off n : Nat) : Nat := leVal (bytesAt l off n)

/-- The bytes of 64-bit words in stream order (R14). -/
def wordsBytes (l : List Word) : List Byte := l.flatMap fun w => leBytes 8 w.toNat

/-- Bytes gathered into 64-bit words, zero-padded to a whole word. The first argument bounds the count. -/
def bytesWordsN : Nat → List Byte → List Word
  | 0, _ => []
  | n + 1, l => if l.isEmpty then [] else BitVec.ofNat 64 (leVal (l.take 8)) :: bytesWordsN n (l.drop 8)

def bytesWords (l : List Byte) : List Word := bytesWordsN ((l.length + 7) / 8) l

/-- One bit of a reflected CRC-32C register (polynomial 0x1EDC_6F41 reflected is 0x82F6_3B78). -/
def crc32cBit (c : W32) : W32 := if c.getLsbD 0 then (c >>> 1) ^^^ 0x82F63B78 else c >>> 1

/-- The CRC-32C register after one more byte. -/
def crc32cByte (c : W32) (b : Byte) : W32 :=
  let x := c ^^^ (b.zeroExtend 32)
  crc32cBit (crc32cBit (crc32cBit (crc32cBit (crc32cBit (crc32cBit (crc32cBit (crc32cBit x)))))))

/-- CRC-32C of R162: initial value and final XOR 0xFFFF_FFFF. -/
def crc32c (l : List Byte) : W32 := (l.foldl crc32cByte 0xFFFFFFFF) ^^^ 0xFFFFFFFF

/-- CRC-32C over words in byte order. -/
def crcWords (l : List Word) : W32 := crc32c (wordsBytes l)

/-- One bit of the CRC-8 of R260 (polynomial 0x07, not reflected). -/
def crc8Bit (c : Byte) : Byte := if c.getLsbD 7 then (c <<< 1) ^^^ 0x07 else c <<< 1

def crc8Byte (c b : Byte) : Byte :=
  crc8Bit (crc8Bit (crc8Bit (crc8Bit (crc8Bit (crc8Bit (crc8Bit (crc8Bit (c ^^^ b))))))))

/-- CRC-8 of R260 over bytes in the order given. -/
def crc8 (l : List Byte) : Byte := l.foldl crc8Byte 0

/-- CRC-8 over bits [63:8] of a link word, from bits [63:56] down. -/
def linkCrc (w : Word) : Byte :=
  crc8 ((List.range 7).map fun i => BitVec.ofNat 8 (w.toNat >>> (56 - 8 * i)))

/-- A link word with its CRC-8 in bits [7:0]. -/
def withLinkCrc (w : Word) : Word := (w &&& ~~~(0xFF : Word)) ||| (linkCrc w).zeroExtend 64

/-- The word's CRC-8 holds. -/
def linkCrcOk (w : Word) : Bool := BitVec.ofNat 8 w.toNat = linkCrc w

/-- The signature of memory BIST takes a mismatch vector, 4 bytes little-endian, by the reflected polynomial without a final XOR (R483). -/
def mbistCrc (crc : W32) (v : BitVec 19) : W32 :=
  ([0, 8, 16, 24].map fun k => BitVec.ofNat 8 (v.toNat / 2 ^ k)).foldl crc32cByte crc

/-! ## The memory code (R318, R319) -/

/-- Multiplication by α = 0x02 in GF(2^8) with x^8 + x^4 + x^3 + x^2 + 1. -/
def gfDouble (a : Byte) : Byte := if a.getLsbD 7 then (a <<< 1) ^^^ 0x1D else a <<< 1

/-- The product of two field elements, over the low `n` bits of the second. -/
def gfMulN : Nat → Byte → Byte → Byte
  | 0, _, _ => 0
  | n + 1, a, b => (if b.getLsbD 0 then a else 0) ^^^ gfMulN n (gfDouble a) (b >>> 1)

def gfMul (a b : Byte) : Byte := gfMulN 8 a b

/-- α^n. -/
def gfPow : Nat → Byte
  | 0 => 1
  | n + 1 => gfDouble (gfPow n)

/-- Symbol `j` of a code word: 0-2 the check symbols, 3-18 the data bytes. -/
def symbol (c : BitVec 152) (j : Nat) : Byte := BitVec.ofNat 8 (c.toNat >>> (8 * j))

/-- The syndrome S_k (R318). -/
def syndrome (c : BitVec 152) (k : Nat) : Byte :=
  (List.range 19).foldl (fun a j => a ^^^ gfMul (symbol c j) (gfPow (k * j))) 0

/-- The 128 data bits of a code word. -/
def cwData (c : BitVec 152) : BitVec 128 := BitVec.ofNat 128 (c.toNat >>> 24)

/-- The check symbols c_0, c_1, c_2 with c_0 + c_1 α^k + c_2 α^(2k) = t_k for k = 0, 1, 2, by Lagrange's formula in the
nodes 1, α = 2 and α² = 4. -/
def solveChecks (t0 t1 t2 : Byte) : Byte × Byte × Byte :=
  let d0 := gfMul (1 ^^^ 2) (1 ^^^ 4)
  let d1 := gfMul (2 ^^^ 1) (2 ^^^ 4)
  let d2 := gfMul (4 ^^^ 1) (4 ^^^ 2)
  let num (p q : Byte) := t2 ^^^ gfMul (p ^^^ q) t1 ^^^ gfMul (gfMul p q) t0
  let inv (x : Byte) := -- x^254
    let x2 := gfMul x x
    let x4 := gfMul x2 x2
    let x8 := gfMul x4 x4
    let x16 := gfMul x8 x8
    let x32 := gfMul x16 x16
    let x64 := gfMul x32 x32
    let x128 := gfMul x64 x64
    gfMul x2 (gfMul x4 (gfMul x8 (gfMul x16 (gfMul x32 (gfMul x64 x128)))))
  (gfMul (num 2 4) (inv d0), gfMul (num 1 4) (inv d1), gfMul (num 1 2) (inv d2))

/-- The code word with the given data whose syndromes are (p_0, p_1, p_2). -/
def encodeSyn (d : BitVec 128) (p0 p1 p2 : Byte) : BitVec 152 :=
  let base : BitVec 152 := BitVec.ofNat 152 (d.toNat <<< 24)
  let (c0, c1, c2) := solveChecks (syndrome base 0 ^^^ p0) (syndrome base 1 ^^^ p1) (syndrome base 2 ^^^ p2)
  BitVec.ofNat 152 (d.toNat <<< 24 + c2.toNat <<< 16 + c1.toNat <<< 8 + c0.toNat)

/-- The code word of data (R318). -/
def encodeCw (d : BitVec 128) : BitVec 152 := encodeSyn d 0 0 0

/-- The poison pattern (R323): data symbols 0xEE, syndrome POISON_SYN = (0x00, 0x01, 0x00). -/
def poisonCw : BitVec 152 := encodeSyn 0xEEEEEEEEEEEEEEEEEEEEEEEEEEEEEEEE 0 1 0

/-- The classes of R319, with the corrected symbol and S_0 of a correctable error. -/
inductive CwClass where
  | clean
  | poison
  | ce (sym : Nat) (value : Byte)
  | poisonCe (sym : Nat) (value : Byte)
  | ue
  deriving DecidableEq, Repr

/-- The position j ≤ 18 with x = s0·α^j, if any. -/
def locate (s0 x : Byte) : Option Nat := (List.range 19).find? fun j => gfMul s0 (gfPow j) = x

/-- The class of a code word: the first row of R319 that applies. -/
def classify (c : BitVec 152) : CwClass :=
  let s0 := syndrome c 0
  let s1 := syndrome c 1
  let s2 := syndrome c 2
  let p1 := s1 ^^^ 1
  if s0 = 0 ∧ s1 = 0 ∧ s2 = 0 then .clean
  else if s0 = 0 ∧ s1 = 1 ∧ s2 = 0 then .poison
  else match (if s0 ≠ 0 ∧ gfMul s1 s1 = gfMul s0 s2 then locate s0 s1 else none) with
    | some j => .ce j s0
    | none =>
      match (if s0 ≠ 0 ∧ gfMul p1 p1 = gfMul s0 s2 then locate s0 p1 else none) with
      | some j => .poisonCe j s0
      | none => .ue

/-- The code word with symbol `j` changed by `v`. -/
def flipSymbol (c : BitVec 152) (j : Nat) (v : Byte) : BitVec 152 := c ^^^ BitVec.ofNat 152 (v.toNat <<< (8 * j))

/-! ## Time stamps -/

/-- The 61-bit stamp of a coarse count and a fine time (R59). -/
def mkStamp (c : BitVec 48) (f : BitVec 13) : BitVec 61 := BitVec.ofNat 61 (c.toNat * 8192 + f.toNat)

/-- The coarse count of a stamp. -/
def stampCoarse (t : BitVec 61) : BitVec 48 := BitVec.ofNat 48 (t.toNat / 8192)

/-- The fine time of a stamp. -/
def stampFine (t : BitVec 61) : BitVec 13 := BitVec.ofNat 13 t.toNat

/-- The corrected stamp of raw code `r` in tick `c` under an INL table (R74). -/
def inlCorrect (table : Tab Int) (c : BitVec 48) (r : BitVec 13) : BitVec 61 :=
  let s := r.toNat / 128
  let u : Int := r.toNat % 128
  let e (i : Nat) : Int := if i % 64 = 0 then 0 else Tab.get 0 table (i % 64)
  let c16 := e s + ((e (s + 1) - e s) * u + 64) / 128
  let t16 : Int := 16 * (r.toNat : Int) + c16 + 8
  let f := t16 / 16
  mkStamp (BitVec.ofInt 48 ((c.toNat : Int) + f / 8192)) (BitVec.ofInt 13 (f % 8192))

/-- Rounding of a quotient to nearest, ties away from zero (R77, R78). -/
def roundAway (n : Int) (d : Nat) : Int :=
  if 0 ≤ n then (2 * n + d) / (2 * d) else -((2 * (-n) + d) / (2 * d))

/-- Rounding of a quotient to nearest, ties to even (R431, R441, R450). -/
def roundEven (n : Int) (d : Nat) : Int :=
  let q := n / d
  let r := n % d
  if 2 * r < d then q else if (d : Int) < 2 * r then q + 1 else if q % 2 = 0 then q else q + 1

end Sys2Proof.Machine
end

