-- ==== Sys2Proof/Machine/Regs.lean ====
section
/-! DEFINITION. The register file: where each register of the spec's tables lies (R345, R347, R356, R357, R390), its
fields, reset values and access codes (R16), and the packed configuration records of R472 with their defaults. -/

namespace Sys2Proof.Machine

/-- A register field: the byte offset of its 32-bit word in the register space, its lowest bit and its width. -/
structure RF where
  off : Nat
  lo : Nat
  w : Nat
  deriving DecidableEq, Repr

/-- A flag with its occurrence counter (R486). -/
structure FlagF where
  flag : RF
  occ : RF
  deriving DecidableEq, Repr

/-- A configuration field: the key of its record, its lowest bit and its width (R472). -/
structure CF where
  key : Nat
  lo : Nat
  w : Nat
  deriving DecidableEq, Repr

/-- Bits `lo` to `lo + n - 1` of a word. -/
def fget (v : W32) (lo n : Nat) : Nat := (v.toNat >>> lo) % 2 ^ n

/-- The word with bits `lo` to `lo + n - 1` replaced by `x`. -/
def fset (v : W32) (lo n x : Nat) : W32 :=
  (v &&& ~~~(BitVec.ofNat 32 ((2 ^ n - 1) <<< lo))) ||| BitVec.ofNat 32 ((x % 2 ^ n) <<< lo)

/-- Bits `lo` to `lo + n - 1` of a record. -/
def nget (v lo n : Nat) : Nat := (v >>> lo) % 2 ^ n

/-- The record with bits `lo` to `lo + n - 1` replaced by `x`. -/
def nset (v lo n x : Nat) : Nat := v ^^^ (((nget v lo n) ^^^ (x % 2 ^ n)) <<< lo)

/-- The value of an `n`-bit two's complement number. -/
def signed (n v : Nat) : Int := if v % 2 ^ n < 2 ^ (n - 1) then (v % 2 ^ n : Nat) else (v % 2 ^ n : Nat) - (2 ^ n : Nat)

/-- The `n`-bit two's complement pattern of an integer. -/
def unsigned (n : Nat) (v : Int) : Nat := (v % (2 ^ n : Nat)).toNat

/-! ## Register fields -/

namespace R

-- Status area (R356, R478).
def ptmSeq : RF := ⟨0x20, 0, 32⟩
def ptmInterval : RF := ⟨0x24, 0, 8⟩
def diagMem : RF := ⟨0x40, 0, 2⟩
def diagWin : RF := ⟨0x40, 2, 3⟩
def barAccessErr : RF := ⟨0x0, 16, 16⟩
def hbSeq : RF := ⟨0x8, 0, 16⟩
def healthLo : RF := ⟨0x10, 0, 32⟩
def healthHi : RF := ⟨0x14, 0, 32⟩
def committed : RF := ⟨0x48, 0, 1⟩
def safeCause : RF := ⟨0x48, 1, 3⟩
def uncfgDiscard : RF := ⟨0x48, 16, 16⟩

-- Timebase (R83-R86).
def tbState (r : Nat) : RF := ⟨0x1000 + 4 * r, 0, 3⟩
def realign (r : Nat) : RF := ⟨0x1000 + 4 * r, 3, 1⟩
def calFrozen (r : Nat) : RF := ⟨0x1000 + 4 * r, 4, 1⟩
def lockLost (r : Nat) : FlagF := ⟨⟨0x1000 + 4 * r, 5, 1⟩, ⟨0x1000 + 4 * r, 8, 8⟩⟩
def phaseErr (r : Nat) : RF := ⟨0x1000 + 4 * r, 16, 16⟩
def refclkPresent : RF := ⟨0x1020, 0, 1⟩
def refclkLost : FlagF := ⟨⟨0x1020, 1, 1⟩, ⟨0x1020, 8, 8⟩⟩
def clkSource : RF := ⟨0x1020, 2, 1⟩
def recoveredPort : RF := ⟨0x1020, 3, 1⟩
def epochLoaded : RF := ⟨0x1020, 4, 1⟩
def coarseWrap : FlagF := ⟨⟨0x1020, 5, 1⟩, ⟨0x1020, 16, 8⟩⟩
def holdoverBound (r : Nat) : RF := ⟨0x1024 + 4 * r, 0, 32⟩
def epochLastLo : RF := ⟨0x1048, 0, 32⟩
def epochLastHi : RF := ⟨0x104C, 0, 29⟩
def refclkGap : RF := ⟨0x1050, 0, 16⟩
def startIgnored : RF := ⟨0x1050, 16, 16⟩
def coarseFix (r : Nat) : RF := ⟨0x1054 + 4 * r, 0, 16⟩

-- Node triggers (R149).
def treeQueueLost : RF := ⟨0x2000, 16, 16⟩
def extIgnored : RF := ⟨0x2004, 0, 16⟩
def treeIgnored : RF := ⟨0x2004, 16, 16⟩
def nextSelf : RF := ⟨0x2008, 0, 32⟩
def nextExt : RF := ⟨0x200C, 0, 32⟩

-- Pool and merge (R213, R214).
def throttleOwn : RF := ⟨0x3000, 18, 1⟩
def throttleEvent : FlagF := ⟨⟨0x3000, 20, 1⟩, ⟨0x3000, 24, 8⟩⟩
def queueReset : FlagF := ⟨⟨0x3000, 21, 1⟩, ⟨0x3004, 24, 8⟩⟩
def poolPeak : RF := ⟨0x3008, 0, 18⟩
def queueLost (q : Nat) : RF := ⟨0x3018 + 4 * q, 0, 32⟩
def mergeForced : RF := ⟨0x3020, 16, 16⟩
def mergeLost : RF := ⟨0x3024, 0, 32⟩
def childMissing (p : Nat) : RF := ⟨0x3028 + 4 * p, 0, 16⟩
def childLate (p : Nat) : RF := ⟨0x3028 + 4 * p, 16, 16⟩
def northSkipped (n1 : Bool) : RF := if n1 then ⟨0x3068, 16, 16⟩ else ⟨0x3068, 0, 16⟩
def hitAfterClose : RF := ⟨0x306C, 0, 16⟩
def pSkipped : RF := ⟨0x306C, 16, 16⟩
def southState (p : Nat) : RF := ⟨0x3070, p, 1⟩
def southStates : RF := ⟨0x3070, 0, 16⟩

-- Directory (R232).
def dirActive : RF := ⟨0x4000, 0, 1⟩
def shadowState : RF := ⟨0x4000, 1, 2⟩
def swapPending : RF := ⟨0x4000, 3, 1⟩
def swapDone : FlagF := ⟨⟨0x4000, 4, 1⟩, ⟨0x4000, 8, 8⟩⟩
def swapFrame : RF := ⟨0x4004, 0, 32⟩
def dirDead : RF := ⟨0x4008, 0, 16⟩
def dirQual : RF := ⟨0x4008, 16, 16⟩
def dirPoison : RF := ⟨0x400C, 0, 16⟩

-- Compression (R255).
def verifyFail : FlagF := ⟨⟨0x5000, 0, 1⟩, ⟨0x5000, 8, 8⟩⟩
def decFault : FlagF := ⟨⟨0x5000, 1, 1⟩, ⟨0x5000, 16, 8⟩⟩
def lastFault : RF := ⟨0x5000, 2, 3⟩
def decFaultPos : RF := ⟨0x5004, 0, 24⟩
def verifyFailCnt : RF := ⟨0x5008, 0, 16⟩
def storedCnt : RF := ⟨0x5008, 16, 16⟩
def rawKib : RF := ⟨0x500C, 0, 32⟩
def outKib : RF := ⟨0x5010, 0, 32⟩
/-- The counter of decompressor fault code `c` = 1-5, and 6 for DEC_POISON_IN_CNT. -/
def decCnt (c : Nat) : RF := ⟨0x5014 + 4 * ((c - 1) / 2), 16 * ((c - 1) % 2), 16⟩

-- Links (R291, R292).
def lstate (p : Nat) : RF := ⟨0x6000 + 0x10 * p, 0, 3⟩
def rate (p : Nat) : RF := ⟨0x6000 + 0x10 * p, 3, 2⟩
def txLanes (p : Nat) : RF := ⟨0x6000 + 0x10 * p, 5, 2⟩
def rxLanes (p : Nat) : RF := ⟨0x6000 + 0x10 * p, 7, 2⟩
def resumed (p : Nat) : RF := ⟨0x6000 + 0x10 * p, 9, 1⟩
def retrain (p : Nat) : FlagF := ⟨⟨0x6000 + 0x10 * p, 10, 1⟩, ⟨0x6000 + 0x10 * p, 16, 8⟩⟩
def markerMismatch (p : Nat) : FlagF := ⟨⟨0x6000 + 0x10 * p, 11, 1⟩, ⟨0x6000 + 0x10 * p, 24, 8⟩⟩
def crcErr (p : Nat) : RF := ⟨0x6004 + 0x10 * p, 0, 16⟩
def replayCnt (p : Nat) : RF := ⟨0x6004 + 0x10 * p, 16, 16⟩
def ctlBlockErr (p : Nat) : RF := ⟨0x6008 + 0x10 * p, 0, 16⟩
def protoErr (p : Nat) : RF := ⟨0x6008 + 0x10 * p, 16, 16⟩
def linkDiscard (p : Nat) : RF := ⟨0x600C + 0x10 * p, 0, 16⟩
def replays1ms (p : Nat) : RF := ⟨0x600C + 0x10 * p, 16, 16⟩
def trigDup : RF := ⟨0x6140, 0, 16⟩

-- Pairs (R316).
def paired : RF := ⟨0x7000, 0, 1⟩
def pairPos : RF := ⟨0x7000, 1, 1⟩
def active : RF := ⟨0x7000, 2, 1⟩
def fail : RF := ⟨0x7000, 4, 1⟩
def resync : RF := ⟨0x7000, 5, 1⟩
def switched : FlagF := ⟨⟨0x7000, 6, 1⟩, ⟨0x7000, 8, 8⟩⟩
def sigMismatch : FlagF := ⟨⟨0x7000, 7, 1⟩, ⟨0x7000, 16, 8⟩⟩
def pairIgnored : RF := ⟨0x7000, 29, 1⟩
def sigBad : RF := ⟨0x7004, 0, 16⟩
def switchGap : RF := ⟨0x7004, 16, 16⟩
def sigSkipped : RF := ⟨0x7008, 0, 16⟩
def arbGrant (p : Nat) : RF := ⟨0x7010 + 4 * p, 0, 2⟩
def pairMember (p : Nat) : RF := ⟨0x7010 + 4 * p, 2, 1⟩
def arbFailed (p : Nat) : RF := ⟨0x7010 + 4 * p, 3, 1⟩
def failEvent (p : Nat) : FlagF := ⟨⟨0x7010 + 4 * p, 4, 1⟩, ⟨0x7010 + 4 * p, 8, 8⟩⟩
def failReason (p : Nat) : RF := ⟨0x7010 + 4 * p, 5, 3⟩
def pairDup (p : Nat) : RF := ⟨0x7050 + 4 * p, 0, 16⟩
def grantEpoch (p : Nat) : RF := ⟨0x7050 + 4 * p, 16, 16⟩

-- Memory protection (R339).
def bucketOvf (m : Nat) : FlagF := ⟨⟨0x8000 + 0x40 * m, 0, 1⟩, ⟨0x8000 + 0x40 * m, 8, 8⟩⟩
def ueEvent (m : Nat) : FlagF := ⟨⟨0x8000 + 0x40 * m, 1, 1⟩, ⟨0x8000 + 0x40 * m, 16, 8⟩⟩
def lapOverdue (m : Nat) : FlagF := ⟨⟨0x8000 + 0x40 * m, 2, 1⟩, ⟨0x8000 + 0x40 * m, 24, 8⟩⟩
def level (m : Nat) : RF := ⟨0x8004 + 0x40 * m, 0, 16⟩
def logSuppressed (m : Nat) : RF := ⟨0x8004 + 0x40 * m, 16, 16⟩
def lapUs (m : Nat) : RF := ⟨0x8008 + 0x40 * m, 0, 32⟩
def ceCount (m : Nat) : RF := ⟨0x800C + 0x40 * m, 0, 32⟩
def ueRead (m : Nat) : RF := ⟨0x8010 + 0x40 * m, 0, 16⟩
def ueWrite (m : Nat) : RF := ⟨0x8010 + 0x40 * m, 16, 16⟩
def ueScrub (m : Nat) : RF := ⟨0x8014 + 0x40 * m, 0, 16⟩
def poisonRead (m : Nat) : RF := ⟨0x8014 + 0x40 * m, 16, 16⟩
def retiredPages (m : Nat) : RF := ⟨0x8018 + 0x40 * m, 0, 9⟩
def retiredBanks (m : Nat) : RF := ⟨0x8018 + 0x40 * m, 9, 3⟩
def tmrFix : RF := ⟨0x8200, 0, 16⟩
def logNext : RF := ⟨0x8204, 0, 8⟩
def logSeq : RF := ⟨0x8204, 8, 16⟩

-- Mailboxes (R381).
def mboxState (i : Nat) : RF := ⟨0xA000 + 4 * i, 0, 2⟩
def mboxStamp (i : Nat) : RF := ⟨0xA040 + 4 * i, 0, 32⟩
def collideStamp : RF := ⟨0xA080, 0, 32⟩
def mboxCollision : RF := ⟨0xA084, 0, 16⟩
def lockBadRelease : RF := ⟨0xA084, 16, 16⟩
def mboxAborted : RF := ⟨0xA088, 0, 16⟩
def replyStale : RF := ⟨0xA088, 16, 16⟩

-- Housekeeping (R436).
def plausState : RF := ⟨0xB000, 0, 1⟩
def plausibility : FlagF := ⟨⟨0xB000, 1, 1⟩, ⟨0xB000, 8, 8⟩⟩
def lowPower : RF := ⟨0xB000, 2, 1⟩
def chainOpenEvent : FlagF := ⟨⟨0xB000, 3, 1⟩, ⟨0xB000, 16, 8⟩⟩
def ref (conv : Nat) : RF := ⟨0xB004, 16 * conv, 16⟩
def pass (conv : Nat) : RF := ⟨0xB008, 16 * conv, 16⟩
def hkWordLost : RF := ⟨0xB00C, 0, 16⟩
def mon (m : Nat) : RF := ⟨0xB010 + 4 * m, 0, 16⟩
def chain (c : Nat) : RF := ⟨0xB050 + 4 * c, 0, 16⟩
def chainOpen (c : Nat) : RF := ⟨0xB090, c, 1⟩
def hkEntry (conv e : Nat) : RF := ⟨0xB094 + 0x40 * conv + 4 * e, 0, 16⟩
def openSuspect (n : Nat) : RF := ⟨0xB114 + 4 * n, 0, 1⟩
def openWire (n : Nat) : RF := ⟨0xB114 + 4 * n, 1, 1⟩
def openLeads (n : Nat) : RF := ⟨0xB114 + 4 * n, 2, 6⟩
def excLimit (n : Nat) : RF := ⟨0xB114 + 4 * n, 8, 1⟩
def openWireEvent (n : Nat) : FlagF := ⟨⟨0xB114 + 4 * n, 9, 1⟩, ⟨0xB114 + 4 * n, 16, 8⟩⟩
def ilkCode (n : Nat) : RF := ⟨0xB114 + 4 * n, 12, 3⟩
def sxpResult (n : Nat) : RF := ⟨0xB134 + 4 * n, 0, 32⟩
def openSuspectCnt (n : Nat) : RF := ⟨0xB154 + 4 * n, 0, 16⟩
def conversions (n : Nat) : RF := ⟨0xB154 + 4 * n, 16, 16⟩

-- Loop engine (R452, R453).
def overrunEvent : FlagF := ⟨⟨0xC000, 0, 1⟩, ⟨0xC000, 8, 8⟩⟩
def satEvent : FlagF := ⟨⟨0xC000, 1, 1⟩, ⟨0xC000, 16, 8⟩⟩
def loopEnabled (i : Nat) : RF := ⟨0xC004, i, 1⟩
def loopClamped (i : Nat) : RF := ⟨0xC008, i, 1⟩
def loopOverrun : RF := ⟨0xC00C, 0, 16⟩
def telemLost : RF := ⟨0xC00C, 16, 16⟩
def outMant (i : Nat) : RF := ⟨0xC010 + 4 * i, 0, 18⟩
def outExp (i : Nat) : RF := ⟨0xC010 + 4 * i, 18, 6⟩
def outClamped (i : Nat) : RF := ⟨0xC010 + 4 * i, 24, 1⟩
def outRamping (i : Nat) : RF := ⟨0xC010 + 4 * i, 25, 1⟩
def outSat (i : Nat) : RF := ⟨0xC010 + 4 * i, 26, 1⟩
def spMant (i : Nat) : RF := ⟨0xC090 + 4 * i, 0, 18⟩
def spExp (i : Nat) : RF := ⟨0xC090 + 4 * i, 18, 6⟩
def skipped (i : Nat) : RF := ⟨0xC110 + 4 * i, 0, 16⟩
def evals (i : Nat) : RF := ⟨0xC110 + 4 * i, 16, 16⟩

-- Test (R491).
def bistFail : FlagF := ⟨⟨0xD000, 0, 1⟩, ⟨0xD000, 8, 8⟩⟩
def mbistBusy : RF := ⟨0xD000, 1, 1⟩
def lbistPartition : RF := ⟨0xD004, 0, 8⟩
def lbistPass : RF := ⟨0xD004, 8, 1⟩
def lbistSig : RF := ⟨0xD008, 0, 32⟩
def mbistMem : RF := ⟨0xD00C, 0, 3⟩
def mbistGroup : RF := ⟨0xD00C, 3, 4⟩
def mbistPass : RF := ⟨0xD00C, 7, 1⟩
def mbistFailSymbols : RF := ⟨0xD00C, 8, 19⟩
def mbistAddr : RF := ⟨0xD010, 0, 22⟩
def xfailCount : RF := ⟨0xD014, 0, 12⟩
def xfailCell : RF := ⟨0xD014, 12, 11⟩
def xfailOther : RF := ⟨0xD014, 23, 1⟩
def mbistRuns : RF := ⟨0xD018, 0, 16⟩
def mbistFails : RF := ⟨0xD018, 16, 16⟩

-- Per block (R148, R149) and per cell (R85, R86, R117, R118, R149).
def acqState (b : Nat) : RF := ⟨0x10000 + 0x40 * b, 0, 3⟩
def maskFail (b : Nat) : FlagF := ⟨⟨0x10000 + 0x40 * b, 3, 1⟩, ⟨0x10000 + 0x40 * b, 8, 8⟩⟩
def frostEvent (b : Nat) : FlagF := ⟨⟨0x10000 + 0x40 * b, 4, 1⟩, ⟨0x10000 + 0x40 * b, 16, 8⟩⟩
def rearmLost (b : Nat) : RF := ⟨0x10004 + 0x40 * b, 0, 16⟩
def ignoredEarly (b : Nat) : RF := ⟨0x10004 + 0x40 * b, 16, 16⟩
def overlapLost (b : Nat) : RF := ⟨0x10008 + 0x40 * b, 0, 16⟩
def pageWaitLost (b : Nat) : RF := ⟨0x10008 + 0x40 * b, 16, 16⟩
def frostLost (b : Nat) : RF := ⟨0x1000C + 0x40 * b, 0, 16⟩
def frostDropped (b : Nat) : RF := ⟨0x1000C + 0x40 * b, 16, 16⟩
def sampleGap (b : Nat) : RF := ⟨0x10010 + 0x40 * b, 0, 16⟩
def tooLate (b : Nat) : RF := ⟨0x10010 + 0x40 * b, 16, 16⟩
def preShortCnt (b : Nat) : RF := ⟨0x10014 + 0x40 * b, 0, 16⟩
def wrappedCnt (b : Nat) : RF := ⟨0x10014 + 0x40 * b, 16, 16⟩
def trigAccepted (b : Nat) : RF := ⟨0x10018 + 0x40 * b, 0, 32⟩
def calReject (c : Nat) : RF := ⟨0x20000 + 0x20 * c, 0, 8⟩
def calConverged (c : Nat) : RF := ⟨0x20000 + 0x20 * c, 8, 1⟩
def calSuspect (c : Nat) : RF := ⟨0x20000 + 0x20 * c, 9, 1⟩
def calUpdates (c : Nat) : RF := ⟨0x20000 + 0x20 * c, 16, 16⟩
def curRange (c : Nat) : RF := ⟨0x20004 + 0x20 * c, 0, 2⟩
def discHigh (c : Nat) : RF := ⟨0x20004 + 0x20 * c, 2, 1⟩
def satSeen (c : Nat) : FlagF := ⟨⟨0x20004 + 0x20 * c, 3, 1⟩, ⟨0x20004 + 0x20 * c, 8, 8⟩⟩
def dprLost (c : Nat) : RF := ⟨0x20004 + 0x20 * c, 16, 16⟩
def rangeUp (c : Nat) : RF := ⟨0x20008 + 0x20 * c, 0, 16⟩
def rangeDown (c : Nat) : RF := ⟨0x20008 + 0x20 * c, 16, 16⟩
def derandPeak (c : Nat) : RF := ⟨0x2000C + 0x20 * c, 4, 4⟩
def derandLost (c : Nat) : RF := ⟨0x2000C + 0x20 * c, 16, 16⟩
def outOfWindow (c : Nat) : RF := ⟨0x20010 + 0x20 * c, 0, 16⟩
def windowExcess (c : Nat) : RF := ⟨0x20010 + 0x20 * c, 16, 16⟩

end R

/-! ## Reset values and access codes -/

/-- The reset value of the register word at an offset, where it is not 0. FREE_PAGES, DIR and pool levels are computed
when read (`State.readWord`). -/
def regReset (off : Nat) : W32 :=
  if off = 0x24 then 0x0A
  else if 0x1000 ≤ off ∧ off < 0x1020 then 0x10
  else if 0x7010 ≤ off ∧ off < 0x7050 then 0x2
  else if 0xB114 ≤ off ∧ off < 0xB134 then 0x7000
  else if 0xB134 ≤ off ∧ off < 0xB154 then 0x7FC00000
  else if off = 0xD004 then 0xFF
  else if 0x20000 ≤ off ∧ off < 0x30000 ∧ off % 0x20 = 4 then 0x2
  else 0

/-- The W1C bits of the register word at an offset (R16, R390). -/
def w1cMask (off : Nat) : W32 :=
  if 0x1000 ≤ off ∧ off < 0x1020 then 0x20
  else if off = 0x1020 then 0x22
  else if off = 0x3000 then 0x300000
  else if off = 0x4000 then 0x10
  else if off = 0x5000 then 0x3
  else if 0x6000 ≤ off ∧ off < 0x6130 ∧ off % 0x10 = 0 then 0xC00
  else if off = 0x7000 then 0xC0
  else if 0x7010 ≤ off ∧ off < 0x7050 then 0x10
  else if 0x8000 ≤ off ∧ off < 0x8180 ∧ off % 0x40 = 0 then 0x7
  else if off = 0xB000 then 0xA
  else if 0xB114 ≤ off ∧ off < 0xB134 then 0x200
  else if off = 0xC000 then 0x3
  else if off = 0xD000 then 0x1
  else if 0x10000 ≤ off ∧ off < 0x12000 ∧ off % 0x40 = 0 then 0x18
  else if 0x20000 ≤ off ∧ off < 0x30000 ∧ off % 0x20 = 4 then 0x8
  else 0

/-- The RC bits of the register word at an offset: DERAND_PEAK and POOL_PEAK (R16, R391). -/
def rcMask (off : Nat) : W32 :=
  if off = 0x3008 then 0x3FFFF
  else if 0x20000 ≤ off ∧ off < 0x30000 ∧ off % 0x20 = 0xC then 0xF0
  else 0

/-- The bits that the counter-clear command clears in the register word at an offset (R392): the counters whose chapter
says so. Occurrence counters, REPLAYS_1MS and counters said only to wrap stay, and so does the 8-bit CAL_REJECT of CAL_STATUS, of which its
chapter does not say it (assumption 140). -/
def counterMask (off : Nat) : W32 :=
  if off = 0x48 then 0xFFFF0000
  else if 0x1050 ≤ off ∧ off < 0x1054 then 0xFFFFFFFF
  else if 0x1054 ≤ off ∧ off < 0x1074 then 0xFFFF
  else if off = 0x2000 then 0xFFFF0000
  else if off = 0x2004 then 0xFFFFFFFF
  else if off = 0x3018 ∨ off = 0x301C then 0xFFFFFFFF
  else if off = 0x3020 then 0xFFFF0000
  else if 0x3024 ≤ off ∧ off < 0x3070 then 0xFFFFFFFF
  else if off = 0x4008 ∨ off = 0x400C then 0xFFFFFFFF
  else if off = 0x5008 then 0xFFFFFFFF
  else if 0x500C ≤ off ∧ off < 0x5020 then 0xFFFFFFFF
  else if 0x6000 ≤ off ∧ off < 0x6130 ∧ (off % 0x10 = 4 ∨ off % 0x10 = 8) then 0xFFFFFFFF
  else if 0x6000 ≤ off ∧ off < 0x6130 ∧ off % 0x10 = 0xC then 0xFFFF
  else if off = 0x6140 then 0xFFFF
  else if off = 0x7004 then 0xFFFFFFFF
  else if off = 0x7008 then 0xFFFF
  else if 0x7050 ≤ off ∧ off < 0x7090 then 0xFFFF
  else if 0x8000 ≤ off ∧ off < 0x8180 ∧ off % 0x40 = 4 then 0xFFFF0000
  else if 0x8000 ≤ off ∧ off < 0x8180 ∧ (off % 0x40 = 0xC ∨ off % 0x40 = 0x10 ∨ off % 0x40 = 0x14) then 0xFFFFFFFF
  else if off = 0x8200 then 0xFFFF
  else if off = 0xA084 ∨ off = 0xA088 then 0xFFFFFFFF
  else if off = 0xB00C then 0xFFFF
  else if 0xB154 ≤ off ∧ off < 0xB174 then 0xFFFF
  else if off = 0xC00C then 0xFFFFFFFF
  else if 0xC110 ≤ off ∧ off < 0xC190 then 0xFFFF
  else if off = 0xD018 then 0xFFFFFFFF
  else if 0x10000 ≤ off ∧ off < 0x12000 ∧ 4 ≤ off % 0x40 ∧ off % 0x40 < 0x18 then 0xFFFFFFFF
  else if 0x20000 ≤ off ∧ off < 0x30000 ∧ (off % 0x20 = 4 ∨ off % 0x20 = 0xC) then 0xFFFF0000
  else if 0x20000 ≤ off ∧ off < 0x30000 ∧ off % 0x20 = 0x10 then 0xFFFFFFFF
  else 0

/-! ## Configuration records (R472) -/

namespace C

-- Section 1, node record (R87, R215, R256, R317, R474).
def clkSourceSel : CF := ⟨0, 0, 2⟩
def timeMode : CF := ⟨0, 2, 1⟩
def streamStart : CF := ⟨0, 3, 1⟩
def epochPreset : CF := ⟨0, 4, 48⟩
def winDelay : CF := ⟨0, 52, 16⟩
def winWidth : CF := ⟨0, 68, 16⟩
def guard : CF := ⟨0, 84, 10⟩
def cto : CF := ⟨0, 94, 16⟩
def outReserve : CF := ⟨0, 110, 18⟩
def lateReserve : CF := ⟨0, 128, 18⟩
def mergeReserve : CF := ⟨0, 146, 16⟩
def mergeOpenMax : CF := ⟨0, 162, 10⟩
def evtMergeMask : CF := ⟨0, 172, 4⟩
def highWater : CF := ⟨0, 176, 18⟩
def lowWater : CF := ⟨0, 194, 18⟩
def compEn : CF := ⟨0, 212, 1⟩
def deliverRaw : CF := ⟨0, 213, 1⟩
def rootGrantSrc : CF := ⟨0, 214, 1⟩
def sigDelay : CF := ⟨0, 215, 4⟩
def bistIdleEn : CF := ⟨0, 219, 1⟩
def nodeSlot : CF := ⟨0, 220, 10⟩
def slotValid : CF := ⟨0, 230, 1⟩
-- Section 1, memory records (R340).
def bucketThreshold (m : Nat) : CF := ⟨16 + m, 0, 16⟩
def leakPeriod (m : Nat) : CF := ⟨16 + m, 16, 16⟩
def scrubLapMax (m : Nat) : CF := ⟨16 + m, 32, 16⟩
-- Section 2 (R87, R116).
def calSource (r : Nat) : CF := ⟨32 + r, 0, 2⟩
def calHitsLog (r : Nat) : CF := ⟨32 + r, 2, 5⟩
def calShift (r : Nat) : CF := ⟨32 + r, 7, 3⟩
def calRejectLsb (r : Nat) : CF := ⟨32 + r, 10, 8⟩
def qPre (b : Nat) : CF := ⟨256 + b, 0, 3⟩
def qLen (b : Nat) : CF := ⟨256 + b, 3, 7⟩
def qShift (b : Nat) : CF := ⟨256 + b, 10, 4⟩
def cellMode (c : Nat) : CF := ⟨4096 + c, 0, 2⟩
def polarity (c : Nat) : CF := ⟨4096 + c, 2, 1⟩
def rangeMode (c : Nat) : CF := ⟨4096 + c, 3, 2⟩
def thr (c : Nat) : CF := ⟨4096 + c, 5, 10⟩
def hyst (c : Nat) : CF := ⟨4096 + c, 15, 4⟩
def discEn (c : Nat) : CF := ⟨4096 + c, 19, 1⟩
def adcOffset (c : Nat) : CF := ⟨4096 + c, 20, 8⟩
-- Section 3 (R150).
def extHoldoff : CF := ⟨1, 0, 16⟩
def recordMode (b : Nat) : CF := ⟨512 + b, 0, 2⟩
def trigEn (b : Nat) : CF := ⟨512 + b, 2, 4⟩
def recordMask (b : Nat) : CF := ⟨512 + b, 6, 16⟩
def blkTrigMask (b : Nat) : CF := ⟨512 + b, 22, 16⟩
def blkMaj (b : Nat) : CF := ⟨512 + b, 38, 5⟩
def blkCoinc (b : Nat) : CF := ⟨512 + b, 43, 4⟩
def pre (b : Nat) : CF := ⟨512 + b, 47, 12⟩
def post (b : Nat) : CF := ⟨512 + b, 59, 16⟩
def maskAction (b : Nat) : CF := ⟨512 + b, 75, 2⟩
def maskShift (b : Nat) : CF := ⟨512 + b, 77, 4⟩
def maskLower (b i : Nat) : CF := ⟨512 + b, 81 + 36 * i, 18⟩
def maskUpper (b i : Nat) : CF := ⟨512 + b, 99 + 36 * i, 18⟩
-- Section 4 (R215, R293, R317).
def northLag : CF := ⟨2, 0, 18⟩
def throttleSouthMask : CF := ⟨2, 18, 16⟩
def portEn : CF := ⟨2, 34, 19⟩
def replayTimeout : CF := ⟨2, 53, 8⟩
def markerEn : CF := ⟨2, 61, 1⟩
def pairFlightTicks : CF := ⟨2, 62, 4⟩
def linkRateMax (p : Nat) : CF := ⟨64 + p, 0, 2⟩
def txTaps (p : Nat) : CF := ⟨64 + p, 2, 8⟩
-- Section 5 (R454).
def loopEn (i : Nat) : CF := ⟨192 + i, 0, 1⟩
def measSel (i : Nat) : CF := ⟨192 + i, 1, 8⟩
def dest (i : Nat) : CF := ⟨192 + i, 9, 5⟩
def outerDiv (i : Nat) : CF := ⟨192 + i, 14, 9⟩
/-- E_ERR, E_P, E_I, E_D, E_SUM, E_OUT for stage 0-5. -/
def stageExp (i k : Nat) : CF := ⟨192 + i, 23 + 6 * k, 6⟩
def kp (i : Nat) : CF := ⟨192 + i, 59, 24⟩
def ki (i : Nat) : CF := ⟨192 + i, 83, 24⟩
def kd (i : Nat) : CF := ⟨192 + i, 107, 24⟩
def tgt (i : Nat) : CF := ⟨192 + i, 131, 24⟩
def rampStep (i : Nat) : CF := ⟨192 + i, 155, 18⟩
def clampLo (i : Nat) : CF := ⟨192 + i, 173, 24⟩
def clampHi (i : Nat) : CF := ⟨192 + i, 197, 24⟩
def telemDiv (i : Nat) : CF := ⟨192 + i, 221, 16⟩
def biasInit (n : Nat) : CF := ⟨112 + n, 0, 16⟩
-- Section 6 (R419, R437).
def hkLowPower : CF := ⟨3, 0, 1⟩
def privConv : CF := ⟨3, 1, 1⟩
def privMask : CF := ⟨3, 2, 16⟩
def plausTol : CF := ⟨3, 18, 8⟩
def entryEn (conv e : Nat) : CF := ⟨128 + 16 * conv + e, 0, 1⟩
def entrySrc (conv e : Nat) : CF := ⟨128 + 16 * conv + e, 1, 5⟩
def entryGain (conv e : Nat) : CF := ⟨128 + 16 * conv + e, 6, 2⟩
def entryAcq (conv e : Nat) : CF := ⟨128 + 16 * conv + e, 8, 8⟩
def excV (n : Nat) : CF := ⟨96 + n, 0, 8⟩
def excSettle (n : Nat) : CF := ⟨96 + n, 8, 10⟩
def sigStage (n : Nat) : CF := ⟨96 + n, 18, 1⟩
def sigGain (n : Nat) : CF := ⟨96 + n, 19, 3⟩
def senseMin (n : Nat) : CF := ⟨96 + n, 22, 16⟩
def diagInterval (n : Nat) : CF := ⟨96 + n, 38, 7⟩
def tSrc (n : Nat) : CF := ⟨96 + n, 45, 4⟩
def coef (n k : Nat) : CF := ⟨96 + n, 49 + 32 * k, 32⟩
def ilkMode (n : Nat) : CF := ⟨96 + n, 433, 2⟩
def ilkLo (n : Nat) : CF := ⟨96 + n, 435, 32⟩
def ilkHi (n : Nat) : CF := ⟨96 + n, 467, 32⟩
-- Section 7 (R233).
def dirSlotBase : CF := ⟨4, 0, 10⟩
def dirSlotCount : CF := ⟨4, 10, 11⟩
def dirQualMin : CF := ⟨4, 21, 4⟩

end C

/-- A record with the given values at the given low bits. -/
def packed (l : List (Nat × Nat)) : Nat := l.foldl (fun a e => a + e.2 <<< e.1) 0

/-- The default mask table: every point −131,072 and 131,071 (R150). -/
def maskDefault : Nat := packed ((List.range 256).map fun i => (81 + 36 * i, 0x20000 + 0x1FFFF <<< 18))

/-- A mantissa-and-exponent field (R454). -/
def mantExp (m : Int) (e : Nat) : Nat := unsigned 18 m + e <<< 18

/-- The default of the record with a key: the Default columns of the configuration tables. -/
def cfgDefault (key : Nat) : Nat :=
  if key = 0 then
    packed [(68, 64), (84, 64), (94, 32768), (110, 8192), (128, 512), (146, 256), (162, 64), (172, 3), (176, 147456),
      (194, 98304), (212, 1), (215, 4), (219, 1)]
  else if key = 1 then 4
  else if key = 2 then packed [(0, 16384), (18, 0xFFFF), (34, 0x7FFFF), (53, 10), (61, 1)]
  else if key = 3 then packed [(2, 0xFFFF), (18, 32)]
  else if 16 ≤ key ∧ key < 22 then packed [(0, 64), (16, 100), (32, 1000)]
  else if 32 ≤ key ∧ key < 40 then packed [(2, 20), (7, 4), (10, 8)]
  else if 64 ≤ key ∧ key < 83 then packed [(2, 2), (6, 4)]
  else if 96 ≤ key ∧ key < 104 then packed [(8, 100), (22, 1600), (38, 8), (467, 0x3F800000)]
  else if 192 ≤ key ∧ key < 200 then
    packed [(1, 0xC0), (14, 16), (23, 40), (29, 34), (35, 34), (41, 34), (47, 34), (53, 34), (59, mantExp 3 35),
      (83, mantExp 3 27), (155, 16), (173, mantExp (-2000) 40), (197, mantExp 2000 40)]
  else if 200 ≤ key ∧ key < 208 then
    packed [(1, 0xC0), (14, 16), (23, 40), (29, 40), (35, 40), (41, 40), (47, 40), (53, 40), (155, 16),
      (173, mantExp 0 40), (197, mantExp 65535 40)]
  else if 208 ≤ key ∧ key < 224 then
    packed [(1, 0xC0), (14, 16), (23, 40), (29, 40), (35, 40), (41, 40), (47, 40), (53, 40), (155, 16),
      (173, mantExp (-131072) 40), (197, mantExp 131071 40)]
  else if 256 ≤ key ∧ key < 384 then packed [(0, 1), (3, 8), (10, 4)]
  else if 512 ≤ key ∧ key < 640 then
    packed [(6, 0xFFFF), (22, 0xFFFF), (38, 1), (43, 2), (47, 64), (59, 192)] + maskDefault
  else if 4096 ≤ key ∧ key < 6144 then packed [(5, 50), (15, 4), (19, 1), (20, 32)]
  else 0

/-! ## Access -/

/-- The register word at an offset. The table holds its difference from the reset value. -/
def State.word (s : State) (off : Nat) : W32 := Tab.get 0 s.regs off ^^^ regReset off

def State.setWord (s : State) (off : Nat) (v : W32) : State :=
  { s with regs := Tab.set 0 s.regs off (v ^^^ regReset off) }

/-- The value of a register field. -/
def State.getF (s : State) (f : RF) : Nat := fget (s.word f.off) f.lo f.w

/-- The state with a register field replaced. -/
def State.setF (s : State) (f : RF) (v : Nat) : State := s.setWord f.off (fset (s.word f.off) f.lo f.w v)

/-- The configuration record in force. -/
def State.record (s : State) (key : Nat) : Nat := Tab.get 0 s.cfg key ^^^ cfgDefault key

def State.setRecord (s : State) (key v : Nat) : State :=
  { s with cfg := Tab.set 0 s.cfg key (v ^^^ cfgDefault key) }

/-- The value of a configuration field. -/
def State.cfgF (s : State) (f : CF) : Nat := nget (s.record f.key) f.lo f.w

def State.setCfg (s : State) (f : CF) (v : Nat) : State := s.setRecord f.key (nset (s.record f.key) f.lo f.w v)

end Sys2Proof.Machine
end

