-- ==== Sys2Proof/Machine/Flags.lean ====
section
/-! DEFINITION. Flag and counter computations (R16, R486-R488): saturating and wrapping counters, W1C flags with their
occurrence counters, and the counter-clear command's effect. -/

namespace Sys2Proof.Machine

/-- A saturating counter raised by `n` (R488). -/
def State.incBy (s : State) (f : RF) (n : Nat) : State := s.setF f (min (s.getF f + n) (2 ^ f.w - 1))

/-- A saturating counter raised by one. -/
def State.inc (s : State) (f : RF) : State := s.incBy f 1

/-- A wrapping counter raised by `n` (R488). -/
def State.incWrap (s : State) (f : RF) (n : Nat) : State := s.setF f ((s.getF f + n) % 2 ^ f.w)

/-- A setting event of a W1C flag: the flag is set and its occurrence counter goes up modulo 256 (R486). -/
def State.setFlag (s : State) (f : FlagF) : State := (s.setF f.flag 1).incWrap f.occ 1

/-- A write of 1 to the W1C bits that `mask` selects in the register word at `off` (R16, R390). -/
def State.clearFlags (s : State) (off : Nat) (mask : W32) : State :=
  s.setWord off (s.word off &&& ~~~(mask &&& w1cMask off))

/-- The counter-clear command's effect on the register word at `off` (R392). -/
def State.clearCounters (s : State) (off : Nat) : State :=
  s.setWord off ((s.word off &&& ~~~(counterMask off)) ||| (regReset off &&& counterMask off))

/-- The counter-clear command's effect on the words of a list of offsets. -/
def State.clearCountersAt (s : State) (l : List Nat) : State := l.foldl (fun s o => s.clearCounters o) s

/-- A bit of a word as a Nat. -/
def boolNat (b : Bool) : Nat := if b then 1 else 0

end Sys2Proof.Machine
end

