-- ==== Sys2Proof/Machine/Ops.lean ====
section
/-! DEFINITION. The named operations over the state that the commands share: free values, table accessors, triplicated
words, time, the control channel's send queue, MSI-X, the shared pool, the protected memories, the error log, notices and
pair failure. -/

namespace Sys2Proof.Machine

/-- The outcome of a command. -/
abbrev Res := Host.Outcome State Fault Refusal

/-! ## Free values (assumption 4) -/

/-- The state after a free value is drawn. -/
def State.drawn (s : State) : State := { s with free := s.free + 1 }

/-- The free value that the next draw gives. -/
def State.fresh (s : State) : BitVec 64 := Config.freeValue s.free

/-- A free bit: which of two unspecified outcomes happens. -/
def State.freshBit (s : State) : Bool := s.fresh.getLsbD 0

/-- `n` free values are drawn. -/
def State.skip (s : State) (n : Nat) : State := { s with free := s.free + n }

/-- The `k`-th free value that the next draws give. -/
def State.nth (s : State) (k : Nat) : Nat := (Config.freeValue (s.free + k)).toNat

/-- An operand or field as the node takes it: its value where that lies in the documented range, else a free value of the range, the
`k`-th drawn. Its result is then unpredictable, and the node goes on (R18; assumption 12). -/
def State.legal (s : State) (k lo hi v : Nat) : Nat := if lo ≤ v ∧ v ≤ hi then v else lo + s.nth k % (hi + 1 - lo)

/-- The same for a signed operand. -/
def State.legalInt (s : State) (k : Nat) (lo hi v : Int) : Int :=
  if lo ≤ v ∧ v ≤ hi then v else lo + (s.nth k : Int) % (hi + 1 - lo)

/-! ## Table accessors -/

def State.region (s : State) (r : Nat) : Region := Tab.get {} s.regions r
def State.setRegion (s : State) (r : Nat) (v : Region) : State := { s with regions := Tab.set {} s.regions r v }
def State.cell (s : State) (c : Nat) : Cell := Tab.get {} s.cells c
def State.setCell (s : State) (c : Nat) (v : Cell) : State := { s with cells := Tab.set {} s.cells c v }
def State.block (s : State) (b : Nat) : Block := Tab.get {} s.blocks b
def State.setBlock (s : State) (b : Nat) (v : Block) : State := { s with blocks := Tab.set {} s.blocks b v }
def State.port (s : State) (p : Nat) : Port := Tab.get {} s.ports p
def State.setPort (s : State) (p : Nat) (v : Port) : State := { s with ports := Tab.set {} s.ports p v }
def State.mem (s : State) (m : Nat) : Mem := Tab.get {} s.mems m
def State.setMem (s : State) (m : Nat) (v : Mem) : State := { s with mems := Tab.set {} s.mems m v }
def State.pid (s : State) (i : Nat) : Loop := Tab.get {} s.loop.loops i
def State.setPid (s : State) (i : Nat) (v : Loop) : State := { s with loop := { s.loop with loops := Tab.set {} s.loop.loops i v } }
def State.sxp (s : State) (n : Nat) : Sxp := Tab.get {} s.hk.sxp n
def State.setSxp (s : State) (n : Nat) (v : Sxp) : State := { s with hk := { s.hk with sxp := Tab.set {} s.hk.sxp n v } }
def State.conv (s : State) (c : Nat) : Conv := Tab.get {} s.hk.conv c
def State.setConv (s : State) (c : Nat) (v : Conv) : State := { s with hk := { s.hk with conv := Tab.set {} s.hk.conv c v } }
def State.emit (s : State) (o : Out) : State := { s with out := o :: s.out }

/-! ## Triplicated words (R333)

Word 0 is the commit record, word 1 the role and pair state, words 2-33 the loop clamps, words 34-49 the locks. -/

/-- The bitwise two-of-three majority. -/
def Tri.vote (t : Tri) : BitVec 80 := (t.a &&& t.b) ||| (t.a &&& t.c) ||| (t.b &&& t.c)

def State.triWord (s : State) (i : Nat) : BitVec 80 := (Tab.get {} s.prot.tri i).vote

/-- A write sets all three copies in one access. -/
def State.setTri (s : State) (i : Nat) (v : BitVec 80) : State :=
  { s with prot := { s.prot with tri := Tab.set {} s.prot.tri i ⟨v, v, v⟩ } }

/-- Bits of a triplicated word. -/
def State.triBits (s : State) (i lo n : Nat) : Nat := nget (s.triWord i).toNat lo n

/-- ROLE[1:0] as sampled (R1). -/
def State.role (s : State) : Nat := s.triBits 1 0 2
def State.isRoot (s : State) : Bool := s.role = 2
def State.merging (s : State) : Bool := s.role = 1 ∨ s.role = 2
/-- PAIR_EN in effect (R294). -/
def State.paired (s : State) : Bool := s.merging ∧ s.triBits 1 2 1 = 1
def State.pairPos (s : State) : Nat := s.triBits 1 3 1
/-- The grant a pair member holds: 0 A, 1 B, 2 NONE (R304); 2 where none has come. -/
def State.grantPos (s : State) : Nat := (s.triBits 1 4 2 + 2) % 4
def State.setGrantPos (s : State) (g : Nat) : State := s.setTri 1 (BitVec.ofNat 80 (nset (s.triWord 1).toNat 4 2 (g + 2)))
/-- The node sends merged data: it is unpaired or the active member (R296). -/
def State.isActive (s : State) : Bool := ¬ s.paired ∨ s.getF R.active = 1

/-- LOCKi (R366). -/
def State.lock (s : State) (i : Nat) : W32 := BitVec.ofNat 32 (s.triWord (34 + i)).toNat
def State.setLock (s : State) (i : Nat) (v : W32) : State := s.setTri (34 + i) (v.zeroExtend 80)

/-! ## Node and time -/

def NodeState.code : NodeState → Nat
  | .off => 0 | .reset => 1 | .boot => 2 | .linkup => 3 | .unconfigured => 4 | .configured => 5 | .running => 6 | .safe => 7

/-- The node has a configuration in force: CONFIGURED, RUNNING or SAFE after a commit. -/
def State.operating (s : State) : Bool := 5 ≤ s.node.state.code && (s.node.state ≠ .safe || s.node.committed)

/-- What clocks the link transmitters (R72, R463): before the first commit REFCLK while it is present, else the on-chip reference; then the
reference that the commit chose. -/
inductive TxReference where
  | refclk | onChip | recovered
  deriving DecidableEq, Repr

def State.txReference (s : State) : TxReference :=
  if s.getF R.clkSource = 1 then .recovered
  else if s.node.committed ∨ s.getF R.refclkPresent = 1 then .refclk
  else .onChip

/-- The node sends what stands in its OUTPUT north, or to its rings: where it is active (R296), and, for the items of class CONTROL that it sends
before its first commit, where it does not resynchronise behind an active partner (R464; assumption 168). -/
def State.sendsNorth (s : State) : Bool := s.isActive || (!s.operating && s.getF R.resync = 0)

/-- Firmware carries out messages: from LINKUP on, and not during a restart (R389, R461). -/
def State.fwRuns (s : State) : Bool := 3 ≤ s.node.state.code && s.fw.restart.isNone

def State.running (s : State) : Bool := s.node.state = .running
def State.slotValid (s : State) : Bool := s.cfgF C.slotValid = 1
def State.regionState (s : State) (r : Nat) : Nat := s.getF (R.tbState r)

/-- The coarse time runs: some region is neither OFF nor FAILED (R55, R439). -/
def State.coarseRuns (s : State) : Bool := (List.range 8).any fun r => s.regionState r ≠ 0 && s.regionState r ≠ 5

/-- `c` is at or after tick `t` on the 48-bit circle. -/
def reached (c t : BitVec 48) : Bool := (c - t).toNat < 2 ^ 47

/-- The frame that holds a coarse time (R155). -/
def frameOf (c : BitVec 48) : BitVec 32 := BitVec.ofNat 32 (c.toNat / 65536)

/-- The tick at which a frame begins. -/
def frameTick (f : BitVec 32) : BitVec 48 := BitVec.ofNat 48 (f.toNat * 65536)

/-- CELL_MODE in force: OFF outside CONFIGURED and RUNNING and at a node without SLOT_VALID (R89, R114, R465, R474). -/
def State.cellMode (s : State) (c : Nat) : Nat :=
  if (s.node.state = .configured ∨ s.running) ∧ s.slotValid ∧ s.role ≠ 3 then s.cfgF (C.cellMode c) % 3 else 0

/-- Recovered-clock operation (R73). -/
def State.degraded (s : State) : Bool := s.getF R.clkSource = 1

/-- STREAM_START as it takes effect (R65, R73). -/
def State.streamStart (s : State) : Bool := s.cfgF C.streamStart = 1 ∨ s.degraded

def State.windowMode (s : State) : Bool := s.cfgF C.timeMode = 1
def State.loaded (s : State) : Bool := s.getF R.epochLoaded = 1
/-- Triggers are judged: RUNNING, loaded, and no ACQ_STOP has applied (R65, R147). -/
def State.judging (s : State) : Bool := s.running ∧ s.loaded ∧ ¬ s.node.stopping

/-- Microseconds since a tick. -/
def State.usSince (s : State) (t : Nat) : Nat := (s.ticks - t) / 160

/-! ## Ports -/

/-- The ports that R1 gives the role; P only with PAIR_EN in effect. -/
def State.roleHasPort (s : State) (p : Nat) : Bool :=
  if p < 16 then s.merging else if p < 18 then s.role ≠ 2 else p = 18 ∧ s.paired

/-- The port is enabled (R293). -/
def State.portEnabled (s : State) (p : Nat) : Bool := s.roleHasPort p ∧ s.cfgF C.portEn / 2 ^ p % 2 = 1

def State.portUp (s : State) (p : Nat) : Bool := s.getF (R.lstate p) = 5
def State.northUp (s : State) : List Nat := [16, 17].filter s.portUp
def State.southUp (s : State) : List Nat := (List.range 16).filter s.portUp

/-- The priority of a message type (R282). -/
def msgPriority (m : BitVec 8) : Nat :=
  if m = 0x10 then 1 else if m = 0x11 then 2 else if m = 0x20 ∨ m = 0x21 ∨ m = 0x22 then 3 else 4

/-- A message placed in a send queue: behind those of smaller or equal priority number (R282). -/
def placeMsg (m : CtlMsg) : List CtlMsg → List CtlMsg
  | [] => [m]
  | x :: l => if msgPriority x.mtype ≤ msgPriority m.mtype then x :: placeMsg m l else m :: x :: l

/-- A control message queued on a port. -/
def State.sendMsg (s : State) (p : Nat) (m : CtlMsg) : State :=
  s.setPort p { s.port p with ctlQueue := placeMsg m (s.port p).ctlQueue }

/-- The same message on each of a list of ports. -/
def State.sendAll (s : State) (l : List Nat) (m : CtlMsg) : State := l.foldl (fun s p => s.sendMsg p m) s

/-- A stamp of this node (R364). -/
def State.stamp (s : State) (cls port : Nat) : W32 :=
  BitVec.ofNat 32 (cls * 2 ^ 28 + s.node.nodeId.toNat * 2 ^ 16 + port * 2 ^ 12 + s.node.incarnation.toNat * 16)

/-- The stamp of a firmware or hardware message sent on a port: parent, child or pair partner (R364). -/
def State.portStamp (s : State) (p : Nat) : W32 :=
  if p < 16 then s.stamp 2 p else if p = 16 then s.stamp 3 0 else if p = 17 then s.stamp 3 1 else s.stamp 4 0

/-! ## MSI-X (R352, R354, R359) -/

/-- BAR0 registers that do not reset to 0, by offset: SIZE_LOG2, RING_ROUTE and the masked MSI-X vectors (assumption 8). -/
def bar0Reset (off : Nat) : W32 :=
  if 0x3000 ≤ off ∧ off < 0x3200 ∧ off % 0x40 = 0x10 then 0x40
  else if off = 0x3200 then 0x40
  else if 0x8000 ≤ off ∧ off < 0x8400 ∧ off % 16 = 12 then 1
  else 0

def State.bar0 (s : State) (off : Nat) : W32 := Tab.get 0 s.host.bar0 off ^^^ bar0Reset off
def State.setBar0 (s : State) (off : Nat) (v : W32) : State :=
  { s with host := { s.host with bar0 := Tab.set 0 s.host.bar0 off (v ^^^ bar0Reset off) } }

/-- What the PCI Express function reports of itself and supports (R342): its identity, the sizes of its BARs, the vectors of its MSI-X table, the
largest Max Payload Size and Max Read Request Size, its link, the read requests that it keeps outstanding, and its serial number. -/
structure PcieFunction where
  vendor : Nat := 0x1D7C
  device : Nat := 0x2048
  classCode : Nat := 0x118000
  revision : Nat := 0xB0
  bar0Size : Nat := 2 ^ 16
  bar2Size : Nat := 2 ^ 24
  vectors : Nat := 64
  maxPayload : Nat := 512
  maxReadRequest : Nat := 4096
  lanes : Nat := 4
  /-- In units of 100 Mb/s, for each lane, fastest first. -/
  rates : List Nat := [320, 160, 80, 50, 25]
  outstandingReads : Nat := 256
  aspm : List String := ["L1"]
  noSoftReset : Bool := true
  interruptPin : Nat := 0
  serial : BitVec 64 := Config.dieId

/-- The one function of the endpoint. -/
def pcieFunction : PcieFunction := {}

/-- DMA and MSI-X may leave (R359). -/
def State.hostOpen (s : State) : Bool := s.isRoot ∧ s.host.linkUp ∧ ¬ s.host.d3hot ∧ s.host.busMaster

/-- Max Payload Size and Max Read Request Size as the host has programmed them (R342). -/
def State.maxPayload (s : State) : Nat := min pcieFunction.maxPayload (128 * 2 ^ s.host.control.maxPayload.val)
def State.maxReadRequest (s : State) : Nat := min pcieFunction.maxReadRequest (128 * 2 ^ s.host.control.maxRead.val)

/-- Vector `v` is held back: by its mask bit, by the Function Mask, or since MSI-X is not enabled. -/
def State.vecMasked (s : State) (v : Nat) : Bool :=
  !s.host.control.msix || s.host.control.functionMask || (s.bar0 (0x800C + 16 * v)).getLsbD 0

/-- A cause signals its vector: at once, or by its pending bit while it is masked or the function may not send. -/
def State.msix (s : State) (v : Nat) : State :=
  if ¬ s.isRoot then s
  else if s.hostOpen ∧ ¬ s.vecMasked v then s.emit (.msix v)
  else { s with host := { s.host with pba := s.host.pba ||| (1 <<< v : BitVec 64) } }

/-- A pending vector is signalled once when nothing holds it back any more; HOLDOFF of a ring's vector counts from then (R352). -/
def State.msixFlush (s : State) (v : Nat) : State :=
  if s.host.pba.getLsbD v ∧ s.hostOpen ∧ ¬ s.vecMasked v then
    let last := if v < 8 then Tab.set none s.host.lastSignal v (some s.ticks) else s.host.lastSignal
    ({ s with host := { s.host with pba := s.host.pba &&& ~~~(1 <<< v : BitVec 64), lastSignal := last } }).emit (.msix v)
  else s

/-- An OUT_DOORBELL bit is set: bit 16 is NOTICE (R371). -/
def State.ringOutDoorbell (s : State) (i : Nat) : State :=
  let off := 0x2010 + 4 * (i / 4)
  let w := s.bar0 off
  ((({ s with mbox := { s.mbox with outDoorbell := s.mbox.outDoorbell ||| (1 <<< i : W32) } }).setBar0 off
    (fset w (8 * (i % 4)) 8 (fget w (8 * (i % 4)) 8 + 1))).msix 10)

/-! ## The shared pool (R178-R190) -/

def Cls.code : Cls → Nat
  | .control => 0 | .triggered => 1 | .streaming => 2 | .housekeeping => 3 | .monitoring => 4

def State.item (s : State) (id : Nat) : Option Item := s.pool.items.find? fun i => i.id = id
def State.setItems (s : State) (l : List Item) : State := { s with pool := { s.pool with items := l } }
/-- An item replaced by `f` of it. -/
def State.modItem (s : State) (id : Nat) (f : Item → Item) : State :=
  s.setItems (s.pool.items.map fun i => if i.id = id then f i else i)
/-- An item leaves the pool: its slots return to the free map (R182). -/
def State.freeItem (s : State) (id : Nat) : State := s.setItems (s.pool.items.filter fun i => i.id ≠ id)

/-- No queue: the pair port's view of an item stands in none (R183). -/
def noQueue : Nat := 2048

/-- U(q) (R187). Slots that the pair port still holds of items that have left OUTPUT (R206) count as OUTPUT's. -/
def State.usedBy (s : State) (q : Nat) : Nat :=
  ((s.pool.items.filter fun i => i.queue = q ∨ (q = 0 ∧ i.queue = noQueue)).map fun i => i.slots.length).sum

/-- POOL_USED (R187). -/
def State.poolUsed (s : State) : Nat := (s.pool.items.map fun i => i.slots.length).sum + s.pool.orphans.length

/-- A code word reads as poisoned. -/
def poisonedCw (c : BitVec 152) : Bool :=
  match classify c with
  | .clean | .ce .. => false
  | _ => true

/-- A code word of the retirement map reads as poisoned, or is given up until the next power-on: the units that it describes are withheld
(R8, R326). -/
def State.mapWithheld (s : State) (a : Nat) : Bool :=
  (match (s.mem 5).cells with
   | [] => false
   | l => poisonedCw (Tab.get 0 l a)) || s.prot.withheld.contains a

/-- A page of a memory is retired or withheld, by itself or with its bank (R326, R336); the map describes units of the pool, the directory
and the segment memory alone (R321). -/
def State.unitRetired (s : State) (m page : Nat) : Bool :=
  decide (m < 3) && (s.prot.pages.contains (m, page) || s.prot.banks.contains (m, page / 1024) ||
    s.mapWithheld (Config.retireWord m false page) || s.mapWithheld (Config.retireWord m true (page / 1024)))

/-- Slots withdrawn by retirement, or withheld as if retired (R181, R326, R337). -/
def State.retiredSlots (s : State) : Nat :=
  if (s.mem 5).cells.isEmpty && s.prot.withheld.isEmpty then
    let banks := (s.prot.banks.filter fun e => e.1 = 0).length
    let pages := (s.prot.pages.filter fun e => e.1 = 0 ∧ ¬ s.prot.banks.contains (0, e.2 / 1024)).length
    16384 * banks + 16 * pages
  else 16 * ((List.range 12288).filter (s.unitRetired 0)).length

def State.poolTotal (s : State) : Nat := 196608 - s.retiredSlots

def State.reserveOf (s : State) (q : Nat) : Nat :=
  if q = 0 then s.cfgF C.outReserve else if q = 1 then s.cfgF C.lateReserve else s.cfgF C.mergeReserve

/-- COMMITTED (R187). -/
def State.committedSlots (s : State) : Nat :=
  max (s.usedBy 0) (s.cfgF C.outReserve) + max (s.usedBy 1) (s.cfgF C.lateReserve) +
    (s.pool.ctxs.map fun c => max (s.usedBy (32 + c.index)) (s.cfgF C.mergeReserve)).sum +
    s.cfgF C.mergeReserve * (s.cfgF C.mergeOpenMax - s.pool.ctxs.length) + s.pool.orphans.length

/-- FREE_SHARED (R187). -/
def State.freeShared (s : State) : Int := (s.poolTotal : Int) - s.committedSlots

/-- R188. -/
def State.canGrow (s : State) (q : Nat) : Bool := s.usedBy q < s.reserveOf q ∨ 0 < s.freeShared

/-- The free-slot map's code word for 128 slots is poisoned: they are held unavailable (R326). -/
def State.mapPoisoned (s : State) (k : Nat) : Bool :=
  match (s.mem 5).cells with
  | [] => false
  | l => poisonedCw (Tab.get 0 l (Config.mapWord k))

/-- A slot that is never handed out: retired, withheld, or under a poisoned code word of the free-slot map (R326, R337). -/
def State.slotBarred (s : State) (n : Nat) : Bool := s.unitRetired 0 (n / 16) || s.mapPoisoned (n / 128)

def State.slotTaken (s : State) (n : Nat) : Bool :=
  s.pool.orphans.contains n || s.pool.items.any (fun i => i.slots.contains n) || s.slotBarred n

/-- The lowest free slot from `n` on, among `fuel` slots. -/
def State.freeFrom (s : State) : Nat → Nat → Option Nat
  | 0, _ => none
  | fuel + 1, n => if s.slotTaken n then s.freeFrom fuel (n + 1) else some n

/-- The allocator's search over banks from `b` on (R181); a bank under test is excluded (R312). -/
def State.freeInBanks (s : State) : Nat → Nat → Option Nat
  | 0, _ => none
  | fuel + 1, b =>
    match (if s.pool.excludedBank = some (b % 12) then none else s.freeFrom 16384 (b % 12 * 16384)) with
    | some n => some n
    | none => s.freeInBanks fuel (b + 1)

/-- A slot taken from the free map, whatever the reservations (R203). -/
def State.allocSlot (s : State) : Option (Nat × State) :=
  match s.freeInBanks 12 s.pool.bankPtr with
  | some n => some (n, { s with pool := { s.pool with bankPtr := (n / 16384 + 1) % 12 } })
  | none => none

/-- The place of a reader in the readers' table. -/
def readerKey : Reader → Nat
  | .n0 => 0 | .n1 => 1 | .p => 2 | .dma => 3

/-- Some reader has begun an item, the pair port by its view of it (R189, R206). -/
def State.begunAny (s : State) (i : Item) : Bool := i.begun ≠ [] || s.pool.items.any fun v => v.holder = some i.id && decide (v.begun ≠ [])

/-- The victim of an overwrite in queue `q` (R189): the oldest candidate of the lowest-priority class. -/
def State.victim (s : State) (q : Nat) : Option Item :=
  (s.pool.items.filter fun i => i.queue = q ∧ i.complete ∧ ¬ s.begunAny i ∧ ¬ i.hidden).foldl (fun b i =>
    match b with
    | none => some i
    | some j => if j.cls.code < i.cls.code ∨ (i.cls.code = j.cls.code ∧ i.age < j.age) then some i else some j) none

/-- The entries of open contexts that hold an item become LOST (R164, R189). -/
def State.loseEntries (s : State) (ids : List Nat) : State :=
  { s with pool := { s.pool with ctxs := s.pool.ctxs.map fun c => { c with entries := c.entries.map fun e =>
      match e.item with
      | some i => if ids.contains i then { e with st := .lost, item := none } else e
      | none => e } } }

/-- `n` items lost in queue `q` are counted (R186, R189, R190). -/
def State.countLost (s : State) (q n : Nat) : State :=
  if q = 0 ∨ q = 1 then s.incWrap (R.queueLost q) n else s.incWrap R.mergeLost n

/-- Readers that have chosen one of some items, of which they have sent nothing, choose again (R189, R204). -/
def State.unchoose (s : State) (ids : List Nat) : State :=
  { s with pool := { s.pool with readers := s.pool.readers.filter fun e => !(e.2.item.any ids.contains),
                                 north := s.pool.north.filter fun e => !ids.contains e.2 } }

/-- An item is lost from its queue, with the pair port's view of it; a reader that had chosen it chooses again. -/
def State.loseItem (s : State) (i : Item) : State :=
  let views := (s.pool.items.filter fun v => v.holder = some i.id).map (·.id)
  let s := s.setItems (s.pool.items.filter fun v => v.holder ≠ some i.id)
  (((s.unchoose (i.id :: views)).freeItem i.id).loseEntries [i.id]).countLost i.queue 1

/-- The overwrite of R189: victims leave the queue until one gives back a slot that may be handed out (R181). The first argument bounds
their number. -/
def State.overwrite : Nat → State → Nat → Option Nat × State
  | 0, s, _ => (none, s)
  | fuel + 1, s, q =>
    match s.victim q with
    | none => (none, s)
    | some i =>
      let s := s.loseItem i
      match i.slots.find? fun n => !s.slotBarred n with
      | some n => (some n, s)
      | none => State.overwrite fuel s q

/-- What becomes of a request for slots: it is met, it is refused under R190, or it waits for the end of a bank's test (R312). -/
inductive Grow where
  | done | full | waits
  deriving DecidableEq, Repr

/-- A slot for queue `q` under R188, R189 and R312. -/
def State.takeSlot (s : State) (q : Nat) : Grow × Nat × State :=
  match (if s.canGrow q then s.allocSlot else none) with
  | some r => (.done, r)
  | none =>
    if s.canGrow q ∧ s.pool.excludedBank.isSome then (.waits, 0, s)
    else match State.overwrite s.pool.items.length s q with
      | (some n, s) => (.done, n, s)
      | (none, s) => (.full, 0, s)

/-- A THROTTLE message with the given state on every trained north port (R210, R281). -/
def State.sendThrottle (s : State) (v : Word) : State :=
  s.northUp.foldl (fun (s : State) (p : Nat) => s.sendMsg p (.of 0x11 0xFFF (s.portStamp p) [v])) s

/-- THROTTLE_OWN and THROTTLE_AGG after the pool or a port changed, with the messages, interrupt and flag of a change
(R208-R211), and POOL_PEAK. -/
def State.throttleUpdate (s : State) : State :=
  let used := s.poolUsed
  let own := if s.cfgF C.highWater ≤ used then 1 else if used ≤ s.cfgF C.lowWater then 0 else s.getF R.throttleOwn
  let s := (s.setF R.throttleOwn own).setF R.poolPeak (max used (s.getF R.poolPeak))
  let south := (List.range 16).any fun p => s.getF (R.southState p) = 1 && s.portUp p &&
    s.cfgF C.throttleSouthMask / 2 ^ p % 2 = 1
  let agg : Bool := own = 1 ∨ south
  if agg = s.pool.agg then s
  else
    let s := { s with pool := { s.pool with agg := agg, lastThrottle := s.ticks } }
    let s := if agg then s.setFlag R.throttleEvent else s
    if s.isRoot then s.msix 8
    else s.sendThrottle (if agg then 1 else 0)

/-- The code words of item words, two to a word; a poisoned word poisons its code word (R178, R323). -/
def codeWords : List PWord → List (BitVec 152)
  | [] => []
  | [a] => [if a.poison then poisonCw else encodeCw (a.w.zeroExtend 128)]
  | a :: b :: l =>
    (if a.poison || b.poison then poisonCw
     else encodeCw (BitVec.ofNat 128 (a.w.toNat + b.w.toNat * 2 ^ 64))) :: codeWords l

/-- Raw code words written from an address on. -/
def putCodeWords (t : Tab (BitVec 152)) : Nat → List (BitVec 152) → Tab (BitVec 152)
  | _, [] => t
  | a, c :: l => putCodeWords (Tab.set 0 t a c) (a + 1) l

/-- A slot header (R179). -/
def slotHeader (next queue cls : Nat) (first : Bool) (used itemWords : Nat) : BitVec 152 :=
  encodeCw (BitVec.ofNat 128 (next + queue * 2 ^ 18 + cls * 2 ^ 28 + (if first then 2 ^ 31 else 0) + used * 2 ^ 32 +
    itemWords * 2 ^ 64))

/-- The words of an item written into its slots, 30 to a slot, with their headers; each slot stands with the queue that allocated
it. -/
def putSlots (t : Tab (BitVec 152)) (cls itemWords : Nat) : Bool → List (Nat × Nat) → List PWord → Tab (BitVec 152)
  | _, [], _ => t
  | first, (n, queue) :: l, ws =>
    let part := ws.take 30
    let t := Tab.set 0 t (n * 16)
      (slotHeader ((l.map Prod.fst).headD 0x3FFFF) queue cls first part.length (if first then itemWords else 0))
    putSlots (putCodeWords t (n * 16 + 1) (codeWords part)) cls itemWords false l (ws.drop 30)

/-- Words written into slots of the pool: a code word that is written no longer waits for the rewrite of R324. -/
def State.writePool (s : State) (cls itemWords : Nat) (slots : List (Nat × Nat)) (ws : List PWord) : State :=
  let v := s.mem 0
  let cells := putSlots v.cells cls itemWords true slots ws
  s.setMem 0 { v with cells := cells, ueSeen := v.ueSeen.filter fun a => classify (Tab.get 0 cells a) = .ue }

/-- An item's words written into the pool. -/
def State.writeSlots (s : State) (i : Item) (ws : List PWord) (itemWords : Nat) : State :=
  s.writePool i.cls.code itemWords (i.slots.zip i.homes) ws

/-- Slots needed for `n` words. -/
def slotsFor (n : Nat) : Nat := max 1 ((n + 29) / 30)

/-- An item grown by slots until it holds `n`. The first argument bounds the slots taken. -/
def State.growItem : Nat → State → Nat → Nat → Grow × State
  | 0, s, _, _ => (.done, s)
  | fuel + 1, s, id, n =>
    match s.item id with
    | none => (.full, s)
    | some i =>
      if n ≤ i.slots.length then (.done, s)
      else match s.takeSlot i.queue with
        | (.done, k, s) =>
          State.growItem fuel (s.modItem id fun i => { i with slots := i.slots ++ [k], homes := i.homes ++ [i.queue] }) id n
        | (g, _, s) => (g, s)

/-- A new item under construction; its number is the state's next one. -/
def State.newItem (s : State) (q : Nat) (cls : Cls) : State :=
  { s with pool := { s.pool with nextItem := s.pool.nextItem + 1, items := s.pool.items ++
      [{ id := s.pool.nextItem, queue := q, cls := cls, slots := [] }] } }

/-- An item becomes complete: its words stand in its slots, and its age is taken (R184). -/
def State.completeItem (s : State) (id : Nat) : State :=
  match s.item id with
  | none => s
  | some i =>
    let i' := { i with slots := i.slots.take (slotsFor i.words.length), homes := i.homes.take (slotsFor i.words.length),
                       complete := true, age := s.pool.nextAge, length := i.words.length, words := [] }
    let s := ({ s with pool := { s.pool with nextAge := s.pool.nextAge + 1 } }).modItem id fun _ => i'
    s.writeSlots i' i.words i.words.length

/-- Pool transfers wait while partition 0 is under logic BIST (R481). -/
def State.transfersWait (s : State) : Bool := s.test.logic = some 0

/-- An item waits behind those that wait already. -/
def State.hold (s : State) (q : Nat) (cls : Cls) (ws : List PWord) : State :=
  { s with pool := { s.pool with held := s.pool.held ++ [(q, cls, ws)] } }

/-- A whole item stored in a queue, or dropped and counted where the queue cannot take it (R188-R190). It waits while partition 0 is under
test (R481), where every bank but the one under test is full (R312), and behind items that wait (R414). -/
def State.storeRaw (s : State) (q : Nat) (cls : Cls) (ws : List PWord) : State :=
  if s.transfersWait ∨ s.pool.held ≠ [] then s.hold q cls ws
  else
    let id := s.pool.nextItem
    match ((s.newItem q cls).modItem id fun i => { i with words := ws }).growItem (slotsFor ws.length + 1) id (slotsFor ws.length) with
    | (.done, s) => (s.completeItem id).throttleUpdate
    | (.full, s) => ((s.freeItem id).countLost q 1).throttleUpdate
    | (.waits, s) => (s.freeItem id).hold q cls ws

/-- The words of a control/status item (R171). -/
def State.controlWords (s : State) (code arg : Nat) (payload : List Word) : List PWord :=
  let head := 7 * 2 ^ 60 + code * 2 ^ 56 + s.node.nodeId.toNat * 2 ^ 44 + arg * 2 ^ 24 + payload.length
  ⟨BitVec.ofNat 64 head, false⟩ :: payload.map fun w => ⟨w, false⟩

/-- The words of a notice (R414, R415). -/
def State.noticeWords (s : State) (code : Nat) (payload : List Byte) : List PWord :=
  s.controlWords 3 0 (bytesWords (leBytes 8 (code + s.node.noticeSeq.toNat * 2 ^ 16 + payload.length * 2 ^ 32) ++ payload))

/-- The next notice takes the next SEQ. -/
def State.noticed (s : State) : State := { s with node := { s.node with noticeSeq := s.node.noticeSeq + 1 } }

/-- A notice of a memory error or a queue reset, stored as the error is dealt with. -/
def State.noticeRaw (s : State) (code : Nat) (payload : List Byte) : State :=
  s.noticed.storeRaw 0 .control (s.noticeWords code payload)

/-- A pair member sets FAIL and keeps the first cause (R301); HEALTH_OUT is held low (R299). -/
def State.setFail (s : State) (cause : Nat) : State :=
  if s.paired ∧ s.getF R.fail = 0 then
    ({ s with pair := { s.pair with failCause := BitVec.ofNat 4 cause, healthOut := false } }).setF R.fail 1
  else s

/-! ## Error log, buckets and memory notices (R324-R335) -/

/-- A slot of the error log that nothing has written: SYMBOL resets to 0x1F (R334). -/
def logReset : Word × Word := (0x7C000000, 0)

/-- An error-log entry (R334), sent as an ERROR_LOG item as well. -/
def State.logEntry (s : State) (mem addr sym cls origin value suppressed : Nat) : State :=
  let slot := s.getF R.logNext
  let w0 := mem + addr % 2 ^ 22 * 16 + sym * 2 ^ 26 + cls * 2 ^ 32 + origin * 2 ^ 35 + value * 2 ^ 40 +
    s.getF R.logSeq * 2 ^ 48
  let w1 := (if s.coarseRuns then s.time.coarse.toNat else 0) + min suppressed 0xFFFF * 2 ^ 48
  let e : Word × Word := (BitVec.ofNat 64 w0, BitVec.ofNat 64 w1)
  let s := { s with prot := { s.prot with log := Tab.set logReset s.prot.log slot e } }
  ((s.setF R.logNext (slot + 1)).incWrap R.logSeq 1).storeRaw 0 .control (s.controlWords 2 0 [e.1, e.2])

/-- ORIGIN of an entry that no read, write or scrub visit of a code word causes: the rules give it no value, so it is a free one of
the three codes. -/
def State.freeOrigin (s : State) : Nat := s.fresh.toNat % 3

/-- The number of a macro: memory, group and symbol (R335). -/
def macroOf (mem addr sym : Nat) : Nat := (mem * 16 + addr / 2 ^ 18) * 32 + sym

/-- An entry named among the 8 newest. -/
def State.remember (s : State) (mac : Nat) : State :=
  { s with prot := { s.prot with recent := ((mac, s.ticks) :: s.prot.recent).take 8,
                                 logTimes := Tab.set 0 s.prot.logTimes mac (s.ticks + 1) } }

/-- A memory notice of the gathered causes, at most one per memory in 1 ms (R415). Until LINKUP, whose boot notice is the first, the causes
gather. -/
def State.memNotice (s : State) (m : Nat) : State :=
  let v := s.mem m
  let due : Bool := match v.noticeAt with | none => true | some t => decide (t + 160000 ≤ s.ticks)
  if v.noticeCauses = 0 ∨ ¬ due ∨ s.node.state.code < 3 then s
  else (s.setMem m { v with noticeCauses := 0, noticeAt := some s.ticks }).noticeRaw 0x8006
    (leBytes 1 m ++ leBytes 1 v.noticeCauses.toNat ++ leBytes 2 (s.getF R.logSeq + 65535))

/-- The memory interrupt and notice of a flag set in MEM_STATUSm: cause bit 0 bucket, 1 UE, 2 lap. -/
def State.memEvent (s : State) (m : Nat) (f : FlagF) (cause : BitVec 3) : State :=
  let s := (s.setFlag f).msix 9
  (s.setMem m { s.mem m with noticeCauses := (s.mem m).noticeCauses ||| cause }).memNotice m

/-- A correction of class CE (0) or POISON_CE (2): counters, bucket and log (R332, R335). -/
def State.correction (s : State) (m addr sym value cls origin : Nat) : State :=
  let s := s.incWrap (R.ceCount m) 1
  let mac := macroOf m addr sym
  let lastAt := Tab.get 0 s.prot.logTimes mac
  let named := (s.prot.recent.any fun e => e.1 = mac) && (lastAt = 0 || s.ticks + 1 < lastAt + 160000)
  let supp := Tab.get 0 s.prot.suppressed mac
  let s :=
    if named then
      ({ s with prot := { s.prot with suppressed := Tab.set 0 s.prot.suppressed mac (supp + 1) } }).inc (R.logSuppressed m)
    else
      ({ s with prot := { s.prot with suppressed := Tab.set 0 s.prot.suppressed mac 0 } }).logEntry m addr sym cls origin
        value supp |>.remember mac
  let lv := s.getF (R.level m)
  let s := s.inc (R.level m)
  if lv + 1 = s.cfgF (C.bucketThreshold m) ∧ (s.mem m).armed then
    (s.setMem m { s.mem m with armed := false }).memEvent m (R.bucketOvf m) 1
  else s

/-- An uncorrectable code word's single log entry and flag (R324, R325). -/
def State.ueFound (s : State) (m addr origin : Nat) (count : RF) : State :=
  ((s.logEntry m addr 0x1F 1 origin 0 0).remember (macroOf m addr 0x1F)).inc count |>.memEvent m (R.ueEvent m) 2

/-! ## Code words -/

/-- The raw code word at an address, and a write of it; writes to a retired unit of the directory or the segment memory are
discarded (R337). -/
def State.raw (s : State) (m addr : Nat) : BitVec 152 := Tab.get 0 (s.mem m).cells addr
def State.setRaw (s : State) (m addr : Nat) (c : BitVec 152) : State :=
  if m ≠ 0 ∧ s.unitRetired m (addr / 256) then s
  else
    let v := s.mem m
    let seen := v.ueSeen.filter (· ≠ addr)
    s.setMem m { v with cells := Tab.set 0 v.cells addr c, ueSeen := seen }

/-- The bits of the bytes that a mask names. -/
def byteBits (mask : BitVec 16) : BitVec 128 :=
  BitVec.ofNat 128 ((List.range 16).foldl (fun a i => if mask.getLsbD i then a + 0xFF * 2 ^ (8 * i) else a) 0)

/-- A merge buffer entry drains into its code word (R328); one for a retired unit is discarded (R337). -/
def State.drainEntry (s : State) (m : Nat) (e : MbEntry) : State :=
  let s := s.setMem m { s.mem m with buffer := (s.mem m).buffer.filter fun x => x.addr ≠ e.addr }
  let bits := byteBits e.mask
  let merge (d : BitVec 128) := encodeCw ((d &&& ~~~bits) ||| (e.data &&& bits))
  if m ≠ 0 ∧ s.unitRetired m (e.addr / 256) then s
  else if e.mask = 0xFFFF then s.setRaw m e.addr (encodeCw e.data)
  else match classify (s.raw m e.addr) with
    | .clean => s.setRaw m e.addr (merge (cwData (s.raw m e.addr)))
    | .ce j v => (s.setRaw m e.addr (merge (cwData (flipSymbol (s.raw m e.addr) j v)))).correction m e.addr j v.toNat 0 1
    | .poison => (s.setRaw m e.addr poisonCw).inc (R.ueWrite m)
    | .poisonCe j v => ((s.setRaw m e.addr poisonCw).inc (R.ueWrite m)).correction m e.addr j v.toNat 2 1
    | .ue =>
      if (s.mem m).ueSeen.contains e.addr then (s.setRaw m e.addr poisonCw).inc (R.ueWrite m)
      else (s.setRaw m e.addr poisonCw).ueFound m e.addr 1 (R.ueWrite m)

/-- A write of some bytes of a code word through the merge buffer (R328). -/
def State.writeBytes (s : State) (m addr : Nat) (mask : BitVec 16) (data : BitVec 128) : State :=
  match (s.mem m).buffer.find? fun x => x.addr = addr with
  | some e =>
    let bits := byteBits mask
    let e' : MbEntry := { e with mask := e.mask ||| mask, data := (e.data &&& ~~~bits) ||| (data &&& bits) }
    let s := s.setMem m { s.mem m with buffer := (s.mem m).buffer.map fun x => if x.addr = addr then e' else x }
    if e'.mask = 0xFFFF then s.drainEntry m e' else s
  | none =>
    let e : MbEntry := ⟨addr, mask, data &&& byteBits mask⟩
    let l := (s.mem m).buffer
    let full : Bool := l.length = 16
    let s := s.setMem m { s.mem m with buffer := (if full then l.drop 1 else l) ++ [e] }
    let s := match l with
      | old :: _ => if full then s.drainEntry m old else s
      | [] => s
    if mask = 0xFFFF then s.drainEntry m e else s

/-- A 64-bit write of half `h` of a code word. -/
def State.writeHalf (s : State) (m addr h : Nat) (w : Word) : State :=
  s.writeBytes m addr (if h = 0 then 0x00FF else 0xFF00) (BitVec.ofNat 128 (w.toNat * 2 ^ (64 * (h % 2))))

/-- The merge buffer's entry for a code word drains before a read (R328). -/
def State.drainFor (s : State) (m addr : Nat) : State :=
  match (s.mem m).buffer.find? fun x => x.addr = addr with
  | some e => s.drainEntry m e
  | none => s

/-- A radiation upset of a code word's raw bits. -/
def State.upset (s : State) (m addr : Nat) (u : BitVec 152) : State :=
  if u = 0 then s else s.setMem m { s.mem m with cells := Tab.set 0 (s.mem m).cells addr (s.raw m addr ^^^ u) }

/-- A read of a code word that is not the scrubber's (R319, R324): its data, or none where it is delivered as poisoned.
A retired directory or segment unit reads as poisoned (R337). A corrected read of the poison pattern counts as a correction alone (assumption
165). -/
def State.readCw (s : State) (m addr : Nat) : Option (BitVec 128) × State :=
  if m ≠ 0 ∧ s.unitRetired m (addr / 256) then (none, s)
  else
    let s := s.drainFor m addr
    let c := s.raw m addr
    match classify c with
    | .clean => (some (cwData c), s)
    | .ce j v => (some (cwData (flipSymbol c j v)), s.correction m addr j v.toNat 0 0)
    | .poison => (none, s.inc (R.poisonRead m))
    | .poisonCe j v => (none, s.correction m addr j v.toNat 2 0)
    | .ue =>
      if (s.mem m).ueSeen.contains addr then (none, s.inc (R.poisonRead m))
      else
        let s := s.setMem m { s.mem m with ueSeen := addr :: (s.mem m).ueSeen }
        (none, s.ueFound m addr 0 (R.ueRead m))

/-! ### The tables in MEM 5 (R321, R326; assumption 84)

What the tables hold stands in the fields of its own; a code word of MEM 5 is all zero while it is intact. -/

/-- A read of a table's code word: whether it is poisoned. -/
def State.tableCw (s : State) (addr : Nat) : Bool × State :=
  match (s.mem 5).cells with
  | [] => (false, s)
  | _ =>
    let r := s.readCw 5 addr
    (r.1.isNone, r.2)

/-- The banks that the allocator looks at, from `b` on to the first that has a slot to give (R181). The first argument bounds them. -/
def State.mapBanks (s : State) : Nat → Nat → List Nat
  | 0, _ => []
  | fuel + 1, b =>
    let gives : Bool := decide (s.pool.excludedBank ≠ some (b % 12)) && (s.freeFrom 16384 (b % 12 * 16384)).isSome
    b % 12 :: if gives then [] else s.mapBanks fuel (b + 1)

/-- The allocator reads the code words of the free-slot map for the banks that it looks at (R181, R324): only a damaged one shows
anything. -/
def State.readMap (s : State) : State :=
  match (s.mem 5).cells with
  | [] => s
  | l => ((s.mapBanks 12 s.pool.bankPtr).flatMap fun b => (List.range 128).map fun i => Config.mapWord (b * 128 + i)).foldl
      (fun (s : State) (a : Nat) => if Tab.get 0 l a = 0 then s else (s.tableCw a).2) s

/-- Table code words written anew. -/
def State.tableWrite (s : State) (l : List Nat) : State :=
  match (s.mem 5).cells with
  | [] => s
  | _ => l.foldl (fun (s : State) (a : Nat) => s.setRaw 5 a 0) s

/-- Successive code words read from an address on. -/
def State.readCws : Nat → State → Nat → Nat → List (Option (BitVec 128)) × State
  | 0, s, _, _ => ([], s)
  | n + 1, s, m, a =>
    let r := s.readCw m a
    let t := State.readCws n r.2 m (a + 1)
    (r.1 :: t.1, t.2)

/-- The two 64-bit words of a read code word. -/
def halves (d : Option (BitVec 128)) : List PWord :=
  match d with
  | some v => [⟨BitVec.ofNat 64 v.toNat, false⟩, ⟨BitVec.ofNat 64 (v.toNat / 2 ^ 64), false⟩]
  | none => [⟨poisonWord64, true⟩, ⟨poisonWord64, true⟩]
where
  /-- 0xEEEE_EEEE_EEEE_EEEE (R323). -/
  poisonWord64 : Word := 0xEEEEEEEEEEEEEEEE

/-! ## Queue reset (R185, R186) -/

/-- An assembly whose item is lost discards the rest of it. -/
def Asm.cut (ids : List Nat) (a : Asm) : Asm :=
  match a.item with
  | some i => if ids.contains i then { a with item := none } else a
  | none => a

/-- A reader in the middle of a lost item completes it with POISON_WORD; one that has not begun it chooses again. -/
def Rd.cut (gone : List Item) (key : Nat) (r : Rd) : Rd :=
  match gone.find? fun i => r.item = some i.id with
  | none => r
  | some i =>
    if r.pos = 0 ∧ ¬ i.begun.any (fun x => readerKey x = key) then {}
    else
      let rest : List PWord := List.replicate (r.words.length - r.pos) ⟨0xEEEEEEEEEEEEEEEE, true⟩
      { r with words := r.words.take r.pos ++ rest }

/-- Items are lost with the pair port's views of them; no queue reaches their slots, and a reader in one of them completes it with
POISON_WORD. -/
def State.cutItems (s : State) (ids : List Nat) : State :=
  let lost (i : Item) : Bool := ids.contains i.id || i.holder.any ids.contains
  let cut := s.pool.items.filter lost
  let s := s.setItems (s.pool.items.filter fun i => !lost i)
  let asms : Tab Asm := s.pool.asms.map fun e => (e.1, e.2.cut ids)
  let readers : Tab Rd := (s.pool.readers.map fun e => (e.1, e.2.cut cut e.1)).filter fun e => e.2 ≠ {}
  let parked : Tab Rd := s.pool.parked.map fun e => (e.1, e.2.cut cut 3)
  let orphans : List Nat := s.pool.orphans ++ cut.flatMap fun i => i.slots
  { s with pool := { s.pool with orphans := orphans, asms := asms, readers := readers, parked := parked } }

/-- A queue is reset: its items are lost, the error is logged and a reclaim pass is due. Causes: 0 pointer copies differ, 1 poisoned slot header, 2 short chain. -/
def State.resetQueue (s : State) (q cause : Nat) : State :=
  let ids := (s.pool.items.filter fun i => i.queue = q).map (·.id)
  let s := s.cutItems ids
  let s := { s with pool := { s.pool with reclaimDue := true } }
  let s := (s.loseEntries ids).countLost q ids.length
  let s := (((s.logEntry 5 q 0x1F 4 s.freeOrigin 0 0).remember (macroOf 5 q 0x1F)).drawn).setFlag R.queueReset
  let s := s.noticeRaw 0x8005 (leBytes 2 q ++ leBytes 1 cause ++ leBytes 1 0 ++ leBytes 2 (s.getF R.logSeq + 65535))
  let near := (s.ticks :: s.pair.queueResets).filter fun t => s.ticks < t + 160000000
  let s := { s with pair := { s.pair with queueResets := near } }
  (if 4 < near.length then s.setFail 3 else s).throttleUpdate

/-- The pointer code words of a queue: both copies of each class list (R185). -/
def pointerWords (q : Nat) : List Nat :=
  (List.range 5).flatMap fun c => [Config.pointerWord q c false, Config.pointerWord q c true]

/-- The two pointer copies of a queue are compared as one of its lists is used: a poisoned copy differs, and the queue is reset with its
pointers written anew (R185, R186, R326). -/
def State.checkQueue (s : State) (q : Nat) : State :=
  match (s.mem 5).cells with
  | [] => s
  | _ =>
    let r : Bool × State := (pointerWords q).foldl (fun (r : Bool × State) (a : Nat) =>
      let x := r.2.tableCw a
      (r.1 || x.1, x.2)) (false, s)
    if r.1 then (r.2.tableWrite (pointerWords q)).resetQueue q 0 else r.2

/-! ## Items, notices and the node state -/

/-- An item enters a queue: its pointers are compared (R185), and it is stored. -/
def State.storeItem (s : State) (q : Nat) (cls : Cls) (ws : List PWord) : State := (s.checkQueue q).storeRaw q cls ws

/-- The items that wait for a slot are stored in their order as far as slots are free. -/
def State.storeHeld (s : State) : State :=
  s.pool.held.foldl (fun (s : State) (e : Nat × Cls × List PWord) => s.storeItem e.1 e.2.1 e.2.2)
    { s with pool := { s.pool with held := [] } }

/-- A control/status item (R171) stored in OUTPUT. -/
def State.controlItem (s : State) (code arg : Nat) (payload : List Word) : State :=
  s.storeItem 0 .control (s.controlWords code arg payload)

/-- A notice (R414, R415). -/
def State.notice (s : State) (code : Nat) (payload : List Byte) : State :=
  let s := s.checkQueue 0
  s.noticeRaw code payload

/-- A change of node state: the state notice while firmware runs, and vector 12 (R354, R415). -/
def State.enterState (s : State) (n : NodeState) : State :=
  let old := s.node.state
  if old = n then s
  else
    let s := { s with node := { s.node with state := n } }
    let s := if 3 ≤ n.code ∧ 2 ≤ old.code then s.notice 0x8002 (leBytes 1 old.code ++ leBytes 1 n.code) else s
    s.msix 12

/-- The timebase notice of a region. -/
def State.tbNotice (s : State) (r : Nat) : State :=
  s.notice 0x8003 (leBytes 1 r ++ leBytes 1 (s.regionState r) ++ leBytes 1 (s.getF (R.realign r)) ++ leBytes 1 0 ++
    leBytes 4 (s.getF (R.holdoverBound r)))

/-! ## Reading an item (R185, R203) -/

/-- The words of a chain of at most `k` slots from slot `n` on, as NEXT leads, or none where a slot header reads as poisoned. -/
def State.readChain : Nat → State → Nat → Option (List PWord) × State
  | 0, s, _ => (some [], s)
  | k + 1, s, n =>
    let h := s.readCw 0 (n * 16)
    match h.1 with
    | none => (none, h.2)
    | some d =>
      let used := nget d.toNat 32 5
      let next := nget d.toNat 0 18
      let ws := State.readCws ((used + 1) / 2) h.2 0 (n * 16 + 1)
      let t := if next = 0x3FFFF then (some [], ws.2) else State.readChain k ws.2 next
      (t.1.map fun r => (ws.1.flatMap halves).take used ++ r, t.2)

/-- The queue that a reader of an item reaches it through: for the pair port's view, that of the item which holds it (R183, R206). -/
def State.queueOf (s : State) (i : Item) : Nat := ((i.holder.bind s.item).getD i).queue

/-- The trailer of a fragment (R162): its NODE_ID and BODY_WORDS are those of the header. -/
def trailerFor (nodeId bodyWords : Nat) (ws : List PWord) : PWord :=
  ⟨BitVec.ofNat 64 (3 * 2 ^ 60 + nodeId % 4096 * 2 ^ 48 + bodyWords % 65536 * 2 ^ 32 +
    (crcWords (ws.map (·.w))).toNat), false⟩

/-- The words a reader delivers for an item, read when it begins the item: a merged fragment's trailer is generated (R203).
A poisoned slot header or a short chain resets the queue (R185). -/
def State.readItem (s : State) (i : Item) : Option (List PWord) × State :=
  let l := if i.view.isEmpty then i.slots else i.view
  let r := State.readChain l.length s (l.headD 0)
  match r.1 with
  | none => (none, r.2.resetQueue (s.queueOf i) 1)
  | some ws =>
    if i.gen then
      let h0 := (ws.headD ⟨0, false⟩).w.toNat
      let h1 := (ws.getD 1 ⟨0, false⟩).w.toNat
      let out := ws ++ [trailerFor (nget h0 16 12) (nget h1 30 24) ws]
      if out.length < i.length then (none, r.2.resetQueue (s.queueOf i) 2) else (some out, r.2)
    else if ws.length < i.length then (none, r.2.resetQueue (s.queueOf i) 2)
    else (some ws, r.2)

end Sys2Proof.Machine
end

