-- ==== Sys2Proof/Machine/Pack.lean ====
section
/-! DEFINITION. Ocnis Pack: the decoder of R236-R242 with the faults of R248-R251, and the encoder of R243-R246. -/

namespace Sys2Proof.Machine

/-- A stream byte with the poison mark of the word it came from. -/
abbrev PByte := Byte × Bool

/-- The bytes of words in stream order, each with its word's poison mark (R236). -/
def pwordBytes (l : List PWord) : List PByte := l.flatMap fun p => (leBytes 8 p.w.toNat).map fun b => (b, p.poison)

/-- The next `n` input bytes, or the fault met: 6 for a poisoned word (R251), 4 for the end of the input (R242). -/
def takeBytes : Nat → List PByte → Except Nat (List Byte × List PByte)
  | 0, inp => .ok ([], inp)
  | _ + 1, [] => .error 4
  | n + 1, (b, p) :: inp =>
    if p then .error 6
    else match takeBytes n inp with
      | .ok (l, r) => .ok (b :: l, r)
      | .error e => .error e

/-- A count extended from a base (R240). -/
def extCount (base : Nat) (inp : List PByte) : Except Nat (Nat × List PByte) :=
  match takeBytes 1 inp with
  | .error e => .error e
  | .ok (e, r) =>
    if leVal e < 255 then .ok (base + leVal e, r)
    else match takeBytes 2 r with
      | .error e => .error e
      | .ok (v, r) => .ok (base + 255 + leVal v, r)

/-- `m` bytes copied from `d` positions back; the output is held newest first (R241). -/
def copyBack (d : Nat) : Nat → List Byte → List Byte
  | 0, out => out
  | m + 1, out => copyBack d m (out.getD (d - 1) 0 :: out)

/-- The distance that C[2:0] selects (R239). -/
def takeDistance (sel ld : Nat) (inp : List PByte) : Except Nat (Nat × List PByte) :=
  if sel = 0 then .ok (8, inp)
  else if sel = 1 then .ok (16, inp)
  else if sel = 2 then .ok (ld, inp)
  else if sel = 3 then
    match takeBytes 1 inp with
    | .ok (b, r) => .ok (leVal b + 1, r)
    | .error e => .error e
  else match takeBytes 2 inp with
    | .ok (v, r) => if leVal v = 0 then .error 1 else .ok (leVal v, r)
    | .error e => .error e

/-- The token loop of R242: `out` newest first, `len` its length. The first argument bounds the number of tokens. -/
def decodeTokens : Nat → Nat → Nat → Nat → List Byte → List PByte → Except Nat (List Byte × List PByte)
  | 0, _, _, _, out, inp => .ok (out, inp)
  | fuel + 1, rawLen, ld, len, out, inp =>
    if rawLen ≤ len then .ok (out, inp)
    else match takeBytes 1 inp with
      | .error e => .error e
      | .ok (cb, inp) =>
        let c := leVal cb
        if c < 0x80 then
          match (if c = 0x7F then extCount 128 inp else .ok (c + 1, inp)) with
          | .error e => .error e
          | .ok (n, inp) =>
            if rawLen < len + n then .error 3
            else match takeBytes n inp with
              | .error e => .error e
              | .ok (l, inp) => decodeTokens fuel rawLen ld (len + n) (l.reverse ++ out) inp
        else if 5 ≤ c % 8 then .error 1
        else
          match (if c / 8 % 16 = 15 then extCount 19 inp else .ok (c / 8 % 16 + 4, inp)) with
          | .error e => .error e
          | .ok (m, inp) =>
            match takeDistance (c % 8) ld inp with
            | .error e => .error e
            | .ok (d, inp) =>
              if len < d then .error 2
              else if rawLen < len + m then .error 3
              else decodeTokens fuel rawLen d (len + m) (copyBack d m out) inp

/-- What decoding a block gives: its raw bytes with their poison marks, the rest of the input and LAST; or the fault's
code with the raw length its header gave, if the header was valid (R250). -/
inductive BlockResult where
  | ok (out : List PByte) (rest : List PByte) (last : Bool)
  | fault (code : Nat) (rawLen : Option Nat)
  deriving DecidableEq, Repr

/-- Bit `j` of a poison map (R238). -/
def mapBit (m : List Byte) (j : Nat) : Bool := (m.getD (j / 8) 0).getLsbD (j % 8)

/-- One block (R242). In an image stream KIND 2 is illegal. A KIND 2 header whose RAW_LEN is no multiple of 8 is a valid header all the same, so
its words are lost (R250; assumption 163). -/
def decodeBlock (image : Bool) (inp : List PByte) : BlockResult :=
  match takeBytes 4 inp with
  | .error e => .fault e none
  | .ok (hb, inp) =>
    let h := leVal hb
    let kind := h % 4
    let rawLen := h / 16 % 65536 + 1
    let last := h / 4 % 2 = 1
    if kind = 3 ∨ h / 8 % 2 = 1 ∨ h / 2 ^ 20 ≠ 0 then .fault 1 none
    else
      let w := rawLen / 8
      let mapLen := 8 * ((w + 63) / 64)
      let body : Except Nat (List Byte × List Byte × List PByte) :=
        if kind = 2 then
          if image ∨ rawLen % 8 ≠ 0 then .error 1
          else match takeBytes mapLen inp with
            | .error e => .error e
            | .ok (m, inp) =>
              if (List.range (8 * mapLen)).any (fun j => w ≤ j && mapBit m j) then .error 1
              else match takeBytes rawLen inp with
                | .error e => .error e
                | .ok (l, inp) => .ok (m, l, inp)
        else if kind = 0 then
          match takeBytes rawLen inp with
          | .error e => .error e
          | .ok (l, inp) => .ok ([], l, inp)
        else match decodeTokens (rawLen + 1) rawLen 8 0 [] inp with
          | .error e => .error e
          | .ok (o, inp) => .ok ([], o.reverse, inp)
      match body with
      | .error e => .fault e (some rawLen)
      | .ok (m, out, inp) =>
        match takeBytes 4 inp with
        | .error e => .fault e (some rawLen)
        | .ok (t, inp) =>
          if leVal t ≠ (crc32c (m ++ out)).toNat then .fault 5 (some rawLen)
          else .ok (out.zipIdx.map fun e => (e.1, mapBit m (e.2 / 8))) inp last

/-- The result of decoding a stream: the released raw bytes, and the fault met with the byte offset it names, and how many
POISON_WORDs stand for the failed block (R250). -/
structure Decoded where
  out : List PByte
  fault : Option (Nat × Nat) := none
  lost : Nat := 0
  /-- Input bytes left after the block with LAST. -/
  used : Nat := 0
  deriving DecidableEq, Repr

/-- The blocks of a stream. The first argument bounds their number; `pos` is the present block's byte offset. Behind the last block, eight bytes
or more are an illegal token, in an image stream too and whatever their marks, and padding is judged before the length (assumption 163). -/
def decodeBlocks : Nat → Bool → Nat → List PByte → List PByte → Decoded
  | 0, _, pos, out, _ => { out := out, fault := some (4, pos), lost := 1 }
  | fuel + 1, image, pos, out, inp =>
    match decodeBlock image inp with
    | .fault c r => { out := out, fault := some (c, pos), lost := match r with | some n => (n + 7) / 8 | none => 1 }
    | .ok o rest last =>
      let out := out ++ o
      if ¬ last then decodeBlocks fuel image (pos + (inp.length - rest.length)) out rest
      else if 8 ≤ rest.length then { out := out, fault := some (1, pos) }
      else match rest.find? (fun b => b.2 || b.1 ≠ 0) with
        | some b => { out := out, fault := some (if b.2 then 6 else 1, pos) }
        | none =>
          if ¬ image ∧ out.length % 8 ≠ 0 then { out := out, fault := some (3, pos) }
          else { out := out, used := pos + (inp.length - rest.length) }

/-- A whole stream (R236, R242). -/
def decodeStream (image : Bool) (inp : List PByte) : Decoded := decodeBlocks (inp.length + 1) image 0 [] inp

/-- POISON_WORD (R153). -/
def poisonWord : Word := 0xEEEEEEEEEEEEEEEE

/-- The words of decoded bytes; a partial last word is one POISON_WORD (R250). -/
def bytesPWordsN : Nat → List PByte → List PWord
  | 0, _ => []
  | n + 1, l =>
    if l.isEmpty then []
    else if l.length < 8 then [⟨poisonWord, true⟩]
    else (if (l.take 8).any Prod.snd then ⟨poisonWord, true⟩
          else ⟨BitVec.ofNat 64 (leVal ((l.take 8).map Prod.fst)), false⟩) :: bytesPWordsN n (l.drop 8)

/-- The raw body that a packed body decodes to, faults included (R235, R250). -/
def rawBody (d : Decoded) : List PWord :=
  bytesPWordsN (d.out.length + 1) d.out ++ List.replicate d.lost ⟨poisonWord, true⟩

/-! ## The encoder -/

/-- The hash of R244. -/
def packHash (l : List Byte) : Nat := ((leVal (l.take 4) * 0x9E3779B1) % 2 ^ 32) / 2 ^ 20

/-- The length of the common prefix of two lists. -/
def commonPrefix : List Byte → List Byte → Nat
  | a :: l, b :: m => if a = b then commonPrefix l m + 1 else 0
  | _, _ => 0

/-- A count in its one encoding: the extension bytes from a base (R240). -/
def extBytes (base n : Nat) : List Byte :=
  if n - base < 255 then leBytes 1 (n - base) else 0xFF :: leBytes 2 (n - base - 255)

/-- A literal token (R239). -/
def literalToken (l : List Byte) : List Byte :=
  (if l.length ≤ 127 then leBytes 1 (l.length - 1) else 0x7F :: extBytes 128 l.length) ++ l

/-- A match token (R239, R244). -/
def matchToken (n d ld : Nat) : List Byte :=
  let sel := if d = 8 then 0 else if d = 16 then 1 else if d = ld then 2 else if d ≤ 256 then 3 else 4
  leBytes 1 (0x80 + 8 * (if n ≤ 18 then n - 4 else 15) + sel) ++ (if n ≤ 18 then [] else extBytes 19 n) ++
    (if sel = 3 then leBytes 1 (d - 1) else if sel = 4 then leBytes 2 d else [])

/-- The candidate with the longest match; an earlier candidate wins a tie (R244). -/
def bestMatch (raw : List Byte) (p : Nat) (cands : List Nat) : Nat × Nat :=
  cands.foldl (fun b d =>
    if d = 0 ∨ p < d then b
    else
      let n := commonPrefix (raw.drop p) (raw.drop (p - d))
      if b.1 < n then (n, d) else b) (0, 0)

/-- The greedy encoder of R244. `h` maps a hash to a position plus one. The first argument bounds the steps. -/
def packTokens : Nat → List Byte → Tab Nat → Nat → Nat → Nat → List Byte
  | 0, raw, _, _, _, lit => if lit < raw.length then literalToken (raw.drop lit) else []
  | fuel + 1, raw, h, ld, p, lit =>
    if raw.length < p + 4 then (if lit < raw.length then literalToken (raw.drop lit) else [])
    else
      let k := packHash (raw.drop p)
      let q := Tab.get 0 h k
      let h := Tab.set 0 h k (p + 1)
      let b := bestMatch raw p [8, 16, ld, if q = 0 then 0 else p - (q - 1)]
      if 4 ≤ b.1 then
        (if lit < p then literalToken ((raw.drop lit).take (p - lit)) else []) ++ matchToken b.1 b.2 ld ++
          packTokens fuel raw h b.2 (p + b.1) (p + b.1)
      else packTokens fuel raw h ld (p + 1) lit

/-- A block header (R237). -/
def packHeader (kind : Nat) (last : Bool) (rawLen : Nat) : List Byte :=
  leBytes 4 (kind + (if last then 4 else 0) + (rawLen - 1) * 16)

/-- The words that travel: a poisoned word is POISON_WORD. -/
def PWord.sent (p : PWord) : Word := if p.poison then poisonWord else p.w

/-- One block of R243-R246: its bytes, whether it was written STORED under R245, and whether verification failed. `fails`: the
decompressor of the pair finds a fault or a difference of its own, which nothing in the block shows. -/
def packBlock (ws : List PWord) (last fails : Bool) : List Byte × Bool × Bool :=
  let raw := wordsBytes (ws.map PWord.sent)
  if ws.any (·.poison) then
    let m := leBytes (8 * ((ws.length + 63) / 64))
      (ws.zipIdx.foldl (fun a e => if e.1.poison then a + 2 ^ e.2 else a) 0)
    (packHeader 2 last raw.length ++ m ++ raw ++ leBytes 4 (crc32c (m ++ raw)).toNat, false, false)
  else
    let crc := leBytes 4 (crc32c raw).toNat
    let stored := packHeader 0 last raw.length ++ raw ++ crc
    let packed := packHeader 1 last raw.length ++ packTokens (raw.length + 1) raw [] 8 0 0 ++ crc
    if packed.length < raw.length + 8 then
      match decodeBlock false (packed.map fun b => (b, false)) with
      | .ok o _ _ => if o.map Prod.fst = raw ∧ ¬ fails then (packed, false, false) else (stored, false, true)
      | .fault .. => (stored, false, true)
    else (stored, true, false)

/-- The blocks of a body of words: the stream's bytes, the blocks STORED under R245 and the verification failures; `fails k` for the
`k`-th block. -/
def packBodyN : Nat → (Nat → Bool) → List PWord → List Byte × Nat × Nat
  | 0, _, _ => ([], 0, 0)
  | n + 1, fails, ws =>
    if ws.isEmpty then ([], 0, 0)
    else
      let rest := ws.drop 8192
      let b := packBlock (ws.take 8192) rest.isEmpty (fails 0)
      let r := packBodyN n (fun k => fails (k + 1)) rest
      (b.1 ++ r.1, (if b.2.1 then 1 else 0) + r.2.1, (if b.2.2 then 1 else 0) + r.2.2)

/-- What compression makes of a body: the packed words, the bytes of the stream without padding, the blocks STORED, the verification
failures. -/
structure Packed where
  words : List PWord
  bytes : Nat
  stored : Nat
  fails : Nat
  deriving DecidableEq, Repr

/-- The packed body of a fragment (R234, R236). A word of a STORED_POISON block holds POISON_WORD and is not marked: its mark is in the
map. -/
def packBody (fails : Nat → Bool) (ws : List PWord) : Packed :=
  let b := packBodyN (ws.length / 8192 + 1) fails ws
  ⟨(bytesWords b.1).map fun w => ⟨w, false⟩, b.1.length, b.2.1, b.2.2⟩

end Sys2Proof.Machine
end

