-- ==== Sys2Proof/Machine/Operands.lean ====
section
/-! DEFINITION. The operand and word formats: fragment headers, entries and trailers (R159-R164), housekeeping and
telemetry words (R170, R172), messages and replies (R382, R383), the identity reply (R394) and control messages (R281). -/

namespace Sys2Proof.Machine

/-- Bits of a word. -/
def wget (w : Word) (lo n : Nat) : Nat := nget w.toNat lo n
def wset (w : Word) (lo n v : Nat) : Word := BitVec.ofNat 64 (nset w.toNat lo n v)

/-- The bits set in the low `n` bits of a mask, ascending. -/
def bitsOf (n m : Nat) : List Nat := (List.range n).filter fun i => m / 2 ^ i % 2 = 1

/-- The contents of a fragment header (R159, R160). -/
structure Head where
  key : MergeKey
  nodeId : Nat
  kind : Nat := 0
  comp : Nat := 0
  corr : Nat := 0
  bank : Nat := 0
  wrap : Nat := 0
  holdover : Nat := 0
  degraded : Nat := 0
  incomplete : Nat := 0
  missing : Nat := 0
  late : Nat := 0
  poison : Nat := 0
  slot : Nat := 0
  bodyWords : Nat := 0
  lostItems : Nat := 0
  entries : Nat := 0
  level : Nat := 0
  trigTime : Nat := 0
  /-- Word 1 of the header is poisoned; word 2 of an event header is. -/
  slotPoison : Bool := false
  trigPoison : Bool := false
  deriving DecidableEq, Repr

def keyIsEvent : MergeKey → Bool
  | .frame _ => false
  | .event .. => true

/-- Header words of a fragment: two, or three for an event. -/
def headWords (k : MergeKey) : Nat := if keyIsEvent k then 3 else 2

def Head.words (h : Head) : List Word :=
  let w1 := BitVec.ofNat 64 (h.slot * 2 ^ 54 + h.bodyWords % 2 ^ 24 * 2 ^ 30 + min h.lostItems 0xFFFF * 2 ^ 14 +
    h.entries * 2 ^ 9 + h.level * 2 ^ 6)
  let low := h.nodeId * 2 ^ 16 + h.kind * 2 ^ 15 + h.comp * 2 ^ 14 + h.corr * 2 ^ 13 + h.bank * 2 ^ 12
  match h.key with
  | .frame f => [BitVec.ofNat 64 (2 * 2 ^ 60 + f.toNat * 2 ^ 28 + low + h.wrap * 2 ^ 11 + h.holdover * 2 ^ 10 +
      h.degraded * 2 ^ 9 + h.incomplete * 2 ^ 8 + h.missing * 2 ^ 7 + h.late * 2 ^ 6 + h.poison * 2 ^ 5), w1]
  | .event ns n => [BitVec.ofNat 64 (4 * 2 ^ 60 + n.toNat * 2 ^ 28 + low + ns.toNat * 2 ^ 10 + h.holdover * 2 ^ 9 +
      h.degraded * 2 ^ 8 + h.incomplete * 2 ^ 7 + h.missing * 2 ^ 6 + h.late * 2 ^ 5 + h.poison * 2 ^ 4), w1,
      BitVec.ofNat 64 h.trigTime]

/-- The header that stands at the front of a list of words, if its first word is of TYPE 0x2 or 0x4. -/
def parseHead (ws : List Word) : Option Head :=
  let w0 := ws.headD 0
  let w1 := ws.getD 1 0
  let ev := wget w0 60 4 = 4
  if wget w0 60 4 ≠ 2 ∧ ¬ ev then none
  else
    let d := if ev then 1 else 0
    some { key := if ev then .event (BitVec.ofNat 2 (wget w0 10 2)) (BitVec.ofNat 32 (wget w0 28 32))
                  else .frame (BitVec.ofNat 32 (wget w0 28 32))
           nodeId := wget w0 16 12, kind := wget w0 15 1, comp := wget w0 14 1, corr := wget w0 13 1,
           bank := wget w0 12 1, wrap := if ev then 0 else wget w0 11 1, holdover := wget w0 (10 - d) 1,
           degraded := wget w0 (9 - d) 1, incomplete := wget w0 (8 - d) 1, missing := wget w0 (7 - d) 1,
           late := wget w0 (6 - d) 1, poison := wget w0 (5 - d) 1, slot := wget w1 54 10, bodyWords := wget w1 30 24,
           lostItems := wget w1 14 16, entries := wget w1 9 5, level := wget w1 6 3,
           trigTime := if ev then wget (ws.getD 2 0) 0 61 else 0 }

/-- A child-table entry (R164). -/
def childEntry (node status words : Nat) : Word := BitVec.ofNat 64 (node * 2 ^ 52 + status * 2 ^ 49 + words * 2 ^ 25)

/-- A word that is not poisoned. -/
def pw (w : Word) : PWord := ⟨w, false⟩

/-- A word that is poisoned is POISON_WORD (R153). -/
def markWord (w : PWord) (bad : Bool) : PWord := if w.poison || bad then ⟨poisonWord, true⟩ else w

/-- The words of a header with their marks. -/
def Head.pwords (h : Head) : List PWord :=
  h.words.zipIdx.map fun e => markWord (pw e.1) ((h.slotPoison && e.2 = 1) || (h.trigPoison && e.2 = 2))

/-- A header and body with the trailer that closes them (R162). -/
def sealFragment (h : Head) (body : List PWord) : List PWord :=
  let ws := h.pwords ++ body
  ws ++ [trailerFor h.nodeId h.bodyWords ws]

/-- A hit word (R154). -/
def hitWord (cell fine coarseLo q range pileup settle sat holdover poison : Nat) : Word :=
  BitVec.ofNat 64 (2 ^ 60 + cell * 2 ^ 49 + fine * 2 ^ 36 + coarseLo % 65536 * 2 ^ 20 + q * 2 ^ 8 + range * 2 ^ 6 +
    pileup * 2 ^ 5 + settle * 2 ^ 4 + sat * 2 ^ 3 + holdover * 2 ^ 2 + poison)

/-- A waveform record header (R137). -/
def recordHeader (cell n : Nat) (trigPos : Int) (src flags : Nat) (trigTime poisonMask firstCoarse : Nat) : List Word :=
  [BitVec.ofNat 64 (5 * 2 ^ 60 + cell * 2 ^ 49 + n * 2 ^ 36 + unsigned 17 trigPos * 2 ^ 19 + src * 2 ^ 16 + flags),
   BitVec.ofNat 64 trigTime, BitVec.ofNat 64 (poisonMask * 2 ^ 48 + firstCoarse % 2 ^ 48)]

/-- A housekeeping word (R170). -/
def hkWord (s : State) (src entry flags value : Nat) : Word :=
  BitVec.ofNat 64 (6 * 2 ^ 60 + s.node.nodeId.toNat * 2 ^ 48 + src * 2 ^ 45 + entry * 2 ^ 41 + flags * 2 ^ 36 +
    value % 2 ^ 32)

/-- A loop telemetry word (R172). -/
def telemetryWord (s : State) (loop stage : Nat) (clamped ramping : Bool) (exp : Nat) (mant : Int) (seq : Nat) : Word :=
  BitVec.ofNat 64 (8 * 2 ^ 60 + s.node.nodeId.toNat * 2 ^ 48 + loop * 2 ^ 43 + stage * 2 ^ 40 +
    boolNat clamped * 2 ^ 39 + boolNat ramping * 2 ^ 38 + exp * 2 ^ 32 + unsigned 18 mant * 2 ^ 14 + seq % 2 ^ 14)

/-- The first payload word of a control message on a link (R281). -/
def CtlMsg.header (m : CtlMsg) : Word :=
  BitVec.ofNat 64 (m.mtype.toNat * 2 ^ 56 + m.target.toNat * 2 ^ 44 + m.stamp.toNat)

/-- The control message in a control packet's payload. -/
def parseCtl (ws : List Word) : CtlMsg :=
  let w := ws.headD 0
  .of (BitVec.ofNat 8 (wget w 56 8)) (BitVec.ofNat 12 (wget w 44 12)) (BitVec.ofNat 32 (wget w 0 32)) (ws.drop 1)

/-- The words of a control packet's payload, with their marks. -/
def CtlMsg.words (m : CtlMsg) : List PWord := (m.header :: m.payload).zipIdx.map fun e => markWord (pw e.1) (m.bad.contains e.2)

/-- The message in a mailbox's 256 bytes (R382). -/
def parseMsg (mbox : Nat) (stamp : W32) (b : List Byte) : Msg :=
  let h := leAt b 0 8
  { mbox := mbox, stamp := stamp, opcode := BitVec.ofNat 16 (nget h 0 16), tag := BitVec.ofNat 16 (nget h 16 16),
    length := nget h 32 16, target := BitVec.ofNat 12 (nget h 48 12), quiet := nget h 60 1 = 1,
    args := bytesAt b 8 (min (nget h 32 16) 248) }

/-- A reply (R383, R384). -/
def replyBytes (opcode tag : Nat) (status : Nat) (payload : List Byte) : List Byte :=
  leBytes 8 (opcode + tag * 2 ^ 16 + payload.length * 2 ^ 32 + status * 2 ^ 48) ++ payload

/-- An argument byte and a little-endian argument field. -/
def Msg.byte (m : Msg) (i : Nat) : Nat := leAt m.args i 1
def Msg.field (m : Msg) (i n : Nat) : Nat := leAt m.args i n

/-- The commit record's VALID with a correct CHECK (R475, R478). -/
def recordCheck (v : Nat) : Nat := (crc8 ((List.range 9).map fun i => BitVec.ofNat 8 (v / 2 ^ (64 - 8 * i)))).toNat
def State.commitOk (s : State) : Bool := s.triBits 0 0 1 = 1 ∧ s.triBits 0 72 8 = recordCheck (s.triBits 0 0 72)
/-- A commit record (R475). -/
def commitRecord (generation crc : Nat) : BitVec 80 :=
  let v := 1 + generation * 2 ^ 8 + crc * 2 ^ 40
  BitVec.ofNat 80 (v + recordCheck v * 2 ^ 72)
def State.generation (s : State) : Nat := if s.commitOk then s.triBits 0 8 32 else 0

/-- The identity of the patch in force, 0 when none. -/
def State.patchId (s : State) : Nat :=
  match s.fw.patchInForce with
  | some l => (Config.patchId l).toNat
  | none => 0

/-- The identity reply (R394). -/
def State.identity (s : State) : List Byte :=
  leBytes 1 0xB0 ++ leBytes 1 (s.triBits 1 0 4) ++ leBytes 2 s.node.nodeId.toNat ++
    leBytes 2 (if s.commitOk ∧ s.slotValid then s.cfgF C.nodeSlot + 2 ^ 15 else 0) ++ leBytes 1 s.node.level.toNat ++
    leBytes 1 s.node.state.code ++ leBytes 1 s.node.incarnation.toNat ++ leBytes 1 s.node.bootCause.toNat ++
    leBytes 1 (boolNat s.node.patchDiscarded) ++ leBytes 1 0 ++ leBytes 4 0x01000000 ++ leBytes 4 s.patchId ++
    leBytes 4 s.generation ++ leBytes 8 Config.dieId.toNat

end Sys2Proof.Machine
end

