-- ==== Sys2Proof/Machine/AcqOps.lean ====
section
/-! DEFINITION. Operations of the acquisition: samples and pages of segment memory (R105, R126-R128), the judging of a
trigger (R131-R134), event fragments (R124, R125), Frost (R141) and hold-over intervals (R68). -/

namespace Sys2Proof.Machine

/-! ## Samples

Samples are numbered along `State.ticks`, which neither a load nor a wrap of the coarse time changes (assumption 125): sample `n` is
taken in tick 2n + P. A coarse time stands for the tick nearest to now. -/

/-- The tick, as `State.ticks` counts, of a coarse time. -/
def State.absTick (s : State) (c : BitVec 48) : Int := s.ticks + (c - s.time.coarse).toInt

/-- The coarse time of sample `n`'s sampling instant (R105). -/
def State.sampleTick (s : State) (n : Nat) : BitVec 48 :=
  s.time.coarse + BitVec.ofInt 48 ((2 * n + boolNat s.time.parity : Nat) - (s.ticks : Int))

/-- The last sample whose instant is at or before coarse time `c`. -/
def State.sampleAt (s : State) (c : BitVec 48) : Nat := ((s.absTick c - boolNat s.time.parity) / 2).toNat

/-- The last sample taken so far. -/
def State.lastSample (s : State) : Nat := (s.ticks - boolNat s.time.parity) / 2

/-- A record longer than the segment memory (R134). -/
def Rec.long (r : Rec) : Bool := 4096 < r.last + 1 - r.first

/-- One past the last sample that the samplers of a block have written when they write on. They write nothing behind the last sample
of a long record that is not yet read, which holds every page (R134). -/
def State.writtenEnd (s : State) (v : Block) : Nat :=
  (v.recs.filter fun r => r.long ∧ ¬ r.read).foldl (fun a r => min a (r.last + 1)) (s.lastSample + 1)

/-- The fillings of a page; that of the page being written counts what it holds so far. -/
def State.gensOf (s : State) (v : Block) (p : Nat) : List (Nat × Nat) :=
  match (Tab.get {} v.pages p).gens with
  | [] => []
  | (f, n) :: l => (if v.sampling ∧ v.page = some p then (f, min 64 (s.writtenEnd v - f)) else (f, n)) :: l

/-- What of each filling still stands: its first sample, and the containers from and to which it is not overwritten. -/
def visible : Nat → List (Nat × Nat) → List (Nat × Nat × Nat)
  | _, [] => []
  | lo, (f, n) :: l => (f, lo, n) :: visible (max lo n) l

/-- The runs of samples in a page, each with the container of sample 0 of its filling: first sample, one past the last, offset. -/
def State.spans (s : State) (v : Block) (p : Nat) : List (Nat × Nat × Nat) :=
  ((visible 0 (s.gensOf v p)).filter fun e => e.2.1 < e.2.2).map fun e => (e.1 + e.2.1, e.1 + e.2.2, e.1)

/-- The last sample the block has written: that of the newest history. -/
def State.lastWritten (s : State) (v : Block) : Nat :=
  match v.runs with
  | (_, some e) :: _ => e
  | (f, none) :: _ => max f (s.writtenEnd v - 1)
  | [] => 0

/-- The page and container of a sample that is in memory (R127). -/
def State.findSample (s : State) (v : Block) (n : Nat) : Option Nat :=
  (List.range 64).findSome? fun p =>
    ((s.spans v p).find? fun e => e.1 ≤ n ∧ n < e.2.1).map fun e => 64 * p + (n - e.2.2)

/-- Every sample from `a` to `b` is in memory: the spans are disjoint, so the overlaps add up. -/
def State.allInMemory (s : State) (v : Block) (a b : Nat) : Bool :=
  ((List.range 64).flatMap fun p => (s.spans v p).map fun e => min e.2.1 (b + 1) - max e.1 a).sum = b + 1 - a

def freePages (v : Block) : Nat := ((List.range 64).filter fun p => (Tab.get {} v.pages p).holders = []).length

/-- PAGES_NEEDED (R133). -/
def State.pagesNeeded (s : State) (b : Nat) : Nat := min 64 ((s.cfgF (C.pre b) + s.cfgF (C.post b) + 63) / 64 + 1)

/-- ARMED falls back to WAIT_PAGES and WAIT_PAGES returns to ARMED as FREE_PAGES says (R133). -/
def State.settlePages (s : State) (b : Nat) : State :=
  let st := s.getF (R.acqState b)
  let enough := s.pagesNeeded b ≤ freePages (s.block b)
  if st = 1 ∧ ¬ enough then s.setF (R.acqState b) 4 else if st = 4 ∧ enough then s.setF (R.acqState b) 1 else s

/-- The records being recorded: their last sample is not yet written (R130). -/
def recording (v : Block) : List Rec := v.recs.filter fun r => ¬ r.complete

/-- The samplers begin a page with sample `n`; every record being recorded holds it (R126, R132). -/
def Block.beginPage (v : Block) (p n : Nat) : Block :=
  let old := Tab.get {} v.pages p
  let ids := (recording v).map (·.id)
  let g : Page := ⟨(n, 0) :: old.gens, old.holders.filter (fun i => ¬ ids.contains i) ++ ids⟩
  { v with page := some p, lastPage := p, gap := false, pages := Tab.set {} v.pages p g }

/-- The next page after `p` in ascending order modulo 64 that may be begun: a free one, or one that only long records
being recorded hold (R126, R134). -/
def Block.nextPage (v : Block) (p : Nat) : Option Nat :=
  let long := ((recording v).filter Rec.long).map (·.id)
  ((List.range 64).map fun i => (p + 1 + i) % 64).find? fun q =>
    (Tab.get {} v.pages q).holders.all long.contains

/-- The current page is finished with the samples it holds; fillings that it overwrites whole no longer show. -/
def State.finishPage (s : State) (v : Block) : Block :=
  match v.page with
  | none => v
  | some p =>
    let g := Tab.get {} v.pages p
    match s.gensOf v p with
    | [] => v
    | (f, n) :: l => { v with pages := Tab.set {} v.pages p { g with gens := (f, n) :: l.filter fun e => n < e.2 } }

/-- The present history ends with sample `e` (R127). -/
def Block.endRun (v : Block) (e : Nat) : Block :=
  match v.runs with
  | (f, none) :: l => { v with runs := (f, some e) :: l }
  | _ => v

/-! ### The staging register (R322) -/

/-- The code word of MEM 2 that holds container `k` of a cell (R321). -/
def segAddr (c k : Nat) : Nat := c * 512 + k % 4096 / 8

/-- The data of a code word that is not in memory: corrected, or none where it does not decode. -/
def cwFixed (c : BitVec 152) : Option (BitVec 128) :=
  match classify c with
  | .clean => some (cwData c)
  | .ce j v => some (cwData (flipSymbol c j v))
  | _ => none

/-- The two bytes of a code word that hold container `k`. -/
def containerBytes (k : Nat) : BitVec 16 := BitVec.ofNat 16 (3 * 2 ^ (2 * (k % 8)))

/-- A staging register is written to its code word: whole, or where the sampler left it part-way over what the code word held, as any
partial write is (R322, R328). -/
def State.flushStaging (s : State) (c : Nat) : State :=
  match (s.cell c).staging with
  | none => s
  | some g =>
    let s := s.setCell c { s.cell c with staging := none }
    match cwFixed g.cw with
    | some d => s.drainEntry 2 ⟨g.addr, g.mask, d⟩
    | none => s.setRaw 2 g.addr poisonCw

/-- A container stored by the sampler: collected in the staging register, which is written with the eighth (R322). -/
def State.storeContainer (s : State) (c k : Nat) (x : BitVec 16) : State :=
  let addr := segAddr c k
  let s := match (s.cell c).staging with
    | some g => if g.addr = addr then s else s.flushStaging c
    | none => s
  let g : Staging := (s.cell c).staging.getD ⟨addr, 0, 0⟩
  let d := ((cwFixed g.cw).getD 0 &&& ~~~(byteBits (containerBytes k))) ||| BitVec.ofNat 128 (x.toNat * 2 ^ (16 * (k % 8)))
  let s := s.setCell c { s.cell c with staging := some ⟨addr, g.mask ||| containerBytes k, encodeCw d⟩ }
  if k % 8 = 7 then s.flushStaging c else s

/-- A code word of segment memory read, containers that are still being collected from the staging register (R322); those of a retired
unit read as 0xE000 (R337, R532). -/
def State.segRead (s : State) (addr : Nat) : Option (BitVec 128) × State :=
  let r := s.readCw 2 addr
  if s.unitRetired 2 (addr / 256) then (some 0xE000E000E000E000E000E000E000E000, r.2)
  else match (s.cell (addr / 512)).staging with
  | some g =>
    if g.addr ≠ addr then r
    else
      let bits := byteBits g.mask
      match cwFixed g.cw with
      | some d => (r.1.map fun x => (x &&& ~~~bits) ||| (d &&& bits), r.2)
      | none => (none, r.2)
  | none => r

/-- Successive code words of a memory read as the memory commands and the aperture read them. -/
def State.readWords : Nat → State → Nat → Nat → List (Option (BitVec 128)) × State
  | 0, s, _, _ => ([], s)
  | n + 1, s, m, a =>
    let r := if m = 2 then s.segRead a else s.readCw m a
    let t := State.readWords n r.2 m (a + 1)
    (r.1 :: t.1, t.2)

/-- A container read (R138, R322, R337): its 16 bits, none where it comes from a poisoned code word. One that the staging register
holds is read there alone. -/
def State.readContainer (s : State) (c k : Nat) : Option (BitVec 16) × State :=
  let addr := segAddr c k
  let cut (d : Option (BitVec 128)) : Option (BitVec 16) := d.map fun d => BitVec.ofNat 16 (d.toNat / 2 ^ (16 * (k % 8)))
  let read : Option (BitVec 16) × State :=
    let r := s.readCw 2 addr
    (cut r.1, r.2)
  match (s.cell c).staging with
  | some g =>
    if g.addr = addr ∧ g.mask.getLsbD (2 * (k % 8)) ∧ ¬ s.unitRetired 2 (addr / 256) then (cut (cwFixed g.cw), s) else read
  | none => read

/-- The staging registers of a block's cells are written (R322): its samplers leave them. -/
def State.flushBlock (s : State) (b : Nat) : State := (List.range 16).foldl (fun s i => s.flushStaging (16 * b + i)) s

/-- The samplers of a block stop and its history ends (R127, R141, R147). -/
def State.stopSamplers (s : State) (b : Nat) : State :=
  let v := s.block b
  if v.sampling then
    (s.setBlock b { (s.finishPage v).endRun (s.writtenEnd v - 1) with sampling := false, page := none }).flushBlock b
  else s

/-- The samplers of a block begin a history with sample `n` in page `p` (R126, R127, R142). -/
def State.startSamplers (s : State) (b p n : Nat) : State :=
  let v := s.block b
  s.setBlock b { (v.beginPage p n) with sampling := true, runs := ((n, none) :: v.runs).take 66 }

/-- A block in a gap resumes writing when a page is free, with the first sample after it became free (R126). -/
def State.resumeGap (s : State) (b : Nat) : State :=
  let v := s.block b
  if v.sampling ∧ v.gap then
    match v.nextPage v.lastPage with
    | some p => s.startSamplers b p (s.lastSample + 1)
    | none => s
  else s

/-- The samplers of a block write nothing for want of a page: a gap, with the history ended at sample `e` (R126). -/
def State.beginGap (s : State) (b e : Nat) : State :=
  let v := s.block b
  (s.setBlock b { (s.finishPage v).endRun e with page := none, gap := true }).inc (R.sampleGap b)

/-- Hold-over as R68 flags it: the coarse time lies between the region's entry to HOLDOVER and its next LOCKED. -/
def State.inHoldover (s : State) (r : Nat) (c : BitVec 48) : Bool :=
  (s.region r).holds.any fun h => decide ((h.first : Int) ≤ s.absTick c) &&
    (match h.lock with | some e => decide (s.absTick c < e) | none => true)

/-- Some region was in HOLDOVER or SLEW during a span of ticks (R159). -/
def State.anyHoldover (s : State) (a b : BitVec 48) : Bool :=
  (List.range 8).any fun r => (s.region r).holds.any fun h =>
    decide ((h.first : Int) ≤ s.absTick b) && (match h.out with | some e => decide (s.absTick a < e) | none => true)

/-- A region whose cells are configured (R54, R301): the node has a NODE_SLOT and some cell of the region is not OFF. -/
def State.regionConfigured (s : State) (r : Nat) : Bool :=
  s.slotValid && s.role ≠ 3 && (List.range 256).any fun i => s.cfgF (C.cellMode (256 * r + i)) % 3 ≠ 0

/-- Frost entry (R141): the samplers stop, the event is flagged and the notice sent. -/
def State.frostEntry (s : State) (b : Nat) : State :=
  let s := ((s.stopSamplers b).setF (R.acqState b) 6).setFlag (R.frostEvent b)
  let f := (s.block b).frost.getD (0, 0, 0)
  s.notice 0x8004 (leBytes 1 b ++ leBytes 1 0 ++ leBytes 2 f.1 ++ leBytes 2 f.2.1 ++ leBytes 2 0 ++ leBytes 8 f.2.2.toNat)

/-! ## Event fragments -/

/-- The flags of the words of an origin fragment are gathered as they are stored. -/
def State.frag (s : State) (k : MergeKey) : Option Frag := s.pool.frags.find? fun f => f.key = k
def State.modFrag (s : State) (k : MergeKey) (f : Frag → Frag) : State :=
  { s with pool := { s.pool with frags := s.pool.frags.map fun x => if x.key = k then f x else x } }

/-- The words that wait in a region's FIFO, of at most 512: those of its units that have come in and are not granted (R32). -/
def State.regionWords (s : State) (r : Nat) : Nat :=
  ((Tab.get [] s.pool.regFifo r).map fun u => u.words.length).sum - Tab.get 0 s.pool.regDone r - Tab.get 0 s.pool.regMore r

/-- A new origin fragment of the node's own cells awaits its first slot (R125, R158); a node without configured cells makes
none. A further trigger of the same number puts its records into the fragment that there is (R125). -/
def State.newFrag (s : State) (k : MergeKey) (t : BitVec 61) (waiting : Nat) (closed : Bool) : State :=
  if ¬ s.slotValid then s
  else if (s.frag k).isSome then
    if waiting = 0 then s else s.modFrag k fun f => { f with waiting := f.waiting + waiting, closed := false }
  else { s with pool := { s.pool with
    frags := s.pool.frags ++ [{ key := k, trigTime := t, waiting := waiting, closed := closed }] } }

/-- The words of an empty record (R131, R135). A STALE record keeps PRE_SHORT beside STALE and has no WRAPPED (assumption 126). -/
def emptyRecord (s : State) (cell : Nat) (r : Rec) (flag : Nat) : List PWord :=
  let hold := boolNat (s.inHoldover (cell / 256) (stampCoarse r.trigTime)) * 2 ^ 8
  (recordHeader cell 0 0 r.src.toNat (2 ^ flag + hold + (if r.preShort ∧ flag = 12 then 2 ^ 15 else 0)) r.trigTime.toNat 0
    (s.sampleTick r.t0).toNat).map pw

/-- The cells a record delivers. -/
def recCells (b : Nat) (r : Rec) : List Nat := (bitsOf 16 r.cells.toNat).map (16 * b + ·)

/-- What a block makes of a trigger: it is lost or not judged, or kept with the number of records it will deliver. -/
abbrev Judged := Option Nat

/-- The judging of a trigger by a block, in the order of R131. Where one record overlaps the trigger and the re-arm span of another
holds t0, the trigger counts OVERLAP_LOST (assumption 126). No sample taken before the load is in memory (R127). -/
def State.judge (s : State) (b : Nat) (src : BitVec 3) (cells : BitVec 16) (key : MergeKey) (t : BitVec 61) : Judged × State :=
  let v := s.block b
  let st := s.getF (R.acqState b)
  let mode := s.cfgF (C.recordMode b)
  let pre0 := s.cfgF (C.pre b)
  let post := s.cfgF (C.post b)
  let t0 := s.sampleAt (stampCoarse t)
  let near := v.recs.filter fun r => s.lastSample < r.last + 4096
  let upTo := min (t0 + post - 1) (s.lastWritten v)
  let start := match v.runs.find? fun h => h.1 ≤ t0 with | some h => h.1 | none => t0
  let e := (near.filter fun r => r.last < t0).foldl (fun a r => max a (r.last + 1)) start
  let pre := min pre0 (t0 - e)
  let base : Rec := { id := s.trig.nextRec, src := src, cells := cells, key := key, trigTime := t, t0 := t0, first := t0 - pre,
                      last := t0 + post - 1, preShort := pre < pre0, accepted := s.lastSample }
  let late : Judged × State :=
    let units : List Unit' := (recCells b base).map fun c => ⟨key, t, c, emptyRecord s c base 13, true⟩
    (some units.length, (s.setBlock b { v with records := v.records ++ units }).inc (R.tooLate b))
  if st = 0 ∨ mode = 0 ∨ mode = 3 then (none, s)
  else if st = 5 ∨ st = 6 then (none, s.inc (R.frostLost b))
  else if st = 4 then (none, s.inc (R.pageWaitLost b))
  else if near.any fun r => t0 ≤ r.last ∧ r.first ≤ t0 + post - 1 then (none, s.inc (R.overlapLost b))
  else if near.any fun r => r.last < t0 ∧ t0 ≤ r.last + 64 then (none, s.inc (R.rearmLost b))
  else if t0 < s.time.loadSample ∨ (t0 ≤ upTo ∧ ¬ s.allInMemory v t0 upTo) then late
  else if pre < pre0 ∧ mode = 2 then (none, s.inc (R.ignoredEarly b))
  else if t0 - pre ≤ s.lastWritten v ∧ (s.findSample v (t0 - pre)).isNone then late
  else
    let holds (p : Nat) : Bool := base.long || ((s.spans v p).any fun e => e.1 ≤ base.last && base.first < e.2.1) ||
      (v.sampling && v.page = some p && decide (s.writtenEnd v ≤ base.last) &&
        ((s.gensOf v p).head?.any fun g => g.2 < 64))
    let held := Tab.update {} v.pages 0 64 fun p g => if holds p then { g with holders := g.holders ++ [base.id] } else g
    let v' := { v with pages := held, recs := v.recs ++ [base] }
    let yet := ((recording v).map fun r => r.last - s.lastSample).foldl max 0
    if st = 2 ∧ freePages v' < (yet + 63) / 64 + 1 then (none, s.inc (R.pageWaitLost b))
    else
      let s := s.setBlock b v'
      let s := { s with trig := { s.trig with nextRec := s.trig.nextRec + 1 } }
      let s := (s.incWrap (R.trigAccepted b) 1).setF (R.acqState b) 2
      let s := if base.preShort then s.inc (R.preShortCnt b) else s
      (some (recCells b base).length, if base.long then s.inc (R.wrappedCnt b) else s)

/-- A trigger offered to each of a list of blocks with the cells it records there; the answer's number is how many records
the event fragment will hold. -/
def State.offer (s : State) (src : BitVec 3) (key : MergeKey) (t : BitVec 61) : List (Nat × BitVec 16) → Nat × State
  | [] => (0, s)
  | (b, cells) :: l =>
    let r := s.judge b src cells key t
    let q := State.offer r.2 src key t l
    (r.1.getD 0 + q.1, q.2)

/-- The blocks that enable a trigger source, with the cells they record (R119). -/
def State.enabledBlocks (s : State) (bit : Nat) : List (Nat × BitVec 16) :=
  ((List.range 128).filter fun b => s.cfgF (C.trigEn b) / 2 ^ bit % 2 = 1).map fun b =>
    (b, BitVec.ofNat 16 (s.cfgF (C.recordMask b)))

/-- An EXTERNAL or TREE trigger judged by every enabled block; its fragment is empty where no block keeps it (R125). -/
def State.trigger (s : State) (bit : Nat) (key : MergeKey) (t : BitVec 61) : State :=
  let r := s.offer (BitVec.ofNat 3 bit) key t (s.enabledBlocks bit)
  r.2.newFrag key t r.1 (r.1 = 0)

/-- A SELF event: it takes its number only when a block accepts it or gives it a TOO_LATE result (R124, R125). -/
def State.selfTrigger (s : State) (src : BitVec 3) (b : Nat) (cells : BitVec 16) (t : BitVec 61) : State :=
  let key : MergeKey := .event 3 (BitVec.ofNat 32 (s.getF R.nextSelf))
  let r := s.judge b src cells key t
  match r.1 with
  | none => r.2
  | some n => (r.2.incWrap R.nextSelf 1).newFrag key t n (n = 0)

/-- A tree trigger taken by the node (R122, R147). -/
def State.takeTree (s : State) (num : BitVec 32) (t : BitVec 61) : State :=
  let s := { s with trig := { s.trig with recent := ((⟨num, t⟩ : TreeTrig) :: s.trig.recent).take 64 } }
  if ¬ s.running ∨ s.node.stopping then s.inc R.treeIgnored
  else if 16 ≤ s.trig.pending.length then (s.inc R.treeQueueLost).newFrag (.event 1 num) t 0 true
  else { s with trig := { s.trig with pending := s.trig.pending ++ [(⟨num, t⟩ : TreeTrig)] } }

end Sys2Proof.Machine
end

