-- ==== Sys2Proof/Machine/MboxOps.lean ====
section
/-! DEFINITION. Operations of the mailboxes: bytes of the mailbox memory (R361), routing (R375), completion (R362),
replies (R376, R383), hops (R374), lock registers (R366) and child pairs as their parent sees them (R298). -/

namespace Sys2Proof.Machine

/-! ## Bytes of a memory -/

/-- Bytes written from a byte address on, code word by code word, through the merge buffer (R328). The first argument
bounds the code words. -/
def State.putBytesN : Nat → State → Nat → Nat → List Byte → State
  | 0, s, _, _, _ => s
  | n + 1, s, m, a, l =>
    if l.isEmpty then s
    else
      let k := min (16 - a % 16) l.length
      let part := l.take k
      let mask := BitVec.ofNat 16 ((2 ^ k - 1) * 2 ^ (a % 16))
      let s := s.writeBytes m (a / 16) mask (BitVec.ofNat 128 (leVal part * 2 ^ (8 * (a % 16))))
      State.putBytesN n s m (a + k) (l.drop k)

def State.putBytes (s : State) (m a : Nat) (l : List Byte) : State := State.putBytesN (l.length / 16 + 2) s m a l

/-- Bytes read from a byte address on, none for the bytes of a poisoned code word. -/
def State.getBytes (s : State) (m a n : Nat) : List (Option Byte) × State :=
  let first := a / 16
  let cws := (a + n + 15) / 16 - first
  let r := State.readCws cws s m first
  let bytes : List (Option Byte) := r.1.flatMap fun d =>
    match d with
    | some v => (leBytes 16 v.toNat).map some
    | none => List.replicate 16 none
  ((bytes.drop (a % 16)).take n, r.2)

/-- Upsets of successive code words (radiation). -/
def State.upsets (s : State) (m a : Nat) : List (BitVec 152) → State
  | [] => s
  | u :: l => (s.upset m a u).upsets m (a + 1) l

/-- The child that enumeration placed on south port `p`: the first NODE_ID of its first range (R375, R407, R466). -/
def State.childNode (s : State) (p : Nat) : Option (BitVec 12) := ((Tab.get [] s.node.routes p).head?).map fun e => BitVec.ofNat 12 e.1

/-! ## Child pairs (R298) -/

/-- The far ends of two south ports are the members of one pair: PAIR_EN, opposite PAIR_POS, consecutive NODE_IDs with member A the
lower. -/
def State.farPair (s : State) (p q : Nat) : Bool :=
  match (s.port p).farA, (s.port q).farA with
  | some a, some b => p ≠ q && a.pairEn && b.pairEn && a.pairPos ≠ b.pairPos &&
      (if a.pairPos then b.nodeId.toNat + 1 = a.nodeId.toNat else a.nodeId.toNat + 1 = b.nodeId.toNat)
  | _, _ => false

/-- The other port of a recognised child pair whose member sits at south port `p`. -/
def State.pairMate (s : State) (p : Nat) : Option Nat := Tab.get none s.pair.mates p

/-- The child pairs that a parent recognises, once enumeration has ended: two trained ports, which stay one pair while a member is away. -/
def State.recognise (s : State) : State :=
  let mate (p : Nat) : Option Nat :=
    match (s.pairMate p).filter (s.farPair p) with
    | some q => some q
    | none => if s.portUp p then (List.range 16).find? fun q => s.portUp q && s.farPair p q else none
  if ¬ s.node.routed then s
  else { s with pair := { s.pair with mates := ((List.range 16).map fun p => (p, mate p)).filter fun e => e.2.isSome } }

/-- The member of a child pair at port `p`: its PAIR_POS. -/
def State.memberPos (s : State) (p : Nat) : Nat :=
  match (s.port p).farA with
  | some a => boolNat a.pairPos
  | none => 0

/-- The port of a child pair that the arbiter grants, or `p` itself where it grants neither. -/
def State.grantedPort (s : State) (p : Nat) : Nat :=
  match s.pairMate p with
  | some q => if s.getF (R.arbGrant p) = 1 - s.memberPos p then q else p
  | none => p

/-! ## Routing (R375) -/

/-- Where a target lies. -/
inductive Route where
  | own
  | port (p : Nat)
  | noRoute
  deriving DecidableEq, Repr

/-- The south port in whose ranges a NODE_ID falls. -/
def State.below (s : State) (target : Nat) : Option Nat :=
  (List.range 16).find? fun p => (Tab.get [] s.node.routes p).any fun r => r.1 ≤ target && target ≤ r.2

def State.route (s : State) (target : Nat) : Route :=
  if target = 0xFFF ∨ target = s.node.nodeId.toNat then .own
  else if s.node.nodeId = 0xFFF then .noRoute
  else if s.paired ∧ target = s.node.partnerId.toNat then .port 18
  else match s.below target with
    | some p => if s.isActive then .port (s.grantedPort p) else .noRoute
    | none => if s.isRoot then .noRoute else .port (if s.portUp 16 then 16 else 17)

/-! ## Completion and replies -/

/-- The doorbell message with the given bit and operation (R372). -/
def doorbellMsg (target : BitVec 12) (stamp : W32) (bit op : Nat) : CtlMsg :=
  .of 0x03 target stamp [BitVec.ofNat 64 (bit + op * 32)]

def lockMsg (mtype : BitVec 8) (target : BitVec 12) (stamp : W32) (lock : Nat) (value : W32) : CtlMsg :=
  .of mtype target stamp [BitVec.ofNat 64 (lock + value.toNat * 2 ^ 32)]

/-- A message completes: POST and ABORT clear, the mailbox is EMPTY, and the port it arrived on hears of it
(R362, R373, R378). -/
def State.complete (s : State) (i : Nat) : State :=
  let from' := Tab.get none s.mbox.arrival i
  let bits : W32 := (1 <<< i : W32) ||| (1 <<< (16 + i) : W32)
  let s := { s with mbox := { s.mbox with order := s.mbox.order.filter (· ≠ i), inDoorbell := s.mbox.inDoorbell &&& ~~~bits,
                                          arrival := Tab.set none s.mbox.arrival i none } }
  let s := s.setF (R.mboxState i) 0
  match from' with
  | some p => s.sendMsg p (doorbellMsg 0xFFF (s.portStamp p) i 1)
  | none => s

/-- A MAILBOX_REPLY item (R171, R376). -/
def State.replyItem (s : State) (i : Nat) (bytes : List Byte) : State :=
  s.controlItem 1 (i + bytes.length * 16) (bytesWords bytes)

/-- A reply reaches this node's own firmware (R376): one for an earlier INCARNATION is discarded. -/
def State.ownReply (s : State) (stamp : W32) (bytes : List Byte) : State :=
  if fget stamp 4 8 ≠ s.node.incarnation.toNat then s.inc R.replyStale
  else { s with fw := { s.fw with reply := some bytes } }

/-- A reply travels to the stamp of its message (R376). -/
def State.sendReply (s : State) (i : Nat) (stamp : W32) (bytes : List Byte) : State :=
  if fget stamp 28 4 = 1 then
    let s := if s.isRoot then s.ringOutDoorbell i else s
    s.replyItem i bytes
  else
    let target := fget stamp 16 12
    match s.route target with
    | .port p => s.sendMsg p (.of 0x02 (BitVec.ofNat 12 target) (s.portStamp p)
        (BitVec.ofNat 64 (stamp.toNat + i * 2 ^ 32 + bytes.length * 2 ^ 36) :: bytesWords bytes))
    | .own => s.ownReply stamp bytes
    | .noRoute => s

/-- A reply with given header fields is written in the outbound mailbox and sent. -/
def State.replyTo (s : State) (i : Nat) (stamp : W32) (opcode tag status : Nat) (payload : List Byte) : State :=
  let bytes := replyBytes opcode tag status payload
  (s.putBytes 4 (0x1000 + 0x100 * i) bytes).sendReply i stamp bytes

/-- The reply to a message, unless QUIET and OK suppress it (R385). -/
def State.reply (s : State) (m : Msg) (status : Nat) (payload : List Byte) : State :=
  if m.quiet ∧ status = 0 then s else s.replyTo m.mbox m.stamp m.opcode.toNat m.tag.toNat status payload

/-- The reply is written and the message completes. -/
def State.answer (s : State) (m : Msg) (status : Nat) (payload : List Byte) : State :=
  (s.reply m status payload).complete m.mbox

/-! ## Hops (R374) -/

def State.setHops (s : State) (l : List Hop) : State := { s with mbox := { s.mbox with hops := l } }

/-- The hop's own stamp at the next node. -/
def State.hopStamp (s : State) (p : Nat) : W32 := s.portStamp p

/-- The lock of a hop is read at the next node. -/
def State.hopLock (s : State) (h : Hop) : State := s.sendMsg h.port (lockMsg 0x04 0xFFF (s.hopStamp h.port) h.mbox 0)

/-- A hop begins; it waits behind an earlier one that has not yet sent its message on the same port (R372). -/
def State.startHop (s : State) (h : Hop) : State :=
  let behind := s.mbox.hops.any fun x => x.port = h.port ∧ x.st = .lockWait
  let s := s.setHops (s.mbox.hops ++ [h])
  if behind then s else s.hopLock h

/-- A message forwarded over a port, its bytes as they stand in the inbound mailbox: its words `bad` are poisoned. -/
def State.forward (s : State) (i p : Nat) (stamp : W32) (bytes : List Byte) (bad : List Nat) : State :=
  s.startHop { mbox := i, port := p, stamp := stamp, bytes := bytes, bad := bad }

/-- The MBOX_MSG of a hop. -/
def hopMsg (h : Hop) : CtlMsg :=
  ⟨0x01, 0xFFF, h.stamp, BitVec.ofNat 64 (h.mbox + h.bytes.length * 16) :: bytesWords h.bytes, h.bad⟩

/-- The first hop of a list that `f` selects replaced by `g` of it, or dropped where `g` gives none. -/
def updFirst (f : Hop → Bool) (g : Hop → Option Hop) : List Hop → List Hop
  | [] => []
  | h :: l => if f h then (match g h with | some x => x :: l | none => l) else h :: updFirst f g l

/-- The next hop of a port that waits for its lock reads it. -/
def State.nextHop (s : State) (p : Nat) : State :=
  match s.mbox.hops.find? fun h => h.port = p ∧ h.st = .lockWait with
  | some h => s.hopLock h
  | none => s

/-- The node's own firmware sent the message of a hop: no inbound mailbox of its own holds it. -/
def State.ownHop (s : State) (h : Hop) : Bool := h.stamp = s.portStamp h.port

/-- The hop has sent its message, whose bytes in mailbox `i` of the next node hold its lock. -/
def Hop.holds (h : Hop) (p i : Nat) : Bool := h.port = p && h.mbox = i && h.st ≠ .lockWait

/-- A hop's lock at the next node is written with a value, which frees it where that is its owner's (R366, R368). -/
def State.hopUnlock (s : State) (p lock : Nat) (value : W32) : State :=
  s.sendMsg p (lockMsg 0x05 0xFFF (s.hopStamp p) lock value)

/-- LOCK_RESULT reaches a hop's sender, the first of the port that waits for its lock: 0 posts the message, any other value reads the lock
again. A lock that an earlier INCARNATION of this node, or a hop that began again, has left behind is freed first (R368); a lock that comes for
no hop, or before a hop's turn (R372), is freed too (assumption 170). -/
def State.hopLockResult (s : State) (p lock : Nat) (value : W32) : State :=
  let waits (h : Hop) : Bool := h.port = p ∧ h.st = .lockWait
  match (s.mbox.hops.find? waits).filter fun h => h.mbox = lock with
  | none => if value = 0 then s.hopUnlock p lock (s.hopStamp p) else s
  | some h =>
    if value = 0 then
      let s := s.setHops (updFirst waits (fun h => some { h with st := .sent }) s.mbox.hops)
      (s.sendMsg p (hopMsg h)).nextHop p
    else if value &&& 0xFFFFF00F = s.hopStamp p &&& 0xFFFFF00F ∧ (value = s.hopStamp p → ¬ s.mbox.hops.any fun x => x.holds p lock) then
      (s.hopUnlock p lock value).hopLock h
    else s.hopLock h

/-- The link has acknowledged a hop's MBOX_MSG: firmware, where it runs, completes the message here. -/
def State.hopAcked (s : State) (p lock : Nat) (stamp : W32) : State :=
  let mine (h : Hop) : Bool := h.port = p ∧ h.mbox = lock ∧ h.stamp = stamp ∧ (h.st = .sent ∨ h.st = .release)
  if ¬ s.fwRuns then s
  else match s.mbox.hops.find? mine with
  | none => s
  | some h =>
    let s := s.setHops (updFirst mine (fun h => if h.st = .release then none else some { h with st := .acked }) s.mbox.hops)
    if s.ownHop h ∨ ¬ h.fin then s else s.complete h.mbox

/-- DOORBELL CLEARED: the hop releases its lock at the next node. -/
def State.hopCleared (s : State) (p bit : Nat) : State :=
  let mine (h : Hop) : Bool := h.port = p ∧ h.mbox = bit ∧ (h.st = .acked ∨ h.st = .sent)
  match s.mbox.hops.find? mine with
  | none => s
  | some _ =>
    let s := s.setHops (updFirst mine (fun h => if h.st = .sent then some { h with st := .release } else none) s.mbox.hops)
    s.hopUnlock p bit (s.hopStamp p)

/-- A port left UP without resuming (R280, R374). Where the MBOX_MSG of a hop was discarded before its acknowledgement, the hops of the port
that were not acknowledged begin again, in their order (R372), those behind it with their messages withdrawn from the queue; a message that is
only queued stays. The first hop that waits for its lock reads it again. -/
def State.hopsRestart (s : State) (p : Nat) : State :=
  let out (h : Hop) : Bool := h.port = p ∧ (h.st = .sent ∨ h.st = .release)
  let queue := (s.port p).ctlQueue
  if ¬ s.fwRuns then s
  else if ¬ s.mbox.hops.any (fun h => out h && !queue.contains (hopMsg h)) then s.nextHop p
  else
    let mine := (s.mbox.hops.filter out).map hopMsg
    let s := s.setPort p { s.port p with ctlQueue := queue.filter fun m => !mine.contains m }
    (s.setHops (s.mbox.hops.map fun h => if out h then { h with st := .lockWait } else h)).nextHop p

/-! ## Locks (R366) -/

/-- A read of a lock by the sender of a stamp: the value returned, and the lock taken where it was free. -/
def State.lockReadBy (s : State) (i : Nat) (stamp : W32) : W32 × State :=
  if s.lock i = 0 then (0, s.setLock i stamp) else (s.lock i, s)

/-- A write of a lock: the owner's stamp frees it, any other write counts LOCK_BAD_RELEASE. -/
def State.lockWriteBy (s : State) (i : Nat) (v : W32) : State :=
  if s.lock i ≠ 0 ∧ v = s.lock i then s.setLock i 0 else s.inc R.lockBadRelease

/-- The stamp of a direct sender (R364). -/
def State.senderStamp (s : State) (who : Sender) : W32 :=
  match who with
  | .host => s.stamp 1 0
  | .ownFirmware => s.stamp 5 0

/-! ## Commands that firmware carries out (R386) -/

/-- A command's common checks: it acts only on the message firmware has taken; LENGTH (check 2), which the argument may set, and
the node state (check 5) are judged before its own rules (R384, R386). -/
def State.commandL (s : State) (opcode : BitVec 16) (size : Msg → Nat) (states : List NodeState) (f : Msg → State → State) : State :=
  match s.fw.cur with
  | none => s
  | some m =>
    if m.opcode ≠ opcode then s
    else
      let s := { s with fw := { s.fw with cur := none } }
      if 248 < m.length ∨ m.length < size m then s.answer m 5 []
      else if s.node.state ∉ states then s.answer m 2 []
      else f m s

/-- As `State.commandL`, for an argument of one size. -/
def State.command (s : State) (opcode : BitVec 16) (size : Nat) (states : List NodeState) (f : Msg → State → State) : State :=
  s.commandL opcode (fun _ => size) states f

/-- The state sets of the command tables (R389). -/
def statesLUCRS : List NodeState := [.linkup, .unconfigured, .configured, .running, .safe]
def statesUCRS : List NodeState := [.unconfigured, .configured, .running, .safe]
def statesUCR : List NodeState := [.unconfigured, .configured, .running]
def statesLUC : List NodeState := [.linkup, .unconfigured, .configured]
def statesUC : List NodeState := [.unconfigured, .configured]
def statesUS : List NodeState := [.unconfigured, .safe]
def statesCR : List NodeState := [.configured, .running]

end Sys2Proof.Machine
end

