-- ==== Sys2Proof/Machine/TrainOps.lean ====
section
/-! DEFINITION. Link words that a port sends: acknowledgements (R274, R278), training words (R265), alignment words (R263) and
timing markers (R288), and the beginning of training (R265, R266). -/

namespace Sys2Proof.Machine

/-- The lanes of a two-bit lane mask. -/
def lanesOf (mask : Nat) : List Nat := [0, 1].filter fun l => mask / 2 ^ l % 2 = 1

/-- The lane on which the next block of a port's stream stands (R261): the one lane that the far receiver takes; of two lanes either, since
the idles sent before it are not counted (assumption 133). -/
def State.wordLane (s : State) (p : Nat) : Nat :=
  let l := lanesOf (s.getF (R.txLanes p))
  if l.length = 2 then boolNat s.freshBit else l.headD 0

/-- A channel of a port. -/
def State.chan (s : State) (p : Nat) (control : Bool) : Chan := if control then (s.port p).ctl else (s.port p).data
def State.setChan (s : State) (p : Nat) (control : Bool) (c : Chan) : State :=
  s.setPort p (if control then { s.port p with ctl := c } else { s.port p with data := c })

/-- A LINK_CTL word (R274): SUB 0 ACK, 1 NAK. -/
def linkCtl (sub : Nat) (control : Bool) (seq credit : BitVec 16) : Word :=
  withLinkCrc (BitVec.ofNat 64 (3 * 2 ^ 60 + sub * 2 ^ 58 + boolNat control * 2 ^ 57 + seq.toNat * 2 ^ 40 +
    credit.toNat * 2 ^ 24))

/-- An ACK or NAK of a channel leaves a port. -/
def State.sendLinkCtl (s : State) (p sub : Nat) (control : Bool) : State :=
  (s.emit (.linkWord p (s.wordLane p) (linkCtl sub control (s.chan p control).rxSeq (s.chan p control).limit))).drawn

/-- An ACK of a channel, while the port is UP. -/
def State.sendAck (s : State) (p : Nat) (control : Bool) : State := if s.portUp p then s.sendLinkCtl p 0 control else s

/-- `n` units of a channel are freed at the receiver: the credit limit rises, and an ACK tells it (R274, R278). -/
def State.freeCredit (s : State) (p : Nat) (control : Bool) (n : Nat) : State :=
  if n = 0 then s
  else
    let c := s.chan p control
    (s.setChan p control { c with limit := c.limit + BitVec.ofNat 16 n }).sendAck p control

/-- PORT_KIND (R265). -/
def portKind (p : Nat) : Nat := if p < 16 then 0 else if p < 18 then 1 else 2

/-- A form A training word of a port's lane: PHASE 0 SEEK, 1 ACK, 2 CFG_A (R265). -/
def State.trainA (s : State) (p lane phase : Nat) : Word :=
  withLinkCrc (BitVec.ofNat 64 (7 * 2 ^ 60 + phase * 2 ^ 58 + lane * 2 ^ 57 + portKind p * 2 ^ 55 + s.role * 2 ^ 53 +
    s.triBits 1 2 1 * 2 ^ 52 + s.pairPos * 2 ^ 51 + s.node.nodeId.toNat * 2 ^ 39 + s.node.incarnation.toNat * 2 ^ 31 +
    s.getF (R.rate p) * 2 ^ 29 + s.getF (R.rxLanes p) * 2 ^ 27))

/-- A form B training word (R265). -/
def State.trainB (s : State) (p lane : Nat) : Word :=
  let v := s.port p
  withLinkCrc (BitVec.ofNat 64 (7 * 2 ^ 60 + 3 * 2 ^ 58 + lane * 2 ^ 57 + v.data.rxSeq.toNat * 2 ^ 41 +
    v.ctl.rxSeq.toNat * 2 ^ 25 + (v.farLastInc.getD 0).toNat * 2 ^ 17 + boolNat v.farLastInc.isSome * 2 ^ 16))

/-- A lane-alignment word (R263). -/
def alignWord (lane : Nat) (deskew : Bool) (aseq : BitVec 16) : Word :=
  withLinkCrc (BitVec.ofNat 64 (6 * 2 ^ 60 + lane * 2 ^ 59 + boolNat deskew * 2 ^ 58 + aseq.toNat * 2 ^ 42))

/-- A timing marker (R288). -/
def markerWord (t : BitVec 48) : Word := withLinkCrc (BitVec.ofNat 64 (5 * 2 ^ 60 + t.toNat * 2 ^ 12))

/-- Step 1 of R266: SEEK on both lanes at the current rate. -/
def State.seek (s : State) (p : Nat) : State :=
  let s := s.setPort p { s.port p with lock := 0, ready := 0, waiting := false }
  let s := (s.setF (R.lstate p) 1).setF (R.rxLanes p) 0
  [0, 1].foldl (fun s l => s.emit (.linkWord p l (s.trainA p l 0))) s

/-- A port begins training at the top of its rate ladder (R265, R268). -/
def State.startTraining (s : State) (p : Nat) : State := (s.setF (R.rate p) (s.cfgF (C.linkRateMax p))).seek p

end Sys2Proof.Machine
end

