-- ==== Sys2Proof/Machine/NodeOps.lean ====
section
/-! DEFINITION. Resets (R379, R460, R461), the stop of acquisition (R147) and the PCI Express
function's resets (R353, R359). -/

namespace Sys2Proof.Machine

/-! ## Resets -/

/-- The six memories as a reset leaves them: what each keeps, with a lap and a leak period that begin now (R331, R332). -/
def memsAnew (now : Nat) (kept : Nat → Mem) : Tab Mem :=
  ((List.range 6).map fun m => (m, { kept m with lapStart := now, leakAt := now })).filter fun e => e.2 ≠ {}

/-- A code word of MEM 5 belongs to the retirement map. -/
def isRetireWord (a : Nat) : Bool :=
  [(0, 12), (1, 8), (2, 4)].any fun e => (List.range e.2).any (fun g => Config.retireWord e.1 true g = a) ||
    (List.range (1024 * e.2)).any fun p => Config.retireWord e.1 false p = a

/-- What firmware reads as it boots (R327, R336): the patch area, which is damaged where a word of it is poisoned, and the retirement map, from
whose intact code words it rebuilds its record. -/
def State.bootReads (s : State) : Bool × State :=
  let p : Bool × State := ((s.mem 3).cells.filter fun e => Config.patchArea e.1).foldl
    (fun (r : Bool × State) (e : Nat × BitVec 152) => let x := r.2.readCw 3 e.1; (r.1 || x.1.isNone, x.2)) (false, s)
  let q : List Nat × State := ((s.mem 5).cells.filter fun e => isRetireWord e.1).foldl
    (fun (r : List Nat × State) (e : Nat × BitVec 152) => let x := r.2.readCw 5 e.1; (if x.1.isNone then e.1 :: r.1 else r.1, x.2))
    ([], p.2)
  (p.1, { q.2 with fw := { q.2.fw with noRecord := q.1 } })

/-- Code words of firmware RAM written anew: those that `f` selects are intact again. -/
def State.ramWrite (s : State) (f : Nat → Bool) : State :=
  let v := s.mem 3
  s.setMem 3 { v with cells := v.cells.filter fun e => !f e.1, ueSeen := v.ueSeen.filter fun a => !f a }

/-- The data area of firmware RAM written from ROM (R327). -/
def State.ramRewritten (s : State) : State := s.ramWrite fun a => !Config.patchArea a

/-- Power-on reset (R460): everything at its reset value, INCARNATION a free value (R365). The queue, the model's own
counters and what has left the node stay. -/
def State.powerOnReset (s : State) : State :=
  { State.reset with
    pending := s.pending, free := s.free + 1, ticks := s.ticks, out := s.out, hostMem := s.hostMem
    mems := memsAnew s.ticks fun _ => {}
    node := { state := .reset, perstN := s.node.perstN, incarnation := BitVec.ofNat 8 s.fresh.toNat } }

/-- Register words that a reset other than power-on keeps: retirement totals, the log's position, mailbox states and
stamps. -/
def keptWord (off : Nat) : Bool :=
  (0x8000 ≤ off && off < 0x8180 && off % 0x40 = 0x18) || off = 0x8204 || (0xA000 ≤ off && off < 0xA080)

/-- A message that was TAKEN stays TAKEN, and is to be carried out again from its start, at its place in the posting order (R362, R379; assumption 176). -/
def State.retake (s : State) : State :=
  { s with mbox := { s.mbox with redo := (List.range 16).filter fun i => s.getF (R.mboxState i) = 2 } }

/-- Firmware answers what it owes for the messages that were not taken while it was stopped (R373, R375). -/
def State.answerOwed (s : State) : State :=
  s.mbox.owed.foldl (fun (s : State) (e : Nat × W32 × Nat × Nat × Nat) => s.replyTo e.1 e.2.1 e.2.2.1 e.2.2.2.1 e.2.2.2.2 [])
    { s with mbox := { s.mbox with owed := [] } }

/-- What a memory keeps through a reset that is not power-on: the code words that `f` selects. -/
def Mem.restart (v : Mem) (f : Nat → Bool) : Mem :=
  { cells := v.cells.filter fun e => f e.1, buffer := v.buffer.filter fun e => f e.addr }

/-- A RESET_N or warm reset (R460): the configuration, the pool and every queue are lost; retirement, the patch, mailboxes,
locks and doorbells are kept; INCARNATION goes up. Both directory banks read all-zero entries and segment memory 0x0000
afterwards (R460, R532); every other flag and counter returns to its reset value (R489). -/
def State.loseConfig (s : State) (entered : NodeState) (cause : BitVec 8) (keepStraps : Bool) : State :=
  let straps := s.triWord 1 &&& 0xF
  let t : State := { State.reset with
    pending := s.pending, free := s.free, ticks := s.ticks, out := s.out, hostMem := s.hostMem
    node := { state := entered, perstN := s.node.perstN, vddx := s.node.vddx, incarnation := s.node.incarnation + 1, bootCause := cause }
    regs := s.regs.filter fun e => keptWord e.1
    mems := memsAnew s.ticks fun m =>
      if m = 0 ∨ m = 4 then (s.mem m).restart fun _ => true
      else if m = 3 then (s.mem 3).restart Config.patchArea
      else if m = 5 then (s.mem 5).restart isRetireWord
      else {}
    prot := { s.prot with tri := s.prot.tri.filter fun e => 34 ≤ e.1 }
    host := { bar0 := s.host.bar0.filter fun e => 0x2010 ≤ e.1 ∧ e.1 < 0x2024 }
    mbox := { s.mbox with hops := [] }
    fw := { patchInForce := s.fw.patchInForce }
    test := { s.test with logic := none, mem := none } }
  let t := t.setF R.refclkPresent (s.getF R.refclkPresent)
  let t := if keepStraps then
      (((t.setTri 1 straps).setF R.paired (s.getF R.paired)).setF R.pairPos (s.getF R.pairPos)).setF R.pairIgnored
        (s.getF R.pairIgnored)
    else t
  t.retake

/-- NODE_RESET KIND 1 (R460). -/
def State.warmReset (s : State) : State := s.loseConfig .boot 2 true

/-- The boot notice (R415): the identity reply as it stands. It is the first notice: pointers of OUTPUT that differ show at the next item
(assumption 166). -/
def State.bootNotice (s : State) : State := s.noticeRaw 0x8001 s.identity

/-- Entry to LINKUP: the boot notice is the node's first notice, then the state notice follows; enabled ports begin to
train, and the privileged scan starts (R264, R415, R455). -/
def State.enterLinkup (s : State) : State :=
  let s := { s with node := { s.node with state := .linkup, noticeSeq := 0 } }
  let s := s.bootNotice.noticeRaw 0x8002 (leBytes 1 2 ++ leBytes 1 3)
  let s := s.msix 12
  (List.range 19).foldl (fun s p => if s.portEnabled p then s.startTraining p else s) s

/-! ## The stop of acquisition -/

/-- A stopped block whose last accepted record is written ends its history and enters IDLE, unless it is FREEZING or in
Frost (R147). -/
def State.stopBlock (s : State) (b : Nat) : State :=
  let st := s.getF (R.acqState b)
  if (recording (s.block b)).isEmpty then
    let s := s.stopSamplers b
    if st = 5 ∨ st = 6 ∨ st = 0 then s else s.setF (R.acqState b) 0
  else s

/-- ACQ_STOP as it applies at the sample boundary (R147): nothing more is judged, each pending tree trigger yields an empty
event fragment, each block without a record to be written stops, and EPOCH_LOADED is cleared (R84). -/
def State.applyStop (s : State) : State :=
  let pend := s.trig.pending
  let last : Option (BitVec 32) := if s.loaded then some (frameOf s.time.coarse) else none
  let s := { s with node := { s.node with stopping := true }, trig := { s.trig with pending := [] },
                    time := { s.time with lastFrame := last } }
  let s := s.setF R.epochLoaded 0
  let s := pend.foldl (fun s t => s.newFrag (.event 1 t.num) t.time 0 true) s
  (List.range 128).foldl (fun s b => s.stopBlock b) s

/-- Every accepted record is delivered and every fragment of the node's own events has left (R147). -/
def State.acqDrained (s : State) : Bool :=
  s.node.stopping && !s.node.acts.contains .stop && ((List.range 128).all fun b =>
    (s.block b).recs.all (fun r => r.read) && (s.block b).records.isEmpty &&
      (match (s.block b).head with | some u => !u.isRecord | none => true)) &&
    (s.pool.frags.all fun f => f.waiting = 0)

/-! ## The PCI Express function (R353, R359) -/

/-- An item that the DMA engine has begun on one of some rings is written again from its first word, once the ring is enabled again
(R353). -/
def State.dmaRestart (s : State) (rings : Nat → Bool) : State :=
  let again (r : Rd) : Rd := if rings r.ring then { r with pos := 0, written := 0 } else r
  { s with pool := { s.pool with readers := Tab.set {} s.pool.readers 3 (again (Tab.get {} s.pool.readers 3)),
                                 parked := s.pool.parked.map fun e => (e.1, again e.2) } }

/-- The effect of a function level reset (R359): BAR0 registers and the MSI-X table at their reset values; mailboxes,
doorbells and locks keep their contents, and what only mirrors the node in the status area goes on mirroring it. In configuration space
Max Payload Size alone keeps its value (assumption 9). Open transfers and staged images are discarded, as by every reset (R397). -/
def State.functionReset (s : State) : State :=
  let s := { s with host := { linkUp := s.host.linkUp, bar0 := s.host.bar0.filter fun e => 0x2010 ≤ e.1 ∧ e.1 < 0x2024,
                              control := { maxPayload := s.host.control.maxPayload } },
                    fw := { s.fw with cfg := none, dir := none, patch := none, failed := [], staged := none, stagedPatch := none } }
  let s := [0x8, 0x10, 0x14, 0x20, 0x24, 0x28, 0x2C, 0x30, 0x34, 0x40].foldl (fun s o => s.setWord o (regReset o)) s
  ((s.setF R.barAccessErr 0).setF R.uncfgDiscard 0).dmaRestart fun _ => true

/-- Every pending vector is signalled that nothing holds back any more. -/
def State.msixFlushAll (s : State) : State := (List.range 14).foldl (fun s v => s.msixFlush v) s

end Sys2Proof.Machine
end

