-- ==== Sys2Proof/Machine/TbOps.lean ====
section
/-! DEFINITION. Operations of the timebases: the reference (R47, R72), hold-over and its bound (R67-R71), the coarse time's
vote (R55), the load (R65), starts (R61, R64), the entry to SAFE (R465) and the actions at a sample boundary
(R102, R114, R142, R147). -/

namespace Sys2Proof.Machine

/-- The reference that the timebases use is present: REFCLK, or in recovered-clock operation the port it comes from
(R72). -/
def State.refPresent (s : State) : Bool :=
  if s.degraded then s.portUp (16 + s.getF R.recoveredPort) else s.getF R.refclkPresent = 1

/-- The region that measures an EPOCH or TRIG_IN edge (R60): the lowest LOCKED, else the lowest in HOLDOVER or SLEW. -/
def State.measuring (s : State) : Option Nat :=
  match (List.range 8).find? fun r => s.regionState r = 2 with
  | some r => some r
  | none => (List.range 8).find? fun r => s.regionState r = 3 || s.regionState r = 4

/-- The die temperature code of a region in 1/128 K (R420). -/
def State.regionTemp (s : State) (r : Nat) : Int := signed 16 (s.getF (R.mon (5 + r)))

/-- The drift bound now (R69, R71): what was held, and (0.2 ppm + 0.4 ppm/K ΔT) t since; whether a fraction of a
picosecond counts is a free bit. -/
def State.boundNow (s : State) (r : Nat) : Nat :=
  let g := s.region r
  let n := (s.ticks - g.holdSince) * 625 * (256 + 4 * g.dtMax)
  min 0xFFFFFFFF (g.boundHeld + n / 128000000 + (if n % 128000000 = 0 then 0 else boolNat s.freshBit))

/-- HOLDOVER_BOUNDn published. The bound of a region held by REALIGN_NEEDED with its reference present stays; that of a region that
a load has put into SLEW counts on from its last entry or loss (assumption 129). -/
def State.publishBound (s : State) (r : Nat) : State :=
  if s.getF (R.realign r) = 1 ∧ s.refPresent then s
  else (s.setF (R.holdoverBound r) (s.boundNow r)).drawn

/-- A timebase changes state; CAL_FROZEN follows (R80, R83). -/
def State.setTb (s : State) (r st : Nat) : State :=
  (s.setF (R.tbState r) st).setF (R.calFrozen r) (if st = 2 then 0 else 1)

/-- A region leaves HOLDOVER or SLEW, for LOCKED or for FAILED: its hold-over ends in the present tick, for the flag of R68 only
with the next LOCKED. -/
def State.endHold (s : State) (r : Nat) (locked : Bool) : State :=
  let g := s.region r
  match g.holds with
  | h :: l =>
    let out := if h.out.isNone then some s.ticks else h.out
    s.setRegion r { g with holds := { h with out := out, lock := if h.lock.isNone && locked then some s.ticks else h.lock } :: l }
  | [] => s

/-- The trim of a region freezes; its loop's I takes the frozen trim when the loop is next evaluated (R449). -/
def State.freezeTrim (s : State) (r : Nat) : State := s.setPid r { s.pid r with bumpless := true }

/-- A LOCKED region enters HOLDOVER (R52, R67, R69): LOCK_LOST, the bound 50 ps, the trim of one pacing event before. -/
def State.enterHoldover (s : State) (r : Nat) : State :=
  let g := s.region r
  let g := { g with holdSince := s.ticks, boundHeld := 50, tempEntry := s.regionTemp r, dtMax := 0,
                    frozenTrim := g.prevTrim, lastTrim := g.prevTrim, retry := s.refPresent, keptOffset := none,
                    goodRun := 0, holds := (({ first := s.ticks } : Hold) :: g.holds).take 64 }
  let s := s.freezeTrim r
  ((((s.setRegion r g).setTb r 3).setFlag (R.lockLost r)).setF (R.holdoverBound r) 50).tbNotice r

/-- A region in SLEW whose reference is lost returns to HOLDOVER: its trims freeze, its bound goes on growing. -/
def State.slewLost (s : State) (r : Nat) : State :=
  let g := s.region r
  (((s.setRegion r { g with frozenTrim := g.prevTrim, lastTrim := g.prevTrim, retry := false }).freezeTrim r).setTb r 3).tbNotice r

/-- REFCLK lost again while REALIGN_NEEDED (R71): the bound grows again from the value it held. -/
def State.heldLost (s : State) (r : Nat) : State :=
  let g := s.region r
  (s.setRegion r { g with holdSince := s.ticks, boundHeld := s.getF (R.holdoverBound r), tempEntry := s.regionTemp r, dtMax := 0,
                          frozenTrim := g.prevTrim, lastTrim := g.prevTrim, keptOffset := none, retry := false }).freezeTrim r

/-- The reference of the timebases is declared absent (R52, R71). -/
def State.referenceLost (s : State) : State :=
  (List.range 8).foldl (fun s r =>
    match s.regionState r with
    | 2 => (s.enterHoldover r).setRegion r { (s.enterHoldover r).region r with retry := false }
    | 4 => s.slewLost r
    | 3 => if s.getF (R.realign r) = 1 then s.heldLost r
           else s.setRegion r { s.region r with retry := false }
    | _ => s) s

/-- A region in HOLDOVER finds its reference again (R70, R71): SLEW below 3,125 ps, else REALIGN_NEEDED. -/
def State.reclose (s : State) (r : Nat) : State :=
  let g := s.region r
  let s := s.setRegion r { g with retry := false, keptOffset := none }
  if s.regionState r ≠ 3 then s
  else if s.getF (R.realign r) = 1 then s
  else if s.getF (R.holdoverBound r) < 3125 then (s.setRegion r { s.region r with goodRun := 0 }).setTb r 4
  else ((s.setRegion r { s.region r with realignFrom := s.time.starts + 1 }).setF (R.realign r) 1).tbNotice r

/-- The reference of the timebases is declared present. -/
def State.referenceBack (s : State) : State := (List.range 8).foldl (fun s r => s.reclose r) s

/-- The discriminator of a cell falls in the present tick, in ring period `period` (R100, R112): in TIMING the time over
threshold of its hit is completed. -/
def State.fallCell (s : State) (c period : Nat) (saturated : Bool) : State :=
  let v := s.cell c
  let q (h : Hit) : Nat := min 4095 ((s.time.coarse - h.coarse).toNat * 8 + period - h.raw.toNat / 1024)
  let hits := v.hits.map fun h => if h.full ∨ h.tot.isSome then h else { h with tot := some (q h, saturated) }
  (s.setCell c { v with hits := hits }).setF (R.discHigh c) 0

/-- The discriminators of a region are gated off (R53): one that is high falls; the ring period of that fall and whether the
pulse had exceeded the linear range are then free. -/
def State.gateOff (s : State) (r : Nat) : State :=
  ((List.range 256).map (256 * r + ·)).foldl (fun (s : State) (c : Nat) =>
    if s.getF (R.discHigh c) = 1 then (s.fallCell c (s.fresh.toNat % 8) (s.fresh.getLsbD 3)).drawn else s) s

/-- The trim of a region is 0 (R449). -/
def State.zeroTrim (s : State) (r : Nat) : State :=
  s.setRegion r { s.region r with frozenTrim := 0, lastTrim := 0, prevTrim := 0, keptOffset := none }

/-- A timebase enters FAILED (R53, R449): a departure from LOCKED sets LOCK_LOST; REALIGN_NEEDED ends and HOLDOVER_BOUNDn reads 0, as
outside hold-over (assumption 129); a paired node with configured cells there sets FAIL (R301). -/
def State.tbFail (s : State) (r : Nat) : State :=
  let st := s.regionState r
  if st = 0 ∨ st = 5 then s
  else
    let s := if st = 2 then s.setFlag (R.lockLost r) else s
    let s := s.setPid r {}
    let s := ((((s.endHold r false).zeroTrim r).setF (R.realign r) 0).setF (R.holdoverBound r) 0).setTb r 5
    let s := (s.gateOff r).tbNotice r
    if s.regionConfigured r then s.setFail 1 else s

/-- A timebase begins ACQUIRE (R50, R53); its loop's I is 0 (R449). The unknown P of R105 keeps the value drawn at the first commit, for a
region restarted from FAILED as well (assumption 157). -/
def State.tbAcquire (s : State) (r : Nat) : State :=
  let g := s.region r
  let s := s.setPid r {}
  (s.setRegion r { g with copy := s.time.coarse, goodRun := 0, badRun := 0, acquiredAt := s.ticks, frozenTrim := 0,
                          lastTrim := 0, prevTrim := 0, keptOffset := none, retry := false }).setTb r 1

/-! ## The coarse time -/

/-- The regions whose copies are compared (R55). -/
def State.voters (s : State) : List Nat := (List.range 8).filter fun r => s.regionState r ≠ 0 && s.regionState r ≠ 5

def copiesOf (v : BitVec 48) (l : List (BitVec 48)) : Nat := (l.filter (· = v)).length

/-- The value that the vote takes (R55): a majority; on an even split the expected value where exactly one side holds it,
else the copy of the lowest-numbered region. For any other split the rule names no value, and the free choice `k` takes
one of the copies. -/
def voteTake (copies : List (BitVec 48)) (expected : BitVec 48) (k : Nat) : BitVec 48 :=
  let n := copies.length
  let first := copies.headD expected
  match copies.find? fun v => n < 2 * copiesOf v copies with
  | some v => v
  | none =>
    let other := (copies.find? fun v => v ≠ first).getD first
    if n = 2 * copiesOf first copies ∧ n = 2 * copiesOf other copies then
      (if other = expected then other else first)
    else copies.getD (k % n) first

/-- The copies of a list of regions before the vote: each counts on, and takes its upsets. -/
def State.nextCopy (s : State) (upsets : List (Fin 8 × BitVec 48)) (r : Nat) : BitVec 48 :=
  let base := match s.time.expected with
    | some e => e
    | none => (s.region r).copy + 1
  (upsets.filter fun u => u.1.val = r).foldl (fun a u => a ^^^ u.2) base

/-- The vote of a tick boundary carried out: the coarse time and every compared copy take the value, and each region that
disagreed counts COARSE_FIX. -/
def State.voteTick (s : State) (upsets : List (Fin 8 × BitVec 48)) : State :=
  let voters := s.voters
  let copies := voters.map (s.nextCopy upsets)
  let expected := s.time.expected.getD (s.time.coarse + 1)
  let v := voteTake copies expected s.fresh.toNat
  let wrap : Bool := s.time.expected.isNone ∧ s.time.coarse = 0xFFFFFFFFFFFF ∧ v = 0
  let s := (voters.zip copies).foldl (fun s e =>
    let s := s.setRegion e.1 { s.region e.1 with copy := v }
    if e.2 = v then s else s.inc (R.coarseFix e.1)) s
  { s.drawn with ticks := s.ticks + 1, time := { s.time with coarse := v, expected := none, wrapDue := s.time.wrapDue || wrap,
                                                             wrapped := s.time.wrapped || wrap } }

/-! ## The load (R65) -/

/-- A block's history begins with the load (R126, R127) and it is armed (R147). Where it is in Frost it stays so, and none of its
samples belongs to a history any more. -/
def State.beginBlock (s : State) (b n : Nat) : State :=
  if s.getF (R.acqState b) = 6 then s.setBlock b { s.block b with runs := [], edges := [] }
  else
    let v := s.block b
    let fresh : Tab Page := v.pages.map fun e => (e.1, { e.2 with holders := [] })
    let s := (s.setBlock b { v with sampling := false, gap := false, page := none, pages := fresh.filter (fun e => e.2 ≠ {}), runs := [],
                                    recs := [], edges := [] })
    let s := s.startSamplers b 0 n
    if s.cfgF (C.recordMode b) = 1 ∨ s.cfgF (C.recordMode b) = 2 then (s.setF (R.acqState b) 1).settlePages b else s

/-- The hits that a cell holds move with a load by `d` ticks, and those that awaited it can be judged (R65). -/
def Cell.shift (v : Cell) (d : BitVec 48) : Cell :=
  let dt : BitVec 61 := mkStamp d 0
  { v with hits := v.hits.map fun h => { h with coarse := h.coarse + d, stamp := h.stamp.map (· + dt), early := false } }

/-- The coarse time is loaded with `v` in the present tick; stops count from stamp `point` on (R65, R71). -/
def State.loadTime (s : State) (v : BitVec 48) (point : BitVec 61) : State :=
  let d := v - s.time.coarse
  let moved : Tab Cell := s.cells.map fun (e : Nat × Cell) => (e.1, e.2.shift d)
  let s := { s with cells := moved.filter fun e => e.2 ≠ ({} : Cell) }
  let s := s.voters.foldl (fun s r => s.setRegion r { s.region r with copy := v }) s
  let s := (List.range 8).foldl (fun s r =>
    if s.regionState r = 3 ∧ s.getF (R.realign r) = 1 ∧ s.refPresent ∧ (s.region r).realignFrom ≤ s.time.starts then
      (((s.setRegion r { s.region r with goodRun := 0 }).freezeTrim r).setF (R.realign r) 0).setTb r 4
    else s) s
  let s := { s with time := { s.time with coarse := v, expected := none, wrapDue := false, wrapped := false, loadPoint := point } }
  s.setF R.epochLoaded 1

/-- The run begins with a frame: every block's history begins with the next sample (R126, R127, R158). -/
def State.beginRun (s : State) (f : BitVec 32) : State :=
  let n := s.lastSample + 1
  let s := { s with time := { s.time with firstFrame := some f, lastFrame := none, loadSample := n },
                    pool := { s.pool with frameDone := none } }
  (List.range 128).foldl (fun s b => s.beginBlock b n) s

/-- The load of R65 after the start of acquisition. -/
def State.load (s : State) (v : BitVec 48) (point : BitVec 61) : State := (s.loadTime v point).beginRun (frameOf v)

/-! ## Starts (R61, R64) -/

/-- A start at a stamp: ignored while an earlier one's hold-off lasts, else it takes the next number, and its fragment opens
and closes GUARD after its window (R193). -/
def State.start (s : State) (stamp : BitVec 61) : State :=
  match s.time.window with
  | some _ => s.inc R.startIgnored
  | none =>
    let c := stampCoarse stamp
    let num := s.time.nextStart
    let w : Window := { s := c, num := num, stamp := stamp, at_ := (s.absTick c).toNat }
    let s := { s with time := { s.time with window := some w, nextStart := num + 1 } }
    let shut := c + BitVec.ofNat 48 (s.cfgF C.winDelay + s.cfgF C.winWidth + s.cfgF C.guard)
    (s.newFrag (.event 0 num) stamp 0 false).modFrag (.event 0 num) fun f => { f with closeAt := some shut }

/-- The ticks at which an accepted window opens and closes. -/
def State.windowOpens (s : State) (w : Window) : BitVec 48 := w.s + BitVec.ofNat 48 (s.cfgF C.winDelay)
def State.windowCloses (s : State) (w : Window) : BitVec 48 := w.s + BitVec.ofNat 48 (s.cfgF C.winDelay + s.cfgF C.winWidth)

/-- The fragments that close with the coarse time. -/
def State.closeStarts (s : State) : State :=
  { s with pool := { s.pool with frags := s.pool.frags.map fun f =>
      match f.closeAt with
      | some t => if reached s.time.coarse t then { f with closed := true } else f
      | none => f } }

/-! ## Actions at a sample boundary -/

/-- A cell's CELL_MODE changes (R92, R114, R117): a hit in progress is discarded and counted in DPR_LOST, and the cell
settles anew where it is powered up, in the range in which it starts. A discriminator without power is low. -/
def State.modeChange (s : State) (c old new : Nat) : State :=
  if old = new then s
  else
    let v := s.cell c
    let n := s.lastSample
    let full : List (Nat × Option Nat) :=
      if old = 2 then (match v.full with | (a, none) :: l => (a, some (n - 1)) :: l | l => l) else v.full
    let v := { v with hits := [], settling := if new = 1 ∨ new = 2 then some s.ticks else none, downCount := 0, switched := false,
                      full := if new = 2 then (n, none) :: full else full }
    let lost := (s.cell c).hits.length
    let auto : Bool := s.cfgF (C.rangeMode c) = 0
    let range := if new = 2 ∧ ¬ auto then s.cfgF (C.rangeMode c) - 1 else 2
    let s := ((s.setCell c v).incBy (R.dprLost c) lost).setF (R.curRange c) range
    let s := if old = 2 then s.flushStaging c else s
    if new = 0 then s.setF (R.discHigh c) 0 else s

/-! ## Interlock outputs (R430-R433) -/

/-- Period and high time, in ticks, of a fault code in an ILK_MODE (R432). -/
def ilkShape (mode code : Nat) : Nat × Nat :=
  let duty := [0, 2400, 800, 1600, 157600, 3200, 159200].getD code 0
  let period := [0, 250000, 400000, 320000, 12800, 200000, 10000].getD code 0
  if mode = 1 then (160000, duty) else if mode = 2 then (period, period / 2) else (0, 0)

/-- The interlock output of port `n` takes a fault code: its period is cut short and a new one begins (R433); with ILK_MODE 0 or 3
it is in high impedance, code 7. -/
def State.setIlk (s : State) (n code : Nat) : State :=
  let mode := s.cfgF (C.ilkMode n)
  let driven : Bool := mode = 1 ∨ mode = 2
  let shape := ilkShape mode code
  (s.setSxp n { s.sxp n with period := shape.1, high := shape.2, next := none }).setF (R.ilkCode n) (if driven then code else 7)

/-! ## SAFE -/

/-- Entry to SAFE (R465): acquisition stops as ACQ_STOP does, every cell is OFF (`State.cellMode`), a pair member sets FAIL,
HEALTH_OUT is low and ILK outputs report NODE_FAULT. -/
def State.enterSafe (s : State) (cause : Nat) : State :=
  if s.node.state.code < 3 ∨ s.node.state = .safe then s
  else
    let wasRunning := s.running
    let modes : List (Nat × Nat) := ((List.range 2048).map fun c => (c, s.cellMode c)).filter fun e => e.2 ≠ 0
    let s := (s.setF R.safeCause cause).enterState .safe
    let s := modes.foldl (fun s e => s.modeChange e.1 e.2 0) s
    let s := if wasRunning ∧ ¬ s.node.stopping then
        { s with node := { s.node with acts := s.node.acts ++ [.stop] } } else s
    let s := { s with pair := { s.pair with healthOut := false } }
    let s := (List.range 8).foldl (fun s n =>
      if s.cfgF (C.ilkMode n) = 1 ∨ s.cfgF (C.ilkMode n) = 2 then s.setIlk n 6 else s) s
    s.setFail 4

/-- A node whose voted commit record fails its check enters SAFE while CONFIGURED or RUNNING (R465, R475). -/
def State.checkRecord (s : State) : State :=
  if (s.node.state = .configured ∨ s.running) ∧ ¬ s.commitOk then s.enterSafe 2 else s

/-! ## The boundary -/

/-- A frozen block thaws at the boundary of the present sample, with which its new history begins (R142). -/
def State.thawBlock (s : State) (b : Nat) : State :=
  if s.getF (R.acqState b) ≠ 6 then s
  else
    let v := s.block b
    let live := (v.recs.filter fun r => ¬ r.read).map (·.id)
    let pages : Tab Page := v.pages.map fun e => (e.1, { e.2 with holders := e.2.holders.filter live.contains })
    let s := s.setBlock b { v with frost := none, pages := pages.filter fun e => e.2 ≠ {} }
    if s.running ∧ s.loaded then
      let v := s.block b
      match v.nextPage v.lastPage with
      | some p =>
        let s := s.startSamplers b p s.lastSample
        if s.cfgF (C.recordMode b) = 1 ∨ s.cfgF (C.recordMode b) = 2 then (s.setF (R.acqState b) 1).settlePages b
        else s.setF (R.acqState b) 0
      | none => ((s.setBlock b { v with sampling := true, gap := true }).inc (R.sampleGap b)).setF (R.acqState b) 4
    else s.setF (R.acqState b) 0

/-- The new values of ACQ_CELL_SET for one cell (R403). A discriminator that is high when DISC_EN goes to 0 falls at the
boundary (R101); whether its pulse exceeded the linear range is then a free bit. -/
def State.setCellFields (s : State) (c : Nat) (fields : BitVec 8) (thr hyst discEn mode : Nat) : State :=
  let old := s.cellMode c
  let s := if fields.getLsbD 0 then s.setCfg (C.thr c) thr else s
  let s := if fields.getLsbD 1 then s.setCfg (C.hyst c) hyst else s
  let s := if fields.getLsbD 2 then s.setCfg (C.discEn c) discEn else s
  let s := if fields.getLsbD 3 then s.setCfg (C.cellMode c) mode else s
  let s := if s.cfgF (C.discEn c) = 0 ∧ s.getF (R.discHigh c) = 1 then (s.fallCell c 0 s.freshBit).drawn else s
  s.modeChange c old (s.cellMode c)

/-- One action that waited for the boundary. -/
def State.applyAct (s : State) (a : BoundaryAct) : State :=
  match a with
  | .cellSet first count fields thr hyst discEn mode =>
    (List.range count).foldl (fun s i => if first + i < 2048 then s.setCellFields (first + i) fields thr hyst discEn mode else s) s
  | .thaw mask =>
    let hit := bitsOf 128 mask.toNat
    let s := hit.foldl (fun s b => s.thawBlock b) s
    (match s.fw.waits.find? fun w => w.2 = .thaw with
    | some w =>
      let s := { s with fw := { s.fw with waits := s.fw.waits.erase w } }
      s.answer w.1 0 (leBytes 16 (hit.foldl (fun a b => a + 2 ^ b) 0))
    | none => s)
  | .stop => s.applyStop

/-- The actions that waited are carried out in order at a sampling tick. -/
def State.atBoundary (s : State) : State :=
  if (s.ticks + boolNat s.time.parity) % 2 = 0 then
    let acts := s.node.acts
    acts.foldl (fun s a => s.applyAct a) { s with node := { s.node with acts := [] } }
  else s

end Sys2Proof.Machine
end

