-- ==== Sys2Proof/Machine/CellOps.lean ====
section
/-! DEFINITION. Operations of a cell: segment memory and its staging register (R105, R106, R322), the Q window (R108, R109),
calibration counts (R77), window acceptance (R61, R62) and the triggers of a hit-starting edge (R119, R120). -/

namespace Sys2Proof.Machine

/-! ## Segment memory -/

/-- The container that a sample number names for a Q window or record: where it was written, else, before the first sample of the
histories, the container that stands there in the ring of pages (assumption 127); a sample that a gap left out, or that the samplers had stopped before, has a free value
(assumption 158). -/
def State.readSample (s : State) (c : Nat) (n : Int) : Option (BitVec 16) × State :=
  let v := s.block (c / 16)
  match (if 0 ≤ n then s.findSample v n.toNat else none) with
  | some k => s.readContainer c k
  | none =>
    match v.runs.getLast? with
    | some (f, _) =>
      if n < f then s.readContainer c (4096 - ((f : Int) - n).toNat % 4096) else (some (BitVec.ofNat 16 s.fresh.toNat), s.drawn)
    | none => (some (BitVec.ofNat 16 s.fresh.toNat), s.drawn)

def containerRange (x : BitVec 16) : Nat := x.toNat / 1024 % 4
def containerSettle (x : BitVec 16) : Bool := x.getLsbD 12

/-- The highest available range of a cell (R91). -/
def State.topRange (s : State) (c : Nat) : Nat := if s.cfgF (C.rangeMode c) = 0 then 2 else s.cfgF (C.rangeMode c) - 1

/-- (DATA - ADC_OFFSET) × f in range-0 codes (R108). -/
def State.rangeZero (s : State) (c : Nat) (x : BitVec 16) : Int :=
  let f := if containerRange x = 3 then 10 ^ s.topRange c else 10 ^ containerRange x
  ((x.toNat % 1024 : Nat) - (s.cfgF (C.adcOffset c) : Nat) : Int) * (f : Nat)

/-- What a Q window gathers: the sum S, the highest RANGE, SETTLE, SAT and poison. -/
structure QSum where
  sum : Int := 0
  range : Nat := 0
  settle : Bool := false
  sat : Bool := false
  poison : Bool := false
  deriving DecidableEq, Repr

/-- The samples of a Q window read oldest first. A number before the first sample of the history, one below 0 among them, names the
container that stands at its place in the ring of pages (R108; assumption 127). -/
def State.qWindow : Nat → State → Nat → Int → QSum → QSum × State
  | 0, s, _, _, q => (q, s)
  | m + 1, s, c, n, q =>
    let r := s.readSample c n
    let q := match r.1 with
      | none => { q with poison := true }
      | some x => { q with sum := q.sum + s.rangeZero c x, range := max q.range (containerRange x),
                           settle := q.settle || containerSettle x, sat := q.sat || containerRange x = 3 }
    State.qWindow m r.2 c (n + 1) q

/-! ## Interpolation -/

/-- The active INL table of a cell (R76). -/
def Cell.table (v : Cell) : Tab Int := if v.activeB then v.tableB else v.tableA

/-- The code words of an INL copy (R326). -/
def inlWords (c : Nat) (copyB : Bool) : List Nat := (List.range 8).map (Config.inlWord c copyB)

/-- The active table as a hit of raw code `r` reads it: the two entries it uses, 0 where poisoned (R76, R326). -/
def State.inlRead (s : State) (c : Nat) (r : BitVec 13) : Tab Int × State :=
  let v := s.cell c
  let k := r.toNat / 128
  let n := (k + 1) % 64
  let a := s.tableCw (Config.inlWord c v.activeB (k / 8))
  let b := if n / 8 = k / 8 then a else a.2.tableCw (Config.inlWord c v.activeB (n / 8))
  let drop (p : Bool) (i : Nat) (t : Tab Int) : Tab Int := if p then Tab.set 0 t i 0 else t
  (drop a.1 k (drop b.1 n v.table), b.2)

/-- A table read with the map of its poisoned entries: the eight entries of a poisoned code word read 0 (R405). -/
def dropEntries (r : Tab Int × Nat) (g : Nat) (poisoned : Bool) : Tab Int × Nat :=
  if poisoned then ((List.range 8).foldl (fun (t : Tab Int) (i : Nat) => Tab.set 0 t (8 * g + i) 0) r.1, r.2 + 255 * 2 ^ (8 * g)) else r

/-- The whole active table read, with the map of its poisoned entries (R405). -/
def State.inlTable (s : State) (c : Nat) : (Tab Int × Nat) × State :=
  let v := s.cell c
  (List.range 8).foldl (fun (r : (Tab Int × Nat) × State) (g : Nat) =>
    let x := r.2.tableCw (Config.inlWord c v.activeB g)
    (dropEntries r.1 g x.1, x.2)) ((v.table, 0), s)

/-- A table is written to the inactive copy, which becomes active (R76, R79). -/
def State.calLoad (s : State) (c : Nat) (tab : Tab Int) : State :=
  let v := s.cell c
  let s := s.tableWrite (inlWords c (!v.activeB))
  let v : Cell := if v.activeB then { v with tableA := tab, activeB := false } else { v with tableB := tab, activeB := true }
  s.setCell c v

/-- The 64 values that entries of a new table may take are drawn. -/
def State.drawTable (s : State) : State := { s with free := s.free + 64 }

/-- The count of rejected tables in a row (R79). -/
def State.setRun (s : State) (c n : Nat) : State := s.setCell c { s.cell c with rejectRun := n }

/-- One interpolation counted for calibration (R77, R80). -/
def State.calCount (s : State) (c : Nat) (raw : BitVec 13) : State :=
  if s.regionState (c / 256) ≠ 2 then s
  else
    let v := s.cell c
    let seg := raw.toNat / 128
    s.setCell c { v with calTotal := v.calTotal + 1, calSeg := Tab.set 0 v.calSeg seg (Tab.get 0 v.calSeg seg + 1) }

/-- `a` is at or after `b` on the circle of 61-bit stamps. -/
def stampReached (a b : BitVec 61) : Bool := (a - b).toNat < 2 ^ 60

/-- The fragment that a stop with a corrected stamp belongs to (R61, R62, R65, R75), none where it is dropped; `base` is the
tick that COARSE_LO counts from. -/
def State.acceptStop (s : State) (c : Nat) (stamp : BitVec 61) : Option (MergeKey × BitVec 48) × State :=
  let coarse := stampCoarse stamp
  if ¬ s.windowMode then (some (.frame (frameOf coarse), 0), s)
  else match s.time.window with
    | none => (none, s.inc (R.outOfWindow c))
    | some w =>
      if reached coarse (s.windowOpens w) ∧ ¬ reached coarse (s.windowCloses w) then
        let v := s.cell c
        let n := if v.winAt = some w.at_ then v.winCount else 0
        let s := s.setCell c { v with winAt := some w.at_, winCount := n + 1 }
        if n < 16 then (some (.event 0 w.num, w.s), s) else (none, s.inc (R.windowExcess c))
      else (none, s.inc (R.outOfWindow c))

/-- An edge takes its place among a block's unconsumed edges: in time-stamp order, equal stamps in ascending cell index (R120). -/
def placeEdge (x : BitVec 61 × Nat) : List (BitVec 61 × Nat) → List (BitVec 61 × Nat)
  | [] => [x]
  | y :: l =>
    if x.1 = y.1 then (if x.2 < y.2 then x :: y :: l else y :: placeEdge x l)
    else if stampReached x.1 y.1 then y :: placeEdge x l else x :: y :: l

/-- The unconsumed edges that an edge with stamp `t` looks at: those up to it within the span. -/
def inSpan (span : Nat) (t : BitVec 61) (e : BitVec 61 × Nat) : Bool := (t - e.1).toNat ≤ span

/-- The edges taken in order from those in `todo` on: the first that completes a coincidence, with the edges that stay unconsumed. -/
def fire (span maj : Nat) (edges : List (BitVec 61 × Nat)) : List (BitVec 61 × Nat) → Option (BitVec 61 × List (BitVec 61 × Nat))
  | [] => none
  | x :: l =>
    let upTo := edges.take (edges.length - l.length)
    let cells := ((upTo.filter (inSpan span x.1)).map (·.2)).dedup
    if maj ≤ cells.length then some (x.1, upTo.filter (fun e => ¬ inSpan span x.1 e) ++ l) else fire span maj edges l

/-- The block's coincidence unit takes a hit-starting edge (R120); it fires with a BLOCK trigger at the time of the edge that
completes the coincidence. An edge whose interpolation completes after that of a later one takes its place by its stamp and completes
coincidences with later edges that none has consumed (assumption 128). Edges 64 ticks old are of no more use. -/
def State.coincidence (s : State) (c : Nat) (stamp : BitVec 61) : State :=
  let b := c / 16
  if s.cfgF (C.trigEn b) / 2 % 2 = 0 ∨ s.cfgF (C.blkTrigMask b) / 2 ^ (c % 16) % 2 = 0 then s
  else
    let v := s.block b
    let edges := placeEdge (stamp, c) (v.edges.filter fun e => (stamp - e.1).toNat ≤ 64 * 8192 || stampReached e.1 stamp)
    let late := (edges.filter fun e => stampReached e.1 stamp ∧ (e.1 ≠ stamp ∨ c ≤ e.2))
    match fire (s.cfgF (C.blkCoinc b) * 8192) (s.cfgF (C.blkMaj b)) edges late with
    | some f => (s.setBlock b { v with edges := f.2 }).selfTrigger 1 b (BitVec.ofNat 16 (s.cfgF (C.recordMask b))) f.1
    | none => s.setBlock b { v with edges := edges }

/-- The CELL trigger of a hit-starting edge (R119). -/
def State.cellTrigger (s : State) (c : Nat) (stamp : BitVec 61) : State :=
  let b := c / 16
  if s.cfgF (C.trigEn b) % 2 = 1 ∧ s.cfgF (C.recordMask b) / 2 ^ (c % 16) % 2 = 1 then
    s.selfTrigger 0 b (BitVec.ofNat 16 (2 ^ (c % 16))) stamp
  else s

/-- Both triggers of an edge at their common decision instant; which is judged first is a free bit. -/
def State.edgeTriggers (s : State) (c : Nat) (stamp : BitVec 61) : State :=
  if s.freshBit then (s.drawn.cellTrigger c stamp).coincidence c stamp else (s.drawn.coincidence c stamp).cellTrigger c stamp

/-! ## Edges and hit words -/

/-- A discharge struck the cell within the last 10 us (R519). -/
def Cell.stunned (v : Cell) (now : Nat) : Bool := v.struck.any fun t => decide (now < t + 1600)

/-- A discharge strikes a cell, unless the edge is an ordinary one. -/
def State.strike (s : State) (c : Nat) (discharge : Bool) : State :=
  if discharge then s.setCell c { s.cell c with struck := some s.ticks } else s

/-- The sample of a hit: its corrected stamp's, or while that is not known its raw coarse count's. -/
def State.hitSample (s : State) (h : Hit) : Nat :=
  s.sampleAt (match h.stamp with | some t => stampCoarse t | none => h.coarse)

/-- The hits of a cell whose Q window a rising edge in the present tick falls into are marked PILEUP (R109). -/
def State.markPileup (s : State) (c : Nat) (h : Hit) : Hit :=
  if h.full ∧ s.lastSample < s.hitSample h + s.cfgF (C.qLen (c / 16)) then { h with pileup := true } else h

/-- The last of a list replaced by `f` of it. -/
def updLast {α : Type} (f : α → α) : List α → List α
  | [] => []
  | [a] => [f a]
  | a :: l => a :: updLast f l

/-- The node awaits its load: a stop that comes now is recorded where its stamp turns out to be at or after the load point (R65). -/
def State.awaitsLoad (s : State) : Bool := s.running && !s.node.stopping && !s.loaded

/-- A stop is recorded at this instant (R65, R147): the node records, or a window that was open at ACQ_STOP still is. -/
def State.recordsStops (s : State) : Bool :=
  s.judging || (s.running && s.node.stopping && s.windowMode &&
    (match s.time.window with | some w => w.opened && !w.closed | none => false))

/-- A stop with its stamp judged (R61, R62, R65): it is given its fragment, or is not recorded. One that came before the load stays
unjudged until the load, and is not recorded where acquisition stops first. -/
def State.judgeStop (s : State) (c : Nat) (h : Hit) : Hit × State :=
  match h.stamp with
  | none => (h, s)
  | some stamp =>
    if ¬ h.live ∨ h.key.isSome ∨ (h.early ∧ s.awaitsLoad) then (h, s)
    else
      let r : Option (MergeKey × BitVec 48) × State :=
        if ¬ h.early ∧ stampReached stamp s.time.loadPoint then s.acceptStop c stamp else (none, s)
      ({ h with live := r.1.isSome, key := r.1.map (·.1), base := (r.1.map (·.2)).getD 0 }, r.2)

/-- A hit word enters the derandomiser, or is dropped where it holds 8 (R144, R146). Where a word leaves at the same instant, the order of
the two commands decides (R145; assumption 118). -/
def State.derandomise (s : State) (c : Nat) (w : HitWord) : State :=
  let v := s.cell c
  if 8 ≤ v.derand.length then s.inc (R.derandLost c)
  else
    let s := s.setCell c { v with derand := v.derand ++ [w] }
    s.setF (R.derandPeak c) (max (v.derand.length + 1) (s.getF (R.derandPeak c)))

end Sys2Proof.Machine
end

