-- ==== Sys2Proof/Machine/Acq.lean ====
section
/-! DEFINITION. Triggers, pages, records and the block and region arbiters: PAGE_ADVANCE to REGION_GRANT (R30, R119-R141,
R194). -/

namespace Sys2Proof.Machine

/-- PAGE_ADVANCE (R126, R132, R134): the page that sample `n - 1` filled ends; the next page to be begun starts with sample
`n`, or a gap begins. -/
def execPageAdvance (blk : Fin 128) (n : Nat) (s : State) : Res :=
  .next (
    let b := blk.val
    let v := s.block b
    match v.page with
    | none => s
    | some p =>
      if v.sampling ∧ n = ((Tab.get {} v.pages p).gens.headD (0, 0)).1 + 64 ∧ n ≤ s.writtenEnd v then
        match (s.finishPage v).nextPage p with
        | some q => s.setBlock b ((s.finishPage v).beginPage q n)
        | none => s.beginGap b (n - 1)
      else s)

/-- TRIG_IN_EDGE (R60, R121, R123). EXT_HOLDOFF is measured on the full stamps, as the spans of R120 are (assumption 126). -/
def execTrigInEdge (fine : BitVec 13) (s : State) : Res :=
  .next (
    match s.measuring with
    | none => if s.running ∧ ¬ s.node.stopping then s.inc R.extIgnored else s
    | some _ =>
      if ¬ s.judging then s
      else
        let near : Bool := match s.trig.lastExt with
          | some t => decide (s.ticks * 8192 + fine.toNat - t < s.cfgF C.extHoldoff * 8192)
          | none => false
        if near then s.inc R.extIgnored
        else
          let num := BitVec.ofNat 32 (s.getF R.nextExt)
          let s := ({ s with trig := { s.trig with lastExt := some (s.ticks * 8192 + fine.toNat) } }).incWrap R.nextExt 1
          s.trigger 2 (.event 2 num) (mkStamp s.time.coarse fine))

/-- TREE_TRIGGER_DUE (R122, R123): the oldest pending tree trigger whose target tick has ended. Before the load of R65 the coarse time as it
stands decides, and the blocks, IDLE, give an empty fragment (assumption 159). -/
def execTreeTriggerDue (s : State) : Res :=
  .next (
    match s.trig.pending.find? fun t => reached s.time.coarse (stampCoarse t.time + 1) with
    | none => s
    | some t =>
      let s := { s with trig := { s.trig with pending := s.trig.pending.erase t } }
      s.trigger 3 (.event 1 t.num) t.time)

/-- What follows a block's last sample of the last record being recorded: REARM, Frost, or the end of the history after
ACQ_STOP (R130, R141, R147). -/
def State.recordsDone (s : State) (b : Nat) : State :=
  let st := s.getF (R.acqState b)
  if st = 5 then s.frostEntry b
  else if s.node.stopping then s.stopBlock b
  else if st = 2 then s.setF (R.acqState b) 3
  else s

/-- RECORD_COMPLETE (R130, R134, R141): behind a long record no page is free. -/
def execRecordComplete (blk : Fin 128) (s : State) : Res :=
  .next (
    let b := blk.val
    let v := s.block b
    match v.recs.find? fun r => !r.complete && decide (r.last ≤ s.lastSample) with
    | none => s
    | some r =>
      let s := s.setBlock b { v with recs := v.recs.map fun x => if x.id = r.id then { x with complete := true } else x }
      let s := if (recording (s.block b)).isEmpty then s.recordsDone b else s
      if r.long ∧ (s.block b).sampling ∧ (s.block b).page.isSome then s.beginGap b r.last else s)

/-- REARM_END (R130, R133): 64 sample periods after REARM was entered, which for a record accepted with its samples all written is
its acceptance. -/
def execRearmEnd (blk : Fin 128) (s : State) : Res :=
  .next (
    let b := blk.val
    let last := ((s.block b).recs.map fun r => max r.last r.accepted).foldl max 0
    if s.getF (R.acqState b) = 3 ∧ last + 65 ≤ s.lastSample then (s.setF (R.acqState b) 1).settlePages b else s)

/-! ## The record builder -/

/-- What the builder gathers over a record's samples: the containers newest first, the flags, the mask's first violation. -/
structure RecSum where
  data : List (BitVec 16) := []
  sat : Bool := false
  settle : Bool := false
  poisonMask : Nat := 0
  violation : Option Nat := none
  deriving DecidableEq, Repr

/-- The mask point that sample `j`, counted from the nominal start, is compared with (R139). -/
def State.maskPoint (s : State) (b j : Nat) : Nat := min 255 (j / 2 ^ s.cfgF (C.maskShift b))

/-- A sample is tested against the mask (R139, R140). -/
def State.maskTests (s : State) (b : Nat) (x : BitVec 16) : Bool :=
  (s.cfgF (C.maskAction b) = 1 || s.cfgF (C.maskAction b) = 2) && !containerSettle x

/-- A sample violates its mask point (R139), which is that of its record's acceptance: `old` lists the points replaced since (R404). -/
def State.violates (s : State) (old : List (Nat × Nat × Nat)) (c j : Nat) (x : BitVec 16) : Bool :=
  let b := c / 16
  let point := s.maskPoint b j
  let limits := match old.find? fun e => e.1 = point with
    | some e => e.2
    | none => (s.cfgF (C.maskLower b point), s.cfgF (C.maskUpper b point))
  let v := s.rangeZero c x
  s.maskTests b x && (decide (signed 18 limits.2 < v) || decide (v < signed 18 limits.1))

/-- The mask point of a sample read from its table: whether it is poisoned, and so lets every value pass (R326). -/
def State.readMask (s : State) (old : List (Nat × Nat × Nat)) (b j : Nat) (x : Option (BitVec 16)) : Bool × State :=
  match x with
  | none => (true, s)
  | some x => if s.maskTests b x ∧ (old.find? fun e => e.1 = s.maskPoint b j).isSome then (false, s)
    else if s.maskTests b x then s.tableCw (Config.maskWord b (s.maskPoint b j)) else (true, s)

/-- The samples of a record read oldest first (R132, R137-R139): `i` the number delivered so far of `n`, `off` the number of
the first one counted from the nominal start, `old` the mask points replaced since its acceptance. -/
def State.readRecord : Nat → State → List (Nat × Nat × Nat) → Nat → Nat → Nat → Nat → Nat → RecSum → RecSum × State
  | 0, s, _, _, _, _, _, _, q => (q, s)
  | m + 1, s, old, c, sample, i, n, off, q =>
    let r := s.readSample c ((sample + i : Nat) : Int)
    let t := r.2.readMask old (c / 16) (off + i) r.1
    let q := match r.1 with
      | none => { q with data := 0xE000 :: q.data, poisonMask := q.poisonMask ||| 2 ^ (16 * i / n) }
      | some x =>
        { q with data := x :: q.data, sat := q.sat || containerRange x = 3, settle := q.settle || containerSettle x
                 violation := if q.violation.isNone && !t.1 && s.violates old c (off + i) x then some (off + i) else q.violation }
    State.readRecord m t.2 old c sample (i + 1) n off q

/-- Containers packed four to a word (R167). The first argument bounds the words. -/
def packContainers : Nat → List (BitVec 16) → List Word
  | 0, _ => []
  | n + 1, l =>
    if l.isEmpty then []
    else BitVec.ofNat 64 ((l.take 4).foldr (fun x a => a * 65536 + x.toNat) 0) :: packContainers n (l.drop 4)

/-- Every sample from `a` to `b` was taken in CELL_MODE FULL (R135). -/
def Cell.allFull (v : Cell) (a b : Nat) : Bool :=
  (v.full.map fun h => (match h.2 with | some e => min (e + 1) (b + 1) | none => b + 1) - max h.1 a).sum = b + 1 - a

/-- A region was in hold-over at some instant of a span (R68). -/
def State.heldDuring (s : State) (r : Nat) (a b : BitVec 48) : Bool :=
  (s.region r).holds.any fun h => decide ((h.first : Int) ≤ s.absTick b) &&
    (match h.lock with | some e => decide (s.absTick a < e) | none => true)

/-- One cell's record built (R135, R137): its unit, and the sample of a mask violation. -/
def State.buildRecord (s : State) (b c : Nat) (r : Rec) : (Unit' × Option Nat) × State :=
  let first := max r.first (r.last - 4095)
  let n := r.last + 1 - first
  let unit (l : List PWord) : Unit' := ⟨r.key, r.trigTime, c, l, true⟩
  if ¬ (s.cell c).allFull first r.last then ((unit (emptyRecord s c r 12), none), s)
  else
    let nominal : Int := (r.t0 : Int) - s.cfgF (C.pre b)
    let q := State.readRecord n s r.points c first 0 n ((first : Int) - nominal).toNat {}
    let s := q.2
    let region := c / 256
    let hold : Bool := s.inHoldover region (stampCoarse r.trigTime) ||
      s.heldDuring region (s.sampleTick first) (s.sampleTick r.last)
    let flags := boolNat r.preShort * 2 ^ 15 + boolNat r.long * 2 ^ 14 + boolNat q.1.violation.isSome * 2 ^ 11 +
      boolNat q.1.sat * 2 ^ 10 + boolNat q.1.settle * 2 ^ 9 + boolNat hold * 2 ^ 8 + boolNat (q.1.poisonMask ≠ 0)
    let head := recordHeader c n ((r.t0 : Int) - first) r.src.toNat flags r.trigTime.toNat q.1.poisonMask (s.sampleTick first).toNat
    ((unit ((head ++ packContainers ((n + 3) / 4) q.1.data.reverse).map pw), q.1.violation), s)

/-- A mask violation's consequence (R140, R141): the flag, and with MASK_ACTION 2 the block freezes, at once into Frost where
no accepted record is still being recorded. -/
def State.maskHit (s : State) (b c j : Nat) (t : BitVec 61) : State :=
  let s := s.setFlag (R.maskFail b)
  let st := s.getF (R.acqState b)
  if s.cfgF (C.maskAction b) ≠ 2 ∨ st = 5 ∨ st = 6 then s
  else
    let s := (s.setBlock b { s.block b with frost := some (c, j, t) }).setF (R.acqState b) 5
    if (recording (s.block b)).isEmpty then s.frostEntry b else s

/-- The records of a list of cells built and queued for the block arbiter. -/
def State.buildAll (s : State) (b : Nat) (r : Rec) : List Nat → State
  | [] => s
  | c :: l =>
    let x := s.buildRecord b c r
    let s := x.2.setBlock b { x.2.block b with records := (x.2.block b).records ++ [x.1.1] }
    let s := match x.1.2 with
      | some j => s.maskHit b c j r.trigTime
      | none => s
    s.buildAll b r l

/-- A record that has been read frees the pages that no other record holds (R132); records beyond the last 4,096 samples are
forgotten (R131). -/
def State.freePagesOf (s : State) (b id : Nat) : State :=
  let v := s.block b
  let pages : Tab Page := v.pages.map fun e => (e.1, { e.2 with holders := e.2.holders.filter (· ≠ id) })
  let recs := v.recs.map fun x => if x.id = id then { x with read := true } else x
  let recs := recs.filter fun x => !x.read || decide (s.lastSample < x.last + 4096)
  s.setBlock b { v with pages := pages.filter fun e => e.2 ≠ {}, recs := recs }

/-- RECORD_READ (R125, R132-R141). -/
def execRecordRead (blk : Fin 128) (s : State) : Res :=
  .next (
    let b := blk.val
    match (s.block b).recs.find? fun r => r.complete && !r.read with
    | none => s
    | some r => (((s.buildAll b r (recCells b r)).freePagesOf b r.id).settlePages b).resumeGap b)

/-! ## The arbiters -/

/-- The stamps and cells of two waiting heads: the first is granted before the second (R30). -/
def olderHead (a b : BitVec 61 × Nat) : Bool := if a.1 = b.1 then a.2 ≤ b.2 else stampReached b.1 a.1

/-- The head that is granted among candidates. -/
def oldest {α : Type} (f : α → BitVec 61 × Nat) : List α → Option α
  | [] => none
  | a :: l =>
    match oldest f l with
    | none => some a
    | some b => if olderHead (f a) (f b) then some a else some b

/-- BLOCK_GRANT (R30, R136): the oldest head word or record of the block's cells moves to the block's output. A hit word
and a record of one cell with equal stamps go in either order. -/
def execBlockGrant (blk : Fin 128) (s : State) : Res :=
  .next (
    let b := blk.val
    let v := s.block b
    if v.head.isSome then s
    else
      let hits : List (BitVec 61 × Nat) := (List.range 16).filterMap fun i =>
        (s.cell (16 * b + i)).derand.head?.map fun w => (w.stamp, 16 * b + i)
      let h := oldest id hits
      let r := oldest (fun (u : Unit') => (u.stamp, u.cell)) v.records
      let takeHit : Bool := match h, r with
        | none, _ => false
        | some _, none => true
        | some x, some u => if x = (u.stamp, u.cell) then s.freshBit else olderHead x (u.stamp, u.cell)
      let s := s.drawn
      if takeHit then
        match h with
        | none => s
        | some x =>
          let c := s.cell x.2
          match c.derand with
          | [] => s
          | w :: l =>
            (s.setCell x.2 { c with derand := l }).setBlock b { v with head := some ⟨w.key, w.stamp, x.2, [pw w.word], false⟩ }
      else
        match r with
        | none => s
        | some u => s.setBlock b { v with head := some u, records := v.records.erase u })

/-- A fragment takes no more words (R193, R194): a frame by the coarse time, another by its closing. -/
def State.fragShut (s : State) (k : MergeKey) : Bool :=
  match k with
  | .frame f => reached s.time.coarse (frameTick (f + 1) + BitVec.ofNat 48 (s.cfgF C.guard))
  | .event .. => match s.frag k with | some g => g.closed | none => true

/-- A record of a trigger has reached the frame builder: the fragment closes with the last one (R125). -/
def Frag.taken (g : Frag) : Frag :=
  if g.closeAt.isSome then g else { g with waiting := g.waiting - 1, closed := g.closed || g.waiting ≤ 1 }

/-- Words of the unit that region `r` carries from block `b` enter its FIFO as far as there is room; with the last of them the block's head is
free, and a record has reached the frame builder. -/
def State.enterRegion (s : State) (r b : Nat) (u : Unit') : State :=
  let more := Tab.get 0 s.pool.regMore r - (512 - s.regionWords r)
  let s := { s with pool := { s.pool with regMore := Tab.set 0 s.pool.regMore r more } }
  if more ≠ 0 then s
  else
    let s := s.setBlock b { s.block b with head := none }
    if u.isRecord then s.modFrag u.key Frag.taken else s

/-- REGION_GRANT (R30, R32, R125, R194): the oldest head of the region's blocks enters the region's input FIFO of 512 words of the chip
arbiter, or is dropped where its fragment has closed. A record that does not fit enters as room comes, before any other unit
(R136). -/
def execRegionGrant (region : Fin 8) (s : State) : Res :=
  .next (
    let r := region.val
    let fifo := Tab.get [] s.pool.regFifo r
    if 512 ≤ s.regionWords r then s
    else if Tab.get 0 s.pool.regMore r ≠ 0 then
      match fifo.getLast? with
      | some u => s.enterRegion r (u.cell / 16) u
      | none => s
    else
      let heads : List (Nat × Unit') := (List.range 16).filterMap fun i =>
        (s.block (16 * r + i)).head.map fun u => (16 * r + i, u)
      match oldest (fun (h : Nat × Unit') => (h.2.stamp, h.2.cell)) heads with
      | none => s
      | some h =>
        if s.fragShut h.2.key then (s.setBlock h.1 { s.block h.1 with head := none }).inc R.hitAfterClose
        else
          let s := { s with pool := { s.pool with regFifo := Tab.set [] s.pool.regFifo r (fifo ++ [h.2]),
                                                  regMore := Tab.set 0 s.pool.regMore r h.2.words.length } }
          s.enterRegion r h.1 h.2)

end Sys2Proof.Machine
end

