-- ==== Sys2Proof/Machine/F32.lean ====
section
/-! DEFINITION. IEEE 754 single-precision arithmetic of R425, R426 and R431: each operation rounded to nearest with ties
to even, subnormal values kept, no fused operation. A NaN result is the quiet NaN 0x7FC0_0000 of R425. -/

namespace Sys2Proof.Machine

/-- The quiet NaN of R425. -/
def qNaN : W32 := 0x7FC00000

/-- A single: NaN, an infinity, or a finite value sign · mantissa · 2^(exponent − 149). -/
inductive F32 where
  | nan
  | inf (neg : Bool)
  | fin (neg : Bool) (m : Nat) (e : Nat)
  deriving DecidableEq, Repr

/-- The value of a bit pattern. -/
def F32.decode (w : W32) : F32 :=
  let neg := w.getLsbD 31
  let ex := fget w 23 8
  let fr := fget w 0 23
  if ex = 255 then (if fr = 0 then .inf neg else .nan)
  else if ex = 0 then .fin neg fr 0
  else .fin neg (2 ^ 23 + fr) (ex - 1)

/-- The pattern of the value ± n / d · 2^(−149), rounded to nearest with ties to even. `neg` gives the sign, also of a
zero. -/
def F32.pack (neg : Bool) (n d : Nat) : W32 :=
  let sg : Nat := if neg then 2 ^ 31 else 0
  if n = 0 then BitVec.ofNat 32 sg
  else
    let q := n / d
    let e := if q < 2 ^ 24 then 0 else Nat.log2 q - 23
    let m := (roundEven n (d * 2 ^ e)).toNat
    let (m, e) := if m = 2 ^ 24 then (2 ^ 23, e + 1) else (m, e)
    if m < 2 ^ 23 then BitVec.ofNat 32 (sg + m)
    else if 253 < e then BitVec.ofNat 32 (sg + 0x7F800000)
    else BitVec.ofNat 32 (sg + (e + 1) * 2 ^ 23 + (m - 2 ^ 23))

/-- A signed finite value in units of 2^(−149). -/
def F32.int (neg : Bool) (m e : Nat) : Int := if neg then -((m * 2 ^ e : Nat) : Int) else (m * 2 ^ e : Nat)

/-- The sum of two singles. -/
def fadd (a b : W32) : W32 :=
  match F32.decode a, F32.decode b with
  | .nan, _ | _, .nan => qNaN
  | .inf x, .inf y => if x = y then a else qNaN
  | .inf _, _ => a
  | _, .inf _ => b
  | .fin n1 m1 e1, .fin n2 m2 e2 =>
    let v := F32.int n1 m1 e1 + F32.int n2 m2 e2
    if v = 0 then F32.pack (n1 && n2) 0 1 else F32.pack (v < 0) v.natAbs 1

/-- The negation of a single. -/
def fneg (a : W32) : W32 := a ^^^ 0x80000000

/-- The difference of two singles. -/
def fsub (a b : W32) : W32 :=
  match F32.decode b with
  | .nan => qNaN
  | _ => fadd a (fneg b)

/-- The product of two singles. -/
def fmul (a b : W32) : W32 :=
  match F32.decode a, F32.decode b with
  | .nan, _ | _, .nan => qNaN
  | .inf x, .inf y => F32.pack (x != y) (2 ^ 500) 1
  | .inf x, .fin y m _ => if m = 0 then qNaN else F32.pack (x != y) (2 ^ 500) 1
  | .fin y m _, .inf x => if m = 0 then qNaN else F32.pack (x != y) (2 ^ 500) 1
  | .fin n1 m1 e1, .fin n2 m2 e2 => F32.pack (n1 != n2) (m1 * m2 * 2 ^ (e1 + e2)) (2 ^ 149)

/-- The quotient of two singles. -/
def fdiv (a b : W32) : W32 :=
  match F32.decode a, F32.decode b with
  | .nan, _ | _, .nan => qNaN
  | .inf _, .inf _ => qNaN
  | .inf x, .fin y _ _ => F32.pack (x != y) (2 ^ 500) 1
  | .fin y _ _, .inf x => F32.pack (x != y) 0 1
  | .fin n1 m1 e1, .fin n2 m2 e2 =>
    if m2 = 0 then (if m1 = 0 then qNaN else F32.pack (n1 != n2) (2 ^ 500) 1)
    else F32.pack (n1 != n2) (m1 * 2 ^ e1 * 2 ^ 149) (m2 * 2 ^ e2)

/-- The single of an integer. -/
def fofInt (v : Int) : W32 := F32.pack (v < 0) (v.natAbs * 2 ^ 149) 1

/-- The value is finite. -/
def ffinite (a : W32) : Bool :=
  match F32.decode a with
  | .fin .. => true
  | _ => false

/-- The order of singles: false where one is NaN. -/
def flt (a b : W32) : Bool :=
  match F32.decode a, F32.decode b with
  | .nan, _ | _, .nan => false
  | .inf x, .inf y => x && !y
  | .inf x, .fin .. => x
  | .fin .., .inf y => !y
  | .fin n1 m1 e1, .fin n2 m2 e2 => F32.int n1 m1 e1 < F32.int n2 m2 e2

/-- The nearest integer to a finite single, ties to even; 0 where it is not finite. -/
def fround (a : W32) : Int :=
  match F32.decode a with
  | .fin n m e => roundEven (F32.int n m e) (2 ^ 149)
  | _ => 0

end Sys2Proof.Machine
end

