-- ==== Sys2Proof/Machine/MemProt.lean ====
section
/-! DEFINITION. Memory protection: MEM_POISON_REWRITE to RETIRE_MAP_REPAIR (R318-R337). -/

namespace Sys2Proof.Machine

/-- Code words of a memory (R321). -/
def memWords (m : Nat) : Nat :=
  if m = 0 then 3145728 else if m = 1 then 2097152 else if m = 2 then 1048576
  else if m = 3 then 131072 else if m = 4 then 512 else 65536

/-- The memories are powered and initialised: from BOOT on. -/
def State.memOn (s : State) : Bool := decide (2 ≤ s.node.state.code)

/-- MEM_POISON_REWRITE (R324): the rewrite takes place only while the code word still reads UE. -/
def execMemPoisonRewrite (mem : Fin 6) (addr : Nat) (s : State) : Res :=
  .next (
    let m := mem.val
    if (s.mem m).ueSeen.contains addr then
      if classify (s.raw m addr) = .ue then s.setRaw m addr poisonCw
      else s.setMem m { s.mem m with ueSeen := (s.mem m).ueSeen.filter (· ≠ addr) }
    else s)

/-- MERGE_BUFFER_DRAIN (R328): the oldest entry drains. -/
def execMergeBufferDrain (mem : Fin 6) (upset : BitVec 152) (s : State) : Res :=
  .next (
    match (s.mem mem.val).buffer with
    | e :: _ => (s.upset mem.val e.addr upset).drainEntry mem.val e
    | [] => s)

/-- The first code word from `a` on that no retired unit holds (R330, R337). -/
def State.scrubFrom (s : State) (m a : Nat) : Option Nat :=
  if memWords m ≤ a then none
  else if ¬ s.unitRetired m (a / 256) then some a
  else ((List.range (memWords m / 256 - a / 256 - 1)).find? fun i => !s.unitRetired m (a / 256 + 1 + i)).map fun i =>
    (a / 256 + 1 + i) * 256

/-- A code word of a cell whose sampler runs counts as visited without a read (R330): in a block that samples, those of the cells in FULL
(R111). The scrubber skips a group under test (R484). -/
def State.scrubSkips (s : State) (m a : Nat) : Bool :=
  (m = 2 && (s.block (a / 512 / 16)).sampling && s.cellMode (a / 512) = 2) ||
    (match s.test.mem with | some (k, g, _) => k = m && a / 262144 = g | none => false)

/-- The scrubber's access of one code word (R330). -/
def State.scrubWord (s : State) (m a : Nat) : State :=
  let s := s.drainFor m a
  match classify (s.raw m a) with
  | .clean | .poison => s
  | .ce j v => (s.setRaw m a (flipSymbol (s.raw m a) j v)).correction m a j v.toNat 0 2
  | .poisonCe j v => (s.setRaw m a poisonCw).correction m a j v.toNat 2 2
  | .ue =>
    if (s.mem m).ueSeen.contains a then s.setRaw m a poisonCw
    else (s.setRaw m a poisonCw).ueFound m a 2 (R.ueScrub m)

/-- The scrubber passes the highest address (R331). -/
def State.lapEnd (s : State) (m : Nat) : State :=
  let v := s.mem m
  (s.setF (R.lapUs m) (min 0xFFFFFFFF (s.usSince v.lapStart))).setMem m { v with scrubAt := 0, lapStart := s.ticks, overdue := false }

/-- SCRUB_VISIT (R330-R332, R334): one code word of the lap; radiation may have struck it. A memory notice that had to wait for its
1 ms (R415) leaves at the next of these visits (DESIGN CHOICE, log 137). -/
def execScrubVisit (mem : Fin 6) (upset : BitVec 152) (s : State) : Res :=
  .next (
    let m := mem.val
    let s := s.memNotice m
    if ¬ s.memOn then s
    else match s.scrubFrom m (s.mem m).scrubAt with
      | none => s.lapEnd m
      | some a =>
        let s := s.upset m a upset
        let s := if s.scrubSkips m a then s else s.scrubWord m a
        let s := s.setMem m { s.mem m with scrubAt := a + 1 }
        match s.scrubFrom m (a + 1) with
        | some _ => s
        | none => s.lapEnd m)

/-- LAP_OVERDUE (R331). -/
def execLapOverdue (mem : Fin 6) (s : State) : Res :=
  .next (
    let m := mem.val
    let v := s.mem m
    if s.memOn ∧ ¬ v.overdue ∧ s.cfgF (C.scrubLapMax m) * 160000 < s.ticks - v.lapStart then
      (s.setMem m { v with overdue := true }).memEvent m (R.lapOverdue m) 4
    else s)

/-- LEAK_PERIOD (R332): LEVEL falls, and the bucket re-arms at half the threshold. -/
def execLeakPeriod (mem : Fin 6) (s : State) : Res :=
  .next (
    let m := mem.val
    let v := s.mem m
    let period := s.cfgF (C.leakPeriod m) * 16000
    if s.memOn ∧ v.leakAt + period ≤ s.ticks then
      let s := s.setF (R.level m) (s.getF (R.level m) - 1)
      let low : Bool := s.getF (R.level m) ≤ s.cfgF (C.bucketThreshold m) / 2
      s.setMem m { v with leakAt := v.leakAt + period, armed := v.armed || low }
    else s)

/-- A triplicated word with an upset of one copy. -/
def Tri.hit (t : Tri) (copy : Fin 3) (bits : BitVec 80) : Tri :=
  if copy = 0 then { t with a := t.a ^^^ bits } else if copy = 1 then { t with b := t.b ^^^ bits } else { t with c := t.c ^^^ bits }

/-- The triplicated words after upsets. -/
def State.triUpsets (s : State) (l : List TmrUpset) : State :=
  l.foldl (fun s u =>
    { s with prot := { s.prot with tri := Tab.set {} s.prot.tri u.word ((Tab.get {} s.prot.tri u.word).hit u.copy u.bits) } }) s

/-- A disagreeing triplicated word rewritten from the majority, counted and logged. -/
def State.tmrFix (s : State) (i : Nat) : State :=
  let s := (s.setTri i (s.triWord i)).inc R.tmrFix
  ((s.logEntry 6 i 0x1F 3 s.freeOrigin 0 0).remember (macroOf 6 i 0x1F)).drawn

/-- TMR_REFRESH (R333, R475): upsets since the last walk, then the walk over every triplicated word. -/
def execTmrRefresh (upsets : List TmrUpset) (s : State) : Res :=
  .next (
    let s := s.triUpsets upsets
    let bad := s.prot.tri.filter fun e => ¬ (e.2.a = e.2.b ∧ e.2.b = e.2.c)
    (bad.foldl (fun s e => s.tmrFix e.1) s).checkRecord)

/-- RETIRE_MAP_REPAIR (R8, R326, R336): firmware reads the code word of the retirement map that describes a unit. Where it reads as poisoned
its units are withheld, until firmware rewrites it from its record; without a valid record they stay withheld until the next power-on, and
the memory notice reports the word. -/
def execRetireMapRepair (unit : RetireUnit) (s : State) : Res :=
  .next (
    let a := Config.retireWord unit.mem.val unit.bank unit.index
    let r := s.tableCw a
    if ¬ s.fwRuns ∨ s.prot.withheld.contains a then s
    else if ¬ r.1 then r.2
    else if ¬ s.fw.noRecord.contains a then r.2.tableWrite [a]
    else
      let s := { r.2 with prot := { r.2.prot with withheld := a :: r.2.prot.withheld } }
      (s.setMem 5 { s.mem 5 with noticeCauses := (s.mem 5).noticeCauses ||| 2 }).memNotice 5)

end Sys2Proof.Machine
end

