-- ==== Sys2Proof/Machine/Stage.lean ====
section
/-! DEFINITION. The write stage: the Channel Directory applied to the hit words of a fragment (R216-R224, R229), Ocnis Pack
compression of a body (R39, R234, R243-R246, R255), and what both change in the headers and trailers around (R163). -/

namespace Sys2Proof.Machine

/-! ## The directory -/

/-- The node's directory covers a NODE_SLOT; a leaf's covers none (R37, R216). -/
def State.covers (s : State) (slot : Nat) : Bool :=
  s.merging && decide (s.cfgF C.dirSlotBase ≤ slot) && decide (slot < s.cfgF C.dirSlotBase + s.cfgF C.dirSlotCount)

/-- The bank that corrects a fragment of frame `f` (R229): bank B where true. -/
def State.dirBank (s : State) (f : BitVec 32) : Bool :=
  let active : Bool := s.getF R.dirActive = 1
  if s.getF R.swapPending = 1 ∧ (f - BitVec.ofNat 32 (s.getF R.swapFrame)).toNat < 2 ^ 31 then !active else active

/-- The code word of MEM 1 that holds entry `i` of a bank (R218, R321). -/
def dirAddr (bankB : Bool) (i : Nat) : Nat := boolNat bankB * 1048576 + i / 2

/-- An entry looked up, none where it reads as poisoned. -/
def State.dirEntry (s : State) (bankB : Bool) (i : Nat) : Option Word × State :=
  let r := s.readCw 1 (dirAddr bankB i)
  (r.1.map fun d => BitVec.ofNat 64 (d.toNat / 2 ^ (64 * (i % 2))), r.2)

/-- The effect of an entry on a hit word it applies to (R221). -/
def applyEntry (e w : Word) : Word :=
  let t : Int := (wget w 20 16 * 8192 + wget w 36 13 : Nat) + signed 24 (wget e 0 24)
  let v := (t % (2 ^ 29 : Nat)).toNat
  let w1 := wset (wset w 36 13 (v % 8192)) 20 16 (v / 8192)
  let q := wget w 8 12
  let w2 :=
    if wget e 46 1 = 1 ∧ wget w 0 1 = 0 ∧ q ≠ 4095 then
      let c := (((q : Int) - wget e 36 10) * wget e 24 12 + 1024) / 2048
      wset w1 8 12 (min 4095 (max 0 c)).toNat
    else w1
  wset w2 1 1 1

/-- A hit word under the directory (R221, R224), none where it is dropped. -/
def State.correctHit (s : State) (bankB : Bool) (slot : Nat) (w : Word) : Option Word × State :=
  if wget w 1 1 = 1 then (some w, s)
  else
    let r := s.dirEntry bankB ((slot - s.cfgF C.dirSlotBase) * 2048 + wget w 49 11)
    match r.1 with
    | none => (some (wset w 0 1 1), r.2.inc R.dirPoison)
    | some e =>
      if wget e 63 1 = 0 then (some w, r.2)
      else if wget e 62 1 = 1 then (none, r.2.inc R.dirDead)
      else if wget e 58 4 < s.cfgF C.dirQualMin then (none, r.2.inc R.dirQual)
      else (some (applyEntry e w), r.2)

/-- What correction makes of body words: the words, whether some of them was a hit word, and whether one that passes carries
POISON. -/
structure Corrected where
  words : List PWord := []
  hits : Bool := false
  poison : Bool := false
  deriving DecidableEq, Repr

/-- A hit word that a node below left uncorrected since its entry read as poisoned (R224). -/
def leftOver (p : PWord) : Bool := !p.poison && wget p.w 60 4 = 1 && wget p.w 1 1 = 0 && wget p.w 0 1 = 1

/-- Body words under the directory; a word that is poisoned or no hit word passes (R156, R168). `again`: only the hits that a node below left
uncorrected are looked up (R224). -/
def State.correctWords (s : State) (again bankB : Bool) (slot : Nat) : List PWord → Corrected × State
  | [] => ({}, s)
  | p :: l =>
    if p.poison ∨ wget p.w 60 4 ≠ 1 ∨ (again ∧ ¬ leftOver p) then
      let r := State.correctWords s again bankB slot l
      ({ r.1 with words := p :: r.1.words, poison := r.1.poison || p.poison }, r.2)
    else
      let c := s.correctHit bankB slot p.w
      let r := State.correctWords c.2 again bankB slot l
      match c.1 with
      | some w => (⟨pw w :: r.1.words, true, r.1.poison || wget w 0 1 = 1⟩, r.2)
      | none => ({ r.1 with hits := true }, r.2)

/-! ## Compression -/

/-- A body compressed (R169, R254), with the counts of R255. Whether the verification of a block finds a fault of the pair is a free bit (R246). -/
def State.compress (s : State) (body : List PWord) : List PWord × State :=
  let r := packBody (fun k => (Config.freeValue (s.free + k)).getLsbD 0) body
  let raw := s.pool.rawRem + 8 * body.length
  let out := s.pool.outRem + r.bytes
  let s := ((s.skip ((body.length + 8191) / 8192)).incWrap R.storedCnt r.stored).incBy R.verifyFailCnt r.fails
  let s := (List.range r.fails).foldl (fun s _ => s.setFlag R.verifyFail) s
  let s := { s with pool := { s.pool with rawRem := raw % 1024, outRem := out % 1024 } }
  (r.words, (s.incWrap R.rawKib (raw / 1024)).incWrap R.outKib (out / 1024))

/-- A fragment's new words under its changed header, compressed where `may` and R234 allow. -/
def State.finishFragment (s : State) (h : Head) (body : List PWord) (may : Bool) : List PWord × State :=
  if may ∧ s.cfgF C.compEn = 1 ∧ body ≠ [] then
    let c := s.compress body
    (sealFragment { h with comp := 1, bodyWords := c.1.length } c.1, c.2)
  else (sealFragment { h with bodyWords := body.length } body, s)

/-! ## Fragments that pass -/

/-- What the write stage makes of a fragment: its words, the bank used, whether it changed, and POISON of its header. -/
structure Treated where
  words : List PWord
  bank : Option Bool := none
  changed : Bool := false
  poison : Bool := false
  deriving DecidableEq, Repr

/-- The header of a fragment whose word 0 reads intact; words 1 and 2 that are poisoned show as marks. -/
def readHead (ws : List PWord) : Option Head :=
  if (ws.headD ⟨0, true⟩).poison then none
  else match parseHead ((ws.take 3).map (·.w)) with
    | none => none
    | some h =>
      if ws.length ≤ headWords h.key then none
      else some { h with slotPoison := (ws.getD 1 ⟨0, true⟩).poison,
                         trigPoison := keyIsEvent h.key && (ws.getD 2 ⟨0, true⟩).poison }

/-- The frame that chooses the bank of a fragment (R229). -/
def Head.bankFrame (h : Head) : BitVec 32 :=
  match h.key with
  | .frame f => f
  | .event .. => BitVec.ofNat 32 (h.trigTime / 2 ^ 29)

/-- The bodies of frames and START events hold hit words (R157). -/
def keyHasHits : MergeKey → Bool
  | .frame _ => true
  | .event ns _ => ns = 0

/-- An origin fragment at the write stage (R39, R220-R222, R234). One that a node below has treated and that comes raw has the hits of
poisoned entries looked up again (R224; assumption 130). -/
def State.treatOrigin (s : State) (h : Head) (ws : List PWord) : Treated × State :=
  let body := (ws.drop (headWords h.key)).dropLast
  if h.comp = 0 ∧ s.covers h.slot ∧ keyHasHits h.key ∧ (h.corr = 0 ∨ body.any leftOver) then
    let bank := s.dirBank h.bankFrame
    let r := s.correctWords (h.corr = 1) bank h.slot body
    if r.1.hits then
      let poison : Bool := h.poison = 1 || r.1.poison
      let t := r.2.finishFragment { h with corr := 1, bank := boolNat bank, poison := boolNat poison } r.1.words true
      (⟨t.1, some bank, true, poison⟩, t.2)
    else (⟨ws, none, false, h.poison = 1⟩, r.2)
  else (⟨ws, none, false, h.poison = 1⟩, s)

/-- Fragments that lie one behind the other, found by their own headers (R159) as far as these read intact and treated one by one: their
NODE_IDs and what becomes of them, and the words that are left. The first argument bounds them. -/
def treatLoose (f : State → List PWord → Treated × State) : Nat → List PWord → State →
    (List (Nat × Treated) × List PWord) × State
  | 0, rest, s => (([], rest), s)
  | k + 1, rest, s =>
    match readHead rest with
    | none => (([], rest), s)
    | some h =>
      let n := headWords h.key + h.bodyWords + 1
      if h.slotPoison ∨ rest.length < n then (([], rest), s)
      else
        let c := f s (rest.take n)
        let r := treatLoose f k (rest.drop n) c.2
        (((h.nodeId, c.1) :: r.1.1, r.1.2), r.2)

/-- A child-table entry behind the fragment of its NODE_ID. -/
def fixEntry (found : List (Nat × Treated)) (e : PWord) : PWord :=
  if e.poison ∨ wget e.w 49 3 ≠ 0 then e
  else match found.find? fun x => x.1 = wget e.w 52 12 ∧ x.2.changed with
    | some x => pw (wset e.w 25 24 x.2.words.length)
    | none => e

/-- The child fragments of a merged fragment treated one by one along its table; behind a poisoned entry their own headers lead (R220;
assumption 156). The answer holds the new table and the children's words. -/
def treatChildren (f : State → List PWord → Treated × State) : List PWord → List PWord → State →
    (List PWord × Treated) × State
  | [], rest, s => (([], { words := rest }), s)
  | e :: table, rest, s =>
    if e.poison then
      let r := treatLoose f (table.length + 1) rest s
      let l := r.1.1.map Prod.snd
      ((e :: table.map (fixEntry r.1.1), { words := l.flatMap (·.words) ++ r.1.2, bank := l.findSome? (·.bank),
                                           changed := l.any (·.changed), poison := l.any (·.poison) }), r.2)
    else if wget e.w 49 3 ≠ 0 then
      let r := treatChildren f table rest s
      ((e :: r.1.1, r.1.2), r.2)
    else
      let n := wget e.w 25 24
      let c := f s (rest.take n)
      let r := treatChildren f table (rest.drop n) c.2
      let e' : PWord := if c.1.changed then pw (wset e.w 25 24 c.1.words.length) else e
      ((e' :: r.1.1, { words := c.1.words ++ r.1.2.words, bank := if c.1.bank.isSome then c.1.bank else r.1.2.bank,
                       changed := c.1.changed || r.1.2.changed, poison := c.1.poison || r.1.2.poison }), r.2)

/-- A fragment at the write stage, its nested fragments through the child tables (R220, R222). An origin fragment whose header holds a
poisoned word passes, and so does a merged one whose child table cannot be found: word 1 gives its length (assumption 156). The first
argument bounds the nesting. -/
def State.treat : Nat → State → List PWord → Treated × State
  | 0, s, ws => (⟨ws, none, false, false⟩, s)
  | n + 1, s, ws =>
    match readHead ws with
    | none => (⟨ws, none, false, true⟩, s)
    | some h =>
      if h.slotPoison ∨ (h.kind = 0 ∧ h.trigPoison) then (⟨ws, none, false, true⟩, s)
      else if h.kind = 0 then s.treatOrigin h ws
      else
        let rest := (ws.drop (headWords h.key)).dropLast
        let r := treatChildren (State.treat n) (rest.take h.entries) (rest.drop h.entries) s
        let poison : Bool := h.poison = 1 || h.trigPoison || (r.1.2.changed && r.1.2.poison)
        if ¬ r.1.2.changed then (⟨ws, none, false, poison⟩, r.2)
        else
          let body := r.1.1 ++ r.1.2.words
          (⟨sealFragment { h with bodyWords := body.length, poison := boolNat poison } body, r.1.2.bank, true, poison⟩, r.2)

end Sys2Proof.Machine
end

