-- ==== Sys2Proof/Machine/PoolOps.lean ====
section
/-! DEFINITION. Operations of the pool and the merge: what stands in the pool (R178, R185), merge contexts (R196-R203),
origin fragments (R193-R195, R530), items that arrive on ports (R190, R191, R197-R202, R531), the standby's retention (R297)
and the readers of OUTPUT (R204-R207). -/

namespace Sys2Proof.Machine

/-! ## The pool's words -/

/-- The data of a code word without the effects of a read, none where it is poisoned: what decides on a ring or a signature looks at it so
(assumption 166). -/
def State.peekCw (s : State) (m a : Nat) : Option (BitVec 128) :=
  let c := s.raw m a
  match classify c with
  | .clean => some (cwData c)
  | .ce j v => some (cwData (flipSymbol c j v))
  | _ => none

/-- The item words of a slot, as they stand. -/
def State.peekSlot (s : State) (n : Nat) : List PWord :=
  match s.peekCw 0 (n * 16) with
  | none => []
  | some h =>
    let used := nget h.toNat 32 5
    ((List.range ((used + 1) / 2)).flatMap fun i => halves (s.peekCw 0 (n * 16 + 1 + i))).take used

/-- The words of a chain, as they stand. -/
def State.peekSlots (s : State) (l : List Nat) : List PWord := l.flatMap s.peekSlot

/-- The NEXT field of a slot header rewritten (R203); a poisoned header stays. -/
def State.setNext (s : State) (n next : Nat) : State :=
  match s.peekCw 0 (n * 16) with
  | some d => s.setRaw 0 (n * 16) (encodeCw (BitVec.ofNat 128 (nset d.toNat 0 18 next)))
  | none => s

/-- The last slots of a list of chains joined to the next chain. -/
def State.joinChains (s : State) : List (List Nat) → State
  | a :: b :: l => (s.setNext (a.getLast?.getD 0) (b.headD 0x3FFFF)).joinChains (b :: l)
  | _ => s

/-! ## Delivery -/

/-- The slots `l` leave an item: the pair port's views of it keep those of their fragments until they are sent (R206). -/
def State.viewsKeep (s : State) (id : Nat) (l : List Nat) : State :=
  s.setItems (s.pool.items.map fun v =>
    if v.holder = some id then { v with slots := v.slots ++ l.filter v.view.contains } else v)

/-- An item leaves OUTPUT, delivered to every reader that it is owed to (R182), its pointers compared (R185). The pair port gives up an
own-cell fragment in it that it has not begun; of one that it has begun the slots stay held until it is sent (R206). -/
def State.releaseItem (s : State) (id : Nat) : State :=
  let s := s.checkQueue 0
  match s.item id with
  | none => s
  | some i =>
    let idle := (s.pool.items.filter fun v => v.holder = some id && decide (v.begun = [])).map (·.id)
    let s := s.viewsKeep id i.slots
    let s := s.setItems ((s.pool.items.filter fun v => !idle.contains v.id).map fun v =>
      if v.holder = some id then { v with holder := none } else v)
    (((s.unchoose idle).incBy R.pSkipped idle.length).freeItem id).throttleUpdate

/-- The pair port has finished an own-cell fragment, and the slots that only it held are free (R206). -/
def State.releaseView (s : State) (v : Item) : State := (s.freeItem v.id).throttleUpdate

/-- The trained north ports. -/
def State.northReaders (s : State) : List Reader :=
  (if s.portUp 16 then [Reader.n0] else []) ++ (if s.portUp 17 then [Reader.n1] else [])

/-- A reader has no more claim on an item: its link has had the whole of it acknowledged, or it trained only after slots of
it were free. -/
def Item.doneBy (i : Item) (r : Reader) : Bool := i.done.contains r || (i.part && !i.begun.contains r)

/-- Item words that stand in a slot. -/
def State.slotWords (s : State) (n : Nat) : Nat :=
  match s.peekCw 0 (n * 16) with
  | some h => nget h.toNat 32 5
  | none => 30

/-- The slots of a chain that hold words beyond the first `n`. -/
def State.dropAcked (s : State) : Nat → List Nat → List Nat
  | _, [] => []
  | n, k :: l => if s.slotWords k ≤ n ∧ 0 < n then s.dropAcked (n - s.slotWords k) l else k :: l

/-- The slots of an item whose last word every trained north port has had acknowledged are free (R205), but for those that the pair port has
still to read (R206); an item is freed with its last slot. -/
def State.freeAcked (s : State) (need : List Reader) (i : Item) : State :=
  if need.all i.doneBy then s.releaseItem i.id
  else if i.begun = [] then s
  else
    let w := need.foldl (fun a r => min a (if i.doneBy r then i.length else Tab.get 0 i.acked (readerKey r))) i.length
    let rest := s.dropAcked (w - i.freed) i.slots
    if rest.length = i.slots.length ∨ rest = [] then s
    else
      let gone := i.slots.take (i.slots.length - rest.length)
      let words := (gone.map s.slotWords).sum
      ((s.viewsKeep i.id gone).modItem i.id fun x => { x with slots := rest, part := true, freed := i.freed + words }).throttleUpdate

/-- Items and slots that every trained north port has had acknowledged are freed (R205). -/
def State.freeDelivered (s : State) : State :=
  let need := s.northReaders
  if need.isEmpty then s
  else
    let out := s.pool.items.filter fun i => i.queue = 0 && i.complete && i.holder.isNone && !i.hidden && !i.retained
    out.foldl (fun s i => s.freeAcked need i) s

/-- Slots held by the items that one north port has begun and the other has not (R205). -/
def State.lagItems (s : State) (lead trail : Reader) : List Item :=
  s.pool.items.filter fun i => i.queue = 0 && i.begun.contains lead && !i.begun.contains trail

/-- The trailing port skips whole items, oldest first, until the distance is within NORTH_LAG; one that it had chosen is withdrawn. The first
argument bounds the items. -/
def State.skipLag : Nat → State → Reader → Reader → Bool → State
  | 0, s, _, _, _ => s
  | n + 1, s, lead, trail, n1 =>
    let l := s.lagItems lead trail
    if (l.map fun i => i.slots.length).sum ≤ s.cfgF C.northLag then s
    else
      let first := l.foldl (fun (b : Option Item) i => match b with
        | none => some i | some j => if i.age < j.age then some i else some j) none
      match first with
      | none => s
      | some i =>
        let s := s.modItem i.id fun x => { x with begun := trail :: x.begun, done := trail :: x.done }
        let s := if (Tab.get {} s.pool.readers (readerKey trail)).item = some i.id then
            { s with pool := { s.pool with readers := Tab.set {} s.pool.readers (readerKey trail) {} } } else s
        State.skipLag n (s.inc (R.northSkipped n1)) lead trail n1

/-- NORTH_LAG applied to both north ports while both are trained. -/
def State.northLag (s : State) : State :=
  if s.portUp 16 ∧ s.portUp 17 then
    (State.skipLag (State.skipLag s.pool.items.length s .n0 .n1 true).pool.items.length
      (State.skipLag s.pool.items.length s .n0 .n1 true) .n1 .n0 false).freeDelivered
  else s

/-! ## The standby's retention (R297) -/

/-- `f` is an older frame than `g`. -/
def olderFrame (f g : BitVec 32) : Bool := f ≠ g && decide ((g - f).toNat < 2 ^ 31)

/-- The merged frame fragments that are retained, newest first. -/
def State.retainedFrames (s : State) : List (Nat × Item) :=
  let l := (s.pool.items.filter fun i => i.retained && !i.hidden && decide (i.cls = .streaming)).map fun i => (i.age, i)
  (l.mergeSort fun a b => b.1 ≤ a.1)

/-- The oldest of the 16 frames closed last that belongs to a run. -/
def State.oldestClosed (s : State) (run : Nat) : Option (BitVec 32) :=
  ((s.pool.closedFrames.filter fun e => e.1 = run).getLast?).map Prod.snd

/-- What is retained beyond the 16 frames closed last is freed: other frames, and events older than the oldest of those in their run. An
event of a run of which no frame is among the 16 is older than them, but for one of the present run. -/
def State.trimRetained (s : State) : State :=
  if s.pool.closedFrames = [] then s
  else
    let gone := s.pool.items.filter fun i => i.retained && !i.hidden &&
      if i.cls = .streaming then !s.pool.closedFrames.contains (i.run, BitVec.ofNat 32 i.trigFrame)
      else decide (i.cls = .triggered) && match s.oldestClosed i.run with
        | some oldest => olderFrame (BitVec.ofNat 32 i.trigFrame) oldest
        | none => i.run ≠ s.time.starts
    gone.foldl (fun s i => s.releaseItem i.id) s

/-! ## Merged fragments -/

/-- NODE_ID of a merged header: member A's in a pair (R165). -/
def State.mergedId (s : State) : Nat :=
  if s.paired ∧ s.pairPos = 1 then s.node.partnerId.toNat else s.node.nodeId.toNat

/-- A row of a merge: the child's NODE_ID, its STATUS and its fragment if PRESENT. -/
structure Row where
  node : Nat
  status : Nat
  item : Option Item
  deriving DecidableEq, Repr

/-- The header of a merged fragment (R161, R166, R203). A TRIG_TIME that reads as poisoned has no part in the minimum (R160;
assumption 131). -/
def State.mergedHead (s : State) (key : MergeKey) (late : Bool) (rows : List Row) : Head :=
  let items := rows.filterMap (·.item)
  let bank := (items.filterMap (·.bank)).head?
  let own : Bool := match key with
    | .frame f => s.anyHoldover (frameTick f) (frameTick f + 65535)
    | .event .. => false
  let wrap : Bool := match key with | .frame f => f = 0 && s.time.wrapped | .event .. => false
  let lost := (rows.filter fun r => r.status = 2).length
  { key := key, nodeId := s.mergedId, kind := 1, corr := boolNat bank.isSome, bank := boolNat (bank.getD false),
    wrap := boolNat wrap, holdover := boolNat (own || items.any (·.hold)),
    degraded := boolNat (s.degraded || items.any (·.degr)), incomplete := boolNat (lost ≠ 0),
    missing := boolNat (rows.any fun r => r.status = 1), late := boolNat late, poison := boolNat (items.any (·.pois)),
    bodyWords := rows.length + (items.map (·.length)).sum, lostItems := lost, entries := rows.length,
    level := s.node.level.toNat % 8, trigTime := ((items.filterMap fun i => i.trigTime.map BitVec.toNat).min?).getD 0 }

/-- The trailer CRC of a merged fragment that stands in a chain of slots (R162, R310). -/
def State.chainCrc (s : State) (l : List Nat) : W32 := crcWords ((s.peekSlots l).map (·.w))

/-- A merged fragment's header item written into slot `slot`, and the whole chain spliced into OUTPUT (R201, R203). A standby
retains it, and frees a LATE wrapper. The header item's slot names no queue that took it: its QUEUE reads 0 (assumption 160). -/
def State.spliceMerged (s : State) (key : MergeKey) (late : Bool) (rows : List Row) (slot : Nat) : State :=
  let h := s.mergedHead key late rows
  let table := rows.map fun r => childEntry r.node r.status (match r.item with | some i => i.length | none => 0)
  let words := (h.words ++ table).map pw
  let items := rows.filterMap (·.item)
  let chains := [slot] :: items.map (·.slots)
  let ids := items.map (·.id)
  let id := s.pool.nextItem
  let cls : Cls := if late then .monitoring else if keyIsEvent key then .triggered else .streaming
  let merged : Item :=
    { id := id, queue := 0, cls := cls, slots := chains.flatten, homes := 0 :: items.flatMap (·.homes), length := words.length + (items.map (·.length)).sum + 1,
      gen := true, complete := true, age := s.pool.nextAge, key := some key,
      trigFrame := (match key with | .frame f => f.toNat | .event .. => h.trigTime / 2 ^ 29),
      retained := !s.isActive, run := s.time.starts }
  let s := (s.writePool cls.code merged.length [(slot, 0)] words).joinChains chains
  let rest : List Item := (s.pool.items.filter fun i => !ids.contains i.id).map fun i =>
    match i.holder with
    | some x => if ids.contains x then { i with holder := some id } else i
    | none => i
  let s := { s with pool := { s.pool with items := rest ++ [merged], nextItem := id + 1, nextAge := s.pool.nextAge + 1 } }
  let s : State := if late = true ∧ s.isActive = false then s.releaseItem id else s.trimRetained
  let s :=
    if s.paired ∧ ¬ late then
      let f := BitVec.ofNat 32 merged.trigFrame
      let crc := s.chainCrc merged.slots
      let had : Bool := s.pair.sigOpen.any fun e => e.1 = f
      let sigs : List (BitVec 32 × BitVec 32) :=
        if had then s.pair.sigOpen.map fun e => if e.1 = f then (f, e.2 ^^^ crc) else e else s.pair.sigOpen ++ [(f, crc)]
      { s with pair := { s.pair with sigOpen := sigs } }
    else s
  s.throttleUpdate

/-- A fragment wrapped alone in a merged fragment, once a slot is free (R166, R185, R196, R201): it enters OUTPUT, whose pointers are
compared; it is lost where that resets its queue. -/
def State.wrap (s : State) (node : Nat) (late : Bool) (i : Item) : Option State :=
  let s := s.checkQueue 0
  match i.key, s.item i.id with
  | some k, some i =>
    match s.allocSlot with
    | some (slot, s) => some (s.spliceMerged k late [⟨node, 0, some i⟩] slot)
    | none => none
  | _, _ => some s

/-! ## Contexts -/

/-- The entries that a merge expects, in ascending NODE_ID (R165). -/
def State.expected (s : State) : List Entry :=
  let south : List Entry := (List.range 16).filterMap fun p =>
    match s.childNode p with
    | none => none
    | some id => if (s.pairMate p).isSome && s.memberPos p = 1 then none else some { node := id, child := .south p }
  let own : List Entry := if s.slotValid ∧ s.role ≠ 3 then [{ node := s.node.nodeId, child := .own }] else []
  let partner : List Entry := if s.paired then [{ node := s.node.partnerId, child := .partner }] else []
  (south ++ own ++ partner).mergeSort fun a b => a.node.toNat ≤ b.node.toNat

def State.ctx (s : State) (k : MergeKey) : Option Ctx := s.pool.ctxs.find? fun c => c.key = k
def State.modCtx (s : State) (k : MergeKey) (f : Ctx → Ctx) : State :=
  { s with pool := { s.pool with ctxs := s.pool.ctxs.map fun c => if c.key = k then f c else c } }

/-- An entry takes what arrives on port `p`. -/
def State.entryIs (s : State) (p : Nat) (e : Entry) : Bool :=
  match e.child with
  | .south q => p = q || s.pairMate q = some p
  | .partner => p = 18
  | .own => false

/-- The entries of a context changed by `f` where `g` selects them. -/
def Ctx.modEntries (c : Ctx) (g : Entry → Bool) (f : Entry → Entry) : Ctx :=
  { c with entries := c.entries.map fun e => if g e then f e else e }

def entryDone (e : Entry) : Bool := e.st = .present || e.st = .lost || e.st = .missing

/-- The deadline of a context that opens now (R198). -/
def State.deadline (s : State) (k : MergeKey) : BitVec 48 :=
  match k with
  | .frame f => frameTick (f + 1) + BitVec.ofNat 48 (s.cfgF C.guard + s.cfgF C.cto)
  | .event .. => s.time.coarse + BitVec.ofNat 48 (s.cfgF C.cto)

/-- A fragment is late (R200). -/
def State.isLate (s : State) (k : MergeKey) : Bool :=
  match k with
  | .frame f => (match s.pool.lastClosed with | some l => decide ((l - f).toNat < 2 ^ 31) | none => false)
  | .event .. => s.pool.closedEvents.any fun e => e.1 = k

/-- NSRC is merged (R196). -/
def State.merges (s : State) (k : MergeKey) : Bool :=
  match k with
  | .frame _ => true
  | .event ns _ => s.cfgF C.evtMergeMask / 2 ^ ns.toNat % 2 = 1

/-- A context's entries that are not done become MISSING, fragments in progress move to LATE (R199), and it awaits its
header item. -/
def State.closeNow (s : State) (k : MergeKey) : State :=
  match s.ctx k with
  | none => s
  | some c =>
    let open' := c.entries.filter fun e => !entryDone e
    let ids := open'.filterMap (·.item)
    let s := open'.foldl (fun s e => match e.child with
      | .south p => s.inc (R.childMissing (s.grantedPort p))
      | _ => s) s
    let s := s.setItems (s.pool.items.map fun i => if ids.contains i.id then { i with queue := 1 } else i)
    let asms : Tab Asm := s.pool.asms.map fun e => (e.1, match e.2.item with
      | some i => if ids.contains i then { e.2 with late := true } else e.2
      | none => e.2)
    ({ s with pool := { s.pool with asms := asms } }).modCtx k fun c =>
      { c.modEntries (fun e => !entryDone e) (fun e => { e with st := .missing, item := none }) with closing := true }

/-- A context may write its header item: it is closing or complete, and no earlier frame's context is open (R198). -/
def State.closable (s : State) (c : Ctx) : Bool :=
  (c.closing || c.entries.all entryDone) && (match c.key with
    | .frame f => s.pool.ctxs.all fun d => (match d.key with | .frame g => !olderFrame g f | .event .. => true)
    | .event .. => true)

/-- The slot headers read whose NEXT a splice rewrites, those of the last slots of all chains but the last (R203): whether each reads
intact. -/
def State.spliceReads (s : State) : List (List Nat) → Bool × State
  | a :: b :: l =>
    let r := s.readCw 0 (a.getLast?.getD 0 * 16)
    let t := State.spliceReads r.2 (b :: l)
    (r.1.isSome && t.1, t.2)
  | _ => (true, s)

/-- The chain of a context's PRESENT fragments enters OUTPUT behind its header item in slot `slot` (R199, R200, R203). -/
def State.spliceCtx (s : State) (c : Ctx) (slot : Nat) : State :=
    let status (e : Entry) : Nat := match e.st with | .present => 0 | .lost => 2 | _ => 1
    let rows : List Row := c.entries.map fun e =>
      ⟨e.node.toNat, status e, if e.st = .present then e.item.bind s.item else none⟩
    let s := { s with pool := { s.pool with ctxs := s.pool.ctxs.filter fun d => d.key ≠ c.key } }
    let s := match c.key with
      | .frame f => { s with pool := { s.pool with closedFrames := ((s.time.starts, f) :: s.pool.closedFrames).take 16 } }
      | .event .. => s
    let s := s.spliceMerged c.key false rows slot
    match c.key with
    | .frame f =>
      let last : BitVec 32 := match s.pool.lastClosed with
        | some l => if olderFrame f l then l else f
        | none => f
      { s with pool := { s.pool with lastClosed := some last } }
    | .event .. =>
      let present := (c.entries.filter fun e => e.st = .present).map (·.node)
      { s with pool := { s.pool with closedEvents := ((c.key, present) :: s.pool.closedEvents).take 4096 } }

/-- A context closes where it may (R185, R198, R203): the pointers of its lists and of OUTPUT are compared, and a slot header that reads as
poisoned resets its queue. It stays open where no slot is free for its header item, or its queue has been reset, and while partition 0 is
under test (R481). -/
def State.closeCtx (s : State) (k : MergeKey) : State :=
  match s.ctx k with
  | none => s
  | some c =>
    if ¬ s.closable c ∨ s.transfersWait then s
    else
      let s := ((s.checkQueue (32 + c.index)).checkQueue 0).readMap
      match s.ctx k with
      | none => s
      | some c =>
        match s.allocSlot with
        | none => s
        | some (slot, t) =>
          let r := t.spliceReads (c.entries.filterMap fun e => if e.st = .present then (e.item.bind s.item).map (·.slots) else none)
          if r.1 then r.2.spliceCtx c slot else r.2.resetQueue (32 + c.index) 1

/-- The oldest open context is forced to close where MERGE_OPEN_MAX are open (R202); one that is closing already is not counted
again (assumption 132). -/
def State.forceOldest (s : State) : State :=
  if s.pool.ctxs.length < s.cfgF C.mergeOpenMax then s
  else
    match s.pool.ctxs with
    | [] => s
    | c :: _ => (if c.closing then s else (s.closeNow c.key).inc R.mergeForced).closeCtx c.key

/-- The context of a key, opened where it is not (R196, R202), and whether it is open: no more than MERGE_OPEN_MAX are. The own entry
already says what is known of the own fragment (R530), whose slots move into the context (R193). -/
def State.openCtx (s : State) (k : MergeKey) : Bool × State :=
  if (s.ctx k).isSome then (true, s)
  else
    let s := s.forceOldest
    if s.cfgF C.mergeOpenMax ≤ s.pool.ctxs.length then (false, s)
    else
      let used := s.pool.ctxs.map (·.index)
      let index := ((List.range 1024).find? fun i => !used.contains i).getD 1024
      let own : Option Frag := s.frag k
      let entries := s.expected.map fun e =>
        match e.child, own with
        | .own, some g => if g.dropped then { e with st := EntryState.lost } else
            if g.item.isSome then { e with st := .storing, item := g.item } else e
        | .own, none => if s.pool.ownLost.contains k then { e with st := EntryState.lost } else e
        | _, _ => e
      let s := match own.bind (·.item) with
        | some id => s.modItem id fun i => { i with queue := 32 + index }
        | none => s
      let c : Ctx := { key := k, index := index, deadline := s.deadline k, entries := entries, seq := s.pool.nextCtx }
      (true, { s with pool := { s.pool with ctxs := s.pool.ctxs ++ [c], nextCtx := s.pool.nextCtx + 1 } })

/-! ## Items under construction -/

/-- An item that cannot grow is dropped (R190): its slots are free, its entry LOST, the loss counted. -/
def State.dropItem (s : State) (id : Nat) : State :=
  match s.item id with
  | some i => s.loseItem i
  | none => s

/-- An item grown until it holds `n` slots (R188-R190, R312): where its queue cannot grow, the pointers are compared before an overwrite
(R185). The first argument bounds the slots taken. -/
def State.grow : Nat → State → Nat → Nat → Grow × State
  | 0, s, _, _ => (.done, s)
  | fuel + 1, s, id, n =>
    match s.item id with
    | none => (.full, s)
    | some i =>
      if n ≤ i.slots.length then (.done, s)
      else
        let s := if s.canGrow i.queue then s else s.checkQueue i.queue
        match State.growItem 1 s id (i.slots.length + 1) with
        | (.done, s) => State.grow fuel s id n
        | r => r

/-- The pair port's view of a complete own-cell fragment (R41, R206). -/
def State.addView (s : State) (i : Item) : State :=
  if ¬ s.paired then s
  else
    let v : Item := { id := s.pool.nextItem, queue := noQueue, cls := i.cls, slots := [], length := i.length, complete := true,
                      age := i.age, key := i.key, view := i.slots, holder := some i.id }
    { s with pool := { s.pool with items := s.pool.items ++ [v], nextItem := s.pool.nextItem + 1 } }

/-- A fragment's words take their final form in the pool; what its header says is kept as far as it reads intact, and whether a word of it
is poisoned (R159-R161). A poisoned TRIG_TIME is none, and has no part in the minimum of a merged header (R160; assumption 131). -/
def State.completeFragment (s : State) (id : Nat) (key : MergeKey) (bank : Option Bool) : State :=
  match s.item id with
  | none => s
  | some i =>
    let w0 := i.words.headD ⟨0, true⟩
    let w2 := i.words.getD 2 ⟨0, true⟩
    let d := if keyIsEvent key then 1 else 0
    let flag (n : Nat) : Bool := !w0.poison && wget w0.w (n - d) 1 = 1
    (s.completeItem id).modItem id fun x =>
      { x with key := some key, bank := bank, hold := flag 10, degr := flag 9, pois := flag 5 || i.words.any (·.poison),
               trigTime := if w2.poison then none else some (BitVec.ofNat 61 (wget w2.w 0 61)) }

/-- A complete fragment goes where its merge wants it: into its entry, wrapped from LATE, or wrapped unmerged. None where
it must wait for a wrapper's slot. `mine` selects the entry and `node` names the child. -/
def State.placeFragment (s : State) (id : Nat) (key : MergeKey) (late : Bool) (mine : Entry → Bool) (node : Nat) :
    Option State :=
  match s.item id with
  | none => some s
  | some i =>
    if late then s.wrap node true i
    else if ¬ s.merges key then s.wrap node false i
    else
      match s.ctx key with
      | none => some s
      | some c =>
        let s := s.modItem id fun i => { i with queue := 32 + c.index, hidden := false }
        some (s.modCtx key fun c => c.modEntries mine fun e => { e with st := .present, item := some id, lostByLink := false })

/-! ## Origin fragments -/

/-- The queue in which a node's own fragment is written (R193, R199, R200): at a merging node LATE where it is late, its context where one is
open; else OUTPUT. -/
def State.ownQueue (s : State) (k : MergeKey) : Nat :=
  if ¬ s.merging ∨ ¬ s.merges k then 0
  else if s.isLate k then 1
  else match s.ctx k with
    | some c => if c.closing then 1 else 32 + c.index
    | none => 0

/-- A loss of the node's own fragments (R195, R530). -/
def State.ownLoss (s : State) : State := if s.merging then s.incWrap R.mergeLost 1 else s.incWrap (R.queueLost 0) 1

/-- Placeholders of header words, which stand in the first slot until the fragment closes (R530): the spec gives them no value. -/
def State.placeholders (s : State) (k : MergeKey) : List PWord :=
  (List.range (headWords k)).map fun i => pw (BitVec.ofNat 64 (s.nth i))

/-- An own fragment opens: it takes its first slot and writes placeholders there, or is dropped whole (R530). False where it must wait for
the slot (R312) or for the end of a test (R481). -/
def State.openFrag (s : State) (k : MergeKey) : Bool × State :=
  match s.frag k with
  | none => (true, s)
  | some g =>
    if g.opened then (true, s)
    else if s.transfersWait then (false, s)
    else
      let q := s.ownQueue k
      let cls : Cls := if keyIsEvent k then .triggered else .streaming
      let s := if s.canGrow q then s else s.checkQueue q
      let id := s.pool.nextItem
      match State.growItem 2 ((s.newItem q cls).modItem id fun i => { i with key := some k }) id 1 with
      | (.done, s) =>
        let s := match s.item id with
          | some i => (s.writeSlots i (s.placeholders k) 0).skip (headWords k)
          | none => s
        let s := s.modFrag k fun g => { g with opened := true, item := some id }
        (true, (s.modCtx k fun c => if c.closing then c else
          c.modEntries (fun e => e.child = .own && e.st = .waiting) fun e => { e with st := .storing, item := some id }).throttleUpdate)
      | (.full, s) =>
        let s := ((s.freeItem id).modFrag k fun g => { g with opened := true, dropped := true }).ownLoss
        (true, s.modCtx k fun c => c.modEntries (fun e => e.child = .own) fun e => { e with st := .lost, item := none })
      | (.waits, t) => (false, t.freeItem id)

/-- A frame lies in the run: from the frame of the load to the frame of the ACQ_STOP boundary (R158, R196). -/
def State.frameRuns (s : State) (f : BitVec 32) : Bool :=
  !s.windowMode && (match s.time.firstFrame with
    | some a => !olderFrame f a && (match s.time.lastFrame with | some z => !olderFrame z f | none => true) &&
        (f = a || reached s.time.coarse (frameTick f))
    | none => false)

/-- A frame of which the node makes an origin fragment. -/
def State.ownFrame (s : State) (f : BitVec 32) : Bool :=
  s.slotValid && decide (s.role ≠ 3) && !s.time.mergeOnly && s.frameRuns f

/-- No frame as late as this one has closed at this node (R193). -/
def State.freshFrame (s : State) (f : BitVec 32) : Bool :=
  match s.pool.frameDone with
  | some d => olderFrame d f
  | none => true

/-- The origin frame fragment of a key, where the node is still to begin it (R530). -/
def State.beginFrag (s : State) (k : MergeKey) : State :=
  match k with
  | .frame f => if s.ownFrame f ∧ s.freshFrame f then s.newFrag k 0 0 false else s
  | .event .. => s

/-- The directory applies to a unit of the node's own cells (R220). -/
def State.ownTreat (s : State) (u : Unit') : Bool := s.covers (s.cfgF C.nodeSlot) && keyHasHits u.key && !u.isRecord

/-- A hit word or record stored in its own fragment, which opens for its first word, corrected where the node's directory
covers its cells (R195, R220, R221, R530). False where it must wait: for a slot (R312), or for the directory stage under test
(R481). -/
def State.storeUnit (s : State) (u : Unit') : Bool × State :=
  let o := (s.beginFrag u.key).openFrag u.key
  let s := o.2
  if ¬ o.1 then o
  else match s.frag u.key with
  | none => (true, s)
  | some g =>
    match g.dropped, g.item.bind s.item with
    | false, some i =>
      let slot := s.cfgF C.nodeSlot
      let treat : Bool := s.ownTreat u
      let frame : BitVec 32 := match u.key with
        | .frame f => f
        | .event .. => BitVec.ofNat 32 (g.trigTime.toNat / 2 ^ 29)
      let bank := g.bank.getD (s.dirBank frame)
      if treat ∧ s.test.logic = some 1 then (false, s)
      else
        let r : Corrected × State := if treat then s.correctWords false bank slot u.words else (⟨u.words, false, false⟩, s)
        let s := if r.1.hits then r.2.modFrag u.key fun g => { g with bank := some bank } else r.2
        if r.1.words.isEmpty then (true, s)
        else
          let w := r.1.words.headD ⟨0, false⟩
          match State.grow 64 s i.id (slotsFor (headWords u.key + g.body.length + r.1.words.length + 1)) with
          | (.done, s) =>
            (true, (s.modFrag u.key fun g =>
              { g with body := g.body ++ r.1.words
                       holdover := g.holdover || (if u.isRecord then wget w.w 8 1 = 1 else wget w.w 2 1 = 1)
                       poison := g.poison || wget w.w 0 1 = 1 }).throttleUpdate)
          | (.full, s) =>
            let n := i.slots.length
            if (s.item i.id).isNone then (true, s)
            else
              let s := s.modItem i.id fun x => { x with slots := x.slots.take n, homes := x.homes.take n }
              (true, (s.modFrag u.key fun g => { g with lost := g.lost + 1 }).ownLoss.throttleUpdate)
          | (.waits, _) => (false, o.2)
    | _, _ => (true, s)

/-- Some word of a fragment's key still waits in a region's FIFO. -/
def State.unitsWait (s : State) (k : MergeKey) : Bool :=
  s.pool.regFifo.any fun e => e.2.any fun u => u.key = k

/-- The header and body of an own fragment as it closes (R159, R160, R193). -/
def State.ownHead (s : State) (g : Frag) : Head :=
  let hold : Bool := match g.key with
    | .frame f => s.anyHoldover (frameTick f) (frameTick f + 65535)
    | .event .. => g.holdover
  let wrap : Bool := match g.key with | .frame f => f = 0 && s.time.wrapped | .event .. => false
  { key := g.key, nodeId := s.node.nodeId.toNat, corr := boolNat g.bank.isSome, bank := boolNat (g.bank.getD false),
    wrap := boolNat wrap, holdover := boolNat hold, degraded := boolNat s.degraded, incomplete := boolNat (g.lost ≠ 0),
    poison := boolNat g.poison, slot := s.cfgF C.nodeSlot, lostItems := g.lost, level := s.node.level.toNat % 8,
    trigTime := g.trigTime.toNat }

/-- The key of an own fragment that was lost before its context has opened, for the entry of a context that opens later (R530). -/
def State.noteOwnLost (s : State) (k : MergeKey) : State :=
  if s.merging && s.merges k && (s.ctx k).isNone && !s.isLate k then
    { s with pool := { s.pool with ownLost := (k :: s.pool.ownLost).take 4096 } }
  else s

/-- A closed own fragment whose words have all been stored is rewritten and completes (R185, R191, R193); none where it must wait for a slot
or for a context (R202, R203, R312). -/
def State.ownComplete (s : State) (g : Frag) : Option State :=
  let done (s : State) : State := { s with pool := { s.pool with frags := s.pool.frags.filter fun x => x.key ≠ g.key } }
  let s := match g.item.bind s.item with | some i => s.checkQueue i.queue | none => s
  match g.dropped, g.item.bind s.item with
  | false, some i =>
    let r := s.finishFragment (s.ownHead g) g.body (s.covers (s.cfgF C.nodeSlot))
    match State.grow (slotsFor r.1.length + 1) (r.2.modItem i.id fun x => { x with words := r.1 }) i.id (slotsFor r.1.length) with
    | (.waits, _) => none
    | (.full, s) => some (done ((s.dropItem i.id).noteOwnLost g.key).throttleUpdate)
    | (.done, s) =>
      let s := s.completeFragment i.id g.key g.bank
      let s := match s.item i.id with | some i => s.addView i | none => s
      if ¬ s.merging then some (done s).throttleUpdate
      else
        let late : Bool := i.queue = 1 || s.isLate g.key
        let o := if ¬ late ∧ s.merges g.key then s.openCtx g.key else (true, s)
        if ¬ o.1 then none
        else
          let s := o.2
          let late : Bool := late || (match s.ctx g.key with | some c => c.closing | none => false)
          (s.placeFragment i.id g.key late (fun e => e.child = .own) s.node.nodeId.toNat).map fun s => (done s).throttleUpdate
  | _, _ => some (done (s.noteOwnLost g.key))

/-! ## What arrives on ports -/

/-- The class and queue of an item that is no fragment for merging (R183, R184). -/
def plainClass (w : PWord) : Cls :=
  if w.poison then .control
  else match wget w.w 60 4 with
    | 7 => .control | 6 => .housekeeping | _ => .monitoring

/-- The key of a fragment for merging: word 0 intact, TYPE 0x2 or 0x4 with LATE = 0. -/
def mergeKeyOf (w : PWord) : Option MergeKey :=
  if w.poison then none
  else if wget w.w 60 4 = 2 ∧ wget w.w 6 1 = 0 then some (.frame (BitVec.ofNat 32 (wget w.w 28 32)))
  else if wget w.w 60 4 = 4 ∧ wget w.w 5 1 = 0 then
    some (.event (BitVec.ofNat 2 (wget w.w 10 2)) (BitVec.ofNat 32 (wget w.w 28 32)))
  else none

/-- A duplicate is counted at its port (R531). -/
def State.countDup (s : State) (p : Nat) : State := if p < 16 then s.inc (R.pairDup p) else s.inc (R.protoErr p)

/-- The entry of an open context that a fragment on port `p` would take is PRESENT or being stored (R531); after a change of
grant of a child pair, so is one of a closed event context (R306). -/
def State.duplicate (s : State) (p : Nat) (k : MergeKey) : Bool :=
  (match s.ctx k with
  | some c => c.entries.any fun e => s.entryIs p e && (e.st = .present || e.st = .storing)
  | none => false) ||
  (match (s.pairMate p) with
  | some q => decide (1 < s.getF (R.grantEpoch p)) && s.pool.closedEvents.any fun e => e.1 = k &&
      (e.2.any fun n => s.childNode p = some n || s.childNode q = some n)
  | none => false)

def State.setAsm (s : State) (p : Nat) (a : Asm) : State := { s with pool := { s.pool with asms := Tab.set {} s.pool.asms p a } }

/-- An item from a port begins in queue `q` with its first slot, or is dropped (R185, R190). False where it must wait for the slot
(R312). -/
def State.beginArrival (s : State) (p q : Nat) (cls : Cls) (key : Option MergeKey) (hidden late : Bool) : Bool × State :=
  let s := if s.canGrow q then s else s.checkQueue q
  let id := s.pool.nextItem
  let mine (s : State) (st : EntryState) (item : Option Nat) : State :=
    match key with
    | some k => if 32 ≤ q then s.modCtx k fun c => c.modEntries (s.entryIs p) fun e => { e with st := st, item := item } else s
    | none => s
  match State.growItem 2 ((s.newItem q cls).modItem id fun i => { i with key := key, hidden := hidden, src := some p }) id 1 with
  | (.done, s) => (true, ((mine s .storing (some id)).setAsm p { item := some id, active := true, late := late, ctx := key }).throttleUpdate)
  | (.full, s) => (true, mine (((s.freeItem id).countLost q 1).setAsm p { active := true, late := late, ctx := key }) .lost none)
  | (.waits, s) => (false, s.freeItem id)

/-- The first word of an item from a port reaches the write stage (R184, R196-R202, R531). False where it must wait. A fragment that comes
with LATE = 1 has no merge key and goes to OUTPUT, past the directory like any other (`State.lastWord`; R38, R40; assumption 130). -/
def State.firstWord (s : State) (p : Nat) (w : PWord) : Bool × State :=
  match mergeKeyOf w with
  | none => s.beginArrival p 0 (plainClass w) none false false
  | some k =>
    let cls : Cls := if keyIsEvent k then .triggered else .streaming
    if ¬ s.merges k then s.beginArrival p 0 cls (some k) true false
    else if s.duplicate p k then (true, (s.countDup p).setAsm p { active := true })
    else
      let shut : Bool := match s.ctx k with | some c => c.closing | none => false
      if s.isLate k ∨ shut then
        let r := s.beginArrival p 1 cls (some k) false true
        if r.1 ∧ p < 16 then (true, r.2.inc (R.childLate p)) else r
      else
        let o := s.openCtx k
        let s := o.2
        if ¬ o.1 then o
        else match s.ctx k with
        | none => (true, s.setAsm p { active := true })
        | some c =>
          match c.entries.find? (s.entryIs p) with
          | none => (true, s.setAsm p { active := true })
          | some e =>
            if e.st = .lost ∧ ¬ e.lostByLink then (true, s.setAsm p { active := true })
            else s.beginArrival p (32 + c.index) cls (some k) false false

/-- A word of an item from a port is stored (R190). False where it must wait for a slot (R312). -/
def State.appendWord (s : State) (p : Nat) (w : PWord) : Bool × State :=
  let a := Tab.get {} s.pool.asms p
  match a.item.bind s.item with
  | none => (true, s)
  | some i =>
    match State.grow 2 s i.id (slotsFor (i.words.length + 1)) with
    | (.done, s) => (true, (s.modItem i.id fun x => { x with words := i.words ++ [w] }).throttleUpdate)
    | (.full, s) => (true, ((s.dropItem i.id).setAsm p { a with item := none }).throttleUpdate)
    | (.waits, s) => (false, s)

/-- The words of an item are those of a fragment: its first word is intact and of TYPE 0x2 or 0x4. -/
def isFragment (ws : List PWord) : Bool :=
  let w := ws.headD ⟨0, true⟩
  !w.poison && (wget w.w 60 4 = 2 || wget w.w 60 4 = 4)

/-- The last word of an item from a port has been stored: a fragment passes the directory and compressor and awaits its rewrite (R191),
one with LATE = 1 as well (R38, R40, R220; assumption 130); any other item is complete, and at a standby freed unless it came from the
partner. -/
def State.lastWord (s : State) (p : Nat) : State :=
  let a := Tab.get {} s.pool.asms p
  let s := s.setAsm p {}
  match a.item.bind s.item with
  | none => s
  | some i =>
    if isFragment i.words then
      let r := State.treat 6 s i.words
      let s := r.2.modItem i.id fun x => { x with words := r.1.words, bank := r.1.bank }
      { s with pool := { s.pool with toComplete := s.pool.toComplete ++ [i.id] } }
    else
      let s := (s.checkQueue i.queue).completeItem i.id
      if ¬ s.sendsNorth ∧ p ≠ 18 then (s.freeItem i.id).throttleUpdate else s.throttleUpdate

/-- The fragment that a word ends needs correction while the directory stage is under test (R481). -/
def State.stageHeld (s : State) (p : Nat) (f : FifoWord) : Bool :=
  f.last && decide (s.test.logic = some 1) &&
    match (Tab.get {} s.pool.asms p).item.bind s.item with
    | some i => (State.treat 6 s (i.words ++ [f.word])).1.changed
    | none => false

/-- A word from a port's input FIFO at the write stage. False where it must wait. -/
def State.portWord (s : State) (p : Nat) (f : FifoWord) : Bool × State :=
  let r := if f.first then s.firstWord p f.word else (!s.stageHeld p f, s)
  if ¬ r.1 then r
  else
    let t := r.2.appendWord p f.word
    if t.1 ∧ f.last then (true, t.2.lastWord p) else t

/-- The child that sends on a port, as a merge names it: member A of a child pair. -/
def State.childId (s : State) (p : Nat) : Nat :=
  if p = 18 then s.node.partnerId.toNat
  else match s.pairMate p with
    | some q => if s.memberPos p = 1 then ((s.childNode q).getD 0).toNat else ((s.childNode p).getD 0).toNat
    | none => ((s.childNode p).getD 0).toNat

/-- ACK_FRAME of a child pair follows the frames stored complete from its granted member (R305). -/
def State.ackFrame (s : State) (p : Nat) (k : MergeKey) : State :=
  match k, s.pairMate p with
  | .frame f, some q =>
    let up (s : State) (x : Nat) : State :=
      let v := Tab.get {} s.pair.arbs x
      let best : BitVec 32 := match v.ackFrame with | some g => if olderFrame f g then g else f | none => f
      { s with pair := { s.pair with arbs := Tab.set {} s.pair.arbs x { v with ackFrame := some best } } }
    up (up s p) q
  | _, _ => s

/-- A fragment from a port is rewritten and completes (R185, R191, R305); none where it must wait for a slot. One that came with LATE = 1
stays where it stands in OUTPUT (R201), and a standby frees it. -/
def State.portComplete (s : State) (i : Item) : Option State :=
  match State.grow (slotsFor i.words.length + 1) (s.checkQueue i.queue) i.id (slotsFor i.words.length) with
  | (.waits, _) => none
  | (.full, s) => some (s.dropItem i.id).throttleUpdate
  | (.done, s) =>
    match i.key, i.src with
    | some k, some p =>
      let s := s.completeFragment i.id k i.bank
      (s.placeFragment i.id k (i.queue = 1) (s.entryIs p) (s.childId p)).map fun s => (s.ackFrame p k).throttleUpdate
    | _, _ =>
      let s := s.completeItem i.id
      some (if ¬ s.sendsNorth ∧ i.src ≠ some 18 then (s.freeItem i.id).throttleUpdate else s.throttleUpdate)

/-! ## The chip arbiter (R32) -/

/-- The port of a requester: S0-S15 and P; the region of the others. -/
def reqPort (r : Nat) : Nat := if r < 16 then r else 18

/-- Words that wait at a requester. -/
def State.waitingWords (s : State) (r : Nat) : Nat :=
  if r ≤ 16 then (s.port (reqPort r)).fifo.length else s.regionWords (r - 17)

/-- The requester that the cycle reaches next. -/
def State.nextRequester (s : State) : Option Nat :=
  ((List.range 25).map fun i => (s.pool.arbPos + i) % 25).find? fun r => 0 < s.waitingWords r

/-- Up to `n` words of a region's FIFO granted; a unit is stored when its last word is, and that word stays where it must wait. The first
argument bounds the units. -/
def State.grantRegion : Nat → State → Nat → Nat → State
  | 0, s, _, _ => s
  | fuel + 1, s, r, n =>
    match Tab.get [] s.pool.regFifo r with
    | [] => s
    | u :: l =>
      let have' := Tab.get 0 s.pool.regDone r
      let rest := u.words.length - have'
      if n < rest then { s with pool := { s.pool with regDone := Tab.set 0 s.pool.regDone r (have' + n) } }
      else
        let t := s.storeUnit u
        if t.1 then
          let pool := { t.2.pool with regFifo := Tab.set [] t.2.pool.regFifo r l, regDone := Tab.set 0 t.2.pool.regDone r 0 }
          State.grantRegion fuel { t.2 with pool := pool } r (n - rest)
        else { t.2 with pool := { t.2.pool with regDone := Tab.set 0 t.2.pool.regDone r (u.words.length - 1) } }

/-- Up to `n` words of a port's FIFO taken one by one, as far as none must wait; one whose code word is poisoned is carried as poison
(R326). -/
def State.takePort : Nat → State → Nat → State
  | 0, s, _ => s
  | n + 1, s, p =>
    let v := s.port p
    match v.fifo with
    | [] => s
    | f :: _ =>
      let x := s.tableCw (Config.fifoWord p v.fifoAt)
      let t := x.2.portWord p { f with word := markWord f.word x.1 }
      if t.1 then
        let v := t.2.port p
        State.takePort n (t.2.setPort p { v with fifo := v.fifo.drop 1, fifoAt := (v.fifoAt + 1) % 512 }) p
      else t.2

/-- Upsets strike words of a port's fragments in the fabric's latches: only those words change (R528). -/
def State.strikePort (s : State) (p : Nat) (ups : List (Nat × BitVec 64)) : State :=
  if ups.isEmpty then s
  else
    let strike (e : FifoWord × Nat) : FifoWord :=
      { e.1 with word := { e.1.word with w := ((ups.filter fun u => u.1 = e.2).map Prod.snd).foldl (· ^^^ ·) e.1.word.w } }
    s.setPort p { s.port p with fifo := (s.port p).fifo.zipIdx.map strike }

/-- Words of a port's FIFO granted; their room counts toward the credit limit (R278). -/
def State.grantPort (s : State) (p n : Nat) : State :=
  let t := State.takePort n s p
  t.freeCredit p false ((s.port p).fifo.length - (t.port p).fifo.length)

/-! ## Readers of OUTPUT (R204) -/

def State.reader (s : State) (r : Reader) : Rd := Tab.get {} s.pool.readers (readerKey r)
def State.setReader (s : State) (r : Reader) (v : Rd) : State :=
  { s with pool := { s.pool with readers := Tab.set {} s.pool.readers (readerKey r) v } }

/-- Ring registers (R347, R348). -/
def State.ringReg (s : State) (n off : Nat) : W32 := s.bar0 (0x3000 + 0x40 * n + off)
def State.ringEn (s : State) (n : Nat) : Bool := (s.ringReg n 0x10).getLsbD 0
def State.ringSize (s : State) (n : Nat) : Nat := 2 ^ fget (s.ringReg n 0x10) 2 6
def State.ringFree (s : State) (n : Nat) : Nat :=
  ((((s.ringReg n 0x18).toNat : Int) - (s.ringReg n 0x14).toNat - 64) % (s.ringSize n : Int)).toNat

/-- An item reaches host memory as ITEM_POISONED: word 0 or 1 is poisoned (R175). -/
def State.headPoisoned (s : State) (i : Item) : Bool := ((s.peekSlots (i.slots.take 1)).take 2).any (·.poison)

/-- The ring of an item (R351). -/
def State.ringOf (s : State) (i : Item) : Nat :=
  let route := s.bar0 0x3200
  match i.cls with
  | .triggered => fget route 0 3
  | .streaming => fget route 3 3
  | .housekeeping => fget route 6 3
  | .monitoring => fget route 9 3
  | .control =>
    if s.headPoisoned i then fget route 12 3
    else if wget ((s.peekSlots (i.slots.take 1)).headD ⟨0, false⟩).w 56 4 = 2 then 2 else 3

/-- The items that a reader may choose (R204-R207, R296); until the first commit only those of class CONTROL (R464). -/
def State.readable (s : State) (r : Reader) (i : Item) : Bool :=
  i.complete && !i.hidden && !i.done.contains r && !(i.part && !i.begun.contains r) &&
    (s.operating || i.cls = .control) &&
    match r with
    | .n0 | .n1 => i.queue = 0 && !i.retained && !i.begun.contains .p && s.sendsNorth && !s.isRoot
    | .dma => i.queue = 0 && !i.retained && !i.begun.contains .p && s.sendsNorth && s.isRoot
    | .p => !i.view.isEmpty || (i.queue = 0 && !s.sendsNorth && i.key.isNone && i.src.isNone)

/-- The head of a class list for a reader: its oldest item. -/
def State.headOf (s : State) (r : Reader) (c : Cls) : Option Item :=
  (s.pool.items.filter fun i => i.cls = c && s.readable r i).foldl (fun (b : Option Item) i => match b with
    | none => some i | some j => if i.age < j.age then some i else some j) none

/-- SIZE_LOG2 is one that a ring may have. -/
def sizeOk (ctl : W32) : Bool := 16 ≤ fget ctl 2 6 && fget ctl 2 6 ≤ 32

/-- What lands in the ring is unpredictable (R360): its registers were written out of turn, its size or base is none, or a route value names
ring 2 or 3. -/
def State.ringWild (s : State) (n : Nat) : Bool :=
  let o := Tab.get {} s.host.odd n
  o.base || o.moved || !sizeOk (s.ringReg n 0x10) ||
    ((n = 2 || n = 3) && [0, 3, 6, 9, 12].any fun k => fget (s.bar0 0x3200) k 3 = n)

/-- The FREE test of a ring is unpredictable (R360). -/
def State.ringLoose (s : State) (n : Nat) : Bool := s.ringWild n || (Tab.get {} s.host.odd n).tail

/-- A ring takes `bytes` more behind those in progress (R348); a free bit where R360 leaves the test open. -/
def State.ringTakes (s : State) (n bytes : Nat) : Bool :=
  s.ringEn n && (if s.ringLoose n then s.freshBit else decide (bytes ≤ s.ringFree n))

/-- The head of a class list that a reader may choose: for the DMA engine one whose ring has space and holds no item that waits (R207). -/
def State.classItem (s : State) (r : Reader) (c : Cls) : Option Item :=
  (s.headOf r c).filter fun i => r ≠ .dma ||
    ((Tab.get {} s.pool.parked (s.ringOf i)).item.isNone && s.ringTakes (s.ringOf i) 64)

/-- The classes, highest priority first (R184). -/
def classOrder : List Cls := [.control, .triggered, .streaming, .housekeeping, .monitoring]

/-- The item a reader chooses: the head of the highest-priority class. -/
def State.chooseItem (s : State) (r : Reader) : Option Item := classOrder.findSome? (s.classItem r)

/-- The port of a north or pair reader. -/
def readerPort : Reader → Nat
  | .n0 => 16 | .n1 => 17 | _ => 18

/-- A reader has no item, or its chosen item is gone before it was begun. -/
def State.idleReader (s : State) (r : Reader) : Bool :=
  let v := s.reader r
  v.item.isNone || (v.pos = 0 && v.words.isEmpty && (v.item.bind s.item).isNone)

/-- The other north port. -/
def otherNorth (r : Reader) : Reader := if r = .n0 then .n1 else .n0

/-- Of the items that the other north port has chosen and that this one has still to send, the one chosen first (R35). -/
def State.northNext (s : State) (r : Reader) : Option Item :=
  if r = .n0 ∨ r = .n1 then
    s.pool.north.findSome? fun e => if e.1 = r then none else (s.item e.2).filter (s.readable r)
  else none

/-- A north port's choice: the other has to send the item in its turn, or has chosen it already. -/
def State.noteChoice (s : State) (r : Reader) (id : Nat) (taken : Bool) : State :=
  if r = .n0 ∨ r = .n1 then
    let l := s.pool.north.filter fun e => e.2 ≠ id && (s.item e.2).isSome
    { s with pool := { s.pool with north := if taken then l else l ++ [(r, id)] } }
  else s

/-- A north port that leaves UP gives back an item that it has chosen and of which it has sent nothing (R189). -/
def State.giveBack (s : State) (r : Reader) : State :=
  let v := s.reader r
  match v.item with
  | none => s
  | some id =>
    if v.pos ≠ 0 ∨ (s.item id).any fun i => i.begun.contains r then s
    else
      let o := otherNorth r
      let has : Bool := (s.reader o).item = some id || (s.item id).any fun i => i.begun.contains o || i.done.contains o
      let l := s.pool.north.filter fun e => e.2 ≠ id
      let s := s.setReader r {}
      { s with pool := { s.pool with north := if has then (o, id) :: l else l } }

/-- A reader that takes an item now (R204). -/
def State.chooses (s : State) (r : Reader) : Bool :=
  if r = .dma then s.idleReader r || !s.ringTakes (s.reader r).ring ((s.reader r).written + 8)
  else s.idleReader r && s.portUp (readerPort r)

/-- The DMA engine leaves an item whose ring does not take it on (R207): begun, the item waits in its ring; else it is given back. -/
def State.dmaPark (s : State) : State :=
  let v := s.reader .dma
  if v.item.isNone ∨ s.ringTakes v.ring (v.written + 8) then s
  else
    let s := s.setReader .dma {}
    if v.words.isEmpty then s else { s with pool := { s.pool with parked := Tab.set {} s.pool.parked v.ring v } }

/-- The ring in which an item of a class waits. -/
def State.parkedOf (s : State) (c : Cls) : Option Nat :=
  (s.pool.parked.find? fun e => e.2.cls = c).map Prod.fst

/-- What the DMA engine takes up: the item of the highest class that waits and whose ring takes it again, or the head of a list, a list
with an item that waits being stalled (R204, R207). -/
def State.dmaNext (s : State) : Option (Nat ⊕ Item) :=
  classOrder.findSome? fun c => match s.parkedOf c with
    | some n => if s.ringTakes n ((Tab.get {} s.pool.parked n).written + 8) then some (.inl n) else none
    | none => (s.classItem .dma c).map .inr

/-- The DMA engine chooses (R204, R207, R351). -/
def State.dmaChoose (s : State) : State :=
  let t := if s.idleReader .dma then s.setReader .dma {} else s.dmaPark
  if (t.reader .dma).item.isSome then t
  else
    let n := t.dmaNext
    let t := if (List.range 8).any t.ringLoose then t.drawn else t
    match n with
    | some (.inl n) =>
      let v := Tab.get {} t.pool.parked n
      ({ t with pool := { t.pool with parked := Tab.set {} t.pool.parked n {} } }).setReader .dma v
    | some (.inr i) => t.setReader .dma { item := some i.id, ring := t.ringOf i, cls := i.cls }
    | none => t

/-- A reader that has finished its item, or whose chosen item is gone before it was begun, chooses the next: a north port first what the
other has chosen before it (R35). -/
def State.choose (s : State) (r : Reader) : State :=
  if r = .dma then s.dmaChoose
  else if ¬ s.idleReader r then s
  else if ¬ s.chooses r then s.setReader r {}
  else match s.northNext r with
    | some i => (s.setReader r { item := some i.id }).noteChoice r i.id true
    | none =>
      match s.chooseItem r with
      | some i => (s.setReader r { item := some i.id }).noteChoice r i.id false
      | none => s.setReader r {}

end Sys2Proof.Machine
end

