-- ==== Sys2Proof/Machine/LinkOps.lean ====
section
/-! DEFINITION. Operations of the Ocnis Link ports: leaving and reaching UP (R264, R267, R277-R280), packets sent and received
(R269-R276), what an acknowledgement releases (R205, R206, R274) and the messages that wait at a port (R282). -/

namespace Sys2Proof.Machine

/-! ## Readers of ports -/

/-- The reader that feeds a port's data channel. -/
def portReader (p : Nat) : Option Reader :=
  if p = 16 then some .n0 else if p = 17 then some .n1 else if p = 18 then some .p else none

/-- Newer of two frames. -/
def newerFrame (f g : BitVec 32) : BitVec 32 := if olderFrame f g then g else f

/-- A merged frame fragment has left the node: the newest frame of the present run (R299). -/
def State.frameOut (s : State) (i : Item) : State :=
  match i.key with
  | some (.frame f) =>
    let o : Nat × BitVec 32 := match s.pair.outFrame with
      | none => (i.run, f)
      | some (r, g) => if r = i.run then (r, newerFrame g f) else if i.run = s.time.starts then (i.run, f) else (r, g)
    if i.gen then { s with pair := { s.pair with outFrame := some o } } else s
  | _ => s

/-- OUT_FRAME follows the newest merged frame completely acknowledged north (R299). -/
def State.noteOut (s : State) : State :=
  let need := s.northReaders
  (s.pool.items.filter fun i => !i.retained && !need.isEmpty && need.all i.done.contains).foldl (fun s i => s.frameOut i) s

/-- The items of a port's reader that its link has had acknowledged to the end leave the pool (R205, R206, R296). -/
def State.settleReader (s : State) (r : Reader) : State :=
  if r = .p then
    let l := s.pool.items.filter fun i => i.done.contains .p
    l.foldl (fun s i => s.releaseView i) s
  else s.noteOut.freeDelivered

/-- Packets of a channel that the far end has accepted. -/
def ackedBefore (seq : BitVec 16) (k : TxPkt) : Bool := k.seq ≠ seq && decide ((seq - k.seq).toNat < 32768)

/-- What the acknowledgement of a packet releases: words of an item, or a hop's message (R276, R374). -/
def State.packetAcked (s : State) (p : Nat) (control : Bool) (k : TxPkt) : State :=
  if control then
    let m := parseCtl (k.words.map (·.w))
    if m.mtype = 1 then s.hopAcked p (wget (m.payload.headD 0) 0 4) m.stamp else s
  else
    match k.item, portReader p with
    | some id, some r => s.modItem id fun i =>
        { i with acked := Tab.set 0 i.acked (readerKey r) (Tab.get 0 i.acked (readerKey r) + k.words.length)
                 done := if k.last then r :: i.done else i.done }
    | _, _ => s

/-- Every packet before SEQ is acknowledged. -/
def State.ackPackets (s : State) (p : Nat) (control : Bool) (seq : BitVec 16) : State :=
  let c := s.chan p control
  let gone := c.unacked.filter (ackedBefore seq)
  if gone.isEmpty then s
  else
    let s := s.setChan p control { c with unacked := c.unacked.filter fun k => !ackedBefore seq k,
                                          replay := c.replay.filter fun k => !ackedBefore seq k }
    let s := gone.foldl (fun s k => s.packetAcked p control k) s
    match control, portReader p with
    | false, some r => s.settleReader r
    | _, _ => s

/-! ## Leaving UP -/

/-- A port leaves UP and trains again at its rate (R205, R209, R264, R277; R72 for the port of the recovered reference). -/
def State.leaveUp (s : State) (p : Nat) : State :=
  let s := (s.setFlag (R.retrain p)).seek p
  let s := if p < 16 then (s.setF (R.southState p) 0).throttleUpdate else s.noteOut.freeDelivered
  let s := match portReader p with
    | some r => if r = .p then s else s.giveBack r
    | none => s
  let s := if s.degraded ∧ p = 16 + s.getF R.recoveredPort then s.referenceLost else s
  if p = 18 ∧ s.getF R.resync = 0 then
    { s with pair := { s.pair with resyncStep := 0 },
             dir := { s.dir with copying := false, copyWrites := [] } }
  else s

/-- A port trains again and then resumes where it can: an UP port leaves UP (R264, R280, R407). One in MISMATCH trains again only at a reset
or a commit (R267). -/
def State.retrainPort (s : State) (p : Nat) : State :=
  if ¬ s.portEnabled p ∨ s.getF (R.lstate p) = 6 then s else if s.portUp p then s.leaveUp p else s.seek p

/-- Before the first commit a change of the transmitters' reference trains every port again that has begun to train (R463; assumption 173). -/
def State.referenceMoved (s : State) (old : TxReference) : State :=
  if s.node.state.code < 3 ∨ s.txReference = old then s
  else (List.range 19).foldl (fun (s : State) (p : Nat) => s.retrainPort p) s

/-! ## Not resuming (R280) -/

/-- The transmitter of a channel discards its unacknowledged packets; items of which some were sent are freed as
delivered. -/
def State.discardTx (s : State) (p : Nat) (control : Bool) : State :=
  let c := s.chan p control
  let s := (s.setChan p control { c with unacked := [], replay := [], txSeq := 0, rxSeq := 0 }).incBy (R.linkDiscard p)
    c.unacked.length
  if control then s.hopsRestart p
  else match portReader p with
    | none => s
    | some r =>
      let v := s.reader r
      let ids := (c.unacked.filterMap (·.item)) ++ (if v.pos = 0 then [] else v.item.toList)
      let s := if v.pos = 0 then s else s.setReader r {}
      (s.setItems (s.pool.items.map fun i => if ids.contains i.id then { i with done := r :: i.done } else i)).settleReader r

/-- The receiver drops the item whose FIRST packet it accepted but whose LAST packet it did not; the loss counts as an
overwrite does, and its entry is LOST. -/
def State.dropPartial (s : State) (p : Nat) : State :=
  let v := s.port p
  if ¬ v.rxOpen then s
  else
    let tail := (v.fifo.reverse.takeWhile fun f => !f.last).reverse
    let s := s.setPort p { v with rxOpen := false, rxDrop := false, fifo := v.fifo.take (v.fifo.length - tail.length) }
    let byLink (k : MergeKey) (from' : EntryState) (s : State) : State := s.modCtx k fun c =>
      c.modEntries (fun e => s.entryIs p e && e.st = from') fun e => { e with st := .lost, item := none, lostByLink := true }
    if v.rxDrop then s
    else match tail.find? (·.first) with
      | some f =>
        match mergeKeyOf f.word with
        | some k => if ¬ s.merges k then s.countLost 0 1 else if s.isLate k then s.countLost 1 1
                    else byLink k .waiting (s.countLost 32 1)
        | none => s.countLost 0 1
      | none =>
        let a := Tab.get {} s.pool.asms p
        let s := s.setAsm p {}
        match a.item with
        | none => s
        | some id =>
          let s := (s.dropItem id).throttleUpdate
          match a.ctx with
          | some k => byLink k .lost s
          | none => s

/-! ## Reaching UP (R267, R277-R280, R314) -/

/-- A channel at UP: SENT is 0, no credit has come, and the limit it reports counts what is occupied. -/
def Chan.atUp (c : Chan) (resume : Bool) (limit : Nat) : Chan :=
  { c with sent := 0, credit := none, nakSent := false, limit := BitVec.ofNat 16 limit,
           replay := if resume then c.unacked else [] }

/-- The child pairs as they are recognised now, and PAIR_MEMBER of the south ports (R298, R316). -/
def State.pairMarks (s : State) : State :=
  let s := s.recognise
  (List.range 16).foldl (fun s p => s.setF (R.pairMember p) (boolNat (s.pairMate p).isSome)) s

/-- The pair port comes UP without resuming (R314): a member that has booted sets RESYNC where its partner is ACTIVE, CONFIGURED or RUNNING;
such a partner sends the image that it holds of the other, where it holds one, and awaits the other's commit. -/
def State.pairRestart (s : State) (partnerOn : Bool) : State :=
  if s.node.state.code < 5 then
    if ¬ partnerOn then s
    else
      let s := s.setF R.resync 1
      { s with pair := { s.pair with resyncStep := 1, agreeRun := 0, joinFrame := none } }
  else if s.getF R.active = 1 ∨ s.node.state ≠ .safe then
    let s := { s with pair := { s.pair with resyncStep := 1 }, dir := { s.dir with copying := false, copyWrites := [] } }
    match s.pair.heldImage with
    | some l => s.emit (.configImage true l)
    | none => s
  else s

/-- The far configuration words form a valid pair with the port (R267, R468). Where one of the two nodes has no NODE_ID yet, nothing
contradicts PARTNER_ID: P trains before enumeration and at a member that boots anew (R314). -/
def State.validPair (s : State) (p : Nat) (a : CfgA) : Bool :=
  if p < 16 then a.portKind = 1
  else if p < 18 then a.portKind = 0
  else a.portKind = 2 && decide (boolNat a.pairPos ≠ s.pairPos) &&
    (s.node.nodeId = 0xFFF || a.nodeId = 0xFFF || a.nodeId = s.node.partnerId)

/-- The port resumes (R279). -/
def State.resumes (s : State) (p : Nat) (a : CfgA) (b : CfgB) : Bool :=
  b.farValid && b.farInc = s.node.incarnation && (s.port p).farLastInc = some a.incarnation

/-- Step 6 of R266 for a valid pair: the channels resume or restart, and the port is UP. -/
def State.reachUp (s : State) (p : Nat) (a : CfgA) (b : CfgB) (partnerOn : Bool) : State :=
  let resume := s.resumes p a b
  let s :=
    if resume then (s.ackPackets p false b.nextRxData).ackPackets p true b.nextRxCtl
    else ((s.discardTx p false).discardTx p true).dropPartial p
  let v := s.port p
  let s := s.setPort p { v with farLastInc := some a.incarnation, data := v.data.atUp resume (512 - v.fifo.length),
                                ctl := v.ctl.atUp resume (8 - v.ctlIn.length) }
  let s := ((s.setF (R.txLanes p) a.rxLanes.toNat).setF (R.resumed p) (boolNat resume)).setF (R.lstate p) 5
  let s := if s.degraded ∧ p = 16 + s.getF R.recoveredPort then s.referenceBack else s
  let s := if p < 16 then s.pairMarks else s
  if p = 18 ∧ ¬ resume then s.pairRestart partnerOn else s

/-! ## Packets sent -/

/-- A packet header (R269). -/
def packetHeader (control : Bool) (k : TxPkt) : Word :=
  let poison := (k.words.zipIdx.map fun e => if e.1.poison then 2 ^ e.2 else 0).sum
  BitVec.ofNat 64 (2 ^ 60 + boolNat control * 2 ^ 59 + k.seq.toNat * 2 ^ 43 + (k.words.length - 1) * 2 ^ 37 +
    boolNat k.first * 2 ^ 36 + boolNat k.last * 2 ^ 35 + poison)

/-- A packet leaves a port: header, payload and trailer (R269-R272). -/
def State.emitPacket (s : State) (p : Nat) (control : Bool) (k : TxPkt) : State :=
  let head := packetHeader control k
  let load := k.words.map fun w => if w.poison then 0xEEEEEEEEEEEEEEEE else w.w
  (s.emit (.packet p (s.wordLane p) head load (BitVec.ofNat 64 (2 * 2 ^ 60 + (crcWords (head :: load)).toNat)))).drawn

/-- Units of credit that a packet takes (R278). -/
def pktUnits (control : Bool) (k : TxPkt) : Nat := if control then 1 else k.words.length

/-- The channel has credit for `n` units. -/
def Chan.mayBegin (c : Chan) (n : Nat) : Bool :=
  match c.credit with
  | some r => decide (n ≤ (r - c.sent).toNat)
  | none => false

/-- A new packet is sent and held until it is acknowledged (R276, R277). -/
def State.sendNew (s : State) (p : Nat) (control : Bool) (k : TxPkt) : State :=
  let c := s.chan p control
  let k := { k with seq := c.txSeq, sentAt := s.ticks }
  (s.setChan p control { c with txSeq := c.txSeq + 1, unacked := c.unacked ++ [k],
                                sent := c.sent + BitVec.ofNat 16 (pktUnits control k) }).emitPacket p control k

/-- The next packet of a replay is sent again. -/
def State.sendAgain (s : State) (p : Nat) (control : Bool) (k : TxPkt) : State :=
  let c := s.chan p control
  let upd : List TxPkt := c.unacked.map fun x => if x.seq = k.seq then { x with sentAt := s.ticks, resent := some s.ticks } else x
  (s.setChan p control { c with unacked := upd, replay := c.replay.drop 1,
                                sent := c.sent + BitVec.ofNat 16 (pktUnits control k) }).emitPacket p control k

/-- The payload of the next data packet (R269, R272): up to 64 words, no poisoned word beyond position 31. -/
def takePacket : Nat → List PWord → List PWord
  | 0, _ => []
  | _, [] => []
  | n + 1, w :: l => if w.poison && decide (n < 32) then [] else w :: takePacket n l

/-- A reader reads the words of the item that it has chosen (R203, R204). -/
def State.loadItem (s : State) (r : Reader) : State :=
  let v := s.reader r
  match v.item.bind s.item with
  | none => s
  | some i =>
    if v.pos ≠ 0 ∨ ¬ v.words.isEmpty then s
    else
      let q := s.readItem i
      match q.1 with
      | none => q.2.setReader r {}
      | some ws =>
        q.2.setReader r { v with words := ws }

/-- A reader has placed the first word of an item in a packet: it has begun it, and the other north port may fall behind (R189, R205). -/
def State.beginItem (s : State) (r : Reader) (id : Nat) : State :=
  let s := s.modItem id fun x => { x with begun := r :: x.begun }
  if r = .n0 ∨ r = .n1 then s.northLag else s

/-- The control channel's next packet, where one may begin now. -/
def State.nextControl (s : State) (p : Nat) : Option (State → State) :=
  let c := s.chan p true
  match c.replay with
  | k :: _ => if c.mayBegin 1 then some (fun s => s.sendAgain p true k) else none
  | [] =>
    match (s.port p).ctlQueue with
    | m :: l =>
      if c.mayBegin 1 ∧ c.unacked.length < 16 then
        some (fun s =>
          (s.setPort p { s.port p with ctlQueue := l }).sendNew p true
            { seq := 0, first := true, last := true, words := m.words, item := none })
      else none
    | [] => none

/-- The words of a packet with the upsets that strike them in the fabric's latches: only those words change, and the trailer CRC stays (R528). -/
def upsetWords (ups : List (Nat × BitVec 64)) (l : List PWord) : List PWord :=
  l.zipIdx.map fun e => { e.1 with w := ((ups.filter fun u => u.1 = e.2).map Prod.snd).foldl (· ^^^ ·) e.1.w }

/-- The data channel's next packet is sent, where one may begin now: none while pool transfers wait (R481), and at a standby none that begins
an item north (R296). -/
def State.sendData (s : State) (p : Nat) (r : Reader) (ups : List (Nat × BitVec 64)) : State :=
  let c := s.chan p false
  match c.replay with
  | k :: _ => if c.mayBegin (pktUnits false k) then s.sendAgain p false k else s
  | [] =>
    if s.transfersWait then s
    else
    let s := s.loadItem r
    let v := s.reader r
    match v.item with
    | none => s
    | some id =>
      if v.pos = 0 ∧ r ≠ .p ∧ ¬ s.sendsNorth then s
      else
      let load := takePacket 64 (v.words.drop v.pos)
      if load.isEmpty ∨ ¬ c.mayBegin load.length ∨ 32767 ≤ c.unacked.length then s
      else
        let last : Bool := v.pos + load.length = v.words.length
        let s := s.setReader r (if last then {} else { v with pos := v.pos + load.length })
        let s := s.sendNew p false { seq := 0, first := v.pos = 0, last := last, words := upsetWords ups load, item := some id }
        if v.pos = 0 then s.beginItem r id else s

/-- A replay begins with the unacknowledged packets from SEQ on (R276). -/
def State.replayFrom (s : State) (p : Nat) (control : Bool) (seq : BitVec 16) : State :=
  let c := s.chan p control
  let s := s.setChan p control { c with replay := c.unacked.filter fun k => !ackedBefore seq k }
  (s.setPort p { s.port p with replays := (s.port p).replays + 1 }).inc (R.replayCnt p)

/-! ## Link words received (R260) -/

/-- A link word that a port which is not off receives, where a word of kind `lk` was expected: a kind that is never sent counts PROTO_ERR, a
LINK_CTL, timing-marker or lane-alignment word whose CRC-8 fails counts CTL_BLOCK_ERR, and the word is discarded. -/
def State.linkWordCheck (s : State) (p lk : Nat) (w : Word) : Bool × State :=
  let k := wget w 60 4
  if s.getF (R.lstate p) = 0 then (false, s)
  else if k = 0 ∨ k = 4 ∨ (8 ≤ k ∧ k < 15) then (false, s.inc (R.protoErr p))
  else if (k = 3 ∨ k = 5 ∨ k = 6) ∧ ¬ linkCrcOk w then (false, s.inc (R.ctlBlockErr p))
  else (k = lk, s)

/-! ## Packets received -/

/-- A message type is known and comes from a direction in which it is sent (R282). -/
def ctlAllowed (p : Nat) (t : BitVec 8) : Bool :=
  if 0x01 ≤ t ∧ t ≤ 0x06 then true
  else if t = 0x10 ∨ t = 0x20 then p = 16 || p = 17
  else if t = 0x11 then p < 16
  else if t = 0x21 ∨ t = 0x22 then p < 16 || p = 18
  else false

/-- The words of a control packet's payload as the port reads them: what hardware reads from a poisoned word, its header or any word of a message
that hardware handles, is a free value (assumption 134); of an MBOX_MSG hardware reads the two words before its bytes. -/
def State.ctlLoad (s : State) (k : Packet) : List Word :=
  let soft : Bool := !k.poisonMap.getLsbD 0 && (wget (k.payload.headD 0) 56 8 = 1 || wget (k.payload.headD 0) 56 8 = 2)
  k.payload.zipIdx.map fun e =>
    if k.poisonMap.getLsbD e.2 ∧ e.2 < 32 ∧ ¬ (soft ∧ (2 ≤ e.2 ∨ wget (k.payload.headD 0) 56 8 = 2)) then BitVec.ofNat 64 (s.nth e.2) else e.1

/-- A control packet accepted: its message waits at the port, or is discarded; a mapped word of a message for firmware is poisoned
(R272). -/
def State.acceptControl (s : State) (p : Nat) (k : Packet) : State :=
  let bad := (List.range k.payload.length).filter fun i => k.poisonMap.getLsbD i && decide (i < 32)
  let m : CtlMsg := parseCtl (s.ctlLoad k)
  let m : CtlMsg := if m.mtype = 1 ∨ m.mtype = 2 then { m with bad := bad } else m
  let s := s.skip (if bad = [] then 0 else k.payload.length)
  if ctlAllowed p m.mtype then s.setPort p { s.port p with ctlIn := (s.port p).ctlIn ++ [m] }
  else (s.inc (R.protoErr p)).freeCredit p true 1

/-- What a port does with the item whose FIRST packet arrives: none keeps it, else the state after it is counted (R306, R464,
R531). -/
def State.arrivalDrop (s : State) (p : Nat) (w : PWord) : Option State :=
  if ¬ s.operating ∧ plainClass w ≠ .control then some (s.inc R.uncfgDiscard)
  else if p < 16 ∧ (s.pairMate p).isSome ∧ s.getF (R.arbGrant p) ≠ s.memberPos p then some s
  else match mergeKeyOf w with
    | none => none
    | some k =>
      if p < 16 ∧ (s.childNode p).isNone then some (s.inc (R.protoErr p))
      else if s.merges k ∧ s.duplicate p k then some (s.countDup p)
      else none

/-- The words of an accepted data packet as they enter the FIFO. -/
def fifoWords' (k : Packet) : List FifoWord :=
  k.payload.zipIdx.map fun e =>
    let bad := k.poisonMap.getLsbD e.2 && decide (e.2 < 32)
    { word := ⟨if bad then 0xEEEEEEEEEEEEEEEE else e.1, bad⟩, first := k.first && e.2 = 0,
      last := k.last && e.2 + 1 = k.payload.length }

/-- A data packet accepted (R273): on a north port it is discarded; else its words enter the input FIFO unless its item is
discarded at the port, a mapped word as the poison pattern (R272, R323). -/
def State.acceptData (s : State) (p : Nat) (k : Packet) : State :=
  let n := k.payload.length
  if p = 16 ∨ p = 17 then (s.inc (R.protoErr p)).freeCredit p false n
  else
    let ws := fifoWords' k
    let drop := if k.first then s.arrivalDrop p ((ws.map (·.word)).headD ⟨0, false⟩) else none
    let gone : Bool := if k.first then drop.isSome else (s.port p).rxDrop || !(s.port p).rxOpen
    let s := drop.getD s
    let v := s.port p
    let v := { v with rxOpen := !k.last && (k.first || v.rxOpen), rxDrop := gone && !k.last }
    if gone then (s.setPort p v).freeCredit p false n
    else
      let place (i : Nat) : Nat := Config.fifoWord p ((v.fifoAt + v.fifo.length + i) % 512)
      let s := s.tableWrite ((List.range ws.length).map place)
      let s := (ws.zipIdx).foldl (fun (s : State) (e : FifoWord × Nat) =>
        if e.1.word.poison then s.setRaw 5 (place e.2) poisonCw else s) s
      s.setPort p { v with fifo := v.fifo ++ ws }

/-- A packet's framing, length and CRC hold (R275). -/
def packetIntact (k : Packet) : Bool :=
  let head := BitVec.ofNat 64 (2 ^ 60 + boolNat k.control * 2 ^ 59 + k.seq.toNat * 2 ^ 43 + k.lenM1.toNat * 2 ^ 37 +
    boolNat k.first * 2 ^ 36 + boolNat k.last * 2 ^ 35 + k.poisonMap.toNat)
  k.framed && k.payload.length = k.lenM1.toNat + 1 && k.crc = crcWords (head :: k.payload)

/-- A packet fails (R275, R276): CRC_ERR, and one NAK until the expected SEQ arrives; its units are free at once. An intact packet that is
discarded while the NAK is out counts nothing (assumption 55). -/
def State.packetFails (s : State) (p : Nat) (k : Packet) : State :=
  let c := s.chan p k.control
  let s := if c.nakSent ∧ packetIntact k then s else s.inc (R.crcErr p)
  let s := s.setChan p k.control { c with nakSent := true, limit := c.limit + BitVec.ofNat 16 (if k.control then 1 else k.payload.length) }
  if c.nakSent then s else s.sendLinkCtl p 1 k.control

/-! ## Messages that wait at a port -/

/-- The first message of one of the given types that waits at a port, taken from its buffer. -/
def State.takeCtl (s : State) (p : Nat) (t : BitVec 8) : Option (CtlMsg × State) :=
  match (s.port p).ctlIn.find? fun m => m.mtype = t with
  | none => none
  | some m =>
    let v := s.port p
    some (m, (s.setPort p { v with ctlIn := v.ctlIn.erase m }).freeCredit p true 1)

end Sys2Proof.Machine
end

