-- ==== Sys2Proof/Machine/PairOps.lean ====
section
/-! DEFINITION. Operations of redundant pairs: heartbeats and the health word (R299, R300), the arbiter of a child pair
(R298, R302-R305), grants and switchover (R304, R308, R309), and signatures (R310, R311). -/

namespace Sys2Proof.Machine

/-! ## The arbiter -/

def State.arb (s : State) (p : Nat) : Arb := Tab.get {} s.pair.arbs p
def State.setArb (s : State) (p : Nat) (a : Arb) : State := { s with pair := { s.pair with arbs := Tab.set {} s.pair.arbs p a } }

/-- HB_AGE of a south port in microseconds, saturating. -/
def State.hbAge (s : State) (p : Nat) : Nat :=
  match (s.arb p).lastHb with
  | some t => min 0xFFFF (s.usSince t)
  | none => 0xFFFF

/-- A CRC storm on the arbiter's own port or in the member's latest health word (R302). -/
def State.storms (s : State) (p : Nat) : Bool := (s.arb p).storm || decide (64 < s.getF (R.replays1ms p))

/-- A member is eligible (R303). -/
def State.eligible (s : State) (p : Nat) : Bool :=
  (match (s.arb p).lastHb with | some t => decide (s.ticks ≤ t + 56000) | none => false) && !s.storms p && !(s.arb p).hbFail

/-- The GRANT payload for the pair on port `p` (R304). -/
def State.grantWord (s : State) (p : Nat) : Word :=
  let a := (s.arb p).ackFrame
  BitVec.ofNat 64 (s.getF (R.arbGrant p) + boolNat a.isSome * 4 + s.getF (R.grantEpoch p) * 2 ^ 16 +
    (a.getD 0).toNat * 2 ^ 32)

/-- GRANT to both members of the pair on port `p`; only an unpaired parent or the active member of a parent pair sends it. -/
def State.sendGrant (s : State) (p : Nat) : State :=
  match s.pairMate p with
  | none => s
  | some q =>
    if ¬ s.isActive then s
    else
      let w := s.grantWord p
      (s.sendMsg p (.of 0x20 0xFFF (s.portStamp p) [w])).sendMsg q (.of 0x20 0xFFF (s.portStamp q) [w])

/-- The arbiter's grant of the pair on port `p` becomes A (0), B (1) or NONE (2). What the member that loses it has sent only in part is dropped
where its port is not UP (R280, R306; assumption 136). -/
def State.setGrant (s : State) (p pos : Nat) : State :=
  match s.pairMate p with
  | none => s
  | some q =>
    if s.getF (R.arbGrant p) = pos then s
    else
      let old := if s.memberPos p = s.getF (R.arbGrant p) then p else q
      let s := if s.getF (R.arbGrant p) < 2 ∧ ¬ s.portUp old then s.dropPartial old else s
      let e := s.getF (R.grantEpoch p) + 1
      ((((s.setF (R.arbGrant p) pos).setF (R.arbGrant q) pos).setF (R.grantEpoch p) e).setF (R.grantEpoch q) e).sendGrant p

/-- A member is declared failed (R302, R303): 1 heartbeat, 2 storm, 3 FAIL bit. One held failed is not declared again. -/
def State.declareFailed (s : State) (p reason : Nat) : State :=
  match s.pairMate p with
  | none => s
  | some q =>
    if s.getF (R.arbFailed p) = 1 then s
    else
      let s := ((s.setF (R.arbFailed p) 1).setF (R.failReason p) reason).setFlag (R.failEvent p)
      if s.getF (R.arbGrant p) ≠ s.memberPos p then s
      else s.setGrant p (if s.eligible q then s.memberPos q else 2)

/-- A member that has become eligible is no longer held failed, and takes a grant that names none (R303). -/
def State.arbReview (s : State) (p : Nat) : State :=
  if (s.pairMate p).isSome ∧ s.eligible p then
    let s := if s.getF (R.arbFailed p) = 1 then (s.setF (R.arbFailed p) 0).setF (R.failReason p) 0 else s
    if s.getF (R.arbGrant p) = 2 then s.setGrant p (s.memberPos p) else s
  else s

/-- The end of enumeration: each child pair's member A is granted if eligible, else member B (R298, R303). -/
def State.grantAll (s : State) : State :=
  let s := s.pairMarks
  (List.range 16).foldl (fun s p =>
    match s.pairMate p with
    | some _ =>
      if s.memberPos p = 0 ∧ s.getF (R.arbGrant p) = 2 then s.setGrant p (if s.eligible p then 0 else 1) else s
    | none => s) s

/-! ## Heartbeat and health -/

/-- READY (R311). -/
def State.pairReady (s : State) : Bool :=
  s.paired && s.getF R.active = 0 && s.portUp 18 && s.getF R.resync = 0 && decide (4 ≤ s.pair.agreeRun)

/-- Frames retained (R297). -/
def State.retained (s : State) : Nat := min 16 s.retainedFrames.length

/-- OUT_FRAME of a HEARTBEAT (R299). -/
def State.outFrame (s : State) : BitVec 32 :=
  if s.getF R.active = 1 then (s.pair.outFrame.map Prod.snd).getD 0
  else match s.retainedFrames with
    | e :: _ => BitVec.ofNat 32 e.2.trigFrame
    | [] => 0

/-- The payload of a HEARTBEAT (R299). -/
def State.hbWords (s : State) : List Word :=
  let sig := s.pair.sigs.headD (0, 0)
  [BitVec.ofNat 64 (s.pair.hbSeq.toNat + s.pairPos * 2 ^ 16 + s.getF R.active * 2 ^ 17 + s.getF R.fail * 2 ^ 18 +
     boolNat s.pairReady * 2 ^ 19 + sig.1.toNat * 2 ^ 32),
   BitVec.ofNat 64 (sig.2.toNat + s.outFrame.toNat * 2 ^ 32)]

/-- The health word (R300). -/
def State.healthWord (s : State) : Word :=
  let tb := (List.range 8).any fun r => s.regionConfigured r && decide (s.regionState r ≠ 2)
  let replays := max (s.getF (R.replays1ms 16)) (max (s.getF (R.replays1ms 17)) (s.getF (R.replays1ms 18)))
  BitVec.ofNat 64 (s.getF R.fail + s.getF R.active * 2 + boolNat s.pairReady * 4 + boolNat s.pair.mismatchRecent * 8 +
    boolNat s.pair.bistFailed * 16 + s.getF R.resync * 32 + boolNat tb * 64 + s.getF R.throttleOwn * 128 +
    s.pair.sigBadRun.toNat * 2 ^ 8 + replays * 2 ^ 16 + s.retained * 2 ^ 32 + s.pair.failCause.toNat * 2 ^ 40)

/-- The ports over which a member sends HEARTBEAT and HEALTH. -/
def State.memberPorts (s : State) : List Nat := [16, 17, 18].filter s.portUp

/-! ## Grants and switchover -/

/-- A frame is at or before another. -/
def upTo (f g : BitVec 32) : Bool := f = g || olderFrame f g

/-- A former standby takes over (R308, R309): retained items up to ACK_FRAME are freed where one is given, the rest is sent,
and the frames that cannot be are counted. -/
def State.switchover (s : State) (ack : Option (BitVec 32)) : State :=
  let s := match ack with
    | none => s
    | some a =>
      let gone := s.pool.items.filter fun (i : Item) => i.retained && !i.hidden && upTo (BitVec.ofNat 32 i.trigFrame) a
      gone.foldl (fun (s : State) (i : Item) => s.releaseItem i.id) s
  let oldest : Option (BitVec 32) := s.retainedFrames.getLast?.map fun (e : Nat × Item) => BitVec.ofNat 32 e.2.trigFrame
  let gap : Nat := match ack, oldest with
    | some a, some o => if olderFrame (a + 1) o then (o - (a + 1)).toNat else 0
    | _, _ => 0
  let first : Nat := match oldest, ack with
    | some o, _ => o.toNat
    | none, some a => (a + 1).toNat
    | none, none => 0
  let s := s.setItems (s.pool.items.map fun (i : Item) => if i.retained && !i.hidden then { i with retained := false } else i)
  let s := ((s.setF R.active 1).incBy R.switchGap gap).setFlag R.switched
  s.notice 0x8007 (leBytes 1 s.pairPos ++ leBytes 3 0 ++ leBytes 4 (ack.getD 0).toNat ++ leBytes 4 first ++
    leBytes 2 (min gap 0xFFFF))

/-- A member loses the grant (R308): its readers complete the items in progress, give back those of which nothing is sent, and its merged
fragments that are not sent, on one north port or on both, become retained; LATE wrappers are freed. -/
def State.standDown (s : State) : State :=
  let s := s.setF R.active 0
  let unsent (i : Item) : Bool := i.queue = 0 && i.gen && i.complete && !i.hidden
  let s := ((s.giveBack .n0).giveBack .n1).giveBack .dma
  let sent (i : Item) : Bool := if s.isRoot then i.begun.contains .dma else s.northReaders.all i.begun.contains && i.begun ≠ []
  let mine (i : Item) : Bool := unsent i && !sent i
  let late := s.pool.items.filter fun (i : Item) => mine i && decide (i.cls = .monitoring)
  let s := late.foldl (fun (s : State) (i : Item) => s.releaseItem i.id) s
  (s.setItems (s.pool.items.map fun (i : Item) => if mine i then { i with retained := true } else i)).trimRetained

/-- A member acts on a grant (R304). -/
def State.applyGrant (s : State) (pos : Nat) (ack : Option (BitVec 32)) : State :=
  if ¬ s.paired ∨ 2 < pos then s
  else
    let s := s.setGrantPos pos
    if pos = s.pairPos then (if s.getF R.active = 1 then s else s.switchover ack)
    else if s.getF R.active = 1 then s.standDown else s

/-- A root member that takes its grant from GRANT_IN acts on the pin's level (R309). It resumes behind OUT_FRAME of its partner's last
HEARTBEAT. -/
def State.pinGrant (s : State) : State :=
  if ¬ s.isRoot ∨ ¬ s.paired ∨ s.cfgF C.rootGrantSrc = 0 then s
  else if s.pair.grantIn then
    s.applyGrant s.pairPos (s.pair.partnerHb.map fun (h : Word × Word) => BitVec.ofNat 32 (wget h.2 32 32))
  else s.applyGrant 2 none

/-- The payload of a GRANT applied. -/
def State.applyGrantWord (s : State) (w : Word) : State :=
  let s := if s.paired then { s with pair := { s.pair with epoch := BitVec.ofNat 16 (wget w 16 16) } } else s
  s.applyGrant (wget w 0 2) (if wget w 2 1 = 1 then some (BitVec.ofNat 32 (wget w 32 32)) else none)

/-! ## Signatures -/

/-- The resync-complete notice (R415). -/
def State.resyncDone (s : State) : State :=
  let s := s.setF R.resync 0
  ({ s with pair := { s.pair with resyncStep := 0 } }).notice 0x8008
    (leBytes 2 s.node.partnerId.toNat ++ leBytes 2 0 ++ leBytes 4 s.generation)

/-- The partner's signature compared with the own one (R311, R314). -/
def State.compareSig (s : State) (frame sig : BitVec 32) : State :=
  if s.pair.lastCompared = some frame then s
  else
    let s := { s with pair := { s.pair with lastCompared := some frame } }
    match s.pair.sigs.find? fun e => e.1 = frame with
    | none => s.inc R.sigSkipped
    | some e =>
      if e.2 = sig then
        let s := { s with pair := { s.pair with sigBadRun := 0, agreeRun := s.pair.agreeRun + 1 } }
        if s.getF R.resync = 1 ∧ 4 ≤ s.pair.agreeRun then s.resyncDone else s
      else
        let run := BitVec.ofNat 8 (min 255 (s.pair.sigBadRun.toNat + 1))
        let s := { s with pair := { s.pair with sigBadRun := run, agreeRun := 0, mismatchRecent := true } }
        (s.inc R.sigBad).setFlag R.sigMismatch

end Sys2Proof.Machine
end

