-- ==== Sys2Proof/Machine/RegOps.lean ====
section
/-! DEFINITION. Reading registers: the register words of the BAR2 layout with their computed fields (R356, R357, R390), the summary
bits (R490, R491), and the pages each command group reaches (R390). -/

namespace Sys2Proof.Machine

/-- An open-ended test of a flag. -/
def State.flagSet (s : State) (f : RF) : Bool := s.getF f ≠ 0

/-- The summary of block `b` (R33, R146, R490). -/
def State.blockSummary (s : State) (b : Nat) : Bool :=
  let st := s.getF (R.acqState b)
  st = 5 || st = 6 || s.flagSet (R.maskFail b).flag || s.flagSet (R.frostEvent b).flag ||
    (List.range 16).any fun i => s.flagSet (R.satSeen (16 * b + i)).flag || s.flagSet (R.derandLost (16 * b + i))

/-- REGION_ERR_SUMMARY of region `r` (R490). -/
def State.regionSummary (s : State) (r : Nat) : Bool :=
  let st := s.regionState r
  st = 3 || st = 4 || st = 5 || s.flagSet (R.lockLost r).flag ||
    (List.range 256).any (fun i => s.flagSet (R.calSuspect (256 * r + i))) ||
    (List.range 16).any fun i => s.blockSummary (16 * r + i)

/-- Bits gathered into a number, bit 0 first. -/
def bitList (l : List Bool) : Nat := l.foldr (fun b a => boolNat b + 2 * a) 0

/-- NODE_SUMMARY (R491). -/
def State.nodeSummary (s : State) : Nat :=
  bitList [
    s.flagSet R.refclkLost.flag || s.flagSet R.coarseWrap.flag,
    (List.range 8).any s.regionSummary,
    s.flagSet R.throttleEvent.flag || s.flagSet R.queueReset.flag,
    s.flagSet R.swapDone.flag,
    s.flagSet R.verifyFail.flag || s.flagSet R.decFault.flag,
    (List.range 19).any fun p => s.flagSet (R.retrain p).flag || s.flagSet (R.markerMismatch p).flag,
    s.flagSet R.switched.flag || s.flagSet R.sigMismatch.flag || (List.range 16).any fun p => s.flagSet (R.failEvent p).flag,
    (List.range 6).any fun m => s.flagSet (R.bucketOvf m).flag || s.flagSet (R.ueEvent m).flag || s.flagSet (R.lapOverdue m).flag,
    s.flagSet R.plausibility.flag || s.flagSet R.chainOpenEvent.flag ||
      (List.range 8).any fun n => s.flagSet (R.openWireEvent n).flag,
    s.flagSet R.overrunEvent.flag || s.flagSet R.satEvent.flag,
    s.flagSet R.bistFail.flag]

/-- Every entry from `a` to `b` - 1 lies in one of the ranges, each a first entry and a count. The first argument bounds the
ranges used. -/
def rangesCover : Nat → List (Nat × Nat) → Nat → Nat → Bool
  | 0, _, a, b => b ≤ a
  | n + 1, l, a, b =>
    if b ≤ a then true
    else match l.find? fun r => r.1 ≤ a && a < r.1 + r.2 with
      | some r => rangesCover n l (r.1 + r.2) b
      | none => false

/-- A page of the shadow is recorded as written (R226), or retired and so counts as written (R337). -/
def State.pageWritten (s : State) (g : Nat) : Bool :=
  rangesCover s.dir.good.length s.dir.good (512 * g) (512 * g + 512) ||
    s.unitRetired 1 (4096 * (1 - s.getF R.dirActive) + g)

/-- PAGES_WRITTEN: covered pages of the shadow that are recorded (R232). -/
def State.pagesRecorded (s : State) : Nat := ((List.range (s.cfgF C.dirSlotCount * 4)).filter s.pageWritten).length

/-- The loops that are enabled, and the timebase loops that R438 currently evaluates (R447). -/
def State.loopsEnabled (s : State) : Nat :=
  nset (s.word 0xC004).toNat 0 8 (bitList ((List.range 8).map fun r =>
    s.regionState r = 1 || s.regionState r = 2 || s.regionState r = 4))

/-- A half of a 64-bit register. -/
def half64 (v off : Nat) : W32 := BitVec.ofNat 32 (v / 2 ^ (8 * (off % 8)))

/-- A word of the error log (R334). -/
def State.logWord (s : State) (off : Nat) : W32 :=
  let e := Tab.get logReset s.prot.log ((off - 0x9000) / 16)
  half64 (if (off - 0x9000) % 16 < 8 then e.1 else e.2).toNat off

/-- HB_AGE as the register shows it: 0 before the first heartbeat. -/
def State.hbAgeReg (s : State) (p : Nat) : Nat := if (s.arb p).lastHb.isSome then s.hbAge p else 0

/-- The register word at an offset of the BAR2 layout as it reads (R357, R390). -/
def State.readWord (s : State) (off : Nat) : W32 :=
  let w := s.word off
  if off = 0x0 then
    fset (fset (fset w 0 4 s.node.state.code) 4 8 s.node.incarnation.toNat) 12 1 (boolNat s.pool.agg)
  else if 0x20 ≤ off ∧ off < 0x38 ∧ ¬ s.isRoot then 0
  else if off = 0x28 ∨ off = 0x2C then half64 s.host.ptmMaster.toNat off
  else if off = 0x30 ∨ off = 0x34 then half64 s.host.ptmStamp.toNat off
  else if off = 0x48 then fset w 0 1 (boolNat s.commitOk)
  else if off = 0x2000 then fset w 0 5 s.trig.pending.length
  else if off = 0x3000 then fset (fset w 0 18 s.poolUsed) 19 1 (boolNat s.pool.agg)
  else if off = 0x3004 then fset w 0 19 (if s.node.state.code < 3 then 0 else unsigned 19 s.freeShared)
  else if off = 0x300C then fset w 0 18 s.pool.orphans.length
  else if off = 0x3010 then fset w 0 18 (s.usedBy 0)
  else if off = 0x3014 then fset w 0 18 (s.usedBy 1)
  else if off = 0x3020 then fset w 0 10 s.pool.ctxs.length
  else if off = 0x4000 then fset w 16 13 s.pagesRecorded
  else if off = 0x7000 then fset (fset w 3 1 (boolNat s.pairReady)) 24 5 s.retained
  else if off = 0x700C then 0
  else if 0x7010 ≤ off ∧ off < 0x7050 then fset w 16 16 (s.hbAgeReg ((off - 0x7010) / 4))
  else if 0x9000 ≤ off ∧ off < 0xA000 then s.logWord off
  else if off = 0xC004 then BitVec.ofNat 32 s.loopsEnabled
  else if off = 0xD01C then BitVec.ofNat 32 s.nodeSummary
  else if off = 0xD020 then BitVec.ofNat 32 (bitList ((List.range 8).map s.regionSummary))
  else if 0xD024 ≤ off ∧ off < 0xD034 then
    BitVec.ofNat 32 (bitList ((List.range 32).map fun i => s.blockSummary (32 * ((off - 0xD024) / 4) + i)))
  else if 0x10000 ≤ off ∧ off < 0x12000 ∧ off % 0x40 = 0 then fset w 24 7 (freePages (s.block ((off - 0x10000) / 0x40)))
  else if 0x20000 ≤ off ∧ off < 0x30000 ∧ off % 0x20 = 0xC then
    fset w 0 4 (s.cell ((off - 0x20000) / 0x20)).derand.length
  else w

/-- An offset lies in the pages of a command group (R390). -/
def groupHas (g off : Nat) : Bool :=
  let page := off / 0x1000
  let cell := off % 0x20
  if g = 1 then page = 0 || page = 0xA
  else if g = 3 then page = 2 || page = 0x10 || page = 0x11 || (page / 16 = 2 && (cell = 4 || cell = 8 || cell = 0xC))
  else if g = 4 then page = 1 || (page / 16 = 2 && (cell = 0 || cell = 0x10))
  else if g = 5 then page = 4
  else if g = 6 then page = 6 || page = 7
  else if g = 7 then page = 3 || page = 5 || page = 8 || page = 9
  else if g = 8 then page = 0xB || page = 0xC
  else if g = 9 then page = 0xD
  else false

/-- A read through a command clears the RC fields of the word (R391). -/
def State.readClear (s : State) (off : Nat) : State := s.setWord off (s.word off &&& ~~~(rcMask off))

/-- Successive words read through a command. -/
def State.readRegs : Nat → State → Nat → List W32 × State
  | 0, s, _ => ([], s)
  | n + 1, s, off =>
    let r := State.readRegs n (s.readClear off) (off + 4)
    (s.readWord off :: r.1, r.2)

end Sys2Proof.Machine
end

