-- ==== Sys2Proof/Machine/HostOps.lean ====
section
/-! DEFINITION. Operations of the PCI Express host interface: BAR0 registers (R345-R348, R351, R356), items as they stand in host
memory (R174, R175, R177, R235, R250) and the DMA engine (R349-R353). -/

namespace Sys2Proof.Machine

/-! ## Registers -/

/-- Configuration space as it reads (R342, R359), where R342 gives the word or a field of it and the standard its place: Vendor and Device ID,
Class Code with Revision ID, the bases of BAR0 and BAR2, Subsystem IDs, no BAR4, BAR5 or expansion ROM. Every other word is as the standard
defines it. -/
def State.configWord (s : State) (off : Nat) : Option W32 :=
  let c := s.host.control
  if off = 0x00 ∨ off = 0x2C then some (BitVec.ofNat 32 (pcieFunction.device * 65536 + pcieFunction.vendor))
  else if off = 0x08 then some (BitVec.ofNat 32 (pcieFunction.classCode * 256 + pcieFunction.revision))
  else if off = 0x10 ∨ off = 0x14 then some (half64 (c.bar0.toNat * 2 ^ 16 + 4) (off - 0x10))
  else if off = 0x18 ∨ off = 0x1C then some (half64 (c.bar2.toNat * 2 ^ 24 + 4) (off - 0x18))
  else if off = 0x20 ∨ off = 0x24 ∨ off = 0x30 then some 0
  else none

/-- The BAR answers: a root whose link is up, in D0. -/
def State.barOpen (s : State) : Bool := s.isRoot ∧ s.host.linkUp ∧ ¬ s.host.d3hot

/-- A word of BAR0 outside the mailboxes and lock registers as it reads (R345). -/
def State.bar0Word (s : State) (off : Nat) : W32 :=
  if off = 0x2000 then s.mbox.inDoorbell
  else if off = 0x2004 then s.mbox.outDoorbell
  else if 0x4000 ≤ off ∧ off < 0x4100 then s.readWord (off - 0x4000)
  else if off = 0x9000 ∨ off = 0x9004 then half64 s.host.pba.toNat off
  else s.bar0 off

/-- An access of R346 and R357: a size and alignment that the area takes. -/
def State.accessOk (s : State) (a : BarAccess) : Bool :=
  if a.bar2 then a.offset % 4 = 0 && a.length % 4 = 0 && 0 < a.length && a.length ≤ s.maxPayload &&
    a.offset + a.length ≤ 0x1000000
  else if a.offset < 0x2000 then
    a.offset % 4 = 0 && 4 ≤ a.length && a.offset / 256 = (a.offset + a.length - 1) / 256
  else (a.length = 4 && a.offset % 4 = 0) || (a.length = 8 && a.offset % 8 = 0)

/-- The registers of a read of plain registers: not of a mailbox or a lock, which have commands of their own. -/
def State.barData (s : State) (a : BarAccess) : Option (List W32) :=
  let offs := (List.range (a.length / 4)).map fun i => a.offset + 4 * i
  if a.bar2 then some (offs.map fun o => if o < 0x30000 then s.readWord o else 0)
  else if a.offset < 0x2000 ∨ (0x2040 ≤ a.offset + a.length - 4 ∧ a.offset < 0x2080) then none
  else some (offs.map s.bar0Word)

/-- The bytes of a code word read through an aperture, with the poisoned bit. -/
def apertureBytes (d : Option (BitVec 128)) : List (Byte × Bool) :=
  match d with
  | some v => (leBytes 16 v.toNat).map fun b => (b, false)
  | none => List.replicate 16 (0xEE, true)

/-- Bytes of the memory aperture from a 4 B aligned offset on, and the poisoned bit of each (R319, R324, R358). -/
def State.apertureData (s : State) (off bytes : Nat) (upsets : List (BitVec 152)) : List (Byte × Bool) × State :=
  let m := s.getF R.diagMem
  let a := s.getF R.diagWin * 524288 + off / 16
  let n := (off + bytes + 15) / 16 - off / 16
  if m = 3 ∨ memWords m < a + n then (List.replicate bytes (0, false), s)
  else
    let r := State.readWords n (s.upsets m a (upsets.take n)) m a
    (((r.1.flatMap apertureBytes).drop (off % 16)).take bytes, r.2)

/-- A read of BAR2 (R357): registers, then the aperture from 0x80_0000 on. -/
def State.bar2Read (s : State) (a : BarAccess) : List (Byte × Bool) × State :=
  let below := min a.length (0x800000 - a.offset)
  let ws := (s.barData { a with length := below }).getD []
  let r := if below = a.length then ([], s) else s.apertureData (a.offset + below - 0x800000) (a.length - below) []
  (ws.flatMap (fun w => (leBytes 4 w.toNat).map fun b => (b, false)) ++ r.1, r.2)

/-- A bad access counts (R346). -/
def State.badAccess (s : State) : State := s.inc R.barAccessErr

/-- The ring registers of ring `n`. -/
def ringOff (n r : Nat) : Nat := 0x3000 + 0x40 * n + r
def State.ringBase (s : State) (n : Nat) : Nat := (s.bar0 (ringOff n 0)).toNat + (s.bar0 (ringOff n 4)).toNat * 2 ^ 32
def State.ringWb (s : State) (n : Nat) : Nat := (s.bar0 (ringOff n 8)).toNat + (s.bar0 (ringOff n 0xC)).toNat * 2 ^ 32
def State.ringHead (s : State) (n : Nat) : Nat := (s.bar0 (ringOff n 0x14)).toNat
def State.setHead (s : State) (n v : Nat) : State := s.setBar0 (ringOff n 0x14) (BitVec.ofNat 32 v)

/-- BUSY of a ring. -/
def State.setBusy (s : State) (n : Nat) (b : Bool) : State :=
  s.setBar0 (ringOff n 0x1C) (fset (s.bar0 (ringOff n 0x1C)) 1 1 (boolNat b))

/-- A write to this ring is in progress. -/
def State.ringBusy (s : State) (n : Nat) : Bool := (s.bar0 (ringOff n 0x1C)).getLsbD 1

/-- What a host has done to a ring that R360 calls unpredictable. -/
def State.ringOdd (s : State) (n : Nat) : RingOdd := Tab.get {} s.host.odd n
def State.setOdd (s : State) (n : Nat) (o : RingOdd) : State := { s with host := { s.host with odd := Tab.set {} s.host.odd n o } }

/-- A TAIL that is not in order (R360): not a multiple of 64, outside the ring, or beyond the bytes written. -/
def State.tailBad (s : State) (n : Nat) (v : W32) : Bool :=
  let size := s.ringSize n
  let tail := (s.ringReg n 0x18).toNat
  v.toNat % 64 ≠ 0 || decide (size ≤ v.toNat) ||
    decide (((s.ringHead n : Int) - tail) % (size : Int) < ((v.toNat : Int) - tail) % (size : Int))

/-- A write of RING_CTLn (R347, R348, R353, R360): EN rising sets HEAD to TAIL and starts the count of write-backs anew; EN falling
makes an item in progress on the ring begin again. -/
def State.writeCtl (s : State) (n : Nat) (v : W32) : State :=
  let old := s.ringEn n
  let v := v &&& 0x3FFFF
  let moved : Bool := old && fget v 2 6 ≠ fget (s.ringReg n 0x10) 2 6
  let s := s.setBar0 (ringOff n 0x10) v
  if v.getLsbD 0 ∧ ¬ old then
    let tail := (s.ringReg n 0x18).toNat
    let s := s.setOdd n { s.ringOdd n with moved := false, tail := tail % 64 ≠ 0 || decide (s.ringSize n ≤ tail) }
    let s := s.setHead n tail
    { s with host := { s.host with wbCount := Tab.set 0 s.host.wbCount n 0, wbDue := Tab.set false s.host.wbDue n false } }
  else
    let s := if moved then s.setOdd n { s.ringOdd n with moved := true } else s
    if old ∧ ¬ v.getLsbD 0 ∧ s.ringBusy n then (s.dmaRestart fun k => k = n).setBusy n false
    else s

/-- A write of TAIL (R348, R350, R360). -/
def State.writeTail (s : State) (n : Nat) (v : W32) : State :=
  let s := if s.ringEn n ∧ s.tailBad n v then s.setOdd n { s.ringOdd n with tail := true } else s
  s.setBar0 (ringOff n 0x18) v

/-- A write of BASE or WB_ADDR (R347, R360). -/
def State.writeBase (s : State) (n r : Nat) (v : W32) : State :=
  let o := s.ringOdd n
  let s := s.setOdd n { o with base := if r = 0 then decide (v.toNat % 4096 ≠ 0) else o.base, moved := o.moved || s.ringEn n }
  s.setBar0 (ringOff n r) (if r = 0 then v &&& 0xFFFFF000 else if r = 8 then v &&& 0xFFFFFFF8 else v)

/-- A 4-byte register write by its access codes (R16), for registers without a command of their own. -/
def State.writeReg (s : State) (off : Nat) (v : W32) : State :=
  if off = 0x2004 then { s with mbox := { s.mbox with outDoorbell := s.mbox.outDoorbell &&& ~~~v } }
  else if 0x3000 ≤ off ∧ off < 0x3200 then
    let n := (off - 0x3000) / 0x40
    let r := off % 0x40
    if r = 0 ∨ r = 4 ∨ r = 8 ∨ r = 0xC then s.writeBase n r v
    else if r = 0x10 then s.writeCtl n v
    else if r = 0x18 then s.writeTail n v
    else if r = 0x1C then s.setBar0 off (s.bar0 off &&& ~~~(v &&& 1))
    else s
  else if off = 0x3200 then s.setBar0 off (v &&& 0x7FFF)
  else if off = 0x4024 then s.setF R.ptmInterval (fget v 0 8)
  else if off = 0x4040 then (s.setF R.diagMem (fget v 0 2)).setF R.diagWin (fget v 2 3)
  else if 0x8000 ≤ off ∧ off < 0x8400 then
    let r := off % 16
    if r = 12 then (s.setBar0 off (v &&& 1)).msixFlush ((off - 0x8000) / 16)
    else s.setBar0 off (if r = 0 then v &&& 0xFFFFFFFC else v)
  else s

/-! ## Items in host memory -/

/-- The counts of a fault or a poisoned input of the decompressor (R250, R251). -/
def State.decoderFault (s : State) (f : Option (Nat × Nat)) : State :=
  match f with
  | none => s
  | some (c, pos) =>
    let s := ((s.inc (R.decCnt c)).setFlag R.decFault).setF R.decFaultPos pos
    if c = 6 then s else s.setF R.lastFault c

/-- The bytes of words with their marks. -/
def markedBytes (ws : List PWord) : List PByte := ws.flatMap fun p => (leBytes 8 p.w.toNat).map fun b => (b, p.poison)

/-- An origin fragment on its way to host memory (R174, R235, R250). -/
def State.hostOrigin (s : State) (h : Head) (ws : List PWord) : Treated × State :=
  let body := (ws.drop (headWords h.key)).dropLast
  let bad : Bool := ws.any (·.poison)
  if s.cfgF C.deliverRaw = 1 ∧ h.comp = 1 then
    let d := decodeStream false (markedBytes body)
    let raw := rawBody d
    let poison : Bool := h.poison = 1 || bad || raw.any (·.poison)
    (⟨sealFragment { h with comp := 0, bodyWords := raw.length, poison := boolNat poison } raw, none, true, poison⟩,
      s.decoderFault d.fault)
  else if bad then (⟨sealFragment { h with poison := 1, bodyWords := body.length } body, none, true, true⟩, s)
  else (⟨ws, none, false, h.poison = 1⟩, s)

/-- A fragment on its way to host memory, nested fragments through the child tables. One whose word 0 is poisoned passes; POISON stands in
word 0 of every other that holds a poisoned word (R174). A merged fragment's children can be told where word 1 is intact. The first argument
bounds the nesting. -/
def State.hostFragment : Nat → State → List PWord → Treated × State
  | 0, s, ws => (⟨ws, none, false, false⟩, s)
  | n + 1, s, ws =>
    match readHead ws with
    | none => (⟨ws, none, false, true⟩, s)
    | some h =>
      if h.kind = 0 then s.hostOrigin h ws
      else
        let rest := (ws.drop (headWords h.key)).dropLast
        let bad : Bool := ws.any (·.poison)
        let entries := if h.slotPoison then 0 else h.entries
        let r := treatChildren (State.hostFragment n) (rest.take entries) (rest.drop entries) s
        let poison : Bool := h.poison = 1 || bad || (r.1.2.changed && r.1.2.poison)
        if ¬ r.1.2.changed ∧ ¬ bad then (⟨ws, none, false, h.poison = 1⟩, r.2)
        else
          let body := r.1.1 ++ r.1.2.words
          (⟨sealFragment { h with bodyWords := body.length, poison := boolNat poison } body, none, true, poison⟩, r.2)

/-- The words of an item as they stand in host memory (R174, R175). -/
def State.hostItem (s : State) (ws : List PWord) : List Word × State :=
  if (ws.take 2).any (·.poison) then
    (BitVec.ofNat 64 (7 * 2 ^ 60 + s.node.nodeId.toNat * 2 ^ 44 + (ws.length - 1)) :: (ws.drop 1).map PWord.sent, s)
  else if wget (ws.headD ⟨0, false⟩).w 60 4 = 2 ∨ wget (ws.headD ⟨0, false⟩).w 60 4 = 4 then
    let t := State.hostFragment 6 s ws
    (t.1.words.map PWord.sent, t.2)
  else (ws.map PWord.sent, s)

/-- Fill words up to the next multiple of 8 (R152, R177). -/
def fillWords (n : Nat) : List Word := List.replicate ((8 - n % 8) % 8) 0

/-! ## The DMA engine -/

/-- Words written to host memory in a ring, from byte offset `pos` on, continuing at BASE after its last byte. -/
def ringWords (t : Tab Word) (base size : Nat) : Nat → List Word → Tab Word
  | _, [] => t
  | pos, w :: l => ringWords (Tab.set 0 t ((base + pos % size) / 8) w) base size (pos + 8) l

/-- The writes that place `bytes` bytes from `pos` of a ring on: none crosses 4 KiB or the end of the ring or exceeds the Max Payload Size
(R343). The first argument bounds their number. -/
def ringWrites : Nat → (base size payload pos bytes : Nat) → List (Nat × Nat)
  | 0, _, _, _, _, _ => []
  | k + 1, base, size, payload, pos, bytes =>
    if bytes = 0 then []
    else
      let a := base + pos % size
      let n := min (min bytes payload) (min (4096 - a % 4096) (size - pos % size))
      (a, n) :: ringWrites k base size payload (pos + n) (bytes - n)

/-- A write leaves for host memory (R343, R346). -/
def State.sendWrite (s : State) (relaxed : Bool) (w : Nat × Nat) : State :=
  s.emit (.memWrite w.1 w.2 (2 ^ 32 ≤ w.1) (relaxed && s.host.control.relaxed))

/-- The addresses in host memory that an enabled ring takes up, and those of its write-back. -/
def State.ringHas (s : State) (n a : Nat) : Bool :=
  s.ringEn n && decide (s.ringBase n ≤ a) && decide (a < s.ringBase n + s.ringSize n)
def State.wbHas (s : State) (n a : Nat) : Bool := s.ringEn n && decide (s.ringWb n ≤ a) && decide (a < s.ringWb n + 8)

/-- Another use of host memory by the node lies at an address that ring `n` (`wb`: its write-back) writes (R360). -/
def State.ringClash (s : State) (n : Nat) (wb : Bool) (a : Nat) : Bool :=
  (List.range 8).any fun k => ((k ≠ n || wb) && s.ringHas k a) || ((k ≠ n || !wb) && s.wbHas k a)

/-- No address of a ring has another use. -/
def State.ringAlone (s : State) (n : Nat) : Bool :=
  let a := s.ringBase n
  let e := a + s.ringSize n
  (List.range 8).all fun k => !s.ringEn k ||
    ((k = n || decide (e ≤ s.ringBase k) || decide (s.ringBase k + s.ringSize k ≤ a)) &&
      (decide (e ≤ s.ringWb k) || decide (s.ringWb k + 8 ≤ a)))

/-- A word written to host memory for ring `n`: in a ring whose results are unpredictable a free value at a free place, and where ranges
overlap a free value (R360). -/
def State.hostPut (s : State) (n : Nat) (wb : Bool) (a : Nat) (w : Word) : State :=
  if s.ringWild n then
    let t := s.skip 2
    { t with hostMem := Tab.set 0 t.hostMem (s.nth 0 / 8) (BitVec.ofNat 64 (s.nth 1)) }
  else if s.ringClash n wb a then { s.drawn with hostMem := Tab.set 0 s.hostMem (a / 8) s.fresh }
  else { s with hostMem := Tab.set 0 s.hostMem (a / 8) w }

/-- Words written into a ring from byte offset `pos` on, one by one. -/
def State.hostPuts (s : State) (n : Nat) : Nat → List Word → State
  | _, [] => s
  | pos, w :: l => State.hostPuts (s.hostPut n false (s.ringBase n + pos % s.ringSize n) w) n (pos + 8) l

/-- Words placed in a ring from byte offset `pos` on (R343, R349, R360). -/
def State.ringPut (s : State) (n pos : Nat) (ws : List Word) : State :=
  let t := (ringWrites ws.length (s.ringBase n) (s.ringSize n) s.maxPayload pos (8 * ws.length)).foldl
    (State.sendWrite · true) s
  if ¬ s.ringWild n ∧ s.ringAlone n then { t with hostMem := ringWords t.hostMem (s.ringBase n) (s.ringSize n) pos ws }
  else t.hostPuts n pos ws

/-- HEAD advances by `n` bytes, and a write-back is due (R349, R350). -/
def State.advanceHead (s : State) (n bytes : Nat) : State :=
  let s := s.setHead n ((s.ringHead n + bytes) % s.ringSize n)
  { s with host := { s.host with wbDue := Tab.set false s.host.wbDue n true } }

/-- The DMA engine begins its item: its words as host memory takes them. -/
def State.dmaBegin (s : State) : State :=
  let v := s.reader .dma
  if ¬ v.words.isEmpty then s
  else match v.item.bind s.item with
    | none => s.setReader .dma {}
    | some i =>
      let q := s.readItem i
      match q.1 with
      | none => q.2.setReader .dma {}
      | some ws =>
        let h := q.2.hostItem ws
        (h.2.modItem i.id fun x => { x with begun := .dma :: x.begun }).setReader .dma { v with words := h.1.map pw }

/-- The item's last write has been issued (R353): its slots are free, OUT_FRAME and the NOTICE doorbell follow. Of an item lost in a queue
reset nothing is left to free. -/
def State.dmaDone (s : State) (id n : Nat) (first : Word) : State :=
  let i := s.item id
  let s := (s.setReader .dma {}).setBusy n false
  let s := match i with
    | some i => if n = 0 then s.frameOut i else s
    | none => s
  let s := if n = 3 ∧ wget first 56 8 = 0x73 then s.ringOutDoorbell 16 else s
  if i.isSome then s.releaseItem id else s

/-- How many words the ring takes now of `want` (R349); a free number where R360 leaves the FREE test open. -/
def State.ringRoom (s : State) (n written want : Nat) : Nat × State :=
  if s.ringLoose n then (s.nth 0 % (want + 1), s.drawn) else (min want ((s.ringFree n - written) / 8), s)

/-- A write waits for space (R349): FULL, counted once for each wait. -/
def State.dmaWaits (s : State) (n : Nat) (new : Bool) : State :=
  let s := s.setBusy n true
  if ¬ new then s
  else
    let w := s.bar0 (ringOff n 0x1C)
    s.setBar0 (ringOff n 0x1C) (fset (fset w 0 1 1) 8 8 (fget w 8 8 + 1))

/-- Words of the item in progress written as far as FREE allows (R349): its own, and then the fill. -/
def State.dmaWrite (s : State) (id : Nat) : State :=
  let v := s.reader .dma
  let n := v.ring
  let all := v.words.map (·.w) ++ fillWords v.words.length
  let rest := all.drop v.pos
  let room := s.ringRoom n v.written rest.length
  let part := rest.take room.1
  let s := room.2.ringPut n (s.ringHead n + v.written) part
  let pos := v.pos + part.length
  let written := v.written + 8 * part.length
  if pos = all.length then (s.advanceHead n written).dmaDone id n (all.headD 0)
  else
    let new : Bool := !part.isEmpty || !s.ringBusy n
    let s := s.setReader .dma { v with pos := pos, written := written % 65536 }
    let s := if 65536 ≤ written then s.advanceHead n (written / 65536 * 65536) else s
    s.dmaWaits n new

/-- Vector `n` is signalled for a ring, or held until HOLDOFF has passed (R352). -/
def State.ringSignal (s : State) (n : Nat) : State :=
  let hold := fget (s.ringReg n 0x10) 8 10 * 160
  let late : Bool := match Tab.get none s.host.lastSignal n with | some t => decide (t + hold ≤ s.ticks) | none => true
  if late then
    let sent : Bool := s.hostOpen && !s.vecMasked n
    let last := if sent then Tab.set none s.host.lastSignal n (some s.ticks) else s.host.lastSignal
    ({ s with host := { s.host with lastSignal := last, holdPending := Tab.set false s.host.holdPending n false } }).msix n
  else { s with host := { s.host with holdPending := Tab.set false s.host.holdPending n true } }

end Sys2Proof.Machine
end

