-- ==== Sys2Proof/Machine/Host.lean ====
section
/-! DEFINITION. The PCI Express host interface: DMA_ITEM_WRITE to PTM_DIALOG (R341-R360). -/

namespace Sys2Proof.Machine

/-- DMA_ITEM_WRITE (R174, R175, R177, R182, R207, R235, R250, R343, R349, R353). An item is begun once the ring takes a word of it. -/
def execDmaItemWrite (s : State) : Res :=
  .next (
    let v := s.reader .dma
    match v.item with
    | none => s
    | some id =>
      if ¬ s.hostOpen ∨ ¬ s.ringEn v.ring ∨ s.transfersWait then s
      else if ¬ s.ringLoose v.ring ∧ s.ringFree v.ring < v.written + 8 then s.dmaWaits v.ring (!s.ringBusy v.ring)
      else
        let t := s.dmaBegin
        if (t.reader .dma).item.isSome then t.dmaWrite id else t)

/-- RING_WRITEBACK (R343, R350, R352, R360). -/
def execRingWriteback (ring : Fin 8) (s : State) : Res :=
  .next (
    let n := ring.val
    if s.hostOpen ∧ Tab.get false s.host.wbDue n then
      let count := Tab.get 0 s.host.wbCount n + 1
      let w : Word := BitVec.ofNat 64 (s.ringHead n + count.toNat * 2 ^ 32)
      let s := (s.sendWrite false (s.ringWb n, 8)).hostPut n true (s.ringWb n) w
      let s := { s with host := { s.host with wbCount := Tab.set 0 s.host.wbCount n count,
                                              wbDue := Tab.set false s.host.wbDue n false } }
      if (s.ringReg n 0x10).getLsbD 1 then s.ringSignal n else s
    else s)

/-- MSIX_HOLDOFF_END (R352). -/
def execMsixHoldoffEnd (ring : Fin 8) (s : State) : Res :=
  .next (if Tab.get false s.host.holdPending ring.val then s.ringSignal ring.val else s)

/-- RING_ENABLE (R348, R353, R360): a host write of RING_CTLn. -/
def execRingEnable (ring : Fin 8) (value : BitVec 32) (s : State) : Res :=
  .next (if s.barOpen then s.writeCtl ring.val value else s)

/-- RING_TAIL_WRITE (R348, R350, R360). -/
def execRingTailWrite (ring : Fin 8) (value : BitVec 32) (s : State) : Res :=
  .next (if s.barOpen then s.writeTail ring.val value else s)

/-- BAR_ACCESS (R346, R357): writes that are discarded, reads that do not complete, and reads of plain registers and of BAR2. -/
def execBarAccess (access : BarAccess) (s : State) : Res :=
  .next (
    if ¬ s.barOpen then s
    else if access.write then
      if access.poisoned then s.emit .poisonedTlp
      else if access.bar2 ∨ ¬ s.accessOk access then s.badAccess else s
    else if ¬ s.accessOk access then s.badAccess.emit .unsupported
    else if access.bar2 then
      let r := s.bar2Read access
      r.2.emit (.barRead (r.1.map Prod.fst) (r.1.map Prod.snd))
    else match s.barData access with
      | some ws => s.emit (.barRead (ws.flatMap fun w => leBytes 4 w.toNat) (ws.flatMap fun _ => List.replicate 4 false))
      | none => s)

/-- REGISTER_WRITE (R16, R346): a 4 B or 8 B write to BAR0 registers without a command of their own. -/
def execRegisterWrite (offset : BitVec 16) (wide : Bool) (value : BitVec 64) (s : State) : Res :=
  .next (
    let off := offset.toNat
    let lo := BitVec.ofNat 32 value.toNat
    let hi := BitVec.ofNat 32 (value.toNat / 2 ^ 32)
    if ¬ s.barOpen ∨ off < 0x2000 then s
    else if off % (if wide then 8 else 4) ≠ 0 then s.badAccess
    else
      let s := s.writeReg off lo
      if wide then s.writeReg (off + 4) hi else s)

/-- APERTURE_READ (R324, R357, R358): `count` words of 4 B from a 4 B aligned offset of the aperture, at most the Max Payload Size. -/
def execApertureRead (offset : BitVec 23) (count : Nat) (upsets : List (BitVec 152)) (s : State) : Res :=
  .next (
    let off := offset.toNat
    if ¬ s.barOpen then s
    else if off % 4 ≠ 0 ∨ count = 0 ∨ s.maxPayload < 4 * count ∨ 0x800000 < off + 4 * count then s.badAccess.emit .unsupported
    else
      let r := s.apertureData off (4 * count) upsets
      r.2.emit (.barRead (r.1.map Prod.fst) (r.1.map Prod.snd)))

/-- The master time of a response for the instant at which the node received it: the time that it gives, with the propagation delay that it
reports added (R355; assumption 169). -/
def ptmMasterTime (r : PtmResponse) : BitVec 64 := r.time + r.delay.zeroExtend 64

/-- PTM_DIALOG (R355): a completed dialog forms a correspondence pair once the coarse time is loaded. -/
def execPtmDialog (master : PtmResponse) (fine : BitVec 13) (s : State) : Res :=
  .next (
    if s.barOpen ∧ s.host.control.ptm ∧ s.loaded then
      let s := { s with host := { s.host with ptmMaster := ptmMasterTime master, ptmStamp := mkStamp s.time.coarse fine } }
      (s.incWrap R.ptmSeq 1).msix 13
    else s)

end Sys2Proof.Machine
end

