-- ==== Sys2Proof/Machine/Mbox.lean ====
section
/-! DEFINITION. Mailboxes, doorbells and lock registers: MBOX_MSG_RX, DOORBELL_RX, the lock messages, MBOX_WRITE to LOCK_WRITE and
MAILBOX_READ (R361-R381). -/

namespace Sys2Proof.Machine

/-- A message is posted in mailbox `i` (R369, R373). -/
def State.postIn (s : State) (i : Nat) (stamp : W32) (from' : Option Nat) : State :=
  let bit : W32 := (1 <<< i : W32)
  let s := { s with mbox := { s.mbox with order := s.mbox.order ++ [i], inDoorbell := s.mbox.inDoorbell ||| bit,
                                          arrival := Tab.set none s.mbox.arrival i from' } }
  (s.setF (R.mboxState i) 1).setF (R.mboxStamp i) stamp.toNat

/-- A message is for this node: TARGET 0xFFF or its own NODE_ID. -/
def State.isHere (s : State) (m : CtlMsg) : Bool := m.target = 0xFFF || m.target = s.node.nodeId

/-- Firmware answers a message that it does not take, at once where it runs, and else as soon as it runs again (R373, R375, R377). -/
def State.refuse (s : State) (i : Nat) (stamp : W32) (bytes : List Byte) (status : Nat) : State :=
  let op := leAt bytes 0 2
  let tag := leAt bytes 2 2
  if s.fwRuns then s.replyTo i stamp op tag status []
  else { s with mbox := { s.mbox with owed := s.mbox.owed ++ [(i, stamp, op, tag, status)] } }

/-- MBOX_MSG_RX (R272, R287, R373, R375): accepted, or a collision that firmware answers BUSY; one whose TARGET names another node is
passed on, or answered NO_ROUTE. -/
def execMboxMsgRx (port : Fin 19) (s : State) : Res :=
  .next (
    match s.takeCtl port.val 0x01 with
    | none => s
    | some (m, s) =>
      let w := m.payload.headD 0
      let i := wget w 0 4
      let bytes := bytesAt (wordsBytes (m.payload.drop 1)) 0 (min 256 (wget w 4 9))
      if ¬ s.isHere m then
        match s.route m.target.toNat with
        | .port q => s.sendMsg q m
        | _ => s.refuse i m.stamp bytes 6
      else if s.getF (R.mboxState i) = 0 then
        let poison := (m.bad.filter fun j => 2 ≤ j && decide ((j - 2) * 8 < bytes.length)).map fun j => 0x10 * i + (j - 2) / 2
        (poison.foldl (fun (s : State) (a : Nat) => (s.drainFor 4 a).setRaw 4 a poisonCw) (s.putBytes 4 (0x100 * i) bytes)).postIn i m.stamp
          (some port.val)
      else
        let s := (s.inc R.mboxCollision).setF R.collideStamp m.stamp.toNat
        s.refuse i m.stamp bytes 1)

/-- A message whose TARGET names another node is passed on unchanged (R373, R375). -/
def State.passOn (s : State) (m : CtlMsg) : State :=
  match s.route m.target.toNat with
  | .port q => s.sendMsg q m
  | _ => s

/-- An ABORT bit is set, and firmware acts on it (R378). -/
def State.abortBit (s : State) (i : Nat) : State :=
  let bit : W32 := (1 <<< (16 + i) : W32)
  let st := s.getF (R.mboxState i)
  let s := { s with mbox := { s.mbox with inDoorbell := s.mbox.inDoorbell ||| bit } }
  if ¬ s.fwRuns then s
  else if st = 1 then (s.complete i).inc R.mboxAborted
  else if st = 0 then { s with mbox := { s.mbox with inDoorbell := s.mbox.inDoorbell &&& ~~~bit } }
  else s

/-- The next message of a type at a port is one that waits until firmware runs again: the node's own firmware is to act on it (R374, R376, R377). -/
def State.waitsForFw (s : State) (p : Nat) (t : BitVec 8) (f : CtlMsg → Bool) : Bool :=
  !s.fwRuns && match (s.port p).ctlIn.find? fun m => m.mtype = t with
    | some m => s.isHere m && f m
    | none => false

/-- OP of a DOORBELL is CLEARED. -/
def CtlMsg.isCleared (m : CtlMsg) : Bool := wget (m.payload.headD 0) 5 2 = 1

/-- DOORBELL_RX (R373, R374). -/
def execDoorbellRx (port : Fin 19) (s : State) : Res :=
  .next (
    if s.waitsForFw port.val 0x03 CtlMsg.isCleared then s
    else match s.takeCtl port.val 0x03 with
    | none => s
    | some (m, s) =>
      let bit := wget (m.payload.headD 0) 0 5
      let op := wget (m.payload.headD 0) 5 2
      if ¬ s.isHere m then s.passOn m
      else if op = 0 then (if bit < 16 then s.inc (R.protoErr port.val) else s.abortBit (bit - 16))
      else if op = 1 then s.hopCleared port.val bit
      else s)

/-- LOCK_READ_RX (R366, R373). -/
def execLockReadRx (port : Fin 19) (s : State) : Res :=
  .next (
    match s.takeCtl port.val 0x04 with
    | none => s
    | some (m, s) =>
      let i := wget (m.payload.headD 0) 0 4
      if ¬ s.isHere m then s.passOn m
      else
        let r := s.lockReadBy i m.stamp
        let s := r.2
        if m.target = 0xFFF then s.sendMsg port.val (lockMsg 0x06 0xFFF (s.portStamp port.val) i r.1)
        else
          let node := fget m.stamp 16 12
          match s.route node with
          | .port q => s.sendMsg q (lockMsg 0x06 (BitVec.ofNat 12 node) (s.portStamp q) i r.1)
          | _ => s)

/-- LOCK_WRITE_RX (R366, R373). -/
def execLockWriteRx (port : Fin 19) (s : State) : Res :=
  .next (
    match s.takeCtl port.val 0x05 with
    | none => s
    | some (m, s) =>
      let w := m.payload.headD 0
      if ¬ s.isHere m then s.passOn m else s.lockWriteBy (wget w 0 4) (BitVec.ofNat 32 (wget w 32 32)))

/-- LOCK_RESULT_RX (R368, R374). -/
def execLockResultRx (port : Fin 19) (s : State) : Res :=
  .next (
    if s.waitsForFw port.val 0x06 (fun _ => true) then s
    else match s.takeCtl port.val 0x06 with
    | none => s
    | some (m, s) =>
      let w := m.payload.headD 0
      if ¬ s.isHere m then s.passOn m else s.hopLockResult port.val (wget w 0 4) (BitVec.ofNat 32 (wget w 32 32)))

/-- A direct sender reaches the registers: the host through BAR0, firmware from LINKUP on. -/
def State.senderOk (s : State) (who : Sender) : Bool :=
  match who with
  | .host => s.barOpen
  | .ownFirmware => s.fwRuns

/-- MBOX_WRITE (R346, R361, R363, R369): a write to an inbound mailbox, of the host through BAR0 or of own firmware. -/
def execMboxWrite (mbox : Fin 16) (offset : Fin 256) (data : MboxData) (s : State) : Res :=
  .next (
    let n := data.bytes.length
    if ¬ s.senderOk data.who then s
    else if data.who = .host ∧ ¬ s.accessOk ⟨false, true, 0x100 * mbox.val + offset.val, n, false⟩ then s.badAccess
    else if 256 < offset.val + n then s
    else if s.getF (R.mboxState mbox.val) ≠ 0 then s.inc R.mboxCollision
    else s.putBytes 4 (0x100 * mbox.val + offset.val) data.bytes)

/-- MBOX_POST (R369). -/
def execMboxPost (mbox : Fin 16) (who : Sender) (s : State) : Res :=
  .next (
    if ¬ s.senderOk who then s
    else if s.mbox.inDoorbell.getLsbD mbox.val then s.inc R.mboxCollision
    else s.postIn mbox.val (s.senderStamp who) none)

/-- MBOX_ABORT (R378). -/
def execMboxAbort (mbox : Fin 16) (s : State) : Res := .next (if s.barOpen ∨ s.fwRuns then s.abortBit mbox.val else s)

/-- LOCK_READ (R366): the value goes to the reader. -/
def execLockRead (lock : Fin 16) (who : Sender) (s : State) : Res :=
  .next (
    if s.senderOk who then
      let r := s.lockReadBy lock.val (s.senderStamp who)
      r.2.emit (.lockValue r.1)
    else s)

/-- LOCK_WRITE (R366). -/
def execLockWrite (lock : Fin 16) (value : BitVec 32) (s : State) : Res :=
  .next (if s.barOpen ∨ s.fwRuns then s.lockWriteBy lock.val value else s)

/-- MAILBOX_READ (R324, R326, R363): a host read of a mailbox. -/
def execMailboxRead (outbound : Bool) (mbox : Fin 16) (offset : Fin 256) (length : Nat) (upsets : List (BitVec 152))
    (s : State) : Res :=
  .next (
    let a := (if outbound then 0x1000 else 0) + 0x100 * mbox.val + offset.val
    if ¬ s.barOpen then s
    else if ¬ s.accessOk ⟨false, false, a, length, false⟩ then s.badAccess.emit .unsupported
    else
      let n := (a + length + 15) / 16 - a / 16
      let r := State.readCws n (s.upsets 4 (a / 16) (upsets.take n)) 4 (a / 16)
      let bytes := ((r.1.flatMap apertureBytes).drop (a % 16)).take length
      r.2.emit (.barRead (bytes.map Prod.fst) (bytes.map Prod.snd)))

end Sys2Proof.Machine
end

