-- ==== Sys2Proof/Machine/LoopOps.lean ====
section
/-! DEFINITION. The loop engine: rescaling (R441), one evaluation of a loop (R442-R451), and which loops are due (R438). An exact
value is an integer in units of 2^(-160). -/

namespace Sys2Proof.Machine

/-! ## Numbers (R441) -/

/-- The value of mantissa `m` with exponent `e`. -/
def valOf (m : Int) (e : Nat) : Int := m * 2 ^ (e + 120)

/-- The mantissa and the exponent of a mantissa-and-exponent field (R454). -/
def fieldMant (f : Nat) : Int := signed 18 f
def fieldExp (f : Nat) : Nat := nget f 18 6
def fieldVal (f : Nat) : Int := valOf (fieldMant f) (fieldExp f)

/-- A coefficient times the value of mantissa `m` with exponent `e`, exactly. -/
def mulVal (f : Nat) (m : Int) (e : Nat) : Int := fieldMant f * m * 2 ^ (fieldExp f + e + 80)

/-- rs(v, E): the mantissa, and 1 where it saturated. -/
def rescale (v : Int) (e : Nat) : Int × Nat :=
  let m := roundEven v (2 ^ (e + 120))
  if 131071 < m then (131071, 1) else if m < -131072 then (-131072, 1) else (m, 0)

/-- A whole number, and a finite single, as exact values. -/
def intVal (v : Int) : Int := v * 2 ^ 160
def singleVal (w : W32) : Option Int :=
  match F32.decode w with
  | .fin n m e => some (F32.int n m e * 2 ^ 11)
  | _ => none

/-! ## Configuration of a loop -/

/-- The converter entry of a sequence is enabled and names an AUXIN input, or a sensor port (R419). -/
def State.entryAuxin (s : State) (conv e : Nat) : Bool := s.cfgF (C.entryEn conv e) = 1 && decide (s.cfgF (C.entrySrc conv e) < 16)
def State.entryPort (s : State) (conv e n : Nat) : Bool := s.cfgF (C.entryEn conv e) = 1 && s.cfgF (C.entrySrc conv e) = 16 + n

/-- The enabled entries that name a sensor port. -/
def State.portEntries (s : State) (n : Nat) : Nat :=
  ((List.range 32).filter fun k => s.entryPort (k / 16) (k % 16) n).length

/-- The source of a loop is one that R438 evaluates it from; in SAFE no sensor port is (R440). -/
def State.hasSource (s : State) (i : Nat) : Bool :=
  let sel := s.cfgF (C.measSel i)
  let kind := sel / 64
  let k := sel % 16
  if i < 8 then true
  else if kind < 2 then !(decide (16 ≤ i) && decide (i < 24)) && s.entryAuxin kind k
  else kind = 2 && decide (16 ≤ i) && decide (k < 8) && decide (0 < s.portEntries k) && s.node.state ≠ .safe

/-- The measurement of a loop as an exact value; none for a NaN or an infinity (R442). -/
def State.measure (s : State) (i : Nat) : Option Int :=
  let sel := s.cfgF (C.measSel i)
  let kind := sel / 64
  if i < 8 then some (intVal (signed 16 (s.getF (R.phaseErr i))))
  else if kind < 2 then some (intVal (signed 16 (s.getF (R.hkEntry kind (sel % 16)))))
  else singleVal (s.word (R.sxpResult (sel % 8)).off)

/-- The loop is enabled (R447). -/
def State.loopOn (s : State) (i : Nat) : Bool := s.getF (R.loopEnabled i) = 1

/-- The clamps in triplicated storage: LOW in [23:0], HIGH in [47:24] (R443). -/
def State.clampLow (s : State) (i : Nat) : Int := fieldVal (s.triBits (2 + i) 0 24)
def State.clampHigh (s : State) (i : Nat) : Int := fieldVal (s.triBits (2 + i) 24 24)

/-- What loops 16-31 add to the set-point of loop `i` (R442, R450). -/
def State.addFor (s : State) (i : Nat) : Int :=
  if i < 8 ∨ 16 ≤ i then 0
  else (s.pid (i + 8)).out + (((List.range 8).filter fun k => s.cfgF (C.dest (24 + k)) = i).map fun k => (s.pid (24 + k)).out).sum

/-! ## An evaluation -/

/-- The timebase loop of a region in HOLDOVER with REALIGN_NEEDED, its reference present and its offset measured (R449). -/
def State.loopHeld (s : State) (i : Nat) : Bool :=
  i < 8 && s.regionState i = 3 && s.getF (R.realign i) = 1 && s.refPresent && (s.region i).keptOffset.isSome

/-- TGT of a loop in E_ERR, and 1 where it saturated (R445). -/
def State.target (s : State) (i : Nat) : Int × Nat := rescale (fieldVal (s.cfgF (C.tgt i))) (s.cfgF (C.stageExp i 0))

/-- The offset that a timebase loop keeps, in E_ERR, and 1 where it saturated (R449); 0 while it keeps none. -/
def State.heldPoint (s : State) (i : Nat) : Int × Nat :=
  if s.loopHeld i then rescale (intVal ((s.region i).keptOffset.getD 0)) (s.cfgF (C.stageExp i 0)) else (0, 0)

/-- SP_CUR of an evaluation: a ramp starts at the measurement, then moves by RAMP_STEP (R445). Loops 0-7 have set-point 0, or the
offset they keep (R449). The answer's second part is the target. -/
def State.setPoint (s : State) (i : Nat) (mq : Int) : Int × Int :=
  if i < 8 then ((s.heldPoint i).1, (s.heldPoint i).1)
  else
    let tgt := (s.target i).1
    let step : Int := s.cfgF (C.rampStep i)
    let cur := if (s.pid i).ramp then mq else (s.pid i).sp
    let new := if step = 0 then tgt else if cur < tgt then min tgt (cur + step) else max tgt (cur - step)
    (new, tgt)

/-- 10 ppm (R70, R449). -/
def tenPpm : Int := intVal 10

/-- Telemetry words of an evaluation (R451): the mantissas of the six stages. -/
def State.telemeter (s : State) (i : Nat) (ms : List Int) (clamped ramping : Bool) : State :=
  let div := s.cfgF (C.telemDiv i)
  if div = 0 ∨ (s.pid i).evals % div ≠ 0 then s
  else
    let seq := s.getF (R.evals i)
    (ms.zipIdx).foldl (fun (s : State) (e : Int × Nat) =>
      if 64 ≤ s.loop.telFifo.length then s.inc R.telemLost
      else
        let w := telemetryWord s i e.2 clamped ramping (s.cfgF (C.stageExp i e.2)) e.1 seq
        { s with loop := { s.loop with telFifo := s.loop.telFifo ++ [(w, s.ticks)] } }) s

/-- The code that a loop of 8-15 drives (R450). -/
def biasCodeOf (o : Int) : BitVec 16 := BitVec.ofNat 16 (min 65535 (max 0 (roundEven o (2 ^ 160)))).toNat

/-- The ring trim of a region follows its loop (R449). -/
def State.takeTrim (s : State) (r : Nat) (o : Int) : State :=
  let g := s.region r
  s.setRegion r { g with prevTrim := g.lastTrim, lastTrim := o }

/-- The trim that the ring of region `r` applies, in 1/256 ppm (R449). Its rounding takes ties to even, as R441's does (assumption 174). -/
def State.ringTrim (s : State) (r : Nat) : Int := roundEven (s.region r).lastTrim (2 ^ 152)

/-- `n` saturations of a loop set SAT_EVENT and its SAT bit (R441). -/
def State.noteSat (s : State) (i n : Nat) : State :=
  if n = 0 then s else ((List.range n).foldl (fun (s : State) _ => s.setFlag R.satEvent) s).setF (R.outSat i) 1

/-- MANT and EXP of LOOP_OUTi and LOOP_SPi (R453). -/
def State.showLoop (s : State) (i : Nat) (out sp : Int) : State :=
  (((s.setF (R.outMant i) (unsigned 18 out)).setF (R.outExp i) (s.cfgF (C.stageExp i 5))).setF (R.spMant i) (unsigned 18 sp)).setF
    (R.spExp i) (s.cfgF (C.stageExp i 0))

/-- One evaluation of loop `i` with measurement `v` (R442). -/
def State.evalWith (s : State) (i : Nat) (v : Int) : State :=
  let l := s.pid i
  let ex (k : Nat) : Nat := s.cfgF (C.stageExp i k)
  let mq := rescale v (ex 0)
  let start : Int := if i < 8 then (s.region i).frozenTrim else l.out
  let i0 : Int × Nat := if l.bumpless then rescale start (ex 2) else (l.i, 0)
  let prev : Int := if l.bumpless then mq.1 else l.mqPrev.getD mq.1
  let sp := s.setPoint i mq.1
  let e := rescale (valOf sp.1 (ex 0) + s.addFor i - valOf mq.1 (ex 0)) (ex 0)
  let p := rescale (mulVal (s.cfgF (C.kp i)) e.1 (ex 0)) (ex 1)
  let d := rescale (mulVal (s.cfgF (C.kd i)) (prev - mq.1) (ex 0)) (ex 3)
  let ki := mulVal (s.cfgF (C.ki i)) e.1 (ex 0)
  let ic := rescale (valOf i0.1 (ex 2) + ki) (ex 2)
  let sum := rescale (valOf p.1 (ex 1) + valOf ic.1 (ex 2) + valOf d.1 (ex 3)) (ex 4)
  let u := rescale (valOf sum.1 (ex 4)) (ex 5)
  let uv := valOf u.1 (ex 5)
  let o1 := min (s.clampHigh i) (max (s.clampLow i) uv)
  let slew : Bool := i < 8 ∧ s.regionState i = 4
  let iv := valOf i0.1 (ex 2)
  let o := if slew then min (s.clampHigh i) (max (s.clampLow i) (min (iv + tenPpm) (max (iv - tenPpm) o1))) else o1
  let keep : Bool := (o < uv ∧ 0 < ki) ∨ (uv < o ∧ ki < 0)
  let out := rescale o (ex 5)
  let clamped : Bool := o1 ≠ uv
  let ramping : Bool := sp.1 ≠ sp.2
  let held := if i < 8 then (s.heldPoint i).2 else 0
  let sats := mq.2 + i0.2 + held + e.2 + p.2 + d.2 + ic.2 + sum.2 + u.2 + out.2
  let inow := if keep then i0.1 else ic.1
  let s := s.setPid i { l with i := inow, mqPrev := some mq.1, sp := sp.1, ramp := false, bumpless := false, out := o,
                               evals := l.evals + 1 }
  let s := s.incWrap (R.evals i) 1
  let s := (s.setF (R.outSat i) 0).noteSat i sats
  let s := ((s.showLoop i out.1 sp.1).setF (R.outClamped i) (boolNat clamped)).setF (R.outRamping i) (boolNat ramping)
  let s := s.setF (R.loopClamped i) (boolNat clamped)
  let s := if i < 8 then s.takeTrim i o else s
  let s := if 8 ≤ i ∧ i < 16 then
      { s with loop := { s.loop with biasCode := Tab.set 0 s.loop.biasCode (i - 8) (biasCodeOf o) } }
    else s
  s.telemeter i [e.1, p.1, inow, d.1, sum.1, out.1] clamped ramping

/-- One evaluation of loop `i`; a measurement that is no number skips it (R442). -/
def State.evalLoop (s : State) (i : Nat) : State :=
  match s.measure i with
  | some v => s.evalWith i v
  | none => s.inc (R.skipped i)

/-! ## The pass (R438, R439) -/

/-- A loop other than an outer one is due. -/
def State.loopDue (s : State) (i : Nat) : Bool :=
  if i < 8 then s.regionState i = 1 || s.regionState i = 2 || s.regionState i = 4 || s.loopHeld i
  else s.loopOn i && s.hasSource i && (s.pid i).due

/-- An outer loop runs with every OUTER_DIV-th evaluation of its inner loop (R438, R450). -/
def State.outerDue (s : State) (i : Nat) : Bool :=
  s.loopOn i && s.hasSource i && s.loopDue (i - 8) &&
    decide (((s.pid (i - 8)).evals + 1) % max 1 (s.cfgF (C.outerDiv i)) = 0)

/-- The loops that a pass evaluates, in its order. -/
def State.dueLoops (s : State) : List Nat :=
  (List.range 8).filter s.loopDue ++ ((List.range 8).map (· + 16)).filter s.outerDue ++
    ((List.range 8).map (· + 24)).filter s.loopDue ++ ((List.range 8).map (· + 8)).filter s.loopDue

/-- A pass of the engine. -/
def State.loopPass (s : State) : State :=
  let s := s.dueLoops.foldl (fun s i => s.evalLoop i) s
  let loops : Tab Loop := s.loop.loops.map fun (e : Nat × Loop) => (e.1, { e.2 with due := false })
  { s with loop := { s.loop with loops := loops.filter fun e => e.2 ≠ ({} : Loop) } }

/-- Every loop whose source is `kind` and `k` has a new result (R438). -/
def State.newResult (s : State) (kind k : Nat) : State :=
  (List.range 24).foldl (fun s j =>
    let i := 8 + j
    let sel := s.cfgF (C.measSel i)
    if sel / 64 = kind ∧ sel % 16 = k then s.setPid i { s.pid i with due := true } else s) s

/-- A loop of 8-31 starts: bumpless transfer and ramp (R445, R447). -/
def State.startLoop (s : State) (i : Nat) : State :=
  (s.setF (R.loopEnabled i) 1).setPid i { s.pid i with bumpless := true, ramp := true }

/-- What loop `i` shows after a commit: its output and SP_CUR at its new exponents, with the saturations of these and of its target (R441,
R453). -/
def State.commitShow (s : State) (i sats : Nat) : State :=
  let out := rescale (s.pid i).out (s.cfgF (C.stageExp i 5))
  (s.noteSat i (sats + out.2)).showLoop i out.1 (s.pid i).sp

/-- The loops at a commit (R440, R443, R445, R447, R450): clamps, exponents and targets of the image; outputs that feed others are
0; each BIASCTL output stands at BIAS_INIT; loops 0-7 keep their state, I and the last measurement at the same value. -/
def State.commitLoops (s : State) (old : Nat → Nat → Nat) : State :=
  let s := (List.range 32).foldl (fun s i => s.setTri (2 + i)
    (BitVec.ofNat 80 (s.cfgF (C.clampLo i) + s.cfgF (C.clampHi i) * 2 ^ 24))) s
  let s := (List.range 8).foldl (fun (s : State) (i : Nat) =>
    let l := s.pid i
    let mq := l.mqPrev.map fun m => rescale (valOf m (old i 0)) (s.cfgF (C.stageExp i 0))
    let int := rescale (valOf l.i (old i 2)) (s.cfgF (C.stageExp i 2))
    let sp := rescale (valOf l.sp (old i 0)) (s.cfgF (C.stageExp i 0))
    let s := s.setPid i { l with i := int.1, mqPrev := mq.map Prod.fst, sp := sp.1, evals := 0 }
    s.commitShow i (int.2 + sp.2 + (mq.map Prod.snd).getD 0)) s
  let s := (List.range 24).foldl (fun (s : State) (j : Nat) =>
    let i := 8 + j
    let bias := s.cfgF (C.biasInit (i - 8))
    let out : Int := if i < 16 then intVal bias else 0
    let s := (s.setPid i { out := out }).commitShow i (s.target i).2
    if s.cfgF (C.loopEn i) = 1 then s.startLoop i else s.setF (R.loopEnabled i) 0) s
  let codes : Tab (BitVec 16) := (List.range 8).foldl (fun t n => Tab.set 0 t n (BitVec.ofNat 16 (s.cfgF (C.biasInit n)))) []
  { s with loop := { s.loop with biasCode := codes } }

end Sys2Proof.Machine
end

