-- ==== Sys2Proof/Machine/HkOps.lean ====
section
/-! DEFINITION. Operations of housekeeping, sensor ports and interlock outputs: the steps of a pass (R418-R420), the reference
comparison (R421), the conversion (R425-R427) and the encoding of a result (R431). -/

namespace Sys2Proof.Machine

/-! ## Passes -/

/-- The bit pattern of a 16-bit code. -/
def codeInt (c : BitVec 16) : Int := c.toInt

/-- A code is the converter's lowest or highest (R170). -/
def clipped (c : BitVec 16) : Bool := c = 0x8000 || c = 0x7FFF

/-- Steps of a pass by number: 0 the shared reference channel, 1 + m monitor m, 17 + e sequence entry e (R418). -/
def State.stepEnabled (s : State) (conv k : Nat) : Bool :=
  if k = 0 then true
  else if k < 17 then s.cfgF C.privConv = conv && s.cfgF C.privMask / 2 ^ (k - 1) % 2 = 1
  else
    let e := k - 17
    let src := s.cfgF (C.entrySrc conv e)
    s.operating && s.cfgF (C.entryEn conv e) = 1 && decide (src < 24) && (decide (src < 16) || s.node.state ≠ .safe)

/-- The step that a converter takes next in its pass, none at its end. -/
def State.nextStep (s : State) (conv : Nat) : Option Nat :=
  let v := s.conv conv
  if ¬ v.started then none else ((List.range 33).filter fun k => v.lastStep ≤ k).find? (s.stepEnabled conv)

/-- A step of the pass is taken: `lastStep` names the first step that may follow. -/
def State.stepTaken (s : State) (conv k : Nat) : State := s.setConv conv { s.conv conv with lastStep := k + 1 }

/-- A diagnostic phase of a port of this converter is to follow its conversion at once (R424). -/
def State.diagOwed (s : State) (conv : Nat) : Bool :=
  (List.range 16).any fun e => s.stepEnabled conv (17 + e) && decide (16 ≤ s.cfgF (C.entrySrc conv e)) &&
    (s.sxp (s.cfgF (C.entrySrc conv e) - 16)).diagDue

/-- A word enters the housekeeping FIFO, or is lost where it is full (R434, R435); before CONFIGURED none enters (R417). -/
def State.putHk (s : State) (w : Word) : State :=
  if ¬ s.operating then s
  else if 64 ≤ s.hk.fifo.length then s.inc R.hkWordLost
  else { s with hk := { s.hk with fifo := s.hk.fifo ++ [(w, s.ticks)] } }

/-- The flag bits [40:36] of a word (R170). -/
def State.hkFlags (s : State) (conv : Nat) (suspect wire clip : Bool) : Nat :=
  boolNat (s.conv conv).low + 2 * boolNat clip + 4 * boolNat wire + 8 * boolNat suspect + 16 * s.getF R.plausState

/-- The shared reference is sampled and compared with the other converter's latest code (R421). -/
def State.takeReference (s : State) (conv : Nat) (code : BitVec 16) : State :=
  let s := (s.setF (R.ref conv) code.toNat).setConv conv { s.conv conv with refTaken := true }
  if ¬ (s.conv (1 - conv)).refTaken then s
  else
    let other := signed 16 (s.getF (R.ref (1 - conv)))
    if s.cfgF C.plausTol < (codeInt code - other).natAbs then (s.setF R.plausState 1).setFlag R.plausibility
    else s.setF R.plausState 0

/-- No reference sample counts for a comparison until both converters have taken a new one (R421). -/
def State.forgetRefs (s : State) : State :=
  (s.setConv 0 { s.conv 0 with refTaken := false }).setConv 1 { s.conv 1 with refTaken := false }

/-- A continuity chain is measured (R420). -/
def State.takeChain (s : State) (c : Nat) (code : BitVec 16) : State :=
  let s := s.setF (R.chain c) code.toNat
  if 3200 ≤ codeInt code then (s.setF (R.chainOpen c) 1).setFlag R.chainOpenEvent else s.setF (R.chainOpen c) 0

/-- The largest excursion of a region's temperature since it entered hold-over (R69). -/
def State.takeTemp (s : State) (r : Nat) (code : BitVec 16) : State :=
  let g := s.region r
  if s.regionState r = 3 ∨ s.regionState r = 4 then
    s.setRegion r { g with dtMax := max g.dtMax (codeInt code - g.tempEntry).natAbs }
  else s

/-- A privileged monitor is sampled (R420, R465): its register, the chain or the temperature it stands for, and its word. -/
def State.takeMonitor (s : State) (conv m : Nat) (code : BitVec 16) : State :=
  let s := s.setF (R.mon m) code.toNat
  let p := (s.hk.privPass - 1) % 8
  let s := if m = 14 then s.takeChain p code else if m = 15 then s.takeChain (8 + p) code
           else if 5 ≤ m ∧ m < 13 then s.takeTemp (m - 5) code else s
  let s := s.putHk (hkWord s 2 m (s.hkFlags conv false false (clipped code)) (unsigned 32 (codeInt code)))
  if 5 ≤ m ∧ m ≤ 13 ∧ 16000 < codeInt code then s.enterSafe 3 else s

/-- An AUXIN entry is sampled. -/
def State.takeAuxin (s : State) (conv e : Nat) (code : BitVec 16) : State :=
  let s := (s.setF (R.hkEntry conv e) code.toNat).newResult conv e
  s.putHk (hkWord s conv e (s.hkFlags conv false false (clipped code)) (unsigned 32 (codeInt code)))

/-! ## Sensor ports -/

/-- x of R425. -/
def ratioOf (c : SxpCodes) : W32 :=
  fdiv (fofInt (codeInt c.sigPlus - codeInt c.sigMinus)) (fofInt (codeInt c.sensePlus - codeInt c.senseMinus))

/-- The conversion is flagged OPEN_SUSPECT (R425), and CLIPPED. -/
def anyClipped (c : SxpCodes) : Bool := clipped c.sigPlus || clipped c.sensePlus || clipped c.sigMinus || clipped c.senseMinus
def suspectOf (min : Nat) (c : SxpCodes) : Bool :=
  decide ((codeInt c.sensePlus - codeInt c.senseMinus).natAbs < min) || anyClipped c

/-- Coefficient ak of a port. -/
def State.coefOf (s : State) (n k : Nat) : W32 := BitVec.ofNat 32 (s.cfgF (C.coef n k))

/-- y of R426, in its order of operations. -/
def State.polynomial (s : State) (n : Nat) (x t : W32) : W32 :=
  let a (k : Nat) : W32 := s.coefOf n k
  let row (j : Nat) : W32 := fadd (fmul (fadd (fmul (fadd (fmul (a (j + 3)) x) (a (j + 2))) x) (a (j + 1))) x) (a j)
  fadd (fmul (fadd (fmul (row 8) t) (row 4)) t) (row 0)

/-- T of a port (R427). -/
def State.sourceT (s : State) (n : Nat) : W32 :=
  let src := s.cfgF (C.tSrc n)
  if src = 0 then 0 else s.word (R.sxpResult (src - 1)).off

/-- t of a result, in units of 2^(-149); none where single precision gives no number, both differences being infinite (R431). -/
def ilkT (y lo hi : W32) : Option Int :=
  match F32.decode (fdiv (fsub y lo) (fsub hi lo)) with
  | .fin n m e => some (F32.int n m e)
  | _ => none

/-- Period and high time of a value in an ILK_MODE (R431). -/
def ilkValue (mode : Nat) (t : Int) : Nat × Nat :=
  if mode = 1 then (160000, (4000 + roundEven (152000 * t) (2 ^ 149)).toNat)
  else
    let period := (roundEven (160000000 * 2 ^ 149) (1000 * 2 ^ 149 + 9000 * t).toNat).toNat
    (period, period / 2)

/-- A result of a port drives its output (R431-R433). With ILK_LO at or above ILK_HI the result is unpredictable: either fault (R18).
A t that is no number has a free output, the spec stating none. -/
def State.driveIlk (s : State) (n : Nat) (y : W32) : State :=
  let mode := s.cfgF (C.ilkMode n)
  let lo := BitVec.ofNat 32 (s.cfgF (C.ilkLo n))
  let hi := BitVec.ofNat 32 (s.cfgF (C.ilkHi n))
  if mode ≠ 1 ∧ mode ≠ 2 then s
  else if ¬ flt lo hi then s.drawn.setIlk n (3 + s.fresh.toNat % 2)
  else if flt y lo then s.setIlk n 3
  else if flt hi y then s.setIlk n 4
  else match ilkT y lo hi with
    | some t => s.setSxp n { s.sxp n with next := some (ilkValue mode t) }
    | none =>
      let free := s.fresh.toNat
      let s := s.drawn
      s.setSxp n { s.sxp n with next := some (if mode = 1 then (160000, free) else (free, free / 2)) }

/-- A conversion's outcome reaches the word, the registers and the output (R425, R426, R429). -/
def State.takeConversion (s : State) (conv n : Nat) (codes : SxpCodes) : State :=
  let clip := anyClipped codes
  let suspect := suspectOf (s.cfgF (C.senseMin n)) codes
  let wire : Bool := s.getF (R.openWire n) = 1
  let y := s.polynomial n (ratioOf codes) (s.sourceT n)
  let plaus : Bool := s.getF R.plausState = 1
  let none' : Bool := suspect || wire || !ffinite y
  let w := hkWord s 3 n (s.hkFlags conv suspect wire clip) (if none' then qNaN else y).toNat
  let s := s.setF (R.openSuspect n) (boolNat suspect)
  let s := if suspect then s.inc (R.openSuspectCnt n) else s
  let s :=
    if wire ∨ suspect then s
    else if ¬ ffinite y ∨ plaus then s.setIlk n 5
    else ((s.setWord (R.sxpResult n).off y).newResult 2 n).driveIlk n y
  s.putHk w

/-- Open leads of a diagnostic phase: more than 1.0 V in magnitude, 16,000 codes (R428). -/
def openLeadsOf (l : SxpLeads) : Nat :=
  (([l.excP, l.excM, l.senseP, l.senseM, l.sigP, l.sigM].map fun c => decide (16000 < (codeInt c).natAbs)).zipIdx).foldl
    (fun a e => if e.1 then a + 2 ^ e.2 else a) 0

/-! ## The commit (R417, R421, R422, R424, R430) -/

/-- Passes end, an entry that is no AUXIN entry reads 0x0000 (R436), conversions count anew, and each output takes NOT_READY, or keeps what it shows where the node was already
CONFIGURED. -/
def State.commitSensors (s : State) (first : Bool) : State :=
  let restart (v : Conv) : Conv := { v with started := false, refTaken := false }
  let s := (s.setConv 0 (restart (s.conv 0))).setConv 1 (restart (s.conv 1))
  let s := { s with hk := { s.hk with lowNext := s.cfgF C.hkLowPower = 1 } }
  let s := (List.range 32).foldl (fun (s : State) (e : Nat) =>
    if s.entryAuxin (e / 16) (e % 16) then s else s.setF (R.hkEntry (e / 16) (e % 16)) 0) s
  (List.range 8).foldl (fun (s : State) (n : Nat) =>
    let s := s.setSxp n { s.sxp n with conv := 0, diagDue := false }
    let driven : Bool := s.cfgF (C.ilkMode n) = 1 ∨ s.cfgF (C.ilkMode n) = 2
    if driven && !first && s.getF (R.ilkCode n) ≠ 7 then s else s.setIlk n 1) s

end Sys2Proof.Machine
end

