-- ==== Sys2Proof/Machine/FwOps.lean ====
section
/-! DEFINITION. Operations of the firmware: the opcodes (R386), image transfers (R396-R399), host-buffer reads and their
forwarding (R344, R398), directory images (R226, R473) and the sections of a configuration image (R470-R473, R475). -/

namespace Sys2Proof.Machine

/-- The opcodes of the command tables (R393-R412). -/
def knownOpcode (op : Nat) : Bool :=
  [0x100, 0x101, 0x102, 0x200, 0x201, 0x202, 0x203, 0x300, 0x301, 0x302, 0x303, 0x304, 0x305, 0x400, 0x401, 0x402, 0x403,
   0x500, 0x501, 0x502, 0x503, 0x504, 0x505, 0x600, 0x601, 0x602, 0x603, 0x604, 0x605, 0x606, 0x700, 0x701, 0x702,
   0x800, 0x801, 0x802, 0x803, 0x804, 0x900, 0x901, 0xA00, 0xA01, 0xA02].contains op ||
  ([0x1F0, 0x3F0, 0x4F0, 0x5F0, 0x6F0, 0x7F0, 0x8F0, 0x9F0].contains (op / 2 * 2))

/-- The CLASS of a stamp (R364). -/
def stampClass (w : W32) : Nat := fget w 28 4

/-- Stamps that differ only in INCARNATION, or in the reserved bits, are the same sender (R364, R397). -/
def sameSender (a b : W32) : Bool := a &&& 0xFFFFF000 = b &&& 0xFFFFF000

/-! ## Waits -/

def State.setWaits (s : State) (l : List (Msg × FwWait)) : State := { s with fw := { s.fw with waits := l } }
def State.addWait (s : State) (m : Msg) (w : FwWait) : State := s.setWaits (s.fw.waits ++ [(m, w)])

/-- A wait that lets firmware take further messages (R388). -/
def FwWait.releases : FwWait → Bool
  | .hostRead .. | .bistIdle => true
  | _ => false

/-- The message in a mailbox that waits for a host read, with what has come of it. -/
def State.hostWait (s : State) (mbox : Nat) : Option (Msg × Nat × List Byte × List (Nat × Nat)) :=
  s.fw.waits.findSome? fun e => match e.2 with
    | .hostRead got rest reqs => if e.1.mbox = mbox then some (e.1, got, rest, reqs) else none
    | _ => none

/-- What a message waits for, in its place among the waits; and the wait that ends. -/
def State.putWait (s : State) (m : Msg) (w : FwWait) : State :=
  if s.fw.waits.any fun e => e.1 = m then s.setWaits (s.fw.waits.map fun e => if e.1 = m then (m, w) else e) else s.addWait m w
def State.dropWait (s : State) (m : Msg) : State := s.setWaits (s.fw.waits.filter fun e => e.1 ≠ m)

/-- The mailbox of the message whose read request has been out for longest (R344). -/
def State.oldestRead (s : State) : Option Nat :=
  ((s.fw.waits.filterMap fun e => match e.2 with | .hostRead _ _ (r :: _) => some (e.1.mbox, r.2) | _ => none).foldl
    (fun (b : Option (Nat × Nat)) x => match b with | some y => if x.2 < y.2 then some x else some y | none => some x) none).map
    Prod.fst

/-- The message that waits for a given event, with the other waits. -/
def State.takeWait (s : State) (w : FwWait) : Option (Msg × State) :=
  (s.fw.waits.find? fun e => e.2 = w).map fun e => (e.1, s.setWaits (s.fw.waits.erase e))

/-! ## Host buffers (R344, R398) -/

/-- The fields of a chunk's argument (R396). -/
def Msg.hostForm (m : Msg) : Bool := m.byte 0 % 2 = 1
def Msg.isFirst (m : Msg) : Bool := m.byte 0 / 2 % 2 = 1
def Msg.isLast (m : Msg) : Bool := m.byte 0 / 4 % 2 = 1
def Msg.bytesField (m : Msg) : Nat := m.field 4 4
def Msg.addrField (m : Msg) : Nat := m.field 8 8

/-- BYTES as the node takes it: 1 to 224 inline, 1 to 0xFFFF_FFFF of a host buffer (R18, R396). -/
def State.legalBytes (s : State) (m : Msg) : Nat := s.legal 0 1 (if m.hostForm then 0xFFFFFFFF else 224) m.bytesField

/-- The chunk with that BYTES. -/
def State.legalChunk (s : State) (m : Msg) : Msg :=
  { m with args := m.args.take 4 ++ leBytes 4 (s.legalBytes m) ++ m.args.drop 8 }

/-- Read requests for the buffer of `m` leave, the next from byte `at'` on: none crosses 4 KiB or exceeds the Max Read Request Size (R344).
The first argument says how many may. Each stands with the tick in which it leaves. -/
def State.requestHost : Nat → State → Msg → Nat → List (Nat × Nat) → List (Nat × Nat) × State
  | 0, s, _, _, reqs => (reqs, s)
  | k + 1, s, m, at', reqs =>
    let a := m.addrField + at'
    let n := min (min (m.bytesField - at') s.maxReadRequest) (4096 - a % 4096)
    if n = 0 then (reqs, s) else State.requestHost k (s.emit (.hostRead a n)) m (at' + n) (reqs ++ [(n, s.ticks)])

/-- A message waits for its host buffer: up to 256 requests are out for an image that the root decodes itself, one for a stream that it
forwards (R342, R344, R398; assumption 88). -/
def State.awaitHost (s : State) (m : Msg) (got : Nat) (rest : List Byte) (reqs : List (Nat × Nat)) : State :=
  let most := match s.route m.target.toNat with | .own => pcieFunction.outstandingReads | _ => 1
  let r := State.requestHost (most - reqs.length) s m (got + (reqs.map Prod.fst).sum) reqs
  r.2.putWait m (.hostRead got rest r.1)
def State.startHostRead (s : State) (m : Msg) : State := s.awaitHost m 0 [] []

/-- The requests that `n` bytes leave unanswered. -/
def requestsLeft : Nat → List (Nat × Nat) → List (Nat × Nat)
  | _, [] => []
  | n, k :: l => if n < k.1 then (k.1 - n, k.2) :: l else requestsLeft (n - k.1) l

/-- The bytes of an inline chunk of a forwarded stream (R382, R396, R398): stream offset `at'`, FIRST and LAST, QUIET on all but the
last. -/
def chunkBytes (m : Msg) (at' : Nat) (first last quiet : Bool) (data : List Byte) : List Byte :=
  leBytes 8 (m.opcode.toNat + m.tag.toNat * 2 ^ 16 + (16 + data.length) * 2 ^ 32 + m.target.toNat * 2 ^ 48 +
    boolNat quiet * 2 ^ 60) ++
  leBytes 4 (m.byte 0 / 8 * 8 + boolNat first * 2 + boolNat last * 4) ++ leBytes 4 data.length ++ leBytes 8 at' ++ data

/-- Chunks of 224 bytes forwarded as hops of the same mailbox; `got` counts the bytes forwarded, and `total` the whole stream. The
first argument bounds their number. -/
def State.forwardChunks : Nat → State → Msg → Nat → Nat → List Byte → Nat × List Byte × State
  | 0, s, _, got, _, rest => (got, rest, s)
  | n + 1, s, m, got, total, rest =>
    let k := min 224 (total - got)
    if k = 0 ∨ rest.length < k then (got, rest, s)
    else
      let last : Bool := got + k = total
      let bytes := chunkBytes m got (m.isFirst && got = 0) (last && m.isLast) (!last || m.quiet) (rest.take k)
      let s := match s.route m.target.toNat with
        | .port p => s.startHop { mbox := m.mbox, port := p, stamp := m.stamp, bytes := bytes, fin := last }
        | _ => s
      State.forwardChunks n s m (got + k) total (rest.drop k)

/-! ## Directory images (R226) -/

/-- What the words of directory images hold so far: the entries with their index, the ranges of the images that end in them, a
fault, a COUNT of 0, which lies outside its documented range, and whether the words end between two images. -/
structure DirScan where
  entries : List (Nat × Word) := []
  good : List (Nat × Nat) := []
  bad : Bool := false
  odd : Bool := false
  whole : Bool := true
  deriving DecidableEq, Repr

/-- The images at the front of a list of words, for a directory of `limit` entries. The first argument bounds their number. -/
def scanDir : Nat → Nat → List Word → DirScan
  | 0, _, _ => {}
  | n + 1, limit, ws =>
    match ws with
    | [] => {}
    | [_] => { whole := false }
    | h :: k :: rest =>
      let first := wget h 0 21
      let count := wget h 21 22
      if wget h 43 21 ≠ 0 ∨ wget k 32 32 ≠ 0 ∨ limit < first + count then { bad := true, whole := false }
      else if count = 0 then { scanDir n limit rest with odd := true }
      else
        let body := rest.take count
        let es : List (Nat × Word) := body.zipIdx.map fun e => (first + e.2, e.1)
        if body.length < count then { entries := es, whole := false }
        else if (crcWords body).toNat ≠ wget k 0 32 then { entries := es, bad := true, whole := false }
        else
          let t := scanDir n limit (rest.drop count)
          { t with entries := es ++ t.entries, good := (first, count) :: t.good }

/-- The whole words at the front of a list of bytes. -/
def wholeWords (l : List Byte) : List Word := bytesWords (l.take (l.length / 8 * 8))

/-- The scan of decoded bytes; a part of a word at the end leaves it within an image. -/
def scanBytes (limit : Nat) (l : List Byte) : DirScan :=
  let d := scanDir (l.length / 8 + 1) limit (wholeWords l)
  { d with whole := d.whole && l.length % 8 = 0 }

/-- An entry of a bank written (R218, R337). -/
def State.writeEntry (s : State) (bankB : Bool) (i : Nat) (w : Word) : State :=
  s.writeHalf 1 (dirAddr bankB i) (i % 2) w

/-- The entries of images beyond the first `taken` written in a bank. -/
def State.writeEntries (s : State) (bankB : Bool) (taken : Nat) (es : List (Nat × Word)) : State :=
  (es.drop taken).foldl (fun (s : State) (e : Nat × Word) => s.writeEntry bankB e.1 e.2) s

/-- The bank that is the shadow: true for bank B. -/
def State.shadowB (s : State) : Bool := s.getF R.dirActive = 0

/-! ## Configuration images (R470-R473, R475) -/

/-- A section as the walk finds it: its SECTION_ID, where its header stands, and its LENGTH; `cut` where it would reach beyond
the image. -/
structure Sect where
  id : Nat
  pos : Nat
  len : Nat
  cut : Bool
  deriving DecidableEq, Repr

/-- The walk over an image of `total` bytes from `pos` on. The first argument bounds the sections. -/
def walkSections : Nat → List Byte → Nat → Nat → List Sect
  | 0, _, _, _ => []
  | n + 1, b, total, pos =>
    if total < pos + 8 then []
    else
      let len := leAt b (pos + 4) 4
      let cut : Bool := total < pos + 8 + len + 4
      let x : Sect := ⟨leAt b pos 1, pos, len, cut⟩
      if cut then [x] else x :: walkSections n b total (pos + 12 + len)

/-- The sections of an image. -/
def sectionsOf (b : List Byte) (total : Nat) : List Sect := walkSections (total / 12 + 1) b total 16

/-- Where the walk ends: past its last section. -/
def walkEnd (l : List Sect) : Nat := match l.getLast? with | some x => x.pos + 12 + x.len | none => 16

/-- Bytes of the fixed part of a section (R472). -/
def fixedPart (id : Nat) : Nat := [0, 80, 8736, 4 + 128 * 1164, 12 + 19 * 4, 32 * 32 + 8 * 4, 4 + 32 * 4 + 8 * 64, 4].getD id 0

/-- The body of a section. -/
def sectBody (b : List Byte) (x : Sect) : List Byte := bytesAt b (x.pos + 8) x.len

/-- The first section 7 of a decoded image, from its bytes so far: where its directory images begin and end, and
DIR_SLOT_COUNT. -/
def section7 (b : List Byte) : Option (Nat × Nat × Nat) :=
  let l := walkSections (b.length / 12 + 1) b (2 ^ 40) 16
  match l.find? fun x => x.id = 7 with
  | some x =>
    if b.length < x.pos + 12 ∨ x.len ≤ 8 then none
    else some (x.pos + 16, x.pos + 8 + x.len, nget (leAt b (x.pos + 8) 4) 10 11)
  | none => none

/-- The directory images of section 7 that have come so far, and whether their part of the body is complete. -/
def section7Images (b : List Byte) : Option (DirScan × Bool) :=
  (section7 b).bind fun e =>
    if b.length ≤ e.1 then none
    else
      let part := (b.drop e.1).take (e.2.1 - e.1)
      some (scanBytes (e.2.2 * 2048) part, decide (e.2.1 ≤ b.length))

/-- Bytes of an image that are staged: those that are not directory images (R400). -/
def stagedBytes (b : List Byte) : Nat :=
  match section7 b with
  | some e => b.length - (min b.length e.2.1 - min b.length e.1)
  | none => b.length

/-! ## Image transfers (R396-R399) -/

/-- The kinds of image. -/
inductive ImageKind where
  | cfg | dir | patch
  deriving DecidableEq, Repr

/-- The opcodes that carry images. -/
def isImageOp (m : Msg) : Bool := m.opcode = 0x200 || m.opcode = 0x501 || m.opcode = 0xA00

def imageKind (opcode : BitVec 16) : ImageKind := if opcode = 0x200 then .cfg else if opcode = 0x501 then .dir else .patch

def State.xfer (s : State) : ImageKind → Option Xfer
  | .cfg => s.fw.cfg
  | .dir => s.fw.dir
  | .patch => s.fw.patch

def State.setXfer (s : State) (k : ImageKind) (x : Option Xfer) : State :=
  match k with
  | .cfg => { s with fw := { s.fw with cfg := x } }
  | .dir => { s with fw := { s.fw with dir := x } }
  | .patch => { s with fw := { s.fw with patch := x } }

/-- The argument size of a command, which its LENGTH must reach (R386, R393-R412); 0 for an opcode that is not listed. -/
def argSize (m : Msg) : Nat :=
  let op := m.opcode.toNat
  if op = 0x304 then 8 + 8 * m.byte 3
  else if isImageOp m then (if m.hostForm then 16 else 16 + m.bytesField)
  else if op / 16 % 16 = 15 ∧ knownOpcode op then 8
  else
    let sizes : List (Nat × Nat) :=
      [(0x101, 1), (0x102, 6), (0x201, 8), (0x302, 16), (0x303, 16), (0x305, 16), (0x400, 1), (0x401, 4), (0x402, 2), (0x403, 136),
       (0x503, 4), (0x504, 16), (0x505, 8), (0x601, 6), (0x602, 8), (0x603, 192), (0x604, 16), (0x606, 4), (0x700, 4), (0x701, 2),
       (0x702, 12), (0x800, 8), (0x801, 8), (0x802, 20), (0x803, 52), (0x804, 1), (0x900, 1), (0x901, 2), (0xA01, 8)]
    match sizes.find? fun e => e.1 = op with | some e => e.2 | none => 0

/-- A transfer of the kind is held by another sender (R397). -/
def State.heldByOther (s : State) (k : ImageKind) (m : Msg) : Bool :=
  match s.xfer k with
  | some x => !sameSender x.owner m.stamp
  | none => false

/-- Bank A is cleared to all-zero entries (R477). -/
def State.clearBankA (s : State) : State :=
  let v := s.mem 1
  s.setMem 1 { v with cells := Tab.clear v.cells 0 1048576, buffer := v.buffer.filter fun e => 1048576 ≤ e.addr,
                      ueSeen := v.ueSeen.filter (1048576 ≤ ·) }

/-- A chunk belongs to the kind of transfer and the sender named (R397, R399). -/
def Msg.sameTransfer (m : Msg) (e : BitVec 16 × BitVec 32) : Bool := e.1 = m.opcode && sameSender e.2 m.stamp

/-- A chunk with FIRST opens a transfer (R397); a configuration transfer releases the staged image and, in UNCONFIGURED, clears
bank A (R477). -/
def State.openXfer (s : State) (k : ImageKind) (m : Msg) : State :=
  let unconf : Bool := s.node.state = .unconfigured
  let s := s.setXfer k (some { owner := m.stamp, fromUnconfigured := unconf })
  let s := { s with fw := { s.fw with failed := s.fw.failed.filter fun e => !m.sameTransfer e } }
  if k = .cfg then
    let s := { s with fw := { s.fw with staged := none } }
    if unconf then s.clearBankA else s
  else s

/-- The transfer fails (R399): the command is answered and the transfer ends. -/
def State.failXfer (s : State) (k : ImageKind) (m : Msg) (status : Nat) : State :=
  let s := s.setXfer k none
  ({ s with fw := { s.fw with failed := (m.opcode, m.stamp) :: s.fw.failed.filter fun e => !m.sameTransfer e } }).answer m status []

/-- The chunk belongs to a transfer that has failed (R399). -/
def State.hasFailed (s : State) (m : Msg) : Bool := s.fw.failed.any m.sameTransfer

/-- The stream is bad: a fault, or with the last chunk an end before the block with LAST. Before it, a truncation only waits for
more bytes (R242, R252). -/
def streamBad (d : Decoded) (last : Bool) : Bool :=
  match d.fault with
  | some (4, _) => last
  | some _ => true
  | none => false

/-- What the stream of a transfer decodes to with the bytes that come now, of which some may be poisoned (R251). -/
def Xfer.decoded (x : Xfer) (data : List PByte) : Decoded := decodeStream true (x.stream.map (fun b => (b, false)) ++ data)

/-- The faults of an image that the command's own rules name, in its bytes decoded so far (R226, R399, R400, R473); of a configuration image,
that of a transfer not begun in UNCONFIGURED with a section 7 that holds directory images. -/
def State.imageBad (s : State) (k : ImageKind) (fromUnconfigured last : Bool) (bytes : List Byte) : Bool :=
  match k with
  | .cfg =>
    (match section7Images bytes with
    | some e => e.1.bad || (e.2 && !e.1.whole) || !fromUnconfigured
    | none => false) || decide (1048576 < stagedBytes bytes)
  | .dir =>
    let d := scanBytes (s.cfgF C.dirSlotCount * 2048) bytes
    d.bad || (last && !d.whole)
  | .patch => false

/-- The chunk is carried out: it is answered unless more of its host buffer is to come (R398). -/
def State.chunkDone (s : State) (m : Msg) (more : Bool) (payload : List Byte) : State :=
  if more then s else s.answer m 0 payload

/-- A stream that is bad ends its transfer with a STATUS; the decompressor's counts follow (R250-R252). -/
def State.streamFails (s : State) (k : ImageKind) (m : Msg) (d : Decoded) (status : Nat) : State :=
  (s.decoderFault d.fault).failXfer k m status

/-- New bytes of a configuration image, which decode to `d` (R252, R399, R400, R473, R477). -/
def State.absorbCfg (s : State) (m : Msg) (x : Xfer) (d : Decoded) (last more : Bool) (status : Nat) : State :=
  let bytes := d.out.map Prod.fst
  let scan : DirScan := ((section7Images bytes).map Prod.fst).getD {}
  let s := if x.fromUnconfigured then s.writeEntries false x.taken scan.entries else s
  let odd := scan.odd && s.freshBit
  let s := s.skip (boolNat scan.odd)
  if streamBad d last then s.streamFails .cfg m d status
  else if odd || s.imageBad .cfg x.fromUnconfigured last bytes then s.failXfer .cfg m 5
  else if last then ({ s with fw := { s.fw with cfg := none, staged := some bytes } }).answer m 0 []
  else (s.setXfer .cfg (some { x with taken := scan.entries.length })).chunkDone m more []

/-- New bytes of directory images (R226, R252, R399, R406). A transfer still open as the building ends, the banks change or it begins anew goes
on into what is then the shadow bank (assumption 161). -/
def State.absorbDir (s : State) (m : Msg) (x : Xfer) (d : Decoded) (last more : Bool) (status : Nat) : State :=
  let bytes := d.out.map Prod.fst
  let scan := scanBytes (s.cfgF C.dirSlotCount * 2048) bytes
  let s := s.writeEntries s.shadowB x.taken scan.entries
  let s := { s with dir := { s.dir with good := s.dir.good ++ scan.good.drop x.images } }
  let odd := scan.odd && s.freshBit
  let s := s.skip (boolNat scan.odd)
  if streamBad d last then s.streamFails .dir m d status
  else if odd || s.imageBad .dir false last bytes then s.failXfer .dir m 5
  else if last then
    (s.setXfer .dir none).answer m 0 (leBytes 4 scan.good.length ++ leBytes 4 scan.entries.length ++
      leBytes 2 s.pagesRecorded ++ leBytes 6 0)
  else (s.setXfer .dir (some { x with taken := scan.entries.length, images := scan.good.length })).chunkDone m more []

/-- New bytes of a patch (R252, R399, R412): it stands in the patch area of firmware RAM. -/
def State.absorbPatch (s : State) (m : Msg) (x : Xfer) (d : Decoded) (last more : Bool) (status : Nat) : State :=
  if streamBad d last then s.streamFails .patch m d status
  else if last then
    (({ s with fw := { s.fw with patch := none, stagedPatch := some (d.out.map Prod.fst) } }).ramWrite Config.patchArea).answer m 0 []
  else (s.setXfer .patch (some x)).chunkDone m more []

/-- Bytes of a chunk reach the open transfer; `more` says that the host buffer is not yet read to its end, and `status` is what a bad stream
answers: 7 where a word of it is poisoned (R344, R386), else 5. -/
def State.absorb (s : State) (k : ImageKind) (m : Msg) (data : List PByte) (more : Bool) (status : Nat) : State :=
  match s.xfer k with
  | none => s.answer m (if status = 7 then 7 else 4) []
  | some x =>
    let d := x.decoded data
    let x : Xfer := { x with stream := x.stream ++ data.map Prod.fst }
    let last : Bool := m.isLast && !more
    match k with
    | .cfg => s.absorbCfg m x d last more status
    | .dir => s.absorbDir m x d last more status
    | .patch => s.absorbPatch m x d last more status

/-- OFFSET of an inline chunk differs from the bytes received so far, of which a chunk with FIRST has none before it (R399). -/
def State.offsetWrong (s : State) (k : ImageKind) (m : Msg) : Bool :=
  !m.hostForm && (if m.isFirst then decide (m.addrField ≠ 0)
    else match s.xfer k with
      | some x => sameSender x.owner m.stamp && decide (m.addrField ≠ x.stream.length)
      | none => false)

/-- The states that accept the chunks of an image, and the rule of its command (R226, R400, R406, R412). -/
def imageStates : ImageKind → List NodeState
  | .cfg => statesUC
  | .dir => statesCR
  | .patch => statesUS
def State.imageRule (s : State) (k : ImageKind) : Bool := k ≠ .dir || s.getF R.shadowState = 1

/-- The STATUS that stops a chunk behind check 2 (R386, R397, R398): WRONG_STATE, BUSY, REFUSED. -/
def State.chunkStop (s : State) (k : ImageKind) (m : Msg) : Option Nat :=
  if s.node.state ∉ imageStates k ∨ ¬ s.imageRule k then some 2
  else if s.heldByOther k m then some 1
  else if (m.hostForm ∧ ¬ (s.isRoot ∧ stampClass m.stamp = 1)) ∨ (¬ m.isFirst ∧ (s.xfer k).isNone) then some 4
  else none

/-- The stream bytes of an inline chunk, those of the argument words `bad` poisoned (numbered as in `CtlMsg.bad`). -/
def Msg.chunkData (m : Msg) (bad : List Nat) : List PByte :=
  (bytesAt m.args 16 m.bytesField).zipIdx.map fun e => (e.1, bad.contains ((16 + e.2) / 8 + 3))

/-- The transfer that an inline chunk begins or goes on with: a chunk of another sender's transfer has none. -/
def State.chunkXfer (s : State) (k : ImageKind) (m : Msg) : Option Xfer :=
  if m.hostForm then none
  else if m.isFirst then some { owner := m.stamp, fromUnconfigured := s.node.state = .unconfigured }
  else (s.xfer k).filter fun x => sameSender x.owner m.stamp

/-- A chunk that is not carried out is checked for the faults of its image all the same, before what stops it (R386, check 2): what its stream
decodes to, where it is bad. -/
def State.chunkBad (s : State) (k : ImageKind) (m : Msg) : Option Decoded :=
  (s.chunkXfer k m).bind fun x =>
    let d := x.decoded (m.chunkData [])
    if streamBad d m.isLast || s.imageBad k x.fromUnconfigured m.isLast (d.out.map Prod.fst) then some d else none

/-- INTEGRITY for a chunk (R386, R399): its sender's own transfer fails. -/
def State.chunkFails (s : State) (k : ImageKind) (m : Msg) : State :=
  if s.heldByOther k m then s.answer m 5 [] else s.failXfer k m 5

/-- A chunk for this node (R386, R396-R399): one of a transfer that has failed goes without a reply where it is QUIET. -/
def State.takeChunk (s : State) (k : ImageKind) (m : Msg) : State :=
  match s.chunkStop k m with
  | some n =>
    match s.chunkBad k m with
    | some d => (if streamBad d m.isLast then s.decoderFault d.fault else s).chunkFails k m
    | none => if n = 4 ∧ ¬ m.hostForm ∧ m.quiet ∧ s.hasFailed m then s.complete m.mbox else s.answer m n []
  | none =>
    let s := if m.isFirst then s.openXfer k m else s
    if m.hostForm then s.startHostRead m else s.absorb k m (m.chunkData []) false 5

/-- A message with a poisoned word is answered POISONED, the first check of R386. Where the word is one of the stream of a chunk that would be
carried out, the decompressor meets it, and the transfer fails (R250-R252, R399; assumption 95). -/
def State.poisonedMsg (s : State) (m : Msg) (bad : List Nat) : State :=
  let k := imageKind m.opcode
  let data := m.chunkData bad
  let carried : Bool := isImageOp m && !m.hostForm && !(bad.any (· < 5)) && decide (m.byte 0 < 8) && decide (1 ≤ m.bytesField) &&
    decide (m.bytesField ≤ 224) && decide (16 + m.bytesField ≤ m.length) && decide (m.length ≤ 248) && data.any Prod.snd &&
    !s.offsetWrong k m && (s.chunkStop k m).isNone
  if carried then (if m.isFirst then s.openXfer k m else s).absorb k m data false 7
  else s.answer m 7 []

/-- CFG_DATA, DIR_IMAGE and PATCH_DATA (R386, R396-R399): the checks in the order of R386, with LENGTH, CTL and OFFSET first. -/
def State.imageCommand (s : State) (opcode : BitVec 16) : State :=
  match s.fw.cur with
  | none => s
  | some m =>
    if m.opcode ≠ opcode then s
    else
      let k := imageKind opcode
      let s := { s with fw := { s.fw with cur := none } }
      if 248 < m.length ∨ m.length < 16 then s.answer m 5 []
      else
        let m := s.legalChunk m
        let s := s.drawn
        if m.length < (if m.hostForm then 16 else 16 + m.bytesField) then s.answer m 5 []
        else if 8 ≤ m.byte 0 ∨ s.offsetWrong k m then s.chunkFails k m
        else s.takeChunk k m

/-! ## Reads of host buffers (R344, R398) -/

/-- The hops of a forwarded stream that have not yet sent their chunk are given up (R398): the next message bound for the port takes its
turn. -/
def State.dropHops (s : State) (m : Msg) : State :=
  let gone (h : Hop) : Bool := h.mbox = m.mbox && h.stamp = m.stamp && h.st = .lockWait
  let ports := ((s.mbox.hops.filter gone).map (·.port)).dedup
  ports.foldl (fun (s : State) (p : Nat) => s.nextHop p) (s.setHops (s.mbox.hops.filter fun h => !gone h))

/-- The message that waits for its host buffer ends with a STATUS; its transfer fails, and nothing further of a stream is forwarded. -/
def State.hostReadFailed (s : State) (mbox status : Nat) : State :=
  match s.hostWait mbox with
  | none => s
  | some (m, _, _, _) =>
    let s := s.dropWait m
    match s.route m.target.toNat with
    | .own =>
      if status = 7 then s.absorb (imageKind m.opcode) m [(0, true)] false 7 else s.failXfer (imageKind m.opcode) m status
    | _ => (s.dropHops m).answer m status []

/-- Bytes of a host buffer arrive for the message in a mailbox: the root decodes them, or forwards them in chunks. -/
def State.hostReadData (s : State) (mbox : Nat) (data : List Byte) : State :=
  match s.hostWait mbox with
  | none => s
  | some (m, got, rest, reqs) =>
    let total := m.bytesField
    let data := data.take (total - got)
    let now := got + data.length
    let more : Bool := now < total
    let reqs := requestsLeft data.length reqs
    match s.route m.target.toNat with
    | .own =>
      let k := imageKind m.opcode
      let t := s.absorb k m (data.map fun b => (b, false)) more 5
      if more ∧ (t.xfer k).isSome then t.awaitHost m now [] reqs else t.dropWait m
    | _ =>
      let all := rest ++ data
      let r := State.forwardChunks (all.length / 224 + 2) s m (got - rest.length) total all
      if more then r.2.2.awaitHost m now r.2.1 reqs else r.2.2.dropWait m

end Sys2Proof.Machine
end

