-- ==== Sys2Proof/Machine/Link.lean ====
section
/-! DEFINITION. The Ocnis Link: LINK_BLOCK_LOCK to THROTTLE_RX (R257-R293). -/

namespace Sys2Proof.Machine

/-- REFCLK_ABSENT (R47, R52, R67, R71, R463): the presence detector's decision; timebases that run on REFCLK lose it, and before the first
commit the link transmitters move to the on-chip reference. -/
def execRefclkAbsent (s : State) : Res :=
  .next (
    if s.getF R.refclkPresent = 0 ∨ s.node.state = .off then s
    else
      let old := s.txReference
      let s := (s.setF R.refclkPresent 0).setFlag R.refclkLost
      (if s.degraded then s else s.referenceLost).referenceMoved old)

/-- REFCLK_PRESENT (R47, R70, R71, R463). -/
def execRefclkPresent (s : State) : Res :=
  .next (
    if s.getF R.refclkPresent = 1 ∨ s.node.state = .off then s
    else
      let old := s.txReference
      let s := s.setF R.refclkPresent 1
      (if s.degraded then s else s.referenceBack).referenceMoved old)

/-- LINK_BLOCK_LOCK (R264, R266): a training lane gains block lock and sends ACK. -/
def execLinkBlockLock (port : Fin 19) (lane : Fin 2) (s : State) : Res :=
  .next (
    let p := port.val
    let st := s.getF (R.lstate p)
    if st = 0 ∨ st = 6 then s
    else
      let v := s.port p
      let s := s.setPort p { v with lock := v.lock ||| (1 <<< lane.val : BitVec 2) }
      if st = 1 ∨ st = 2 then (s.setF (R.lstate p) 2).emit (.linkWord p lane.val (s.trainA p lane.val 1)) else s)

/-- LINK_BLOCK_LOCK_LOSS (R264): an UP port that loses a receive lane retrains; a training port goes back to step 1 when a
lane it needs is gone. -/
def execLinkBlockLockLoss (port : Fin 19) (lane : Fin 2) (s : State) : Res :=
  .next (
    let p := port.val
    let st := s.getF (R.lstate p)
    let v := s.port p
    if ¬ v.lock.getLsbD lane.val then s
    else
      let off : BitVec 2 := ~~~(1 <<< lane.val : BitVec 2)
      let s := s.setPort p { v with lock := v.lock &&& off, ready := v.ready &&& off,
                                    waiting := v.waiting && decide (v.ready &&& off ≠ 0) }
      let used : Bool := s.getF (R.rxLanes p) / 2 ^ lane.val % 2 = 1
      if st = 5 then (if used then s.leaveUp p else s)
      else if st = 2 then (if v.lock &&& off = 0 then s.seek p else s)
      else if (st = 3 ∨ st = 4) ∧ used then s.seek p
      else s)

/-- ALIGNMENT_MISSING (R260, R263, R264): two alignment words are missing from their positions, where the receiver found these words. -/
def execAlignmentMissing (port : Fin 19) (found : List Word) (s : State) : Res :=
  .next (
    let s := found.foldl (fun (s : State) (w : Word) => (s.linkWordCheck port.val 6 w).2) s
    if s.portUp port.val then s.leaveUp port.val else s)

/-- ALIGN_WORD_TX (R262, R263): on every lane of the port, during deskew and while UP. -/
def execAlignWordTx (port : Fin 19) (s : State) : Res :=
  .next (
    let p := port.val
    let st := s.getF (R.lstate p)
    let v := s.port p
    if st ≠ 3 ∧ st ≠ 5 then s
    else
      let s := [0, 1].foldl (fun s l => s.emit (.linkWord p l (alignWord l (st = 3) v.aseq))) s
      s.setPort p { v with aseq := v.aseq + 1 })

/-- Deskew begins on the ready lanes (step 4 of R266). -/
def State.beginDeskew (s : State) (p : Nat) : State :=
  let v := s.port p
  let s := s.setPort p { v with waiting := false, aseq := 0 }
  (s.setF (R.rxLanes p) v.ready.toNat).setF (R.lstate p) 3

/-- LINK_LANE_READY (R266). -/
def execLinkLaneReady (port : Fin 19) (lane : Fin 2) (s : State) : Res :=
  .next (
    let p := port.val
    let v := s.port p
    if s.getF (R.lstate p) = 2 ∧ v.lock.getLsbD lane.val then
      let ready := v.ready ||| (1 <<< lane.val : BitVec 2)
      let s := s.setPort p { v with ready := ready, waiting := true }
      if ready = 3 then s.beginDeskew p else s
    else s)

/-- LINK_LANE_WAIT_EXPIRY (R266). -/
def execLinkLaneWaitExpiry (port : Fin 19) (s : State) : Res :=
  .next (
    let p := port.val
    if s.getF (R.lstate p) = 2 ∧ (s.port p).waiting then s.beginDeskew p else s)

/-- LINK_DESKEW_DONE (R263, R266): CFG_A and CFG_B are sent on both lanes. Where one lane leads the other by more than 32 block times,
training begins anew. -/
def execLinkDeskewDone (port : Fin 19) (lead : Nat) (s : State) : Res :=
  .next (
    let p := port.val
    if s.getF (R.lstate p) = 3 ∧ s.getF (R.rxLanes p) = 3 ∧ 32 < lead then s.seek p
    else if s.getF (R.lstate p) = 3 then
      let s := s.setF (R.lstate p) 4
      [0, 1].foldl (fun s l => (s.emit (.linkWord p l (s.trainA p l 2))).emit (.linkWord p l (s.trainB p l))) s
    else s)

/-- LINK_CFG_DONE (R267, R279, R280, R314, R468); `partnerOn`: on P, the partner is ACTIVE, CONFIGURED or RUNNING. TX_LANES follows the far
RX_LANES where the port comes UP (assumption 164). -/
def execLinkCfgDone (port : Fin 19) (a : CfgA) (b : CfgB) (partnerOn : Bool) (s : State) : Res :=
  .next (
    let p := port.val
    if s.getF (R.lstate p) ≠ 4 then s
    else
      let s := s.setPort p { s.port p with farA := some a }
      if s.validPair p a then s.reachUp p a b partnerOn else s.setF (R.lstate p) 6)

/-- LINK_DWELL_EXPIRY (R268). -/
def execLinkDwellExpiry (port : Fin 19) (s : State) : Res :=
  .next (
    let p := port.val
    if s.getF (R.lstate p) = 1 ∧ (s.port p).lock = 0 then
      let r := s.getF (R.rate p)
      (s.setF (R.rate p) (if r = 3 then s.cfgF (C.linkRateMax p) else r + 1)).seek p
    else s)

/-- PACKET_TX (R269-R273, R276-R278, R290, R528): a control packet that may begin goes first. -/
def execPacketTx (port : PortSend) (s : State) : Res :=
  .next (
    let p := port.port.val
    if ¬ s.portUp p then s
    else match s.nextControl p with
      | some f => f s
      | none => match portReader p with
        | some r => s.sendData p r port.upsets
        | none => s)

/-- PACKET_RX (R271-R275, R278, R282, R306, R464, R531). -/
def execPacketRx (port : Fin 19) (pkt : Packet) (s : State) : Res :=
  .next (
    let p := port.val
    if ¬ s.portUp p then s
    else
      let c := s.chan p pkt.control
      if ¬ packetIntact pkt then s.packetFails p pkt
      else if pkt.seq = c.rxSeq then
        let s := s.setChan p pkt.control { c with rxSeq := c.rxSeq + 1, nakSent := false }
        let s := if pkt.control then s.acceptControl p pkt else s.acceptData p pkt
        s.sendAck p pkt.control
      else if (c.rxSeq - pkt.seq).toNat ≤ 32768 then
        s.freeCredit p pkt.control (if pkt.control then 1 else pkt.payload.length)
      else s.packetFails p pkt)

/-- LINK_ACK_RX (R205, R206, R274, R277). -/
def execLinkAckRx (port : Fin 19) (word : Word) (s : State) : Res :=
  .next (
    let p := port.val
    let r := s.linkWordCheck p 3 word
    if ¬ r.1 ∨ ¬ s.portUp p ∨ wget word 58 2 ≠ 0 then r.2
    else
      let control : Bool := wget word 57 1 = 1
      let s := r.2.ackPackets p control (BitVec.ofNat 16 (wget word 40 16))
      s.setChan p control { s.chan p control with credit := some (BitVec.ofNat 16 (wget word 24 16)) })

/-- LINK_NAK_RX (R276): a NAK of a SEQ resent within the last REPLAY_TIMEOUT is ignored. -/
def execLinkNakRx (port : Fin 19) (word : Word) (s : State) : Res :=
  .next (
    let p := port.val
    let r := s.linkWordCheck p 3 word
    if ¬ r.1 ∨ ¬ s.portUp p ∨ wget word 58 2 ≠ 1 then r.2
    else
      let s := r.2
      let control : Bool := wget word 57 1 = 1
      let seq := BitVec.ofNat 16 (wget word 40 16)
      let limit := s.cfgF C.replayTimeout * 160
      let recent := (s.chan p control).unacked.any fun k => k.seq = seq && (match k.resent with
        | some t => decide (s.ticks < t + limit)
        | none => false)
      if recent ∨ (s.chan p control).unacked.isEmpty then s else s.replayFrom p control seq)

/-- ACK_TIMER (R274). -/
def execAckTimer (port : Fin 19) (s : State) : Res := .next ((s.sendAck port.val false).sendAck port.val true)

/-- REPLAY_TIMEOUT (R276). -/
def execReplayTimeout (port : Fin 19) (control : Bool) (s : State) : Res :=
  .next (
    let p := port.val
    match (s.chan p control).unacked with
    | k :: _ =>
      if s.portUp p ∧ k.sentAt + s.cfgF C.replayTimeout * 160 ≤ s.ticks then s.replayFrom p control k.seq else s
    | [] => s)

/-- REPLAY_WINDOW_END (R276, R302): REPLAYS_1MS takes the window's count; a storm fails a pair member. -/
def execReplayWindowEnd (port : Fin 19) (s : State) : Res :=
  .next (
    let p := port.val
    let v := s.port p
    let s := (s.setF (R.replays1ms p) (min 0xFFFF v.replays)).setPort p { v with replays := 0 }
    if p < 16 ∧ 64 < v.replays then s.declareFailed p 2 else if p < 16 then s.arbReview p else s)

/-- TIMING_MARKER_TX (R288, R314): within the first block of a frame. -/
def execTimingMarkerTx (s : State) : Res :=
  .next (
    let c := s.time.coarse
    if s.cfgF C.markerEn = 1 ∧ s.loaded ∧ c.toNat % 65536 < 4 then
      let pair : List Nat := if s.portUp 18 ∧ s.getF R.resync = 0 ∧ s.pair.resyncStep = 2 then [18] else []
      (s.southUp ++ pair).foldl (fun s p => s.emit (.linkWord p 0 (markerWord c))) s
    else s)

/-- TIMING_MARKER_RX (R65, R289, R314). -/
def execTimingMarkerRx (port : Fin 19) (word : Word) (s : State) : Res :=
  .next (
    let p := port.val
    let r := s.linkWordCheck p 5 word
    let s := r.2
    let t := BitVec.ofNat 48 (wget word 12 48)
    let off (t : BitVec 48) : Bool := 1 < (s.time.coarse - t).toNat && 1 < (t - s.time.coarse).toNat
    if ¬ r.1 ∨ ¬ s.portUp p then s
    else if p = 18 then
      let v := t + BitVec.ofNat 48 (s.cfgF C.pairFlightTicks)
      if s.getF R.resync = 0 ∨ ¬ s.operating then s
      else if s.pair.resyncStep = 3 then
        let s := s.loadTime v (mkStamp v 0)
        { s with pair := { s.pair with resyncStep := 4, joinFrame := some (frameOf v + 2) } }
      else if 4 ≤ s.pair.resyncStep ∧ off v then s.setFlag (R.markerMismatch p)
      else s
    else if s.isRoot ∨ ¬ s.streamStart ∨ p < 16 ∨ (p = 17 ∧ s.portUp 16) then s
    else if s.loaded then (if off t then s.setFlag (R.markerMismatch p) else s)
    else if s.running ∧ ¬ s.node.stopping then s.load t (mkStamp t 0)
    else s)

/-- TRIGGER_RX (R122, R284). -/
def execTriggerRx (port : Fin 19) (s : State) : Res :=
  .next (
    match s.takeCtl port.val 0x10 with
    | none => s
    | some (m, s) =>
      let num := BitVec.ofNat 32 (wget (m.payload.headD 0) 0 32)
      let t := BitVec.ofNat 61 (wget (m.payload.getD 1 0) 0 61)
      if ¬ s.operating then s.inc R.treeIgnored
      else if s.trig.recent.any fun e => e.num = num ∧ e.time = t then s.inc R.trigDup
      else (s.takeTree num t).sendAll s.southUp m)

/-- THROTTLE_RX (R209, R286). -/
def execThrottleRx (port : Fin 19) (s : State) : Res :=
  .next (
    match s.takeCtl port.val 0x11 with
    | none => s
    | some (m, s) =>
      if port.val < 16 then (s.setF (R.southState port.val) (wget (m.payload.headD 0) 0 1)).throttleUpdate else s)

end Sys2Proof.Machine
end

