-- ==== Sys2Proof/Machine/Timebase.lean ====
section
/-! DEFINITION. The timebases, the coarse time and the windows: TB_PHASE_COMPARE to START_HOLDOFF_END (R47-R73, R448). -/

namespace Sys2Proof.Machine

/-- TB_PHASE_COMPARE (R48, R49, R52, R71, R448): every edge is measured, PHASE_ERR is filtered and the lock tests count; without an
edge the comparison is skipped, and REFCLK_GAP counts it. -/
def execTbPhaseCompare (region : Fin 8) (edge : Option (BitVec 13)) (s : State) : Res :=
  .next (
    let r := region.val
    let st := s.regionState r
    if st = 0 ∨ st = 5 then s
    else match edge with
      | none => s.inc R.refclkGap
      | some p =>
        let old := signed 16 (s.getF (R.phaseErr r))
        let pe := old + (p.toInt - old + 4) / 8
        let s := s.setF (R.phaseErr r) (unsigned 16 pe)
        let g := s.region r
        let kept : Option Int :=
          if st = 3 ∧ s.getF (R.realign r) = 1 ∧ g.keptOffset.isNone ∧ s.refPresent then some pe else g.keptOffset
        let s := s.setRegion r { g with goodRun := if pe.natAbs ≤ 8 then g.goodRun + 1 else 0,
                                        badRun := if 64 < pe.natAbs then g.badRun + 1 else 0, keptOffset := kept }
        if st = 3 ∧ g.retry then s.reclose r else s)

/-- TB_LOCKED (R52, R68, R69): ACQUIRE or SLEW to LOCKED after 4,096 comparisons within 8 LSB. -/
def execTbLocked (region : Fin 8) (s : State) : Res :=
  .next (
    let r := region.val
    let st := s.regionState r
    if (st = 1 ∨ st = 4) ∧ 4096 ≤ (s.region r).goodRun then
      let back := (s.region r).wasLocked
      let s := ((s.endHold r true).setTb r 2).setF (R.holdoverBound r) 0
      let s := s.setRegion r { s.region r with wasLocked := true, badRun := 0, goodRun := 0 }
      if back then s.tbNotice r else s
    else s)

/-- TB_LOCK_LOSS (R52, R67, R71): LOCKED to HOLDOVER after 16 comparisons beyond 64 LSB. -/
def execTbLockLoss (region : Fin 8) (s : State) : Res :=
  .next (
    let r := region.val
    if s.regionState r = 2 ∧ 16 ≤ (s.region r).badRun then s.enterHoldover r else s)

/-- TB_ACQUIRE_TIMEOUT (R53): 10 ms in ACQUIRE without lock. -/
def execTbAcquireTimeout (region : Fin 8) (s : State) : Res :=
  .next (
    let r := region.val
    if s.regionState r = 1 ∧ (s.region r).acquiredAt + 1600000 ≤ s.ticks then s.tbFail r else s)

/-- TB_RING_STOPPED (R53): FAILED from any state in which the ring runs. -/
def execTbRingStopped (region : Fin 8) (s : State) : Res := .next (s.tbFail region.val)

/-- HOLDOVER_BOUND_UPDATE (R69, R71). -/
def execHoldoverBoundUpdate (region : Fin 8) (s : State) : Res :=
  .next (
    let r := region.val
    if s.regionState r = 3 ∨ s.regionState r = 4 then s.publishBound r else s)

/-- COARSE_TICK_VOTE (R55): the vote of a tick boundary, then what waited for this tick or sample boundary. -/
def execCoarseTickVote (upsets : List (Fin 8 × BitVec 48)) (s : State) : Res :=
  .next (if s.coarseRuns then (s.voteTick upsets).closeStarts.atBoundary else s)

/-- COARSE_WRAP (R57). -/
def execCoarseWrap (s : State) : Res :=
  .next (
    if s.time.wrapDue then ({ s with time := { s.time with wrapDue := false } }).setFlag R.coarseWrap else s)

/-- EPOCH_EDGE (R60, R61, R65, R66): measured; it loads the coarse time, is a start, or only replaces EPOCH_LAST. -/
def execEpochEdge (fine : BitVec 13) (s : State) : Res :=
  .next (
    match s.measuring with
    | none => if s.running then s.inc R.startIgnored else s
    | some _ =>
      let loads : Bool := s.running ∧ ¬ s.node.stopping ∧ ¬ s.loaded ∧ ¬ s.streamStart
      let s := if loads then
          let v := BitVec.ofNat 48 (s.cfgF C.epochPreset)
          s.load v (mkStamp v fine)
        else s
      let stamp := mkStamp s.time.coarse fine
      let s := (s.setF R.epochLastLo (stamp.toNat % 2 ^ 32)).setF R.epochLastHi (stamp.toNat / 2 ^ 32)
      if s.judging ∧ s.windowMode then s.start stamp else s)

/-- WINDOW_OPEN (R61): at tick s + WIN_DELAY of the accepted start, unless acquisition has stopped before (R147). -/
def execWindowOpen (s : State) : Res :=
  .next (
    match s.time.window with
    | some w =>
      if reached s.time.coarse (s.windowOpens w) ∧ ¬ s.node.stopping then
        { s with time := { s.time with window := some { w with opened := true } } }
      else s
    | none => s)

/-- WINDOW_CLOSE (R61): at tick s + WIN_DELAY + WIN_WIDTH. -/
def execWindowClose (s : State) : Res :=
  .next (
    match s.time.window with
    | some w =>
      if reached s.time.coarse (s.windowCloses w) then
        { s with time := { s.time with window := some { w with closed := true } } }
      else s
    | none => s)

/-- START_HOLDOFF_END (R64): four ticks after the window closed the node again accepts starts. -/
def execStartHoldoffEnd (s : State) : Res :=
  .next (
    match s.time.window with
    | some w =>
      if reached s.time.coarse (s.windowCloses w + 4) then { s with time := { s.time with window := none } } else s
    | none => s)

end Sys2Proof.Machine
end

