-- ==== Sys2Proof/Machine/CfgOps.lean ====
section
/-! DEFINITION. Operations of a commit: the checks of a configuration image (R473, R475), its fields and their documented ranges
(R472), and the application of an image (R72, R76, R225, R280, R313, R401, R463, R476). -/

namespace Sys2Proof.Machine

/-! ## The checks (R475) -/

/-- The first of a list that `f` selects, as its SECTION_ID. -/
def firstBad (f : Sect → Bool) (l : List Sect) : Option Nat := (l.find? f).map (·.id)

/-- Check 1: MAGIC, FORMAT, SECTIONS, IMAGE_BYTES and reserved bytes, and no remainder after the walk. -/
def headOk (b : List Byte) (l : List Sect) : Bool :=
  decide (16 ≤ b.length) && decide (leAt b 0 4 = 0x46435953) && decide (leAt b 4 2 = 1) && decide (leAt b 6 2 % 2 = 0) &&
    decide (leAt b 6 2 < 256) && decide (leAt b 8 4 = b.length) && decide (leAt b 12 4 = 0) &&
    (l.any (·.cut) || decide (walkEnd l = b.length))

/-- Sections out of place: not named in SECTIONS, or not above the one before. -/
def misplaced (named : Nat) : Nat → List Sect → Option Nat
  | _, [] => none
  | prev, x :: l => if x.id ≤ prev ∨ named / 2 ^ x.id % 2 = 0 then some x.id else misplaced named x.id l

/-- Check 2: the order of the sections, and every named one found; a cut section hides those above it. -/
def orderBad (named : Nat) (l : List Sect) : Option Nat :=
  match misplaced named 0 l with
  | some n => some n
  | none =>
    let top := match l.find? (·.cut) with | some x => x.id | none => 8
    (List.range 8).find? fun n => named / 2 ^ n % 2 = 1 && decide (n < top) && !(l.any fun x => x.id = n)

/-- INL records (R473): their number is whole, reserved bytes are 0, each cell has one at most. -/
def inlRecord (body : List Byte) (k : Nat) : List Byte := bytesAt body (8736 + 136 * k) 136
def inlCount (x : Sect) : Nat := (x.len - 8736) / 136
def inlOk (body : List Byte) (x : Sect) : Bool :=
  decide ((x.len - 8736) % 136 = 0) &&
    ((List.range (inlCount x)).all fun k => decide (leAt (inlRecord body k) 2 6 = 0) && decide (leAt (inlRecord body k) 0 2 < 2048)) &&
    decide (((List.range (inlCount x)).map fun k => leAt (inlRecord body k) 0 2).Nodup)

/-- Check 3 of a section. A LENGTH that is no multiple of 4 fails it (R471). -/
def sectionBad (b : List Byte) (x : Sect) : Bool :=
  let body := sectBody b x
  x.cut || decide (leAt b (x.pos + 1) 3 ≠ 0) || decide (x.len % 4 ≠ 0) || decide (x.len < fixedPart x.id) ||
    (x.id ≠ 2 && x.id ≠ 7 && x.len ≠ fixedPart x.id) || decide (leAt b (x.pos + 8 + x.len) 4 ≠ (crc32c body).toNat) ||
    (x.id = 2 && !inlOk body x) || (x.id = 7 && decide (leAt (body.take 8) 4 4 ≠ 0))

/-- FAILED_SECTION of an image, none where it passes. -/
def imageFault (b : List Byte) : Option Nat :=
  let l := sectionsOf b b.length
  if ¬ headOk b l then some 0
  else match orderBad (leAt b 6 2) l with
    | some n => some n
    | none => firstBad (sectionBad b) l

/-! ## The fields (R472) -/

/-- The records of a section in order: key and bytes of each. -/
def sectionRecords (id : Nat) : List (Nat × Nat) :=
  let arr (base n size : Nat) : List (Nat × Nat) := (List.range n).map fun i => (base + i, size)
  if id = 1 then (0, 32) :: arr 16 6 8
  else if id = 2 then arr 32 8 4 ++ arr 256 128 4 ++ arr 4096 2048 4
  else if id = 3 then (1, 4) :: arr 512 128 1164
  else if id = 4 then (2, 12) :: arr 64 19 4
  else if id = 5 then arr 192 32 32 ++ arr 112 8 4
  else if id = 6 then (3, 4) :: (arr 128 32 4 ++ arr 96 8 64)
  else if id = 7 then [(4, 4)]
  else []

/-- Records set one after another from the bytes of a section's body. -/
def State.setRecords (s : State) (body : List Byte) : List (Nat × Nat) → Nat → State
  | [], _ => s
  | (key, n) :: l, off => (s.setRecord key (leAt body off n)).setRecords body l (off + n)

/-- The configuration of an image in force: absent sections take their defaults. -/
def State.loadFields (s : State) (b : List Byte) : State :=
  (sectionsOf b b.length).foldl (fun (s : State) (x : Sect) => s.setRecords (sectBody b x) (sectionRecords x.id) 0)
    { s with cfg := [] }

/-- A field lies in a range. -/
def State.inRange (s : State) (f : CF) (lo hi : Nat) : Bool := decide (lo ≤ s.cfgF f) && decide (s.cfgF f ≤ hi)

/-- The fields with a documented range narrower than their bits, and that range (R87, R116, R150, R215, R233, R293, R317, R340, R437,
R454). -/
def fieldRanges : List (CF × Nat × Nat) :=
  [(C.clkSourceSel, 0, 2), (C.winWidth, 1, 65535), (C.outReserve, 0, 196608), (C.lateReserve, 0, 196608), (C.mergeOpenMax, 1, 992),
   (C.highWater, 1, 196608), (C.sigDelay, 2, 15), (C.extHoldoff, 1, 65535), (C.northLag, 1, 196608), (C.replayTimeout, 1, 255),
   (C.plausTol, 1, 255)] ++
  ((List.range 6).flatMap fun m => [(C.bucketThreshold m, 1, 65535), (C.leakPeriod m, 1, 65535), (C.scrubLapMax m, 1, 65535)]) ++
  ((List.range 8).flatMap fun r => [(C.calHitsLog r, 16, 24), (C.calShift r, 0, 6), (C.calRejectLsb r, 1, 255)]) ++
  ((List.range 128).flatMap fun b => [(C.qLen b, 1, 64), (C.blkMaj b, 1, 16), (C.blkCoinc b, 1, 15), (C.post b, 1, 65535),
    (C.maskShift b, 0, 8)]) ++
  ((List.range 8).flatMap fun n => [(C.excV n, 0, 200), (C.excSettle n, 1, 1023), (C.senseMin n, 1, 32767), (C.diagInterval n, 1, 64),
    (C.tSrc n, 0, 8), (C.outerDiv (16 + n), 1, 256)]) ++
  (List.range 24).map fun k => (C.rampStep (8 + k), 0, 131071)

/-- A field as the node takes it: outside its range its value is a free one of the range (R18). -/
def State.legalField (s : State) (e : CF × Nat × Nat) : State :=
  if s.inRange e.1 e.2.1 e.2.2 then s else (s.setCfg e.1 (s.legal 0 e.2.1 e.2.2 (s.cfgF e.1))).drawn

/-- LOW_WATER below HIGH_WATER (R215), and DIR_SLOT_BASE + DIR_SLOT_COUNT at most 1,024 (R233): where an image holds otherwise, the first
and the second take a free value that fits (R18). -/
def State.legalPairs (s : State) : State :=
  let s := if s.cfgF C.lowWater < s.cfgF C.highWater then s
    else (s.setCfg C.lowWater (s.fresh.toNat % s.cfgF C.highWater)).drawn
  if s.cfgF C.dirSlotBase + s.cfgF C.dirSlotCount ≤ 1024 then s
  else (s.setCfg C.dirSlotCount (s.fresh.toNat % (1025 - s.cfgF C.dirSlotBase))).drawn

/-- A mask point with LOWER above UPPER (R404, R472): UPPER is a free value from LOWER on (R18). -/
def State.legalPoint (s : State) (b i : Nat) : State :=
  let lower := signed 18 (s.cfgF (C.maskLower b i))
  let upper := signed 18 (s.cfgF (C.maskUpper b i))
  if lower ≤ upper then s else (s.setCfg (C.maskUpper b i) (unsigned 18 (s.legalInt 0 lower 131071 upper))).drawn

/-- Every field of the configuration lies in its documented range. -/
def State.fieldsOk (s : State) : Bool :=
  (fieldRanges.all fun e => s.inRange e.1 e.2.1 e.2.2) && decide (s.cfgF C.lowWater < s.cfgF C.highWater) &&
  decide (s.cfgF C.dirSlotBase + s.cfgF C.dirSlotCount ≤ 1024) &&
  (List.range 128).all fun b => (List.range 256).all fun i =>
    decide (signed 18 (s.cfgF (C.maskLower b i)) ≤ signed 18 (s.cfgF (C.maskUpper b i)))

/-- The configuration as the node takes it: a commit does not check ranges (R386), and a value outside its range gives an unpredictable
result in the function that holds it (R18; assumption 12). -/
def State.legalFields (s : State) : State :=
  if s.fieldsOk then s
  else
    let s := (fieldRanges.foldl (fun (s : State) (e : CF × Nat × Nat) => s.legalField e) s).legalPairs
    (List.range 128).foldl (fun (s : State) (b : Nat) => (List.range 256).foldl (fun (s : State) (i : Nat) => s.legalPoint b i) s) s

/-! ## The application -/

/-- The INL tables (R76): each cell's active copy takes its record, or zeros; calibration counts its updates anew (R78). The code words of
these tables and of the mask tables are written anew. -/
def State.loadTables (s : State) (b : List Byte) : State :=
  let recs : List (Nat × List Byte) := (sectionsOf b b.length).flatMap fun x =>
    if x.id = 2 then (List.range (inlCount x)).map fun k => (leAt (inlRecord (sectBody b x) k) 0 2, inlRecord (sectBody b x) k) else []
  let s := s.tableWrite ((List.range 128).flatMap fun (b : Nat) => (List.range 256).map (Config.maskWord b))
  (List.range 2048).foldl (fun (s : State) (c : Nat) =>
    let tab : Tab Int := match recs.find? fun e => e.1 = c with
      | some e => Tab.update 0 [] 1 63 fun i _ => signed 16 (leAt e.2 (8 + 2 * i) 2)
      | none => []
    let v := s.cell c
    let v : Cell := if v.activeB then { v with tableB := tab, rejectRun := 0 } else { v with tableA := tab, rejectRun := 0 }
    (((s.tableWrite (inlWords c v.activeB)).setCell c v).setF (R.calUpdates c) 0).setF (R.calConverged c) 0) s

/-- The choice of the timebase reference at the first commit (R72). -/
def State.chooseClock (s : State) : State :=
  let sel := s.cfgF C.clkSourceSel
  let north : Bool := s.role ≠ 2 ∧ (s.portUp 16 ∨ s.portUp 17)
  let recovered : Bool := north && (sel = 2 || (sel = 1 && s.getF R.refclkPresent = 0))
  (s.setF R.clkSource (boolNat recovered)).setF R.recoveredPort (if recovered ∧ ¬ s.portUp 16 then 1 else 0)

/-- A port at a commit: one that is disabled goes down, one newly enabled or in MISMATCH trains, one whose rate or taps change,
or whose reference changes, trains again (R280, R463). -/
def State.commitPort (s : State) (p : Nat) (wasOn : Bool) (oldRate oldTaps : Nat) (moved : Bool) : State :=
  let st := s.getF (R.lstate p)
  if ¬ s.portEnabled p then
    (if wasOn then ((if st = 5 then s.leaveUp p else s).setF (R.lstate p) 0) else s)
  else if ¬ wasOn ∨ st = 6 then s.startTraining p
  else if oldRate ≠ s.cfgF (C.linkRateMax p) then (s.setF (R.rate p) (s.cfgF (C.linkRateMax p))).retrainPort p
  else if oldTaps ≠ s.cfgF (C.txTaps p) ∨ moved then s.retrainPort p
  else s

/-- The cells at a commit: a change of CELL_MODE, a discriminator that is turned off, a fixed range. -/
def State.commitCell (s : State) (c old : Nat) : State :=
  let s := if s.cfgF (C.discEn c) = 0 ∧ s.getF (R.discHigh c) = 1 then (s.fallCell c 0 s.freshBit).drawn else s
  let new := s.cellMode c
  if old ≠ new then s.modeChange c old new
  else if new = 2 ∧ s.cfgF (C.rangeMode c) ≠ 0 then s.setF (R.curRange c) (s.cfgF (C.rangeMode c) - 1)
  else s

/-- An image that has passed its checks is committed: the record is written and the image applied (R401, R475, R476); under
PAIR_EN it goes to the partner (R313), a resynchronisation goes on (R314), and at a root the level of GRANT_IN takes effect (R309). -/
def State.applyImage (s : State) (b : List Byte) (generation crc : Nat) : State :=
  let first : Bool := s.node.state = .unconfigured
  let modes := (List.range 2048).map s.cellMode
  let ports : List (Bool × Nat × Nat) :=
    (List.range 19).map fun p => (s.portEnabled p, s.cfgF (C.linkRateMax p), s.cfgF (C.txTaps p))
  let exps : Nat → Nat → Nat := fun i k => s.cfgF (C.stageExp i k)
  let reference := s.txReference
  let s := s.setTri 0 (commitRecord generation crc)
  let s := (s.loadFields b).legalFields.loadTables b
  let s :=
    if first then
      let s := s.chooseClock
      let s := ((s.setF R.dirActive 0).setF R.shadowState 0).setF R.swapPending 0
      let s := { s with dir := {}, time := { s.time with coarse := 0, expected := some 0, parity := s.freshBit } }
      (List.range 8).foldl (fun (s : State) (r : Nat) => s.tbAcquire r) s.drawn
    else s
  let s := if first then ({ s with node := { s.node with committed := true } }).enterState .configured else s
  let s := (modes.zipIdx).foldl (fun (s : State) (e : Nat × Nat) => s.commitCell e.2 e.1) s
  let s := (s.commitLoops exps).commitSensors first
  let moved : Bool := s.txReference ≠ reference
  let s := (ports.zipIdx).foldl (fun (s : State) (e : (Bool × Nat × Nat) × Nat) =>
    s.commitPort e.2 e.1.1 e.1.2.1 e.1.2.2 moved) s
  let s := s.throttleUpdate
  let s := if first ∧ ¬ s.isActive then ((s.giveBack .n0).giveBack .n1).giveBack .dma else s
  if ¬ s.paired then s
  else
    let s := s.emit (.configImage false b)
    let s := if s.getF R.resync = 1 ∧ s.pair.resyncStep = 1 then { s with pair := { s.pair with resyncStep := 2 } } else s
    s.pinGrant

/-! ## Resynchronisation (R313, R314) -/

/-- The directory images of an image's section 7 are whole (R473). -/
def imagesWhole (b : List Byte) : Bool :=
  match section7Images b with
  | some e => !e.1.bad && e.1.whole
  | none => true

/-- Bank A as a commit from UNCONFIGURED finds it: the directory images of the image it commits, over all-zero entries (R225, R477). -/
def State.bankFromImage (s : State) (b : List Byte) : State :=
  let es : List (Nat × Word) := match section7Images b with | some e => e.1.entries | none => []
  s.clearBankA.writeEntries false 0 es

/-- A member that is UNCONFIGURED verifies and commits the image that its partner held of it (R314, step 2); an image that fails its
checks leaves it waiting for the host. GENERATION is no part of an image: it is a free value. -/
def State.resyncCommit (s : State) (b : List Byte) : State :=
  if (imageFault b).isNone ∧ imagesWhole b then
    let s := ((s.drawn.bankFromImage b).applyImage b (s.fresh.toNat % 2 ^ 32) (crc32c b).toNat)
    { s with fw := { s.fw with cfg := none, staged := none } }
  else s

/-- The node leaves LINKUP for UNCONFIGURED (R456); an image of its own that has come from the partner is committed now. -/
def State.enterUnconfigured (s : State) : State :=
  let s := s.enterState .unconfigured
  match s.pair.ownImage with
  | some b => ({ s with pair := { s.pair with ownImage := none } }).resyncCommit b
  | none => s

end Sys2Proof.Machine
end

