-- ==== Sys2Proof/Machine/EnumOps.lean ====
section
/-! DEFINITION. Operations of enumeration: what a node sees of its children (R407, R467), the root's plan (R466), its requests and their
replies (R469), and the routes below each port (R375). -/

namespace Sys2Proof.Machine

/-- SOUTH_UP and SOUTH_PAIR (R407): of a port's two bits the higher is PAIR_EN, as in CFG_A (R265; assumption 178). -/
def State.southMask (s : State) : Nat := bitList ((List.range 16).map s.portUp)
def State.southPairs (s : State) : Nat :=
  ((List.range 16).map fun p =>
    match (s.port p).farA with
    | some a => if s.portUp p then (2 * boolNat a.pairEn + boolNat a.pairPos) * 4 ^ p else 0
    | none => 0).sum

/-- The reply of ENUM_ASSIGN (R407). -/
def State.assignReply (s : State) : List Byte :=
  leBytes 2 s.southMask ++ leBytes 4 s.southPairs ++ leBytes 1 (boolNat (s.portUp 18))

/-- The assignments of one node's children, in the order of R466: alone, or as members A and B of a pair at the port of member A; the
k-th member A pairs with the k-th member B (R467). -/
def jobsOf (parent up pairs : Nat) : List EnumJob :=
  let ports := bitsOf 16 up
  let pair (p : Nat) : Nat := pairs / 4 ^ p % 4
  let as' := ports.filter fun p => pair p = 2
  let bs := ports.filter fun p => pair p = 3
  ports.flatMap fun p =>
    if pair p = 2 then
      (match bs[as'.findIdx (· = p)]? with
      | some q => [⟨parent, p, 1⟩, ⟨parent, q, 2⟩]
      | none => [⟨parent, p, 3⟩])
    else if pair p = 3 then (if bs.findIdx (· = p) < as'.length then [] else [⟨parent, p, 3⟩])
    else [⟨parent, p, 0⟩]

/-- Enumeration's state replaced. -/
def State.setEnum (s : State) (e : EnumSt) : State := { s with fw := { s.fw with enum := e } }

/-- The first fault is the one reported (R469). -/
def EnumSt.noteFault (e : EnumSt) (code node : Nat) : EnumSt := if e.fault = 0 then { e with fault := code, faultNode := node } else e

/-- A message of the node's own firmware leaves on a port (R374). -/
def State.fwSend (s : State) (p mbox opcode tag target : Nat) (quiet : Bool) (args : List Byte) : State :=
  let head := opcode + tag * 2 ^ 16 + args.length * 2 ^ 32 + target * 2 ^ 48 + boolNat quiet * 2 ^ 60
  s.startHop { mbox := mbox, port := p, stamp := s.portStamp p, bytes := leBytes 8 head ++ args }

/-- The argument of ENUM_ASSIGN. -/
def assignArgs (id level partner : Nat) : List Byte := leBytes 2 id ++ leBytes 1 level ++ leBytes 1 0 ++ leBytes 2 partner

/-- The mailbox of the ENUM_START in progress. -/
def State.enumMbox (s : State) : Nat := match s.fw.waits.find? fun e => e.2 = .enumReply with | some e => e.1.mbox | none => 0

/-- Where the root's own firmware sends a message of an enumeration: a member that is not yet ACTIVE sends it south all the same, for R285 bars
only what a node forwards (R466). -/
def State.enumPort (s : State) (target : Nat) : Option Nat :=
  if s.paired ∧ target = s.node.partnerId.toNat then some 18 else (s.below target).map s.grantedPort

/-- A request for an assignment is sent: ENUM_ASSIGN on the root's own port, or ENUM_RELAY to the parent (R466). -/
def State.askJob (s : State) (j : EnumJob) : State :=
  let e := s.fw.enum
  let tag := s.fw.nextTag
  let id := if j.member = 2 then e.next + 1 else e.next
  let partner := if j.member = 1 then e.next + 1 else if j.member = 2 then e.next else 0xFFF
  let args := assignArgs id (e.level + 1) partner
  let p : Nat := if j.parent = s.node.nodeId.toNat then j.port else (s.enumPort j.parent).getD 0
  let s := { s with fw := { s.fw with nextTag := tag + 1, enum := { e with ask := some (j, ⟨p, tag, s.ticks⟩) } } }
  if j.parent = s.node.nodeId.toNat then s.fwSend p s.enumMbox 0x601 tag.toNat 0xFFF false args
  else s.fwSend p s.enumMbox 0x602 tag.toNat j.parent false (leBytes 1 j.port ++ leBytes 1 0 ++ args)

/-! ## Routes -/

/-- The nodes of a list whose parent is one of `ids`. -/
def childrenOf (l : List EnumNode) (ids : List Nat) : List EnumNode := l.filter fun x => x.level ≠ 0 && ids.contains x.parent

/-- NODE_IDs below a node, level by level, each as FIRST and LAST. -/
def rangesBelow : Nat → List EnumNode → List Nat → List (Nat × Nat)
  | 0, _, _ => []
  | n + 1, l, ids =>
    match ids with
    | [] => []
    | i :: rest => (rest.foldl min i, rest.foldl max i) :: rangesBelow n l ((childrenOf l ids).map (·.id))

/-- The ranges below port `p` of the node with NODE_ID `x`: the child itself, then its descendants; those of member B are those of
member A, whose NODE_ID is one less. -/
def portRanges (l : List EnumNode) (x p : Nat) : List (Nat × Nat) :=
  match l.find? fun c => c.parent = x && c.port = p && c.level ≠ 0 with
  | some c =>
    let a := if c.pairB then c.id - 1 else c.id
    (c.id, c.id) :: rangesBelow 3 l ((childrenOf l [a]).map (·.id))
  | none => []

/-- The 16 port records of ENUM_ROUTE for a node (R407). -/
def routeArgs (l : List EnumNode) (x : Nat) : List Byte :=
  (List.range 16).flatMap fun p =>
    let r := (portRanges l x p).take 4
    (r ++ List.replicate (4 - r.length) (0xFFF, 0)).flatMap fun (e : Nat × Nat) => leBytes 3 (e.1 + e.2 * 2 ^ 12)

/-- The routes that a node takes from port records; an unused range has FIRST above LAST. -/
def State.takeRoutes (s : State) (args : List Byte) : State :=
  let routes : Tab (List (Nat × Nat)) := (List.range 16).foldl (fun t p =>
    let l : List (Nat × Nat) := ((List.range 4).map fun k =>
      let v := leAt args (12 * p + 3 * k) 3
      (v % 4096, v / 4096)).filter fun e => e.1 ≤ e.2
    Tab.set [] t p l) []
  { s with node := { s.node with routes := routes } }

/-- The node whose children a numbered node has: itself, or member A for member B. -/
def routeKey (x : EnumNode) : Nat := if x.pairB then x.id - 1 else x.id

/-- ENUM_ROUTE to one numbered node; the root takes its own at once. -/
def State.sendRoute (s : State) (l : List EnumNode) (x : EnumNode) : State :=
  if x.id = s.node.nodeId.toNat then s.takeRoutes (routeArgs l x.id)
  else match s.enumPort x.id with
    | some p =>
      let tag := s.fw.nextTag
      let s := { s with fw := { s.fw with nextTag := tag + 1 } }
      s.fwSend p s.enumMbox 0x603 tag.toNat x.id true (routeArgs l (routeKey x))
    | none => s

/-! ## The plan -/

/-- The assignments for the children of one level. A node of level 4 with an UP south port is FAULT 2. -/
def levelJobs (l : List EnumNode) (level : Nat) : List EnumJob :=
  (l.filter fun x => x.level = level && !x.pairB).flatMap fun x => jobsOf x.id x.southUp x.southPair

/-- The reply of ENUM_START. -/
def EnumSt.reply (e : EnumSt) : List Byte :=
  leBytes 2 e.nodes.length ++ leBytes 2 e.pairs ++ leBytes 1 ((e.nodes.map (·.level)).foldl max 0) ++ leBytes 1 e.fault ++
    leBytes 2 e.faultNode

/-- ENUM_START ends: it is answered. -/
def State.endEnum (s : State) : State :=
  let e := s.fw.enum
  match s.takeWait .enumReply with
  | some (m, s) => (s.setEnum {}).answer m 0 e.reply
  | none => s.setEnum {}

/-- The last step of R466: the final ENUM_ROUTE to every node with children and to member B of a root pair; the root's own
enumeration ends (R298). -/
def State.finishEnum (s : State) : State :=
  let l := s.fw.enum.nodes
  let parents := l.filter fun x => l.any fun c => c.parent = routeKey x && c.level ≠ 0
  let final := parents ++ l.filter fun x => x.level = 0 && !(parents.contains x)
  let s := final.foldl (fun s x => s.sendRoute l x) s
  let s := { s with node := { s.node with routed := true } }
  s.grantAll.endEnum

/-- Enumeration goes on: the next assignment, the next level, or the end. The first argument bounds the levels left. -/
def State.stepEnum : Nat → State → State
  | 0, s => s.finishEnum
  | n + 1, s =>
    let e := s.fw.enum
    match e.work with
    | j :: rest =>
      let last := if j.member = 1 then e.next + 1 else e.next
      if j.member ≠ 2 ∧ 4095 < last then (s.setEnum (e.noteFault 1 j.parent)).endEnum
      else
        let e := if j.member = 3 then e.noteFault 3 e.next else e
        (s.setEnum { e with work := rest }).askJob j
    | [] =>
      let level := e.level + 1
      if ¬ e.nodes.any fun x => x.level = level then s.finishEnum
      else
        let above := e.nodes.filter fun x => x.level < level
        let s := above.foldl (fun s x => s.sendRoute e.nodes x) s
        let e := s.fw.enum
        if level = 4 then
          let e := match e.nodes.find? fun x => x.level = 4 && !x.pairB && x.southUp ≠ 0 with
            | some x => e.noteFault 2 x.id
            | none => e
          (s.setEnum { e with level := level }).finishEnum
        else State.stepEnum n (s.setEnum { e with level := level, work := levelJobs e.nodes level })

/-- The answer to the assignment in hand: the child's SOUTH_UP and SOUTH_PAIR, or none where it did not answer in time or was
refused (R469). -/
def State.jobDone (s : State) (j : EnumJob) (answer : Option (Nat × Nat)) : State :=
  let e := s.fw.enum
  let id := if j.member = 2 then e.next + 1 else e.next
  let e := match answer with
    | some r =>
      let x : EnumNode := { id := id, level := e.level + 1, parent := j.parent, port := j.port, pairB := j.member = 2,
                            southUp := r.1, southPair := r.2 }
      { e with nodes := e.nodes ++ [x] }
    | none => e.noteFault 4 j.parent
  let e :=
    if j.member = 1 then { e with mateOk := answer.isSome }
    else if j.member = 2 then
      let any : Bool := e.mateOk || answer.isSome
      { e with next := if any then e.next + 2 else e.next, pairs := if any then e.pairs + 1 else e.pairs, mateOk := false }
    else { e with next := if answer.isSome then e.next + 1 else e.next }
  State.stepEnum 6 (s.setEnum { e with ask := none })

/-- ENUM_START is carried out (R466): the root is the only node of level 0, with its partner. -/
def State.beginEnum (s : State) (m : Msg) : State :=
  let own : EnumNode := { id := 0, level := 0, parent := 0, port := 0, southUp := s.southMask, southPair := s.southPairs }
  let mate : List EnumNode := if s.paired then [{ id := 1, level := 0, parent := 0, port := 0, pairB := true }] else []
  let nodes := own :: mate
  let e : EnumSt := { nodes := nodes, work := levelJobs nodes 0, next := nodes.length }
  State.stepEnum 6 ((s.addWait m .enumReply).setEnum e)

/-- A reply for the node's own firmware (R376, R407, R469): that of the assignment in hand, or of the ENUM_ASSIGN relayed; any other is
discarded. -/
def State.takeReply (s : State) (bytes : List Byte) : State :=
  let tag := leAt bytes 2 2
  let status := leAt bytes 6 2
  match s.fw.enum.ask, s.fw.relay with
  | some (j, a), _ =>
    if a.tag.toNat ≠ tag then s
    else s.jobDone j (if status = 0 then some (leAt bytes 8 2, leAt bytes 10 4) else none)
  | none, some a =>
    if a.tag.toNat ≠ tag then s
    else
      let s := { s with fw := { s.fw with relay := none } }
      match s.takeWait .relay with
      | some (m, s) => s.answer m status (if status = 0 then bytesAt bytes 8 7 else [])
      | none => s
  | none, none => s

end Sys2Proof.Machine
end

