-- ==== Sys2Proof/Machine/LinkCmd.lean ====
section
/-! DEFINITION. The link group and replies: MBOX_REPLY_RX, ENUM_START, ENUM_REPLY_TIMEOUT, ENUM_ASSIGN, ENUM_RELAY, ENUM_ROUTE,
PAIR_GRANT, PAIR_FORCE_FAIL and LINK_RETRAIN (R376, R407, R408, R466-R469). -/

namespace Sys2Proof.Machine

/-- Firmware reads a word of a reply that stands poisoned in its RAM: the poison exception restarts it (R272, R324, R326). -/
def State.replyPoison (s : State) : State := { s.inc (R.poisonRead 3) with fw := { s.fw with restart := some 4 } }

/-- MBOX_REPLY_RX (R272, R326, R376, R377): for this node's firmware, or passed on through firmware RAM; it waits while firmware is stopped. -/
def execMboxReplyRx (port : Fin 19) (s : State) : Res :=
  .next (
    if ¬ s.fwRuns then s
    else match s.takeCtl port.val 0x02 with
    | none => s
    | some (m, s) =>
      let w := m.payload.headD 0
      let stamp := BitVec.ofNat 32 (wget w 0 32)
      if ¬ s.isHere m then s.passOn m
      else if m.bad.contains 1 then s.replyPoison
      else if fget stamp 4 8 ≠ s.node.incarnation.toNat then s.inc R.replyStale
      else if m.bad.any (2 ≤ ·) then s.replyPoison
      else
        let bytes := bytesAt (wordsBytes (m.payload.drop 1)) 0 (wget w 36 9)
        (s.ownReply stamp bytes).takeReply bytes)

/-- ENUM_START (R407, R466): at an unpaired root or member A of a root pair, from the host. -/
def execEnumStart (s : State) : Res :=
  .next (s.command 0x600 0 statesUC fun m s =>
    if ¬ s.isRoot ∨ stampClass m.stamp ≠ 1 ∨ (s.paired ∧ s.pairPos = 1) then s.answer m 4 []
    else s.beginEnum m)

/-- ENUM_REPLY_TIMEOUT (R469): 100 ms at the root, 10 ms at a node that relays. -/
def execEnumReplyTimeout (port : Fin 16) (s : State) : Res :=
  .next (
    if ¬ s.fwRuns then s
    else match s.fw.enum.ask, s.fw.relay with
      | some (j, a), _ => if a.port = port.val ∧ a.sentAt + 16000000 ≤ s.ticks then s.jobDone j none else s
      | none, some a =>
        if a.port = port.val ∧ a.sentAt + 1600000 ≤ s.ticks then
          let s := { s with fw := { s.fw with relay := none } }
          match s.takeWait .relay with
          | some (m, s) => s.answer m 4 []
          | none => s
        else s
      | none, none => s)

/-- ENUM_ASSIGN (R407, R468): the reply, then N0, N1 and P train once more. -/
def execEnumAssign (s : State) : Res :=
  .next (s.command 0x601 6 statesLUC fun m s =>
    if stampClass m.stamp ≠ 2 then s.answer m 4 []
    else
      let id := s.legal 0 0 0xFFF (m.field 0 2)
      let partner := s.legal 1 0 0xFFF (m.field 4 2)
      let level := s.legal 2 0 4 (m.byte 2)
      let s := s.skip 3
      let s := { s with node := { s.node with nodeId := BitVec.ofNat 12 id, level := BitVec.ofNat 8 level,
                                              partnerId := BitVec.ofNat 12 partner } }
      let s := if s.node.state = .linkup then s.enterUnconfigured else s
      let s := s.answer m 0 s.assignReply
      [16, 17, 18].foldl (fun s p => s.retrainPort p) s)

/-- ENUM_RELAY (R407, R469). -/
def execEnumRelay (s : State) : Res :=
  .next (s.command 0x602 8 statesLUC fun m s =>
    let p := s.legal 0 0 15 (m.byte 0)
    let s := s.skip 1
    if ¬ s.portUp p then s.answer m 4 []
    else
      let tag := s.fw.nextTag
      let s := { s with fw := { s.fw with nextTag := tag + 1, relay := some ⟨p, tag, s.ticks⟩ } }
      (s.addWait m .relay).fwSend p m.mbox 0x601 tag.toNat 0xFFF false (bytesAt m.args 2 6))

/-- ENUM_ROUTE (R298, R375, R407, R468): the final one ends enumeration at the node, and the child pairs are granted. No field of the command
names it: `final` is what the environment supplies (assumption 135). -/
def execEnumRoute (final : Bool) (s : State) : Res :=
  .next (s.command 0x603 192 statesLUC fun m s =>
    let s := s.takeRoutes m.args
    if ¬ final then s.answer m 0 []
    else
      let s := { s with node := { s.node with routed := true } }
      s.grantAll.answer m 0 [])

/-- PAIR_GRANT (R303, R304, R408): a SCOPE, PORT or GRANT_POS out of range gives an unpredictable result (R18). -/
def execPairGrant (s : State) : Res :=
  .next (s.command 0x604 16 statesCR fun m s =>
    let w := BitVec.ofNat 64 (m.field 8 8)
    let pos := s.legal 0 0 2 (wget w 0 2)
    let scope := s.legal 1 0 1 (m.byte 0)
    let p := s.legal 2 0 15 (m.byte 1)
    let s := s.skip 3
    if scope = 0 then
      (if ¬ (s.isRoot ∧ s.paired ∧ s.cfgF C.rootGrantSrc = 0) then s.answer m 4 []
       else (s.applyGrantWord (wset w 0 2 pos)).answer m 0 [])
    else match s.pairMate p with
      | none => s.answer m 4 []
      | some q =>
        let named := if s.memberPos p = pos then p else q
        if pos < 2 ∧ ¬ s.eligible named then s.answer m 4 []
        else (s.setGrant p pos).answer m 0 [])

/-- PAIR_FORCE_FAIL (R301, R407). -/
def execPairForceFail (s : State) : Res :=
  .next (s.command 0x605 0 statesCR fun m s => if s.paired then (s.setFail 5).answer m 0 [] else s.answer m 4 [])

/-- LINK_RETRAIN (R279, R407): each enabled port named. -/
def execLinkRetrain (s : State) : Res :=
  .next (s.command 0x606 4 [.unconfigured, .configured, .running] fun m s =>
    (bitsOf 19 (m.field 0 4)).foldl (fun s p => s.retrainPort p) (s.answer m 0 []))

end Sys2Proof.Machine
end

