-- ==== Sys2Proof/Machine/Pair.lean ====
section
/-! DEFINITION. Redundant pairs: GRANT_RX to RESYNC_JOIN, the start of acquisition (R147, R314), the memory BIST of a bank
(R312, R483-R485), and PCIE_LINK_UP, which may commit an image that the partner held (R314, R456). -/

namespace Sys2Proof.Machine

/-! ## Start of acquisition -/

/-- Acquisition starts (R147, R71): numbers count from 0, and nothing remains of the contexts of a run before. -/
def State.startAcq (s : State) : State :=
  let s := (s.setF R.nextSelf 0).setF R.nextExt 0
  let time : TimeSt := { s.time with starts := s.time.starts + 1, nextStart := 0, window := none, firstFrame := none,
                                     lastFrame := none, mergeOnly := false }
  let s := { s with
    time := time
    pool := { s.pool with lastClosed := none, closedEvents := [], ownLost := [], frameDone := none }
    node := { s.node with stopping := false } }
  s.enterState .running

/-! ## Memory BIST -/

/-- A pool bank holds no allocated slot. -/
def State.bankEmpty (s : State) (b : Nat) : Bool :=
  let l := s.pool.orphans ++ s.pool.items.flatMap fun (i : Item) => i.slots
  l.all fun n => n / 16384 ≠ b

/-- A memory BIST starts: a pool bank under test is excluded from allocation. -/
def State.memTestStart (s : State) (m g : Nat) (idle : Bool) : State :=
  let s := { s with test := { s.test with mem := some (m, g, idle) } }
  let s := if m = 0 then { s with pool := { s.pool with excludedBank := some g } } else s
  s.setF R.mbistBusy 1

/-- The code word, within its group, of read `i` of a memory BIST: elements 2 to 6 read each code word once, 2 and 3 ascending, 4 and 5
descending (R483). -/
def mbistWord (i : Nat) : Nat :=
  let k := i % 262144
  let e := i / 262144
  if e < 2 then k else if e < 4 then 262143 - k else (Config.lastElement k).val

/-- The CRC taken over `n` mismatch vectors 0; it stays 0 from 0. -/
def mbistClean (n : Nat) (crc : W32) : W32 := if crc = 0 then 0 else Nat.repeat (fun c => mbistCrc c 0) n crc

/-- The CRC of all mismatch vectors from read `i` on, in read order. -/
def mbistSum : Nat → W32 → List (Nat × BitVec 19) → W32
  | i, crc, [] => mbistClean (1310720 - i) crc
  | i, crc, e :: l => mbistSum (e.1 + 1) (mbistCrc (mbistClean (e.1 - i) crc) e.2) l

/-- SIGNATURE, FAIL_SYMBOLS, FIRST_FAIL and PASS of a memory BIST of group `g` (R483, R486). -/
def mbistSignature (r : MbistResult) : W32 := mbistSum 0 0 r.mismatches
def mbistSymbols (r : MbistResult) : BitVec 19 := r.mismatches.foldl (fun a e => a ||| e.2) 0
def mbistFirst (g : Nat) (r : MbistResult) : Nat :=
  match r.mismatches with
  | e :: _ => 262144 * g + mbistWord e.1
  | [] => 0
def mbistOk (r : MbistResult) : Bool := mbistSymbols r = 0 && mbistSignature r = 0

/-- A memory BIST ends (R484, R485, R491): every code word of the group holds the all-zero code word, and the registers show the
result. -/
def State.memTestEnd (s : State) (m g : Nat) (idle : Bool) (r : MbistResult) : State :=
  let lo := 262144 * g
  let v := s.mem m
  let out (a : Nat) : Bool := a < lo || lo + 262144 ≤ a
  let s := s.setMem m { v with cells := Tab.clear v.cells lo (lo + 262144), buffer := v.buffer.filter fun e => out e.addr,
                               ueSeen := v.ueSeen.filter out }
  let s := { s with test := { s.test with mem := none } }
  let s := if m = 0 then { s with pool := { s.pool with excludedBank := none } } else s
  let s := ((s.setF R.mbistBusy 0).setF R.mbistMem m).setF R.mbistGroup g
  let s := ((s.setF R.mbistPass (boolNat (mbistOk r))).setF R.mbistFailSymbols (mbistSymbols r).toNat).setF R.mbistAddr
    (mbistFirst g r)
  let s := s.incWrap R.mbistRuns 1
  let s := if m = 0 then s.storeHeld else s
  if mbistOk r then s
  else
    let s := if idle then { s with pair := { s.pair with bistFailed := true } } else s
    ((s.inc R.mbistFails).setFlag R.bistFail).setFail 2

/-- A `BIST_MEM` is accepted (R411, R484). -/
def State.bistAccepts (s : State) (m g : Nat) : Bool :=
  if m = 0 then decide (g < 12) && s.bankEmpty g
  else if m = 1 then decide (g < 8) && s.node.state = .unconfigured && s.fw.cfg.isNone
  else m = 2 && decide (g < 4) && (s.node.state = .unconfigured || s.node.state = .safe)

/-- A `BIST_MEM` begins, or is refused. -/
def State.bistBegin (s : State) (m : Msg) : State :=
  if s.bistAccepts (m.byte 0) (m.byte 1) then (s.addWait m .bistMem).memTestStart (m.byte 0) (m.byte 1) false
  else s.answer m 4 []

/-- The `BIST_MEM`s that waited for the test now ended, oldest first: they are refused until one begins (R485). -/
def State.bistServe : Nat → State → State
  | 0, s => s
  | n + 1, s =>
    match s.takeWait .bistIdle with
    | some (m, t) => if (t.bistBegin m).test.mem.isSome then t.bistBegin m else State.bistServe n (t.bistBegin m)
    | none => s
def State.bistNext (s : State) : State := s.bistServe s.fw.waits.length

/-- BIST_IDLE_START (R312): at a standby that is configured, on a bank with no allocated slot. -/
def execBistIdleStart (bank : Fin 12) (s : State) : Res :=
  .next (
    if s.operating ∧ s.paired ∧ s.getF R.active = 0 ∧ s.cfgF C.bistIdleEn = 1 ∧ s.test.mem.isNone ∧ s.bankEmpty bank.val then
      s.memTestStart 0 bank.val true
    else s)

/-- BIST_IDLE_DONE (R312, R485). -/
def execBistIdleDone (result : MbistResult) (s : State) : Res :=
  .next (
    match s.test.mem with
    | some (m, g, true) => (s.memTestEnd m g true result).bistNext
    | _ => s)

/-! ## Grants -/

/-- GRANT_RX (R304, R308): a member acts on the grant it received last. -/
def execGrantRx (port : Fin 19) (s : State) : Res :=
  .next (
    match s.takeCtl port.val 0x20 with
    | none => s
    | some (m, s) => s.applyGrantWord (m.payload.headD 0))

/-- GRANT_PERIODIC (R304): to both members of each child pair. -/
def execGrantPeriodic (s : State) : Res :=
  .next ((List.range 16).foldl (fun (s : State) (p : Nat) =>
    if s.memberPos p = 0 ∧ (s.pairMate p).isSome then s.sendGrant p else s) s)

/-- GRANT_IN_CHANGE (R309): a level that has held for 1 us, at a root member that takes its grant from the pin. It resumes behind
OUT_FRAME of its partner's last HEARTBEAT. -/
def execGrantInChange (level : Bool) (s : State) : Res :=
  .next (
    ({ s with pair := { s.pair with grantIn := level } }).pinGrant)

/-! ## Heartbeat and health -/

/-- A heartbeat over P (R311, R314): the signature is compared; a partner that is READY needs no more help. -/
def State.partnerBeat (s : State) (w1 w2 : Word) : State :=
  let s := { s with pair := { s.pair with partnerHb := some (w1, w2) } }
  let s := s.compareSig (BitVec.ofNat 32 (wget w1 32 32)) (BitVec.ofNat 32 (wget w2 0 32))
  if wget w1 19 1 = 1 ∧ s.getF R.resync = 0 then { s with pair := { s.pair with resyncStep := 0 } } else s

/-- HEARTBEAT_RX (R302, R303, R311). -/
def execHeartbeatRx (port : Fin 19) (s : State) : Res :=
  .next (
    let p := port.val
    match s.takeCtl p 0x21 with
    | none => s
    | some (m, s) =>
      let w1 := m.payload.headD 0
      if p = 18 then s.partnerBeat w1 (m.payload.getD 1 0)
      else
        let bad : Bool := wget w1 18 1 = 1
        let s := s.setArb p { s.arb p with lastHb := some s.ticks, hbFail := bad }
        if bad then s.declareFailed p 3 else s.arbReview p)

/-- HEALTH_RX (R302). -/
def execHealthRx (port : Fin 19) (s : State) : Res :=
  .next (
    let p := port.val
    match s.takeCtl p 0x22 with
    | none => s
    | some (m, s) =>
      let w := m.payload.headD 0
      if p = 18 then { s with pair := { s.pair with partnerHealth := w } }
      else
        let bad : Bool := wget w 0 1 = 1
        let storm : Bool := 64 < wget w 16 16
        let s := s.setArb p { s.arb p with storm := storm, hbFail := bad }
        if storm then s.declareFailed p 2 else if bad then s.declareFailed p 3 else s.arbReview p)

/-- HB_ARM_WRITE (R299, R316): by firmware. -/
def execHbArmWrite (value : BitVec 32) (s : State) : Res :=
  .next (if s.fwRuns ∧ value.getLsbD 0 then { s with pair := { s.pair with hbArmed := true } } else s)

/-- HEARTBEAT_TICK (R299). -/
def execHeartbeatTick (s : State) : Res :=
  .next (
    if ¬ s.paired ∨ s.node.state.code < 3 then s
    else
      let armed := s.pair.hbArmed
      let s := { s with pair := { s.pair with hbArmed := false } }
      if s.getF R.fail = 1 then { s with pair := { s.pair with healthOut := false } }
      else if ¬ armed then s
      else
        let seq := s.pair.hbSeq + 1
        let s := ({ s with pair := { s.pair with hbSeq := seq } }).setF R.hbSeq seq.toNat
        let ws := s.hbWords
        let s := s.memberPorts.foldl (fun (s : State) (p : Nat) => s.sendMsg p (.of 0x21 0xFFF (s.portStamp p) ws)) s
        { s with pair := { s.pair with healthOut := !s.pair.healthOut } })

/-- HEALTH_SEND (R300, R354, R356, R390): every node holds the status area; the vector is the root's. -/
def execHealthSend (s : State) : Res :=
  .next (
    if ¬ s.paired ∨ ¬ s.fwRuns then s
    else
      let w := s.healthWord
      let s := s.memberPorts.foldl (fun (s : State) (p : Nat) => s.sendMsg p (.of 0x22 0xFFF (s.portStamp p) [w])) s
      let s := { s with pair := { s.pair with mismatchRecent := false } }
      ((s.setF R.healthLo (wget w 0 32)).setF R.healthHi (wget w 32 32)).msix 11)

/-- HB_TIMEOUT (R302, R303, R307): 350 us without a HEARTBEAT from the member on a port. -/
def execHbTimeout (port : Fin 16) (s : State) : Res :=
  .next (
    let p := port.val
    let late : Bool := match (s.arb p).lastHb with | some t => decide (t + 56000 ≤ s.ticks) | none => true
    if late then s.declareFailed p 1 else s)

/-! ## Signatures and resynchronisation -/

/-- SIG_SEAL (R310). -/
def execSigSeal (frame : BitVec 32) (s : State) : Res :=
  .next (
    let due := frameTick (frame + BitVec.ofNat 32 (s.cfgF C.sigDelay))
    if ¬ s.paired ∨ ¬ s.operating ∨ ¬ reached s.time.coarse due ∨ s.pair.sigs.any fun e => e.1 = frame then s
    else
      let sig : BitVec 32 := match s.pair.sigOpen.find? fun e => e.1 = frame with | some e => e.2 | none => 0
      { s with pair := { s.pair with sigs := ((frame, sig) :: s.pair.sigs).take 16,
                                     sigOpen := s.pair.sigOpen.filter fun e => !upTo e.1 frame } })

/-- PAIR_IMAGE_RX (R313, R314): an image of its own that the partner held is committed by a member in step 1 of its resynchronisation, in
LINKUP once it is UNCONFIGURED. One that the partner has committed is kept as its newest; where this node helps a partner to
resynchronise, its directory copy begins. -/
def execPairImageRx (own : Bool) (image : List Byte) (s : State) : Res :=
  .next (
    if ¬ s.paired ∨ ¬ s.portUp 18 then s
    else if own then
      (if s.getF R.resync = 0 ∨ s.pair.resyncStep ≠ 1 then s
       else if s.node.state = .linkup then { s with pair := { s.pair with ownImage := some image } }
       else if s.node.state = .unconfigured then s.resyncCommit image
       else s)
    else
      let s := { s with pair := { s.pair with heldImage := some image } }
      if s.getF R.resync = 0 ∧ s.pair.resyncStep = 1 then { s with dir := { s.dir with copying := true, copyWrites := [] } } else s)

/-- RESYNC_DIR_COPY_DONE (R314, R315): at the member the entries stand in the bank of the same letter, which becomes active; at the
partner the copy ends, and what was written meanwhile is repeated, or it starts again where a swap is pending or more than 1,024 entries were written meanwhile. -/
def execResyncDirCopyDone (bankB : Bool) (entries : List (Nat × Word)) (s : State) : Res :=
  .next (
    if s.getF R.resync = 1 then
      (if s.pair.resyncStep ≠ 2 then s
       else
         let s := s.writeEntries bankB 0 entries
         let s := ((s.setF R.dirActive (boolNat bankB)).setF R.shadowState 0).setF R.swapPending 0
         { s with dir := { s.dir with good := [] }, pair := { s.pair with resyncStep := 3 } })
    else if ¬ s.dir.copying then s
    else if s.getF R.swapPending = 1 ∨ 1024 < s.dir.copyWrites.length then { s with dir := { s.dir with copyWrites := [] } }
    else
      let w := s.dir.copyWrites
      let s := { s with dir := { s.dir with copying := false, copyWrites := [] }, pair := { s.pair with resyncStep := 2 } }
      if w = [] then s else s.emit (.dirWrites (s.getF R.dirActive = 1) w))

/-- RESYNC_JOIN (R314): at frame F_join the member opens contexts, and where its partner is RUNNING starts acquisition of its own
cells with the coarse time it has loaded. -/
def execResyncJoin (partnerRunning : Bool) (s : State) : Res :=
  .next (
    match s.pair.joinFrame with
    | none => s
    | some f =>
      if s.getF R.resync = 0 ∨ s.pair.resyncStep ≠ 4 ∨ ¬ reached s.time.coarse (frameTick f) then s
      else
        let s := { s with pair := { s.pair with resyncStep := 5, joinFrame := none } }
        if partnerRunning ∧ s.node.state = .configured then s.startAcq.beginRun f
        else { s with time := { s.time with firstFrame := some f, lastFrame := none, mergeOnly := true } })

/-- PCIE_LINK_UP (R24, R314, R456, R466): at the root, with PERST_N high and REFCLK present. From LINKUP the root takes its
NODE_ID and enters UNCONFIGURED. -/
def execPcieLinkUp (s : State) : Res :=
  .next (
    if s.isRoot ∧ 3 ≤ s.node.state.code ∧ s.node.perstN ∧ s.getF R.refclkPresent = 1 then
      let s := { s with host := { s.host with linkUp := true } }
      let s :=
        if s.node.state ≠ .linkup then s
        else
          let b : Bool := s.paired ∧ s.pairPos = 1
          let own : BitVec 12 := if b then 1 else 0
          let other : BitVec 12 := if s.paired then 1 - own else 0xFFF
          let s := { s with node := { s.node with nodeId := own, level := 0, partnerId := other } }
          s.enterUnconfigured
      s.msixFlushAll
    else s)

end Sys2Proof.Machine
end

