-- ==== Sys2Proof/Machine/AcqCmd.lean ====
section
/-! DEFINITION. The acquisition and timebase groups: ACQ_START to ACQ_TRIGGER, TB_RESTART, CAL_RESTART, CAL_TABLE_READ and
CAL_TABLE_WRITE (R54, R147, R402-R405). -/

namespace Sys2Proof.Machine

/-- ACQ_START (R2, R54, R147, R402). -/
def execAcqStart (s : State) : Res :=
  .next (s.command 0x300 0 [.configured] fun m s =>
    if (List.range 8).any fun r => s.regionConfigured r && decide (s.regionState r ≠ 2) then s.answer m 2 []
    else if s.role = 3 then s.answer m 4 []
    else ((s.setF R.epochLoaded 0).startAcq).answer m 0 [])

/-- ACQ_STOP (R147, R402): it applies at the next sample boundary, and its reply follows when records are delivered. -/
def execAcqStop (s : State) : Res :=
  .next (s.command 0x301 0 [.running] fun m s =>
    let s := s.addWait m .acqStop
    if s.node.stopping ∨ s.node.acts.contains .stop then s
    else { s with node := { s.node with acts := s.node.acts ++ [.stop] } })

/-- No window is open that keeps its stops (R147). -/
def State.windowShut (s : State) : Bool :=
  match s.time.window with
  | some w => !w.opened || w.closed
  | none => true

/-- ACQ_STOP_COMPLETE (R147, R456): accepted records are delivered, and the node is CONFIGURED; a SAFE node stays SAFE. -/
def execAcqStopComplete (s : State) : Res :=
  .next (
    if ¬ s.acqDrained ∨ ¬ s.windowShut ∨ ¬ s.fwRuns then s
    else
      let s := { s with node := { s.node with stopping := false } }
      let s := if s.running then s.enterState .configured else s
      match s.takeWait .acqStop with
      | some (m, s) => s.answer m 0 []
      | none => s)

/-- ACQ_THAW (R142, R143, R402): the named blocks that are in Frost thaw at the next sample boundary, which answers. -/
def execAcqThaw (s : State) : Res :=
  .next (s.command 0x302 16 statesCR fun m s =>
    let s := s.addWait m .thaw
    let named := (bitsOf 128 (m.field 0 16)).filter fun b => s.getF (R.acqState b) = 6
    { s with node := { s.node with acts := s.node.acts ++ [.thaw (BitVec.ofNat 128 (named.foldl (fun a b => a + 2 ^ b) 0))] } })

/-- FIRST_CELL and COUNT of a range of cells as the node takes them (R18). -/
def State.cellRange (s : State) (m : Msg) : Nat × Nat :=
  let first := s.legal 0 0 2047 (m.field 0 2)
  (first, s.legal 1 1 (2048 - first) (m.field 2 2))

/-- ACQ_CELL_SET (R102, R114, R403): the new values apply at the next sample boundary. -/
def execAcqCellSet (s : State) : Res :=
  .next (s.command 0x303 16 statesCR fun m s =>
    let r := s.cellRange m
    let act : BoundaryAct := .cellSet r.1 r.2 (BitVec.ofNat 8 (m.byte 4 % 16)) (m.field 6 2 % 1024) (m.byte 8 % 16)
      (m.byte 9 % 2) (m.byte 10 % 4)
    (({ s with node := { s.node with acts := s.node.acts ++ [act] } }).skip 2).answer m 0 [])

/-- A mask point is replaced (R404): records accepted before keep the point as it was. -/
def State.setMaskPoint (s : State) (b i lower upper : Nat) : State :=
  let v := s.block b
  let old : Nat × Nat × Nat := (i, s.cfgF (C.maskLower b i), s.cfgF (C.maskUpper b i))
  let recs := v.recs.map fun r => if r.read ∨ r.points.any (fun e => e.1 = i) then r else { r with points := old :: r.points }
  (((s.setBlock b { v with recs := recs }).tableWrite [Config.maskWord b i]).setCfg (C.maskLower b i) lower).setCfg
    (C.maskUpper b i) upper

/-- ACQ_MASK_WRITE (R404): points past 255 wrap to point 0. A BLOCK or COUNT out of range gives an unpredictable result, and so does a
point with LOWER above UPPER (R18). -/
def execAcqMaskWrite (s : State) : Res :=
  .next (s.commandL 0x304 (fun m => 8 + 8 * m.byte 3) statesCR fun m s =>
    let b := s.legal 0 0 127 (m.field 0 2)
    let n := s.legal 1 1 30 (m.byte 3)
    let point (k : Nat) : Nat := m.field (8 + 8 * k) 8
    let lower (k : Nat) : Nat := nget (point k) 0 18
    let upper (k : Nat) : Nat := unsigned 18 (s.legalInt (2 + k) (signed 18 (lower k)) 131071 (signed 18 (nget (point k) 32 18)))
    let s := s.skip 32
    if s.getF (R.acqState b) ≠ 0 ∧ s.getF (R.acqState b) ≠ 6 then s.answer m 4 []
    else
      ((List.range n).foldl (fun (s : State) (k : Nat) => s.setMaskPoint b ((m.byte 2 + k) % 256) (lower k) (upper k)) s).answer m 0 [])

/-- ACQ_TRIGGER (R122, R283, R284, R402): the node takes a tree trigger and forwards it south. -/
def execAcqTrigger (s : State) : Res :=
  .next (s.command 0x305 16 [.running] fun m s =>
    let num := BitVec.ofNat 32 (m.field 0 4)
    let t := BitVec.ofNat 61 (m.field 8 8)
    let s := s.takeTree num t
    let ws : List Word := [num.zeroExtend 64, t.zeroExtend 64]
    (s.southUp.foldl (fun (s : State) (p : Nat) => s.sendMsg p (.of 0x10 0xFFF (s.portStamp p) ws)) s).answer m 0 [])

/-- TB_RESTART (R53, R405, R449): the named regions that are FAILED return to ACQUIRE. -/
def execTbRestart (s : State) : Res :=
  .next (s.command 0x400 1 statesCR fun m s =>
    let l := (bitsOf 8 (m.byte 0)).filter fun r => s.regionState r = 5
    (l.foldl (fun (s : State) (r : Nat) => s.tbAcquire r) s).answer m 0 (leBytes 1 (l.map fun r => 2 ^ r).sum))

/-- CAL_RESTART (R77-R79, R405): k is 0 again, so the cell is no longer converged. -/
def execCalRestart (s : State) : Res :=
  .next (s.command 0x401 4 statesCR fun m s =>
    let r := s.cellRange m
    ((List.range r.2).foldl (fun (s : State) (i : Nat) =>
      let c := r.1 + i
      let s := s.setCell c { s.cell c with calTotal := 0, calSeg := [], rejectRun := 0 }
      ((s.setF (R.calSuspect c) 0).setF (R.calUpdates c) 0).setF (R.calConverged c) 0) (s.skip 2)).answer m 0 [])

/-- CAL_TABLE_READ (R405): the active table of a cell. -/
def execCalTableRead (s : State) : Res :=
  .next (s.command 0x402 2 statesCR fun m s =>
    let r := (s.skip 1).inlTable (s.legal 0 0 2047 (m.field 0 2))
    r.2.answer m 0 (leBytes 8 r.1.2 ++ (List.range 64).flatMap fun i => leBytes 2 (unsigned 16 (Tab.get 0 r.1.1 i))))

/-- CAL_TABLE_WRITE (R76, R405): the inactive copy is written, C[0] as 0, and becomes active; k stays. -/
def execCalTableWrite (s : State) : Res :=
  .next (s.command 0x403 136 statesCR fun m s =>
    let tab : Tab Int := Tab.update 0 [] 1 63 fun i _ => signed 16 (m.field (8 + 2 * i) 2)
    ((s.skip 1).calLoad (s.legal 0 0 2047 (m.field 0 2)) tab).answer m 0 [])

end Sys2Proof.Machine
end

