-- ==== Sys2Proof/Machine/Cell.lean ====
section
/-! DEFINITION. The cells: CAL_UPDATE to CELL_SETTLE_END and SAMPLE_CONVERSION (R74-R81, R89-R118). -/

namespace Sys2Proof.Machine

/-- CAL_UPDATE (R77-R79, R81): with calibration on, when N reaches 2^CAL_HITS_LOG the measurement is formed, the counters are cleared and the update
rule applies; a suspect cell's table stays frozen. An entry that leaves 16 bits has no stated value and is a free value. -/
def execCalUpdate (cell : Fin 2048) (s : State) : Res :=
  .next (
    let c := cell.val
    let r := c / 256
    let v := s.cell c
    if v.calTotal < 2 ^ s.cfgF (C.calHitsLog r) ∨ s.cfgF (C.calSource r) = 3 then s
    else
      let n := v.calTotal
      let below (i : Nat) : Nat := ((List.range i).map fun j => Tab.get 0 v.calSeg j).sum
      let m (i : Nat) : Int := if i = 0 then 0 else roundAway (16 * (8192 * (below i : Int) - 128 * i * n)) n
      let s := s.setCell c { v with calTotal := 0, calSeg := [] }
      if s.getF (R.calSuspect c) = 1 then s
      else
        let read := s.inlTable c
        let s := read.2
        let old (i : Nat) : Int := Tab.get 0 read.1.1 i
        let k := s.getF (R.calUpdates c) + 1
        let full := 2 ^ s.cfgF (C.calShift r)
        let worst := ((List.range 64).map fun i => (m i - old i).natAbs).foldl max 0
        if s.getF (R.calConverged c) = 1 ∧ 16 * s.cfgF (C.calRejectLsb r) < worst then
          let run := v.rejectRun + 1
          let s := (s.setRun c run).inc (R.calReject c)
          if 16 ≤ run then s.setF (R.calSuspect c) 1 else s
        else
          let new (i : Nat) : Int :=
            let x := old i + roundAway (m i - old i) (min k full)
            if -32768 ≤ x ∧ x ≤ 32767 then x else signed 16 (Config.freeValue (s.free + i)).toNat
          let s := (s.drawTable.calLoad c (Tab.update 0 [] 1 63 fun i _ => new i)).setRun c 0
          let s := s.inc (R.calUpdates c)
          if full ≤ k then s.setF (R.calConverged c) 1 else s)

/-- CAL_PULSE (R81): counted where CAL_SOURCE selects the pulser, unless a real stop holds the interpolator. -/
def execCalPulse (cell : Fin 2048) (raw : BitVec 13) (s : State) : Res :=
  .next (
    let c := cell.val
    let src := s.cfgF (C.calSource (c / 256))
    let busy := (s.cell c).hits.any fun h => h.stamp.isNone
    if (src = 1 ∨ src = 2) ∧ ¬ busy ∧ s.cellMode c ≠ 0 then s.calCount c raw else s)

/-- DISC_RISE (R51, R53, R65, R101, R104, R109, R114, R117, R141): a rising edge of a cell that is powered and enabled, in a region whose
discriminators are not gated off; where the cell has settled and its region stamps hits, the edge starts a hit or is lost. A stop that
starts in Frost is judged by no window (R61, R62): its word counts FROST_DROPPED when it is formed (R141; assumption 126). The edge that a
discharge makes starts a hit with SAT = 1, and for 10 us after it no further edge of the cell starts one (R519; assumption 171). -/
def execDiscRise (cell : Fin 2048) (raw : DiscEdge) (s : State) : Res :=
  .next (
    let c := cell.val
    let st := s.regionState (c / 256)
    let v := s.cell c
    if s.cellMode c = 0 ∨ s.cfgF (C.discEn c) = 0 ∨ s.getF (R.discHigh c) = 1 ∨ st = 0 ∨ st = 5 then s
    else if v.settling.isSome ∨ v.stunned s.ticks ∨ ¬ (st = 2 ∨ st = 3 ∨ st = 4) then (s.strike c raw.discharge).setF (R.discHigh c) 1
    else
      let s := (s.strike c raw.discharge).setF (R.discHigh c) 1
      let v := s.cell c
      let t := s.ticks * 8192 + raw.raw.toNat
      let gap : Nat := match v.lastEdge with | some e => t - e | none => 2 ^ 60
      let starts : Bool := if gap = 15728 ∨ gap = 15729 then s.freshBit else decide (15729 < gap)
      let hits := v.hits.map (s.markPileup c)
      if starts then
        let records := s.recordsStops
        let frozen : Bool := s.getF (R.acqState (c / 16)) = 6
        let h : Hit := { coarse := s.time.coarse, raw := raw.raw, struck := raw.discharge, full := s.cellMode c = 2, live := (records || s.awaitsLoad) && !frozen,
                         frost := records && frozen, early := s.awaitsLoad }
        s.drawn.setCell c { v with hits := hits ++ [h], lastEdge := some t }
      else (s.drawn.setCell c { v with hits := updLast (fun h => { h with pileup := true }) hits }).inc (R.dprLost c))

/-- INTERPOLATION_DONE (R61, R65, R74, R77, R119, R123): the oldest stop without a stamp is corrected and counted, its window
is judged, and it is the decision instant of the CELL and BLOCK triggers. -/
def execInterpolationDone (cell : Fin 2048) (s : State) : Res :=
  .next (
    let c := cell.val
    match (s.cell c).hits.find? fun h => h.stamp.isNone with
    | none => s
    | some h =>
      let read := s.inlRead c h.raw
      let s := read.2
      let stamp := inlCorrect read.1 h.coarse h.raw
      let src := s.cfgF (C.calSource (c / 256))
      let s := if src = 0 ∨ src = 2 then s.calCount c h.raw else s
      let r := s.judgeStop c { h with stamp := some stamp }
      let done := r.1
      let s := r.2
      let rec put : List Hit → List Hit
        | [] => []
        | x :: l => if x.stamp.isNone then { done with pileup := x.pileup, tot := x.tot } :: l else x :: put l
      let s := s.setCell c { s.cell c with hits := put (s.cell c).hits }
      if s.judging ∧ stampReached stamp s.time.loadPoint then s.edgeTriggers c stamp else s)

/-- DISC_FALL (R100, R112). -/
def execDiscFall (cell : Fin 2048) (period : BitVec 3) (saturated : Bool) (s : State) : Res :=
  .next (if s.getF (R.discHigh cell.val) = 1 then s.fallCell cell.val period.toNat saturated else s)

/-- TOT_LIMIT (R112): in TIMING the count reaches 4,095 before the discriminator falls. -/
def execTotLimit (cell : Fin 2048) (saturated : Bool) (s : State) : Res :=
  .next (
    let v := s.cell cell.val
    let due (h : Hit) : Bool := !h.full && h.tot.isNone &&
      4095 ≤ (s.time.coarse - h.coarse).toNat * 8 + 7 - h.raw.toNat / 1024
    let hits := v.hits.map fun h => if due h then { h with tot := some (4095, saturated) } else h
    s.setCell cell.val { v with hits := hits })

/-- HIT_WORD_FORMED (R68, R108-R113, R141, R144, R154, R156): the oldest hit of the cell, when it is due, becomes a word in the
derandomiser, unless its stop was not to be recorded; one that started in Frost is dropped and counted. -/
def execHitWordFormed (cell : Fin 2048) (s : State) : Res :=
  .next (
    let c := cell.val
    let b := c / 16
    match (s.cell c).hits with
    | [] => s
    | h :: rest =>
      match h.stamp with
      | none => s
      | some stamp =>
        let n0 := s.hitSample h
        let last := n0 + s.cfgF (C.qLen b) - 1
        let due : Bool := decide (s.absTick h.coarse + 3 ≤ s.ticks) &&
          (if h.full then decide (last + 3 ≤ s.lastSample) else h.tot.isSome)
        if ¬ due then s
        else
          let v := s.cell c
          let overlap : Bool := h.full && (match v.lastWindowEnd with
            | some e => decide (n0 ≤ e + s.cfgF (C.qPre b)) | none => false)
          let s := s.setCell c { v with hits := rest, lastWindowEnd := if h.full then some last else v.lastWindowEnd }
          let judged := s.judgeStop c h
          let s := judged.2
          let h := judged.1
          match h.live, h.key with
          | true, some key =>
            let w : QSum × State :=
              if h.full then s.qWindow (s.cfgF (C.qPre b) + s.cfgF (C.qLen b)) c ((n0 : Int) - s.cfgF (C.qPre b)) {}
              else ({ sat := match h.tot with | some t => t.2 | none => false }, s)
            let s := w.2
            let sat : Bool := w.1.sat || h.struck
            let q : Nat :=
              if h.full then
                (if w.1.poison then 0 else (min 4095 (max 0 (w.1.sum / 2 ^ s.cfgF (C.qShift b)))).toNat)
              else (match h.tot with | some t => t.1 | none => 0)
            let coarse := stampCoarse stamp
            let hold := boolNat (s.inHoldover (c / 256) coarse)
            let word := hitWord c (stampFine stamp).toNat (coarse - h.base).toNat q w.1.range (boolNat (h.pileup || overlap))
              (boolNat w.1.settle) (boolNat sat) hold (boolNat w.1.poison)
            let s := if sat then s.setFlag (R.satSeen c) else s
            s.derandomise c ⟨word, stamp, key⟩
          | _, _ => if h.frost then s.inc (R.frostDropped b) else s)

/-- RANGE_SWITCH_UP (R93, R95): an overload comparator trips below the highest range under auto-ranging. One switch falls in a
sample: the next comes with the next sample. -/
def execRangeSwitchUp (cell : Fin 2048) (s : State) : Res :=
  .next (
    let c := cell.val
    let r := s.getF (R.curRange c)
    if s.cellMode c = 2 ∧ s.cfgF (C.rangeMode c) = 0 ∧ r < 2 ∧ ¬ (s.cell c).switched then
      ((s.setCell c { s.cell c with switched := true, downCount := 0 }).setF (R.curRange c) (r + 1)).incWrap (R.rangeUp c) 1
    else s)

/-- RANGE_SWITCH_DOWN (R94): after 16 qualifying samples. -/
def execRangeSwitchDown (cell : Fin 2048) (s : State) : Res :=
  .next (
    let c := cell.val
    let r := s.getF (R.curRange c)
    if s.cellMode c = 2 ∧ s.cfgF (C.rangeMode c) = 0 ∧ 0 < r ∧ 16 ≤ (s.cell c).downCount then
      ((s.setCell c { s.cell c with switched := true, downCount := 0 }).setF (R.curRange c) (r - 1)).incWrap (R.rangeDown c) 1
    else s)

/-- CELL_SETTLE_END (R114): 2 us after its mode began, the cell starts producing hits. -/
def execCellSettleEnd (cell : Fin 2048) (s : State) : Res :=
  .next (
    match (s.cell cell.val).settling with
    | some t => if t + 320 ≤ s.ticks then s.setCell cell.val { s.cell cell.val with settling := none } else s
    | none => s)

/-- SAMPLE_CONVERSION (R94, R96, R105, R106): sample `n` of a cell in FULL, taken once and in order, is judged for range switching, and
where the block's samplers write, stored as a container. -/
def execSampleConversion (cell : Fin 2048) (n : Nat) (code : BitVec 10) (s : State) : Res :=
  .next (
    let c := cell.val
    if s.cellMode c ≠ 2 ∨ s.regionState (c / 256) = 0 ∨ s.regionState (c / 256) = 5 ∨ s.lastSample < n ∨
      ((s.cell c).lastConv.any fun m => decide (n ≤ m)) then s
    else
      let v := s.cell c
      let r := s.getF (R.curRange c)
      let sat : Bool := code = 0x3FF ∧ r = s.topRange c
      let x := BitVec.ofNat 16 (code.toNat + (if sat then 3 else r) * 1024 + boolNat v.switched * 4096)
      let low : Bool := s.cfgF (C.rangeMode c) = 0 ∧ 0 < r ∧ ¬ v.switched ∧ code.toNat ≤ s.cfgF (C.adcOffset c) + 12
      let s := s.setCell c { v with switched := false, downCount := if low then v.downCount + 1 else 0, lastConv := some n }
      let blk := s.block (c / 16)
      match blk.page with
      | some p =>
        let first := ((Tab.get {} blk.pages p).gens.headD (0, 0)).1
        if blk.sampling ∧ first ≤ n ∧ n < first + 64 ∧ n < s.writtenEnd blk then s.storeContainer c (64 * p + (n - first)) x else s
      | none => s)

end Sys2Proof.Machine
end

