-- ==== Sys2Proof/Machine/Cfg.lean ====
section
/-! DEFINITION. The configuration and patch groups: CFG_DATA, CFG_COMMIT, CFG_QUERY, CFG_DISCARD, PATCH_DATA, PATCH_APPLY and
PATCH_STATUS (R396-R401, R412, R413, R475, R476). -/

namespace Sys2Proof.Machine

/-- CFG_DATA (R396-R400). -/
def execCfgData (s : State) : Res := .next (s.imageCommand 0x200)

/-- PATCH_DATA (R396-R399, R412). -/
def execPatchData (s : State) : Res := .next (s.imageCommand 0xA00)

/-- CFG_COMMIT (R401, R475, R476): the checks, then the commit. -/
def execCfgCommit (s : State) : Res :=
  .next (s.command 0x201 8 statesUC fun m s =>
    let generation := m.field 0 4
    let reply (crc failed : Nat) : List Byte := leBytes 4 generation ++ leBytes 4 crc ++ leBytes 1 failed ++ leBytes 3 0
    if s.fw.cfg.isSome then s.answer m 1 []
    else match s.fw.staged with
      | none => s.answer m 4 []
      | some b =>
        let crc := (crc32c b).toNat
        if m.field 4 4 ≠ crc then s.answer m 5 (reply crc 0xFF)
        else match imageFault b with
          | some n => s.answer m 5 (reply crc n)
          | none =>
            let s := s.applyImage b generation crc
            let s := { s with fw := { s.fw with staged := none } }
            s.answer m 0 (reply crc 0xFF))

/-- CFG_QUERY (R400): STAGED_BYTES are those of the staged image, or of the transfer that is open. -/
def execCfgQuery (s : State) : Res :=
  .next (s.command 0x202 0 statesLUCRS fun m s =>
    let bytes : Nat := match s.fw.staged, s.fw.cfg with
      | some b, _ => stagedBytes b
      | none, some x => stagedBytes ((decodeStream true (x.stream.map fun b => (b, false))).out.map Prod.fst)
      | none, none => 0
    let owner : Nat := match s.fw.cfg with | some x => x.owner.toNat | none => 0
    s.answer m 0 (leBytes 4 s.generation ++ leBytes 4 (if s.commitOk then s.triBits 0 40 32 else 0) ++ leBytes 4 bytes ++
      leBytes 1 (boolNat s.fw.staged.isSome + 2 * boolNat s.fw.cfg.isSome) ++ leBytes 3 0 ++ leBytes 4 owner))

/-- CFG_DISCARD (R400, R477): the transfer and the staged image are released; bank A stays. -/
def execCfgDiscard (s : State) : Res :=
  .next (s.command 0x203 0 statesUC fun m s =>
    ({ s with fw := { s.fw with cfg := none, staged := none } }).answer m 0 [])

/-- PATCH_APPLY (R413): the reply, then a firmware restart into the patch. -/
def execPatchApply (s : State) : Res :=
  .next (s.command 0xA01 8 statesUS fun m s =>
    match s.fw.stagedPatch with
    | none => s.answer m 4 []
    | some p =>
      if Config.patchStepping p ≠ 0xB0 then s.answer m 4 []
      else if m.field 0 4 ≠ (Config.patchId p).toNat ∨ m.field 4 4 ≠ (Config.patchCrc p).toNat ∨ ¬ Config.patchAuthentic p then
        s.answer m 5 []
      else
        let s := s.answer m 0 []
        { s with fw := { s.fw with restart := some 5 } })

/-- PATCH_STATUS (R412). -/
def execPatchStatus (s : State) : Res :=
  .next (s.command 0xA02 0 statesLUCRS fun m s =>
    let bytes : Nat := match s.fw.stagedPatch, s.fw.patch with
      | some b, _ => b.length
      | none, some x => (decodeStream true (x.stream.map fun b => (b, false))).out.length
      | none, none => 0
    s.answer m 0 (leBytes 4 s.patchId ++ leBytes 4 bytes ++
      leBytes 1 (boolNat s.fw.stagedPatch.isSome + 2 * boolNat s.fw.patch.isSome) ++ leBytes 7 0))

end Sys2Proof.Machine
end

