-- ==== Sys2Proof/Machine/DirCmd.lean ====
section
/-! DEFINITION. The directory group: DIR_SHADOW_BEGIN to DIR_ENTRY_READ (R225-R231, R315, R406). -/

namespace Sys2Proof.Machine

/-- DIR_SHADOW_BEGIN (R226, R406). -/
def execDirShadowBegin (s : State) : Res :=
  .next (s.command 0x500 0 statesCR fun m s =>
    if s.getF R.swapPending = 1 then s.answer m 4 []
    else
      let s := s.setF R.shadowState 1
      ({ s with dir := { s.dir with good := [] } }).answer m 0 (leBytes 1 (boolNat s.shadowB)))

/-- DIR_IMAGE (R226, R396-R399, R406): while the shadow is BUILDING. -/
def execDirImage (s : State) : Res := .next (s.imageCommand 0x501)

/-- DIR_SHADOW_END (R227, R406). -/
def execDirShadowEnd (s : State) : Res :=
  .next (s.command 0x502 0 statesCR fun m s =>
    if s.getF R.shadowState ≠ 1 then s.answer m 2 []
    else
      let n := s.pagesRecorded
      let st := if n = s.cfgF C.dirSlotCount * 4 then 2 else 0
      (s.setF R.shadowState st).answer m 0 (leBytes 2 n ++ leBytes 1 st))

/-- DIR_SWAP (R228, R406). -/
def execDirSwap (s : State) : Res :=
  .next (s.command 0x503 4 statesCR fun m s =>
    let f := BitVec.ofNat 32 (m.field 0 4)
    let now := frameOf s.time.coarse
    if s.getF R.shadowState ≠ 2 ∨ s.getF R.swapPending = 1 ∨ f = now ∨ 2 ^ 31 ≤ (f - now).toNat then s.answer m 4 []
    else ((s.setF R.swapPending 1).setF R.swapFrame f.toNat).answer m 0 (leBytes 4 f.toNat ++ leBytes 4 now.toNat))

/-- The tick at which a pending swap completes (R230). -/
def State.swapTick (s : State) : BitVec 48 :=
  frameTick (BitVec.ofNat 32 (s.getF R.swapFrame) + 1) + BitVec.ofNat 48 (s.cfgF C.guard + s.cfgF C.cto)

/-- DIR_SWAP_COMPLETE (R230): the banks exchange roles, and no page of the new shadow bank counts as written (assumption 162). A copy for the
partner starts again (R315). -/
def execDirSwapComplete (s : State) : Res :=
  .next (
    if s.getF R.swapPending = 0 ∨ ¬ reached s.time.coarse s.swapTick then s
    else
      let s := ((s.setF R.dirActive (1 - s.getF R.dirActive)).setF R.shadowState 0).setF R.swapPending 0
      ({ s with dir := { s.dir with good := [], copyWrites := [] } }).setFlag R.swapDone)

/-- DIR_WRITE (R231, R315, R406). -/
def execDirWrite (s : State) : Res :=
  .next (s.command 0x504 16 statesCR fun m s =>
    let i := m.field 0 4 % 2 ^ 21
    let act : Bool := m.byte 4 % 2 = 1
    let sha : Bool := m.byte 4 / 2 % 2 = 1
    let w : Word := BitVec.ofNat 64 (m.field 8 8)
    if sha ∧ s.getF R.swapPending = 1 then s.answer m 4 []
    else
      let s := if act then s.writeEntry (!s.shadowB) i w else s
      let s := if act && s.dir.copying then { s with dir := { s.dir with copyWrites := s.dir.copyWrites ++ [(i, w)] } } else s
      (if sha then s.writeEntry s.shadowB i w else s).answer m 0 [])

/-- DIR_ENTRY_READ (R406): each code word is read once. -/
def execDirEntryRead (s : State) : Res :=
  .next (s.command 0x505 8 statesCR fun m s =>
    let i := s.legal 0 0 (2 ^ 21 - 1) (m.field 0 4)
    let n := s.legal 1 1 (min 30 (2 ^ 21 - i)) (m.byte 5)
    let bank := s.legal 2 0 1 (m.byte 4)
    let r := State.readCws ((i % 2 + n + 1) / 2) (s.skip 3) 1 (dirAddr (bank = 1) i)
    let ws := ((r.1.flatMap halves).drop (i % 2)).take n
    let map := ((ws.zipIdx).map fun (e : PWord × Nat) => if e.1.poison then 2 ^ e.2 else 0).sum
    r.2.answer m 0 (leBytes 4 map ++ leBytes 4 0 ++ ws.flatMap fun (w : PWord) => leBytes 8 w.w.toNat))

end Sys2Proof.Machine
end

