-- ==== Sys2Proof/Machine/Fw.lean ====
section
/-! DEFINITION. The firmware: FW_TAKE_MESSAGE, HOST_READ_COMPLETION and COMPLETION_TIMEOUT, and the node group with the register
reads and flag clears of every group (R386-R395). -/

namespace Sys2Proof.Machine

/-! ## Taking a message -/

/-- Firmware acts on the ABORT bits that wait (R378). -/
def State.actAborts (s : State) : State :=
  (List.range 16).foldl (fun s i => if s.mbox.inDoorbell.getLsbD (16 + i) then s.abortBit i else s) s

/-- The message next in posting order: one that is POSTED, or that a reset has left TAKEN (R372, R379). -/
def State.nextPosted (s : State) : Option Nat :=
  s.mbox.order.find? fun i => s.getF (R.mboxState i) = 1 || s.mbox.redo.contains i

/-- Firmware takes the message of a mailbox (R362). -/
def State.markTaken (s : State) (i : Nat) : State :=
  ({ s with mbox := { s.mbox with redo := s.mbox.redo.filter (· ≠ i) } }).setF (R.mboxState i) 2

/-- The argument words with a poisoned byte, numbered as words of the MBOX_MSG that carries them: its header, MBOX and BYTES, and the
command header come first (R272). -/
def badArgs (l : List (Option Byte)) : List Nat :=
  ((List.range ((l.length + 7) / 8)).filter fun j => ((l.drop (8 * j)).take 8).any (·.isNone)).map (· + 3)

/-- The message of a mailbox, read by firmware (R326), with its poisoned argument words; none where its header is poisoned. -/
def State.readMsg (s : State) (i : Nat) : Option (Msg × List Nat) × State :=
  let stamp := BitVec.ofNat 32 (s.getF (R.mboxStamp i))
  let h := s.getBytes 4 (0x100 * i) 8
  if h.1.any (·.isNone) then (none, h.2)
  else
    let head := h.1.map fun b => b.getD 0
    let n := min (leAt head 4 2) 248
    let a := h.2.getBytes 4 (0x100 * i + 8) n
    (some (parseMsg i stamp (head ++ a.1.map fun b => b.getD 0), badArgs a.1), a.2)

/-- The bytes of a message as it is forwarded. -/
def msgBytes (m : Msg) : List Byte :=
  leBytes 8 (m.opcode.toNat + m.tag.toNat * 2 ^ 16 + m.length * 2 ^ 32 + m.target.toNat * 2 ^ 48 + boolNat m.quiet * 2 ^ 60) ++
    m.args

/-- A message taken, its argument words `bad` poisoned (R374, R386, R398). One that leaves for another node is judged there; the stream
of a host buffer is read here. Else the checks before a command's own follow in their order; a LENGTH below the argument size is then
left to the command. -/
def State.judgeMsg (s : State) (m : Msg) (bad : List Nat) : State :=
  match s.route m.target.toNat with
  | .noRoute => s.answer m (if bad ≠ [] then 7 else if 248 < m.length ∨ m.length < argSize m then 5 else 6) []
  | .port p =>
    if s.isRoot ∧ stampClass m.stamp = 1 ∧ isImageOp m ∧ 16 ≤ m.length ∧ m.hostForm then
      (if bad = [] then s.drawn.startHostRead (s.legalChunk m) else s.answer m 7 [])
    else s.forward m.mbox p m.stamp (msgBytes m) bad
  | .own =>
    if bad ≠ [] then s.poisonedMsg m bad
    else if 248 < m.length then s.answer m 5 []
    else if ¬ knownOpcode m.opcode.toNat then s.answer m 3 []
    else { s with fw := { s.fw with cur := some m } }

/-- Firmware reads code words of its RAM, which radiation may have struck: one that is poisoned raises the poison exception (R326, R327). -/
def State.readRam : State → List (Nat × BitVec 152) → Bool × State
  | s, [] => (false, s)
  | s, e :: l =>
    let r := (s.upset 3 (e.1 % 131072) e.2).readCw 3 (e.1 % 131072)
    if r.1.isNone then (true, r.2) else r.2.readRam l

/-- FW_TAKE_MESSAGE (R326, R362, R372, R378, R386-R389): the message next in posting order, unless firmware is stopped or in the
midst of another. Radiation may have struck its code words, and those of firmware RAM that firmware reads: a poisoned one of these restarts
the firmware. -/
def execFwTakeMessage (upsets : List (BitVec 152)) (ram : List (Nat × BitVec 152)) (s : State) : Res :=
  let r := s.readRam ram
  if ¬ s.fwRuns ∨ s.fw.cur.isSome ∨ s.fw.waits.any (fun e => !e.2.releases) then .next s
  else if r.1 then .next { r.2 with fw := { r.2.fw with restart := some 4 } }
  else
    let s := r.2.actAborts
    match s.nextPosted with
    | none => .next s
    | some i =>
      let s := (s.markTaken i).upsets 4 (0x10 * i) (upsets.take 16)
      let r := s.readMsg i
      match r.1 with
      | none => .next ((r.2.replyTo i (BitVec.ofNat 32 (s.getF (R.mboxStamp i))) 0 0 7 []).complete i)
      | some (m, bad) => .next (r.2.judgeMsg m bad)

/-- HOST_READ_COMPLETION (R344): for the command in the mailbox that the operand names. -/
def execHostReadCompletion (outcome : HostOutcome) (data : HostData) (s : State) : Res :=
  if ¬ s.fwRuns then .next s
  else match outcome with
    | .success => .next (s.hostReadData data.mbox.val data.bytes)
    | .poisoned => .next (s.hostReadFailed data.mbox.val 7)
    | .unsupportedRequest | .completerAbort => .next (s.hostReadFailed data.mbox.val 5)

/-- COMPLETION_TIMEOUT (R344): of the request that has been out for longest. -/
def execCompletionTimeout (s : State) : Res :=
  .next (
    match s.oldestRead with
    | some i => if s.fwRuns then s.hostReadFailed i 5 else s
    | none => s)

/-! ## The node group (R393-R395) -/

/-- NODE_IDENTIFY (R394). -/
def execNodeIdentify (s : State) : Res := .next (s.command 0x100 0 statesLUCRS fun m s => s.answer m 0 s.identity)

/-- NODE_RESET (R393, R395): the reply comes first. -/
def execNodeReset (s : State) : Res :=
  .next (s.command 0x101 1 statesLUCRS fun m s =>
    if m.byte 0 = 0 then
      let s := s.answer m 0 []
      { s with fw := { s.fw with restart := some 3 } }
    else if m.byte 0 = 1 then (s.answer m 0 []).warmReset
    else s.answer m 4 [])

/-- Units of a COUNTER_CLEAR scope. -/
def scopeUnits (scope : Nat) : Nat := [1, 8, 128, 2048, 19, 6].getD scope 0

/-- The register words that a COUNTER_CLEAR of one unit reaches (R390, R392). -/
def scopeWords (scope u : Nat) : List Nat :=
  if scope = 1 then [0x1054 + 4 * u]
  else if scope = 2 then (List.range 7).map fun i => 0x10000 + 0x40 * u + 4 * i
  else if scope = 3 then (List.range 5).map fun i => 0x20000 + 0x20 * u + 4 * i
  else if scope = 4 then (List.range 4).map fun i => 0x6000 + 0x10 * u + 4 * i
  else (List.range 7).map fun i => 0x8000 + 0x40 * u + 4 * i

/-- Every register word with a counter that COUNTER_CLEAR clears. -/
def counterWords : List Nat :=
  ((List.range 0x3800).map (4 * ·)).filter (counterMask · ≠ 0) ++ (List.range 128).flatMap (scopeWords 2) ++
    (List.range 2048).flatMap (scopeWords 3)

/-- COUNTER_CLEAR (R392): a FIRST or COUNT outside the scope gives an unpredictable result (R18). -/
def execCounterClear (s : State) : Res :=
  .next (s.command 0x102 6 statesLUCRS fun m s =>
    let scope := m.byte 0
    if 5 < scope then s.answer m 4 []
    else if scope = 0 then (s.clearCountersAt counterWords).answer m 0 []
    else
      let first := s.legal 0 0 (scopeUnits scope - 1) (m.field 2 2)
      let count := s.legal 1 1 (scopeUnits scope - first) (m.field 4 2)
      ((s.skip 2).clearCountersAt ((List.range count).flatMap fun i => scopeWords scope (first + i))).answer m 0 [])

/-! ## Register reads and flag clears (R390, R391) -/

/-- The OFFSET of a register read as the node takes it: one that is no multiple of 4 gives an unpredictable result (R18). -/
def State.regOffset (s : State) (m : Msg) : Nat := if m.field 0 4 % 4 = 0 then m.field 0 4 else s.nth 0 % 2 ^ 30 * 4

/-- An OFFSET, or a range of `n` words from it on, leaves the pages of a group (R390). The whole register space has 49,152 words. -/
def leavesGroup (g off n : Nat) : Bool := (List.range (min (max n 1) 49153)).any fun i => !groupHas g (off / 4 * 4 + 4 * i)

/-- The register read of a group: OFFSET and COUNT, 1-62, first as they are given, then as the node takes them. -/
def State.regRead (s : State) (g : Nat) : Res :=
  .next (s.command (BitVec.ofNat 16 (g * 256 + 0xF0)) 8 statesLUCRS fun m s =>
    let off := s.regOffset m
    let n := s.legal 1 1 62 (m.field 4 4)
    let s := s.skip 2
    if leavesGroup g (m.field 0 4) (m.field 4 4) ∨ leavesGroup g off n then s.answer m 4 []
    else
      let r := State.readRegs n s off
      r.2.answer m 0 (r.1.flatMap fun w => leBytes 4 w.toNat))

/-- The flag clear of a group: OFFSET, which names the register word that holds it (assumption 177), and MASK. -/
def State.regClear (s : State) (g : Nat) : Res :=
  .next (s.command (BitVec.ofNat 16 (g * 256 + 0xF1)) 8 statesLUCRS fun m s =>
    let off := m.field 0 4 / 4 * 4
    if ¬ groupHas g off then s.answer m 4 []
    else
      let s := s.clearFlags off (BitVec.ofNat 32 (m.field 4 4))
      let r := State.readRegs 1 s off
      r.2.answer m 0 (r.1.flatMap fun w => leBytes 4 w.toNat))

/-- NODE_REG_READ and NODE_REG_CLEAR. -/
def execNodeRegRead (s : State) : Res := s.regRead 1
def execNodeRegClear (s : State) : Res := s.regClear 1
/-- ACQ_REG_READ and ACQ_REG_CLEAR. -/
def execAcqRegRead (s : State) : Res := s.regRead 3
def execAcqRegClear (s : State) : Res := s.regClear 3
/-- TB_REG_READ and TB_REG_CLEAR. -/
def execTbRegRead (s : State) : Res := s.regRead 4
def execTbRegClear (s : State) : Res := s.regClear 4
/-- DIR_REG_READ and DIR_REG_CLEAR. -/
def execDirRegRead (s : State) : Res := s.regRead 5
def execDirRegClear (s : State) : Res := s.regClear 5
/-- LINK_REG_READ and LINK_REG_CLEAR. -/
def execLinkRegRead (s : State) : Res := s.regRead 6
def execLinkRegClear (s : State) : Res := s.regClear 6
/-- MEM_REG_READ and MEM_REG_CLEAR. -/
def execMemRegRead (s : State) : Res := s.regRead 7
def execMemRegClear (s : State) : Res := s.regClear 7
/-- HK_REG_READ and HK_REG_CLEAR. -/
def execHkRegRead (s : State) : Res := s.regRead 8
def execHkRegClear (s : State) : Res := s.regClear 8
/-- TEST_REG_READ and TEST_REG_CLEAR. -/
def execTestRegRead (s : State) : Res := s.regRead 9
def execTestRegClear (s : State) : Res := s.regClear 9

end Sys2Proof.Machine
end

