-- ==== Sys2Proof/Machine/Hk.lean ====
section
/-! DEFINITION. Housekeeping, sensor ports and interlock outputs: HK_PASS_START, HK_SAMPLE, SXP_CONVERSION, SXP_DIAG_PHASE,
ILK_PERIOD, ITEM_CLOSE_TIMER, SXP_COEF_WRITE and HK_POWER_MODE (R180, R416-R437). -/

namespace Sys2Proof.Machine

/-- HK_PASS_START (R417, R418, R422): the pass before has taken all its steps; the power mode takes effect, and the marker enters
the FIFO. -/
def execHkPassStart (conv : Fin 2) (s : State) : Res :=
  .next (
    let c := conv.val
    let v := s.conv c
    if s.node.state.code < 3 ∨ s.test.logic = some 9 ∨ (s.nextStep c).isSome ∨ s.diagOwed c then s
    else
      let s := if v.started then s.setF (R.pass c) (min 0xFFFF (s.usSince v.passStart)) else s
      let changed : Bool := v.low ≠ s.hk.lowNext
      let s := s.setConv c { started := true, lastStep := 0, passStart := s.ticks, low := s.hk.lowNext, refTaken := v.refTaken }
      let s := if changed then (s.setF R.lowPower (boolNat s.hk.lowNext)).forgetRefs else s
      let s := if s.cfgF C.privConv = c then { s with hk := { s.hk with privPass := s.hk.privPass + 1 } } else s
      let value := if s.coarseRuns then s.time.coarse.toNat % 2 ^ 32 else 0
      s.putHk (hkWord s 4 c (s.hkFlags c false false false) value))

/-- The number of a step in its pass. -/
def stepIndex : HkStep → Nat
  | .reference => 0
  | .monitor m => 1 + m.val
  | .auxin e => 17 + e.val

/-- HK_SAMPLE (R418-R421, R434): the step that is next in the pass completes. -/
def execHkSample (conv : Fin 2) (step : HkStep) (code : BitVec 16) (s : State) : Res :=
  .next (
    let c := conv.val
    if s.nextStep c ≠ some (stepIndex step) ∨ s.diagOwed c then s
    else match step with
      | .reference => (s.stepTaken c 0).takeReference c code
      | .monitor m => (s.stepTaken c (1 + m.val)).takeMonitor c m.val code
      | .auxin e =>
        if s.entryAuxin c e.val then (s.stepTaken c (17 + e.val)).takeAuxin c e.val code else s)

/-- The codes of a conversion as the node takes them: those of a port that more than one enabled entry names are free, since its
results are unpredictable (R419, R18). -/
def State.sxpCodes (s : State) (n : Nat) (codes : SxpCodes) : SxpCodes × State :=
  if s.portEntries n ≤ 1 then (codes, s)
  else
    let c (k : Nat) : BitVec 16 := BitVec.ofNat 16 (s.nth k)
    (⟨c 0, c 1, c 2, c 3⟩, s.skip 4)

/-- The excitation of conversion `c` of a port (R424, R458): EXC_V at + where `c` is even and at - where it is odd, then reversed, then
removed; without VDDX the lines stay in high impedance. -/
def State.excitation (s : State) (n c : Nat) : List Int :=
  let v : Int := if c % 2 = 0 then s.cfgF (C.excV n) else -(s.cfgF (C.excV n) : Int)
  if s.node.vddx then [v, -v, 0] else []

/-- SXP_CONVERSION (R419, R424-R429): the Equinox pair of the sensor-port entry that is next in the pass. -/
def execSxpConversion (conv : Fin 2) (entry : Fin 16) (codes : SxpCodes) (excLimit : Bool) (s : State) : Res :=
  .next (
    let c := conv.val
    let e := entry.val
    let n := s.cfgF (C.entrySrc c e) - 16
    if s.nextStep c ≠ some (17 + e) ∨ s.diagOwed c ∨ s.entryAuxin c e then s
    else
      let k := (s.sxp n).conv
      let every := max 1 (s.cfgF (C.diagInterval n))
      let s := (s.stepTaken c (17 + e)).setF (R.excLimit n) (boolNat excLimit)
      let r := s.sxpCodes n codes
      let s := (r.2.takeConversion c n r.1).incWrap (R.conversions n) 1
      s.setSxp n { s.sxp n with conv := k + 1, exc := s.excitation n k, diagDue := decide ((k + n) % every = every - 1) })

/-- SXP_DIAG_PHASE (R428, R429): after the conversion that calls for it. -/
def execSxpDiagPhase (conv : Fin 2) (entry : Fin 16) (codes : SxpLeads) (s : State) : Res :=
  .next (
    let c := conv.val
    let e := entry.val
    let n := s.cfgF (C.entrySrc c e) - 16
    if ¬ s.stepEnabled c (17 + e) ∨ s.entryAuxin c e ∨ ¬ (s.sxp n).diagDue then s
    else
      let s := s.setSxp n { s.sxp n with diagDue := false }
      let leads := openLeadsOf codes
      let s := s.setF (R.openLeads n) leads
      if leads = 0 then s.setF (R.openWire n) 0
      else ((s.setF (R.openWire n) 1).setFlag (R.openWireEvent n)).setIlk n 2)

/-- ILK_PERIOD (R431, R433): the next period takes the value that waits. -/
def execIlkPeriod (port : Fin 8) (s : State) : Res :=
  .next (
    let n := port.val
    let v := s.sxp n
    match v.next with
    | some q => (s.setSxp n { v with period := q.1, high := q.2, next := none }).setF (R.ilkCode n) 0
    | none => s)

/-- ITEM_CLOSE_TIMER (R180, R434, R451): the words gathered make an item once there are 30 or the first is 100 us old. -/
def execItemCloseTimer (telemetry : Bool) (s : State) : Res :=
  .next (
    let l := if telemetry then s.loop.telFifo else s.hk.fifo
    match l with
    | [] => s
    | e :: _ =>
      if 30 ≤ l.length ∨ e.2 + 16000 ≤ s.ticks then
        let ws : List PWord := (l.take 30).map fun (x : Word × Nat) => pw x.1
        let rest := l.drop 30
        if telemetry then ({ s with loop := { s.loop with telFifo := rest } }).storeItem 0 .monitoring ws
        else ({ s with hk := { s.hk with fifo := rest } }).storeItem 0 .housekeeping ws
      else s)

/-- SXP_COEF_WRITE (R410, R426). -/
def execSxpCoefWrite (s : State) : Res :=
  .next (s.command 0x803 52 statesCR fun m s =>
    let n := s.legal 0 0 7 (m.byte 0)
    ((List.range 12).foldl (fun (s : State) (k : Nat) => s.setCfg (C.coef n k) (m.field (4 + 4 * k) 4)) (s.skip 1)).answer m 0 [])

/-- HK_POWER_MODE (R410, R422). -/
def execHkPowerMode (s : State) : Res :=
  .next (s.command 0x804 1 statesCR fun m s =>
    (({ s with hk := { s.hk with lowNext := s.legal 0 0 1 (m.byte 0) = 1 } }).skip 1).answer m 0 [])

end Sys2Proof.Machine
end

