-- ==== Sys2Proof/Machine/Loop.lean ====
section
/-! DEFINITION. The loop engine: PACING_EVENT, LOOP_SETPOINT, LOOP_ENABLE and LOOP_CLAMP_WRITE (R438-R451). -/

namespace Sys2Proof.Machine

/-- A pacing event has come: every 64 coarse ticks, or from the self-timed oscillator while no region runs (R439). -/
def State.paceDue (s : State) : Bool :=
  !s.coarseRuns || (s.time.coarse.toNat % 64 = 0 && decide (s.loop.lastPace ≠ some s.ticks))

/-- PACING_EVENT (R439): `late` says that the pass before has not ended. Without a coarse time it stands for 64 ticks.
While the engine is under logic BIST it is missed (R481). -/
def execPacingEvent (late : Bool) (s : State) : Res :=
  .next (
    if ¬ s.paceDue then s
    else
      let s := if s.coarseRuns then { s with loop := { s.loop with lastPace := some s.ticks } }
               else { s with ticks := s.ticks + 64 }
      if ¬ s.operating then s
      else if s.test.logic = some 6 then s.inc R.loopOverrun
      else if late then (s.inc R.loopOverrun).setFlag R.overrunEvent
      else s.loopPass)

/-- LOOP_SETPOINT (R410, R441, R445, R446): TGT is taken in E_ERR, and a saturation is noted; REFUSED for loops 0-7. -/
def execLoopSetpoint (s : State) : Res :=
  .next (s.command 0x800 8 statesCR fun m s =>
    let i := s.legal 0 0 31 (m.byte 0)
    let mant := s.legalInt 1 (-131072) 131071 (signed 32 (m.field 4 4))
    let s := s.skip 2
    if i < 8 then s.answer m 4 []
    else
      let s := s.setCfg (C.tgt i) (mantExp mant (m.byte 2 % 64))
      ((s.setPid i { s.pid i with ramp := true }).noteSat i (s.target i).2).answer m 0 [])

/-- LOOP_ENABLE (R410, R447): loops 0-7 are ignored. -/
def execLoopEnable (s : State) : Res :=
  .next (s.command 0x801 8 statesCR fun m s =>
    let s := ((bitsOf 32 (m.field 0 4)).filter (8 ≤ ·)).foldl (fun s i =>
      if m.field 4 4 / 2 ^ i % 2 = 1 then (if s.loopOn i then s else s.startLoop i) else s.setF (R.loopEnabled i) 0) s
    s.answer m 0 (leBytes 4 s.loopsEnabled))

/-- LOOP_CLAMP_WRITE (R410, R443): both clamps in one access. -/
def execLoopClampWrite (s : State) : Res :=
  .next (s.command 0x802 20 statesCR fun m s =>
    let i := s.legal 0 0 31 (m.byte 0)
    let lo := s.legalInt 1 (-131072) 131071 (signed 32 (m.field 4 4))
    let hi := s.legalInt 2 (-131072) 131071 (signed 32 (m.field 12 4))
    let v := mantExp lo (s.legal 3 0 63 (m.byte 8)) + mantExp hi (s.legal 4 0 63 (m.byte 16)) * 2 ^ 24
    ((s.skip 5).setTri (2 + i) (BitVec.ofNat 80 v)).answer m 0 [])

end Sys2Proof.Machine
end

