-- ==== Sys2Proof/Machine/Node.lean ====
section
/-! DEFINITION. Power, resets, boot and the PCI Express link: POWER_ON to PCIE_POWER_STATE_CHANGE, and PCIE_LINK_LOSS
(R24, R359, R455-R461, R466). -/

namespace Sys2Proof.Machine

/-- POWER_ON (R456): OFF to RESET. -/
def execPowerOn (s : State) : Res := .next (if s.node.state = .off then s.powerOnReset else s)

/-- RAIL_FALL (R457): a power-on reset, whatever the state. -/
def execRailFall (s : State) : Res := .next (if s.node.state = .off then s else s.powerOnReset)

/-- RESET_N_LOW (R456, R460): any state but OFF to RESET. A node already held in RESET stays as it is. -/
def execResetNLow (s : State) : Res :=
  .next (if s.node.state = .off ∨ s.node.state = .reset then s else s.loseConfig .reset 1 false)

/-- RESET_RELEASE (R456, R458, R459, R294): RESET to BOOT; the straps are sampled. Whether VDDX is there is taken with them
(assumption 167). -/
def execResetRelease (role : Straps) (pairEn pairPos : Bool) (s : State) : Res :=
  .next (
    if s.node.state ≠ .reset then s
    else
      let s := s.setTri 1 (BitVec.ofNat 80 (role.role.toNat + boolNat pairEn * 4 + boolNat pairPos * 8))
      let s := ((s.setF R.paired (boolNat s.paired)).setF R.pairPos (boolNat pairPos)).setF R.pairIgnored
        (boolNat (pairEn && !s.merging))
      { s with node := { s.node with state := .boot, vddx := role.vddx } })

/-- BOOT_COMPLETE (R456, R327, R336, R415): BOOT to LINKUP. A patch with a poisoned word is discarded. -/
def execBootComplete (s : State) : Res :=
  .next (
    if s.node.state ≠ .boot then s
    else
      let r := s.bootReads
      let s := r.2
      let drop : Bool := r.1 ∧ s.fw.patchInForce.isSome
      let s := { s with fw := if drop then { s.fw with patchInForce := none } else s.fw,
                        node := { s.node with patchDiscarded := drop } }
      s.enterLinkup.answerOwed)

/-- FIRMWARE_RESTART_DONE (R461, R327, R336, R379, R413, R415): the restart that was begun ends. The data area of firmware RAM has been
written from ROM. -/
def execFirmwareRestartDone (s : State) : Res :=
  .next (
    match s.fw.restart with
    | none => s
    | some cause =>
      let r := s.ramRewritten.bootReads
      let s := r.2
      let patch : Option (List Byte) := if cause = 5 then s.fw.stagedPatch else s.fw.patchInForce
      let drop : Bool := r.1 ∧ patch.isSome
      let near : List Nat := if cause = 4 then (s.ticks :: s.fw.poisonRestarts).filter fun t => s.ticks < t + 160000000
                             else s.fw.poisonRestarts
      let s := { s with
        fw := { patchInForce := if drop then none else patch, poisonRestarts := near, noRecord := s.fw.noRecord }
        mbox := { s.mbox with hops := [] }
        node := { s.node with incarnation := s.node.incarnation + 1, bootCause := cause, patchDiscarded := drop,
                              noticeSeq := 0 } }
      let s := s.retake.bootNotice.answerOwed
      if cause = 4 ∧ 3 ≤ near.length then s.enterSafe 1 else s)

/-- PERST_N_EVENT (R6, R341, R359): the pin's level; at a root, low resets the controller and the physical layer, and with them configuration
space. -/
def execPerstNEvent (level : Bool) (s : State) : Res :=
  .next (
    let s := { s with node := { s.node with perstN := level } }
    if level ∨ ¬ s.isRoot then s
    else
      let s := s.functionReset
      { s with host := { s.host with linkUp := false, control := {} } })

/-- FUNCTION_LEVEL_RESET (R359), at a root whose link is up. -/
def execFunctionLevelReset (s : State) : Res :=
  .next (if s.isRoot ∧ s.host.linkUp then s.functionReset else s)

/-- PCIE_POWER_STATE_CHANGE (R341, R342, R359): a configuration write changes D3hot, Bus Master Enable or what else the host programs; on
return each pending vector is signalled once. Until BAR0 is ready the answer is Configuration Request Retry Status. -/
def execPciePowerStateChange (d3hot bme : Bool) (control : PcieControl) (s : State) : Res :=
  .next (
    if ¬ s.isRoot then s
    else if s.host.linkUp then
      ({ s with host := { s.host with d3hot := d3hot, busMaster := bme, control := control } }).msixFlushAll
    else if 3 ≤ s.node.state.code ∧ s.node.perstN then s.emit .configRetry
    else s)

/-- PCIE_LINK_LOSS (R359): DMA stops and items wait under R207; nothing else changes. -/
def execPcieLinkLoss (s : State) : Res := .next { s with host := { s.host with linkUp := false } }

end Sys2Proof.Machine
end

