-- ==== Sys2Proof/Machine/Pool.lean ====
section
/-! DEFINITION. The shared pool and the merge: ORIGIN_FRAGMENT_OPEN to THROTTLE_PERIODIC (R32, R186, R190-R204, R210, R530). -/

namespace Sys2Proof.Machine

/-- ORIGIN_FRAGMENT_OPEN (R158, R530). -/
def execOriginFragmentOpen (key : MergeKey) (s : State) : Res :=
  .next (
    match key with
    | .frame f => if s.ownFrame f ∧ s.freshFrame f then ((s.newFrag key 0 0 false).openFrag key).2 else s
    | .event .. => (s.openFrag key).2)

/-- FRAME_CLOSE (R158, R193): frames close in order. -/
def execFrameClose (frame : BitVec 32) (s : State) : Res :=
  .next (
    let next : Option (BitVec 32) := match s.pool.frameDone with
      | some d => some (d + 1)
      | none => s.time.firstFrame
    if s.ownFrame frame ∧ next = some frame ∧
        reached s.time.coarse (frameTick (frame + 1) + BitVec.ofNat 48 (s.cfgF C.guard)) then
      let s := ((s.newFrag (.frame frame) 0 0 false).openFrag (.frame frame)).2.modFrag (.frame frame) fun g =>
        { g with closed := true }
      { s with pool := { s.pool with frameDone := some frame } }
    else s)

/-- CHIP_GRANT (R32, R190, R195, R196-R202, R220-R224, R234, R243-R246, R278): the requester that the cycle reaches next is
granted up to G words. A word that must wait for a slot (R202, R312) or for the directory stage (R481) stays at its requester, and the
others go on (R26). The upsets strike words on their way from a port (R528; assumption 11). -/
def execChipGrant (req : FabricGrant) (s : State) : Res :=
  .next (
    let r := req.req.val
    if s.nextRequester ≠ some r ∨ s.transfersWait then s
    else
      let n := min (16 * (1 + min 3 (s.waitingWords r / 128))) (s.waitingWords r)
      let s := ({ s with pool := { s.pool with arbPos := (r + 1) % 25 } }).readMap
      if r ≤ 16 then (s.strikePort (reqPort r) (req.upsets.filter fun u => u.1 < n)).grantPort (reqPort r) n else State.grantRegion (n + 1) s (r - 17) n)

/-- The oldest fragment that waits for its rewrite completes; where none waits, the oldest origin fragment that has closed and whose words
are stored. -/
def State.stageStep (s : State) : State :=
  let port (id : Nat) : Option State :=
    let t := { s with pool := { s.pool with toComplete := s.pool.toComplete.filter (· ≠ id) } }
    match s.item id with
    | some i => t.portComplete i
    | none => some t
  match s.pool.toComplete.findSome? port with
  | some t => t
  | none =>
    let own (g : Frag) : Option State :=
      if g.closed && !s.unitsWait g.key then
        let o := s.openFrag g.key
        match o.2.frag g.key with
        | some g => if o.1 then o.2.ownComplete g else none
        | none => none
      else none
    (s.pool.frags.findSome? own).getD s

/-- WRITE_STAGE_COMPLETE (R41, R162, R185, R191, R193, R201, R305): what waits for a slot is stored as far as there are slots (R312), then
a fragment completes. -/
def execWriteStageComplete (s : State) : Res :=
  .next (if s.transfersWait then s else s.readMap.storeHeld.stageStep)

/-- Some code word of the free-slot map is poisoned. -/
def State.mapDamaged (s : State) : Bool :=
  match (s.mem 5).cells with
  | [] => false
  | _ => (List.range 1536).any s.mapPoisoned

/-- RECLAIM_PASS (R186, R326): every allocated slot that no queue reaches is freed, and poisoned code words of the free-slot map, for which
a pass is due too, are written anew. -/
def execReclaimPass (s : State) : Res :=
  .next (
    if (s.pool.reclaimDue ∨ s.mapDamaged) ∧ ¬ s.transfersWait then
      let s := s.tableWrite (((List.range 1536).filter s.mapPoisoned).map Config.mapWord)
      ({ s with pool := { s.pool with orphans := [], reclaimDue := false } }).throttleUpdate
    else s)

/-- CONTEXT_OPEN (R196). -/
def execContextOpen (frame : BitVec 32) (s : State) : Res :=
  .next (if s.merging ∧ s.frameRuns frame ∧ ¬ s.isLate (.frame frame) then (s.openCtx (.frame frame)).2 else s)

/-- CONTEXT_DEADLINE (R198, R199). -/
def execContextDeadline (key : MergeKey) (s : State) : Res :=
  .next (
    match s.ctx key with
    | some c => if !c.closing && reached s.time.coarse c.deadline then s.closeNow key else s
    | none => s)

/-- CONTEXT_CLOSE (R161, R164, R165, R185, R198, R199, R203): the pointers of the context's lists and of OUTPUT are compared as its
chain is spliced. -/
def execContextClose (key : MergeKey) (s : State) : Res :=
  .next (s.closeCtx key)

/-- OUTPUT_READER_SELECT (R185, R204-R207). -/
def execOutputReaderSelect (reader : Reader) (s : State) : Res :=
  .next (if s.chooses reader then (s.checkQueue 0).choose reader else s.choose reader)

/-- THROTTLE_PERIODIC (R210). -/
def execThrottlePeriodic (s : State) : Res :=
  .next (
    if s.pool.agg ∧ ¬ s.isRoot ∧ s.pool.lastThrottle + 160000 ≤ s.ticks then
      ({ s with pool := { s.pool with lastThrottle := s.ticks } }).sendThrottle 1
    else s)

end Sys2Proof.Machine
end

