-- ==== Sys2Proof/Machine/TestCmd.lean ====
section
/-! DEFINITION. The memory and test groups: MEM_RETIRE, MEM_LOG_READ, MEM_READ, BIST_LOGIC to BIST_MEM_DONE, and the JTAG port
(R336, R337, R409, R411, R480-R485, R492-R495). -/

namespace Sys2Proof.Machine

/-! ## Memory -/

/-- The banks of a memory that can be retired: pool, directory, segment memory (R336). -/
def retireBanks (m : Nat) : Nat := [12, 8, 4].getD m 0

/-- A unit of MEM_RETIRE exists: MEM, UNIT and INDEX (R336). -/
def retireNames (m unit index : Nat) : Bool :=
  m < 3 && ((unit = 0 && decide (index < retireBanks m * 1024)) || (unit = 1 && decide (index < retireBanks m)))

/-- The unit is retired, or lies in a retired bank. -/
def State.alreadyRetired (s : State) (m unit index : Nat) : Bool :=
  if unit = 1 then s.prot.banks.contains (m, index)
  else s.prot.pages.contains (m, index) || s.prot.banks.contains (m, index / 1024)

/-- A unit is retired (R336, R337). -/
def State.retireUnit (s : State) (m unit index : Nat) : State :=
  if unit = 1 then
    let s := { s with prot := { s.prot with banks := s.prot.banks ++ [(m, index)] } }
    s.setF (R.retiredBanks m) (s.getF (R.retiredBanks m) + 1)
  else
    let s := { s with prot := { s.prot with pages := s.prot.pages ++ [(m, index)] } }
    s.setF (R.retiredPages m) (s.getF (R.retiredPages m) + 1)

/-- MEM_RETIRE (R336, R337, R409). -/
def execMemRetire (s : State) : Res :=
  .next (s.command 0x700 4 statesUCRS fun g s =>
    let m := g.byte 0
    let unit := g.byte 1
    let index := g.field 2 2
    let done (s : State) : State := s.answer g 0 (leBytes 2 s.prot.pages.length ++ leBytes 1 s.prot.banks.length)
    if ¬ retireNames m unit index then s.answer g 4 []
    else if s.alreadyRetired m unit index then done s
    else if (unit = 0 ∧ 256 ≤ s.prot.pages.length) ∨ (unit = 1 ∧ 4 ≤ s.prot.banks.length) then s.answer g 4 []
    else done (s.retireUnit m unit index))

/-- MEM_LOG_READ (R334, R409): slots counted modulo 256. -/
def execMemLogRead (s : State) : Res :=
  .next (s.command 0x701 2 statesLUCRS fun m s =>
    let n := s.legal 0 1 15 (m.byte 1)
    (s.skip 1).answer m 0 (leBytes 1 (s.getF R.logNext) ++ leBytes 7 0 ++ (List.range n).flatMap fun i =>
      let e := Tab.get logReset s.prot.log ((m.byte 0 + i) % 256)
      leBytes 8 e.1.toNat ++ leBytes 8 e.2.toNat))

/-- MEM_READ (R358, R409): code words beyond the memory read as zeros. -/
def execMemRead (s : State) : Res :=
  .next (s.command 0x702 12 statesLUCRS fun g s =>
    let m := s.legal 0 0 2 (g.byte 0)
    let a := g.field 4 4
    let n := s.legal 1 1 15 (g.byte 8)
    let inside := min n (memWords m - a)
    let r := State.readWords inside (s.skip 2) m a
    let l : List (Option (BitVec 128)) := r.1 ++ List.replicate (n - inside) (some 0)
    let map := ((l.zipIdx).map fun (e : Option (BitVec 128) × Nat) => if e.1.isNone then 2 ^ e.2 else 0).sum
    r.2.answer g 0 (leBytes 2 map ++ leBytes 6 0 ++ l.flatMap fun (d : Option (BitVec 128)) =>
      match d with | some v => leBytes 16 v.toNat | none => List.replicate 16 0xEE))

/-! ## Logic BIST -/

/-- The B0 signatures of the partitions (R481). -/
def lbistTable : List (BitVec 32) :=
  [0x6D2A91C5, 0x13F74E08, 0xA45B07D3, 0xA45B07D3, 0x3C90E61B, 0x87E15A24, 0x51B8C93F, 0xE0C42D76, 0x2F69B1E0, 0x9A073C58]

/-- The effect of a partition's test as it begins (R481): every port leaves UP and trains again; running timebases leave LOCKED and
reacquire; passes of the housekeeping converters are discarded. -/
def State.lbistStart (s : State) (p : Nat) : State :=
  if p = 4 then (List.range 19).foldl (fun (s : State) (q : Nat) => s.retrainPort q) s
  else if p = 8 then
    (List.range 8).foldl (fun (s : State) (r : Nat) =>
      let st := s.regionState r
      if st = 0 ∨ st = 5 then s
      else
        let s := if st = 2 then s.setFlag (R.lockLost r) else s
        ((s.endHold r false).setF (R.realign r) 0).tbAcquire r) s
  else if p = 9 then (s.setConv 0 { s.conv 0 with started := false }).setConv 1 { s.conv 1 with started := false }
  else s

/-- The items that the write stage and the merge fabric have not completed: those in assembly and those in a merge context. -/
def State.openItems (s : State) : List Nat :=
  (s.pool.asms.filterMap fun e => e.2.item) ++ s.pool.toComplete ++
    s.pool.ctxs.flatMap fun (c : Ctx) => c.entries.filterMap (·.item)

/-- What the storage elements of a partition hold after its test: their reset values (R480; assumption 109). The pool's memory is unchanged, so
the slots of items that were not complete stay taken until a reclaim pass; the transfers that have waited go on (R26). -/
def State.lbistEnd (s : State) (p : Nat) : State :=
  if p = 0 then
    let s := s.cutItems s.openItems
    ({ s with pool := { s.pool with bankPtr := 0, asms := [], toComplete := [], ctxs := [], nextCtx := 0, closedEvents := [],
                                    closedFrames := [], lastClosed := none, ownLost := [] } }).storeHeld
  else if p = 2 ∨ p = 3 then { s with pool := { s.pool with rawRem := 0, outRem := 0 } }
  else if p = 5 then { s with host := { bar0 := s.host.bar0.filter fun e => 0x2010 ≤ e.1 ∧ e.1 < 0x2024 } }
  else if p = 6 then { s with loop := { s.loop with loops := [], telFifo := [], lastPace := none } }
  else if p = 7 then
    let ids := s.pool.frags.filterMap (·.item)
    let s := ids.foldl (fun (s : State) (i : Nat) => s.dropItem i) s
    let cells : Tab Cell := s.cells.map fun (e : Nat × Cell) => (e.1, { e.2 with derand := [] })
    let blocks : Tab Block := s.blocks.map fun (e : Nat × Block) => (e.1, { e.2 with head := none, edges := [] })
    { s with cells := cells.filter fun e => e.2 ≠ ({} : Cell), blocks := blocks.filter fun e => e.2 ≠ ({} : Block),
             pool := { s.pool with arbPos := 0, regFifo := [], regDone := [], regMore := [], frags := [], frameDone := none } }
  else if p = 8 then
    (List.range 8).foldl (fun (s : State) (r : Nat) =>
      s.setRegion r { s.region r with goodRun := 0, badRun := 0, retry := false }) s
  else if p = 9 then
    let kept : Tab Sxp := s.hk.sxp.map fun (e : Nat × Sxp) => (e.1, { period := e.2.period, high := e.2.high })
    { s with hk := { sxp := kept.filter fun e => e.2 ≠ {} } }
  else s

/-- BIST_LOGIC (R411, R480, R481). -/
def execBistLogic (s : State) : Res :=
  .next (s.command 0x900 1 statesUS fun m s =>
    let p := m.byte 0
    if 9 < p ∨ (p = 5 ∧ s.isRoot) then s.answer m 4 []
    else
      let s := s.addWait m .bistLogic
      ({ s with test := { s.test with logic := some (BitVec.ofNat 8 p) } }).lbistStart p)

/-- PASS of a logic BIST (R480, R482). -/
def lbistOk (p : Nat) (sig : BitVec 32) (x : Xfail) : Bool :=
  sig = lbistTable.getD p 0 && (p ≠ 8 || (x.count = 0 && !x.other))

/-- BIST_LOGIC_DONE (R480-R482, R491). -/
def execBistLogicDone (signature : BitVec 32) (xfail : Xfail) (s : State) : Res :=
  .next (
    match s.test.logic with
    | none => s
    | some b =>
      let p := b.toNat
      let ok := lbistOk p signature xfail
      let s := ({ s with test := { s.test with logic := none } }).lbistEnd p
      let s := ((s.setF R.lbistPartition p).setF R.lbistPass (boolNat ok)).setF R.lbistSig signature.toNat
      let s := if p = 8 then
          ((s.setF R.xfailCount xfail.count.toNat).setF R.xfailCell xfail.firstCell.toNat).setF R.xfailOther (boolNat xfail.other)
        else s
      let s := if ok then s else s.setFlag R.bistFail
      match s.takeWait .bistLogic with
      | some (m, s) => s.answer m 0 (leBytes 4 signature.toNat ++ leBytes 1 (boolNat ok))
      | none => s)

/-! ## Memory BIST -/

/-- BIST_MEM (R411, R483-R485): while the idle test runs it waits. -/
def execBistMem (s : State) : Res :=
  .next (s.command 0x901 2 statesUCRS fun m s =>
    match s.test.mem with
    | some _ => s.addWait m .bistIdle
    | none => s.bistBegin m)

/-- BIST_MEM_DONE (R483-R485). -/
def execBistMemDone (result : MbistResult) (s : State) : Res :=
  .next (
    match s.test.mem with
    | some (m, g, false) =>
      let s := s.memTestEnd m g false result
      let s := match s.takeWait .bistMem with
        | some (q, s) => s.answer q 0 (leBytes 4 (mbistSignature result).toNat ++ leBytes 1 (boolNat (mbistOk result)))
        | none => s
      s.bistNext
    | _ => s)

/-! ## JTAG (R492-R495) -/

/-- A code of the instruction register: every code not listed acts as BYPASS (R493). -/
def jtagCode (ir : BitVec 8) : BitVec 8 :=
  if ir = 0x00 ∨ ir = 0x01 ∨ ir = 0x02 ∨ ir = 0x04 ∨ ir = 0x05 then ir else 0xFF

/-- Output pin `k` (THROTTLE_OUT, HEALTH_OUT, ILK0-ILK7) as the function drives it, `phase` ticks into the output's period, none in high
impedance (R210, R211, R299, R430, R431, R458, R462): the interlock outputs stay there without VDDX. A period begins with its high time
(DESIGN CHOICE, log 138). -/
def State.functionPin (s : State) (k phase : Nat) : Option Bool :=
  if s.node.state.code < 5 then none
  else if k = 0 then some s.pool.agg
  else if k = 1 then some (s.node.state ≠ .safe && s.pair.healthOut)
  else
    let v := s.sxp (k - 2)
    if s.getF (R.ilkCode (k - 2)) = 7 ∨ ¬ s.node.vddx then none else some (decide (phase % v.period < v.high))

/-- BIASCTL `n` as it is driven, none in high impedance: before the first commit, in SAFE too (R440, R462). -/
def State.biasPin (s : State) (n : Nat) : Option (BitVec 16) :=
  if s.operating then some (Tab.get 0 s.loop.biasCode n) else none

/-- Output pin `k` (THROTTLE_OUT, HEALTH_OUT, ILK0-ILK7) as it stands, none in high impedance: by the boundary register under EXTEST
and CLAMP, in high impedance under HIGHZ, else by the function (R494, R495). -/
def State.outputPin (s : State) (k : Nat) (function : Option Bool) : Option Bool :=
  if s.test.ir = 0x00 ∨ s.test.ir = 0x04 then
    (if s.test.boundary.getLsbD (10 + 2 * k) then some (s.test.boundary.getLsbD (9 + 2 * k)) else none)
  else if s.test.ir = 0x05 then none
  else function

/-- The identification register (R493). -/
def jtagIdcode : BitVec 32 := 0x120485D3

/-- The bits of a number, the lowest first. -/
def bitRow (n v : Nat) : List Bool := (List.range n).map v.testBit

/-- Output pin `k` as its two boundary cells capture it, data then enable: the level and the drive of the function. -/
def State.outputCells (s : State) (k phase : Nat) : List Bool :=
  match s.functionPin k phase with
  | some v => [v, true]
  | none => [false, false]

/-- The data register that the instruction selects, as it is captured, the bit nearest TDO first (R493, R494): the identification register
under IDCODE; under EXTEST and SAMPLE/PRELOAD the boundary register, its cells 0-8 from the pins; else the bypass bit. What an output pair
captures and the bypass bit's 0 are those of IEEE 1149.1 (PRESUMED, assumption 172). -/
def State.captured (s : State) (phase : Nat) : List Bool :=
  if s.test.ir = 0x01 then bitRow 32 jtagIdcode.toNat
  else if s.test.ir = 0x00 ∨ s.test.ir = 0x02 then
    bitRow 9 s.test.pins.toNat ++ (List.range 10).flatMap fun k => s.outputCells k phase
  else [false]

/-- TDO, none in high impedance: driven only while a register shifts, here with its `n`-th bit (R492). -/
def State.tdo (s : State) (shift : Option Nat) (phase : Nat) : Option Bool :=
  shift.bind fun n => (s.captured phase)[n]?

/-- JTAG_UPDATE_IR (R492-R495): in every state but OFF. A low TRST_N holds the port in Test-Logic-Reset, with IDCODE selected and the output
pins with the function. -/
def execJtagUpdateIr (ir : BitVec 8) (boundary : JtagScan) (s : State) : Res :=
  .next (
    if s.node.state = .off then s
    else if ¬ boundary.trstN then { s with test := { s.test with trstN := false, ir := 0x01 } }
    else { s with test := { s.test with trstN := true, ir := jtagCode ir, boundary := boundary.cells, pins := boundary.pins } })

/-- JTAG_TEST_LOGIC_RESET (R493, R495). -/
def execJtagTestLogicReset (s : State) : Res :=
  .next (if s.node.state = .off then s else { s with test := { s.test with ir := 0x01 } })

end Sys2Proof.Machine
end

