-- ==== Sys2Proof/Machine/Dispatch.lean ====
section
/-! DEFINITION. The command table: one arm per command, each a direct call of its meaning. -/

namespace Sys2Proof.Machine

def exec (i : Instr) (s : State) : Host.Outcome State Fault Refusal :=
  match i with
  | .powerOn => Sys2Proof.Machine.execPowerOn s
  | .railFall => Sys2Proof.Machine.execRailFall s
  | .resetNLow => Sys2Proof.Machine.execResetNLow s
  | .resetRelease role pairEn pairPos => Sys2Proof.Machine.execResetRelease role pairEn pairPos s
  | .bootComplete => Sys2Proof.Machine.execBootComplete s
  | .firmwareRestartDone => Sys2Proof.Machine.execFirmwareRestartDone s
  | .pcieLinkUp => Sys2Proof.Machine.execPcieLinkUp s
  | .perstNEvent level => Sys2Proof.Machine.execPerstNEvent level s
  | .functionLevelReset => Sys2Proof.Machine.execFunctionLevelReset s
  | .pciePowerStateChange d3hot bme control => Sys2Proof.Machine.execPciePowerStateChange d3hot bme control s
  | .refclkAbsent => Sys2Proof.Machine.execRefclkAbsent s
  | .refclkPresent => Sys2Proof.Machine.execRefclkPresent s
  | .tbPhaseCompare region edge => Sys2Proof.Machine.execTbPhaseCompare region edge s
  | .tbLocked region => Sys2Proof.Machine.execTbLocked region s
  | .tbLockLoss region => Sys2Proof.Machine.execTbLockLoss region s
  | .tbAcquireTimeout region => Sys2Proof.Machine.execTbAcquireTimeout region s
  | .tbRingStopped region => Sys2Proof.Machine.execTbRingStopped region s
  | .holdoverBoundUpdate region => Sys2Proof.Machine.execHoldoverBoundUpdate region s
  | .coarseTickVote upsets => Sys2Proof.Machine.execCoarseTickVote upsets s
  | .coarseWrap => Sys2Proof.Machine.execCoarseWrap s
  | .epochEdge fine => Sys2Proof.Machine.execEpochEdge fine s
  | .windowOpen => Sys2Proof.Machine.execWindowOpen s
  | .windowClose => Sys2Proof.Machine.execWindowClose s
  | .startHoldoffEnd => Sys2Proof.Machine.execStartHoldoffEnd s
  | .calUpdate cell => Sys2Proof.Machine.execCalUpdate cell s
  | .calPulse cell raw => Sys2Proof.Machine.execCalPulse cell raw s
  | .discRise cell raw => Sys2Proof.Machine.execDiscRise cell raw s
  | .interpolationDone cell => Sys2Proof.Machine.execInterpolationDone cell s
  | .discFall cell period saturated => Sys2Proof.Machine.execDiscFall cell period saturated s
  | .totLimit cell saturated => Sys2Proof.Machine.execTotLimit cell saturated s
  | .hitWordFormed cell => Sys2Proof.Machine.execHitWordFormed cell s
  | .rangeSwitchUp cell => Sys2Proof.Machine.execRangeSwitchUp cell s
  | .rangeSwitchDown cell => Sys2Proof.Machine.execRangeSwitchDown cell s
  | .cellSettleEnd cell => Sys2Proof.Machine.execCellSettleEnd cell s
  | .pageAdvance blk n => Sys2Proof.Machine.execPageAdvance blk n s
  | .trigInEdge fine => Sys2Proof.Machine.execTrigInEdge fine s
  | .treeTriggerDue => Sys2Proof.Machine.execTreeTriggerDue s
  | .recordComplete blk => Sys2Proof.Machine.execRecordComplete blk s
  | .rearmEnd blk => Sys2Proof.Machine.execRearmEnd blk s
  | .recordRead blk => Sys2Proof.Machine.execRecordRead blk s
  | .blockGrant blk => Sys2Proof.Machine.execBlockGrant blk s
  | .regionGrant region => Sys2Proof.Machine.execRegionGrant region s
  | .originFragmentOpen key => Sys2Proof.Machine.execOriginFragmentOpen key s
  | .frameClose frame => Sys2Proof.Machine.execFrameClose frame s
  | .chipGrant req => Sys2Proof.Machine.execChipGrant req s
  | .writeStageComplete => Sys2Proof.Machine.execWriteStageComplete s
  | .reclaimPass => Sys2Proof.Machine.execReclaimPass s
  | .contextOpen frame => Sys2Proof.Machine.execContextOpen frame s
  | .contextDeadline key => Sys2Proof.Machine.execContextDeadline key s
  | .contextClose key => Sys2Proof.Machine.execContextClose key s
  | .outputReaderSelect reader => Sys2Proof.Machine.execOutputReaderSelect reader s
  | .throttlePeriodic => Sys2Proof.Machine.execThrottlePeriodic s
  | .dmaItemWrite => Sys2Proof.Machine.execDmaItemWrite s
  | .ringWriteback ring => Sys2Proof.Machine.execRingWriteback ring s
  | .msixHoldoffEnd ring => Sys2Proof.Machine.execMsixHoldoffEnd ring s
  | .ringEnable ring value => Sys2Proof.Machine.execRingEnable ring value s
  | .ringTailWrite ring value => Sys2Proof.Machine.execRingTailWrite ring value s
  | .barAccess access => Sys2Proof.Machine.execBarAccess access s
  | .registerWrite offset wide value => Sys2Proof.Machine.execRegisterWrite offset wide value s
  | .apertureRead offset count upsets => Sys2Proof.Machine.execApertureRead offset count upsets s
  | .ptmDialog master fine => Sys2Proof.Machine.execPtmDialog master fine s
  | .hostReadCompletion outcome data => Sys2Proof.Machine.execHostReadCompletion outcome data s
  | .linkBlockLock port lane => Sys2Proof.Machine.execLinkBlockLock port lane s
  | .linkBlockLockLoss port lane => Sys2Proof.Machine.execLinkBlockLockLoss port lane s
  | .alignmentMissing port found => Sys2Proof.Machine.execAlignmentMissing port found s
  | .alignWordTx port => Sys2Proof.Machine.execAlignWordTx port s
  | .linkLaneReady port lane => Sys2Proof.Machine.execLinkLaneReady port lane s
  | .linkLaneWaitExpiry port => Sys2Proof.Machine.execLinkLaneWaitExpiry port s
  | .linkDeskewDone port lead => Sys2Proof.Machine.execLinkDeskewDone port lead s
  | .linkCfgDone port a b partnerOn => Sys2Proof.Machine.execLinkCfgDone port a b partnerOn s
  | .linkDwellExpiry port => Sys2Proof.Machine.execLinkDwellExpiry port s
  | .packetTx port => Sys2Proof.Machine.execPacketTx port s
  | .packetRx port pkt => Sys2Proof.Machine.execPacketRx port pkt s
  | .linkAckRx port word => Sys2Proof.Machine.execLinkAckRx port word s
  | .linkNakRx port word => Sys2Proof.Machine.execLinkNakRx port word s
  | .ackTimer port => Sys2Proof.Machine.execAckTimer port s
  | .replayTimeout port control => Sys2Proof.Machine.execReplayTimeout port control s
  | .replayWindowEnd port => Sys2Proof.Machine.execReplayWindowEnd port s
  | .timingMarkerTx => Sys2Proof.Machine.execTimingMarkerTx s
  | .timingMarkerRx port word => Sys2Proof.Machine.execTimingMarkerRx port word s
  | .triggerRx port => Sys2Proof.Machine.execTriggerRx port s
  | .throttleRx port => Sys2Proof.Machine.execThrottleRx port s
  | .mboxMsgRx port => Sys2Proof.Machine.execMboxMsgRx port s
  | .mboxReplyRx port => Sys2Proof.Machine.execMboxReplyRx port s
  | .doorbellRx port => Sys2Proof.Machine.execDoorbellRx port s
  | .lockReadRx port => Sys2Proof.Machine.execLockReadRx port s
  | .lockWriteRx port => Sys2Proof.Machine.execLockWriteRx port s
  | .lockResultRx port => Sys2Proof.Machine.execLockResultRx port s
  | .grantRx port => Sys2Proof.Machine.execGrantRx port s
  | .heartbeatRx port => Sys2Proof.Machine.execHeartbeatRx port s
  | .healthRx port => Sys2Proof.Machine.execHealthRx port s
  | .hbArmWrite value => Sys2Proof.Machine.execHbArmWrite value s
  | .heartbeatTick => Sys2Proof.Machine.execHeartbeatTick s
  | .healthSend => Sys2Proof.Machine.execHealthSend s
  | .hbTimeout port => Sys2Proof.Machine.execHbTimeout port s
  | .grantPeriodic => Sys2Proof.Machine.execGrantPeriodic s
  | .grantInChange level => Sys2Proof.Machine.execGrantInChange level s
  | .sigSeal frame => Sys2Proof.Machine.execSigSeal frame s
  | .bistIdleStart bank => Sys2Proof.Machine.execBistIdleStart bank s
  | .bistIdleDone result => Sys2Proof.Machine.execBistIdleDone result s
  | .pairImageRx own image => Sys2Proof.Machine.execPairImageRx own image s
  | .resyncDirCopyDone bankB entries => Sys2Proof.Machine.execResyncDirCopyDone bankB entries s
  | .resyncJoin partnerRunning => Sys2Proof.Machine.execResyncJoin partnerRunning s
  | .memPoisonRewrite mem addr => Sys2Proof.Machine.execMemPoisonRewrite mem addr s
  | .mergeBufferDrain mem upset => Sys2Proof.Machine.execMergeBufferDrain mem upset s
  | .scrubVisit mem upset => Sys2Proof.Machine.execScrubVisit mem upset s
  | .lapOverdue mem => Sys2Proof.Machine.execLapOverdue mem s
  | .leakPeriod mem => Sys2Proof.Machine.execLeakPeriod mem s
  | .tmrRefresh upsets => Sys2Proof.Machine.execTmrRefresh upsets s
  | .retireMapRepair unit => Sys2Proof.Machine.execRetireMapRepair unit s
  | .mboxWrite mbox offset data => Sys2Proof.Machine.execMboxWrite mbox offset data s
  | .mboxPost mbox who => Sys2Proof.Machine.execMboxPost mbox who s
  | .mboxAbort mbox => Sys2Proof.Machine.execMboxAbort mbox s
  | .lockRead lock who => Sys2Proof.Machine.execLockRead lock who s
  | .lockWrite lock value => Sys2Proof.Machine.execLockWrite lock value s
  | .fwTakeMessage upsets ram => Sys2Proof.Machine.execFwTakeMessage upsets ram s
  | .nodeIdentify => Sys2Proof.Machine.execNodeIdentify s
  | .nodeReset => Sys2Proof.Machine.execNodeReset s
  | .counterClear => Sys2Proof.Machine.execCounterClear s
  | .nodeRegRead => Sys2Proof.Machine.execNodeRegRead s
  | .nodeRegClear => Sys2Proof.Machine.execNodeRegClear s
  | .cfgData => Sys2Proof.Machine.execCfgData s
  | .cfgCommit => Sys2Proof.Machine.execCfgCommit s
  | .cfgQuery => Sys2Proof.Machine.execCfgQuery s
  | .cfgDiscard => Sys2Proof.Machine.execCfgDiscard s
  | .acqStart => Sys2Proof.Machine.execAcqStart s
  | .acqStop => Sys2Proof.Machine.execAcqStop s
  | .acqStopComplete => Sys2Proof.Machine.execAcqStopComplete s
  | .acqThaw => Sys2Proof.Machine.execAcqThaw s
  | .acqCellSet => Sys2Proof.Machine.execAcqCellSet s
  | .acqMaskWrite => Sys2Proof.Machine.execAcqMaskWrite s
  | .acqTrigger => Sys2Proof.Machine.execAcqTrigger s
  | .acqRegRead => Sys2Proof.Machine.execAcqRegRead s
  | .acqRegClear => Sys2Proof.Machine.execAcqRegClear s
  | .tbRestart => Sys2Proof.Machine.execTbRestart s
  | .calRestart => Sys2Proof.Machine.execCalRestart s
  | .calTableRead => Sys2Proof.Machine.execCalTableRead s
  | .calTableWrite => Sys2Proof.Machine.execCalTableWrite s
  | .tbRegRead => Sys2Proof.Machine.execTbRegRead s
  | .tbRegClear => Sys2Proof.Machine.execTbRegClear s
  | .dirShadowBegin => Sys2Proof.Machine.execDirShadowBegin s
  | .dirImage => Sys2Proof.Machine.execDirImage s
  | .dirShadowEnd => Sys2Proof.Machine.execDirShadowEnd s
  | .dirSwap => Sys2Proof.Machine.execDirSwap s
  | .dirSwapComplete => Sys2Proof.Machine.execDirSwapComplete s
  | .dirWrite => Sys2Proof.Machine.execDirWrite s
  | .dirEntryRead => Sys2Proof.Machine.execDirEntryRead s
  | .dirRegRead => Sys2Proof.Machine.execDirRegRead s
  | .dirRegClear => Sys2Proof.Machine.execDirRegClear s
  | .enumStart => Sys2Proof.Machine.execEnumStart s
  | .enumReplyTimeout port => Sys2Proof.Machine.execEnumReplyTimeout port s
  | .enumAssign => Sys2Proof.Machine.execEnumAssign s
  | .enumRelay => Sys2Proof.Machine.execEnumRelay s
  | .enumRoute final => Sys2Proof.Machine.execEnumRoute final s
  | .pairGrant => Sys2Proof.Machine.execPairGrant s
  | .pairForceFail => Sys2Proof.Machine.execPairForceFail s
  | .linkRetrain => Sys2Proof.Machine.execLinkRetrain s
  | .linkRegRead => Sys2Proof.Machine.execLinkRegRead s
  | .linkRegClear => Sys2Proof.Machine.execLinkRegClear s
  | .memRetire => Sys2Proof.Machine.execMemRetire s
  | .memLogRead => Sys2Proof.Machine.execMemLogRead s
  | .memRead => Sys2Proof.Machine.execMemRead s
  | .memRegRead => Sys2Proof.Machine.execMemRegRead s
  | .memRegClear => Sys2Proof.Machine.execMemRegClear s
  | .loopSetpoint => Sys2Proof.Machine.execLoopSetpoint s
  | .loopEnable => Sys2Proof.Machine.execLoopEnable s
  | .loopClampWrite => Sys2Proof.Machine.execLoopClampWrite s
  | .sxpCoefWrite => Sys2Proof.Machine.execSxpCoefWrite s
  | .hkPowerMode => Sys2Proof.Machine.execHkPowerMode s
  | .hkRegRead => Sys2Proof.Machine.execHkRegRead s
  | .hkRegClear => Sys2Proof.Machine.execHkRegClear s
  | .bistLogic => Sys2Proof.Machine.execBistLogic s
  | .bistLogicDone signature xfail => Sys2Proof.Machine.execBistLogicDone signature xfail s
  | .bistMem => Sys2Proof.Machine.execBistMem s
  | .bistMemDone result => Sys2Proof.Machine.execBistMemDone result s
  | .testRegRead => Sys2Proof.Machine.execTestRegRead s
  | .testRegClear => Sys2Proof.Machine.execTestRegClear s
  | .patchData => Sys2Proof.Machine.execPatchData s
  | .patchApply => Sys2Proof.Machine.execPatchApply s
  | .patchStatus => Sys2Proof.Machine.execPatchStatus s
  | .hkPassStart conv => Sys2Proof.Machine.execHkPassStart conv s
  | .hkSample conv step code => Sys2Proof.Machine.execHkSample conv step code s
  | .sxpConversion conv entry codes excLimit => Sys2Proof.Machine.execSxpConversion conv entry codes excLimit s
  | .sxpDiagPhase conv entry codes => Sys2Proof.Machine.execSxpDiagPhase conv entry codes s
  | .ilkPeriod port => Sys2Proof.Machine.execIlkPeriod port s
  | .itemCloseTimer telemetry => Sys2Proof.Machine.execItemCloseTimer telemetry s
  | .pacingEvent late => Sys2Proof.Machine.execPacingEvent late s
  | .jtagUpdateIr ir boundary => Sys2Proof.Machine.execJtagUpdateIr ir boundary s
  | .jtagTestLogicReset => Sys2Proof.Machine.execJtagTestLogicReset s
  | .sampleConversion cell n code => Sys2Proof.Machine.execSampleConversion cell n code s
  | .pcieLinkLoss => Sys2Proof.Machine.execPcieLinkLoss s
  | .mailboxRead outbound mbox offset length upsets => Sys2Proof.Machine.execMailboxRead outbound mbox offset length upsets s
  | .completionTimeout => Sys2Proof.Machine.execCompletionTimeout s

end Sys2Proof.Machine
end

