-- ==== Sys2Proof/Safety.lean ====
section
/-! DEFINITION. What a safe run is, in the terms the statements use: the invariant of the state, what a command leaves unchanged,
and a run that never stops. -/

namespace Sys2Proof.Machine

/-! ## The invariant -/

/-- A memory is in canonical form, and its merge buffer holds at most 16 entries (R328). -/
def Mem.wf (v : Mem) : Bool := Tab.wf 0 v.cells && v.buffer.length ≤ 16

/-- The instructions of the test access port (R493): every other code selects BYPASS. -/
def jtagListed (ir : BitVec 8) : Bool := ir ∈ ([0x00, 0x01, 0x02, 0x04, 0x05, 0xFF] : List (BitVec 8))

/-- What every step keeps: tables in their one canonical form, the merge buffers and the histories within the sizes the spec gives
them (R200, R310, R328, R336), and a listed instruction in the test access port (R493). -/
structure Inv (s : State) : Prop where
  regs : Tab.wf 0 s.regs = true
  cfg : Tab.wf 0 s.cfg = true
  hostMem : Tab.wf 0 s.hostMem = true
  tri : Tab.wf {} s.prot.tri = true
  bar0 : Tab.wf 0 s.host.bar0 = true
  mems : Tab.wf {} s.mems = true
  mem : ∀ e ∈ s.mems, e.2.wf = true
  regions : Tab.wf {} s.regions = true
  cells : Tab.wf {} s.cells = true
  blocks : Tab.wf {} s.blocks = true
  ports : Tab.wf {} s.ports = true
  pages : s.prot.pages.length ≤ 256
  banks : s.prot.banks.length ≤ 4
  sigs : s.pair.sigs.length ≤ 16
  closed : s.pool.closedEvents.length ≤ 4096
  ir : jtagListed s.test.ir = true

/-! ## Frames -/

/-- A part of the state: one register word, configuration record, triplicated word, BAR0 word, memory, region, cell, block or port,
or one of the node's remaining parts. -/
inductive Comp where
  | reg (off : Nat) | cfg (key : Nat) | tri (i : Nat) | bar0 (off : Nat) | mem (m : Nat) | region (r : Nat) | cell (c : Nat)
  | block (b : Nat) | port (p : Nat)
  | hostMem | node | time | trig | pool | dir | pair | prot | host | mbox | fw | hk | loop | test | free | ticks | out
  deriving DecidableEq, Repr

/-- A part reads the same in two states. -/
def Same (c : Comp) (s t : State) : Prop :=
  match c with
  | .reg off => t.word off = s.word off
  | .cfg key => t.record key = s.record key
  | .tri i => Tab.get {} t.prot.tri i = Tab.get {} s.prot.tri i
  | .bar0 off => t.bar0 off = s.bar0 off
  | .mem m => t.mem m = s.mem m
  | .region r => t.region r = s.region r
  | .cell c => t.cell c = s.cell c
  | .block b => t.block b = s.block b
  | .port p => t.port p = s.port p
  | .hostMem => t.hostMem = s.hostMem
  | .node => t.node = s.node
  | .time => t.time = s.time
  | .trig => t.trig = s.trig
  | .pool => t.pool = s.pool
  | .dir => t.dir = s.dir
  | .pair => t.pair = s.pair
  | .prot => ∀ x, { t.prot with tri := x } = { s.prot with tri := x }
  | .host => ∀ x, { t.host with bar0 := x } = { s.host with bar0 := x }
  | .mbox => t.mbox = s.mbox
  | .fw => t.fw = s.fw
  | .hk => t.hk = s.hk
  | .loop => t.loop = s.loop
  | .test => t.test = s.test
  | .free => t.free = s.free
  | .ticks => t.ticks = s.ticks
  | .out => t.out = s.out

/-- Every part outside `P` reads the same in both states. -/
def Frame (P : Comp → Prop) (s t : State) : Prop := ∀ c, P c ∨ Same c s t

/-! ### The parts that the shared operations change -/

/-- Storing an item's words in slots (R188-R190, R208-R211): the pool and its memory, the registers of the pool, and what a change of
THROTTLE_AGG sends. -/
def storeParts : Comp → Prop
  | .pool | .host | .out => True
  | .mem m => m = 0
  | .port p => p = 16 ∨ p = 17
  | .reg o => o = 0x3000 ∨ o = 0x3008 ∨ o = 0x3018 ∨ o = 0x301C ∨ o = 0x3024
  | _ => False

/-- An error-log entry (R334): the log and an item. -/
def logParts (c : Comp) : Prop := c = .prot ∨ c = .reg 0x8204 ∨ storeParts c

/-- A read or write of code words of memory `m` (R319-R335): its contents and registers, the error log, notices. -/
def memParts (m : Nat) (c : Comp) : Prop :=
  c = .node ∨ c = .mem m ∨ (∃ o, c = .reg o ∧ 0x8000 + 0x40 * m ≤ o ∧ o < 0x8018 + 0x40 * m) ∨ logParts c

/-- An item or a notice that enters a queue (R185, R186, R414): the queue's pointer words in MEM 5 are compared, a queue whose copies differ
is reset, which counts towards FAIL and logs a free ORIGIN, and the item is stored. -/
def queueParts (c : Comp) : Prop := c = .free ∨ c = .pair ∨ c = .reg 0x3004 ∨ c = .reg 0x7000 ∨ memParts 5 c

/-- The reply to the message in mailbox `i` and the completion of the message (R362, R376, R383); a reply to own firmware reaches it there. -/
def answerParts (i : Nat) (c : Comp) : Prop :=
  c = .mbox ∨ (∃ p, c = .port p) ∨ c = .reg (0xA000 + 4 * i) ∨ c = .bar0 (0x2010 + 4 * (i / 4)) ∨ memParts 4 c ∨ queueParts c ∨
    c = .fw ∨ c = .reg 0xA088

/-! ## The message before the firmware -/

/-- Firmware has taken `m` from one of the 16 mailboxes, it carries `opcode`, and what R386 checks before a command's own rules holds:
LENGTH reaches `size` and fits a mailbox, and the node is in one of `states`. -/
def Taken (s : State) (opcode : BitVec 16) (size : Nat) (states : List NodeState) (m : Msg) : Prop :=
  s.fw.cur = some m ∧ m.mbox < 16 ∧ m.opcode = opcode ∧ size ≤ m.length ∧ m.length ≤ 248 ∧ s.node.state ∈ states

/-- The state in which firmware no longer holds a message it had taken. -/
def State.begun (s : State) : State := { s with fw := { s.fw with cur := none } }

/-- Code word `a` of memory `m` reads as its data bits: it lies in no retired unit, no merge buffer and no staging register holds bytes of
it, and it is CLEAN (R319, R322, R328, R337). -/
def State.soundCw (s : State) (m a : Nat) : Prop :=
  (m = 0 ∨ s.unitRetired m (a / 256) = false) ∧ (∀ e ∈ (s.mem m).buffer, e.addr ≠ a) ∧
  (m = 2 → (s.cell (a / 512)).staging.all (fun g => decide (g.addr ≠ a)) = true) ∧ classify (s.raw m a) = .clean

/-- The commands whose argument has one size: opcode, that size and the node states that accept them (R389, R393, R400-R412). -/
def commandRows : List (Instr × BitVec 16 × Nat × List NodeState) :=
  [(.nodeIdentify, 0x100, 0, statesLUCRS), (.nodeReset, 0x101, 1, statesLUCRS), (.counterClear, 0x102, 6, statesLUCRS),
   (.nodeRegRead, 0x1F0, 8, statesLUCRS), (.nodeRegClear, 0x1F1, 8, statesLUCRS), (.cfgCommit, 0x201, 8, statesUC),
   (.cfgQuery, 0x202, 0, statesLUCRS), (.cfgDiscard, 0x203, 0, statesUC), (.acqStart, 0x300, 0, [.configured]),
   (.acqStop, 0x301, 0, [.running]), (.acqThaw, 0x302, 16, statesCR), (.acqCellSet, 0x303, 16, statesCR)] ++
  [(.acqTrigger, 0x305, 16, [.running]), (.acqRegRead, 0x3F0, 8, statesLUCRS), (.acqRegClear, 0x3F1, 8, statesLUCRS),
   (.tbRestart, 0x400, 1, statesCR), (.calRestart, 0x401, 4, statesCR), (.calTableRead, 0x402, 2, statesCR),
   (.calTableWrite, 0x403, 136, statesCR), (.tbRegRead, 0x4F0, 8, statesLUCRS), (.tbRegClear, 0x4F1, 8, statesLUCRS),
   (.dirShadowBegin, 0x500, 0, statesCR), (.dirShadowEnd, 0x502, 0, statesCR), (.dirSwap, 0x503, 4, statesCR),
   (.dirWrite, 0x504, 16, statesCR), (.dirEntryRead, 0x505, 8, statesCR), (.dirRegRead, 0x5F0, 8, statesLUCRS)] ++
  [(.dirRegClear, 0x5F1, 8, statesLUCRS), (.enumStart, 0x600, 0, statesUC), (.enumAssign, 0x601, 6, statesLUC),
   (.enumRelay, 0x602, 8, statesLUC), (.enumRoute false, 0x603, 192, statesLUC), (.enumRoute true, 0x603, 192, statesLUC), (.pairGrant, 0x604, 16, statesCR),
   (.pairForceFail, 0x605, 0, statesCR), (.linkRetrain, 0x606, 4, [.unconfigured, .configured, .running]),
   (.linkRegRead, 0x6F0, 8, statesLUCRS), (.linkRegClear, 0x6F1, 8, statesLUCRS), (.memRetire, 0x700, 4, statesUCRS),
   (.memLogRead, 0x701, 2, statesLUCRS), (.memRead, 0x702, 12, statesLUCRS), (.memRegRead, 0x7F0, 8, statesLUCRS),
   (.memRegClear, 0x7F1, 8, statesLUCRS)] ++
  [(.loopSetpoint, 0x800, 8, statesCR), (.loopEnable, 0x801, 8, statesCR), (.loopClampWrite, 0x802, 20, statesCR),
   (.sxpCoefWrite, 0x803, 52, statesCR), (.hkPowerMode, 0x804, 1, statesCR), (.hkRegRead, 0x8F0, 8, statesLUCRS),
   (.hkRegClear, 0x8F1, 8, statesLUCRS), (.bistLogic, 0x900, 1, statesUS), (.bistMem, 0x901, 2, statesUCRS),
   (.testRegRead, 0x9F0, 8, statesLUCRS), (.testRegClear, 0x9F1, 8, statesLUCRS), (.patchApply, 0xA01, 8, statesUS),
   (.patchStatus, 0xA02, 0, statesLUCRS)]

/-! ## Runs -/

/-- A command completes: neither fault nor refusal. -/
def Res.isNext : Res → Bool
  | .next _ => true
  | _ => false

/-- The first `n` steps from a state complete. -/
def safeRun (n : Nat) (s : State) : Bool := Res.isNext (Sys2Proof.core.run n s)

end Sys2Proof.Machine
end

