-- ==== Sys2Proof/WellFormed.lean ====
section
/-! DEFINITION. Well-formed commands: operands that the hardware can supply. The field widths of the operands are in their types;
what is checked here is what those types leave open. -/

namespace Sys2Proof

/-- Code words of a memory (R321). -/
def memoryWords (m : Nat) : Nat :=
  match m with
  | 0 => 3145728
  | 1 => 2097152
  | 2 => 1048576
  | 3 => 131072
  | 4 => 512
  | _ => 65536

/-- No key occurs twice in a list of pairs. -/
def distinctKeys {α : Type} : List (Fin 8 × α) → Bool
  | [] => true
  | e :: l => (l.all fun x => x.1 ≠ e.1) && distinctKeys l

/-- A host access lies within its BAR: BAR0 is 64 KiB, BAR2 16 MiB (R341, R357). -/
def BarAccess.wf (a : BarAccess) : Bool :=
  1 ≤ a.length && a.length ≤ 4096 && a.offset + a.length ≤ (if a.bar2 then 2 ^ 24 else 2 ^ 16)

/-- A packet has at most 64 payload words, and as many as LEN says where its framing is intact (R269-R271). -/
def Packet.wf (p : Packet) : Bool :=
  p.payload.length ≤ 64 && (!p.framed || p.payload.length == p.lenM1.toNat + 1)

/-- A page or bank of a memory that can be retired (R336): pages of 256 code words, banks of 262,144. -/
def RetireUnit.wf (u : RetireUnit) : Bool :=
  u.index < memoryWords u.mem.val / (if u.bank then 262144 else 256)

/-- Vectors other than 0 at rising places among the five reads of each of 262,144 code words (R483). -/
def MbistResult.wf (r : MbistResult) : Bool :=
  (r.mismatches.all fun e => decide (e.1 < 1310720) && e.2 ≠ 0) && decide ((r.mismatches.map Prod.fst).Pairwise (· < ·))

/-- The Completion Timeout codes that the node supports (R344): the default range, ranges A and B. -/
def PcieControl.wf (c : PcieControl) : Bool := [0, 1, 2, 5, 6].contains c.timeoutRange

/-- What the hardware can supply. -/
def Instr.wf (i : Instr) : Bool :=
  match i with
  | .powerOn => true
  | .railFall => true
  | .resetNLow => true
  | .resetRelease _ _ _ => true
  | .bootComplete => true
  | .firmwareRestartDone => true
  | .pcieLinkUp => true
  | .perstNEvent _ => true
  | .functionLevelReset => true
  | .pciePowerStateChange _ _ control => control.wf
  | .refclkAbsent => true
  | .refclkPresent => true
  | .tbPhaseCompare _ _ => true
  | .tbLocked _ => true
  | .tbLockLoss _ => true
  | .tbAcquireTimeout _ => true
  | .tbRingStopped _ => true
  | .holdoverBoundUpdate _ => true
  | .coarseTickVote upsets => distinctKeys upsets
  | .coarseWrap => true
  | .epochEdge _ => true
  | .windowOpen => true
  | .windowClose => true
  | .startHoldoffEnd => true
  | .calUpdate _ => true
  | .calPulse _ _ => true
  | .discRise _ _ => true
  | .interpolationDone _ => true
  | .discFall _ _ _ => true
  | .totLimit _ _ => true
  | .hitWordFormed _ => true
  | .rangeSwitchUp _ => true
  | .rangeSwitchDown _ => true
  | .cellSettleEnd _ => true
  | .pageAdvance _ _ => true
  | .trigInEdge _ => true
  | .treeTriggerDue => true
  | .recordComplete _ => true
  | .rearmEnd _ => true
  | .recordRead _ => true
  | .blockGrant _ => true
  | .regionGrant _ => true
  | .originFragmentOpen _ => true
  | .frameClose _ => true
  | .chipGrant req => req.upsets.length ≤ 64
  | .writeStageComplete => true
  | .reclaimPass => true
  | .contextOpen _ => true
  | .contextDeadline _ => true
  | .contextClose _ => true
  | .outputReaderSelect _ => true
  | .throttlePeriodic => true
  | .dmaItemWrite => true
  | .ringWriteback _ => true
  | .msixHoldoffEnd _ => true
  | .ringEnable _ _ => true
  | .ringTailWrite _ _ => true
  | .barAccess access => access.wf
  | .registerWrite _ _ _ => true
  | .apertureRead _ count upsets => 1 ≤ count && count ≤ 128 && upsets.length ≤ count / 4 + 2
  | .ptmDialog _ _ => true
  | .hostReadCompletion _ data => data.bytes.length ≤ 4096
  | .linkBlockLock _ _ => true
  | .linkBlockLockLoss _ _ => true
  | .alignmentMissing _ found => found.length ≤ 2
  | .alignWordTx _ => true
  | .linkLaneReady _ _ => true
  | .linkLaneWaitExpiry _ => true
  | .linkDeskewDone _ _ => true
  | .linkCfgDone _ _ _ _ => true
  | .linkDwellExpiry _ => true
  | .packetTx port => port.upsets.length ≤ 64
  | .packetRx _ pkt => pkt.wf
  | .linkAckRx _ _ => true
  | .linkNakRx _ _ => true
  | .ackTimer _ => true
  | .replayTimeout _ _ => true
  | .replayWindowEnd _ => true
  | .timingMarkerTx => true
  | .timingMarkerRx _ _ => true
  | .triggerRx _ => true
  | .throttleRx _ => true
  | .mboxMsgRx _ => true
  | .mboxReplyRx _ => true
  | .doorbellRx _ => true
  | .lockReadRx _ => true
  | .lockWriteRx _ => true
  | .lockResultRx _ => true
  | .grantRx _ => true
  | .heartbeatRx _ => true
  | .healthRx _ => true
  | .hbArmWrite _ => true
  | .heartbeatTick => true
  | .healthSend => true
  | .hbTimeout _ => true
  | .grantPeriodic => true
  | .grantInChange _ => true
  | .sigSeal _ => true
  | .bistIdleStart _ => true
  | .bistIdleDone result => result.wf
  | .pairImageRx _ image => image.length < 2 ^ 32
  | .resyncDirCopyDone _ entries => entries.all fun e => e.1 < 2 ^ 21
  | .resyncJoin _ => true
  | .memPoisonRewrite mem addr => addr < memoryWords mem.val
  | .mergeBufferDrain _ _ => true
  | .scrubVisit _ _ => true
  | .lapOverdue _ => true
  | .leakPeriod _ => true
  | .tmrRefresh upsets => upsets.all fun u => u.word < 50
  | .retireMapRepair unit => unit.wf
  | .mboxWrite _ offset data => 1 ≤ data.bytes.length && offset.val + data.bytes.length ≤ 256
  | .mboxPost _ _ => true
  | .mboxAbort _ => true
  | .lockRead _ _ => true
  | .lockWrite _ _ => true
  | .fwTakeMessage upsets ram => upsets.length ≤ 16 && ram.all fun e => e.1 < memoryWords 3
  | .nodeIdentify => true
  | .nodeReset => true
  | .counterClear => true
  | .nodeRegRead => true
  | .nodeRegClear => true
  | .cfgData => true
  | .cfgCommit => true
  | .cfgQuery => true
  | .cfgDiscard => true
  | .acqStart => true
  | .acqStop => true
  | .acqStopComplete => true
  | .acqThaw => true
  | .acqCellSet => true
  | .acqMaskWrite => true
  | .acqTrigger => true
  | .acqRegRead => true
  | .acqRegClear => true
  | .tbRestart => true
  | .calRestart => true
  | .calTableRead => true
  | .calTableWrite => true
  | .tbRegRead => true
  | .tbRegClear => true
  | .dirShadowBegin => true
  | .dirImage => true
  | .dirShadowEnd => true
  | .dirSwap => true
  | .dirSwapComplete => true
  | .dirWrite => true
  | .dirEntryRead => true
  | .dirRegRead => true
  | .dirRegClear => true
  | .enumStart => true
  | .enumReplyTimeout _ => true
  | .enumAssign => true
  | .enumRelay => true
  | .enumRoute _ => true
  | .pairGrant => true
  | .pairForceFail => true
  | .linkRetrain => true
  | .linkRegRead => true
  | .linkRegClear => true
  | .memRetire => true
  | .memLogRead => true
  | .memRead => true
  | .memRegRead => true
  | .memRegClear => true
  | .loopSetpoint => true
  | .loopEnable => true
  | .loopClampWrite => true
  | .sxpCoefWrite => true
  | .hkPowerMode => true
  | .hkRegRead => true
  | .hkRegClear => true
  | .bistLogic => true
  | .bistLogicDone _ _ => true
  | .bistMem => true
  | .bistMemDone result => result.wf
  | .testRegRead => true
  | .testRegClear => true
  | .patchData => true
  | .patchApply => true
  | .patchStatus => true
  | .hkPassStart _ => true
  | .hkSample _ _ _ => true
  | .sxpConversion _ _ _ _ => true
  | .sxpDiagPhase _ _ _ => true
  | .ilkPeriod _ => true
  | .itemCloseTimer _ => true
  | .pacingEvent _ => true
  | .jtagUpdateIr _ _ => true
  | .jtagTestLogicReset => true
  | .sampleConversion _ _ _ => true
  | .pcieLinkLoss => true
  | .mailboxRead _ _ offset length upsets => 1 ≤ length && offset.val + length ≤ 256 && upsets.length ≤ 17
  | .completionTimeout => true

end Sys2Proof
end

