-- ==== Sys2Proof/Certificates/Slice0/Obligations.lean ====
section
/-! DEFINITION. The statements: what the rules of the spec say of the commands, over every state that meets the hypotheses. -/

open Sys2Proof Sys2Proof.Machine

/-- A step takes the command at the front of the queue and carries it out on the rest of the state. That commands wait in a queue is
the model's choice (assumption 2). -/
def Obligations.StepRunsFrontCommand : Prop :=
  ∀ (c : Instr) (rest : List Instr) (s : State),
    step { s with pending := c :: rest } = exec c { s with pending := rest }

/-- With no command waiting the node idles. The model's own choice (assumption 2). -/
def Obligations.EmptyQueueIdles : Prop :=
  ∀ s : State, s.pending = [] → step s = .next s

/-- No row of the command table gives bits, so no word spells a command. The model's own reading (assumption 1). -/
def Obligations.NoWordSpellsCommand : Prop :=
  ∀ (s : State) (nbits w : Nat), decodeTableWord nbits w = none ∧ s.withFetchWord nbits w = s

/-- The state after reset is OFF (R455, R356; assumption 5), meets the invariant, has nothing waiting and nothing sent, and holds the
reset columns of the register tables: in every word of every owner those that are not 0 (R83, R117, R316, R356, R436, R491) and 0 in every
other word; the BAR0 registers and the configuration records stand at theirs (R347, R356; assumption 8). That the memories read 0 is the
model's choice (assumption 10). -/
def Obligations.ResetHoldsRegisterTables : Prop :=
  Inv State.reset ∧ State.reset.node.state = .off ∧ State.reset.pending = [] ∧ State.reset.out = [] ∧
  (∀ o, State.reset.word o = regReset o) ∧
  (∀ o, State.reset.word o =
    (if o = 0x24 then 10 else if 0x1000 ≤ o ∧ o < 0x1020 then 0x10 else if 0x7010 ≤ o ∧ o < 0x7050 then 2
     else if 0xB114 ≤ o ∧ o < 0xB134 then 0x7000 else if 0xB134 ≤ o ∧ o < 0xB154 then 0x7FC00000 else if o = 0xD004 then 0xFF
     else if 0x20000 ≤ o ∧ o < 0x30000 ∧ o % 32 = 4 then 2 else 0)) ∧
  (∀ r, r < 8 → State.reset.getF (R.tbState r) = 0 ∧ State.reset.getF (R.calFrozen r) = 1) ∧
  (∀ p, p < 16 → State.reset.getF (R.arbGrant p) = 2) ∧
  (∀ n, n < 8 → State.reset.word (R.sxpResult n).off = 0x7FC00000 ∧ State.reset.getF (R.ilkCode n) = 7) ∧
  State.reset.getF R.lbistPartition = 0xFF ∧
  (∀ c, c < 2048 → State.reset.getF (R.curRange c) = 2) ∧
  (∀ o, State.reset.bar0 o = bar0Reset o) ∧ (∀ k, State.reset.record k = cfgDefault k) ∧
  (∀ m a, State.reset.raw m a = 0) ∧ (∀ i, State.reset.lock i = 0) ∧ State.reset.node.nodeId = 0xFFF

/-- No step of the model breaks the invariant: the tables stay canonical, so that equal contents are equal data, and the buffers and
histories stay within the sizes of R200, R310, R328 and R336. -/
def Obligations.EveryStepKeepsInvariant : Prop :=
  ∀ s t : State, Inv s → step s = .next t → Inv t

/-- A step consumes one command and takes nothing back: the queue loses its front alone, what has left the node stays, and neither
the clock nor the count of free values falls. The queue, the clock, the count and the list of what is sent are the model's own (assumptions 2, 6,
4 and 7). -/
def Obligations.StepOnlyConsumesAndAppends : Prop :=
  ∀ s t : State, step s = .next t →
    t.pending = s.pending.tail ∧ (∃ l, t.out = l ++ s.out) ∧ s.ticks ≤ t.ticks ∧ s.free ≤ t.free

/-- Every command completes from every state, with every operand: one that lies outside its documented range (R18) or breaks the rules of
a ring (R360) has an unpredictable result, which is a free value, and stops nothing; so no step is refused or faults (the model's reading of R18 and R360, assumptions 12 and 148; that a command whose conditions
fail completes is its choice, assumption 3). -/
def Obligations.StepStopsOnlyOutOfRange : Prop :=
  (∀ (c : Instr) (s : State), ∃ t, exec c s = .next t) ∧ (∀ s : State, ∃ t, step s = .next t)

/-- Power and RESET_N (R379, R456, R457, R460): the first rail, or the fall of one, leaves the node in RESET with every register, record
and memory at its reset value and no mailbox, patch or retirement; RESET_N low also leaves it in RESET, loses the configuration, the
pool and every queue, and keeps the patch, the retirement, the doorbells, the locks and the posting order. That every memory word reads 0
after power-on is the model's choice (assumption 10). -/
def Obligations.PowerAndResetLoseConfiguration : Prop :=
  (∀ s : State, s.node.state = .off → ∃ t, exec .powerOn s = .next t ∧ t.node.state = .reset ∧
    (∀ o, t.word o = regReset o) ∧ (∀ k, t.record k = cfgDefault k) ∧ (∀ m a, t.raw m a = 0 ∧ (t.mem m).buffer = []) ∧
    (∀ m, m < 6 → (t.mem m).lapStart = s.ticks) ∧ t.prot = {} ∧ t.pool = {} ∧ t.fw = {} ∧ t.mbox = {} ∧ t.node.nodeId = 0xFFF) ∧
  (∀ s : State, s.node.state ≠ .off → ∃ t, exec .railFall s = .next t ∧ t.node.state = .reset ∧
    (∀ o, t.word o = regReset o) ∧ (∀ k, t.record k = cfgDefault k) ∧ (∀ m a, t.raw m a = 0 ∧ (t.mem m).buffer = []) ∧
    (∀ m, m < 6 → (t.mem m).lapStart = s.ticks) ∧ t.prot = {} ∧ t.pool = {} ∧ t.fw = {} ∧ t.mbox = {} ∧ t.node.nodeId = 0xFFF ∧
    t.node.bootCause = 0) ∧
  (∀ s : State, s.node.state ≠ .off → s.node.state ≠ .reset → ∃ t, exec .resetNLow s = .next t ∧ t.node.state = .reset ∧
    t.node.bootCause = 1 ∧ t.node.incarnation = s.node.incarnation + 1 ∧ (∀ k, t.record k = cfgDefault k) ∧ t.pool = {} ∧
    t.ports = [] ∧ t.fw.patchInForce = s.fw.patchInForce ∧ t.fw.waits = [] ∧ t.prot.pages = s.prot.pages ∧
    t.prot.banks = s.prot.banks ∧ t.mbox.order = s.mbox.order ∧ t.mbox.inDoorbell = s.mbox.inDoorbell ∧ t.mbox.hops = [] ∧
    (∀ a, t.raw 1 a = 0 ∧ t.raw 2 a = 0) ∧ (Inv s → ∀ i, t.lock i = s.lock i))

/-- The end of RESET (R1, R294, R456, R459) and of boot (R327, R456): the straps are sampled, PAIR_EN has effect at a merge node or root
alone, and a leaf that has it set shows PAIR_IGNORED; boot ends in LINKUP with its two notices and the answers that firmware owes, and a
patch of which a word reads poisoned then is no longer in force. VDDX is taken with the straps (assumption 167); outside RESET the release
does nothing (assumption 3). -/
def Obligations.BootSamplesStrapsAndReachesLinkup : Prop :=
  (∀ (s : State) (straps : Straps) (en pos : Bool), s.node.state = .reset →
    ∃ t, exec (.resetRelease straps en pos) s = .next t ∧ t.node.state = .boot ∧ t.role = straps.role.toNat ∧ t.pairPos = boolNat pos ∧
      t.paired = (en && (straps.role = 1 || straps.role = 2)) ∧ t.getF R.paired = boolNat t.paired ∧
      t.getF R.pairIgnored = boolNat (en && !(straps.role = 1 || straps.role = 2)) ∧ t.node.vddx = straps.vddx) ∧
  (∀ (s : State) (straps : Straps) (en pos : Bool), s.node.state ≠ .reset → exec (.resetRelease straps en pos) s = .next s) ∧
  (∀ s : State, s.node.state = .boot →
    ∃ t, exec .bootComplete s = .next t ∧ t.node.state = .linkup ∧ (s.mbox.owed = [] → t.node.noticeSeq = 2) ∧ t.mbox.owed = [] ∧
      t.fw.patchInForce = (if s.bootReads.1 then none else s.fw.patchInForce) ∧
      t.node.patchDiscarded = (s.bootReads.1 && s.fw.patchInForce.isSome))

/-- A firmware restart (R379, R388, R461): INCARNATION goes up, BOOT_CAUSE names the cause, what firmware was doing is lost, messages that
were TAKEN stay TAKEN and are to be carried out again from their start (assumption 176), and node state, configuration and everything
else but firmware, its notices and what it answers stays; a patch with a poisoned word is
discarded, and PATCH_APPLY's restart (cause 5) puts the staged one in force. The third restart by poison (cause 4) within one second leads
to SAFE (R327, R465). -/
def Obligations.FirmwareRestartLosesOnlyFirmware : Prop :=
  ∀ (s : State) (cause : BitVec 8), s.fw.restart = some cause →
    ∃ t, exec .firmwareRestartDone s = .next t ∧
      t.node.incarnation = s.node.incarnation + 1 ∧ t.node.bootCause = cause ∧ t.fw.cur = none ∧ t.fw.waits = [] ∧
      t.fw.cfg = none ∧ t.fw.dir = none ∧ t.fw.patch = none ∧ t.fw.restart = none ∧ t.mbox.hops = [] ∧
      t.mbox.order = s.mbox.order ∧ t.mbox.owed = [] ∧ (∀ i, t.getF (R.mboxState i) = s.getF (R.mboxState i)) ∧
      t.mbox.redo = ((List.range 16).filter fun i => s.getF (R.mboxState i) = 2) ∧
      t.fw.patchInForce = (if s.ramRewritten.bootReads.1 then none else if cause = 5 then s.fw.stagedPatch else s.fw.patchInForce) ∧
      (∀ k, t.record k = s.record k) ∧ t.time = s.time ∧ (∀ i, t.lock i = s.lock i) ∧ (∀ r, t.region r = s.region r) ∧
      (let again : Bool := cause = 4 ∧ 2 ≤ (s.fw.poisonRestarts.filter fun k => s.ticks < k + 160000000).length
       (t.node.state = if again && decide (3 ≤ s.node.state.code) then .safe else s.node.state) ∧
       (again = false → s.mbox.owed = [] →
         Frame (fun c => c = .fw ∨ c = .mbox ∨ memParts 3 c ∨ memParts 5 c) s t))

/-- The PCI Express function (R341, R359, R397), which the root alone has: a function level reset and PERST_N low put every BAR0 ring register
and the MSI-X table at their reset values, discard open transfers and staged images, and keep doorbells' counters, mailboxes, locks, node
state and configuration; what the host programs is recorded, or answered Configuration Request Retry Status before BAR0 is ready (R341); the
loss of the link leaves all but the link. At a leaf or a concentrator PERST_N has no effect. What each reset keeps beyond the rules' words
is the model's choice (assumptions 8, 9, 149 and 150); a command whose conditions fail does nothing (assumption 3). -/
def Obligations.FunctionResetsKeepTheNode : Prop :=
  (∀ s : State, s.isRoot = true → s.host.linkUp = true →
    ∃ t, exec .functionLevelReset s = .next t ∧ (∀ o, o < 0x2010 ∨ 0x2024 ≤ o → t.bar0 o = bar0Reset o) ∧ t.host.pba = 0 ∧
      t.host.linkUp = true ∧ t.host.control = { maxPayload := s.host.control.maxPayload } ∧ t.mbox = s.mbox ∧ t.node = s.node ∧
      t.cfg = s.cfg ∧ t.prot = s.prot ∧ t.mems = s.mems ∧ t.pool.items = s.pool.items ∧
      t.fw = { s.fw with cfg := none, dir := none, patch := none, failed := [], staged := none, stagedPatch := none }) ∧
  (∀ s : State, s.isRoot = false ∨ s.host.linkUp = false → exec .functionLevelReset s = .next s) ∧
  (∀ s : State, s.isRoot = true →
    ∃ t, exec (.perstNEvent false) s = .next t ∧ (∀ o, o < 0x2010 ∨ 0x2024 ≤ o → t.bar0 o = bar0Reset o) ∧ t.host.pba = 0 ∧
      t.host.linkUp = false ∧ t.host.control = {} ∧ t.mbox = s.mbox ∧ t.node = { s.node with perstN := false } ∧ t.cfg = s.cfg ∧
      t.prot = s.prot ∧ t.mems = s.mems ∧ t.pool.items = s.pool.items ∧
      t.fw = { s.fw with cfg := none, dir := none, patch := none, failed := [], staged := none, stagedPatch := none }) ∧
  (∀ s : State, s.isRoot = false → exec (.perstNEvent false) s = .next { s with node := { s.node with perstN := false } }) ∧
  (∀ s : State, exec (.perstNEvent true) s = .next { s with node := { s.node with perstN := true } }) ∧
  (∀ (s : State) (d3 bme : Bool) (control : PcieControl), s.isRoot = true → s.host.linkUp = true →
    ∃ t, exec (.pciePowerStateChange d3 bme control) s = .next t ∧ t.host.d3hot = d3 ∧ t.host.busMaster = bme ∧
      t.host.control = control ∧ (∀ v, v < 14 → t.hostOpen = true → t.vecMasked v = false → t.host.pba.getLsbD v = false) ∧
      Frame (fun c => c = .host ∨ c = .out) s t) ∧
  (∀ (s : State) (d3 bme : Bool) (control : PcieControl), s.isRoot = true → s.host.linkUp = false → 3 ≤ s.node.state.code →
    s.node.perstN = true → exec (.pciePowerStateChange d3 bme control) s = .next (s.emit .configRetry)) ∧
  (∀ s : State, exec .pcieLinkLoss s = .next { s with host := { s.host with linkUp := false } })

/-- The reference (R47, R52, R70, R71, R73, R463): declared absent, REFCLK_LOST is set and counted and a LOCKED or slewing region goes to
HOLDOVER (from SLEW: the model's reading, assumption 18); declared present, a region in HOLDOVER slews where its bound is below 3,125 ps and
else waits with REALIGN_NEEDED. Regions on the recovered reference stay as they are. Before the first commit either change trains the enabled
ports again (the model's reading of R463, assumption 173). A second report of the same level does nothing (assumption 3). -/
def Obligations.ReferenceLossAndReturn : Prop :=
  (∀ s : State, s.getF R.refclkPresent = 1 → s.node.state ≠ .off → s.degraded = false →
    ∃ t, exec .refclkAbsent s = .next t ∧ t.getF R.refclkPresent = 0 ∧ t.getF R.refclkLost.flag = 1 ∧
      t.getF R.refclkLost.occ = (s.getF R.refclkLost.occ + 1) % 256 ∧
      (∀ r, r < 8 → s.regionState r = 2 → t.regionState r = 3 ∧ t.getF (R.holdoverBound r) = 50 ∧ t.getF (R.lockLost r).flag = 1 ∧
        t.getF (R.calFrozen r) = 1) ∧
      (∀ r, r < 8 → s.regionState r = 4 → t.regionState r = 3) ∧
      (∀ r, r < 8 → s.regionState r ≠ 2 → s.regionState r ≠ 4 → t.regionState r = s.regionState r)) ∧
  (∀ s : State, s.getF R.refclkPresent = 0 → s.node.state ≠ .off → s.degraded = false →
    ∃ t, exec .refclkPresent s = .next t ∧ t.getF R.refclkPresent = 1 ∧
      (∀ r, r < 8 → s.regionState r = 3 → s.getF (R.realign r) = 0 → s.getF (R.holdoverBound r) < 3125 → t.regionState r = 4) ∧
      (∀ r, r < 8 → s.regionState r = 3 → s.getF (R.realign r) = 0 → 3125 ≤ s.getF (R.holdoverBound r) →
        t.regionState r = 3 ∧ t.getF (R.realign r) = 1) ∧
      (∀ r, r < 8 → s.regionState r ≠ 3 → t.regionState r = s.regionState r)) ∧
  (∀ s : State, s.getF R.refclkPresent = 1 → s.node.state ≠ .off → s.degraded = true →
    exec .refclkAbsent s = .next ((s.setF R.refclkPresent 0).setFlag R.refclkLost)) ∧
  (∀ s : State, s.getF R.refclkPresent = 0 → s.node.state ≠ .off → s.degraded = true →
    exec .refclkPresent s = .next (s.setF R.refclkPresent 1)) ∧
  (∀ s : State, s.node.committed = false → s.degraded = false → 3 ≤ s.node.state.code →
    (s.getF R.refclkPresent = 1 → ∃ t, exec .refclkAbsent s = .next t ∧ s.txReference = .refclk ∧ t.txReference = .onChip ∧
      ∀ p, p < 19 → s.portEnabled p = true → s.getF (R.lstate p) ≠ 6 → t.getF (R.lstate p) = 1) ∧
    (s.getF R.refclkPresent = 0 → ∃ t, exec .refclkPresent s = .next t ∧ s.txReference = .onChip ∧ t.txReference = .refclk ∧
      ∀ p, p < 19 → s.portEnabled p = true → s.getF (R.lstate p) ≠ 6 → t.getF (R.lstate p) = 1)) ∧
  (∀ s : State, s.node.committed = true ∨ s.node.state.code < 3 → s.degraded = false → s.node.state ≠ .off → ∀ p, p < 19 →
    (s.getF R.refclkPresent = 1 → ∃ t, exec .refclkAbsent s = .next t ∧ t.getF (R.lstate p) = s.getF (R.lstate p)) ∧
    (s.getF R.refclkPresent = 0 → ∃ t, exec .refclkPresent s = .next t ∧ t.getF (R.lstate p) = s.getF (R.lstate p))) ∧
  (∀ s : State, (s.getF R.refclkPresent = 0 → exec .refclkAbsent s = .next s) ∧
    (s.getF R.refclkPresent = 1 → exec .refclkPresent s = .next s))

/-- A region's lock (R48, R49, R52, R53, R69, R71): while its ring runs every comparison with an edge filters PHASE_ERR by one eighth and
counts the two lock tests; the first one after a loss of lock by comparisons closes the loop again; without an edge REFCLK_GAP counts.
4,096 good comparisons lock, with the bound 0; 16 bad ones end the lock with LOCK_LOST, the bound 50 ps and calibration frozen; 10 ms
without lock, or a ring that stops, ends in FAILED; and no other region's state changes. What FAILED leaves of R71 is a clause of its own:
that REALIGN_NEEDED and HOLDOVER_BOUNDn then read 0 is the model's choice (assumption 129; R71 lets REALIGN_NEEDED clear only at a load,
R83 shows it while R71 applies). Where the counts do not reach, nothing changes (assumption 3). -/
def Obligations.RegionLockFollowsComparisons : Prop :=
  ∀ (s : State) (r : Fin 8),
    (∀ p : BitVec 13, s.regionState r ≠ 0 → s.regionState r ≠ 5 →
      ∃ t, exec (.tbPhaseCompare r (some p)) s = .next t ∧
        (let old := signed 16 (s.getF (R.phaseErr r)); let e := old + (p.toInt - old + 4) / 8
         let again : Bool := s.regionState r = 3 ∧ (s.region r).retry
         let slews : Bool := again && decide (s.getF (R.realign r) = 0) && decide (s.getF (R.holdoverBound r) < 3125)
         t.getF (R.phaseErr r) = unsigned 16 e % 65536 ∧
         t.regionState r = (if slews then 4 else s.regionState r) ∧
         (t.region r).goodRun = (if slews then 0 else if e.natAbs ≤ 8 then (s.region r).goodRun + 1 else 0) ∧
         (t.region r).badRun = (if 64 < e.natAbs then (s.region r).badRun + 1 else 0) ∧
         (again = true → (t.region r).retry = false ∧
           (s.getF (R.realign r) = 0 → t.getF (R.realign r) = if slews then 0 else 1)) ∧
         (again = false → Frame (fun c => c = .region r ∨ c = .reg (0x1000 + 4 * r)) s t))) ∧
    (s.regionState r ≠ 0 → s.regionState r ≠ 5 →
      exec (.tbPhaseCompare r none) s = .next (s.inc R.refclkGap)) ∧
    (s.regionState r = 0 ∨ s.regionState r = 5 → ∀ edge, exec (.tbPhaseCompare r edge) s = .next s) ∧
    (s.regionState r = 1 ∨ s.regionState r = 4 → 4096 ≤ (s.region r).goodRun →
      ∃ t, exec (.tbLocked r) s = .next t ∧ t.regionState r = 2 ∧ t.getF (R.calFrozen r) = 0 ∧ t.getF (R.holdoverBound r) = 0 ∧
        (t.region r).goodRun = 0 ∧ (t.region r).wasLocked = true ∧ (∀ q, q < 8 → q ≠ r → t.regionState q = s.regionState q)) ∧
    (s.regionState r = 2 → 16 ≤ (s.region r).badRun →
      ∃ t, exec (.tbLockLoss r) s = .next t ∧ t.regionState r = 3 ∧ t.getF (R.lockLost r).flag = 1 ∧
        t.getF (R.lockLost r).occ = (s.getF (R.lockLost r).occ + 1) % 256 ∧ t.getF (R.calFrozen r) = 1 ∧
        t.getF (R.holdoverBound r) = 50 ∧ (∀ q, q < 8 → q ≠ r → t.regionState q = s.regionState q)) ∧
    (s.regionState r = 1 → (s.region r).acquiredAt + 1600000 ≤ s.ticks →
      ∃ t, exec (.tbAcquireTimeout r) s = .next t ∧ t.regionState r = 5 ∧ t.getF (R.calFrozen r) = 1 ∧
        (∀ q, q < 8 → q ≠ r → t.regionState q = s.regionState q)) ∧
    (s.regionState r ≠ 0 → s.regionState r ≠ 5 →
      ∃ t, exec (.tbRingStopped r) s = .next t ∧ t.regionState r = 5 ∧ t.ringTrim r = 0 ∧
        (s.regionState r = 2 → t.getF (R.lockLost r).flag = 1) ∧ (∀ q, q < 8 → q ≠ r → t.regionState q = s.regionState q)) ∧
    (s.regionState r ≠ 0 → s.regionState r ≠ 5 →
      ∃ t, exec (.tbRingStopped r) s = .next t ∧ t.getF (R.realign r) = 0 ∧ t.getF (R.holdoverBound r) = 0) ∧
    (¬ ((s.regionState r = 1 ∨ s.regionState r = 4) ∧ 4096 ≤ (s.region r).goodRun) → exec (.tbLocked r) s = .next s) ∧
    (¬ (s.regionState r = 2 ∧ 16 ≤ (s.region r).badRun) → exec (.tbLockLoss r) s = .next s)

/-- The published bound (R69, R71): it grows from the value held by (0.2 ppm + 0.4 ppm/K ΔT) t, with t in ticks of 6.25 ns and ΔT in
1/128 K, and saturates; where the sum has a fraction of a picosecond, whether it counts is open (assumption 4). So in HOLDOVER where R71
does not hold it; a bound that R71 holds stays. That the formula goes on in SLEW, after R71's load too, is the model's choice
(assumption 129); in any other state nothing is published (assumption 3). -/
def Obligations.HoldoverBoundGrowsByDrift : Prop :=
  let grows (s : State) (r : Fin 8) : Prop := ∃ t, exec (.holdoverBoundUpdate r) s = .next t ∧
    (let n := (s.ticks - (s.region r).holdSince) * 625 * (256 + 4 * (s.region r).dtMax)
     let b := (s.region r).boundHeld + n / 128000000
     (n % 128000000 = 0 → t.getF (R.holdoverBound r) = min 0xFFFFFFFF b) ∧
     (t.getF (R.holdoverBound r) = min 0xFFFFFFFF b ∨ t.getF (R.holdoverBound r) = min 0xFFFFFFFF (b + 1))) ∧
    Frame (fun c => c = .free ∨ c = .reg (0x1024 + 4 * r)) s t
  ∀ (s : State) (r : Fin 8),
    (s.regionState r = 3 → s.getF (R.realign r) = 0 → grows s r) ∧
    (s.regionState r = 3 → s.getF (R.realign r) = 1 → s.refPresent = false → grows s r) ∧
    (s.regionState r = 3 → s.getF (R.realign r) = 1 → s.refPresent = true → exec (.holdoverBoundUpdate r) s = .next s) ∧
    (s.regionState r = 4 → s.getF (R.realign r) = 0 → grows s r) ∧
    (s.regionState r ≠ 3 → s.regionState r ≠ 4 → exec (.holdoverBoundUpdate r) s = .next s)

/-- The vote of a tick boundary (R55): a value that most of the compared copies hold is taken, whatever was expected; on an even split
the expected value where exactly one side holds it, else the value of the lowest-numbered region. -/
def Obligations.VoteTakesMajorityOrExpected : Prop :=
  (∀ (l : List (BitVec 48)) (v e : BitVec 48) (k : Nat), l.length < 2 * copiesOf v l → voteTake l e k = v) ∧
  (∀ (l : List (BitVec 48)) (a b e : BitVec 48) (k : Nat), a ≠ b → l.head? = some a → l.length = 2 * copiesOf a l →
    l.length = 2 * copiesOf b l → voteTake l e k = if b = e then b else a)

/-- A tick boundary (R55, R57): one tick passes, the coarse time takes the vote over the copies, each counted on or struck by its upsets, and
wraps set COARSE_WRAP when it is due. What waits for a sample boundary stays until a sampling tick, and applies there (R102, R142, R147):
ACQ_STOP ends judging, discards the pending tree triggers, and stops each block that records nothing; ACQ_THAW takes each named block out
of Frost and answers; ACQ_CELL_SET gives the named cells the named values and no other cell any. Without a running timebase, or a wrap due,
nothing happens (assumption 3). The clock of ticks is the model's own (assumption 6), a vote without majority or even split takes a copy by a
free value (assumption 16), and the sampling ticks lie at the free phase of assumption 116. -/
def Obligations.CoarseTimeTakesTheVote : Prop :=
  (∀ (s : State) (u : List (Fin 8 × BitVec 48)), s.coarseRuns = true → s.node.acts = [] →
    ∃ t, exec (.coarseTickVote u) s = .next t ∧ t.ticks = s.ticks + 1 ∧ t.time.expected = none ∧
      t.time.coarse = voteTake (s.voters.map (s.nextCopy u)) (s.time.expected.getD (s.time.coarse + 1)) s.fresh.toNat ∧
      t.time.wrapDue = (s.time.wrapDue || decide (s.time.expected = none ∧ s.time.coarse = 0xFFFFFFFFFFFF ∧ t.time.coarse = 0)) ∧
      (∀ r ∈ s.voters, (t.region r).copy = t.time.coarse) ∧
      (∀ r ∈ s.voters, s.nextCopy u r ≠ t.time.coarse → s.getF (R.coarseFix r) < 65535 →
        t.getF (R.coarseFix r) = s.getF (R.coarseFix r) + 1)) ∧
  (∀ (s : State) (u : List (Fin 8 × BitVec 48)), s.coarseRuns = true → (s.ticks + 1 + boolNat s.time.parity) % 2 = 1 →
    ∃ t, exec (.coarseTickVote u) s = .next t ∧ t.node = s.node ∧ t.ticks = s.ticks + 1) ∧
  (∀ (s : State) (u : List (Fin 8 × BitVec 48)), s.coarseRuns = true → (s.ticks + 1 + boolNat s.time.parity) % 2 = 0 →
    (s.node.acts = [.stop] → ∃ t, exec (.coarseTickVote u) s = .next t ∧ t.node.acts = [] ∧ t.node.stopping = true ∧
      t.getF R.epochLoaded = 0 ∧ t.trig.pending = [] ∧
      t.time.lastFrame = (if s.loaded then some (frameOf t.time.coarse) else none) ∧
      ∀ b, b < 128 → recording (s.block b) = [] → t.getF (R.acqState b) =
        if s.getF (R.acqState b) = 5 ∨ s.getF (R.acqState b) = 6 then s.getF (R.acqState b) else 0) ∧
    (∀ mask : BitVec 128, s.node.acts = [.thaw mask] → ∃ t, exec (.coarseTickVote u) s = .next t ∧ t.node.acts = [] ∧
      (∀ b, b < 128 → t.getF (R.acqState b) ≠ s.getF (R.acqState b) → mask.getLsbD b = true ∧ s.getF (R.acqState b) = 6) ∧
      (∀ b, b < 128 → mask.getLsbD b = true → s.getF (R.acqState b) = 6 → (t.block b).frost = none ∧
        (if s.running && s.loaded then t.getF (R.acqState b) ∈ [0, 1, 4] else t.getF (R.acqState b) = 0)) ∧
      (∀ m, (s.fw.waits.find? fun e => e.2 = .thaw) = some (m, .thaw) → m.mbox < 16 → t.getF (R.mboxState m.mbox) = 0)) ∧
    (∀ (first count : Nat) (f : BitVec 8) (thr hyst disc mode : Nat), s.node.acts = [.cellSet first count f thr hyst disc mode] →
      ∃ t, exec (.coarseTickVote u) s = .next t ∧ t.node.acts = [] ∧
        (∀ c, first ≤ c → c < first + count → c < 2048 →
          t.cfgF (C.thr c) = (if f.getLsbD 0 then thr % 1024 else s.cfgF (C.thr c)) ∧
          t.cfgF (C.hyst c) = (if f.getLsbD 1 then hyst % 16 else s.cfgF (C.hyst c)) ∧
          t.cfgF (C.discEn c) = (if f.getLsbD 2 then disc % 2 else s.cfgF (C.discEn c)) ∧
          t.cfgF (C.cellMode c) = (if f.getLsbD 3 then mode % 4 else s.cfgF (C.cellMode c))) ∧
        (∀ k, ¬ (4096 + first ≤ k ∧ k < 4096 + first + count) → t.record k = s.record k))) ∧
  (∀ (s : State) (u : List (Fin 8 × BitVec 48)), s.coarseRuns = false → exec (.coarseTickVote u) s = .next s) ∧
  (∀ s : State, s.time.wrapDue = false → exec .coarseWrap s = .next s) ∧
  (∀ s : State, s.time.wrapDue = true → ∃ t, exec .coarseWrap s = .next t ∧ t.getF R.coarseWrap.flag = 1 ∧
    t.getF R.coarseWrap.occ = (s.getF R.coarseWrap.occ + 1) % 256 ∧ t.time = { s.time with wrapDue := false } ∧
    Frame (fun c => c = .time ∨ c = .reg 0x1020) s t)

/-- An EPOCH edge (R60, R61, R64, R65, R66): where it loads, the coarse time takes EPOCH_PRESET, EPOCH_LOADED is set and the load point is the
stamp of the edge (the model's reading, assumption 20), and in window mode the edge is the first start as well; loaded and in window mode it
is a start that opens a window record with the next number, or is ignored and counted while one is open; else, in CONFIGURED and SAFE too,
it only replaces EPOCH_LAST; with no region to measure it, a running node counts it as ignored, and another takes no notice (assumption 3). -/
def Obligations.EpochEdgeLoadsStartsOrIsRecorded : Prop :=
  (∀ (s : State) (f : BitVec 13), s.measuring ≠ none → s.running = true → s.node.stopping = false → s.loaded = false →
    s.streamStart = false → s.windowMode = false →
    ∃ t, exec (.epochEdge f) s = .next t ∧ t.getF R.epochLoaded = 1 ∧ t.time.coarse = BitVec.ofNat 48 (s.cfgF C.epochPreset) ∧
      t.time.loadPoint = mkStamp (BitVec.ofNat 48 (s.cfgF C.epochPreset)) f ∧
      t.time.firstFrame = some (frameOf (BitVec.ofNat 48 (s.cfgF C.epochPreset))) ∧ t.time.wrapped = false) ∧
  (∀ (s : State) (f : BitVec 13), s.measuring ≠ none → s.running = true → s.node.stopping = false → s.loaded = false →
    s.streamStart = false → s.windowMode = true → s.time.window = none →
    ∃ t w, exec (.epochEdge f) s = .next t ∧ t.getF R.epochLoaded = 1 ∧ t.time.coarse = BitVec.ofNat 48 (s.cfgF C.epochPreset) ∧
      t.time.loadPoint = mkStamp (BitVec.ofNat 48 (s.cfgF C.epochPreset)) f ∧ t.time.window = some w ∧
      w.s = BitVec.ofNat 48 (s.cfgF C.epochPreset) ∧ w.num = s.time.nextStart ∧ w.opened = false ∧ w.closed = false ∧
      t.time.nextStart = s.time.nextStart + 1) ∧
  (∀ (s : State) (f : BitVec 13), s.measuring ≠ none → s.judging = true → s.windowMode = true → s.time.window = none →
    ∃ t, exec (.epochEdge f) s = .next t ∧
      t.time.window = some { s := s.time.coarse, num := s.time.nextStart, stamp := mkStamp s.time.coarse f, at_ := s.ticks } ∧
      t.time.nextStart = s.time.nextStart + 1 ∧ t.time.coarse = s.time.coarse) ∧
  (∀ (s : State) (f : BitVec 13), s.measuring ≠ none → s.judging = true → s.windowMode = true → s.time.window ≠ none →
    s.getF R.startIgnored < 65535 →
    ∃ t, exec (.epochEdge f) s = .next t ∧ t.time = s.time ∧ t.getF R.startIgnored = s.getF R.startIgnored + 1) ∧
  (∀ (s : State) (f : BitVec 13), s.measuring ≠ none → (s.judging && s.windowMode) = false →
    (s.running && !s.node.stopping && !s.loaded && !s.streamStart) = false →
    ∃ t, exec (.epochEdge f) s = .next t ∧ t.getF R.epochLastLo + t.getF R.epochLastHi * 2 ^ 32 = (mkStamp s.time.coarse f).toNat ∧
      Frame (fun c => c = .reg 0x1048 ∨ c = .reg 0x104C) s t) ∧
  (∀ (s : State) (f : BitVec 13), s.measuring = none → s.running = true →
    exec (.epochEdge f) s = .next (s.inc R.startIgnored)) ∧
  (∀ (s : State) (f : BitVec 13), s.measuring = none → s.running = false → exec (.epochEdge f) s = .next s)

/-- The window of an accepted start at tick s (R61, R64, R147): it opens at tick s + WIN_DELAY, closes at s + WIN_DELAY + WIN_WIDTH, and four
ticks later the node accepts starts again; with no start accepted nothing happens (assumption 3). -/
def Obligations.WindowOpensClosesAndHoldsOff : Prop :=
  ∀ (s : State) (w : Window), s.time.window = some w →
    (reached s.time.coarse (w.s + BitVec.ofNat 48 (s.cfgF C.winDelay)) = true → s.node.stopping = false →
      exec .windowOpen s = .next { s with time := { s.time with window := some { w with opened := true } } }) ∧
    (reached s.time.coarse (w.s + BitVec.ofNat 48 (s.cfgF C.winDelay + s.cfgF C.winWidth)) = true →
      exec .windowClose s = .next { s with time := { s.time with window := some { w with closed := true } } }) ∧
    (reached s.time.coarse (w.s + BitVec.ofNat 48 (s.cfgF C.winDelay + s.cfgF C.winWidth) + 4) = true →
      exec .startHoldoffEnd s = .next { s with time := { s.time with window := none } }) ∧
    (∀ u : State, u.time.window = none → exec .windowOpen u = .next u ∧ exec .windowClose u = .next u ∧ exec .startHoldoffEnd u = .next u)

/-- Calibration (R77-R81): a pulse that finds the interpolator free counts in its segment; a complete measurement moves every entry of the
inactive table by its rounded share and puts that table into service, unless the measurement departs too far from a converged table, which
counts a rejection and after 16 in a row marks the cell suspect; a suspect cell's table stays as it is, and with calibration off (CAL_SOURCE
3) so does everything. Before the count is reached nothing happens (assumption 3); a poisoned entry counts as 0 (the model's reading,
assumption 120). -/
def Obligations.CalibrationCountsMovesOrRejects : Prop :=
  ∀ (s : State) (c : Fin 2048),
    let r := c.val / 256
    let v := s.cell c
    let n := v.calTotal
    let below := fun i : Nat => ((List.range i).map fun j => Tab.get 0 v.calSeg j).sum
    let m : Nat → Int := fun i => if i = 0 then 0 else roundAway (16 * (8192 * (below i : Int) - 128 * i * n)) n
    let old := fun i : Nat => Tab.get 0 (s.inlTable c).1.1 i
    let k := s.getF (R.calUpdates c) + 1
    let full := 2 ^ s.cfgF (C.calShift r)
    let far := 16 * s.cfgF (C.calRejectLsb r) < ((List.range 64).map fun i => (m i - old i).natAbs).foldl max 0
    (∀ raw : BitVec 13, s.cfgF (C.calSource r) = 1 ∨ s.cfgF (C.calSource r) = 2 → (∀ h ∈ v.hits, h.stamp ≠ none) →
      s.cellMode c ≠ 0 → s.regionState r = 2 →
      ∃ t, exec (.calPulse c raw) s = .next t ∧ (t.cell c).calTotal = n + 1 ∧
        Tab.get 0 (t.cell c).calSeg (raw.toNat / 128) = Tab.get 0 v.calSeg (raw.toNat / 128) + 1 ∧ Frame (fun p => p = .cell c) s t) ∧
    (2 ^ s.cfgF (C.calHitsLog r) ≤ n → s.cfgF (C.calSource r) ≠ 3 → s.getF (R.calSuspect c) = 0 → ¬ (s.getF (R.calConverged c) = 1 ∧ far) →
      ∃ t, exec (.calUpdate c) s = .next t ∧ (t.cell c).calTotal = 0 ∧ (t.cell c).calSeg = [] ∧ (t.cell c).rejectRun = 0 ∧
        (t.cell c).activeB = !v.activeB ∧ Tab.get 0 (t.cell c).table 0 = 0 ∧
        (∀ i, 0 < i → i < 64 → -32768 ≤ old i + roundAway (m i - old i) (min k full) →
          old i + roundAway (m i - old i) (min k full) ≤ 32767 →
          Tab.get 0 (t.cell c).table i = old i + roundAway (m i - old i) (min k full)) ∧
        t.getF (R.calUpdates c) = min k 65535 ∧ (full ≤ k → t.getF (R.calConverged c) = 1)) ∧
    (2 ^ s.cfgF (C.calHitsLog r) ≤ n → s.cfgF (C.calSource r) ≠ 3 → s.getF (R.calSuspect c) = 0 → s.getF (R.calConverged c) = 1 → far →
      ∃ t, exec (.calUpdate c) s = .next t ∧ (t.cell c).calTotal = 0 ∧ (t.cell c).rejectRun = v.rejectRun + 1 ∧
        (t.cell c).table = v.table ∧ t.getF (R.calReject c) = min (s.getF (R.calReject c) + 1) 255 ∧
        t.getF (R.calSuspect c) = (if 16 ≤ v.rejectRun + 1 then 1 else 0)) ∧
    ((s.mem 5).cells = [] → (s.inlTable c).1.1 = v.table) ∧
    (2 ^ s.cfgF (C.calHitsLog r) ≤ n → s.cfgF (C.calSource r) ≠ 3 → s.getF (R.calSuspect c) = 1 →
      exec (.calUpdate c) s = .next (s.setCell c { v with calTotal := 0, calSeg := [] })) ∧
    (n < 2 ^ s.cfgF (C.calHitsLog r) ∨ s.cfgF (C.calSource r) = 3 → exec (.calUpdate c) s = .next s)

/-- The discriminator of a cell (R53, R101, R104, R109, R112): an edge more than 12 ns after the last one that counted begins a hit with
its raw time; a nearer one marks the hit PILEUP and counts DPR_LOST; the fall completes the time over threshold of a hit in TIMING, in
ring periods up to 4,095, and so does the end of that count. A hit that begins in Frost is to be dropped and counted (R141). The hit of a
discharge has SAT = 1, and for 10 us after a discharge, as in settling, an edge only raises DISC_HIGH (R114, R519; which edges count is the
model's reading, assumption 171). An edge exactly 12 ns after the last begins one or not by a free bit (assumption 24); that an unpowered or gated
discriminator is low is the model's reading (assumption 123). Without power or with the discriminator high an edge does nothing (assumption 3). -/
def Obligations.DiscriminatorEdgesBeginAndEndHits : Prop :=
  ∀ (s : State) (c : Fin 2048),
    let v := s.cell c
    let st := s.regionState (c.val / 256)
    (∀ edge : DiscEdge, s.cellMode c ≠ 0 → v.settling = none → v.stunned s.ticks = false → s.cfgF (C.discEn c) = 1 →
      s.getF (R.discHigh c) = 0 →
      st = 2 ∨ st = 3 ∨ st = 4 → (∀ e, v.lastEdge = some e → e + 15729 < s.ticks * 8192 + edge.raw.toNat) →
      ∃ t, exec (.discRise c edge) s = .next t ∧ t.getF (R.discHigh c) = 1 ∧
        (t.cell c).lastEdge = some (s.ticks * 8192 + edge.raw.toNat) ∧ (t.cell c).hits.length = v.hits.length + 1 ∧
        (t.cell c).struck = (if edge.discharge then some s.ticks else v.struck) ∧
        (∃ h, (t.cell c).hits.getLast? = some h ∧ h.coarse = s.time.coarse ∧ h.raw = edge.raw ∧ h.stamp = none ∧ h.pileup = false ∧
          h.struck = edge.discharge ∧ h.full = decide (s.cellMode c = 2) ∧ h.frost = (s.recordsStops && decide (s.getF (R.acqState (c / 16)) = 6)))) ∧
    (∀ edge : DiscEdge, s.cellMode c ≠ 0 → s.cfgF (C.discEn c) = 1 → s.getF (R.discHigh c) = 0 → st ≠ 0 → st ≠ 5 →
      v.settling ≠ none ∨ v.stunned s.ticks = true ∨ st = 1 →
      exec (.discRise c edge) s = .next ((s.strike c edge.discharge).setF (R.discHigh c) 1)) ∧
    (∀ edge : DiscEdge, s.cellMode c = 0 ∨ s.cfgF (C.discEn c) = 0 ∨ s.getF (R.discHigh c) = 1 ∨ st = 0 ∨ st = 5 →
      exec (.discRise c edge) s = .next s) ∧
    (∀ (edge : DiscEdge) (e : Nat), s.cellMode c ≠ 0 → v.settling = none → v.stunned s.ticks = false → s.cfgF (C.discEn c) = 1 →
      s.getF (R.discHigh c) = 0 → st = 2 ∨ st = 3 ∨ st = 4 → v.lastEdge = some e → s.ticks * 8192 + edge.raw.toNat < e + 15728 →
      ∃ t, exec (.discRise c edge) s = .next t ∧ t.getF (R.discHigh c) = 1 ∧ (t.cell c).lastEdge = some e ∧
        (t.cell c).hits.length = v.hits.length ∧ (∀ h, (t.cell c).hits.getLast? = some h → h.pileup = true) ∧
        t.getF (R.dprLost c) = min (s.getF (R.dprLost c) + 1) 65535) ∧
    (∀ (p : BitVec 3) (sat : Bool), s.getF (R.discHigh c) = 1 →
      ∃ t, exec (.discFall c p sat) s = .next t ∧ t.getF (R.discHigh c) = 0 ∧
        (t.cell c).hits = v.hits.map (fun h => if h.full ∨ h.tot.isSome then h else
          { h with tot := some (min 4095 ((s.time.coarse - h.coarse).toNat * 8 + p.toNat - h.raw.toNat / 1024), sat) }) ∧
        Frame (fun x => x = .cell c ∨ x = .reg (0x20004 + 0x20 * c)) s t) ∧
    (∀ (sat : Bool), ∃ t, exec (.totLimit c sat) s = .next t ∧
      (∀ h ∈ v.hits, h.full = false → h.tot = none → 4095 ≤ (s.time.coarse - h.coarse).toNat * 8 + 7 - h.raw.toNat / 1024 →
        { h with tot := some (4095, sat) } ∈ (t.cell c).hits) ∧
      (∀ h ∈ v.hits, h.full = true ∨ h.tot ≠ none → h ∈ (t.cell c).hits) ∧ Frame (fun x => x = .cell c) s t)

/-- A stop's correction and its word (R74, R108-R113, R144, R154): the oldest stop without a stamp takes the one its raw time and its
cell's table give; the hit at the front, once due, leaves as a hit word with that stamp's fine time, the ticks since its base, its time
over threshold and its flags, into a derandomiser that holds fewer than 8, and is counted as lost in a full one; in FULL Q is the sum of the
window's samples in range-0 codes over 2^Q_SHIFT, clamped to 0 to 4,095, or 0 where a sample is poisoned, with the highest range, SETTLE and
SAT of the window (R108 to R111), and PILEUP where the window reaches into the one before (R109); a stop that is not recorded leaves no
word, and counts FROST_DROPPED where it came in Frost: with no window counter, as its word is formed (R141; the model's reading,
assumption 126). Which sample a PILEUP window reaches to, and samples that stand nowhere or before the histories, are the model's readings
(assumptions 27, 28, 127 and 158). -/
def Obligations.StopsAreStampedAndBecomeHitWords : Prop :=
  ∀ (s : State) (c : Fin 2048),
    let v := s.cell c
    (∀ (h : Hit) (rest : List Hit), v.hits = h :: rest → h.stamp = none →
      let x := inlCorrect (s.inlRead c h.raw).1 h.coarse h.raw
      ((s.mem 5).cells = [] → (s.inlRead c h.raw).1 = v.table) ∧
      ((s.mem 5).buffer = [] → poisonedCw (s.raw 5 (Config.inlWord c v.activeB (h.raw.toNat / 1024))) = true →
        Tab.get 0 (s.inlRead c h.raw).1 (h.raw.toNat / 128) = 0) ∧
      ∃ t, exec (.interpolationDone c) s = .next t ∧
        (∃ h', (t.cell c).hits = h' :: rest ∧ h'.stamp = some x ∧ h'.coarse = h.coarse ∧
          h'.raw = h.raw ∧ h'.tot = h.tot ∧ h'.pileup = h.pileup ∧
          (s.windowMode = false → h.live = true → h.key = none → h.early = false → stampReached x s.time.loadPoint = true →
            h'.key = some (.frame (frameOf (stampCoarse x))) ∧ h'.base = 0))) ∧
    (∀ (h : Hit) (rest : List Hit) (stamp : BitVec 61) (tot : Nat) (sat : Bool) (key : MergeKey), v.hits = h :: rest →
      h.stamp = some stamp → h.full = false → h.tot = some (tot, sat) → h.live = true → h.key = some key →
      s.absTick h.coarse + 3 ≤ s.ticks → v.derand.length < 8 →
      ∃ t, exec (.hitWordFormed c) s = .next t ∧ (t.cell c).hits = rest ∧
        (t.cell c).derand = v.derand ++ [⟨hitWord c (stampFine stamp).toNat (stampCoarse stamp - h.base).toNat tot 0 (boolNat h.pileup) 0
          (boolNat (sat || h.struck)) (boolNat (s.inHoldover (c.val / 256) (stampCoarse stamp))) 0, stamp, key⟩] ∧
        ((sat || h.struck) = true → t.getF (R.satSeen c).flag = 1) ∧
        t.getF (R.derandPeak c) = max (v.derand.length + 1) (s.getF (R.derandPeak c))) ∧
    (∀ (h : Hit) (rest : List Hit) (stamp : BitVec 61) (key : MergeKey), v.hits = h :: rest →
      h.stamp = some stamp → h.full = true → h.live = true → h.key = some key →
      let n0 := s.hitSample h
      let pre := s.cfgF (C.qPre (c / 16))
      let last := n0 + s.cfgF (C.qLen (c / 16)) - 1
      let u := s.setCell c { v with hits := rest, lastWindowEnd := some last }
      let w := u.qWindow (pre + s.cfgF (C.qLen (c / 16))) c ((n0 : Int) - pre) {}
      let q := if w.1.poison then 0 else (min 4095 (max 0 (w.1.sum / 2 ^ s.cfgF (C.qShift (c / 16))))).toNat
      let near : Bool := match v.lastWindowEnd with | some e => decide (n0 ≤ e + pre) | none => false
      s.absTick h.coarse + 3 ≤ s.ticks → last + 3 ≤ s.lastSample → (w.2.cell c).derand.length < 8 →
      ∃ t, exec (.hitWordFormed c) s = .next t ∧
        (t.cell c).derand = (w.2.cell c).derand ++ [⟨hitWord c (stampFine stamp).toNat (stampCoarse stamp - h.base).toNat q w.1.range
          (boolNat (h.pileup || near)) (boolNat w.1.settle) (boolNat (w.1.sat || h.struck))
          (boolNat (w.2.inHoldover (c.val / 256) (stampCoarse stamp))) (boolNat w.1.poison), stamp, key⟩]) ∧
    (∀ (u : State) (k : Nat) (n : Int) (q : QSum), u.qWindow 0 c n q = (q, u) ∧
      u.qWindow (k + 1) c n q = (u.readSample c n).2.qWindow k c (n + 1)
        (match (u.readSample c n).1 with
        | none => { q with poison := true }
        | some x => { q with
            sum := q.sum + ((x.toNat % 1024 : Nat) - (u.cfgF (C.adcOffset c) : Nat) : Int) *
              ((10 ^ (if x.toNat / 1024 % 4 = 3 then u.topRange c else x.toNat / 1024 % 4) : Nat) : Int)
            range := max q.range (x.toNat / 1024 % 4), settle := q.settle || x.getLsbD 12, sat := q.sat || x.toNat / 1024 % 4 = 3 })) ∧
    (∀ (h : Hit) (rest : List Hit) (stamp : BitVec 61) (tot : Nat) (key : MergeKey), v.hits = h :: rest →
      h.stamp = some stamp → h.full = false → h.tot = some (tot, false) → h.live = true → h.key = some key →
      s.absTick h.coarse + 3 ≤ s.ticks → 8 ≤ v.derand.length →
      ∃ t, exec (.hitWordFormed c) s = .next t ∧ (t.cell c).hits = rest ∧ (t.cell c).derand = v.derand ∧
        t.getF (R.derandLost c) = min (s.getF (R.derandLost c) + 1) 65535) ∧
    (∀ (h : Hit) (rest : List Hit) (stamp : BitVec 61), v.hits = h :: rest → h.stamp = some stamp → h.full = false → h.tot ≠ none →
      h.live = false → s.absTick h.coarse + 3 ≤ s.ticks →
      exec (.hitWordFormed c) s = .next (if h.frost then (s.setCell c { v with hits := rest }).inc (R.frostDropped (c / 16))
        else s.setCell c { v with hits := rest }))

/-- Ranges, settling and samples (R93-R96, R105, R106, R114, R322): under auto-ranging an overload raises the range by one, once in a
sample, and 16 qualifying samples lower it by one, each counted; settling ends after 2 us; a sample, taken once and in order, counts
towards the lower range where it qualifies, and its container holds its code, its range (3 where the highest range saturates) and whether
a switch fell in its window, and joins the others under the code in the staging register, which are written as one code word with the
eighth (the staging register's code, assumption 29; the numbers of samples, assumption 125). Where the range does not go on, or no cell settles,
nothing happens (assumption 3). -/
def Obligations.RangesSwitchAndSamplesAreStored : Prop :=
  ∀ (s : State) (c : Fin 2048),
    let v := s.cell c
    let r := s.getF (R.curRange c)
    (s.cellMode c = 2 → s.cfgF (C.rangeMode c) = 0 → r < 2 → v.switched = false →
      ∃ t, exec (.rangeSwitchUp c) s = .next t ∧ t.getF (R.curRange c) = r + 1 ∧
        t.getF (R.rangeUp c) = (s.getF (R.rangeUp c) + 1) % 65536 ∧ (t.cell c).switched = true ∧ (t.cell c).downCount = 0 ∧
        Frame (fun x => x = .cell c ∨ x = .reg (0x20004 + 0x20 * c) ∨ x = .reg (0x20008 + 0x20 * c)) s t) ∧
    (s.cellMode c = 2 → s.cfgF (C.rangeMode c) = 0 → 0 < r → r < 3 → 16 ≤ v.downCount →
      ∃ t, exec (.rangeSwitchDown c) s = .next t ∧ t.getF (R.curRange c) = r - 1 ∧
        t.getF (R.rangeDown c) = (s.getF (R.rangeDown c) + 1) % 65536 ∧ (t.cell c).switched = true ∧ (t.cell c).downCount = 0 ∧
        Frame (fun x => x = .cell c ∨ x = .reg (0x20004 + 0x20 * c) ∨ x = .reg (0x20008 + 0x20 * c)) s t) ∧
    (v.switched = true → exec (.rangeSwitchUp c) s = .next s) ∧
    (∀ k, v.settling = some k → k + 320 ≤ s.ticks → exec (.cellSettleEnd c) s = .next (s.setCell c { v with settling := none })) ∧
    (∀ k, v.settling = some k → s.ticks < k + 320 → exec (.cellSettleEnd c) s = .next s) ∧
    (∀ (n p : Nat) (code : BitVec 10) (g : Staging), s.cellMode c = 2 → s.regionState (c.val / 256) ≠ 0 →
      s.regionState (c.val / 256) ≠ 5 → (s.block (c.val / 16)).page = some p → (s.block (c.val / 16)).sampling = true →
      let first := ((Tab.get {} (s.block (c.val / 16)).pages p).gens.headD (0, 0)).1
      let k := 64 * p + (n - first)
      let sat : Bool := decide (code = 0x3FF ∧ r = s.topRange c)
      let x := BitVec.ofNat 16 (code.toNat + (if sat then 3 else r) * 1024 + boolNat v.switched * 4096)
      let d := ((cwFixed g.cw).getD 0 &&& ~~~(byteBits (containerBytes k))) ||| BitVec.ofNat 128 (x.toNat * 2 ^ (16 * (k % 8)))
      first ≤ n → n < first + 64 → n ≤ s.lastSample → n < s.writtenEnd (s.block (c.val / 16)) →
      (∀ j, v.lastConv = some j → j < n) → v.staging = some g → g.addr = segAddr c k →
      k % 8 < 7 ∨ g.mask ||| containerBytes k = 0xFFFF →
      ∃ t, exec (.sampleConversion c n code) s = .next t ∧ (t.cell c).switched = false ∧ (t.cell c).lastConv = some n ∧
        (t.cell c).downCount = (if s.cfgF (C.rangeMode c) = 0 ∧ 0 < r ∧ v.switched = false ∧ code.toNat ≤ s.cfgF (C.adcOffset c) + 12
          then v.downCount + 1 else 0) ∧
        (t.cell c).staging = (if k % 8 = 7 then none else some ⟨g.addr, g.mask ||| containerBytes k, encodeCw d⟩) ∧
        (k % 8 = 7 → s.unitRetired 2 (segAddr c k / 256) = false →
          t.raw 2 (segAddr c k) = (match cwFixed (encodeCw d) with | some e => encodeCw e | none => poisonCw)) ∧
        (∀ a, a ≠ segAddr c k ∨ k % 8 < 7 → t.raw 2 a = s.raw 2 a) ∧ Frame (fun x => x = .cell c ∨ x = .mem 2) s t)

/-- Pages of a block's segment memory (R126, R132, R134): when the page is full the next page that no record holds is begun with the next
sample; with none the history ends, a gap begins and SAMPLE_GAP counts. Pages are
numbered along the samples (the model's own numbers, assumption 125). -/
def Obligations.PagesAdvanceOrLeaveAGap : Prop :=
  ∀ (s : State) (b : Fin 128) (n p : Nat), (s.block b).page = some p → (s.block b).sampling = true →
    n = ((Tab.get {} (s.block b).pages p).gens.headD (0, 0)).1 + 64 → n ≤ s.writtenEnd (s.block b) →
    (∀ q, (s.finishPage (s.block b)).nextPage p = some q →
      ∃ t, exec (.pageAdvance b n) s = .next t ∧ (t.block b).page = some q ∧ (t.block b).sampling = true ∧ (t.block b).gap = false ∧
        (Tab.get {} (t.block b).pages q).gens.head? = some (n, 0) ∧ Frame (fun x => x = .block b) s t) ∧
    ((s.finishPage (s.block b)).nextPage p = none →
      ∃ t, exec (.pageAdvance b n) s = .next t ∧ (t.block b).page = none ∧ (t.block b).gap = true ∧
        t.getF (R.sampleGap b) = min (s.getF (R.sampleGap b) + 1) 65535 ∧ (∀ q, q ≠ b.val → t.block q = s.block q))

/-- Triggers from outside a block (R121-R125): a TRIG_IN edge beyond the hold-off takes the next external number and opens that event's
fragment, one within it counts EXT_IGNORED, and one that no region can measure is counted by a running node; a tree trigger whose tick
has passed leaves the queue and opens its event's fragment. Both are offered, in ascending order, to the blocks that enable their source,
with the cells that RECORD_MASK names, and the fragment awaits as many records as the blocks deliver. That the hold-off is measured on full
stamps is the model's choice (log 126), and so is a tree trigger that falls due before the load (log 159); with no judging or nothing due
nothing happens (log 3). -/
def Obligations.ExternalAndTreeTriggersOpenEvents : Prop :=
  (∀ (s : State) (f : BitVec 13), s.measuring ≠ none → s.judging = true → s.slotValid = true →
    (∀ k, s.trig.lastExt = some k → s.cfgF C.extHoldoff * 8192 ≤ s.ticks * 8192 + f.toNat - k) →
    ∃ t, exec (.trigInEdge f) s = .next t ∧ t.trig.lastExt = some (s.ticks * 8192 + f.toNat) ∧
      t.getF R.nextExt = (s.getF R.nextExt + 1) % 2 ^ 32 ∧
      (t.frag (.event 2 (BitVec.ofNat 32 (s.getF R.nextExt)))).isSome = true) ∧
  (∀ (s : State) (f : BitVec 13) (k : Nat), s.measuring ≠ none → s.judging = true → s.trig.lastExt = some k →
    s.ticks * 8192 + f.toNat - k < s.cfgF C.extHoldoff * 8192 → exec (.trigInEdge f) s = .next (s.inc R.extIgnored)) ∧
  (∀ (s : State) (f : BitVec 13), s.measuring = none → s.running = true → s.node.stopping = false →
    exec (.trigInEdge f) s = .next (s.inc R.extIgnored)) ∧
  (∀ (s : State) (x : TreeTrig) (l : List TreeTrig), s.trig.pending = x :: l → s.slotValid = true →
    reached s.time.coarse (stampCoarse x.time + 1) = true →
    ∃ t, exec .treeTriggerDue s = .next t ∧ t.trig.pending = l ∧ (t.frag (.event 1 x.num)).isSome = true) ∧
  (∀ (s : State) (f : BitVec 13), s.measuring ≠ none → s.judging = true →
    (∀ k, s.trig.lastExt = some k → s.cfgF C.extHoldoff * 8192 ≤ s.ticks * 8192 + f.toNat - k) →
    let num := BitVec.ofNat 32 (s.getF R.nextExt)
    let u := ({ s with trig := { s.trig with lastExt := some (s.ticks * 8192 + f.toNat) } }).incWrap R.nextExt 1
    let o := u.offer 2 (.event 2 num) (mkStamp s.time.coarse f) (u.enabledBlocks 2)
    exec (.trigInEdge f) s = .next (o.2.newFrag (.event 2 num) (mkStamp s.time.coarse f) o.1 (o.1 = 0))) ∧
  (∀ (s : State) (x : TreeTrig) (l : List TreeTrig), s.trig.pending = x :: l → reached s.time.coarse (stampCoarse x.time + 1) = true →
    let u := { s with trig := { s.trig with pending := l } }
    let o := u.offer 3 (.event 1 x.num) x.time (u.enabledBlocks 3)
    exec .treeTriggerDue s = .next (o.2.newFrag (.event 1 x.num) x.time o.1 (o.1 = 0))) ∧
  (∀ (s : State) (src : BitVec 3) (key : MergeKey) (tm : BitVec 61) (b : Nat) (cells : BitVec 16) (l : List (Nat × BitVec 16)),
    s.offer src key tm [] = (0, s) ∧
    (let j := s.judge b src cells key tm
     s.offer src key tm ((b, cells) :: l) = ((j.1.getD 0) + (j.2.offer src key tm l).1, (j.2.offer src key tm l).2))) ∧
  (∀ (s : State) (k b : Nat) (cells : BitVec 16), (b, cells) ∈ s.enabledBlocks k ↔
    b < 128 ∧ s.cfgF (C.trigEn b) / 2 ^ k % 2 = 1 ∧ cells = BitVec.ofNat 16 (s.cfgF (C.recordMask b))) ∧
  (∀ (s : State) (f : BitVec 13), s.measuring ≠ none → s.judging = false → exec (.trigInEdge f) s = .next s) ∧
  (∀ s : State, s.trig.pending = [] → exec .treeTriggerDue s = .next s)

/-- The judging of a trigger (R129-R134), in the order of R131: a block that is IDLE or does not record takes no notice; one that is freezing
or in Frost, or waits for pages, counts the loss; a record that would overlap one counts OVERLAP_LOST, in REARM too, and else one in the
re-arm span of another REARM_LOST; with a sample not in memory it is TOO_LATE, one empty record per cell; with PRE cut short by an earlier
record or the history's start it is ignored in RECORD_MODE 2; else it is accepted, in RECORDING only with the pages of R133: RECORDING with its
record from T0 - pre to T0 + POST - 1, counted in TRIG_ACCEPTED, and delivers one record per selected cell. The CELL and BLOCK triggers of a
stop come to this judging as its interpolation is done (R119, R123), those from outside as `ExternalAndTreeTriggersOpenEvents` says. That an
overlap with one record beats the re-arm span of another is the model's choice (log 126); the empty records' place in the output and the time
at which WRAPPED_CNT counts are its readings (logs 32 and 31). -/
def Obligations.TriggersAreJudgedInOrder : Prop :=
  (∀ (s : State) (b : Nat) (src : BitVec 3) (cells : BitVec 16) (key : MergeKey) (tm : BitVec 61), b < 128 →
    let v := s.block b
    let st := s.getF (R.acqState b)
    let mode := s.cfgF (C.recordMode b)
    let t0 := s.sampleAt (stampCoarse tm)
    let last := t0 + s.cfgF (C.post b) - 1
    let upTo := min last (s.lastWritten v)
    let near := v.recs.filter fun r => s.lastSample < r.last + 4096
    let start := match v.runs.find? fun h => h.1 ≤ t0 with | some h => h.1 | none => t0
    let e := (((near.filter fun r => r.last < t0).map fun r => r.last + 1)).foldl max start
    let pre := min (s.cfgF (C.pre b)) (t0 - e)
    let j := s.judge b src cells key tm
    let free : Prop := ∀ r ∈ near, ¬ (t0 ≤ r.last ∧ r.first ≤ last) ∧ ¬ (r.last < t0 ∧ t0 ≤ r.last + 64)
    let there : Prop := s.time.loadSample ≤ t0 ∧ (t0 ≤ upTo → s.allInMemory v t0 upTo = true)
    let accepted : Prop := j.1 = some (bitsOf 16 cells.toNat).length ∧ j.2.getF (R.acqState b) = 2 ∧
      j.2.getF (R.trigAccepted b) = (s.getF (R.trigAccepted b) + 1) % 2 ^ 32 ∧
      (∃ r, (j.2.block b).recs = v.recs ++ [r] ∧ r.t0 = t0 ∧ r.first = t0 - pre ∧ r.last = last ∧ r.key = key ∧ r.cells = cells ∧
        r.src = src ∧ r.preShort = decide (pre < s.cfgF (C.pre b)) ∧ r.complete = false ∧ r.read = false) ∧
      (∀ q, q ≠ b → j.2.block q = s.block q)
    (st = 0 ∨ mode = 0 ∨ mode = 3 → j = (none, s)) ∧
    (mode = 1 ∨ mode = 2 →
      (st = 5 ∨ st = 6 → j = (none, s.inc (R.frostLost b))) ∧
      (st = 4 → j = (none, s.inc (R.pageWaitLost b))) ∧
      (st = 1 ∨ st = 2 ∨ st = 3 →
        (∀ r ∈ near, t0 ≤ r.last → r.first ≤ last → j = (none, s.inc (R.overlapLost b))) ∧
        (∀ r ∈ near, r.last < t0 → t0 ≤ r.last + 64 → (∀ x ∈ near, ¬ (t0 ≤ x.last ∧ x.first ≤ last)) →
          j = (none, s.inc (R.rearmLost b))) ∧
        (free → ¬ there → j.1 = some (bitsOf 16 cells.toNat).length ∧ j.2.getF (R.tooLate b) = min (s.getF (R.tooLate b) + 1) 65535 ∧
          (j.2.block b).recs = v.recs ∧ j.2.getF (R.acqState b) = st ∧
          ∃ us, (j.2.block b).records = v.records ++ us ∧ us.map (·.cell) = (bitsOf 16 cells.toNat).map (16 * b + ·) ∧
            ∀ u ∈ us, u.key = key ∧ u.stamp = tm ∧ u.isRecord = true ∧ u.words.length = 3) ∧
        (free → there → pre < s.cfgF (C.pre b) → mode = 2 → j = (none, s.inc (R.ignoredEarly b))) ∧
        (free → there → mode = 1 ∨ pre = s.cfgF (C.pre b) → (t0 - pre ≤ s.lastWritten v → (s.findSample v (t0 - pre)).isSome = true) →
          (st ≠ 2 → accepted) ∧ (accepted ∨ j = (none, s.inc (R.pageWaitLost b))))))) ∧
  (∀ (s : State) (src : BitVec 3) (b : Nat) (cells : BitVec 16) (tm : BitVec 61),
    let key : MergeKey := .event 3 (BitVec.ofNat 32 (s.getF R.nextSelf))
    let j := s.judge b src cells key tm
    s.selfTrigger src b cells tm = (match j.1 with
      | none => j.2
      | some n => (j.2.incWrap R.nextSelf 1).newFrag key tm n (n = 0))) ∧
  (∀ (s : State) (c : Fin 2048) (h : Hit) (rest : List Hit), (s.cell c).hits = h :: rest → h.stamp = none → s.judging = true →
    let x := inlCorrect (s.inlRead c h.raw).1 h.coarse h.raw
    stampReached x s.time.loadPoint = true → ∃ u : State, exec (.interpolationDone c) s = .next (u.edgeTriggers c x) ∧
      u.block (c / 16) = s.block (c / 16) ∧ u.time = s.time ∧ u.cfg = s.cfg) ∧
  (∀ (s : State) (c : Nat) (tm : BitVec 61), s.cfgF (C.trigEn (c / 16)) % 2 = 1 → s.cfgF (C.recordMask (c / 16)) / 2 ^ (c % 16) % 2 = 1 →
    s.cellTrigger c tm = s.selfTrigger 0 (c / 16) (BitVec.ofNat 16 (2 ^ (c % 16))) tm)

/-- Records (R130, R133, R141): when the last sample of the only record being recorded is written the block rearms, or enters Frost where
it was freezing, and a gap begins behind a record that holds every page (R134; the model's reading, log 142); 64 samples later, or after the acceptance of a
record whose samples were all written by then (log 126), it is ARMED again, or waits for pages. -/
def Obligations.RecordsCompleteAndBlocksRearm : Prop :=
  ∀ (s : State) (b : Fin 128),
    (∀ r : Rec, (s.block b).recs = [r] → r.complete = false → r.last ≤ s.lastSample → s.node.stopping = false →
      (s.getF (R.acqState b) = 2 → r.long = false →
        ∃ t, exec (.recordComplete b) s = .next t ∧ (t.block b).recs = [{ r with complete := true }] ∧ t.getF (R.acqState b) = 3 ∧
          Frame (fun x => x = .block b ∨ x = .reg (0x10000 + 0x40 * b)) s t) ∧
      (s.getF (R.acqState b) = 2 → r.long = true → (s.block b).sampling = true → (s.block b).page ≠ none →
        ∃ t, exec (.recordComplete b) s = .next t ∧ (t.block b).recs = [{ r with complete := true }] ∧ t.getF (R.acqState b) = 3 ∧
          (t.block b).page = none ∧ (t.block b).gap = true ∧ t.getF (R.sampleGap b) = min (s.getF (R.sampleGap b) + 1) 65535) ∧
      (s.getF (R.acqState b) = 5 →
        ∃ t, exec (.recordComplete b) s = .next t ∧ (t.block b).recs = [{ r with complete := true }] ∧ t.getF (R.acqState b) = 6 ∧
          (t.block b).sampling = false ∧ t.getF (R.frostEvent b).flag = 1)) ∧
    (s.getF (R.acqState b) = 3 → ((s.block b).recs.map fun r => max r.last r.accepted).foldl max 0 + 65 ≤ s.lastSample →
      ∃ t, exec (.rearmEnd b) s = .next t ∧
        t.getF (R.acqState b) = (if s.pagesNeeded b ≤ freePages (s.block b) then 1 else 4) ∧
        Frame (fun x => x = .reg (0x10000 + 0x40 * b)) s t)

/-- Reading a record (R125, R132, R135, R137): the oldest complete record not yet read delivers one record per selected cell to the block's
queue, behind those that wait, is marked read, and no page is held by it any more. A record of a cell that was in FULL throughout is a header
of three words (its cell, number of samples, source, PRE_SHORT, WRAPPED, trigger time and first coarse time) and its samples packed four to a
word, oldest first, a poisoned one as 0xE000; of any other cell it is an empty STALE one. With no such record nothing happens (log 3); the block's
queue of records is unbounded (log 32). -/
def Obligations.RecordReadDeliversOnePerCell : Prop :=
  (∀ (s : State) (b : Fin 128) (r : Rec) (l : List Rec), (s.block b).recs = r :: l → r.complete = true → r.read = false →
    ∃ t, exec (.recordRead b) s = .next t ∧
      (∃ us : List Unit', (t.block b).records = (s.block b).records ++ us ∧ us.map (·.cell) = recCells b r ∧
        (∀ u ∈ us, u.key = r.key ∧ u.stamp = r.trigTime ∧ u.isRecord = true) ∧
        (∀ c cs, recCells b r = c :: cs → us.head? = some (s.buildRecord b c r).1.1)) ∧
      (∀ x ∈ (t.block b).recs, x.id = r.id → x.read = true) ∧
      ((∀ x ∈ l, x.id = r.id → x.complete = true) → ∀ p, r.id ∉ (Tab.get {} (t.block b).pages p).holders)) ∧
  (∀ (s : State) (b : Fin 128), (∀ r ∈ (s.block b).recs, r.complete = false ∨ r.read = true) → exec (.recordRead b) s = .next s) ∧
  (∀ (s : State) (b c : Nat) (r : Rec), c < 2048 →
    let first := max r.first (r.last - 4095)
    let n := r.last + 1 - first
    let nominal : Int := (r.t0 : Int) - s.cfgF (C.pre b)
    let q := State.readRecord n s r.points c first 0 n ((first : Int) - nominal).toNat {}
    let ws := (s.buildRecord b c r).1.1.words
    ((s.cell c).allFull first r.last = true →
      ws.length = 3 + (n + 3) / 4 ∧
      (ws[0]?.map fun p => (wget p.w 60 4, wget p.w 49 11, wget p.w 36 13, wget p.w 16 3, wget p.w 15 1, wget p.w 14 1)) =
        some (5, c, n, r.src.toNat, boolNat r.preShort, boolNat r.long) ∧
      (ws[1]?.map fun p => p.w.toNat) = some r.trigTime.toNat ∧
      (ws[2]?.map fun p => wget p.w 0 48) = some (s.sampleTick first).toNat ∧
      ws.drop 3 = (packContainers ((n + 3) / 4) q.1.data.reverse).map pw) ∧
    ((s.cell c).allFull first r.last = false → ws.length = 3 ∧
      (ws[0]?.map fun p => (wget p.w 60 4, wget p.w 49 11, wget p.w 36 13, wget p.w 12 1)) = some (5, c, 0, 1))) ∧
  (∀ (s : State) (old : List (Nat × Nat × Nat)) (k c sample i n off : Nat) (q : RecSum),
    let x := s.readSample c ((sample + i : Nat) : Int)
    let m := x.2.readMask old (c / 16) (off + i) x.1
    ((State.readRecord (k + 1) s old c sample i n off q).1.data =
      (State.readRecord k m.2 old c sample (i + 1) n off { q with data := x.1.getD 0xE000 :: q.data }).1.data))

/-- The arbiters of a block and a region (R30, R194): of the waiting heads the oldest goes first, by its stamp and, of equal stamps, by its
cell; a block moves it, a word or a whole record, to its output; the region moves the oldest of its blocks' outputs to the region's FIFO of
512 words, as far as there is room, or drops and counts it where its fragment has closed; the rest of one that did not fit follows as room
comes. With a full output or FIFO nothing moves (log 3). -/
def Obligations.ArbitersMoveTheOldestHead : Prop :=
  let older := fun x y : BitVec 61 × Nat => olderHead x y = true ∧ olderHead y x = false
  (∀ x y : BitVec 61 × Nat, olderHead x y = (if x.1 = y.1 then decide (x.2 ≤ y.2) else decide ((y.1 - x.1).toNat < 2 ^ 60))) ∧
  (∀ (s : State) (b : Fin 128) (i : Fin 16) (w : HitWord) (l : List HitWord), (s.block b).head = none →
    (s.cell (16 * b + i)).derand = w :: l →
    (∀ k, k < 16 → k ≠ i.val → ∀ x ∈ (s.cell (16 * b + k)).derand.head?, older (w.stamp, 16 * b + i) (x.stamp, 16 * b + k)) →
    (∀ u ∈ (s.block b).records, older (w.stamp, 16 * b + i) (u.stamp, u.cell)) →
    ∃ t, exec (.blockGrant b) s = .next t ∧ (t.block b).head = some ⟨w.key, w.stamp, 16 * b + i, [pw w.word], false⟩ ∧
      (t.block b).records = (s.block b).records ∧
      (t.cell (16 * b + i)).derand = l ∧ Frame (fun x => x = .free ∨ x = .block b ∨ x = .cell (16 * b + i)) s t) ∧
  (∀ (s : State) (b : Fin 128) (u : Unit'), (s.block b).head = none → u ∈ (s.block b).records →
    (∀ x ∈ (s.block b).records, x ≠ u → older (u.stamp, u.cell) (x.stamp, x.cell)) →
    (∀ k, k < 16 → ∀ x ∈ (s.cell (16 * b + k)).derand.head?, older (u.stamp, u.cell) (x.stamp, 16 * b + k)) →
    ∃ t, exec (.blockGrant b) s = .next t ∧ (t.block b).head = some u ∧ (t.block b).records = (s.block b).records.erase u ∧
      Frame (fun x => x = .free ∨ x = .block b) s t) ∧
  (∀ (s : State) (b : Fin 128), (s.block b).head ≠ none → exec (.blockGrant b) s = .next s) ∧
  (∀ (s : State) (r : Fin 8) (i : Fin 16) (u : Unit'), (s.block (16 * r + i)).head = some u →
    (∀ k, k < 16 → k ≠ i.val → ∀ x ∈ (s.block (16 * r + k)).head, older (u.stamp, u.cell) (x.stamp, x.cell)) →
    s.regionWords r < 512 → Tab.get 0 s.pool.regMore r = 0 →
    (s.fragShut u.key = false →
      ∃ t, exec (.regionGrant r) s = .next t ∧ Tab.get [] t.pool.regFifo r = Tab.get [] s.pool.regFifo r ++ [u] ∧
        Tab.get 0 t.pool.regMore r = u.words.length - (512 - s.regionWords r) ∧
        (t.block (16 * r + i)).head = (if u.words.length ≤ 512 - s.regionWords r then none else some u) ∧
        Frame (fun x => x = .pool ∨ x = .block (16 * r + i)) s t) ∧
    (s.fragShut u.key = true →
      ∃ t, exec (.regionGrant r) s = .next t ∧ (t.block (16 * r + i)).head = none ∧ t.pool = s.pool ∧
        t.getF R.hitAfterClose = min (s.getF R.hitAfterClose + 1) 65535)) ∧
  (∀ (s : State) (r : Fin 8) (u : Unit'), s.regionWords r < 512 → Tab.get 0 s.pool.regMore r ≠ 0 →
    (Tab.get [] s.pool.regFifo r).getLast? = some u →
    ∃ t, exec (.regionGrant r) s = .next t ∧ Tab.get [] t.pool.regFifo r = Tab.get [] s.pool.regFifo r ∧
      Tab.get 0 t.pool.regMore r = Tab.get 0 s.pool.regMore r - (512 - s.regionWords r) ∧
      Frame (fun x => x = .pool ∨ x = .block (u.cell / 16)) s t) ∧
  (∀ (s : State) (r : Fin 8), 512 ≤ s.regionWords r → exec (.regionGrant r) s = .next s)

/-- The checks that R386 makes of every command with one argument size, in their order: LENGTH below that size or above 248 is answered
with STATUS 5, and then a node state that R389's tables do not list with STATUS 2; either way nothing else is done
(for the image commands, which check more before the state, see assumption 145). -/
def Obligations.CommandsCheckLengthThenState : Prop :=
  ∀ x ∈ commandRows, ∀ (s : State) (m : Msg), s.fw.cur = some m → m.opcode = x.2.1 →
    (m.length < x.2.2.1 ∨ 248 < m.length → exec x.1 s = .next (s.begun.answer m 5 [])) ∧
    (x.2.2.1 ≤ m.length → m.length ≤ 248 → s.node.state ∉ x.2.2.2 → exec x.1 s = .next (s.begun.answer m 2 []))

/-- What an answer does (R362, R376, R383, R385): the mailbox is EMPTY and its POST and ABORT bits are clear; a QUIET message that succeeds
sends nothing; a reply to the host rings the mailbox's OUT_DOORBELL at the root, one to this node's own firmware reaches it or, of an earlier
INCARNATION, counts as stale, and an answer changes no more than the reply and the completion do. -/
def Obligations.AnswerCompletesTheMessage : Prop :=
  ∀ (s : State) (m : Msg) (status : Nat) (payload : List Byte), m.mbox < 16 →
    let t := s.answer m status payload
    t.getF (R.mboxState m.mbox) = 0 ∧ m.mbox ∉ t.mbox.order ∧ t.mbox.inDoorbell.getLsbD m.mbox = false ∧
    t.mbox.inDoorbell.getLsbD (16 + m.mbox) = false ∧ Tab.get none t.mbox.arrival m.mbox = none ∧
    (m.quiet = true → status = 0 → t = s.complete m.mbox) ∧
    (m.quiet = false ∨ status ≠ 0 → s.isRoot = true → stampClass m.stamp = 1 → t.mbox.outDoorbell.getLsbD m.mbox = true) ∧
    (m.quiet = false ∨ status ≠ 0 → stampClass m.stamp = 5 → fget m.stamp 16 12 = s.node.nodeId.toNat →
      (fget m.stamp 4 8 = s.node.incarnation.toNat → t.fw.reply = some (replyBytes m.opcode.toNat m.tag.toNat status payload)) ∧
      (fget m.stamp 4 8 ≠ s.node.incarnation.toNat → t.fw = s.fw ∧ t.getF R.replyStale = min (s.getF R.replyStale + 1) 65535)) ∧
    Frame (answerParts m.mbox) s t

/-- The node group (R392-R395, R400, R412): each command that passes its checks answers OK and has its effect; NODE_RESET answers before
it acts. A FIRST or COUNT beyond the scope clears some units of it (R18): which, is free (assumption 12);
STAGED_BYTES counts as assumption 93 says. -/
def Obligations.NodeCommandsAnswerAndAct : Prop :=
  (∀ (s : State) (m : Msg), Taken s 0x100 0 statesLUCRS m → exec .nodeIdentify s = .next (s.begun.answer m 0 s.begun.identity)) ∧
  (∀ (s : State) (m : Msg), Taken s 0x101 1 statesLUCRS m →
    (m.byte 0 = 0 → ∃ t, exec .nodeReset s = .next t ∧ t.fw.restart = some 3 ∧ t.node.state = s.node.state ∧
      t.getF (R.mboxState m.mbox) = 0) ∧
    (m.byte 0 = 1 → ∃ t, exec .nodeReset s = .next t ∧ t.node.state = .boot ∧ t.node.bootCause = 2 ∧
      t.node.incarnation = s.node.incarnation + 1 ∧ (∀ k, t.record k = cfgDefault k) ∧ t.pool = {} ∧
      t.fw.patchInForce = s.fw.patchInForce ∧ t.prot.pages = s.prot.pages ∧ t.prot.banks = s.prot.banks) ∧
    (1 < m.byte 0 → exec .nodeReset s = .next (s.begun.answer m 4 []))) ∧
  (∀ (s : State) (m : Msg), Taken s 0x102 6 statesLUCRS m →
    (m.byte 0 = 0 → exec .counterClear s = .next ((s.begun.clearCountersAt counterWords).answer m 0 [])) ∧
    (5 < m.byte 0 → exec .counterClear s = .next (s.begun.answer m 4 [])) ∧
    (0 < m.byte 0 → m.byte 0 ≤ 5 → ∃ first count : Nat, 0 < count ∧ first + count ≤ scopeUnits (m.byte 0) ∧
      (m.field 2 2 < scopeUnits (m.byte 0) → first = m.field 2 2 ∧
        (0 < m.field 4 2 → first + m.field 4 2 ≤ scopeUnits (m.byte 0) → count = m.field 4 2)) ∧
      exec .counterClear s = .next (((s.begun.skip 2).clearCountersAt
        ((List.range count).flatMap fun i => scopeWords (m.byte 0) (first + i))).answer m 0 []))) ∧
  (∀ (s : State) (m : Msg), Taken s 0x202 0 statesLUCRS m → s.fw.staged = none → s.fw.cfg = none →
    exec .cfgQuery s = .next (s.begun.answer m 0 (leBytes 4 s.generation ++ leBytes 4 (if s.commitOk then s.triBits 0 40 32 else 0) ++
      leBytes 4 0 ++ leBytes 1 0 ++ leBytes 3 0 ++ leBytes 4 0))) ∧
  (∀ (s : State) (m : Msg), Taken s 0xA02 0 statesLUCRS m → s.fw.stagedPatch = none → s.fw.patch = none →
    exec .patchStatus s = .next (s.begun.answer m 0 (leBytes 4 s.patchId ++ leBytes 4 0 ++ leBytes 1 0 ++ leBytes 7 0)))

/-- Clearing counters (R392, R486): in a word that is cleared every counter that the chapter lets be cleared takes its reset value, every
other bit stays, and the words that are not named stay. -/
def Obligations.ClearedCountersTakeResetValues : Prop :=
  ∀ (s : State) (l : List Nat) (o : Nat),
    ((s.clearCountersAt l).word o) &&& ~~~(counterMask o) = s.word o &&& ~~~(counterMask o) ∧
    (o ∈ l → (s.clearCountersAt l).word o &&& counterMask o = regReset o &&& counterMask o) ∧
    (o ∉ l → (s.clearCountersAt l).word o = s.word o)

/-- The register reads and flag clears of every group (R16, R390, R391): an aligned range of 1 to 62 words within the group's pages is read
word by word, each read clearing the RC bits; a clear writes the mask to the W1C bits of the word that holds OFFSET (the model's reading of an
OFFSET inside a word, assumption 177) and answers with what it then reads; an OFFSET outside the pages, or a range that leaves them, is REFUSED. Within the pages, an OFFSET of a read that is not aligned
and a COUNT that is not 1 to 62 stand for free ones (R18; assumption 12). -/
def Obligations.RegisterGroupsReadAndClear : Prop :=
  ∀ (s : State) (m : Msg), s.node.state ∈ statesLUCRS → s.fw.cur = some m → 8 ≤ m.length → m.length ≤ 248 →
    ∃ off n : Nat, off % 4 = 0 ∧ 0 < n ∧ n ≤ 62 ∧ (m.field 0 4 % 4 = 0 → off = m.field 0 4) ∧
    (0 < m.field 4 4 → m.field 4 4 ≤ 62 → n = m.field 4 4) ∧
    let at' := m.field 0 4 / 4 * 4
    let read (g : Nat) : Res :=
      let r := State.readRegs n (s.begun.skip 2) off
      if (∀ i, i < max (m.field 4 4) 1 → groupHas g (at' + 4 * i) = true) ∧ ∀ i, i < n → groupHas g (off + 4 * i) = true then
        .next (r.2.answer m 0 (r.1.flatMap fun w => leBytes 4 w.toNat))
      else .next ((s.begun.skip 2).answer m 4 [])
    let clear (g : Nat) : Res :=
      let u := s.begun.clearFlags at' (BitVec.ofNat 32 (m.field 4 4))
      if groupHas g at' then .next ((u.readClear at').answer m 0 (leBytes 4 (u.readWord at').toNat))
      else .next (s.begun.answer m 4 [])
    ((m.opcode = 0x1F0 → exec .nodeRegRead s = read 1) ∧ (m.opcode = 0x3F0 → exec .acqRegRead s = read 3) ∧
      (m.opcode = 0x4F0 → exec .tbRegRead s = read 4) ∧ (m.opcode = 0x5F0 → exec .dirRegRead s = read 5) ∧
      (m.opcode = 0x6F0 → exec .linkRegRead s = read 6) ∧ (m.opcode = 0x7F0 → exec .memRegRead s = read 7) ∧
      (m.opcode = 0x8F0 → exec .hkRegRead s = read 8) ∧ (m.opcode = 0x9F0 → exec .testRegRead s = read 9)) ∧
    (m.opcode = 0x1F1 → exec .nodeRegClear s = clear 1) ∧ (m.opcode = 0x3F1 → exec .acqRegClear s = clear 3) ∧
    (m.opcode = 0x4F1 → exec .tbRegClear s = clear 4) ∧ (m.opcode = 0x5F1 → exec .dirRegClear s = clear 5) ∧
    (m.opcode = 0x6F1 → exec .linkRegClear s = clear 6) ∧ (m.opcode = 0x7F1 → exec .memRegClear s = clear 7) ∧
    (m.opcode = 0x8F1 → exec .hkRegClear s = clear 8) ∧ (m.opcode = 0x9F1 → exec .testRegClear s = clear 9)

/-- Image transfers, the commit and the patch (R226, R396-R401, R412, R413, R475). An inline FIRST chunk opens the transfer of its sender and,
where its stream decodes so far, waits for more. The LAST chunk of a stream that decodes to a good image ends the transfer: a configuration
image or a patch is staged, directory images are in the shadow and their ranges recorded, and the reply is OK. A wrong OFFSET fails the
transfer; later chunks with FIRST = 0 are REFUSED, or dropped where QUIET; another sender's transfer makes one BUSY. The host's form opens
the transfer and reads the buffer, at the root for a host alone; elsewhere it is REFUSED. A commit of a staged image that passes every
check leaves the node CONFIGURED under the image's record, with the image's fields where each lies in its range (R18). CFG_DISCARD releases
what is staged, with the transfer of any sender (assumption 95). The order of the checks, a QUIET chunk of a failed transfer, CTL[7:3] and the
staging of a patch are the model's readings (assumptions 145, 92, 91 and 93). PATCH_APPLY of an authentic staged patch answers and restarts firmware. -/
def Obligations.ImagesAreStagedCommittedAndDiscarded : Prop :=
  (∀ (s : State) (m : Msg) (x : BitVec 16 × List NodeState × Instr),
    x ∈ [(0x200, statesUC, .cfgData), (0xA00, statesUS, .patchData), (0x501, statesCR, .dirImage)] → s.fw.cur = some m → m.mbox < 16 →
    m.opcode = x.1 → m.byte 0 < 8 → m.args.length = m.length → m.length ≤ 248 →
    let k := imageKind x.1
    let s1 := s.begun.drawn
    let ready := s.node.state ∈ x.2.1 ∧ (x.1 = 0x501 → s.getF R.shadowState = 1)
    (m.hostForm = false → 16 + m.bytesField ≤ m.length → 0 < m.bytesField → m.bytesField ≤ 224 →
      let data := bytesAt m.args 16 m.bytesField
      let d := decodeStream true (data.map fun b => (b, false))
      (m.isFirst = true → m.isLast = false → m.addrField = 0 → ready → s.heldByOther k m = false →
        streamBad d false = false → d.out.length < 8 →
        ∃ t, exec x.2.2 s = .next t ∧ (t.xfer k).map (·.owner) = some m.stamp ∧ (t.xfer k).map (·.stream) = some data ∧
          t.getF (R.mboxState m.mbox) = 0) ∧
      (∀ y : Xfer, m.isLast = true → m.addrField = y.stream.length → ready →
        (if m.isFirst then y = { owner := m.stamp, fromUnconfigured := s.node.state = .unconfigured } ∧ s.heldByOther k m = false
          else s.xfer k = some y ∧ sameSender y.owner m.stamp = true) →
        let whole := decodeStream true ((y.stream ++ data).map fun b => (b, false))
        let out := whole.out.map Prod.fst
        let s2 := if m.isFirst then s1.openXfer k m else s1
        streamBad whole true = false → s.imageBad k y.fromUnconfigured true out = false →
        (x.1 = 0xA00 → ∃ t, exec x.2.2 s = .next t ∧ t.fw.patch = none ∧ t.fw.stagedPatch = some out ∧
          t.getF (R.mboxState m.mbox) = 0) ∧
        (x.1 = 0x200 → (((section7Images out).map Prod.fst).getD {}).odd = false →
          ∃ t, exec x.2.2 s = .next t ∧ t.fw.cfg = none ∧ t.fw.staged = some out ∧ t.getF (R.mboxState m.mbox) = 0 ∧
            (y.fromUnconfigured = true →
              t.mem 1 = (s2.writeEntries false y.taken (((section7Images out).map Prod.fst).getD {}).entries).mem 1)) ∧
        (x.1 = 0x501 →
          let scan := scanBytes (s.cfgF C.dirSlotCount * 2048) out
          let s3 := s2.writeEntries s.shadowB y.taken scan.entries
          let s4 : State := { s3 with dir := { s3.dir with good := s3.dir.good ++ scan.good.drop y.images } }
          scan.odd = false →
          exec x.2.2 s = .next ((s4.setXfer .dir none).answer m 0
            (leBytes 4 scan.good.length ++ leBytes 4 scan.entries.length ++ leBytes 2 s4.pagesRecorded ++ leBytes 6 0)))) ∧
      (∀ y, m.isFirst = false → s.xfer k = some y → sameSender y.owner m.stamp = true → m.addrField ≠ y.stream.length →
        ∃ t, exec x.2.2 s = .next t ∧ t.xfer k = none ∧ t.hasFailed m = true ∧ t.getF (R.mboxState m.mbox) = 0) ∧
      (m.isFirst = false → ready → s.xfer k = none →
        exec x.2.2 s = .next (if m.quiet = true ∧ s.hasFailed m = true then s1.complete m.mbox else s1.answer m 4 [])) ∧
      (m.isFirst = false → ready → s.heldByOther k m = true → exec x.2.2 s = .next (s1.answer m 1 []))) ∧
    (m.hostForm = true → 16 ≤ m.length → 0 < m.bytesField → ready → s.heldByOther k m = false →
      (s.isRoot = true → stampClass m.stamp = 1 → m.isFirst = true →
        let n := min (min m.bytesField s.maxReadRequest) (4096 - m.addrField % 4096)
        ∃ t reqs, exec x.2.2 s = .next t ∧ (t.xfer k).map (·.owner) = some m.stamp ∧
          (m, FwWait.hostRead 0 [] ((n, s.ticks) :: reqs)) ∈ t.fw.waits ∧ Out.hostRead m.addrField n ∈ t.out ∧
          t.getF (R.mboxState m.mbox) = s.getF (R.mboxState m.mbox)) ∧
      (¬ (s.isRoot = true ∧ stampClass m.stamp = 1) → exec x.2.2 s = .next (s1.answer m 4 [])))) ∧
  (∀ (s : State) (m : Msg) (b : List Byte), Taken s 0x201 8 statesUC m → s.fw.cfg = none → s.fw.staged = some b →
    m.field 4 4 = (crc32c b).toNat → imageFault b = none →
    ∃ t, exec .cfgCommit s = .next t ∧ t.node.state = .configured ∧ t.fw.staged = none ∧ t.generation = m.field 0 4 ∧
      t.commitOk = true ∧ t.getF (R.mboxState m.mbox) = 0 ∧
      ((s.begun.loadFields b).fieldsOk = true → ∀ k, t.record k = (s.begun.loadFields b).record k)) ∧
  (∀ (s : State) (m : Msg), Taken s 0x203 0 statesUC m →
    exec .cfgDiscard s = .next ((({ s with fw := { s.fw with cur := none, cfg := none, staged := none } } : State)).answer m 0 [])) ∧
  (∀ (s : State) (m : Msg) (p : List Byte), Taken s 0xA01 8 statesUS m → s.fw.stagedPatch = some p → Config.patchStepping p = 0xB0 →
    m.field 0 4 = (Config.patchId p).toNat → m.field 4 4 = (Config.patchCrc p).toNat → Config.patchAuthentic p = true →
    ∃ t, exec .patchApply s = .next t ∧ t.fw.restart = some 5 ∧ t.fw.stagedPatch = some p ∧ t.getF (R.mboxState m.mbox) = 0)

/-- The acquisition commands (R102, R122, R142, R147, R402-R404): a start from CONFIGURED with every configured region LOCKED is RUNNING with
numbers from 0; a stop waits for the next sample boundary; the end of a stop is CONFIGURED; a thaw of the blocks that are in Frost and new
cell values wait for the boundary, the values answered at once and set for a free range of cells where the range named leaves the cells
(assumptions 12 and 112); a mask is written at points counted modulo 256 while the block is IDLE or in Frost, REFUSED else, and records accepted
before keep the points they were accepted with; a trigger is taken and forwarded with its number and time. A stop with records still to
deliver, an open window or firmware stopped does not end (the model's readings, assumptions 3 and 34); nor is ACQ_TRIGGER tested against the
triggers seen before (assumption 35). -/
def Obligations.AcquisitionCommandsActOrWait : Prop :=
  (∀ (s : State) (m : Msg), Taken s 0x300 0 [.configured] m → s.role ≠ 3 →
    (∀ r, r < 8 → s.regionConfigured r = true → s.regionState r = 2) →
    ∃ t, exec .acqStart s = .next t ∧ t.node.state = .running ∧ t.node.stopping = false ∧ t.getF R.epochLoaded = 0 ∧
      t.getF R.nextSelf = 0 ∧ t.getF R.nextExt = 0 ∧ t.time.nextStart = 0 ∧ t.time.starts = s.time.starts + 1 ∧
      t.time.window = none ∧ t.getF (R.mboxState m.mbox) = 0) ∧
  (∀ (s : State) (m : Msg), Taken s 0x301 0 [.running] m → s.node.stopping = false → .stop ∉ s.node.acts →
    exec .acqStop s = .next { s with node := { s.node with acts := s.node.acts ++ [.stop] },
                                     fw := { s.fw with cur := none, waits := s.fw.waits ++ [(m, .acqStop)] } }) ∧
  (∀ s : State, s.acqDrained = true → s.windowShut = true → s.fwRuns = true → s.running = true →
    ∃ t, exec .acqStopComplete s = .next t ∧ t.node.state = .configured ∧ t.node.stopping = false ∧
      (∀ m, (s.fw.waits.find? fun e => e.2 = .acqStop) = some (m, .acqStop) → m.mbox < 16 → t.getF (R.mboxState m.mbox) = 0)) ∧
  (∀ (s : State) (m : Msg), Taken s 0x302 16 statesCR m →
    let named := (bitsOf 128 (m.field 0 16)).filter fun b => s.getF (R.acqState b) = 6
    exec .acqThaw s = .next { s with
      node := { s.node with acts := s.node.acts ++ [.thaw (BitVec.ofNat 128 (named.foldl (fun a b => a + 2 ^ b) 0))] },
      fw := { s.fw with cur := none, waits := s.fw.waits ++ [(m, .thaw)] } }) ∧
  (∀ (s : State) (m : Msg), Taken s 0x303 16 statesCR m → ∃ first count : Nat, 0 < count ∧ first + count ≤ 2048 ∧
    (m.field 0 2 ≤ 2047 → first = m.field 0 2 ∧ (0 < m.field 2 2 → first + m.field 2 2 ≤ 2048 → count = m.field 2 2)) ∧
    ∃ t, exec .acqCellSet s = .next t ∧ t.node.acts = s.node.acts ++ [.cellSet first count
      (BitVec.ofNat 8 (m.byte 4 % 16)) (m.field 6 2 % 1024) (m.byte 8 % 16) (m.byte 9 % 2) (m.byte 10 % 4)] ∧
      t.getF (R.mboxState m.mbox) = 0) ∧
  (∀ s : State, s.acqDrained = false ∨ s.windowShut = false ∨ s.fwRuns = false → exec .acqStopComplete s = .next s) ∧
  (∀ (s : State) (m : Msg), s.fw.cur = some m → m.mbox < 16 → m.opcode = 0x304 → s.node.state ∈ statesCR → 8 + 8 * m.byte 3 ≤ m.length →
    m.length ≤ 248 → m.field 0 2 ≤ 127 → 0 < m.byte 3 → m.byte 3 ≤ 30 →
    let b := m.field 0 2
    let point (k : Nat) : Nat := (m.byte 2 + k) % 256
    let lower (k : Nat) : Nat := nget (m.field (8 + 8 * k) 8) 0 18
    let upper (k : Nat) : Nat := nget (m.field (8 + 8 * k) 8) 32 18
    (s.getF (R.acqState b) ≠ 0 → s.getF (R.acqState b) ≠ 6 → exec .acqMaskWrite s = .next ((s.begun.skip 32).answer m 4 [])) ∧
    (s.getF (R.acqState b) = 0 ∨ s.getF (R.acqState b) = 6 → (∀ k, k < m.byte 3 → signed 18 (lower k) ≤ signed 18 (upper k)) →
      ∃ t, exec .acqMaskWrite s = .next t ∧ t.getF (R.mboxState m.mbox) = 0 ∧
        (∀ k, k < m.byte 3 → t.cfgF (C.maskLower b (point k)) = lower k ∧ t.cfgF (C.maskUpper b (point k)) = upper k) ∧
        (∀ i, i < 256 → (∀ k, k < m.byte 3 → i ≠ point k) →
          t.cfgF (C.maskLower b i) = s.cfgF (C.maskLower b i) ∧ t.cfgF (C.maskUpper b i) = s.cfgF (C.maskUpper b i)) ∧
        (∀ k, k ≠ 512 + b → t.record k = s.record k) ∧
        (∀ r ∈ (s.block b).recs, r.read = false → ∃ ps, { r with points := ps } ∈ (t.block b).recs ∧ (∀ e ∈ r.points, e ∈ ps) ∧
          ∀ k, k < m.byte 3 → (∀ e ∈ r.points, e.1 ≠ point k) →
            (point k, s.cfgF (C.maskLower b (point k)), s.cfgF (C.maskUpper b (point k))) ∈ ps))) ∧
  (∀ (s : State) (m : Msg), Taken s 0x305 16 [.running] m → s.node.stopping = false → s.trig.pending.length < 16 →
    let num := BitVec.ofNat 32 (m.field 0 4)
    let time := BitVec.ofNat 61 (m.field 8 8)
    ∃ t, exec .acqTrigger s = .next t ∧ t.trig.pending = s.trig.pending ++ [⟨num, time⟩] ∧
      (∀ p ∈ s.southUp, CtlMsg.of 0x10 0xFFF (s.portStamp p) [BitVec.ofNat 64 num.toNat, BitVec.ofNat 64 time.toNat] ∈
        (t.port p).ctlQueue) ∧ t.getF (R.mboxState m.mbox) = 0)

/-- The timebase and calibration commands (R53, R76-R79, R405): FAILED regions that are named acquire again, the others stay; calibration
restarts for a range of cells, which are then not converged (assumption 113); a table is read as it stands in force and written into the
other copy, which takes its place. A cell number or count out of range stands for a free one (R18; assumptions 12 and 112). The
region's coarse copy then is the voted time (assumption 19), and where a table's words lie is open (assumption 84). -/
def Obligations.TimebaseAndCalibrationCommandsAct : Prop :=
  (∀ (s : State) (m : Msg), Taken s 0x400 1 statesCR m →
    ∃ t, exec .tbRestart s = .next t ∧ (∀ r, r < 8 → s.regionState r = 5 → m.byte 0 / 2 ^ r % 2 = 1 → t.regionState r = 1) ∧
      (∀ r, r < 8 → s.regionState r ≠ 5 ∨ m.byte 0 / 2 ^ r % 2 = 0 → t.regionState r = s.regionState r) ∧
      t.getF (R.mboxState m.mbox) = 0) ∧
  (∀ (s : State) (m : Msg), Taken s 0x401 4 statesCR m → ∃ first count : Nat, 0 < count ∧ first + count ≤ 2048 ∧
    (m.field 0 2 ≤ 2047 → first = m.field 0 2 ∧ (0 < m.field 2 2 → first + m.field 2 2 ≤ 2048 → count = m.field 2 2)) ∧
    ∃ t, exec .calRestart s = .next t ∧
      (∀ c, first ≤ c → c < first + count → (t.cell c).calTotal = 0 ∧ (t.cell c).calSeg = [] ∧ (t.cell c).rejectRun = 0 ∧
        t.getF (R.calUpdates c) = 0 ∧ t.getF (R.calSuspect c) = 0 ∧ t.getF (R.calConverged c) = 0 ∧
        (t.cell c).table = (s.cell c).table) ∧
      (∀ c, c < first ∨ first + count ≤ c → t.cell c = s.cell c)) ∧
  (∀ (s : State) (m : Msg), Taken s 0x402 2 statesCR m → ∃ c : Nat, c ≤ 2047 ∧ (m.field 0 2 ≤ 2047 → c = m.field 0 2) ∧
    let read := (s.begun.skip 1).inlTable c
    exec .calTableRead s = .next (read.2.answer m 0 (leBytes 8 read.1.2 ++ (List.range 64).flatMap fun i =>
      leBytes 2 (unsigned 16 (Tab.get 0 read.1.1 i)))) ∧
    ((s.mem 5).cells = [] → read = (((s.cell c).table, 0), s.begun.skip 1))) ∧
  (∀ (s : State) (m : Msg), Taken s 0x403 136 statesCR m → ∃ c : Nat, c ≤ 2047 ∧ (m.field 0 2 ≤ 2047 → c = m.field 0 2) ∧
    ∃ t, exec .calTableWrite s = .next t ∧ (t.cell c).activeB = !(s.cell c).activeB ∧ Tab.get 0 (t.cell c).table 0 = 0 ∧
      (∀ i, 0 < i → i < 64 → Tab.get 0 (t.cell c).table i = signed 16 (m.field (8 + 2 * i) 2)) ∧
      (∀ d, d ≠ c → t.cell d = s.cell d) ∧ t.getF (R.mboxState m.mbox) = 0)

/-- The directory commands (R225-R231, R406): building begins unless a swap is pending, and is REFUSED else; it ends COMPLETE where every
covered page is written and EMPTY else; a swap of a COMPLETE shadow is accepted for a frame ahead, REFUSED else, and, once its frame and the
wait of R230 are over, the banks exchange roles and the record of pages is empty (assumption 162), before which nothing changes (assumption
3); single entries are written in the banks named, none, one or both, and noted while the partner copies the active bank; entries are read
from the bank named, as they stand where their code words read undamaged. Each code word is read once, and reserved bits are ignored (the
model's readings, assumptions 85 and 111). -/
def Obligations.DirectoryCommandsBuildSwapAndAccess : Prop :=
  (∀ (s : State) (m : Msg), Taken s 0x500 0 statesCR m → s.getF R.swapPending = 0 →
    ∃ t, exec .dirShadowBegin s = .next t ∧ t.getF R.shadowState = 1 ∧ t.dir.good = [] ∧ t.getF R.dirActive = s.getF R.dirActive ∧
      t.getF (R.mboxState m.mbox) = 0) ∧
  (∀ (s : State) (m : Msg), Taken s 0x500 0 statesCR m → s.getF R.swapPending = 1 →
    exec .dirShadowBegin s = .next (s.begun.answer m 4 [])) ∧
  (∀ (s : State) (m : Msg), Taken s 0x502 0 statesCR m → s.getF R.shadowState ≠ 1 →
    exec .dirShadowEnd s = .next (s.begun.answer m 2 [])) ∧
  (∀ (s : State) (m : Msg), Taken s 0x503 4 statesCR m →
    s.getF R.shadowState ≠ 2 ∨ s.getF R.swapPending = 1 ∨ BitVec.ofNat 32 (m.field 0 4) = frameOf s.time.coarse ∨
      2 ^ 31 ≤ (BitVec.ofNat 32 (m.field 0 4) - frameOf s.time.coarse).toNat →
    exec .dirSwap s = .next (s.begun.answer m 4 [])) ∧
  (∀ s : State, s.getF R.swapPending = 0 ∨ reached s.time.coarse s.swapTick = false → exec .dirSwapComplete s = .next s) ∧
  (∀ (s : State) (m : Msg), Taken s 0x504 16 statesCR m → m.byte 4 % 4 = 0 → exec .dirWrite s = .next (s.begun.answer m 0 [])) ∧
  (∀ (s : State) (m : Msg), Taken s 0x504 16 statesCR m → m.byte 4 % 4 = 3 → s.dir.copying = false → s.getF R.swapPending = 0 →
    let i := m.field 0 4 % 2 ^ 21
    let w := BitVec.ofNat 64 (m.field 8 8)
    exec .dirWrite s = .next (((s.begun.writeEntry (!s.shadowB) i w).writeEntry s.shadowB i w).answer m 0 [])) ∧
  (∀ (s : State) (m : Msg), Taken s 0x505 8 statesCR m → m.field 0 4 < 2 ^ 21 → m.byte 4 ≤ 1 → 0 < m.byte 5 → m.byte 5 ≤ 30 →
    m.field 0 4 + m.byte 5 ≤ 2 ^ 21 →
    let cw (k : Nat) : Nat := dirAddr (m.byte 4 = 1) (m.field 0 4 + k)
    (∀ k, k < m.byte 5 → s.soundCw 1 (cw k)) →
    exec .dirEntryRead s = .next ((s.begun.skip 3).answer m 0 (leBytes 8 0 ++ (List.range (m.byte 5)).flatMap fun k =>
      leBytes 8 ((cwData (s.raw 1 (cw k))).toNat / 2 ^ (64 * ((m.field 0 4 + k) % 2)) % 2 ^ 64)))) ∧
  (∀ (s : State) (m : Msg), Taken s 0x502 0 statesCR m → s.getF R.shadowState = 1 →
    ∃ t, exec .dirShadowEnd s = .next t ∧
      t.getF R.shadowState = (if s.pagesRecorded = s.cfgF C.dirSlotCount * 4 then 2 else 0) ∧ t.getF (R.mboxState m.mbox) = 0) ∧
  (∀ (s : State) (m : Msg), Taken s 0x503 4 statesCR m → s.getF R.shadowState = 2 → s.getF R.swapPending = 0 →
    BitVec.ofNat 32 (m.field 0 4) ≠ frameOf s.time.coarse → (BitVec.ofNat 32 (m.field 0 4) - frameOf s.time.coarse).toNat < 2 ^ 31 →
    ∃ t, exec .dirSwap s = .next t ∧ t.getF R.swapPending = 1 ∧ t.getF R.swapFrame = m.field 0 4 % 2 ^ 32 ∧
      t.getF R.dirActive = s.getF R.dirActive ∧ t.getF (R.mboxState m.mbox) = 0) ∧
  (∀ s : State, s.getF R.swapPending = 1 → reached s.time.coarse s.swapTick = true →
    ∃ t, exec .dirSwapComplete s = .next t ∧ t.getF R.dirActive = 1 - s.getF R.dirActive ∧ t.getF R.shadowState = 0 ∧
      t.getF R.swapPending = 0 ∧ t.getF R.swapDone.flag = 1 ∧ t.getF R.swapDone.occ = (s.getF R.swapDone.occ + 1) % 256 ∧
      t.dir.good = [] ∧ (∀ x, t.mem x = s.mem x)) ∧
  (∀ (s : State) (m : Msg), Taken s 0x504 16 statesCR m → s.dir.copying = false → m.byte 4 % 4 = 1 →
    exec .dirWrite s = .next ((s.begun.writeEntry (!s.shadowB) (m.field 0 4 % 2 ^ 21) (BitVec.ofNat 64 (m.field 8 8))).answer m 0 [])) ∧
  (∀ (s : State) (m : Msg), Taken s 0x504 16 statesCR m → s.dir.copying = true → m.byte 4 % 4 = 1 →
    ∃ t, exec .dirWrite s = .next t ∧
      t.dir.copyWrites = s.dir.copyWrites ++ [(m.field 0 4 % 2 ^ 21, BitVec.ofNat 64 (m.field 8 8))] ∧ t.getF (R.mboxState m.mbox) = 0) ∧
  (∀ (s : State) (m : Msg), Taken s 0x504 16 statesCR m → m.byte 4 % 4 = 2 → s.getF R.swapPending = 0 →
    exec .dirWrite s = .next ((s.begun.writeEntry s.shadowB (m.field 0 4 % 2 ^ 21) (BitVec.ofNat 64 (m.field 8 8))).answer m 0 [])) ∧
  (∀ (s : State) (m : Msg), Taken s 0x504 16 statesCR m → m.byte 4 / 2 % 2 = 1 → s.getF R.swapPending = 1 →
    exec .dirWrite s = .next (s.begun.answer m 4 [])) ∧
  (∀ (s : State) (m : Msg), Taken s 0x505 8 statesCR m →
    ∃ t, exec .dirEntryRead s = .next t ∧ t.getF (R.mboxState m.mbox) = 0 ∧
      Frame (fun c => answerParts m.mbox c ∨ memParts 1 c ∨ c = .fw ∨ c = .free) s t)

/-- The tree commands (R42, R267, R279, R303, R304, R375, R407, R408, R466-R469). Enumeration at an unpaired root takes the root as the only
node of level 0: with no south port UP it ends at once with that one node; else the first child in port order is asked to take NODE_ID 1,
each child that answers takes the next number, two for a pair, and one that does not answer is FAULT 4 and takes none; the children of a
node are asked one at a time in port order, member B behind its member A, and each UP port once (the order of requests and the reuse of a
number that no child took are the model's readings, assumptions 104 and 105). A node takes the assignment its parent sends, leaves
LINKUP and trains its upward ports anew (assumption 106); it relays an assignment to a port that is UP, takes its routes, the final ones
ending enumeration (assumption 135), passes grants on, and lets a pair member fail on command; an assignment unanswered for its time is
given up, not before (assumption 3); a port in MISMATCH is not retrained (R267). -/
def Obligations.TreeCommandsAssignRouteAndGrant : Prop :=
  (∀ (s : State) (m : Msg), Taken s 0x600 0 statesUC m → s.isRoot = true → stampClass m.stamp = 1 → s.paired = false →
    s.node.nodeId = 0 → (∀ e ∈ s.fw.waits, e.2 ≠ .enumReply) →
    (s.southMask = 0 → ∃ v : State, exec .enumStart s = .next (v.answer m 0 (leBytes 2 1 ++ leBytes 6 0)) ∧ v.node.routed = true ∧
      v.fw.enum = {} ∧ ∀ p, Tab.get [] v.node.routes p = []) ∧
    (s.southMask ≠ 0 → ∃ t j rest, exec .enumStart s = .next t ∧ jobsOf 0 s.southMask s.southPairs = j :: rest ∧
      t.fw.enum.work = rest ∧ t.fw.enum.next = 1 ∧ t.fw.enum.nodes.map (·.id) = [0] ∧
      t.fw.enum.ask = some (j, ⟨j.port, s.fw.nextTag, s.ticks⟩) ∧ (m, FwWait.enumReply) ∈ t.fw.waits ∧
      ∃ h ∈ t.mbox.hops, h.port = j.port ∧ h.bytes.drop 8 = leBytes 2 1 ++ leBytes 2 1 ++ leBytes 2 (if j.member = 1 then 2 else 0xFFF))) ∧
  (∀ (s : State) (m : Msg), Taken s 0x600 0 statesUC m → s.isRoot = false ∨ stampClass m.stamp ≠ 1 →
    exec .enumStart s = .next (s.begun.answer m 4 [])) ∧
  (∀ x up pairs : Nat, (((jobsOf x up pairs).filter (·.member ≠ 2)).map (·.port)).Pairwise (· < ·) ∧
    (∀ p, p ∈ (jobsOf x up pairs).map (·.port) ↔ p < 16 ∧ up / 2 ^ p % 2 = 1) ∧
    ∀ l a l', jobsOf x up pairs = l ++ a :: l' → a.member = 1 → ∃ b l'', l' = b :: l'' ∧ b.member = 2) ∧
  (∀ (s : State) (j : EnumJob) (a : Ask) (bytes : List Byte), s.fw.enum.ask = some (j, a) → leAt bytes 2 2 = a.tag.toNat →
    s.takeReply bytes = s.jobDone j (if leAt bytes 6 2 = 0 then some (leAt bytes 8 2, leAt bytes 10 4) else none)) ∧
  (∀ (s : State) (j j' : EnumJob) (rest : List EnumJob) (r : Nat × Nat), s.fw.enum.work = j' :: rest →
    j'.member = 2 ∨ s.fw.enum.next + 4 ≤ 4096 →
    let e := s.fw.enum
    let t := s.jobDone j (some r)
    let u := s.jobDone j none
    t.fw.enum.nodes = e.nodes ++ [{ id := if j.member = 2 then e.next + 1 else e.next, level := e.level + 1, parent := j.parent,
                                    port := j.port, pairB := j.member = 2, southUp := r.1, southPair := r.2 }] ∧
    t.fw.enum.next = (if j.member = 1 then e.next else if j.member = 2 then e.next + 2 else e.next + 1) ∧
    t.fw.enum.pairs = (if j.member = 2 then e.pairs + 1 else e.pairs) ∧ t.fw.enum.work = rest ∧
    (∃ b, t.fw.enum.ask = some (j', b)) ∧ u.fw.enum.nodes = e.nodes ∧ u.fw.enum.work = rest ∧
    (j.member ≠ 2 → u.fw.enum.next = e.next) ∧ (e.fault = 0 → u.fw.enum.fault = 4 ∧ u.fw.enum.faultNode = j.parent)) ∧
  (∀ (s : State) (j : EnumJob) (a : Ask) (port : Fin 16), s.fwRuns = true → s.fw.enum.ask = some (j, a) →
    exec (.enumReplyTimeout port) s = .next (if a.port = port ∧ a.sentAt + 16000000 ≤ s.ticks then s.jobDone j none else s)) ∧
  (∀ (s : State) (m : Msg), Taken s 0x601 6 statesLUC m → stampClass m.stamp = 2 → s.pair.ownImage = none →
    ∃ t, exec .enumAssign s = .next t ∧ (m.field 0 2 ≤ 0xFFF → t.node.nodeId = BitVec.ofNat 12 (m.field 0 2)) ∧
      (m.byte 2 ≤ 4 → t.node.level = BitVec.ofNat 8 (m.byte 2)) ∧
      (m.field 4 2 ≤ 0xFFF → t.node.partnerId = BitVec.ofNat 12 (m.field 4 2)) ∧
      t.node.state = (if s.node.state = .linkup then .unconfigured else s.node.state) ∧ t.getF (R.mboxState m.mbox) = 0 ∧
      (∀ p, p = 16 ∨ p = 17 ∨ p = 18 → s.portEnabled p = true → s.getF (R.lstate p) ≠ 6 → t.getF (R.lstate p) = 1) ∧
      (∀ p, p < 19 → p < 16 ∨ s.portEnabled p = false ∨ s.getF (R.lstate p) = 6 → t.getF (R.lstate p) = s.getF (R.lstate p))) ∧
  (∀ (s : State) (m : Msg), Taken s 0x601 6 statesLUC m → stampClass m.stamp ≠ 2 →
    exec .enumAssign s = .next (s.begun.answer m 4 [])) ∧
  (∀ (s : State) (m : Msg), Taken s 0x602 8 statesLUC m → ∃ p : Nat, p ≤ 15 ∧ (m.byte 0 ≤ 15 → p = m.byte 0) ∧
    (s.portUp p = false → exec .enumRelay s = .next ((s.begun.skip 1).answer m 4 [])) ∧
    (s.portUp p = true →
      ∃ t, exec .enumRelay s = .next t ∧ t.fw.relay = some ⟨p, s.fw.nextTag, s.ticks⟩ ∧ t.fw.nextTag = s.fw.nextTag + 1 ∧
        (m, .relay) ∈ t.fw.waits ∧ (∃ h ∈ t.mbox.hops, h.port = p ∧ h.mbox = m.mbox))) ∧
  (∀ (s : State) (m : Msg) (a : Ask) (port : Fin 16), s.fwRuns = true → s.fw.enum.ask = none → s.fw.relay = some a →
    a.port = port → a.sentAt + 1600000 ≤ s.ticks → (s.fw.waits.find? fun e => e.2 = .relay) = some (m, .relay) → m.mbox < 16 →
    ∃ t, exec (.enumReplyTimeout port) s = .next t ∧ t.fw.relay = none ∧ t.getF (R.mboxState m.mbox) = 0) ∧
  (∀ (s : State) (m : Msg) (final : Bool), Taken s 0x603 192 statesLUC m →
    ∃ t, exec (.enumRoute final) s = .next t ∧ t.node.routed = (s.node.routed || final) ∧
      (∀ p, p < 16 → ∀ k, k < 4 → leAt m.args (12 * p + 3 * k) 3 % 4096 ≤ leAt m.args (12 * p + 3 * k) 3 / 4096 →
        (leAt m.args (12 * p + 3 * k) 3 % 4096, leAt m.args (12 * p + 3 * k) 3 / 4096) ∈ Tab.get [] t.node.routes p) ∧
      t.getF (R.mboxState m.mbox) = 0) ∧
  (∀ (s : State) (m : Msg) (p q pos : Nat), Taken s 0x604 16 statesCR m → m.byte 0 = 1 → m.byte 1 = p → p ≤ 15 → q ≤ 15 →
    s.pairMate p = some q → wget (BitVec.ofNat 64 (m.field 8 8)) 0 2 = pos → pos ≤ 2 →
    let named := if s.memberPos p = pos then p else q
    (pos < 2 → s.eligible named = false → exec .pairGrant s = .next ((s.begun.skip 3).answer m 4 [])) ∧
    (pos = 2 ∨ s.eligible named = true → s.getF (R.arbGrant p) ≠ pos →
      ∃ t, exec .pairGrant s = .next t ∧ t.getF (R.mboxState m.mbox) = 0 ∧
        ∀ x, x = p ∨ x = q → t.getF (R.arbGrant x) = pos ∧ t.getF (R.grantEpoch x) = (s.getF (R.grantEpoch p) + 1) % 65536 ∧
          (s.isActive = true → ∃ c ∈ (t.port x).ctlQueue, c.mtype = 0x20 ∧ c.target = 0xFFF ∧ wget (c.payload.headD 0) 0 2 = pos ∧
            wget (c.payload.headD 0) 16 16 = (s.getF (R.grantEpoch p) + 1) % 65536))) ∧
  (∀ (s : State) (m : Msg), Taken s 0x604 16 statesCR m → m.byte 0 = 1 → m.byte 1 ≤ 15 → s.pairMate (m.byte 1) = none →
    exec .pairGrant s = .next ((s.begun.skip 3).answer m 4 [])) ∧
  (∀ (s : State) (m : Msg), Taken s 0x604 16 statesCR m → m.byte 0 = 0 →
    let w := BitVec.ofNat 64 (m.field 8 8)
    (¬ (s.isRoot = true ∧ s.paired = true ∧ s.cfgF C.rootGrantSrc = 0) → exec .pairGrant s = .next ((s.begun.skip 3).answer m 4 [])) ∧
    (s.isRoot = true → s.paired = true → s.cfgF C.rootGrantSrc = 0 → wget w 0 2 ≤ 2 →
      exec .pairGrant s = .next (((s.begun.skip 3).applyGrantWord w).answer m 0 []))) ∧
  (∀ (s : State) (m : Msg), Taken s 0x605 0 statesCR m → s.paired = true → s.getF R.fail = 0 →
    ∃ t, exec .pairForceFail s = .next t ∧ t.getF R.fail = 1 ∧ t.pair.failCause = 5 ∧ t.pair.healthOut = false ∧ t.getF (R.mboxState m.mbox) = 0) ∧
  (∀ (s : State) (m : Msg), Taken s 0x605 0 statesCR m → s.paired = false → exec .pairForceFail s = .next (s.begun.answer m 4 [])) ∧
  (∀ (s : State) (m : Msg), Taken s 0x606 4 [.unconfigured, .configured, .running] m →
    ∃ t, exec .linkRetrain s = .next t ∧ t.getF (R.mboxState m.mbox) = 0 ∧ ∀ p, p < 19 → t.getF (R.lstate p) =
      (if m.field 0 4 / 2 ^ p % 2 = 1 ∧ s.portEnabled p = true ∧ s.getF (R.lstate p) ≠ 6 then 1 else s.getF (R.lstate p)))

/-- The memory commands (R334, R336, R337, R358, R409): a unit that exists is retired once, its reply giving the totals, and a unit that
is none or beyond the limits is REFUSED, the totals being the node's (assumption 85); error-log slots are read modulo 256; code words that
read undamaged are answered as their data bits, those beyond the memory as zeros (assumption 85), and nothing but what a read and an answer
change is changed. A COUNT or MEM out of range stands for a free one (R18; assumption 12). -/
def Obligations.MemoryCommandsRetireAndRead : Prop :=
  (∀ (s : State) (g : Msg), Taken s 0x700 4 statesUCRS g →
    let m := g.byte 0
    let unit := g.byte 1
    let index := g.field 2 2
    (retireNames m unit index = false → exec .memRetire s = .next (s.begun.answer g 4 [])) ∧
    (retireNames m unit index = true → s.alreadyRetired m unit index = true →
      exec .memRetire s = .next (s.begun.answer g 0 (leBytes 2 s.prot.pages.length ++ leBytes 1 s.prot.banks.length))) ∧
    (retireNames m unit index = true → s.alreadyRetired m unit index = false → unit = 0 → s.prot.pages.length = 256 →
      exec .memRetire s = .next (s.begun.answer g 4 [])) ∧
    (retireNames m unit index = true → s.alreadyRetired m unit index = false → unit = 1 → s.prot.banks.length = 4 →
      exec .memRetire s = .next (s.begun.answer g 4 [])) ∧
    (retireNames m unit index = true → s.alreadyRetired m unit index = false → unit = 0 → s.prot.pages.length < 256 →
      ∃ t, exec .memRetire s = .next t ∧ t.prot.pages = s.prot.pages ++ [(m, index)] ∧ t.prot.banks = s.prot.banks ∧
        t.getF (R.retiredPages m) = (s.getF (R.retiredPages m) + 1) % 512 ∧ t.getF (R.mboxState g.mbox) = 0) ∧
    (retireNames m unit index = true → s.alreadyRetired m unit index = false → unit = 1 → s.prot.banks.length < 4 →
      ∃ t, exec .memRetire s = .next t ∧ t.prot.banks = s.prot.banks ++ [(m, index)] ∧ t.prot.pages = s.prot.pages ∧
        t.getF (R.retiredBanks m) = (s.getF (R.retiredBanks m) + 1) % 8 ∧ t.getF (R.mboxState g.mbox) = 0)) ∧
  (∀ (s : State) (m : Msg), Taken s 0x701 2 statesLUCRS m → ∃ n : Nat, 0 < n ∧ n ≤ 15 ∧
    (0 < m.byte 1 → m.byte 1 ≤ 15 → n = m.byte 1) ∧
    exec .memLogRead s = .next ((s.begun.skip 1).answer m 0 (leBytes 1 (s.getF R.logNext) ++ leBytes 7 0 ++
      (List.range n).flatMap fun i =>
        let e := Tab.get logReset s.prot.log ((m.byte 0 + i) % 256)
        leBytes 8 e.1.toNat ++ leBytes 8 e.2.toNat))) ∧
  (∀ (s : State) (g : Msg), Taken s 0x702 12 statesLUCRS g → g.byte 0 ≤ 2 → 0 < g.byte 8 → g.byte 8 ≤ 15 →
    let m := g.byte 0
    let a := g.field 4 4
    (∀ k, k < g.byte 8 → a + k < memWords m → s.soundCw m (a + k)) →
    exec .memRead s = .next ((s.begun.skip 2).answer g 0 (leBytes 8 0 ++ (List.range (g.byte 8)).flatMap fun k =>
      leBytes 16 (if a + k < memWords m then (cwData (s.raw m (a + k))).toNat else 0)))) ∧
  (∀ (s : State) (g : Msg), Taken s 0x702 12 statesLUCRS g → ∃ m : Nat, m ≤ 2 ∧ (g.byte 0 ≤ 2 → m = g.byte 0) ∧
    ∃ t, exec .memRead s = .next t ∧ t.getF (R.mboxState g.mbox) = 0 ∧
      Frame (fun c => answerParts g.mbox c ∨ memParts m c ∨ c = .fw ∨ c = .free) s t)

/-- What becomes of one code word (R319, R323, R324, R328, R330, R332), by the class in which it reads: the scrubber leaves CLEAN and
POISON, corrects CE, rewrites POISON_CE and UE as poison, and counts; a merge-buffer entry that drains merges its bytes into CLEAN or
corrected data and leaves poison otherwise; the rewrite of a word found UE by a read happens only while it still reads UE. Where the
memory is the pool, the log item that a correction stores may itself take the slot in which the word lies, so what the word then holds
is said of the other memories. UE_EVENT is set once for each word that reads UE (R324, R325). A memory notice that its 1 ms held back leaves
with a visit (R415; the model's choice, log 137); MEM_POISON_REWRITE's second look is the model's reading (log 83); a word that no read found UE, or that reads UE no more, is not rewritten (assumption 3). -/
def Obligations.CodeWordsAreRepairedByClass : Prop :=
  (∀ (s : State) (m : Fin 6) (u : BitVec 152) (a : Nat), s.memOn = true → s.scrubFrom m (s.mem m).scrubAt = some a →
    s.scrubSkips m a = false → (∀ e ∈ (s.mem m).buffer, e.addr ≠ a) → (s.mem m).noticeCauses = 0 →
    let c := s.raw m a ^^^ u
    ∃ t, exec (.scrubVisit m u) s = .next t ∧
      (classify c = .clean ∨ classify c = .poison → t.raw m a = c ∧ (∀ x, x ≠ a → t.raw m x = s.raw m x) ∧
        Frame (fun k => k = .mem m ∨ k = .reg (0x8008 + 0x40 * m)) s t) ∧
      (∀ j v, classify c = .ce j v → (m.val ≠ 0 → t.raw m a = flipSymbol c j v) ∧
        t.getF (R.ceCount m) = (s.getF (R.ceCount m) + 1) % 2 ^ 32 ∧ t.getF (R.level m) = min (s.getF (R.level m) + 1) 65535) ∧
      (∀ j v, classify c = .poisonCe j v → (m.val ≠ 0 → t.raw m a = poisonCw) ∧
        t.getF (R.ceCount m) = (s.getF (R.ceCount m) + 1) % 2 ^ 32 ∧ t.getF (R.level m) = min (s.getF (R.level m) + 1) 65535) ∧
      (classify c = .ue → (m.val ≠ 0 → t.raw m a = poisonCw) ∧ (a ∉ (s.mem m).ueSeen →
        t.getF (R.ueScrub m) = min (s.getF (R.ueScrub m) + 1) 65535 ∧ t.getF (R.ueEvent m).flag = 1))) ∧
  (∀ (s : State) (m : Fin 6) (u : BitVec 152), 3 ≤ s.node.state.code → (s.mem m).noticeCauses ≠ 0 →
    (∀ k, (s.mem m).noticeAt = some k → k + 160000 ≤ s.ticks) →
    ∃ t, exec (.scrubVisit m u) s = .next t ∧ (t.mem m).noticeAt = some s.ticks) ∧
  (∀ (s : State) (m : Fin 6) (u : BitVec 152) (e : MbEntry) (l : List MbEntry), (s.mem m).buffer = e :: l →
    m.val = 0 ∨ s.unitRetired m (e.addr / 256) = false →
    let c := s.raw m e.addr ^^^ u
    let bits := byteBits e.mask
    let merged (d : BitVec 128) := encodeCw ((d &&& ~~~bits) ||| (e.data &&& bits))
    ∃ t, exec (.mergeBufferDrain m u) s = .next t ∧ (t.mem m).buffer = (s.mem m).buffer.filter (fun x => x.addr ≠ e.addr) ∧
      (e.mask = 0xFFFF → t.raw m e.addr = encodeCw e.data) ∧
      (e.mask ≠ 0xFFFF → classify c = .clean → t.raw m e.addr = merged (cwData c)) ∧
      (∀ j v, e.mask ≠ 0xFFFF → classify c = .ce j v → m.val ≠ 0 → t.raw m e.addr = merged (cwData (flipSymbol c j v))) ∧
      (e.mask ≠ 0xFFFF → classify c = .poison → t.raw m e.addr = poisonCw ∧
        t.getF (R.ueWrite m) = min (s.getF (R.ueWrite m) + 1) 65535) ∧
      (∀ j v, e.mask ≠ 0xFFFF → classify c = .poisonCe j v → (m.val ≠ 0 → t.raw m e.addr = poisonCw) ∧
        t.getF (R.ueWrite m) = min (s.getF (R.ueWrite m) + 1) 65535) ∧
      (e.mask ≠ 0xFFFF → classify c = .ue → (m.val ≠ 0 → t.raw m e.addr = poisonCw) ∧
        t.getF (R.ueWrite m) = min (s.getF (R.ueWrite m) + 1) 65535 ∧
        (e.addr ∉ (s.mem m).ueSeen → t.getF (R.ueEvent m).flag = 1 ∧
          t.getF (R.ueEvent m).occ = (s.getF (R.ueEvent m).occ + 1) % 256) ∧
        (e.addr ∈ (s.mem m).ueSeen → t.getF (R.ueEvent m).flag = s.getF (R.ueEvent m).flag ∧
          t.getF (R.ueEvent m).occ = s.getF (R.ueEvent m).occ))) ∧
  (∀ (s : State) (m : Fin 6) (u : BitVec 152), (s.mem m).buffer = [] → exec (.mergeBufferDrain m u) s = .next s) ∧
  (∀ (s : State) (m : Fin 6) (a : Nat), a ∉ (s.mem m).ueSeen → exec (.memPoisonRewrite m a) s = .next s) ∧
  (∀ (s : State) (m : Fin 6) (a : Nat), a ∈ (s.mem m).ueSeen → m.val = 0 ∨ s.unitRetired m (a / 256) = false →
    ∃ t, exec (.memPoisonRewrite m a) s = .next t ∧ t.raw m a = (if classify (s.raw m a) = .ue then poisonCw else s.raw m a) ∧
      a ∉ (t.mem m).ueSeen ∧ (∀ x, x ≠ a → t.raw m x = s.raw m x) ∧ Frame (fun k => k = .mem m) s t)

/-- Buckets, laps, triplicated words and the retirement map (R326, R331, R332, R333): LEVEL leaks by one at the end of a LEAK_PERIOD and
re-arms the bucket at half its threshold; a lap beyond SCRUB_LAP_MAX sets LAP_OVERDUE once; a refresh walk leaves three equal copies of
the majority of every word and counts those that disagreed; while the map's word of a unit reads poisoned the unit counts as retired, and
firmware rewrites the word where its record is valid and gives it up until power-on where it is not (where the word stands, and when
firmware has a valid record, are the model's readings, assumptions 84 and 121). Before a LEAK_PERIOD has passed nothing happens (assumption 3). -/
def Obligations.BucketsLapsAndCopiesAreKept : Prop :=
  (∀ (s : State) (m : Fin 6), s.memOn = true → (s.mem m).leakAt + s.cfgF (C.leakPeriod m) * 16000 ≤ s.ticks →
    ∃ t, exec (.leakPeriod m) s = .next t ∧ t.getF (R.level m) = s.getF (R.level m) - 1 ∧
      (t.mem m).leakAt = (s.mem m).leakAt + s.cfgF (C.leakPeriod m) * 16000 ∧
      (t.mem m).armed = ((s.mem m).armed || decide (s.getF (R.level m) - 1 ≤ s.cfgF (C.bucketThreshold m) / 2)) ∧
      (t.mem m).cells = (s.mem m).cells ∧ Frame (fun k => k = .mem m ∨ k = .reg (0x8004 + 0x40 * m)) s t) ∧
  (∀ (s : State) (m : Fin 6), (s.mem m).leakAt + s.cfgF (C.leakPeriod m) * 16000 > s.ticks → exec (.leakPeriod m) s = .next s) ∧
  (∀ (s : State) (m : Fin 6), s.memOn = true → (s.mem m).overdue = false →
    s.cfgF (C.scrubLapMax m) * 160000 < s.ticks - (s.mem m).lapStart →
    ∃ t, exec (.lapOverdue m) s = .next t ∧ (t.mem m).overdue = true ∧ t.getF (R.lapOverdue m).flag = 1 ∧
      t.getF (R.lapOverdue m).occ = (s.getF (R.lapOverdue m).occ + 1) % 256) ∧
  (∀ (s : State) (l : List TmrUpset), Inv s →
    let u := s.triUpsets l
    ∃ t, exec (.tmrRefresh l) s = .next t ∧
      (∀ i, t.triWord i = u.triWord i ∧ (Tab.get {} t.prot.tri i).a = t.triWord i ∧ (Tab.get {} t.prot.tri i).b = t.triWord i ∧
        (Tab.get {} t.prot.tri i).c = t.triWord i) ∧
      t.getF R.tmrFix = min (s.getF R.tmrFix + (u.prot.tri.filter fun e => ¬ (e.2.a = e.2.b ∧ e.2.b = e.2.c)).length) 65535) ∧
  (∀ (s : State) (u : RetireUnit), s.fwRuns = true →
    let a := Config.retireWord u.mem u.bank u.index
    (s.mapWithheld a = true → (u.bank = false → s.unitRetired u.mem u.index = true) ∧
      (u.bank = true → ∀ page, page / 1024 = u.index → s.unitRetired u.mem page = true)) ∧
    (s.mapWithheld a = true → (s.mem 5).buffer = [] → s.prot.withheld.contains a = false →
      (s.fw.noRecord.contains a = false → s.unitRetired 5 (a / 256) = false →
        ∃ t, exec (.retireMapRepair u) s = .next t ∧ t.mapWithheld a = false ∧ t.prot.pages = s.prot.pages ∧
          t.prot.banks = s.prot.banks) ∧
      (s.fw.noRecord.contains a = true →
        ∃ t, exec (.retireMapRepair u) s = .next t ∧ a ∈ t.prot.withheld ∧ t.mapWithheld a = true ∧ t.prot.pages = s.prot.pages ∧
          t.prot.banks = s.prot.banks)) ∧
    (s.mapWithheld a = false → (s.mem 5).cells = [] → exec (.retireMapRepair u) s = .next s))

/-- The housekeeping and loop commands (R410, R422, R426, R443, R445-R447): a set-point is taken by loops 8-31 and starts a ramp, and is
REFUSED for loops 0-7; an enable word acts on the selected loops 8-31 alone, and a loop that it starts begins bumplessly; both clamps of
a loop change together; the twelve coefficients of a port are replaced; a power mode waits for the next passes. An operand outside its range
stands for a free one of the range (R18; assumption 12). -/
def Obligations.LoopAndSensorCommandsAct : Prop :=
  (∀ (s : State) (m : Msg), Taken s 0x800 8 statesCR m →
    ∃ (i : Nat) (mant : Int), i ≤ 31 ∧ (m.byte 0 ≤ 31 → i = m.byte 0) ∧ -131072 ≤ mant ∧ mant ≤ 131071 ∧
    (-131072 ≤ signed 32 (m.field 4 4) → signed 32 (m.field 4 4) ≤ 131071 → mant = signed 32 (m.field 4 4)) ∧
    (i < 8 → exec .loopSetpoint s = .next ((s.begun.skip 2).answer m 4 [])) ∧
    (8 ≤ i →
      ∃ t, exec .loopSetpoint s = .next t ∧ fieldMant (t.cfgF (C.tgt i)) = mant ∧ fieldExp (t.cfgF (C.tgt i)) = m.byte 2 % 64 ∧
        (t.pid i).ramp = true ∧ (∀ k, k ≠ 192 + i → t.record k = s.record k) ∧ t.getF (R.mboxState m.mbox) = 0)) ∧
  (∀ (s : State) (m : Msg), Taken s 0x801 8 statesCR m →
    ∃ t, exec .loopEnable s = .next t ∧ t.getF (R.mboxState m.mbox) = 0 ∧
      (∀ i, i < 32 → i < 8 ∨ m.field 0 4 / 2 ^ i % 2 = 0 → t.loopOn i = s.loopOn i ∧ t.pid i = s.pid i) ∧
      (∀ i, 8 ≤ i → i < 32 → m.field 0 4 / 2 ^ i % 2 = 1 → t.loopOn i = decide (m.field 4 4 / 2 ^ i % 2 = 1) ∧
        (s.loopOn i = false → t.loopOn i = true → (t.pid i).bumpless = true ∧ (t.pid i).ramp = true) ∧
        (t.pid i).out = (s.pid i).out)) ∧
  (∀ (s : State) (m : Msg), Taken s 0x802 20 statesCR m →
    ∃ (i : Nat) (lo hi : Int) (el eh : Nat) (t : State), exec .loopClampWrite s = .next t ∧ i ≤ 31 ∧ (m.byte 0 ≤ 31 → i = m.byte 0) ∧
      (-131072 ≤ signed 32 (m.field 4 4) → signed 32 (m.field 4 4) ≤ 131071 → lo = signed 32 (m.field 4 4)) ∧
      (-131072 ≤ signed 32 (m.field 12 4) → signed 32 (m.field 12 4) ≤ 131071 → hi = signed 32 (m.field 12 4)) ∧
      (m.byte 8 ≤ 63 → el = m.byte 8) ∧ (m.byte 16 ≤ 63 → eh = m.byte 16) ∧ t.clampLow i = valOf lo el ∧ t.clampHigh i = valOf hi eh ∧
      (∀ k, k ≠ 2 + i → t.triWord k = s.triWord k) ∧ t.getF (R.mboxState m.mbox) = 0) ∧
  (∀ (s : State) (m : Msg), Taken s 0x803 52 statesCR m →
    ∃ (n : Nat) (t : State), exec .sxpCoefWrite s = .next t ∧ n ≤ 7 ∧ (m.byte 0 ≤ 7 → n = m.byte 0) ∧
      (∀ k, k < 12 → t.cfgF (C.coef n k) = m.field (4 + 4 * k) 4) ∧
      (∀ k, k ≠ 96 + n → t.record k = s.record k) ∧ t.getF (R.mboxState m.mbox) = 0) ∧
  (∀ (s : State) (m : Msg), Taken s 0x804 1 statesCR m →
    ∃ low : Bool, (m.byte 0 ≤ 1 → low = decide (m.byte 0 = 1)) ∧
      exec .hkPowerMode s = .next ((({ s.begun with hk := { s.hk with lowNext := low } } : State).skip 1).answer m 0 []))

/-- PACING_EVENT (R438, R439, R441-R443, R445, R449): none is due between the 64th ticks; a due one on time evaluates the due loops in order,
each that has a measurement once, within its clamps where LOW is not above HIGH, and leaves the output of every other loop; a late one
evaluates nothing and counts LOOP_OVERRUN with its flag. Rescaling rounds to nearest, ties to even, and saturates at 18 bits. An evaluation
forms the error, the P, I and D parts, their sum and the output from the measurement, the set-point after its ramp step, what other loops add
and the clamps, and keeps I where the clamp would hold it; in SLEW the output of a timebase loop is also limited to 10 ppm about I. A
measurement that is no number counts SKIPPED alone. That the event comes in ticks that are multiples of 64, what CLAMPED tells, and when I
takes the frozen trim are the model's readings (assumptions 101, 99 and 98). Without a coarse time the event stands for 64 ticks of the model's own clock (assumption
6), and it changes nothing where it is not due (assumption 3). -/
def Obligations.PacingEvaluatesTheDueLoops : Prop :=
  (∀ (s : State) (late : Bool), s.paceDue = false → exec (.pacingEvent late) s = .next s) ∧
  (∀ s : State, s.paceDue = true → s.operating = true → s.test.logic ≠ some 6 →
    ∃ t, exec (.pacingEvent true) s = .next t ∧ t.getF R.loopOverrun = min (s.getF R.loopOverrun + 1) 65535 ∧
      t.getF R.overrunEvent.flag = 1 ∧ t.getF R.overrunEvent.occ = (s.getF R.overrunEvent.occ + 1) % 256 ∧
      Frame (fun c => c = .loop ∨ c = .ticks ∨ c = .reg 0xC000 ∨ c = .reg 0xC00C) s t ∧ t.loop.loops = s.loop.loops ∧
      t.ticks = (if s.coarseRuns then s.ticks else s.ticks + 64)) ∧
  (∀ s : State, s.paceDue = true → s.operating = true → s.test.logic ≠ some 6 →
    ∃ t, exec (.pacingEvent false) s = .next t ∧
      (∀ i, i ∈ s.dueLoops → (s.measure i).isSome →
        t.getF (R.evals i) = (s.getF (R.evals i) + 1) % 65536 ∧
        (s.clampLow i ≤ s.clampHigh i → s.clampLow i ≤ (t.pid i).out ∧ (t.pid i).out ≤ s.clampHigh i)) ∧
      (∀ i, i < 32 → i ∉ s.dueLoops → t.getF (R.evals i) = s.getF (R.evals i) ∧ t.word (0xC010 + 4 * i) = s.word (0xC010 + 4 * i)) ∧
      Frame (fun c => c = .loop ∨ c = .ticks ∨ (∃ o, c = .reg o ∧ 0xC000 ≤ o ∧ o < 0xC190) ∨ (∃ r, c = .region r ∧ r < 8)) s t) ∧
  (∀ (s : State) (late : Bool), s.paceDue = true → s.operating = false → s.coarseRuns = false →
    exec (.pacingEvent late) s = .next { s with ticks := s.ticks + 64 }) ∧
  (∀ s : State, s.paceDue = true → s.operating = true → s.test.logic ≠ some 6 → Tab.wf {} s.loop.loops = true →
    let u : State := if s.coarseRuns then { s with loop := { s.loop with lastPace := some s.ticks } } else { s with ticks := s.ticks + 64 }
    ∃ t, exec (.pacingEvent false) s = .next t ∧
      ∀ i, t.pid i = { (s.dueLoops.foldl (fun (v : State) (k : Nat) => v.evalLoop k) u).pid i with due := false }) ∧
  (∀ (v : Int) (e : Nat),
    let r := rescale v e
    let half : Int := 2 ^ (e + 120)
    r.1 ≤ 131071 ∧ -131072 ≤ r.1 ∧
    (r.2 = 0 → -half ≤ 2 * (v - valOf r.1 e) ∧ 2 * (v - valOf r.1 e) ≤ half ∧ ((2 * (v - valOf r.1 e)).natAbs = half.natAbs → r.1 % 2 = 0)) ∧
    (r.2 ≠ 0 → r.1 = 131071 ∧ 2 * valOf 131071 e + half ≤ 2 * v ∨ r.1 = -131072 ∧ 2 * v < 2 * valOf (-131072) e - half)) ∧
  (∀ (s : State) (i : Nat), s.measure i = none → s.evalLoop i = s.inc (R.skipped i)) ∧
  (∀ (s : State) (i : Nat) (v : Int), i < 32 → s.measure i = some v →
    let l := s.pid i
    let ex (k : Nat) : Nat := s.cfgF (C.stageExp i k)
    let mq := (rescale v (ex 0)).1
    let i0 := if l.bumpless then (rescale (if i < 8 then (s.region i).frozenTrim else l.out) (ex 2)).1 else l.i
    let prev := if l.bumpless then mq else l.mqPrev.getD mq
    let tgt := (rescale (fieldVal (s.cfgF (C.tgt i))) (ex 0)).1
    let cur := if l.ramp then mq else l.sp
    let step : Int := s.cfgF (C.rampStep i)
    let sp := if i < 8 then (s.heldPoint i).1 else if step = 0 then tgt else if cur < tgt then min tgt (cur + step) else max tgt (cur - step)
    let e := (rescale (valOf sp (ex 0) + s.addFor i - valOf mq (ex 0)) (ex 0)).1
    let p := (rescale (mulVal (s.cfgF (C.kp i)) e (ex 0)) (ex 1)).1
    let d := (rescale (mulVal (s.cfgF (C.kd i)) (prev - mq) (ex 0)) (ex 3)).1
    let ki := mulVal (s.cfgF (C.ki i)) e (ex 0)
    let ic := (rescale (valOf i0 (ex 2) + ki) (ex 2)).1
    let sum := (rescale (valOf p (ex 1) + valOf ic (ex 2) + valOf d (ex 3)) (ex 4)).1
    let u := valOf (rescale (valOf sum (ex 4)) (ex 5)).1 (ex 5)
    let clamp (x : Int) : Int := min (s.clampHigh i) (max (s.clampLow i) x)
    let o := if i < 8 ∧ s.regionState i = 4 then clamp (min (valOf i0 (ex 2) + intVal 10) (max (valOf i0 (ex 2) - intVal 10) (clamp u)))
      else clamp u
    let t := s.evalLoop i
    (t.pid i).out = o ∧ (t.pid i).mqPrev = some mq ∧ (t.pid i).sp = sp ∧ (t.pid i).ramp = false ∧ (t.pid i).bumpless = false ∧
    (t.pid i).i = (if (o < u ∧ 0 < ki) ∨ (u < o ∧ ki < 0) then i0 else ic) ∧
    (i < 8 → (t.region i).lastTrim = o ∧ (t.region i).prevTrim = (s.region i).lastTrim) ∧
    t.getF (R.outClamped i) = boolNat (decide (clamp u ≠ u)) ∧ t.getF (R.outRamping i) = boolNat (decide (8 ≤ i ∧ sp ≠ tgt)) ∧
    t.getF (R.outMant i) = unsigned 18 (rescale o (ex 5)).1 ∧ t.getF (R.outExp i) = ex 5 ∧
    t.getF (R.spMant i) = unsigned 18 sp ∧ t.getF (R.spExp i) = ex 0)

/-- Passes of the housekeeping converters (R417-R422, R465): a pass begins once the one before has taken its steps, and not before (assumption
3); the step that is next takes its code, and no other does; the reference is compared with the other converter's only when that one has taken it; a die temperature above 125 C
leads to SAFE. The code that 125 C has, and that a change of power mode voids both converters' references, are the model's readings
(assumptions 82 and 153). -/
def Obligations.PassesTakeTheirSteps : Prop :=
  (∀ (s : State) (c : Fin 2), 3 ≤ s.node.state.code → s.test.logic ≠ some 9 → s.nextStep c = none → s.diagOwed c = false →
    ∃ t, exec (.hkPassStart c) s = .next t ∧ (t.conv c).started = true ∧ (t.conv c).lastStep = 0 ∧ (t.conv c).passStart = s.ticks ∧
      (t.conv c).low = s.hk.lowNext ∧
      ((s.conv c).low ≠ s.hk.lowNext → ∀ d, d < 2 → (t.conv d).refTaken = false) ∧
      ((s.conv c).started = true → t.getF (R.pass c) = min 0xFFFF (s.usSince (s.conv c).passStart)) ∧
      (s.operating = false → t.hk.fifo = s.hk.fifo) ∧
      (s.operating = true → s.hk.fifo.length < 64 → t.hk.fifo.length = s.hk.fifo.length + 1) ∧
      (s.operating = true → 64 ≤ s.hk.fifo.length → t.getF R.hkWordLost = min (s.getF R.hkWordLost + 1) 65535)) ∧
  (∀ (s : State) (c : Fin 2), s.node.state.code < 3 ∨ s.test.logic = some 9 ∨ s.nextStep c ≠ none ∨ s.diagOwed c = true →
    exec (.hkPassStart c) s = .next s) ∧
  (∀ (s : State) (c : Fin 2) (step : HkStep) (code : BitVec 16), s.nextStep c ≠ some (stepIndex step) ∨ s.diagOwed c = true →
    exec (.hkSample c step code) s = .next s) ∧
  (∀ (s : State) (c : Fin 2) (code : BitVec 16), s.nextStep c = some 0 → s.diagOwed c = false →
    ∃ t, exec (.hkSample c .reference code) s = .next t ∧ t.getF (R.ref c) = code.toNat ∧ (t.conv c).lastStep = 1 ∧
      ((s.conv (1 - c)).refTaken = false → t.getF R.plausState = s.getF R.plausState) ∧
      ((s.conv (1 - c)).refTaken = true →
        (t.getF R.plausState = 1 ↔ s.cfgF C.plausTol < (code.toInt - signed 16 (s.getF (R.ref (1 - c)))).natAbs) ∧
        t.getF R.plausibility.occ = (if s.cfgF C.plausTol < (code.toInt - signed 16 (s.getF (R.ref (1 - c)))).natAbs then
          (s.getF R.plausibility.occ + 1) % 256 else s.getF R.plausibility.occ)) ∧
      Frame (fun x => x = .hk ∨ x = .reg 0xB000 ∨ x = .reg 0xB004) s t) ∧
  (∀ (s : State) (c : Fin 2) (m : Fin 16) (code : BitVec 16), s.nextStep c = some (1 + m.val) → s.diagOwed c = false →
    3 ≤ s.node.state.code →
    ∃ t, exec (.hkSample c (.monitor m) code) s = .next t ∧ t.getF (R.mon m) = code.toNat ∧
      (5 ≤ m.val ∧ m.val ≤ 13 ∧ 16000 < code.toInt → t.node.state = .safe) ∧
      (¬ (5 ≤ m.val ∧ m.val ≤ 13 ∧ 16000 < code.toInt) → t.node = s.node)) ∧
  (∀ (s : State) (c : Fin 2) (e : Fin 16) (code : BitVec 16), s.nextStep c = some (17 + e.val) → s.diagOwed c = false →
    s.entryAuxin c e = true →
    ∃ t, exec (.hkSample c (.auxin e) code) s = .next t ∧ t.getF (R.hkEntry c e) = code.toNat ∧ (t.conv c).lastStep = 18 + e.val)

/-- Sensor ports and interlock outputs (R424-R433): a conversion counts, shows the excitation limit and OPEN_SUSPECT, and its result
stands in SXP_RESULT only where it is neither flagged nor on an open wire nor a fault nor in a failed plausibility check; it excites the port
with EXC_V, first positive where its count is even, then reversed, then not at all, and never without VDDX; a diagnostic phase shows the open
leads; an output takes the waiting value with its next period, and otherwise stays (assumption 3). That a flagged conversion leaves the output as
it is, the two buffers of 64 words, and VDDX's coming with the straps are the model's readings (assumptions 103, 102 and 167). -/
def Obligations.SensorPortsConvertAndDrive : Prop :=
  (∀ (s : State) (c : Fin 2) (e : Fin 16) (x : SxpCodes) (lim : Bool),
    let n := s.cfgF (C.entrySrc c e) - 16
    s.nextStep c = some (17 + e.val) → s.diagOwed c = false → s.entryAuxin c e = false →
    ∃ (x' : SxpCodes) (t : State), exec (.sxpConversion c e x lim) s = .next t ∧ (s.portEntries n = 1 → x' = x) ∧
      let suspect := suspectOf (s.cfgF (C.senseMin n)) x'
      let y := s.polynomial n (ratioOf x') (s.sourceT n)
      t.getF (R.conversions n) = (s.getF (R.conversions n) + 1) % 65536 ∧
      t.getF (R.excLimit n) = boolNat lim ∧ t.getF (R.openSuspect n) = boolNat suspect ∧
      t.getF (R.openSuspectCnt n) = (if suspect then min (s.getF (R.openSuspectCnt n) + 1) 65535 else s.getF (R.openSuspectCnt n)) ∧
      t.word (R.sxpResult n).off = (if suspect = false ∧ s.getF (R.openWire n) = 0 ∧ ffinite y = true ∧ s.getF R.plausState = 0 then y
        else s.word (R.sxpResult n).off) ∧
      (t.sxp n).conv = (s.sxp n).conv + 1 ∧
      (s.node.vddx = false → (t.sxp n).exc = []) ∧
      (s.node.vddx = true → (s.sxp n).conv % 2 = 0 → (t.sxp n).exc = [(s.cfgF (C.excV n) : Int), -(s.cfgF (C.excV n) : Int), 0]) ∧
      (s.node.vddx = true → (s.sxp n).conv % 2 = 1 → (t.sxp n).exc = [-(s.cfgF (C.excV n) : Int), (s.cfgF (C.excV n) : Int), 0])) ∧
  (∀ (s : State) (c : Fin 2) (e : Fin 16) (x : SxpLeads),
    let n := s.cfgF (C.entrySrc c e) - 16
    s.stepEnabled c (17 + e) = true → s.entryAuxin c e = false → (s.sxp n).diagDue = true →
    ∃ t, exec (.sxpDiagPhase c e x) s = .next t ∧ t.getF (R.openLeads n) = openLeadsOf x ∧
      t.getF (R.openWire n) = (if openLeadsOf x = 0 then 0 else 1) ∧ (t.sxp n).diagDue = false ∧
      t.getF (R.openWireEvent n).occ =
        (if openLeadsOf x = 0 then s.getF (R.openWireEvent n).occ else (s.getF (R.openWireEvent n).occ + 1) % 256)) ∧
  (∀ (s : State) (n : Fin 8) (q : Nat × Nat), (s.sxp n).next = some q →
    ∃ t, exec (.ilkPeriod n) s = .next t ∧ (t.sxp n).period = q.1 ∧ (t.sxp n).high = q.2 ∧ (t.sxp n).next = none ∧
      t.getF (R.ilkCode n) = 0 ∧ Frame (fun k => k = .hk ∨ k = .reg (0xB114 + 4 * n)) s t) ∧
  (∀ (s : State) (n : Fin 8), (s.sxp n).next = none → exec (.ilkPeriod n) s = .next s) ∧
  (∀ (s : State) (x : Word × Nat) (l : List (Word × Nat)), s.hk.fifo = x :: l → 30 ≤ (x :: l).length ∨ x.2 + 16000 ≤ s.ticks →
    exec (.itemCloseTimer false) s = .next (({ s with hk := { s.hk with fifo := (x :: l).drop 30 } } : State).storeItem 0 .housekeeping
      (((x :: l).take 30).map fun y => pw y.1))) ∧
  (∀ (s : State) (x : Word × Nat) (l : List (Word × Nat)), s.loop.telFifo = x :: l → 30 ≤ (x :: l).length ∨ x.2 + 16000 ≤ s.ticks →
    exec (.itemCloseTimer true) s = .next (({ s with loop := { s.loop with telFifo := (x :: l).drop 30 } } : State).storeItem 0 .monitoring
      (((x :: l).take 30).map fun y => pw y.1)))

/-- LOCKi holds 0 when free and the owner's stamp when held (R366): a read of a free lock returns 0 and takes it for the reader's stamp, a
read of a held one returns the owner's stamp and changes nothing; a write of the owner's stamp frees it, any other write is ignored and
counts LOCK_BAD_RELEASE. The host reads with the host stamp and firmware with CLASS own firmware; a remote access uses the stamp in its
message's header, and its result goes back on the port it came on, or, where the read named this node, to the NODE_ID of the stamp (R373); one
whose TARGET names another node goes on unchanged. -/
def Obligations.LocksFollowTheirTable : Prop :=
  (∀ (s : State) (i : Fin 16) (who : Sender), s.senderOk who = true →
    let stamp := match who with | .host => s.stamp 1 0 | .ownFirmware => s.stamp 5 0
    ∃ t, exec (.lockRead i who) s = .next t ∧ t.lock i = (if s.lock i = 0 then stamp else s.lock i) ∧
      t.out = .lockValue (s.lock i) :: s.out ∧ Frame (fun c => c = .tri (34 + i.val) ∨ c = .out) s t) ∧
  (∀ (s : State) (i : Fin 16) (v : BitVec 32), s.barOpen = true ∨ s.fwRuns = true →
    ∃ t, exec (.lockWrite i v) s = .next t ∧
      (s.lock i ≠ 0 → v = s.lock i → t.lock i = 0 ∧ Frame (fun c => c = .tri (34 + i.val)) s t) ∧
      (s.lock i = 0 ∨ v ≠ s.lock i → t.lock i = s.lock i ∧
        t.getF R.lockBadRelease = min (s.getF R.lockBadRelease + 1) 65535 ∧ Frame (fun c => c = .reg 0xA084) s t)) ∧
  (∀ (s u : State) (p : Fin 19) (m : CtlMsg), s.takeCtl p 0x04 = some (m, u) → s.isHere m = true →
    let i := wget (m.payload.headD 0) 0 4
    ∃ t, exec (.lockReadRx p) s = .next t ∧ t.lock i = (if s.lock i = 0 then m.stamp else s.lock i) ∧
      (m.target = 0xFFF → lockMsg 0x06 0xFFF (s.portStamp p) i (s.lock i) ∈ (t.port p).ctlQueue) ∧
      (m.target ≠ 0xFFF → ∀ q, u.route (fget m.stamp 16 12) = .port q →
        lockMsg 0x06 (BitVec.ofNat 12 (fget m.stamp 16 12)) (s.portStamp q) i (s.lock i) ∈ (t.port q).ctlQueue) ∧
      Frame (fun c => c = .tri (34 + i) ∨ c = .port p ∨ c = .out ∨
        ∃ q, c = .port q ∧ m.target ≠ 0xFFF ∧ u.route (fget m.stamp 16 12) = .port q) s t) ∧
  (∀ (s u : State) (p : Fin 19) (m : CtlMsg) (q : Nat), s.isHere m = false → u.route m.target.toNat = .port q →
    (s.takeCtl p 0x04 = some (m, u) → exec (.lockReadRx p) s = .next (u.sendMsg q m)) ∧
    (s.takeCtl p 0x05 = some (m, u) → exec (.lockWriteRx p) s = .next (u.sendMsg q m))) ∧
  (∀ (s u : State) (p : Fin 19) (m : CtlMsg), s.takeCtl p 0x05 = some (m, u) → s.isHere m = true →
    let i := wget (m.payload.headD 0) 0 4
    let v := BitVec.ofNat 32 (wget (m.payload.headD 0) 32 32)
    ∃ t, exec (.lockWriteRx p) s = .next t ∧
      (s.lock i ≠ 0 → v = s.lock i → t.lock i = 0 ∧ t.getF R.lockBadRelease = s.getF R.lockBadRelease) ∧
      (s.lock i = 0 ∨ v ≠ s.lock i → t.lock i = s.lock i ∧
        t.getF R.lockBadRelease = min (s.getF R.lockBadRelease + 1) 65535) ∧
      Frame (fun c => c = .tri (34 + i) ∨ c = .port p ∨ c = .out ∨ c = .reg 0xA084) s t)

/-- Aborts (R378): firmware that runs discards a POSTED message without a reply, its mailbox EMPTY, POST and ABORT clear and MBOX_ABORTED
counted; it leaves a TAKEN one to complete, and completion clears the bit; it clears the bit of an EMPTY mailbox. Stopped firmware acts
on no abort. A DOORBELL with OP SET acts as the sender's own write. Messages
already forwarded stay as they are. -/
def Obligations.AbortsActByMailboxState : Prop :=
  (∀ (s : State) (i : Fin 16), s.fwRuns = true →
    ∃ t, exec (.mboxAbort i) s = .next t ∧ t.mbox.hops = s.mbox.hops ∧
      (s.getF (R.mboxState i) = 1 → t.getF (R.mboxState i) = 0 ∧ i.val ∉ t.mbox.order ∧ t.mbox.inDoorbell.getLsbD i = false ∧
        t.mbox.inDoorbell.getLsbD (16 + i.val) = false ∧ t.getF R.mboxAborted = min (s.getF R.mboxAborted + 1) 65535 ∧
        Frame (fun c => c = .mbox ∨ c = .reg (0xA000 + 4 * i.val) ∨ c = .reg 0xA088 ∨
          ∃ p, c = .port p ∧ Tab.get none s.mbox.arrival i = some p) s t) ∧
      (s.getF (R.mboxState i) = 2 →
        t = { s with mbox := { s.mbox with inDoorbell := s.mbox.inDoorbell ||| (1 <<< (16 + i.val) : W32) } }) ∧
      (s.getF (R.mboxState i) = 0 → t.mbox.inDoorbell.getLsbD (16 + i.val) = false ∧ t.mbox.order = s.mbox.order ∧
        Frame (fun c => c = .mbox) s t)) ∧
  (∀ (s : State) (i : Nat), i < 16 → (s.complete i).getF (R.mboxState i) = 0 ∧
    (s.complete i).mbox.inDoorbell.getLsbD i = false ∧ (s.complete i).mbox.inDoorbell.getLsbD (16 + i) = false) ∧
  (∀ (s : State) (i : Fin 16), s.barOpen = true → s.fwRuns = false →
    exec (.mboxAbort i) s =
      .next { s with mbox := { s.mbox with inDoorbell := s.mbox.inDoorbell ||| (1 <<< (16 + i.val) : W32) } }) ∧
  (∀ (s u : State) (p : Fin 19) (m : CtlMsg) (i : Fin 16), s.takeCtl p 0x03 = some (m, u) → u.isHere m = true →
    wget (m.payload.headD 0) 0 5 = 16 + i.val → wget (m.payload.headD 0) 5 2 = 0 →
    exec (.doorbellRx p) s = .next (u.abortBit i) ∧ (u.fwRuns = true ∨ u.barOpen = true → exec (.mboxAbort i) u = .next (u.abortBit i)))

/-- Mailboxes (R361-R376, R386): the host, or own firmware, writes only an EMPTY mailbox, and the host reads any, its words as they stand where
they read undamaged; a post and an accepted MBOX_MSG, whose bytes are stored, enter the posting order with their stamp, and one that meets a held
mailbox counts as a collision, leaves the message held and is answered BUSY; a message for another node is passed on, or answered NO_ROUTE;
firmware takes the message next in order, or one that a reset has left TAKEN (assumption 176), judges it before it acts, and takes no other
meanwhile; a poisoned code word of its RAM restarts it. The order of the checks of a message for another node and of those for no known one,
what a hop does with poisoned words, and that stopped firmware owes its answer are the model's readings (assumptions 154, 89 and 151). A
write, post, lock access or abort of a sender that does not reach the registers, and any other command whose conditions fail, does nothing
(assumption 3). -/
def Obligations.MailboxesHoldPostAndGiveMessages : Prop :=
  (∀ (s : State) (i : Fin 16) (o : Fin 256) (d : MboxData), s.senderOk d.who = true →
    (d.who = .host → s.accessOk ⟨false, true, 0x100 * i.val + o.val, d.bytes.length, false⟩ = true) → o.val + d.bytes.length ≤ 256 →
    (s.getF (R.mboxState i) = 0 → exec (.mboxWrite i o d) s = .next (s.putBytes 4 (0x100 * i.val + o.val) d.bytes)) ∧
    (s.getF (R.mboxState i) ≠ 0 → ∃ t, exec (.mboxWrite i o d) s = .next t ∧
      t.getF R.mboxCollision = min (s.getF R.mboxCollision + 1) 65535 ∧ Frame (fun c => c = .reg 0xA084) s t)) ∧
  (∀ (s : State) (i : Fin 16) (o : Fin 256) (d : List Byte), s.barOpen = true →
    s.accessOk ⟨false, true, 0x100 * i.val + o.val, d.length, false⟩ = false → ∃ t, exec (.mboxWrite i o ⟨.host, d⟩) s = .next t ∧
      t.getF R.barAccessErr = min (s.getF R.barAccessErr + 1) 65535 ∧ Frame (fun c => c = .reg 0x0) s t) ∧
  (∀ (s : State) (i : Fin 16) (o : Fin 256) (d : MboxData), s.senderOk d.who = false → exec (.mboxWrite i o d) s = .next s ∧
    exec (.mboxPost i d.who) s = .next s ∧ exec (.lockRead i d.who) s = .next s) ∧
  (∀ (s : State) (i : Fin 16) (v : BitVec 32), s.barOpen = false → s.fwRuns = false →
    exec (.lockWrite i v) s = .next s ∧ exec (.mboxAbort i) s = .next s) ∧
  (∀ (s : State) (out : Bool) (i : Fin 16) (o : Fin 256) (n : Nat), s.barOpen = true →
    let a := (if out then 0x1000 else 0) + 0x100 * i.val + o.val
    s.accessOk ⟨false, false, a, n, false⟩ = true →
    ((∀ k, k < n → s.soundCw 4 ((a + k) / 16)) → exec (.mailboxRead out i o n []) s =
      .next { s with out := .barRead ((List.range n).map fun k =>
        BitVec.ofNat 8 ((cwData (s.raw 4 ((a + k) / 16))).toNat / 2 ^ (8 * ((a + k) % 16)))) (List.replicate n false) :: s.out }) ∧
    ∃ t d q, exec (.mailboxRead out i o n []) s = .next t ∧ t.out.head? = some (.barRead d q) ∧ d.length = n ∧ q.length = n ∧
      Frame (memParts 4) s t) ∧
  (∀ (s : State) (i : Fin 16) (who : Sender), s.senderOk who = true →
    (s.mbox.inDoorbell.getLsbD i = true → ∃ t, exec (.mboxPost i who) s = .next t ∧
      t.getF R.mboxCollision = min (s.getF R.mboxCollision + 1) 65535 ∧ Frame (fun c => c = .reg 0xA084) s t) ∧
    (s.mbox.inDoorbell.getLsbD i = false → ∃ t, exec (.mboxPost i who) s = .next t ∧ t.mbox.order = s.mbox.order ++ [i.val] ∧
      t.mbox.inDoorbell.getLsbD i = true ∧ t.getF (R.mboxState i) = 1 ∧ t.getF (R.mboxStamp i) = (s.senderStamp who).toNat ∧
      Frame (fun c => c = .mbox ∨ c = .reg (0xA000 + 4 * i.val) ∨ c = .reg (0xA040 + 4 * i.val)) s t)) ∧
  (∀ (s u : State) (p : Fin 19) (m : CtlMsg) (q : Nat), s.takeCtl p 0x01 = some (m, u) → u.isHere m = false →
    u.route m.target.toNat = .port q → exec (.mboxMsgRx p) s = .next (u.sendMsg q m)) ∧
  (∀ (s u : State) (p : Fin 19) (m : CtlMsg), s.takeCtl p 0x01 = some (m, u) →
    let i := wget (m.payload.headD 0) 0 4
    let bytes := bytesAt (wordsBytes (m.payload.drop 1)) 0 (min 256 (wget (m.payload.headD 0) 4 9))
    (u.isHere m = false → (∀ q, u.route m.target.toNat ≠ .port q) → s.fwRuns = true →
      exec (.mboxMsgRx p) s = .next (u.replyTo i m.stamp (leAt bytes 0 2) (leAt bytes 2 2) 6 [])) ∧
    (u.isHere m = true → s.getF (R.mboxState i) = 0 → m.bad = [] →
      exec (.mboxMsgRx p) s = .next ((u.putBytes 4 (0x100 * i) bytes).postIn i m.stamp (some p.val))) ∧
    (u.isHere m = true → s.getF (R.mboxState i) ≠ 0 →
      let v := (u.inc R.mboxCollision).setF R.collideStamp m.stamp.toNat
      (s.fwRuns = true → exec (.mboxMsgRx p) s = .next (v.replyTo i m.stamp (leAt bytes 0 2) (leAt bytes 2 2) 1 [])) ∧
      (s.fwRuns = false → exec (.mboxMsgRx p) s =
        .next { v with mbox := { v.mbox with owed := v.mbox.owed ++ [(i, m.stamp, leAt bytes 0 2, leAt bytes 2 2, 1)] } }))) ∧
  (∀ (s u : State) (p : Fin 19) (m : CtlMsg), s.takeCtl p 0x01 = some (m, u) → u.isHere m = true →
    let i := wget (m.payload.headD 0) 0 4
    ∃ t, exec (.mboxMsgRx p) s = .next t ∧
      (s.getF (R.mboxState i) = 0 → t.mbox.order = s.mbox.order ++ [i] ∧ t.getF (R.mboxState i) = 1 ∧
        t.getF (R.mboxStamp i) = m.stamp.toNat ∧ Tab.get none t.mbox.arrival i = some p.val) ∧
      (s.getF (R.mboxState i) ≠ 0 → t.mbox.order = s.mbox.order ∧ t.getF (R.mboxState i) = s.getF (R.mboxState i) ∧
        t.getF (R.mboxStamp i) = s.getF (R.mboxStamp i) ∧ t.getF R.mboxCollision = min (s.getF R.mboxCollision + 1) 65535 ∧
        t.getF R.collideStamp = m.stamp.toNat)) ∧
  (∀ (s u : State) (i : Nat) (r : Option (Msg × List Nat)), s.fwRuns = true → s.fw.cur = none → s.fw.waits = [] →
    s.mbox.inDoorbell >>> 16 = 0 → s.nextPosted = some i → i < 16 → (s.markTaken i).readMsg i = (r, u) →
    (r = none → exec (.fwTakeMessage [] []) s =
      .next ((u.replyTo i (BitVec.ofNat 32 (s.getF (R.mboxStamp i))) 0 0 7 []).complete i)) ∧
    ∀ (m : Msg) (bad : List Nat), r = some (m, bad) →
      (u.route m.target.toNat = .own → bad = [] →
        (knownOpcode m.opcode.toNat = true → m.length ≤ 248 →
          ∃ t, exec (.fwTakeMessage [] []) s = .next t ∧ t.fw.cur = some m ∧ t.getF (R.mboxState i) = 2) ∧
        (248 < m.length → exec (.fwTakeMessage [] []) s = .next (u.answer m 5 [])) ∧
        (knownOpcode m.opcode.toNat = false → m.length ≤ 248 → exec (.fwTakeMessage [] []) s = .next (u.answer m 3 []))) ∧
      (u.route m.target.toNat = .own → bad ≠ [] → isImageOp m = false ∨ (∃ j ∈ bad, j < 5) →
        exec (.fwTakeMessage [] []) s = .next (u.answer m 7 [])) ∧
      (∀ q, u.route m.target.toNat = .port q →
        let buffer := u.isRoot = true ∧ stampClass m.stamp = 1 ∧ isImageOp m = true ∧ 16 ≤ m.length ∧ m.hostForm = true
        (¬ buffer → exec (.fwTakeMessage [] []) s = .next (u.forward m.mbox q m.stamp (msgBytes m) bad)) ∧
        (buffer → bad = [] → exec (.fwTakeMessage [] []) s = .next (u.drawn.startHostRead (u.legalChunk m))) ∧
        (buffer → bad ≠ [] → exec (.fwTakeMessage [] []) s = .next (u.answer m 7 []))) ∧
      (u.route m.target.toNat = .noRoute →
        (bad ≠ [] → exec (.fwTakeMessage [] []) s = .next (u.answer m 7 [])) ∧
        (bad = [] → 248 < m.length ∨ m.length < argSize m → exec (.fwTakeMessage [] []) s = .next (u.answer m 5 [])) ∧
        (bad = [] → m.length ≤ 248 → argSize m ≤ m.length → exec (.fwTakeMessage [] []) s = .next (u.answer m 6 [])))) ∧
  (∀ (s u : State) (l : List (BitVec 152)) (ram : List (Nat × BitVec 152)), s.fwRuns = true → s.fw.cur = none → s.fw.waits = [] →
    s.readRam ram = (true, u) → exec (.fwTakeMessage l ram) s = .next { u with fw := { u.fw with restart := some 4 } }) ∧
  (∀ (s : State) (l : List (BitVec 152)) (ram : List (Nat × BitVec 152)), s.fwRuns = false ∨ s.fw.cur ≠ none →
    exec (.fwTakeMessage l ram) s = .next s)

/-- Doorbells, replies, hops and host buffers (R344, R365, R369, R372-R376, R388, R398). A DOORBELL that clears lets the hop of its port and bit
release its lock at the next node; SET of a POST bit only counts PROTO_ERR. A free lock at the next node lets a hop send its message; one held
by another sender is read again; one that comes for no hop is freed (assumption 170). A reply to an earlier INCARNATION counts as stale, one
with a poisoned stamp restarts firmware, and one that was relayed answers the message that asked for it; each waits while firmware is stopped.
A host-buffer read that fails ends its command with POISONED or INTEGRITY and forwards nothing further; its bytes join the stream while more is
to come, and the last stage the image. How a buffer is asked for, the STATUS of a poisoned word, and the restart by a poisoned reply are the
model's readings (assumptions 88, 144 and 134). A message that is not there does nothing (assumption 3). -/
def Obligations.RepliesHopsAndHostReadsContinue : Prop :=
  (∀ (s u : State) (p : Fin 19) (m : CtlMsg), s.takeCtl p 0x03 = some (m, u) → s.fwRuns = true →
    let bit := wget (m.payload.headD 0) 0 5
    let op := wget (m.payload.headD 0) 5 2
    (s.isHere m = false → ∀ q, u.route m.target.toNat = .port q → exec (.doorbellRx p) s = .next (u.sendMsg q m)) ∧
    (s.isHere m = true → op = 0 → bit < 16 → ∃ t, exec (.doorbellRx p) s = .next t ∧
      t.getF (R.protoErr p) = min (s.getF (R.protoErr p) + 1) 65535 ∧ t.mbox = s.mbox) ∧
    (s.isHere m = true → 1 < op → exec (.doorbellRx p) s = .next u) ∧
    (s.isHere m = true → op = 1 → ∀ h : Hop, s.mbox.hops = [h] → h.port = p.val → h.mbox = bit → h.st = .acked ∨ h.st = .sent →
      ∃ t, exec (.doorbellRx p) s = .next t ∧ t.mbox.hops = (if h.st = .acked then [] else [{ h with st := .release }]) ∧
        lockMsg 0x05 0xFFF (s.portStamp p) bit (s.portStamp p) ∈ (t.port p).ctlQueue ∧
        Frame (fun c => c = .mbox ∨ c = .port p ∨ c = .out) s t) ∧
    (s.isHere m = true → op = 1 → s.mbox.hops = [] → exec (.doorbellRx p) s = .next u)) ∧
  (∀ (s : State) (p : Fin 19) (k : BitVec 8), (∀ m ∈ (s.port p).ctlIn, m.mtype ≠ k) →
    (k = 0x01 → exec (.mboxMsgRx p) s = .next s) ∧ (k = 0x02 → exec (.mboxReplyRx p) s = .next s) ∧
    (k = 0x03 → exec (.doorbellRx p) s = .next s) ∧ (k = 0x04 → exec (.lockReadRx p) s = .next s) ∧
    (k = 0x05 → exec (.lockWriteRx p) s = .next s) ∧ (k = 0x06 → exec (.lockResultRx p) s = .next s)) ∧
  (∀ (s u : State) (p : Fin 19) (m : CtlMsg), s.takeCtl p 0x06 = some (m, u) → s.fwRuns = true →
    let lock := wget (m.payload.headD 0) 0 4
    let value := BitVec.ofNat 32 (wget (m.payload.headD 0) 32 32)
    (s.isHere m = false → ∀ q, u.route m.target.toNat = .port q → exec (.lockResultRx p) s = .next (u.sendMsg q m)) ∧
    (s.isHere m = true → value = 0 → (∀ h ∈ s.mbox.hops, h.port ≠ p.val ∨ h.st ≠ .lockWait) →
      exec (.lockResultRx p) s = .next (u.sendMsg p (lockMsg 0x05 0xFFF (s.portStamp p) lock (s.portStamp p)))) ∧
    ∀ h : Hop, s.mbox.hops = [h] → h.port = p.val → h.mbox = lock → h.st = .lockWait → s.isHere m = true →
      (value = 0 → ∃ t, exec (.lockResultRx p) s = .next t ∧ t.mbox.hops = [{ h with st := .sent }] ∧ hopMsg h ∈ (t.port p).ctlQueue ∧
        Frame (fun c => c = .mbox ∨ c = .port p ∨ c = .out) s t) ∧
      (value ≠ 0 → value &&& 0xFFFFF00F ≠ s.portStamp p &&& 0xFFFFF00F →
        exec (.lockResultRx p) s = .next (u.sendMsg p (lockMsg 0x04 0xFFF (s.portStamp p) lock 0)))) ∧
  (∀ (s : State) (p : Fin 19), s.fwRuns = false → exec (.mboxReplyRx p) s = .next s ∧
    ((∀ m ∈ (s.port p).ctlIn, s.isHere m = true) → exec (.lockResultRx p) s = .next s)) ∧
  (∀ (s u : State) (p : Fin 19) (m : CtlMsg), s.takeCtl p 0x02 = some (m, u) → s.fwRuns = true →
    (s.isHere m = false → ∀ q, u.route m.target.toNat = .port q → exec (.mboxReplyRx p) s = .next (u.sendMsg q m)) ∧
    (s.isHere m = true → 1 ∈ m.bad → ∃ t, exec (.mboxReplyRx p) s = .next t ∧ t.fw.restart = some 4 ∧
      t.getF (R.poisonRead 3) = min (s.getF (R.poisonRead 3) + 1) 65535) ∧
    (s.isHere m = true → 1 ∉ m.bad → fget (BitVec.ofNat 32 (wget (m.payload.headD 0) 0 32)) 4 8 ≠ s.node.incarnation.toNat →
      ∃ t, exec (.mboxReplyRx p) s = .next t ∧ t.getF R.replyStale = min (s.getF R.replyStale + 1) 65535 ∧
        Frame (fun c => c = .reg 0xA088 ∨ c = .port p ∨ c = .out) s t) ∧
    ∀ (a : Ask) (q : Msg), s.isHere m = true → m.bad = [] →
      fget (BitVec.ofNat 32 (wget (m.payload.headD 0) 0 32)) 4 8 = s.node.incarnation.toNat →
      let bytes := bytesAt (wordsBytes (m.payload.drop 1)) 0 (wget (m.payload.headD 0) 36 9)
      s.fw.enum.ask = none → s.fw.relay = some a → a.tag.toNat = leAt bytes 2 2 → s.fw.waits = [(q, .relay)] → q.mbox < 16 →
      ∃ v : State, exec (.mboxReplyRx p) s = .next (v.answer q (leAt bytes 6 2) (if leAt bytes 6 2 = 0 then bytesAt bytes 8 7 else [])) ∧
        v.fw.relay = none ∧ v.fw.waits = [] ∧ v.fw.reply = some bytes) ∧
  (∀ (s : State) (i : Fin 16) (m : Msg) (got : Nat) (rest d : List Byte) (q : List (Nat × Nat)), s.fwRuns = true →
    s.fw.waits = [(m, .hostRead got rest q)] → m.mbox = i.val →
    let ends (e : Res) (status : Nat) : Prop := ∃ v : State, e = .next (v.answer m status []) ∧ v.fw.waits = [] ∧
      (s.route m.target.toNat = .own → v.xfer (imageKind m.opcode) = none) ∧
      (s.route m.target.toNat ≠ .own → ∀ h ∈ v.mbox.hops, h.mbox = m.mbox → h.stamp = m.stamp → h.st ≠ .lockWait)
    ends (exec (.hostReadCompletion .poisoned ⟨i, d⟩) s) 7 ∧ ends (exec (.hostReadCompletion .unsupportedRequest ⟨i, d⟩) s) 5 ∧
    ends (exec (.hostReadCompletion .completerAbort ⟨i, d⟩) s) 5 ∧ (q ≠ [] → ends (exec .completionTimeout s) 5)) ∧
  (∀ (s : State) (i : Fin 16) (m : Msg) (got : Nat) (d : List Byte) (x : Xfer) (q : List (Nat × Nat)), s.fwRuns = true →
    s.fw.waits = [(m, .hostRead got [] q)] → m.mbox = i.val → q.length ≤ 256 →
    s.route m.target.toNat = .own → m.opcode = 0xA00 → s.fw.patch = some x → 0 < d.length →
    (got + d.length < m.bytesField →
      streamBad (decodeStream true ((x.stream ++ d).map fun b => (b, false))) false = false →
      ∃ t l q', exec (.hostReadCompletion .success ⟨i, d⟩) s = .next t ∧ t.fw.patch = some { x with stream := x.stream ++ d } ∧
        t.fw.waits = [(m, .hostRead (got + d.length) [] q')] ∧ q'.length ≤ 256 ∧ t.out = l ++ s.out ∧
        (∀ y ∈ l, ∃ a n, y = .hostRead a n ∧ 0 < n ∧ n ≤ s.maxReadRequest ∧ a / 4096 = (a + n - 1) / 4096 ∧
          m.addrField + (got + d.length) ≤ a ∧ a + n ≤ m.addrField + m.bytesField) ∧
        (requestsLeft d.length q = [] → l.getLast? = some (.hostRead (m.addrField + (got + d.length))
          (min (min (m.bytesField - (got + d.length)) s.maxReadRequest) (4096 - (m.addrField + (got + d.length)) % 4096))))) ∧
    (got + d.length = m.bytesField → m.isLast = true →
      let whole := decodeStream true ((x.stream ++ d).map fun b => (b, false))
      streamBad whole true = false → ∃ t, exec (.hostReadCompletion .success ⟨i, d⟩) s = .next t ∧ t.fw.patch = none ∧
        t.fw.stagedPatch = some (whole.out.map Prod.fst) ∧ t.fw.waits = [] ∧ t.getF (R.mboxState m.mbox) = 0))

/-- Self-test (R312, R411, R480-R485, R491): a logic BIST of a partition that may be tested begins with that partition's effect and waits, a
port in MISMATCH staying there (R267); its end leaves the partition's state as after reset (assumption 109), shows the signature and PASS and
answers; a memory BIST that is accepted begins, one that meets the idle test waits and is judged when that ends (assumption 108), another is
REFUSED; its end leaves the group all zero, shows the symbols that the mismatch vectors name and the address of the first read that found one
(0 where none did, assumption 175), and answers; the idle test takes an empty bank of a standby's pool out of allocation and gives it back, and
its failure stays in the health word (assumption 146). The end of a test that does not run does nothing (assumption 3). -/
def Obligations.SelfTestsBeginAndEnd : Prop :=
  (∀ (s : State) (m : Msg), Taken s 0x900 1 statesUS m →
    (9 < m.byte 0 ∨ (m.byte 0 = 5 ∧ s.isRoot = true) → exec .bistLogic s = .next (s.begun.answer m 4 [])) ∧
    (m.byte 0 ≤ 9 → m.byte 0 ≠ 5 ∨ s.isRoot = false →
      ∃ t, exec .bistLogic s = .next t ∧ t.test.logic = some (BitVec.ofNat 8 (m.byte 0)) ∧ (m, .bistLogic) ∈ t.fw.waits ∧
        (m.byte 0 = 4 → ∀ p, p < 19 → t.getF (R.lstate p) =
          (if s.portEnabled p = true ∧ s.getF (R.lstate p) ≠ 6 then 1 else s.getF (R.lstate p))) ∧
        (m.byte 0 = 8 → ∀ r, r < 8 → t.regionState r =
          (if s.regionState r = 0 ∨ s.regionState r = 5 then s.regionState r else 1)) ∧
        (m.byte 0 = 9 → ∀ c, c < 2 → (t.conv c).started = false) ∧
        (m.byte 0 ≠ 4 → m.byte 0 ≠ 8 → m.byte 0 ≠ 9 → Frame (fun c => c = .test ∨ c = .fw) s t))) ∧
  (∀ (s : State) (sig : BitVec 32) (x : Xfail), s.test.logic = none → exec (.bistLogicDone sig x) s = .next s) ∧
  (∀ (s : State) (b : BitVec 8) (sig : BitVec 32) (x : Xfail) (m : Msg), s.test.logic = some b → b.toNat ≤ 9 →
    s.fw.waits = [(m, .bistLogic)] → m.mbox < 16 →
    let ok : Bool := sig = lbistTable.getD b.toNat 0 && (b.toNat ≠ 8 || (x.count = 0 && !x.other))
    ∃ t, exec (.bistLogicDone sig x) s = .next t ∧ t.test.logic = none ∧ t.getF R.lbistPartition = b.toNat ∧
      t.getF R.lbistPass = boolNat ok ∧ t.getF R.lbistSig = sig.toNat ∧
      t.getF R.bistFail.flag = (if ok then s.getF R.bistFail.flag else 1) ∧ t.fw.waits = [] ∧ t.getF (R.mboxState m.mbox) = 0 ∧
      (b = 0 → t.pool.ctxs = [] ∧ t.pool.asms = [] ∧ t.pool.toComplete = []) ∧
      (b = 2 ∨ b = 3 → t.pool.rawRem = 0 ∧ t.pool.outRem = 0) ∧
      (b = 6 → (∀ i, t.pid i = {}) ∧ t.loop.telFifo = []) ∧
      (b = 7 → ∀ c, (t.cell c).derand = [] ∧ (t.block c).head = none ∧ (t.block c).edges = []) ∧
      (b = 8 → ∀ r, r < 8 → (t.region r).goodRun = 0 ∧ (t.region r).badRun = 0) ∧
      (b = 9 → t.hk.fifo = [] ∧ (∀ c, t.conv c = {}) ∧ ∀ n, (t.sxp n).conv = 0 ∧ (t.sxp n).next = none)) ∧
  (∀ (s : State) (m : Msg), Taken s 0x901 2 statesUCRS m →
    (s.test.mem ≠ none → exec .bistMem s =
      .next { s with fw := { s.fw with cur := none, waits := s.fw.waits ++ [(m, .bistIdle)] } }) ∧
    (s.test.mem = none → s.bistAccepts (m.byte 0) (m.byte 1) = false → exec .bistMem s = .next (s.begun.answer m 4 [])) ∧
    (s.test.mem = none → s.bistAccepts (m.byte 0) (m.byte 1) = true →
      ∃ t, exec .bistMem s = .next t ∧ t.test.mem = some (m.byte 0, m.byte 1, false) ∧ t.getF R.mbistBusy = 1 ∧
        (m, .bistMem) ∈ t.fw.waits ∧ (m.byte 0 = 0 → t.pool.excludedBank = some (m.byte 1)) ∧
        Frame (fun c => c = .test ∨ c = .fw ∨ c = .pool ∨ c = .reg 0xD000) s t)) ∧
  (∀ (s : State) (k g : Nat) (r : MbistResult) (m : Msg), s.test.mem = some (k, g, false) → k < 3 → g < 12 →
    s.fw.waits = [(m, .bistMem)] → m.mbox < 16 →
    let symbols := r.mismatches.foldl (fun (a : BitVec 19) e => a ||| e.2) 0
    ∃ t, exec (.bistMemDone r) s = .next t ∧ t.test.mem = none ∧ t.getF R.mbistBusy = 0 ∧ t.getF R.mbistMem = k ∧
      t.getF R.mbistGroup = g ∧ t.getF R.mbistPass = boolNat (decide (symbols = 0 ∧ mbistSignature r = 0)) ∧
      t.getF R.mbistFailSymbols = symbols.toNat ∧
      (r.mismatches = [] → t.getF R.mbistAddr = 0) ∧
      (∀ e l, r.mismatches = e :: l → t.getF R.mbistAddr = 262144 * g + mbistWord e.1) ∧
      t.getF R.mbistRuns = (s.getF R.mbistRuns + 1) % 65536 ∧
      t.getF R.mbistFails = (if mbistOk r then s.getF R.mbistFails else min (s.getF R.mbistFails + 1) 65535) ∧
      (mbistOk r = false → t.getF R.bistFail.flag = 1 ∧ (s.paired = true → t.getF R.fail = 1)) ∧
      (k ≠ 0 → ∀ a, 262144 * g ≤ a → a < 262144 * g + 262144 → t.raw k a = 0) ∧ t.getF (R.mboxState m.mbox) = 0) ∧
  (∀ (i : Nat), (i < 524288 → mbistWord i = i % 262144) ∧ (524288 ≤ i → i < 1048576 → mbistWord i = 262143 - i % 262144) ∧
    mbistWord i < 262144) ∧
  (∀ (s : State) (r : MbistResult), s.test.mem = none → exec (.bistMemDone r) s = .next s ∧ exec (.bistIdleDone r) s = .next s) ∧
  (∀ (s : State) (b : Fin 12),
    let may : Bool := s.operating ∧ s.paired ∧ s.getF R.active = 0 ∧ s.cfgF C.bistIdleEn = 1 ∧ s.test.mem = none ∧ s.bankEmpty b
    (may = false → exec (.bistIdleStart b) s = .next s) ∧
    (may = true → ∃ t, exec (.bistIdleStart b) s = .next t ∧ t.test.mem = some (0, b.val, true) ∧
      t.pool.excludedBank = some b.val ∧ t.getF R.mbistBusy = 1 ∧ Frame (fun c => c = .test ∨ c = .pool ∨ c = .reg 0xD000) s t)) ∧
  (∀ (s : State) (g : Nat) (r : MbistResult), Inv s → s.test.mem = some (0, g, true) → g < 12 → s.fw.waits = [] → s.pool.held = [] →
    ∃ t, exec (.bistIdleDone r) s = .next t ∧ t.test.mem = none ∧ t.pool.excludedBank = none ∧ t.getF R.mbistBusy = 0 ∧
      (∀ a, t.raw 0 a = (if 262144 * g ≤ a ∧ a < 262144 * g + 262144 then 0 else s.raw 0 a)) ∧
      (mbistOk r = false → t.pair.bistFailed = true) ∧ t.getF R.mbistRuns = (s.getF R.mbistRuns + 1) % 65536) ∧
  (∀ (s : State) (g : Nat) (r : MbistResult) (m : Msg), s.test.mem = some (0, g, true) → s.fw.waits = [(m, .bistIdle)] →
    s.pool.held = [] → m.mbox < 16 →
    ∃ t, exec (.bistIdleDone r) s = .next t ∧
      (s.bistAccepts (m.byte 0) (m.byte 1) = true → t.test.mem = some (m.byte 0, m.byte 1, false) ∧ t.fw.waits = [(m, .bistMem)]) ∧
      (s.bistAccepts (m.byte 0) (m.byte 1) = false → t.test.mem = none ∧ t.fw.waits = [] ∧ t.getF (R.mboxState m.mbox) = 0))

/-- The test access port (R492-R495): in every state but OFF, with TRST_N high, Update-IR loads the listed code or BYPASS, takes the boundary
register and what its observe-only cells have captured; EXTEST and CLAMP drive each of the ten output pins by its boundary cells, HIGHZ releases
them, and every other instruction, as Test-Logic-Reset, in which a low TRST_N holds the port, leaves them to the function. Nothing else changes.
IDCODE captures 0x1204_85D3, EXTEST and SAMPLE/PRELOAD the pins in cells 0 to 8; TDO is driven while a register shifts, and only then. The
function drives no output before CONFIGURED (R462), and no ILK output without VDDX (R458); a period of an ILK output begins with its high time
(the model's choice, assumption 138), and what the output cells and the bypass register capture is PRESUMED (assumption 172). In OFF nothing
happens (assumption 3). -/
def Obligations.TestAccessPortTakesThePins : Prop :=
  (∀ (s : State) (ir : BitVec 8) (b : JtagScan), s.node.state ≠ .off → b.trstN = true →
    ∃ t, exec (.jtagUpdateIr ir b) s = .next t ∧ t.test.ir = (if jtagListed ir then ir else 0xFF) ∧ t.test.boundary = b.cells ∧
      t.test.pins = b.pins ∧ t.test.trstN = true ∧ Frame (fun c => c = .test) s t ∧
      (∀ k f, ir = 0x00 ∨ ir = 0x04 → t.outputPin k f =
        (if b.cells.getLsbD (10 + 2 * k) then some (b.cells.getLsbD (9 + 2 * k)) else none)) ∧
      (∀ k f, ir = 0x05 → t.outputPin k f = none) ∧
      (∀ k f, ir ≠ 0x00 → ir ≠ 0x04 → ir ≠ 0x05 → t.outputPin k f = f) ∧
      (∀ x i, ir = 0x00 ∨ ir = 0x02 → i < 9 → t.tdo (some i) x = some (b.pins.getLsbD i)) ∧
      (∀ x i, ir = 0x01 → i < 32 → t.tdo (some i) x = some ((0x120485D3 : BitVec 32).getLsbD i))) ∧
  (∀ (s : State) (ir : BitVec 8) (b : JtagScan), s.node.state ≠ .off → b.trstN = false →
    ∃ t, exec (.jtagUpdateIr ir b) s = .next t ∧ t.test.ir = 0x01 ∧ t.test.trstN = false ∧ (∀ k f, t.outputPin k f = f) ∧
      Frame (fun c => c = .test) s t) ∧
  (∀ s : State, s.node.state ≠ .off →
    ∃ t, exec .jtagTestLogicReset s = .next t ∧ t.test.ir = 0x01 ∧ (∀ k f, t.outputPin k f = f) ∧ Frame (fun c => c = .test) s t) ∧
  (∀ (s : State) (ir : BitVec 8) (b : JtagScan), s.node.state = .off →
    exec (.jtagUpdateIr ir b) s = .next s ∧ exec .jtagTestLogicReset s = .next s) ∧
  (∀ (s : State) (x : Nat), s.tdo none x = none) ∧
  (∀ (s : State) (x : Nat), s.node.state.code < 5 → (∀ k, s.functionPin k x = none) ∧ (∀ n, s.biasPin n = none)) ∧
  (∀ (s : State) (x : Nat), 5 ≤ s.node.state.code → s.functionPin 0 x = some s.pool.agg ∧
    s.functionPin 1 x = some (decide (s.node.state ≠ .safe) && s.pair.healthOut) ∧
    (∀ n, n < 8 → s.functionPin (2 + n) x = if s.getF (R.ilkCode n) = 7 ∨ s.node.vddx = false then none else
      some (decide (x % (s.sxp n).period < (s.sxp n).high))) ∧
    (∀ n, s.biasPin n = if s.node.state = .safe ∧ s.node.committed = false then none else some (Tab.get 0 s.loop.biasCode n)))

/-- Rings (R347-R353, R360): enabling a ring sets HEAD to TAIL and counts its write-backs anew, disabling it in the middle of an item
begins the item again; a write of TAIL is taken; the DMA engine writes an item from HEAD on as far as FREE allows, passes HEAD over it and
frees it once the last word is written, and sets FULL where it can write none; a write-back and its signal follow. What R360 calls
unpredictable stops nothing: such a ring's FREE test, places and words are free values, and the statement of what lands where is for the
other rings (assumptions 12 and 148). FULL's one setting for each wait, an item kept waiting in its ring, and vectors masked as PCI Express
has it are the model's readings (assumptions 87, 147 and 149). With the ring disabled, the host closed or partition 0 under test nothing is written (assumption 3). -/
def Obligations.RingsTakeItemsAndSignal : Prop :=
  (∀ (s : State) (n : Fin 8) (v : BitVec 32), s.barOpen = true →
    ∃ t, exec (.ringEnable n v) s = .next t ∧ t.bar0 (ringOff n 0x10) = v &&& 0x3FFFF ∧
      (v.getLsbD 0 = true → s.ringEn n = false → t.ringHead n = (s.bar0 (ringOff n 0x18)).toNat ∧
        Tab.get 0 t.host.wbCount n = 0 ∧ Tab.get false t.host.wbDue n = false ∧
        Frame (fun c => c = .host ∨ c = .bar0 (ringOff n 0x10) ∨ c = .bar0 (ringOff n 0x14)) s t) ∧
      (v.getLsbD 0 = s.ringEn n → Frame (fun c => c = .host ∨ c = .bar0 (ringOff n 0x10)) s t) ∧
      (v.getLsbD 0 = false → s.ringEn n = true → s.ringBusy n = true → t.ringBusy n = false ∧ t.pool.items = s.pool.items ∧
        ((s.reader .dma).ring = n → (t.reader .dma).pos = 0 ∧ (t.reader .dma).written = 0 ∧ (t.reader .dma).item = (s.reader .dma).item) ∧
        (∀ e ∈ t.pool.parked, e.2.ring = n → e.2.pos = 0 ∧ e.2.written = 0))) ∧
  (∀ (s : State) (n : Fin 8) (v : BitVec 32), s.barOpen = true →
    ∃ t, exec (.ringTailWrite n v) s = .next t ∧ t.bar0 (ringOff n 0x18) = v ∧
      Frame (fun c => c = .bar0 (ringOff n 0x18) ∨ c = .host) s t ∧
      (s.ringEn n = false ∨ s.tailBad n v = false → Frame (fun c => c = .bar0 (ringOff n 0x18)) s t) ∧
      (s.ringEn n = true → s.tailBad n v = true → t.ringLoose n = true)) ∧
  (∀ (s : State) (id : Nat) (i : Item),
    let v := s.reader .dma
    let n := v.ring
    let all := v.words.map (·.w) ++ fillWords v.words.length
    let rest := all.drop v.pos
    s.hostOpen = true → v.item = some id → s.item id = some i → v.words ≠ [] → rest ≠ [] → s.ringEn n = true → s.ringLoose n = false →
    s.ringAlone n = true → (∀ x ∈ s.pool.items, x.holder ≠ some id) → s.transfersWait = false → (s.mem 5).cells = [] →
    (8 * rest.length + v.written ≤ s.ringFree n →
      ∃ t, exec .dmaItemWrite s = .next t ∧
        t.hostMem = ringWords s.hostMem (s.ringBase n) (s.ringSize n) (s.ringHead n + v.written) rest ∧
        t.ringHead n = (s.ringHead n + (v.written + 8 * rest.length)) % s.ringSize n ∧ t.reader .dma = {} ∧ t.ringBusy n = false ∧
        Tab.get false t.host.wbDue n = true ∧ t.pool.items = s.pool.items.filter (fun x => x.id ≠ id))) ∧
  (∀ (s : State) (id : Nat),
    let v := s.reader .dma
    let n := v.ring
    s.hostOpen = true → v.item = some id → s.ringEn n = true → s.ringLoose n = false → s.transfersWait = false →
    s.ringFree n < v.written + 8 →
    ∃ t, exec .dmaItemWrite s = .next t ∧ t.ringBusy n = true ∧ t.hostMem = s.hostMem ∧
      Frame (fun c => c = .bar0 (ringOff n 0x1C)) s t ∧
      (s.ringBusy n = false → (t.bar0 (ringOff n 0x1C)).getLsbD 0 = true ∧
        fget (t.bar0 (ringOff n 0x1C)) 8 8 = (fget (s.bar0 (ringOff n 0x1C)) 8 8 + 1) % 256)) ∧
  (∀ s : State, s.hostOpen = false ∨ s.ringEn (s.reader .dma).ring = false ∨ s.transfersWait = true ∨ (s.reader .dma).item = none →
    exec .dmaItemWrite s = .next s) ∧
  (∀ (s : State) (n : Fin 8) (v : BitVec 32), s.barOpen = false →
    exec (.ringEnable n v) s = .next s ∧ exec (.ringTailWrite n v) s = .next s) ∧
  (∀ (s : State) (n : Fin 8),
    (s.hostOpen = false ∨ Tab.get false s.host.wbDue n = false → exec (.ringWriteback n) s = .next s) ∧
    (s.hostOpen = true → Tab.get false s.host.wbDue n = true →
      let count := Tab.get 0 s.host.wbCount n + 1
      ∃ t, exec (.ringWriteback n) s = .next t ∧
        (s.ringWild n = false → s.ringClash n true (s.ringWb n) = false →
          t.hostMem = Tab.set 0 s.hostMem (s.ringWb n / 8) (BitVec.ofNat 64 (s.ringHead n + count.toNat * 2 ^ 32))) ∧
        .memWrite (s.ringWb n) 8 (decide (2 ^ 32 ≤ s.ringWb n)) false ∈ t.out ∧
        Tab.get 0 t.host.wbCount n = count ∧ Tab.get false t.host.wbDue n = false ∧
        Frame (fun c => c = .hostMem ∨ c = .host ∨ c = .out ∨ c = .free) s t)) ∧
  (∀ (s : State) (n : Fin 8),
    let hold := fget (s.bar0 (ringOff n 0x10)) 8 10 * 160
    (Tab.get false s.host.holdPending n = false → exec (.msixHoldoffEnd n) s = .next s) ∧
    (Tab.get false s.host.holdPending n = true → (∀ u, Tab.get none s.host.lastSignal n = some u → u + hold ≤ s.ticks) →
      s.isRoot = true →
      ∃ t, exec (.msixHoldoffEnd n) s = .next t ∧ Tab.get false t.host.holdPending n = false ∧
        Frame (fun c => c = .host ∨ c = .out) s t ∧
        (s.hostOpen = true → s.vecMasked n = false → t.out = .msix n :: s.out ∧ Tab.get none t.host.lastSignal n = some s.ticks) ∧
        (s.hostOpen = false ∨ s.vecMasked n = true → t.out = s.out ∧ t.host.pba.getLsbD n = true ∧
          t.host.lastSignal = s.host.lastSignal)) ∧
    (∀ u, Tab.get none s.host.lastSignal n = some u → s.ticks < u + hold →
      ∃ t, exec (.msixHoldoffEnd n) s = .next t ∧ t.out = s.out ∧ t.host.lastSignal = s.host.lastSignal ∧ t.host.pba = s.host.pba))

/-- Host accesses (R16, R346, R355, R357, R358, R371): an access of a bad size, alignment or area is discarded or completes with
Unsupported Request, and counts; a poisoned write is only reported; a good read returns the registers, a good write acts by their access
codes; the aperture reads code words, as they stand where they read undamaged, and zeros for the reserved memory and beyond a memory's end; a
PTM dialog with a loaded coarse time forms the next pair, its master time corrected by the delay that the response reports (assumption 169).
The longest read of the aperture is the model's reading (assumption 86). With the BAR closed nothing happens (assumption 3). -/
def Obligations.HostAccessesActByAreaAndCode : Prop :=
  (∀ (s : State) (a : BarAccess), s.barOpen = true →
    (a.write = true → a.poisoned = true → exec (.barAccess a) s = .next { s with out := .poisonedTlp :: s.out }) ∧
    (a.write = true → a.poisoned = false → a.bar2 = true ∨ s.accessOk a = false → ∃ t, exec (.barAccess a) s = .next t ∧
      t.getF R.barAccessErr = min (s.getF R.barAccessErr + 1) 65535 ∧ Frame (fun c => c = .reg 0x0) s t) ∧
    (a.write = true → a.poisoned = false → a.bar2 = false → s.accessOk a = true → exec (.barAccess a) s = .next s) ∧
    (a.write = false → s.accessOk a = false → ∃ t, exec (.barAccess a) s = .next t ∧ t.out = .unsupported :: s.out ∧
      t.getF R.barAccessErr = min (s.getF R.barAccessErr + 1) 65535 ∧ Frame (fun c => c = .reg 0x0 ∨ c = .out) s t) ∧
    (a.write = false → s.accessOk a = true → a.bar2 = false ∨ a.offset + a.length ≤ 0x800000 → ∀ ws, s.barData a = some ws →
      ∃ t q, exec (.barAccess a) s = .next t ∧ t = { s with out := .barRead (ws.flatMap fun w => leBytes 4 w.toNat) q :: s.out } ∧
        ∀ b ∈ q, b = false) ∧
    (a.write = false → s.accessOk a = true → a.bar2 = true → ∃ t d q, exec (.barAccess a) s = .next t ∧
      t.out.head? = some (.barRead d q) ∧ d.length = a.length ∧ q.length = a.length ∧ Frame (memParts (s.getF R.diagMem)) s t)) ∧
  (∀ (s : State) (a : BarAccess), s.barOpen = false → exec (.barAccess a) s = .next s) ∧
  (∀ (s : State) (o : BitVec 16) (w : Bool) (v : BitVec 64), s.barOpen = false → exec (.registerWrite o w v) s = .next s) ∧
  (∀ (s : State) (o : BitVec 23) (n : Nat) (l : List (BitVec 152)), s.barOpen = false → exec (.apertureRead o n l) s = .next s) ∧
  (∀ (s : State) (off : BitVec 23) (n : Nat), s.barOpen = true → off.toNat % 4 = 0 → 0 < n → 4 * n ≤ s.maxPayload →
    off.toNat + 4 * n ≤ 0x800000 → s.getF R.diagMem < 3 →
    let m := s.getF R.diagMem
    let base := s.getF R.diagWin * 0x800000 + off.toNat
    (memWords m < (base + 4 * n + 15) / 16 → exec (.apertureRead off n []) s =
      .next { s with out := .barRead (List.replicate (4 * n) 0) (List.replicate (4 * n) false) :: s.out }) ∧
    ((base + 4 * n + 15) / 16 ≤ memWords m → (∀ k, k < 4 * n → s.soundCw m ((base + k) / 16)) →
      exec (.apertureRead off n []) s = .next { s with out := .barRead ((List.range (4 * n)).map fun k =>
        BitVec.ofNat 8 ((cwData (s.raw m ((base + k) / 16))).toNat / 2 ^ (8 * ((base + k) % 16)))) (List.replicate (4 * n) false) :: s.out })) ∧
  (∀ (s : State) (off : BitVec 16) (v : BitVec 64), s.barOpen = true → 0x2000 ≤ off.toNat →
    let lo := BitVec.ofNat 32 v.toNat
    (off.toNat % 4 ≠ 0 → ∃ t, exec (.registerWrite off false v) s = .next t ∧
      t.getF R.barAccessErr = min (s.getF R.barAccessErr + 1) 65535 ∧ Frame (fun c => c = .reg 0x0) s t) ∧
    (off = 0x2004 → exec (.registerWrite off false v) s =
      .next { s with mbox := { s.mbox with outDoorbell := s.mbox.outDoorbell &&& ~~~lo } }) ∧
    (off = 0x4024 → ∃ t, exec (.registerWrite off false v) s = .next t ∧ t.getF R.ptmInterval = fget lo 0 8 ∧
      Frame (fun c => c = .reg 0x24) s t) ∧
    (off = 0x4040 → ∃ t, exec (.registerWrite off false v) s = .next t ∧ t.getF R.diagMem = fget lo 0 2 ∧
      t.getF R.diagWin = fget lo 2 3 ∧ Frame (fun c => c = .reg 0x40) s t) ∧
    (0x4000 ≤ off.toNat → off.toNat < 0x4100 → off.toNat % 4 = 0 → off ≠ 0x4024 → off ≠ 0x4040 →
      exec (.registerWrite off false v) s = .next s) ∧
    (0x3000 ≤ off.toNat → off.toNat < 0x3200 → off.toNat % 0x40 = 4 ∨ off.toNat % 0x40 = 0xC →
      ∃ t, exec (.registerWrite off false v) s = .next t ∧ t.bar0 off.toNat = lo ∧
        Frame (fun c => c = .bar0 off.toNat ∨ c = .host) s t) ∧
    (0x8000 ≤ off.toNat → off.toNat < 0x8400 → off.toNat % 16 = 12 → ∃ t, exec (.registerWrite off false v) s = .next t ∧
      t.bar0 off.toNat = lo &&& 1 ∧ Frame (fun c => c = .bar0 off.toNat ∨ c = .host ∨ c = .out) s t)) ∧
  (∀ (s : State) (off : BitVec 23) (n : Nat), s.barOpen = true →
    (off.toNat % 4 ≠ 0 ∨ n = 0 ∨ s.maxPayload < 4 * n ∨ 0x800000 < off.toNat + 4 * n → ∃ t, exec (.apertureRead off n []) s = .next t ∧
      t.out = .unsupported :: s.out ∧ t.getF R.barAccessErr = min (s.getF R.barAccessErr + 1) 65535 ∧
      Frame (fun c => c = .reg 0x0 ∨ c = .out) s t) ∧
    (off.toNat % 4 = 0 → 0 < n → 4 * n ≤ s.maxPayload → off.toNat + 4 * n ≤ 0x800000 →
      (s.getF R.diagMem = 3 → exec (.apertureRead off n []) s =
        .next { s with out := .barRead (List.replicate (4 * n) 0) (List.replicate (4 * n) false) :: s.out }) ∧
      (s.getF R.diagMem < 3 → ∃ t d q, exec (.apertureRead off n []) s = .next t ∧ t.out.head? = some (.barRead d q) ∧
        d.length = 4 * n ∧ q.length = 4 * n ∧ Frame (memParts (s.getF R.diagMem)) s t))) ∧
  (∀ (s : State) (m : PtmResponse) (f : BitVec 13),
    (s.barOpen = false ∨ s.host.control.ptm = false ∨ s.loaded = false → exec (.ptmDialog m f) s = .next s) ∧
    (s.barOpen = true → s.host.control.ptm = true → s.loaded = true → ∃ t, exec (.ptmDialog m f) s = .next t ∧
      t.host.ptmMaster = m.time + BitVec.ofNat 64 m.delay.toNat ∧
      t.host.ptmStamp = mkStamp s.time.coarse f ∧ t.getF R.ptmSeq = (s.getF R.ptmSeq + 1) % 2 ^ 32 ∧
      Frame (fun c => c = .host ∨ c = .reg 0x20 ∨ c = .out) s t))

/-- Training (R264-R268): the steps in their order, each from the step before alone; a lost lane or missing alignment takes an UP port
back to step 1 with RETRAIN counted; the configuration words decide between UP and MISMATCH; a port without block lock moves down the
rate ladder. A command whose step does not stand changes nothing (log 3). LSTATE at one lane's
lock and at its loss, what of alignment is sent, what the environment tells of it, and P before NODE_IDs are the model's readings (logs 52, 53,
133 and 57). -/
def Obligations.LinkTrainsStepByStep : Prop :=
  (∀ (s : State) (p : Fin 19) (l : Fin 2), s.getF (R.lstate p) = 1 ∨ s.getF (R.lstate p) = 2 →
    ∃ t, exec (.linkBlockLock p l) s = .next t ∧ t.getF (R.lstate p) = 2 ∧ (t.port p).lock.getLsbD l = true ∧
      t.out = .linkWord p l (s.trainA p l 1) :: s.out ∧
      Frame (fun c => c = .port p ∨ c = .reg (0x6000 + 0x10 * p.val) ∨ c = .out) s t) ∧
  (∀ (s : State) (p : Fin 19) (l : Fin 2), s.getF (R.lstate p) = 0 ∨ s.getF (R.lstate p) = 6 → exec (.linkBlockLock p l) s = .next s) ∧
  (∀ (s : State) (p : Fin 19) (l : Fin 2), (s.port p).lock.getLsbD l = true →
    ∃ t, exec (.linkBlockLockLoss p l) s = .next t ∧ (t.port p).lock.getLsbD l = false ∧
      (s.getF (R.lstate p) = 5 → s.getF (R.rxLanes p) / 2 ^ l.val % 2 = 1 → t.getF (R.lstate p) = 1 ∧
        t.getF (R.retrain p).flag = 1 ∧ t.getF (R.retrain p).occ = (s.getF (R.retrain p).occ + 1) % 256) ∧
      (s.getF (R.lstate p) = 5 → s.getF (R.rxLanes p) / 2 ^ l.val % 2 = 0 → t.getF (R.lstate p) = 5) ∧
      (s.getF (R.lstate p) = 3 ∨ s.getF (R.lstate p) = 4 → s.getF (R.rxLanes p) / 2 ^ l.val % 2 = 1 → t.getF (R.lstate p) = 1)) ∧
  (∀ (s : State) (p : Fin 19) (found : List Word),
    (s.getF (R.lstate p) ≠ 5 → ∃ t, exec (.alignmentMissing p found) s = .next t ∧ (found = [] → t = s) ∧
      Frame (fun c => c = .reg (0x6004 + 0x10 * p.val) ∨ c = .reg (0x6008 + 0x10 * p.val)) s t) ∧
    (s.getF (R.lstate p) = 5 → ∃ t, exec (.alignmentMissing p found) s = .next t ∧ t.getF (R.lstate p) = 1 ∧
      t.getF (R.retrain p).flag = 1 ∧ t.getF (R.retrain p).occ = (s.getF (R.retrain p).occ + 1) % 256 ∧ (t.port p).lock = 0)) ∧
  (∀ (s : State) (p : Fin 19), (s.getF (R.lstate p) ≠ 3 → s.getF (R.lstate p) ≠ 5 → exec (.alignWordTx p) s = .next s) ∧
    (s.getF (R.lstate p) = 3 ∨ s.getF (R.lstate p) = 5 → let desk := decide (s.getF (R.lstate p) = 3)
      ∃ t, exec (.alignWordTx p) s = .next t ∧ (t.port p).aseq = (s.port p).aseq + 1 ∧
      t.out = .linkWord p 1 (alignWord 1 desk (s.port p).aseq) :: .linkWord p 0 (alignWord 0 desk (s.port p).aseq) :: s.out ∧
      Frame (fun c => c = .port p ∨ c = .out) s t)) ∧
  (∀ (s : State) (p : Fin 19) (l : Fin 2), s.getF (R.lstate p) = 2 → (s.port p).lock.getLsbD l = true →
    ∃ t, exec (.linkLaneReady p l) s = .next t ∧ (t.port p).ready = (s.port p).ready ||| (1 <<< l.val : BitVec 2) ∧
      t.getF (R.lstate p) = (if (s.port p).ready ||| (1 <<< l.val : BitVec 2) = 3 then 3 else 2) ∧
      Frame (fun c => c = .port p ∨ c = .reg (0x6000 + 0x10 * p.val)) s t) ∧
  (∀ (s : State) (p : Fin 19), s.getF (R.lstate p) = 2 → (s.port p).waiting = true →
    ∃ t, exec (.linkLaneWaitExpiry p) s = .next t ∧ t.getF (R.lstate p) = 3 ∧ t.getF (R.rxLanes p) = (s.port p).ready.toNat ∧
      (t.port p).aseq = 0 ∧ Frame (fun c => c = .port p ∨ c = .reg (0x6000 + 0x10 * p.val)) s t) ∧
  (∀ (s : State) (p : Fin 19) (lead : Nat), (s.getF (R.lstate p) ≠ 3 → exec (.linkDeskewDone p lead) s = .next s) ∧
    (s.getF (R.lstate p) = 3 → ∃ t, exec (.linkDeskewDone p lead) s = .next t ∧
      t.getF (R.lstate p) = (if s.getF (R.rxLanes p) = 3 ∧ 32 < lead then 1 else 4) ∧
      Frame (fun c => c = .reg (0x6000 + 0x10 * p.val) ∨ c = .out ∨ (c = .port p ∧ 32 < lead)) s t)) ∧
  (∀ (s : State) (p : Fin 19) (a : CfgA) (b : CfgB) (on : Bool), (s.getF (R.lstate p) ≠ 4 → exec (.linkCfgDone p a b on) s = .next s) ∧
    (s.getF (R.lstate p) = 4 → ∃ t, exec (.linkCfgDone p a b on) s = .next t ∧ (t.port p).farA = some a ∧
      (s.validPair p a = false → t.getF (R.lstate p) = 6) ∧
      (s.validPair p a = true → t.getF (R.lstate p) = 5 ∧ t.getF (R.txLanes p) = a.rxLanes.toNat ∧
        t.getF (R.resumed p) = boolNat (s.resumes p a b) ∧ (t.port p).farLastInc = some a.incarnation))) ∧
  (∀ (s : State) (p : Fin 19), s.getF (R.lstate p) = 1 → (s.port p).lock = 0 →
    ∃ t, exec (.linkDwellExpiry p) s = .next t ∧ t.getF (R.lstate p) = 1 ∧
      t.getF (R.rate p) = (if s.getF (R.rate p) = 3 then s.cfgF (C.linkRateMax p) else s.getF (R.rate p) + 1) ∧
      Frame (fun c => c = .port p ∨ c = .reg (0x6000 + 0x10 * p.val) ∨ c = .out) s t)

/-- Packets, acknowledgements and replay (R271-R278, R260): a control packet that has credit goes first; an intact packet of the expected
SEQ is accepted and acknowledged, a failed one counts CRC_ERR and draws one NAK, a repeated one only frees its units; an ACK releases
what it covers and brings credit, a NAK or a timeout begins a replay from its SEQ and counts it. On a port that is not UP, and before the
timeout, the commands do nothing (log 3); upsets in the fabric's latches are operands (log 11). An ACK at once, a packet ahead of the expected
SEQ, a NAK that acknowledges nothing, the drop of what a port does not allow, and the lane are the model's readings (logs 54, 55, 56, 59 and
133). -/
def Obligations.PacketsAreAcceptedAckedAndReplayed : Prop :=
  (∀ (s : State) (p : Fin 19) (ups : List (Nat × BitVec 64)) (m : CtlMsg) (l : List CtlMsg), s.portUp p = true →
    (s.port p).ctl.replay = [] → (s.port p).ctlQueue = m :: l → (s.port p).ctl.mayBegin 1 = true → (s.port p).ctl.unacked.length < 16 →
    ∃ t lane head load crc, exec (.packetTx ⟨p, ups⟩) s = .next t ∧ (t.port p).ctlQueue = l ∧ (t.port p).ctl.txSeq = (s.port p).ctl.txSeq + 1 ∧
      (t.port p).ctl.unacked.length = (s.port p).ctl.unacked.length + 1 ∧ t.out = .packet p lane head load crc :: s.out ∧
      load.length = m.payload.length + 1 ∧ (m.bad = [] → load = m.header :: m.payload) ∧ (s.getF (R.txLanes p) = 1 → lane = 0) ∧
      (s.getF (R.txLanes p) = 2 → lane = 1) ∧ lane < 2 ∧ Frame (fun c => c = .port p ∨ c = .out ∨ c = .free) s t) ∧
  (∀ (s : State) (p : Fin 19) (ups : List (Nat × BitVec 64)) (r : Reader) (id : Nat), s.portUp p = true → portReader p = some r →
    (s.port p).ctl.replay = [] → (s.port p).ctlQueue = [] → (s.chan p false).replay = [] → s.transfersWait = false →
    (s.reader r).item = some id → (s.reader r).words ≠ [] → (s.reader r).pos ≠ 0 ∨ r = .p ∨ s.sendsNorth = true →
    let load := takePacket 64 ((s.reader r).words.drop (s.reader r).pos)
    load ≠ [] → (s.chan p false).mayBegin load.length = true → (s.chan p false).unacked.length < 32767 →
    ∃ t lane crc, exec (.packetTx ⟨p, ups⟩) s = .next t ∧
      .packet p lane (packetHeader false ⟨(s.chan p false).txSeq, decide ((s.reader r).pos = 0),
          decide ((s.reader r).pos + load.length = (s.reader r).words.length), load, some id, 0, none⟩) ((upsetWords ups load).map fun w => if w.poison then 0xEEEEEEEEEEEEEEEE else w.w) crc ∈ t.out ∧
      ((s.reader r).pos ≠ 0 → (t.chan p false).txSeq = (s.chan p false).txSeq + 1 ∧
        (t.chan p false).unacked.length = (s.chan p false).unacked.length + 1 ∧
        Frame (fun c => c = .port p ∨ c = .pool ∨ c = .out ∨ c = .free) s t)) ∧
  (∀ (s : State) (p : Fin 19) (ups : List (Nat × BitVec 64)), s.portUp p = false → exec (.packetTx ⟨p, ups⟩) s = .next s) ∧
  (∀ (s : State) (p : Fin 19) (k : Packet), s.portUp p = true → packetIntact k = true → k.seq = (s.chan p k.control).rxSeq →
    ∃ t, exec (.packetRx p k) s = .next t ∧ (t.chan p k.control).rxSeq = k.seq + 1 ∧ (t.chan p k.control).nakSent = false ∧
      (∃ i, i < 2 ∧ t.out.head? = some (.linkWord p i (linkCtl 0 k.control (k.seq + 1) (t.chan p k.control).limit))) ∧
      (k.control = true → k.poisonMap = 0 → ctlAllowed p (parseCtl k.payload).mtype = true →
        (t.port p).ctlIn = (s.port p).ctlIn ++ [parseCtl k.payload] ∧ Frame (fun c => c = .port p ∨ c = .out ∨ c = .free) s t) ∧
      (k.control = true → k.poisonMap.getLsbD 0 = false → (parseCtl k.payload).mtype = 1 ∨ (parseCtl k.payload).mtype = 2 →
        (t.port p).ctlIn = (s.port p).ctlIn ++ [{ parseCtl k.payload with
          bad := (List.range k.payload.length).filter fun i => k.poisonMap.getLsbD i && decide (i < 32) }]) ∧
      (k.control = true → k.poisonMap = 0 → ctlAllowed p (parseCtl k.payload).mtype = false →
        (t.port p).ctlIn = (s.port p).ctlIn ∧ t.getF (R.protoErr p) = min (s.getF (R.protoErr p) + 1) 65535) ∧
      (k.control = false → p.val = 16 ∨ p.val = 17 → t.getF (R.protoErr p) = min (s.getF (R.protoErr p) + 1) 65535 ∧
        (t.port p).fifo = (s.port p).fifo) ∧
      (k.control = false → p.val < 16 ∨ p.val = 18 →
        let head : PWord := ((fifoWords' k).map (·.word)).headD ⟨0, false⟩
        let drops : Bool := if k.first then (s.arrivalDrop p head).isSome else (s.port p).rxDrop || !(s.port p).rxOpen
        (t.port p).fifo = (if drops then (s.port p).fifo else (s.port p).fifo ++ fifoWords' k) ∧
        (drops = true → (t.chan p false).limit = (s.chan p false).limit + BitVec.ofNat 16 k.payload.length) ∧
        (drops = false → (t.port p).rxOpen = !k.last ∧ (t.chan p false).limit = (s.chan p false).limit ∧
          Frame (fun c => c = .port p ∨ c = .mem 5 ∨ c = .out ∨ c = .free) s t))) ∧
  (∀ (s : State) (p : Fin 19) (k : Packet), s.portUp p = true → packetIntact k = false →
    ∃ t, exec (.packetRx p k) s = .next t ∧ t.getF (R.crcErr p) = min (s.getF (R.crcErr p) + 1) 65535 ∧
      (t.chan p k.control).rxSeq = (s.chan p k.control).rxSeq ∧ (t.chan p k.control).nakSent = true ∧
      t.out.length = s.out.length + (if (s.chan p k.control).nakSent then 0 else 1) ∧
      Frame (fun c => c = .port p ∨ c = .reg (0x6004 + 0x10 * p.val) ∨ c = .out ∨ c = .free) s t) ∧
  (∀ (s : State) (p : Fin 19) (k : Packet), s.portUp p = true → packetIntact k = true → k.seq ≠ (s.chan p k.control).rxSeq →
    32768 < ((s.chan p k.control).rxSeq - k.seq).toNat →
    ∃ t, exec (.packetRx p k) s = .next t ∧ (t.chan p k.control).rxSeq = (s.chan p k.control).rxSeq ∧
      (t.chan p k.control).nakSent = true ∧
      t.getF (R.crcErr p) = (if (s.chan p k.control).nakSent then s.getF (R.crcErr p) else min (s.getF (R.crcErr p) + 1) 65535) ∧
      t.out.length = s.out.length + (if (s.chan p k.control).nakSent then 0 else 1) ∧
      (t.port p).fifo = (s.port p).fifo ∧ (t.port p).ctlIn = (s.port p).ctlIn) ∧
  (∀ (s : State) (p : Fin 19) (k : Packet), s.portUp p = true → packetIntact k = true → k.seq ≠ (s.chan p k.control).rxSeq →
    ((s.chan p k.control).rxSeq - k.seq).toNat ≤ 32768 →
    ∃ t, exec (.packetRx p k) s = .next t ∧ (t.chan p k.control).rxSeq = (s.chan p k.control).rxSeq ∧
      (t.port p).fifo = (s.port p).fifo ∧ (t.port p).ctlIn = (s.port p).ctlIn ∧ (t.chan p k.control).nakSent = (s.chan p k.control).nakSent ∧
      (∃ i, i < 2 ∧ t.out.head? = some (.linkWord p i (linkCtl 0 k.control (s.chan p k.control).rxSeq (t.chan p k.control).limit))) ∧
      Frame (fun c => c = .port p ∨ c = .out ∨ c = .free) s t) ∧
  (∀ (s : State) (p : Fin 19) (w : Word), s.portUp p = true → wget w 60 4 = 3 → linkCrcOk w = true → wget w 58 2 = 0 →
    let control : Bool := wget w 57 1 = 1
    let seq := BitVec.ofNat 16 (wget w 40 16)
    ∃ t, exec (.linkAckRx p w) s = .next t ∧ (t.chan p control).credit = some (BitVec.ofNat 16 (wget w 24 16)) ∧
      (t.chan p control).unacked = (s.chan p control).unacked.filter (fun k => !ackedBefore seq k)) ∧
  (∀ (s : State) (p : Fin 19) (w : Word), s.getF (R.lstate p) ≠ 0 → wget w 60 4 = 3 → linkCrcOk w = false →
    ∃ t, exec (.linkAckRx p w) s = .next t ∧ t.getF (R.ctlBlockErr p) = min (s.getF (R.ctlBlockErr p) + 1) 65535 ∧
      exec (.linkNakRx p w) s = .next t ∧ Frame (fun c => c = .reg (0x6008 + 0x10 * p.val)) s t) ∧
  (∀ (s : State) (p : Fin 19) (w : Word), s.portUp p = true → wget w 60 4 = 3 → linkCrcOk w = true → wget w 58 2 = 1 →
    let control : Bool := wget w 57 1 = 1
    let seq := BitVec.ofNat 16 (wget w 40 16)
    (s.chan p control).unacked ≠ [] → (∀ k ∈ (s.chan p control).unacked, k.seq = seq → k.resent = none) →
    ∃ t, exec (.linkNakRx p w) s = .next t ∧
      (t.chan p control).replay = (s.chan p control).unacked.filter (fun k => !ackedBefore seq k) ∧
      t.getF (R.replayCnt p) = min (s.getF (R.replayCnt p) + 1) 65535 ∧ (t.port p).replays = (s.port p).replays + 1 ∧
      Frame (fun c => c = .port p ∨ c = .reg (0x6004 + 0x10 * p.val)) s t) ∧
  (∀ (s : State) (p : Fin 19), (s.portUp p = false → exec (.ackTimer p) s = .next s) ∧
    (s.portUp p = true → ∃ t i j a b, exec (.ackTimer p) s = .next t ∧ t.out = .linkWord p i a :: .linkWord p j b :: s.out ∧
      i < 2 ∧ j < 2 ∧ wget a 57 1 = 1 ∧ wget b 57 1 = 0 ∧ Frame (fun c => c = .out ∨ c = .free) s t)) ∧
  (∀ (s : State) (p : Fin 19) (control : Bool) (k : TxPkt) (l : List TxPkt), (s.chan p control).unacked = k :: l →
    (s.portUp p = true → k.sentAt + s.cfgF C.replayTimeout * 160 ≤ s.ticks → ∃ t, exec (.replayTimeout p control) s = .next t ∧
      (t.chan p control).replay = (k :: l).filter (fun x => !ackedBefore k.seq x) ∧
      t.getF (R.replayCnt p) = min (s.getF (R.replayCnt p) + 1) 65535) ∧
    (s.portUp p = false ∨ s.ticks < k.sentAt + s.cfgF C.replayTimeout * 160 → exec (.replayTimeout p control) s = .next s)) ∧
  (∀ (s : State) (p : Fin 19), ∃ t, exec (.replayWindowEnd p) s = .next t ∧ t.getF (R.replays1ms p) = min 0xFFFF (s.port p).replays ∧
    (t.port p).replays = 0)

/-- Timing markers, triggers and throttle (R65, R209, R284, R286, R288, R289): a marker leaves within the first block of a frame on
every UP south port; the first one received loads the time of a node that takes it from markers, a later one that disagrees by more than
a tick is flagged and changes no time; one over P loads the time of a member that resynchronises; a tree trigger is taken, counted or
dropped as a duplicate, and goes south; a child's throttle is recorded. Where no marker is due, and at a node that does not run, nothing
happens (log 3). That a marker leaves in the first four ticks of a frame, and when the partner's markers end, are the model's readings (logs 60
and 76). -/
def Obligations.MarkersTriggersAndThrottleTravel : Prop :=
  (∀ s : State, s.cfgF C.markerEn = 1 → s.loaded = true → s.time.coarse.toNat % 65536 < 4 →
    ∃ t, exec .timingMarkerTx s = .next t ∧ (∀ p ∈ s.southUp, .linkWord p 0 (markerWord s.time.coarse) ∈ t.out) ∧
      Frame (fun c => c = .out) s t) ∧
  (∀ s : State, s.cfgF C.markerEn = 0 ∨ s.loaded = false ∨ 4 ≤ s.time.coarse.toNat % 65536 → exec .timingMarkerTx s = .next s) ∧
  (∀ (s : State) (p : Fin 19) (w : Word), s.portUp p = true → wget w 60 4 = 5 → linkCrcOk w = true → s.isRoot = false →
    s.streamStart = true → p.val = 16 ∨ (p.val = 17 ∧ s.portUp 16 = false) →
    let v := BitVec.ofNat 48 (wget w 12 48)
    (s.loaded = false → s.running = true → s.node.stopping = false → ∃ t, exec (.timingMarkerRx p w) s = .next t ∧
      t.time.coarse = v ∧ t.time.loadPoint = mkStamp v 0 ∧ t.loaded = true ∧ t.time.firstFrame = some (frameOf v)) ∧
    (s.loaded = true → ∃ t, exec (.timingMarkerRx p w) s = .next t ∧ t.time = s.time ∧
      t.getF (R.markerMismatch p).occ = (if 1 < (s.time.coarse - v).toNat ∧ 1 < (v - s.time.coarse).toNat then
        (s.getF (R.markerMismatch p).occ + 1) % 256 else s.getF (R.markerMismatch p).occ) ∧
      Frame (fun c => c = .reg (0x6000 + 0x10 * p.val)) s t) ∧
    (s.loaded = false → s.running = false → exec (.timingMarkerRx p w) s = .next s)) ∧
  (∀ (s : State) (w : Word), s.portUp 18 = true → wget w 60 4 = 5 → linkCrcOk w = true → s.getF R.resync ≠ 0 → s.operating = true →
    s.pair.resyncStep = 3 →
    let v := BitVec.ofNat 48 (wget w 12 48) + BitVec.ofNat 48 (s.cfgF C.pairFlightTicks)
    ∃ t, exec (.timingMarkerRx 18 w) s = .next t ∧ t.time.coarse = v ∧ t.time.loadPoint = mkStamp v 0 ∧ t.loaded = true ∧
      t.pair.resyncStep = 4 ∧ t.pair.joinFrame = some (frameOf v + 2)) ∧
  (∀ (s u : State) (p : Fin 19) (m : CtlMsg), s.takeCtl p 0x10 = some (m, u) →
    let x : TreeTrig := ⟨BitVec.ofNat 32 (wget (m.payload.headD 0) 0 32), BitVec.ofNat 61 (wget (m.payload.getD 1 0) 0 61)⟩
    ∃ t, exec (.triggerRx p) s = .next t ∧
      (s.operating = false → t.getF R.treeIgnored = min (s.getF R.treeIgnored + 1) 65535 ∧ t.trig = s.trig) ∧
      (s.operating = true → x ∈ s.trig.recent → t.getF R.trigDup = min (s.getF R.trigDup + 1) 65535 ∧ t.trig = s.trig) ∧
      (s.operating = true → x ∉ s.trig.recent → t.trig.recent = (x :: s.trig.recent).take 64 ∧
        (∀ q ∈ s.southUp, m ∈ (t.port q).ctlQueue) ∧
        (s.running = false → t.getF R.treeIgnored = min (s.getF R.treeIgnored + 1) 65535 ∧ t.trig.pending = s.trig.pending) ∧
        (s.running = true → s.node.stopping = false → s.trig.pending.length < 16 → t.trig.pending = s.trig.pending ++ [x]))) ∧
  (∀ (s u : State) (p : Fin 16) (m : CtlMsg), s.takeCtl p 0x11 = some (m, u) →
    ∃ t, exec (.throttleRx (p.castLE (by decide))) s = .next t ∧ t.getF (R.southState p) = wget (m.payload.headD 0) 0 1)

/-- Grants between members and their arbiter (R302-R304, R307-R311): a member acts on the grant it received last and takes over or stands
down; both members of a child pair get the grant; a member silent for 350 us, or that reports FAIL or a storm, is declared failed and
the grant goes to the other where that one is eligible; what a partner sends is compared and kept. A GRANT at a node that is in no pair, and
a timer that is not due, change nothing (log 3). How child pairs are recognised, when FAILED clears, HB_AGE and HB_TIMEOUT before a first
heartbeat, and that GRANT_IN acts by its level are the model's readings (logs 64, 65, 67 and 71). -/
def Obligations.GrantsFollowHeartbeatsAndFailures : Prop :=
  (∀ (s u : State) (p : Fin 19) (m : CtlMsg), s.takeCtl p 0x20 = some (m, u) →
    let w := m.payload.headD 0
    (s.paired = false → exec (.grantRx p) s = .next u) ∧
    (s.paired = true → ∃ t, exec (.grantRx p) s = .next t ∧ t.pair.epoch = BitVec.ofNat 16 (wget w 16 16) ∧
      (wget w 0 2 = 3 → t.grantPos = s.grantPos ∧ t.getF R.active = s.getF R.active) ∧
      (wget w 0 2 ≠ 3 → t.grantPos = wget w 0 2 ∧ t.getF R.active = boolNat (wget w 0 2 = s.pairPos) ∧
        (wget w 0 2 = s.pairPos → s.getF R.active = 0 →
          t.getF R.switched.flag = 1 ∧ t.getF R.switched.occ = (s.getF R.switched.occ + 1) % 256)))) ∧
  (∀ s : State, ∃ t, exec .grantPeriodic s = .next t ∧ (s.isActive = false → t = s) ∧
    (s.isActive = true → ∀ p q, p < 16 → s.memberPos p = 0 → s.pairMate p = some q →
      CtlMsg.of 0x20 0xFFF (s.portStamp p) [s.grantWord p] ∈ (t.port p).ctlQueue ∧
      CtlMsg.of 0x20 0xFFF (s.portStamp q) [s.grantWord p] ∈ (t.port q).ctlQueue) ∧
    Frame (fun c => ∃ p q, p < 16 ∧ s.pairMate p = some q ∧ (c = .port p ∨ c = .port q)) s t) ∧
  (∀ (s : State) (level : Bool), ∃ t, exec (.grantInChange level) s = .next t ∧ t.pair.grantIn = level ∧
    (s.isRoot = false ∨ s.paired = false ∨ s.cfgF C.rootGrantSrc = 0 → Frame (fun c => c = .pair) s t) ∧
    (s.isRoot = true → s.paired = true → s.cfgF C.rootGrantSrc ≠ 0 →
      t.getF R.active = boolNat level ∧ t.grantPos = (if level then s.pairPos else 2))) ∧
  (∀ (s : State) (p : Fin 16),
    let late : Bool := match (s.arb p).lastHb with | some x => decide (x + 56000 ≤ s.ticks) | none => true
    (late = false ∨ s.pairMate p = none ∨ s.getF (R.arbFailed p) = 1 → exec (.hbTimeout p) s = .next s) ∧
    (∀ q, late = true → s.pairMate p = some q → q < 16 → s.memberPos q = 1 - s.memberPos p → s.getF (R.arbFailed p) = 0 → ∃ t, exec (.hbTimeout p) s = .next t ∧
      t.getF (R.arbFailed p) = 1 ∧ t.getF (R.failReason p) = 1 ∧ t.getF (R.failEvent p).flag = 1 ∧
      (s.getF (R.arbGrant p) ≠ s.memberPos p → t.getF (R.arbGrant p) = s.getF (R.arbGrant p)) ∧
      (s.getF (R.arbGrant p) = s.memberPos p →
        t.getF (R.arbGrant p) = (if s.eligible q then s.memberPos q else 2) ∧ t.getF (R.arbGrant q) = t.getF (R.arbGrant p) ∧
        t.getF (R.grantEpoch p) = (s.getF (R.grantEpoch p) + 1) % 65536 ∧
        (s.isActive = true → CtlMsg.of 0x20 0xFFF (s.portStamp q) [t.grantWord p] ∈ (t.port q).ctlQueue)))) ∧
  (∀ (s u : State) (p : Fin 19) (m : CtlMsg), p.val < 16 → (∀ q, s.pairMate p = some q → q < 16) → s.takeCtl p 0x21 = some (m, u) →
    let fails : Bool := wget (m.payload.headD 0) 18 1 = 1
    ∃ t, exec (.heartbeatRx p) s = .next t ∧ t.arb p = { s.arb p with lastHb := some s.ticks, hbFail := fails } ∧
      (fails = true → s.pairMate p ≠ none → t.getF (R.arbFailed p) = 1) ∧
      (fails = false → s.storms p = false → s.pairMate p ≠ none → t.getF (R.arbFailed p) = 0 ∧
        (s.getF (R.arbGrant p) = 2 → t.getF (R.arbGrant p) = s.memberPos p))) ∧
  (∀ (s u : State) (m : CtlMsg), s.takeCtl 18 0x21 = some (m, u) →
    let frame := BitVec.ofNat 32 (wget (m.payload.headD 0) 32 32)
    let sig := BitVec.ofNat 32 (wget (m.payload.getD 1 0) 0 32)
    ∃ t, exec (.heartbeatRx 18) s = .next t ∧ t.pair.partnerHb = some (m.payload.headD 0, m.payload.getD 1 0) ∧
      (s.pair.lastCompared = some frame → t.pair.agreeRun = s.pair.agreeRun ∧ t.getF R.sigBad = s.getF R.sigBad) ∧
      (s.pair.lastCompared ≠ some frame → t.pair.lastCompared = some frame ∧
        (s.pair.sigs.find? (fun e => e.1 = frame) = none → t.getF R.sigSkipped = min (s.getF R.sigSkipped + 1) 65535 ∧
          t.pair.agreeRun = s.pair.agreeRun) ∧
        (∀ e, s.pair.sigs.find? (fun e => e.1 = frame) = some e →
          (e.2 = sig → t.pair.sigBadRun = 0 ∧ t.pair.agreeRun = s.pair.agreeRun + 1 ∧
            (s.getF R.resync = 1 → 3 ≤ s.pair.agreeRun → t.getF R.resync = 0)) ∧
          (e.2 ≠ sig → t.pair.sigBadRun.toNat = min 255 (s.pair.sigBadRun.toNat + 1) ∧ t.pair.agreeRun = 0 ∧
            t.getF R.sigBad = min (s.getF R.sigBad + 1) 65535 ∧ t.getF R.sigMismatch.flag = 1 ∧
            t.getF R.fail = s.getF R.fail)))) ∧
  (∀ (s u : State) (p : Fin 19) (m : CtlMsg), s.takeCtl p 0x22 = some (m, u) →
    let w := m.payload.headD 0
    let storm : Bool := 64 < wget w 16 16
    ∃ t, exec (.healthRx p) s = .next t ∧ (p.val = 18 → t.pair.partnerHealth = w) ∧
      (p.val < 16 → (∀ q, s.pairMate p = some q → q < 16) → t.arb p = { s.arb p with storm := storm, hbFail := wget w 0 1 = 1 } ∧
        (storm = true → s.pairMate p ≠ none → s.getF (R.arbFailed p) = 0 →
          t.getF (R.arbFailed p) = 1 ∧ t.getF (R.failReason p) = 2) ∧
        (storm = false → wget w 0 1 = 1 → s.pairMate p ≠ none → s.getF (R.arbFailed p) = 0 →
          t.getF (R.arbFailed p) = 1 ∧ t.getF (R.failReason p) = 3)))

/-- The pair's own side (R299-R301, R310, R313-R315, R456): the heartbeat is sent when armed and never under FAIL; the health word goes to
every UP member port; a frame's signature is sealed once; a partner's image is held, or taken by the member it belongs to; the steps of a
resynchronisation follow one another; a root leaves LINKUP when its host link comes up. Where its condition fails a command changes nothing
(log 3); that an operand tells an image that the partner committed from one that it held is log 135. The value that HB_SEQ begins with, what
SIG_SEAL drops, whose image is committed when, and what RESYNC_JOIN does beside a partner that is not RUNNING are the model's readings
(logs 68, 72, 73 and 74). -/
def Obligations.MembersBeatSealAndResynchronise : Prop :=
  (∀ (s : State) (v : BitVec 32),
    (s.fwRuns = true → v.getLsbD 0 = true → exec (.hbArmWrite v) s = .next { s with pair := { s.pair with hbArmed := true } }) ∧
    (s.fwRuns = false ∨ v.getLsbD 0 = false → exec (.hbArmWrite v) s = .next s)) ∧
  (∀ s : State, (s.paired = false ∨ s.node.state.code < 3 → exec .heartbeatTick s = .next s) ∧
    (s.paired = true → 3 ≤ s.node.state.code → ∃ t, exec .heartbeatTick s = .next t ∧ t.pair.hbArmed = false ∧
      (s.getF R.fail = 1 → t.pair.healthOut = false ∧ Frame (fun c => c = .pair) s t) ∧
      (s.getF R.fail = 0 → s.pair.hbArmed = false → t.pair.healthOut = s.pair.healthOut ∧ Frame (fun c => c = .pair) s t) ∧
      (s.getF R.fail = 0 → s.pair.hbArmed = true → t.pair.healthOut = !s.pair.healthOut ∧
        t.pair.hbSeq = s.pair.hbSeq + 1 ∧ t.getF R.hbSeq = t.pair.hbSeq.toNat ∧
        (∃ w1 w2 : Word, (∀ q ∈ s.memberPorts, CtlMsg.of 0x21 0xFFF (s.portStamp q) [w1, w2] ∈ (t.port q).ctlQueue) ∧
          wget w1 0 16 = t.getF R.hbSeq ∧ wget w1 16 1 = s.pairPos ∧ wget w1 17 1 = s.getF R.active ∧ wget w1 18 1 = 0 ∧
          wget w1 19 1 = boolNat s.pairReady ∧ wget w1 32 32 = (s.pair.sigs.headD (0, 0)).1.toNat ∧
          wget w2 0 32 = (s.pair.sigs.headD (0, 0)).2.toNat ∧ wget w2 32 32 = s.outFrame.toNat) ∧
        Frame (fun c => c = .pair ∨ c = .reg 0x8 ∨ ∃ q, c = .port q ∧ q ∈ s.memberPorts) s t))) ∧
  (∀ s : State, (s.paired = false ∨ s.fwRuns = false → exec .healthSend s = .next s) ∧
    (s.paired = true → s.fwRuns = true → ∃ t, exec .healthSend s = .next t ∧ t.pair.mismatchRecent = false ∧
      (∀ q ∈ s.memberPorts, CtlMsg.of 0x22 0xFFF (s.portStamp q) [s.healthWord] ∈ (t.port q).ctlQueue) ∧
      t.getF R.healthLo = wget s.healthWord 0 32 ∧ t.getF R.healthHi = wget s.healthWord 32 32 ∧
      Frame (fun c => c = .pair ∨ c = .reg 0x10 ∨ c = .reg 0x14 ∨ c = .host ∨ c = .out ∨
        ∃ q, c = .port q ∧ q ∈ s.memberPorts) s t)) ∧
  (∀ (s : State) (f : BitVec 32),
    let due : Bool := s.paired && s.operating && reached s.time.coarse (frameTick (f + BitVec.ofNat 32 (s.cfgF C.sigDelay))) &&
      s.pair.sigs.all fun e => e.1 ≠ f
    (due = false → exec (.sigSeal f) s = .next s) ∧
    (due = true → ∃ t sig, exec (.sigSeal f) s = .next t ∧ t.pair.sigs = ((f, sig) :: s.pair.sigs).take 16 ∧
      (∀ e, s.pair.sigOpen.find? (fun e => e.1 = f) = some e → sig = e.2) ∧
      (s.pair.sigOpen.find? (fun e => e.1 = f) = none → sig = 0) ∧ Frame (fun c => c = .pair) s t)) ∧
  (∀ (s : State) (b : List Byte),
    (s.paired = false ∨ s.portUp 18 = false → ∀ own, exec (.pairImageRx own b) s = .next s) ∧
    (s.paired = true → s.portUp 18 = true →
      (∃ t, exec (.pairImageRx false b) s = .next t ∧ t.pair = { s.pair with heldImage := some b } ∧
        (s.getF R.resync ≠ 0 ∨ s.pair.resyncStep ≠ 1 → Frame (fun c => c = .pair) s t) ∧
        (s.getF R.resync = 0 → s.pair.resyncStep = 1 → t.dir = { s.dir with copying := true, copyWrites := [] } ∧
          Frame (fun c => c = .pair ∨ c = .dir) s t)) ∧
      (s.getF R.resync = 0 ∨ s.pair.resyncStep ≠ 1 → exec (.pairImageRx true b) s = .next s) ∧
      (s.getF R.resync = 1 → s.pair.resyncStep = 1 → s.node.state = .linkup →
        exec (.pairImageRx true b) s = .next { s with pair := { s.pair with ownImage := some b } }) ∧
      (s.getF R.resync = 1 → s.pair.resyncStep = 1 → s.node.state = .unconfigured →
        (imageFault b = none → imagesWhole b = true → ∃ t, exec (.pairImageRx true b) s = .next t ∧
          t.node.state = .configured ∧ (t.paired = true → t.pair.resyncStep = 2)) ∧
        ((imageFault b).isSome = true ∨ imagesWhole b = false → exec (.pairImageRx true b) s = .next s)))) ∧
  (∀ (s : State) (bankB : Bool) (l : List (Nat × Word)),
    (s.getF R.resync = 1 → s.pair.resyncStep ≠ 2 → exec (.resyncDirCopyDone bankB l) s = .next s) ∧
    (s.getF R.resync = 1 → s.pair.resyncStep = 2 → ∃ t, exec (.resyncDirCopyDone bankB l) s = .next t ∧ t.pair.resyncStep = 3 ∧
      t.getF R.dirActive = boolNat bankB ∧ t.getF R.shadowState = 0 ∧ t.getF R.swapPending = 0 ∧
      t.mem 1 = (s.writeEntries bankB 0 l).mem 1) ∧
    (s.getF R.resync = 0 → s.dir.copying = false → exec (.resyncDirCopyDone bankB l) s = .next s) ∧
    (s.getF R.resync = 0 → s.dir.copying = true →
      let again : Bool := s.getF R.swapPending = 1 || 1024 < s.dir.copyWrites.length
      ∃ t, exec (.resyncDirCopyDone bankB l) s = .next t ∧ t.dir.copying = again ∧ t.dir.copyWrites = [] ∧
        t.pair.resyncStep = (if again then s.pair.resyncStep else 2) ∧
        t.out = (if again = false ∧ s.dir.copyWrites ≠ [] then
          .dirWrites (decide (s.getF R.dirActive = 1)) s.dir.copyWrites :: s.out else s.out) ∧
        Frame (fun c => c = .dir ∨ c = .pair ∨ c = .out) s t)) ∧
  (∀ (s : State) (f : BitVec 32) (run : Bool), s.pair.joinFrame = some f →
    (s.getF R.resync = 0 ∨ s.pair.resyncStep ≠ 4 ∨ reached s.time.coarse (frameTick f) = false → exec (.resyncJoin run) s = .next s) ∧
    (s.getF R.resync = 1 → s.pair.resyncStep = 4 → reached s.time.coarse (frameTick f) = true →
      ∃ t, exec (.resyncJoin run) s = .next t ∧ t.pair.resyncStep = 5 ∧ t.pair.joinFrame = none ∧ t.time.firstFrame = some f ∧
        t.time.coarse = s.time.coarse ∧
        (run = true → s.node.state = .configured → t.node.state = .running ∧ t.time.mergeOnly = false) ∧
        (run = false ∨ s.node.state ≠ .configured → t.time.mergeOnly = true ∧ Frame (fun c => c = .pair ∨ c = .time) s t))) ∧
  (∀ s : State,
    let may : Bool := s.isRoot && decide (3 ≤ s.node.state.code) && s.node.perstN && s.getF R.refclkPresent = 1
    (may = false → exec .pcieLinkUp s = .next s) ∧
    (may = true → ∃ t, exec .pcieLinkUp s = .next t ∧ t.host.linkUp = true ∧
      (s.node.state ≠ .linkup → Frame (fun c => c = .host ∨ c = .out) s t) ∧
      (s.node.state = .linkup → t.node.nodeId = (if s.paired = true ∧ s.pairPos = 1 then 1 else 0) ∧
        (s.pair.ownImage = none → t.node.state = .unconfigured))))

/-- What stores in the pool (R32, R158, R186, R191, R193, R195, R530): an own fragment opens with its first slot or is dropped and counted;
frames close in order; the arbiter grants up to G words of the requester that the cycle reaches next; a fragment completes at the write
stage, a child's in its context; the reclaim pass frees what queue resets left. A command that is not due, and one while partition 0 is under
test, changes nothing (log 3); upsets that strike words in the fabric's latches are operands (log 11). When an own fragment opens, that frames
close strictly in order, and when a unit of several words is stored are the model's readings (logs 124, 43 and 37). -/
def Obligations.FragmentsOpenFillAndComplete : Prop :=
  (∀ (s : State) (k : MergeKey) (g : Frag), s.frag k = some g → g.opened = true → exec (.originFragmentOpen k) s = .next s) ∧
  (∀ (s : State) (ns : BitVec 2) (n : BitVec 32), s.frag (.event ns n) = none → exec (.originFragmentOpen (.event ns n)) s = .next s) ∧
  (∀ (s : State) (f : BitVec 32), s.ownFrame f = false ∨ (∃ d, s.pool.frameDone = some d ∧ olderFrame d f = false) →
    exec (.originFragmentOpen (.frame f)) s = .next s) ∧
  (∀ (s : State) (f : BitVec 32), s.ownFrame f = true → (∀ d, s.pool.frameDone = some d → olderFrame d f = true) →
    s.frag (.frame f) = none → s.merging = false → (s.mem 5).cells = [] → ∃ t g, exec (.originFragmentOpen (.frame f)) s = .next t ∧
      t.frag (.frame f) = some g ∧ (s.pool.excludedBank = none → s.transfersWait = false → g.opened = true) ∧ g.closed = false ∧ g.body = [] ∧
      (g.dropped = true → g.item = none ∧
        (s.victim 0 = none → t.getF (R.queueLost 0) = (s.getF (R.queueLost 0) + 1) % 2 ^ 32)) ∧
      (s.transfersWait = true → g.opened = false ∧ t.poolUsed = s.poolUsed) ∧
      (s.canGrow 0 = true → (s.freeInBanks 12 s.pool.bankPtr).isSome = true → s.item s.pool.nextItem = none → s.transfersWait = false →
        g.opened = true ∧ g.dropped = false ∧ g.item = some s.pool.nextItem ∧ t.poolUsed = s.poolUsed + 1) ∧
      Frame (fun c => storeParts c ∨ c = .free) s t) ∧
  (∀ (s : State) (f : BitVec 32),
    let due : Bool := s.ownFrame f && reached s.time.coarse (frameTick (f + 1) + BitVec.ofNat 48 (s.cfgF C.guard)) &&
      (match s.pool.frameDone with | some d => f = d + 1 | none => s.time.firstFrame = some f)
    (due = false → exec (.frameClose f) s = .next s) ∧
    (due = true → ∃ t g, exec (.frameClose f) s = .next t ∧ t.pool.frameDone = some f ∧ t.frag (.frame f) = some g ∧
      g.closed = true ∧ (s.pool.excludedBank = none → s.transfersWait = false → g.opened = true) ∧ Frame (fun c => queueParts c ∨ c = .free) s t)) ∧
  (∀ (s : State) (r : Fin 25) (ups : List (Nat × BitVec 64)), s.nextRequester ≠ some r.val ∨ s.transfersWait = true →
    exec (.chipGrant ⟨r, ups⟩) s = .next s) ∧
  (∀ (s : State) (r : Fin 25) (ups : List (Nat × BitVec 64)), s.nextRequester = some r.val → s.transfersWait = false →
    let g := min (16 * (1 + min 3 (s.waitingWords r / 128))) (s.waitingWords r)
    let fifo := ((s.strikePort (reqPort r) (ups.filter fun u => u.1 < g)).port (reqPort r)).fifo
    (s.mem 5).cells = [] →
    ∃ t, exec (.chipGrant ⟨r, ups⟩) s = .next t ∧ t.pool.arbPos = (r.val + 1) % 25 ∧
      (r.val ≤ 16 → ∃ k, k ≤ g ∧ (t.port (reqPort r)).fifo = fifo.drop k ∧
        (s.pool.excludedBank = none → s.test.logic ≠ some 1 →
          (∀ f ∈ fifo.take g, f.first = true → mergeKeyOf f.word = none) → k = g)) ∧
      (∀ u l, 17 ≤ r.val → Tab.get [] s.pool.regFifo (r.val - 17) = u :: l →
        (g < u.words.length - Tab.get 0 s.pool.regDone (r.val - 17) → t = { s with pool := { s.pool with
          arbPos := (r.val + 1) % 25, regDone := Tab.set 0 s.pool.regDone (r.val - 17) (Tab.get 0 s.pool.regDone (r.val - 17) + g) } }) ∧
        (u.words.length - Tab.get 0 s.pool.regDone (r.val - 17) ≤ g → l = [] → s.pool.excludedBank = none → s.test.logic ≠ some 1 →
          Tab.get [] t.pool.regFifo (r.val - 17) = [] ∧
          (∀ x i, s.merging = false → s.frag u.key = some x → x.opened = true → x.dropped = false → x.item.bind s.item = some i →
            slotsFor (headWords u.key + x.body.length + u.words.length + 1) ≤ i.slots.length →
            ∃ y, t.frag u.key = some y ∧ y.body = x.body ++ u.words ∧ y.lost = x.lost)))) ∧
  (∀ s : State, s.transfersWait = true ∨ ((s.mem 5).cells = [] ∧ s.pool.held = [] ∧ s.pool.toComplete = [] ∧
      ∀ g ∈ s.pool.frags, g.closed = false) →
    exec .writeStageComplete s = .next s) ∧
  (∀ (s : State) (g : Frag) (l : List Frag) (i : Item), s.transfersWait = false → (s.mem 5).cells = [] → s.pool.held = [] → s.merging = false →
    s.pool.toComplete = [] →
    s.pool.frags = g :: l → g.closed = true → g.opened = true → g.dropped = false → s.unitsWait g.key = false →
    g.item.bind s.item = some i →
    let ws := sealFragment { s.ownHead g with bodyWords := g.body.length } g.body
    slotsFor ws.length ≤ i.slots.length →
    ∃ t x, exec .writeStageComplete s = .next t ∧ t.frag g.key = none ∧ t.item i.id = some x ∧ x.complete = true ∧
      x.length = ws.length ∧ x.age = s.pool.nextAge ∧ x.key = some g.key ∧ Frame storeParts s t) ∧
  (∀ (s : State) (id p : Nat) (l : List Nat) (i : Item) (k : MergeKey) (c : Ctx), s.transfersWait = false → (s.mem 5).cells = [] →
    s.pool.held = [] →
    s.pool.toComplete = id :: l → s.item id = some i → i.key = some k → i.src = some p → i.queue ≠ 1 → s.merges k = true →
    s.ctx k = some c → slotsFor i.words.length ≤ i.slots.length →
    ∃ t x d, exec .writeStageComplete s = .next t ∧ id ∉ t.pool.toComplete ∧ t.item id = some x ∧ x.complete = true ∧
      x.queue = 32 + c.index ∧ x.length = i.words.length ∧ t.ctx k = some d ∧
      d.entries = c.entries.map fun e => if s.entryIs p e then { e with st := .present, item := some id, lostByLink := false } else e) ∧
  (∀ s : State, ((s.pool.reclaimDue = false ∧ s.mapDamaged = false) ∨ s.transfersWait = true → exec .reclaimPass s = .next s) ∧
    (s.pool.reclaimDue = true ∨ s.mapDamaged = true → s.transfersWait = false → ∃ t, exec .reclaimPass s = .next t ∧ t.pool.orphans = [] ∧ t.pool.reclaimDue = false ∧
      t.poolUsed + s.pool.orphans.length = s.poolUsed ∧ t.pool.items = s.pool.items ∧
      t.mapDamaged = false ∧ Frame (fun c => storeParts c ∨ c = .mem 5) s t))

/-- The merge and its readers (R196, R198, R199, R203, R204, R210): a context opens for a frame of the run that is not late, the oldest
closing where too many are open; at its deadline what is not done becomes MISSING; it closes with a free slot and enters OUTPUT; a
reader takes the oldest item of the highest class; THROTTLE is repeated. A command that is not due changes nothing (log 3); no context closes
while partition 0 is under test (R481). Which context is forced to close, and at which uses of a queue its pointers are compared, are the
model's readings (logs 132 and 119). -/
def Obligations.ContextsCloseAndReadersChoose : Prop :=
  (∀ (s : State) (f : BitVec 32), s.merging = false ∨ s.frameRuns f = false ∨ s.isLate (.frame f) = true ∨ s.ctx (.frame f) ≠ none →
    exec (.contextOpen f) s = .next s) ∧
  (∀ (s : State) (f : BitVec 32), s.merging = true → s.frameRuns f = true → s.isLate (.frame f) = false → s.ctx (.frame f) = none →
    let n := s.pool.ctxs.length
    (n < s.cfgF C.mergeOpenMax → ∃ t c, exec (.contextOpen f) s = .next t ∧ t.pool.ctxs = s.pool.ctxs ++ [c] ∧ c.key = .frame f ∧
      c.closing = false ∧ c.deadline = frameTick (f + 1) + BitVec.ofNat 48 (s.cfgF C.guard + s.cfgF C.cto) ∧
      c.entries.map (·.node) = s.expected.map (·.node) ∧ (∀ d ∈ s.pool.ctxs, s.pool.ctxs.length < 1024 → c.index ≠ d.index) ∧
      Frame (fun c => c = .pool) s t) ∧
    (∀ c₀ l, s.pool.ctxs = c₀ :: l → s.cfgF C.mergeOpenMax ≤ n → ∃ t, exec (.contextOpen f) s = .next t ∧
      t.getF R.mergeForced = (if c₀.closing then s.getF R.mergeForced else min (s.getF R.mergeForced + 1) 65535) ∧
      t.pool.ctxs.length ≤ n ∧
      (l = [] → s.cfgF C.mergeOpenMax = 1 → (s.mem 5).cells = [] → s.transfersWait = false → (s.freeInBanks 12 s.pool.bankPtr).isSome = true →
        (∀ e ∈ c₀.entries, e.st ≠ .present) → ∃ c, t.pool.ctxs = [c] ∧ c.key = .frame f ∧ c.closing = false))) ∧
  (∀ (s : State) (k : MergeKey), (∀ c, s.ctx k = some c → c.closing = true ∨ reached s.time.coarse c.deadline = false) →
    exec (.contextDeadline k) s = .next s) ∧
  (∀ (s : State) (k : MergeKey) (c : Ctx), s.ctx k = some c → c.closing = false → reached s.time.coarse c.deadline = true →
    let l : List Entry := c.entries.map fun e => if entryDone e then e else { e with st := .missing, item := none }
    ∃ t, exec (.contextDeadline k) s = .next t ∧ t.ctx k = some { c with closing := true, entries := l } ∧
      (∀ e p, c.entries.filter (fun e => !entryDone e) = [e] → e.child = .south p →
        t.getF (R.childMissing (s.grantedPort p)) = min (s.getF (R.childMissing (s.grantedPort p)) + 1) 65535 ∧
        (∀ id i, e.item = some id → s.item id = some i → t.item id = some { i with queue := 1 })) ∧
      Frame (fun c => c = .pool ∨ ∃ o, c = .reg o ∧ 0x3028 ≤ o) s t) ∧
  (∀ (s : State) (k : MergeKey), (∀ c, s.ctx k = some c → s.closable c = false) ∨ s.transfersWait = true ∨
    ((s.mem 5).cells = [] ∧ s.freeInBanks 12 s.pool.bankPtr = none) → exec (.contextClose k) s = .next s) ∧
  (∀ (s : State) (k : MergeKey) (c : Ctx), s.ctx k = some c → s.closable c = true → s.transfersWait = false →
    (s.mem 5).cells = [] → (s.freeInBanks 12 s.pool.bankPtr).isSome = true → s.isActive = true →
    (∀ i ∈ s.pool.items, i.retained = true → i.hidden = true) →
    (∀ x u, s.allocSlot = some (x, u) → u.spliceReads (c.entries.filterMap fun e =>
      if e.st = .present then (e.item.bind s.item).map (·.slots) else none) = (true, u)) →
    ∃ t, exec (.contextClose k) s = .next t ∧ t.ctx k = none ∧
      (∃ i ∈ t.pool.items, i.id = s.pool.nextItem ∧ i.queue = 0 ∧ i.complete = true ∧ i.gen = true ∧ i.key = some k ∧
        i.age = s.pool.nextAge ∧ i.cls = (if keyIsEvent k then .triggered else .streaming)) ∧
      (∀ f, k = .frame f → (∀ l, s.pool.lastClosed = some l → olderFrame f l = false) → t.pool.lastClosed = some f) ∧
      (keyIsEvent k = true → t.pool.closedEvents =
        ((k, (c.entries.filter fun e => e.st = .present).map (·.node)) :: s.pool.closedEvents).take 4096)) ∧
  (∀ (s : State) (r : Reader),
    (∀ id i, (s.reader r).item = some id → s.item id = some i →
      r ≠ .dma ∨ s.ringTakes (s.reader r).ring ((s.reader r).written + 8) = true → exec (.outputReaderSelect r) s = .next s) ∧
    ((s.reader r).item = none → r ≠ .dma → s.portUp (readerPort r) = false →
      exec (.outputReaderSelect r) s = .next (s.setReader r {})) ∧
    ((s.reader r).item = none → r ≠ .dma → s.portUp (readerPort r) = true → (s.mem 5).cells = [] →
      ∃ t, exec (.outputReaderSelect r) s = .next t ∧ t.reader r = { item := (match s.northNext r with
        | some i => some i.id
        | none => (s.chooseItem r).map (·.id)) } ∧ t.pool.items = s.pool.items ∧ Frame (fun c => c = .pool) s t) ∧
    (r = .dma → (s.reader r).item = none → (s.mem 5).cells = [] →
      ∃ t, exec (.outputReaderSelect r) s = .next t ∧ t.pool.items = s.pool.items ∧ Frame (fun c => c = .pool ∨ c = .free) s t ∧
      (∀ n, s.dmaNext = some (.inl n) → t.reader r = Tab.get {} s.pool.parked n) ∧
      (∀ i, s.dmaNext = some (.inr i) → t.reader r = { item := some i.id, ring := s.ringOf i, cls := i.cls }) ∧
      (s.dmaNext = none → t.reader r = {}) ∧ (s.pool.parked = [] → s.dmaNext = (s.chooseItem r).map .inr)) ∧
    ((∀ i, s.chooseItem r = some i → i ∈ s.pool.items ∧ s.readable r i = true ∧
        (r ≠ .dma → ∀ j ∈ s.pool.items, s.readable r j = true → i.cls.code < j.cls.code ∨ (i.cls = j.cls ∧ i.age ≤ j.age))) ∧
      (r ≠ .dma → s.chooseItem r = none → ∀ j ∈ s.pool.items, s.readable r j = false))) ∧
  (∀ s : State,
    let due : Bool := s.pool.agg && !s.isRoot && decide (s.pool.lastThrottle + 160000 ≤ s.ticks)
    (due = false → exec .throttlePeriodic s = .next s) ∧
    (due = true → ∃ t, exec .throttlePeriodic s = .next t ∧ t.pool = { s.pool with lastThrottle := s.ticks } ∧
      (∀ p ∈ s.northUp, CtlMsg.of 0x11 0xFFF (s.portStamp p) [1] ∈ (t.port p).ctlQueue) ∧
      Frame (fun c => c = .pool ∨ c = .port 16 ∨ c = .port 17) s t))
end

