-- ==== Sys2Proof/Laws/Tab.lean ====
section
/-! SUPPORT. Laws of tables: a read after a write, and the canonical form. -/

set_option Elab.async false

namespace Sys2Proof.Machine

variable {α : Type} (d : α)

theorem Tab.get_above (t : Tab α) {k j : Nat} (h : k < j) : Tab.get d (Tab.above t k) j = Tab.get d t j := by
  induction t with
  | nil => rfl
  | cons e t ih =>
    obtain ⟨i, v⟩ := e
    by_cases hi : i ≤ k
    · simp only [Tab.above, hi, if_true, ih, Tab.get]
      rw [if_neg (by omega), if_neg (by omega)]
    · simp only [Tab.above, hi, if_false]

theorem Tab.get_above_low (t : Tab α) {k j : Nat} (h : j ≤ k) : Tab.get d (Tab.above t k) j = d := by
  induction t with
  | nil => rfl
  | cons e t ih =>
    obtain ⟨i, v⟩ := e
    by_cases hi : i ≤ k
    · simp only [Tab.above, hi, if_true, ih]
    · simp only [Tab.above, hi, if_false, Tab.get]
      rw [if_pos (by omega)]

variable [DecidableEq α]

/-- A read after a write to the same key gives the value written. -/
@[simp] theorem Tab.get_set_same (t : Tab α) (k : Nat) (v : α) : Tab.get d (Tab.set d t k v) k = v := by
  induction t with
  | nil => simp only [Tab.set]; split <;> simp_all [Tab.get]
  | cons e t ih =>
    obtain ⟨j, w⟩ := e
    simp only [Tab.set]
    split_ifs with h1 h2 h3 h4
    · simp [Tab.get, h1, h2]
    · simp [Tab.get]
    · rw [Tab.get_above_low _ _ (Nat.le_refl k), h4]
    · simp [Tab.get]
    · simp only [Tab.get, if_neg h1, if_neg h3, ih]

/-- A write leaves every other key alone. -/
theorem Tab.get_set_other (t : Tab α) {k j : Nat} (v : α) (h : j ≠ k) : Tab.get d (Tab.set d t k v) j = Tab.get d t j := by
  induction t with
  | nil =>
    simp only [Tab.set]
    split_ifs
    · rfl
    · simp only [Tab.get, if_neg h]; split_ifs <;> rfl
  | cons e t ih =>
    obtain ⟨i, w⟩ := e
    simp only [Tab.set]
    split_ifs with h1 h2 h3 h4
    · rfl
    · simp only [Tab.get, if_neg h]
      split_ifs <;> first | rfl | omega
    · subst h3
      simp only [Tab.get, if_neg h]
      split_ifs with h5
      · exact Tab.get_above_low _ _ (by omega)
      · exact Tab.get_above _ _ (by omega)
    · subst h3; simp only [Tab.get, if_neg h]
    · simp only [Tab.get, ih]

/-- The keys of a canonical table lie above those before them. -/
def Tab.keysAbove (k : Nat) (t : Tab α) : Prop := ∀ e ∈ t, k < e.1

theorem Tab.wf_cons {j : Nat} {v : α} {t : Tab α} (h : Tab.wf d ((j, v) :: t) = true) :
    v ≠ d ∧ Tab.keysAbove j t ∧ Tab.wf d t = true := by
  induction t generalizing j v with
  | nil => simp_all [Tab.wf, Tab.keysAbove]
  | cons e t ih =>
    obtain ⟨i, w⟩ := e
    have h' : (v ≠ d ∧ j < i) ∧ Tab.wf d ((i, w) :: t) = true := by simpa [Tab.wf] using h
    refine ⟨h'.1.1, ?_, h'.2⟩
    intro e he
    rcases List.mem_cons.1 he with rfl | he
    · exact h'.1.2
    · exact Nat.lt_trans h'.1.2 ((ih h'.2).2.1 e he)

theorem Tab.wf_of_cons {j : Nat} {v : α} {t : Tab α} (hv : v ≠ d) (hk : Tab.keysAbove j t) (ht : Tab.wf d t = true) :
    Tab.wf d ((j, v) :: t) = true := by
  cases t with
  | nil => simp_all [Tab.wf]
  | cons e t => simp_all [Tab.wf, Tab.keysAbove]

theorem Tab.filter_wf (t : Tab α) (p : Nat × α → Bool) (h : Tab.wf d t = true) : Tab.wf d (t.filter p) = true := by
  induction t with
  | nil => rfl
  | cons e t ih =>
    obtain ⟨j, v⟩ := e
    obtain ⟨hv, hk, ht⟩ := Tab.wf_cons d h
    rw [List.filter_cons]
    split
    · exact Tab.wf_of_cons d hv (fun e he => hk e (List.mem_filter.1 he).1) (ih ht)
    · exact ih ht

theorem Tab.above_wf (t : Tab α) (k : Nat) (h : Tab.wf d t = true) :
    Tab.wf d (Tab.above t k) = true ∧ Tab.keysAbove k (Tab.above t k) := by
  induction t with
  | nil => exact ⟨rfl, by simp [Tab.above, Tab.keysAbove]⟩
  | cons e t ih =>
    obtain ⟨j, v⟩ := e
    obtain ⟨_, hk, ht⟩ := Tab.wf_cons d h
    by_cases hj : j ≤ k
    · simpa only [Tab.above, hj, if_true] using ih ht
    · simp only [Tab.above, hj, if_false]
      refine ⟨h, fun e he => ?_⟩
      rcases List.mem_cons.1 he with rfl | he
      · exact Nat.lt_of_not_le hj
      · exact Nat.lt_trans (Nat.lt_of_not_le hj) (hk e he)

theorem Tab.set_keysAbove (t : Tab α) {j k : Nat} (v : α) (h : Tab.keysAbove j t) (hjk : j < k) :
    Tab.keysAbove j (Tab.set d t k v) := by
  induction t with
  | nil =>
    intro e he
    simp only [Tab.set] at he
    split_ifs at he <;> simp_all
  | cons e t ih =>
    obtain ⟨i, w⟩ := e
    have hi : j < i := h (i, w) (by simp)
    have ht : Tab.keysAbove j t := fun e he => h e (List.mem_cons_of_mem _ he)
    have habove : Tab.keysAbove j (Tab.above t k) := by
      clear ih h
      induction t with
      | nil => simp [Tab.above, Tab.keysAbove]
      | cons e t ih =>
        obtain ⟨l, x⟩ := e
        simp only [Tab.above]
        split_ifs
        · exact ih (fun e he => ht e (List.mem_cons_of_mem _ he))
        · exact ht
    simp only [Tab.set]
    split_ifs
    · exact h
    · intro e he; rcases List.mem_cons.1 he with rfl | he
      · exact hjk
      · exact h e he
    · exact habove
    · intro e he; rcases List.mem_cons.1 he with rfl | he
      · exact hjk
      · exact ht e he
    · intro e he; rcases List.mem_cons.1 he with rfl | he
      · exact hi
      · exact ih ht e he

/-- A write keeps the canonical form. -/
theorem Tab.set_wf (t : Tab α) (k : Nat) (v : α) (h : Tab.wf d t = true) : Tab.wf d (Tab.set d t k v) = true := by
  induction t with
  | nil => simp only [Tab.set]; split_ifs <;> simp_all [Tab.wf]
  | cons e t ih =>
    obtain ⟨j, w⟩ := e
    obtain ⟨hw, hk, ht⟩ := Tab.wf_cons d h
    simp only [Tab.set]
    split_ifs with h1 h2 h3 h4
    · exact h
    · refine Tab.wf_of_cons d h2 (fun e he => ?_) h
      rcases List.mem_cons.1 he with rfl | he
      · exact h1
      · exact Nat.lt_trans h1 (hk e he)
    · exact (Tab.above_wf d t k ht).1
    · exact Tab.wf_of_cons d h4 (h3 ▸ hk) ht
    · exact Tab.wf_of_cons d hw (Tab.set_keysAbove d t v hk (by omega)) (ih ht)

/-- What a written table lists: the value written, or what it listed before. -/
theorem Tab.mem_set {t : Tab α} {k : Nat} {v : α} {e : Nat × α} (h : e ∈ Tab.set d t k v) : e = (k, v) ∨ e ∈ t := by
  have habove : ∀ (t : Tab α), e ∈ Tab.above t k → e ∈ t := by
    intro t
    induction t with
    | nil => exact id
    | cons x t ih =>
      obtain ⟨l, y⟩ := x
      simp only [Tab.above]
      split_ifs
      · exact fun h => List.mem_cons_of_mem _ (ih h)
      · exact id
  induction t with
  | nil => simp only [Tab.set] at h; split_ifs at h <;> simp_all
  | cons x t ih =>
    obtain ⟨j, w⟩ := x
    simp only [Tab.set] at h
    split_ifs at h with h1 h2 h3 h4
    · exact .inr h
    · exact (List.mem_cons.1 h).imp_right id
    · exact .inr (List.mem_cons_of_mem _ (habove t h))
    · exact (List.mem_cons.1 h).imp_right (List.mem_cons_of_mem _)
    · rcases List.mem_cons.1 h with rfl | h
      · exact .inr (by simp)
      · exact (ih h).imp_right (List.mem_cons_of_mem _)

theorem Tab.update_wf (t : Tab α) (lo n : Nat) (f : Nat → α → α) (h : Tab.wf d t = true) :
    Tab.wf d (Tab.update d t lo n f) = true := by
  induction n with
  | zero => exact h
  | succ n ih => exact Tab.set_wf d _ _ _ ih

omit [DecidableEq α] in
/-- The entry of a listed key, or the default. -/
theorem Tab.get_mem_or (t : Tab α) (k : Nat) : Tab.get d t k = d ∨ ∃ e ∈ t, e.2 = Tab.get d t k := by
  induction t with
  | nil => exact .inl rfl
  | cons e t ih =>
    obtain ⟨j, v⟩ := e
    simp only [Tab.get]
    split_ifs
    · exact .inl rfl
    · exact .inr ⟨(j, v), by simp, rfl⟩
    · exact ih.imp_right fun ⟨e, he, h⟩ => ⟨e, List.mem_cons_of_mem _ he, h⟩

end Sys2Proof.Machine
end

