-- ==== Sys2Proof/Laws/Filter.lean ====
section
/-! SUPPORT. What a table reads as after entries are filtered out of it. -/

set_option Elab.async false

namespace Sys2Proof.Machine

variable {α : Type} [DecidableEq α] {d : α}

theorem Tab.get_of_keysAbove {t : Tab α} {k : Nat} (h : Tab.keysAbove k t) (ht : Tab.wf d t = true) : Tab.get d t k = d := by
  cases t with
  | nil => rfl
  | cons e t =>
    obtain ⟨j, v⟩ := e
    have : k < j := h (j, v) (List.mem_cons_self ..)
    simp [Tab.get, this]

/-- A key that the filter keeps reads as before. -/
theorem Tab.get_filter_kept (t : Tab α) (p : Nat × α → Bool) (k : Nat) (ht : Tab.wf d t = true) (hp : ∀ v, p (k, v) = true) :
    Tab.get d (t.filter p) k = Tab.get d t k := by
  induction t with
  | nil => rfl
  | cons e t ih =>
    obtain ⟨j, v⟩ := e
    have hc := Tab.wf_cons _ ht
    have ht' : Tab.wf d t = true := hc.2.2
    rw [List.filter_cons]
    split
    · simp only [Tab.get, ih ht']
    · next hn =>
      have hk : k ≠ j := fun h => hn (h ▸ hp v)
      rw [ih ht']
      simp only [Tab.get, hk, if_false]
      split
      · next hlt => exact Tab.get_of_keysAbove (fun e he => Nat.lt_trans hlt (hc.2.1 e he)) ht'
      · rfl

omit [DecidableEq α] in
/-- A key that the filter drops reads as the default. -/
theorem Tab.get_filter_dropped (t : Tab α) (p : Nat × α → Bool) (k : Nat) (hp : ∀ v, p (k, v) = false) :
    Tab.get d (t.filter p) k = d := by
  induction t with
  | nil => rfl
  | cons e t ih =>
    obtain ⟨j, v⟩ := e
    rw [List.filter_cons]
    split
    · next h =>
      have hk : k ≠ j := fun e => by subst e; simp [hp v] at h
      simp only [Tab.get, hk, if_false, ih]
      split <;> rfl
    · exact ih

end Sys2Proof.Machine
end

