-- ==== Sys2Proof/Laws/State.lean ====
section
/-! SUPPORT. Laws of the state's primitive updates: what each leaves unchanged, one lemma per field, and a read after a write. -/

namespace Sys2Proof.Machine

variable (s : State)

/-! ## setWord -/

@[simp] theorem State.setWord_pending (o : Nat) (v : W32) : (s.setWord o v).pending = s.pending := rfl
@[simp] theorem State.setWord_free (o : Nat) (v : W32) : (s.setWord o v).free = s.free := rfl
@[simp] theorem State.setWord_ticks (o : Nat) (v : W32) : (s.setWord o v).ticks = s.ticks := rfl
@[simp] theorem State.setWord_out (o : Nat) (v : W32) : (s.setWord o v).out = s.out := rfl
@[simp] theorem State.setWord_hostMem (o : Nat) (v : W32) : (s.setWord o v).hostMem = s.hostMem := rfl
@[simp] theorem State.setWord_node (o : Nat) (v : W32) : (s.setWord o v).node = s.node := rfl
@[simp] theorem State.setWord_cfg (o : Nat) (v : W32) : (s.setWord o v).cfg = s.cfg := rfl
@[simp] theorem State.setWord_time (o : Nat) (v : W32) : (s.setWord o v).time = s.time := rfl
@[simp] theorem State.setWord_regions (o : Nat) (v : W32) : (s.setWord o v).regions = s.regions := rfl
@[simp] theorem State.setWord_cells (o : Nat) (v : W32) : (s.setWord o v).cells = s.cells := rfl
@[simp] theorem State.setWord_blocks (o : Nat) (v : W32) : (s.setWord o v).blocks = s.blocks := rfl
@[simp] theorem State.setWord_trig (o : Nat) (v : W32) : (s.setWord o v).trig = s.trig := rfl
@[simp] theorem State.setWord_pool (o : Nat) (v : W32) : (s.setWord o v).pool = s.pool := rfl
@[simp] theorem State.setWord_dir (o : Nat) (v : W32) : (s.setWord o v).dir = s.dir := rfl
@[simp] theorem State.setWord_ports (o : Nat) (v : W32) : (s.setWord o v).ports = s.ports := rfl
@[simp] theorem State.setWord_pair (o : Nat) (v : W32) : (s.setWord o v).pair = s.pair := rfl
@[simp] theorem State.setWord_mems (o : Nat) (v : W32) : (s.setWord o v).mems = s.mems := rfl
@[simp] theorem State.setWord_prot (o : Nat) (v : W32) : (s.setWord o v).prot = s.prot := rfl
@[simp] theorem State.setWord_host (o : Nat) (v : W32) : (s.setWord o v).host = s.host := rfl
@[simp] theorem State.setWord_mbox (o : Nat) (v : W32) : (s.setWord o v).mbox = s.mbox := rfl
@[simp] theorem State.setWord_fw (o : Nat) (v : W32) : (s.setWord o v).fw = s.fw := rfl
@[simp] theorem State.setWord_hk (o : Nat) (v : W32) : (s.setWord o v).hk = s.hk := rfl
@[simp] theorem State.setWord_loop (o : Nat) (v : W32) : (s.setWord o v).loop = s.loop := rfl
@[simp] theorem State.setWord_test (o : Nat) (v : W32) : (s.setWord o v).test = s.test := rfl

/-! ## setF -/

@[simp] theorem State.setF_pending (f : RF) (v : Nat) : (s.setF f v).pending = s.pending := rfl
@[simp] theorem State.setF_free (f : RF) (v : Nat) : (s.setF f v).free = s.free := rfl
@[simp] theorem State.setF_ticks (f : RF) (v : Nat) : (s.setF f v).ticks = s.ticks := rfl
@[simp] theorem State.setF_out (f : RF) (v : Nat) : (s.setF f v).out = s.out := rfl
@[simp] theorem State.setF_hostMem (f : RF) (v : Nat) : (s.setF f v).hostMem = s.hostMem := rfl
@[simp] theorem State.setF_node (f : RF) (v : Nat) : (s.setF f v).node = s.node := rfl
@[simp] theorem State.setF_cfg (f : RF) (v : Nat) : (s.setF f v).cfg = s.cfg := rfl
@[simp] theorem State.setF_time (f : RF) (v : Nat) : (s.setF f v).time = s.time := rfl
@[simp] theorem State.setF_regions (f : RF) (v : Nat) : (s.setF f v).regions = s.regions := rfl
@[simp] theorem State.setF_cells (f : RF) (v : Nat) : (s.setF f v).cells = s.cells := rfl
@[simp] theorem State.setF_blocks (f : RF) (v : Nat) : (s.setF f v).blocks = s.blocks := rfl
@[simp] theorem State.setF_trig (f : RF) (v : Nat) : (s.setF f v).trig = s.trig := rfl
@[simp] theorem State.setF_pool (f : RF) (v : Nat) : (s.setF f v).pool = s.pool := rfl
@[simp] theorem State.setF_dir (f : RF) (v : Nat) : (s.setF f v).dir = s.dir := rfl
@[simp] theorem State.setF_ports (f : RF) (v : Nat) : (s.setF f v).ports = s.ports := rfl
@[simp] theorem State.setF_pair (f : RF) (v : Nat) : (s.setF f v).pair = s.pair := rfl
@[simp] theorem State.setF_mems (f : RF) (v : Nat) : (s.setF f v).mems = s.mems := rfl
@[simp] theorem State.setF_prot (f : RF) (v : Nat) : (s.setF f v).prot = s.prot := rfl
@[simp] theorem State.setF_host (f : RF) (v : Nat) : (s.setF f v).host = s.host := rfl
@[simp] theorem State.setF_mbox (f : RF) (v : Nat) : (s.setF f v).mbox = s.mbox := rfl
@[simp] theorem State.setF_fw (f : RF) (v : Nat) : (s.setF f v).fw = s.fw := rfl
@[simp] theorem State.setF_hk (f : RF) (v : Nat) : (s.setF f v).hk = s.hk := rfl
@[simp] theorem State.setF_loop (f : RF) (v : Nat) : (s.setF f v).loop = s.loop := rfl
@[simp] theorem State.setF_test (f : RF) (v : Nat) : (s.setF f v).test = s.test := rfl

/-! ## setRecord -/

@[simp] theorem State.setRecord_pending (k v : Nat) : (s.setRecord k v).pending = s.pending := rfl
@[simp] theorem State.setRecord_free (k v : Nat) : (s.setRecord k v).free = s.free := rfl
@[simp] theorem State.setRecord_ticks (k v : Nat) : (s.setRecord k v).ticks = s.ticks := rfl
@[simp] theorem State.setRecord_out (k v : Nat) : (s.setRecord k v).out = s.out := rfl
@[simp] theorem State.setRecord_hostMem (k v : Nat) : (s.setRecord k v).hostMem = s.hostMem := rfl
@[simp] theorem State.setRecord_node (k v : Nat) : (s.setRecord k v).node = s.node := rfl
@[simp] theorem State.setRecord_regs (k v : Nat) : (s.setRecord k v).regs = s.regs := rfl
@[simp] theorem State.setRecord_time (k v : Nat) : (s.setRecord k v).time = s.time := rfl
@[simp] theorem State.setRecord_regions (k v : Nat) : (s.setRecord k v).regions = s.regions := rfl
@[simp] theorem State.setRecord_cells (k v : Nat) : (s.setRecord k v).cells = s.cells := rfl
@[simp] theorem State.setRecord_blocks (k v : Nat) : (s.setRecord k v).blocks = s.blocks := rfl
@[simp] theorem State.setRecord_trig (k v : Nat) : (s.setRecord k v).trig = s.trig := rfl
@[simp] theorem State.setRecord_pool (k v : Nat) : (s.setRecord k v).pool = s.pool := rfl
@[simp] theorem State.setRecord_dir (k v : Nat) : (s.setRecord k v).dir = s.dir := rfl
@[simp] theorem State.setRecord_ports (k v : Nat) : (s.setRecord k v).ports = s.ports := rfl
@[simp] theorem State.setRecord_pair (k v : Nat) : (s.setRecord k v).pair = s.pair := rfl
@[simp] theorem State.setRecord_mems (k v : Nat) : (s.setRecord k v).mems = s.mems := rfl
@[simp] theorem State.setRecord_prot (k v : Nat) : (s.setRecord k v).prot = s.prot := rfl
@[simp] theorem State.setRecord_host (k v : Nat) : (s.setRecord k v).host = s.host := rfl
@[simp] theorem State.setRecord_mbox (k v : Nat) : (s.setRecord k v).mbox = s.mbox := rfl
@[simp] theorem State.setRecord_fw (k v : Nat) : (s.setRecord k v).fw = s.fw := rfl
@[simp] theorem State.setRecord_hk (k v : Nat) : (s.setRecord k v).hk = s.hk := rfl
@[simp] theorem State.setRecord_loop (k v : Nat) : (s.setRecord k v).loop = s.loop := rfl
@[simp] theorem State.setRecord_test (k v : Nat) : (s.setRecord k v).test = s.test := rfl

/-! ## setCfg -/

@[simp] theorem State.setCfg_pending (f : CF) (v : Nat) : (s.setCfg f v).pending = s.pending := rfl
@[simp] theorem State.setCfg_free (f : CF) (v : Nat) : (s.setCfg f v).free = s.free := rfl
@[simp] theorem State.setCfg_ticks (f : CF) (v : Nat) : (s.setCfg f v).ticks = s.ticks := rfl
@[simp] theorem State.setCfg_out (f : CF) (v : Nat) : (s.setCfg f v).out = s.out := rfl
@[simp] theorem State.setCfg_hostMem (f : CF) (v : Nat) : (s.setCfg f v).hostMem = s.hostMem := rfl
@[simp] theorem State.setCfg_node (f : CF) (v : Nat) : (s.setCfg f v).node = s.node := rfl
@[simp] theorem State.setCfg_regs (f : CF) (v : Nat) : (s.setCfg f v).regs = s.regs := rfl
@[simp] theorem State.setCfg_time (f : CF) (v : Nat) : (s.setCfg f v).time = s.time := rfl
@[simp] theorem State.setCfg_regions (f : CF) (v : Nat) : (s.setCfg f v).regions = s.regions := rfl
@[simp] theorem State.setCfg_cells (f : CF) (v : Nat) : (s.setCfg f v).cells = s.cells := rfl
@[simp] theorem State.setCfg_blocks (f : CF) (v : Nat) : (s.setCfg f v).blocks = s.blocks := rfl
@[simp] theorem State.setCfg_trig (f : CF) (v : Nat) : (s.setCfg f v).trig = s.trig := rfl
@[simp] theorem State.setCfg_pool (f : CF) (v : Nat) : (s.setCfg f v).pool = s.pool := rfl
@[simp] theorem State.setCfg_dir (f : CF) (v : Nat) : (s.setCfg f v).dir = s.dir := rfl
@[simp] theorem State.setCfg_ports (f : CF) (v : Nat) : (s.setCfg f v).ports = s.ports := rfl
@[simp] theorem State.setCfg_pair (f : CF) (v : Nat) : (s.setCfg f v).pair = s.pair := rfl
@[simp] theorem State.setCfg_mems (f : CF) (v : Nat) : (s.setCfg f v).mems = s.mems := rfl
@[simp] theorem State.setCfg_prot (f : CF) (v : Nat) : (s.setCfg f v).prot = s.prot := rfl
@[simp] theorem State.setCfg_host (f : CF) (v : Nat) : (s.setCfg f v).host = s.host := rfl
@[simp] theorem State.setCfg_mbox (f : CF) (v : Nat) : (s.setCfg f v).mbox = s.mbox := rfl
@[simp] theorem State.setCfg_fw (f : CF) (v : Nat) : (s.setCfg f v).fw = s.fw := rfl
@[simp] theorem State.setCfg_hk (f : CF) (v : Nat) : (s.setCfg f v).hk = s.hk := rfl
@[simp] theorem State.setCfg_loop (f : CF) (v : Nat) : (s.setCfg f v).loop = s.loop := rfl
@[simp] theorem State.setCfg_test (f : CF) (v : Nat) : (s.setCfg f v).test = s.test := rfl

/-! ## setRegion -/

@[simp] theorem State.setRegion_pending (r : Nat) (v : Region) : (s.setRegion r v).pending = s.pending := rfl
@[simp] theorem State.setRegion_free (r : Nat) (v : Region) : (s.setRegion r v).free = s.free := rfl
@[simp] theorem State.setRegion_ticks (r : Nat) (v : Region) : (s.setRegion r v).ticks = s.ticks := rfl
@[simp] theorem State.setRegion_out (r : Nat) (v : Region) : (s.setRegion r v).out = s.out := rfl
@[simp] theorem State.setRegion_hostMem (r : Nat) (v : Region) : (s.setRegion r v).hostMem = s.hostMem := rfl
@[simp] theorem State.setRegion_node (r : Nat) (v : Region) : (s.setRegion r v).node = s.node := rfl
@[simp] theorem State.setRegion_regs (r : Nat) (v : Region) : (s.setRegion r v).regs = s.regs := rfl
@[simp] theorem State.setRegion_cfg (r : Nat) (v : Region) : (s.setRegion r v).cfg = s.cfg := rfl
@[simp] theorem State.setRegion_time (r : Nat) (v : Region) : (s.setRegion r v).time = s.time := rfl
@[simp] theorem State.setRegion_cells (r : Nat) (v : Region) : (s.setRegion r v).cells = s.cells := rfl
@[simp] theorem State.setRegion_blocks (r : Nat) (v : Region) : (s.setRegion r v).blocks = s.blocks := rfl
@[simp] theorem State.setRegion_trig (r : Nat) (v : Region) : (s.setRegion r v).trig = s.trig := rfl
@[simp] theorem State.setRegion_pool (r : Nat) (v : Region) : (s.setRegion r v).pool = s.pool := rfl
@[simp] theorem State.setRegion_dir (r : Nat) (v : Region) : (s.setRegion r v).dir = s.dir := rfl
@[simp] theorem State.setRegion_ports (r : Nat) (v : Region) : (s.setRegion r v).ports = s.ports := rfl
@[simp] theorem State.setRegion_pair (r : Nat) (v : Region) : (s.setRegion r v).pair = s.pair := rfl
@[simp] theorem State.setRegion_mems (r : Nat) (v : Region) : (s.setRegion r v).mems = s.mems := rfl
@[simp] theorem State.setRegion_prot (r : Nat) (v : Region) : (s.setRegion r v).prot = s.prot := rfl
@[simp] theorem State.setRegion_host (r : Nat) (v : Region) : (s.setRegion r v).host = s.host := rfl
@[simp] theorem State.setRegion_mbox (r : Nat) (v : Region) : (s.setRegion r v).mbox = s.mbox := rfl
@[simp] theorem State.setRegion_fw (r : Nat) (v : Region) : (s.setRegion r v).fw = s.fw := rfl
@[simp] theorem State.setRegion_hk (r : Nat) (v : Region) : (s.setRegion r v).hk = s.hk := rfl
@[simp] theorem State.setRegion_loop (r : Nat) (v : Region) : (s.setRegion r v).loop = s.loop := rfl
@[simp] theorem State.setRegion_test (r : Nat) (v : Region) : (s.setRegion r v).test = s.test := rfl

/-! ## setCell -/

@[simp] theorem State.setCell_pending (c : Nat) (v : Cell) : (s.setCell c v).pending = s.pending := rfl
@[simp] theorem State.setCell_free (c : Nat) (v : Cell) : (s.setCell c v).free = s.free := rfl
@[simp] theorem State.setCell_ticks (c : Nat) (v : Cell) : (s.setCell c v).ticks = s.ticks := rfl
@[simp] theorem State.setCell_out (c : Nat) (v : Cell) : (s.setCell c v).out = s.out := rfl
@[simp] theorem State.setCell_hostMem (c : Nat) (v : Cell) : (s.setCell c v).hostMem = s.hostMem := rfl
@[simp] theorem State.setCell_node (c : Nat) (v : Cell) : (s.setCell c v).node = s.node := rfl
@[simp] theorem State.setCell_regs (c : Nat) (v : Cell) : (s.setCell c v).regs = s.regs := rfl
@[simp] theorem State.setCell_cfg (c : Nat) (v : Cell) : (s.setCell c v).cfg = s.cfg := rfl
@[simp] theorem State.setCell_time (c : Nat) (v : Cell) : (s.setCell c v).time = s.time := rfl
@[simp] theorem State.setCell_regions (c : Nat) (v : Cell) : (s.setCell c v).regions = s.regions := rfl
@[simp] theorem State.setCell_blocks (c : Nat) (v : Cell) : (s.setCell c v).blocks = s.blocks := rfl
@[simp] theorem State.setCell_trig (c : Nat) (v : Cell) : (s.setCell c v).trig = s.trig := rfl
@[simp] theorem State.setCell_pool (c : Nat) (v : Cell) : (s.setCell c v).pool = s.pool := rfl
@[simp] theorem State.setCell_dir (c : Nat) (v : Cell) : (s.setCell c v).dir = s.dir := rfl
@[simp] theorem State.setCell_ports (c : Nat) (v : Cell) : (s.setCell c v).ports = s.ports := rfl
@[simp] theorem State.setCell_pair (c : Nat) (v : Cell) : (s.setCell c v).pair = s.pair := rfl
@[simp] theorem State.setCell_mems (c : Nat) (v : Cell) : (s.setCell c v).mems = s.mems := rfl
@[simp] theorem State.setCell_prot (c : Nat) (v : Cell) : (s.setCell c v).prot = s.prot := rfl
@[simp] theorem State.setCell_host (c : Nat) (v : Cell) : (s.setCell c v).host = s.host := rfl
@[simp] theorem State.setCell_mbox (c : Nat) (v : Cell) : (s.setCell c v).mbox = s.mbox := rfl
@[simp] theorem State.setCell_fw (c : Nat) (v : Cell) : (s.setCell c v).fw = s.fw := rfl
@[simp] theorem State.setCell_hk (c : Nat) (v : Cell) : (s.setCell c v).hk = s.hk := rfl
@[simp] theorem State.setCell_loop (c : Nat) (v : Cell) : (s.setCell c v).loop = s.loop := rfl
@[simp] theorem State.setCell_test (c : Nat) (v : Cell) : (s.setCell c v).test = s.test := rfl

/-! ## setBlock -/

@[simp] theorem State.setBlock_pending (b : Nat) (v : Block) : (s.setBlock b v).pending = s.pending := rfl
@[simp] theorem State.setBlock_free (b : Nat) (v : Block) : (s.setBlock b v).free = s.free := rfl
@[simp] theorem State.setBlock_ticks (b : Nat) (v : Block) : (s.setBlock b v).ticks = s.ticks := rfl
@[simp] theorem State.setBlock_out (b : Nat) (v : Block) : (s.setBlock b v).out = s.out := rfl
@[simp] theorem State.setBlock_hostMem (b : Nat) (v : Block) : (s.setBlock b v).hostMem = s.hostMem := rfl
@[simp] theorem State.setBlock_node (b : Nat) (v : Block) : (s.setBlock b v).node = s.node := rfl
@[simp] theorem State.setBlock_regs (b : Nat) (v : Block) : (s.setBlock b v).regs = s.regs := rfl
@[simp] theorem State.setBlock_cfg (b : Nat) (v : Block) : (s.setBlock b v).cfg = s.cfg := rfl
@[simp] theorem State.setBlock_time (b : Nat) (v : Block) : (s.setBlock b v).time = s.time := rfl
@[simp] theorem State.setBlock_regions (b : Nat) (v : Block) : (s.setBlock b v).regions = s.regions := rfl
@[simp] theorem State.setBlock_cells (b : Nat) (v : Block) : (s.setBlock b v).cells = s.cells := rfl
@[simp] theorem State.setBlock_trig (b : Nat) (v : Block) : (s.setBlock b v).trig = s.trig := rfl
@[simp] theorem State.setBlock_pool (b : Nat) (v : Block) : (s.setBlock b v).pool = s.pool := rfl
@[simp] theorem State.setBlock_dir (b : Nat) (v : Block) : (s.setBlock b v).dir = s.dir := rfl
@[simp] theorem State.setBlock_ports (b : Nat) (v : Block) : (s.setBlock b v).ports = s.ports := rfl
@[simp] theorem State.setBlock_pair (b : Nat) (v : Block) : (s.setBlock b v).pair = s.pair := rfl
@[simp] theorem State.setBlock_mems (b : Nat) (v : Block) : (s.setBlock b v).mems = s.mems := rfl
@[simp] theorem State.setBlock_prot (b : Nat) (v : Block) : (s.setBlock b v).prot = s.prot := rfl
@[simp] theorem State.setBlock_host (b : Nat) (v : Block) : (s.setBlock b v).host = s.host := rfl
@[simp] theorem State.setBlock_mbox (b : Nat) (v : Block) : (s.setBlock b v).mbox = s.mbox := rfl
@[simp] theorem State.setBlock_fw (b : Nat) (v : Block) : (s.setBlock b v).fw = s.fw := rfl
@[simp] theorem State.setBlock_hk (b : Nat) (v : Block) : (s.setBlock b v).hk = s.hk := rfl
@[simp] theorem State.setBlock_loop (b : Nat) (v : Block) : (s.setBlock b v).loop = s.loop := rfl
@[simp] theorem State.setBlock_test (b : Nat) (v : Block) : (s.setBlock b v).test = s.test := rfl

/-! ## setPort -/

@[simp] theorem State.setPort_pending (p : Nat) (v : Port) : (s.setPort p v).pending = s.pending := rfl
@[simp] theorem State.setPort_free (p : Nat) (v : Port) : (s.setPort p v).free = s.free := rfl
@[simp] theorem State.setPort_ticks (p : Nat) (v : Port) : (s.setPort p v).ticks = s.ticks := rfl
@[simp] theorem State.setPort_out (p : Nat) (v : Port) : (s.setPort p v).out = s.out := rfl
@[simp] theorem State.setPort_hostMem (p : Nat) (v : Port) : (s.setPort p v).hostMem = s.hostMem := rfl
@[simp] theorem State.setPort_node (p : Nat) (v : Port) : (s.setPort p v).node = s.node := rfl
@[simp] theorem State.setPort_regs (p : Nat) (v : Port) : (s.setPort p v).regs = s.regs := rfl
@[simp] theorem State.setPort_cfg (p : Nat) (v : Port) : (s.setPort p v).cfg = s.cfg := rfl
@[simp] theorem State.setPort_time (p : Nat) (v : Port) : (s.setPort p v).time = s.time := rfl
@[simp] theorem State.setPort_regions (p : Nat) (v : Port) : (s.setPort p v).regions = s.regions := rfl
@[simp] theorem State.setPort_cells (p : Nat) (v : Port) : (s.setPort p v).cells = s.cells := rfl
@[simp] theorem State.setPort_blocks (p : Nat) (v : Port) : (s.setPort p v).blocks = s.blocks := rfl
@[simp] theorem State.setPort_trig (p : Nat) (v : Port) : (s.setPort p v).trig = s.trig := rfl
@[simp] theorem State.setPort_pool (p : Nat) (v : Port) : (s.setPort p v).pool = s.pool := rfl
@[simp] theorem State.setPort_dir (p : Nat) (v : Port) : (s.setPort p v).dir = s.dir := rfl
@[simp] theorem State.setPort_pair (p : Nat) (v : Port) : (s.setPort p v).pair = s.pair := rfl
@[simp] theorem State.setPort_mems (p : Nat) (v : Port) : (s.setPort p v).mems = s.mems := rfl
@[simp] theorem State.setPort_prot (p : Nat) (v : Port) : (s.setPort p v).prot = s.prot := rfl
@[simp] theorem State.setPort_host (p : Nat) (v : Port) : (s.setPort p v).host = s.host := rfl
@[simp] theorem State.setPort_mbox (p : Nat) (v : Port) : (s.setPort p v).mbox = s.mbox := rfl
@[simp] theorem State.setPort_fw (p : Nat) (v : Port) : (s.setPort p v).fw = s.fw := rfl
@[simp] theorem State.setPort_hk (p : Nat) (v : Port) : (s.setPort p v).hk = s.hk := rfl
@[simp] theorem State.setPort_loop (p : Nat) (v : Port) : (s.setPort p v).loop = s.loop := rfl
@[simp] theorem State.setPort_test (p : Nat) (v : Port) : (s.setPort p v).test = s.test := rfl

/-! ## setMem -/

@[simp] theorem State.setMem_pending (m : Nat) (v : Mem) : (s.setMem m v).pending = s.pending := rfl
@[simp] theorem State.setMem_free (m : Nat) (v : Mem) : (s.setMem m v).free = s.free := rfl
@[simp] theorem State.setMem_ticks (m : Nat) (v : Mem) : (s.setMem m v).ticks = s.ticks := rfl
@[simp] theorem State.setMem_out (m : Nat) (v : Mem) : (s.setMem m v).out = s.out := rfl
@[simp] theorem State.setMem_hostMem (m : Nat) (v : Mem) : (s.setMem m v).hostMem = s.hostMem := rfl
@[simp] theorem State.setMem_node (m : Nat) (v : Mem) : (s.setMem m v).node = s.node := rfl
@[simp] theorem State.setMem_regs (m : Nat) (v : Mem) : (s.setMem m v).regs = s.regs := rfl
@[simp] theorem State.setMem_cfg (m : Nat) (v : Mem) : (s.setMem m v).cfg = s.cfg := rfl
@[simp] theorem State.setMem_time (m : Nat) (v : Mem) : (s.setMem m v).time = s.time := rfl
@[simp] theorem State.setMem_regions (m : Nat) (v : Mem) : (s.setMem m v).regions = s.regions := rfl
@[simp] theorem State.setMem_cells (m : Nat) (v : Mem) : (s.setMem m v).cells = s.cells := rfl
@[simp] theorem State.setMem_blocks (m : Nat) (v : Mem) : (s.setMem m v).blocks = s.blocks := rfl
@[simp] theorem State.setMem_trig (m : Nat) (v : Mem) : (s.setMem m v).trig = s.trig := rfl
@[simp] theorem State.setMem_pool (m : Nat) (v : Mem) : (s.setMem m v).pool = s.pool := rfl
@[simp] theorem State.setMem_dir (m : Nat) (v : Mem) : (s.setMem m v).dir = s.dir := rfl
@[simp] theorem State.setMem_ports (m : Nat) (v : Mem) : (s.setMem m v).ports = s.ports := rfl
@[simp] theorem State.setMem_pair (m : Nat) (v : Mem) : (s.setMem m v).pair = s.pair := rfl
@[simp] theorem State.setMem_prot (m : Nat) (v : Mem) : (s.setMem m v).prot = s.prot := rfl
@[simp] theorem State.setMem_host (m : Nat) (v : Mem) : (s.setMem m v).host = s.host := rfl
@[simp] theorem State.setMem_mbox (m : Nat) (v : Mem) : (s.setMem m v).mbox = s.mbox := rfl
@[simp] theorem State.setMem_fw (m : Nat) (v : Mem) : (s.setMem m v).fw = s.fw := rfl
@[simp] theorem State.setMem_hk (m : Nat) (v : Mem) : (s.setMem m v).hk = s.hk := rfl
@[simp] theorem State.setMem_loop (m : Nat) (v : Mem) : (s.setMem m v).loop = s.loop := rfl
@[simp] theorem State.setMem_test (m : Nat) (v : Mem) : (s.setMem m v).test = s.test := rfl

/-! ## setPid -/

@[simp] theorem State.setPid_pending (i : Nat) (v : Loop) : (s.setPid i v).pending = s.pending := rfl
@[simp] theorem State.setPid_free (i : Nat) (v : Loop) : (s.setPid i v).free = s.free := rfl
@[simp] theorem State.setPid_ticks (i : Nat) (v : Loop) : (s.setPid i v).ticks = s.ticks := rfl
@[simp] theorem State.setPid_out (i : Nat) (v : Loop) : (s.setPid i v).out = s.out := rfl
@[simp] theorem State.setPid_hostMem (i : Nat) (v : Loop) : (s.setPid i v).hostMem = s.hostMem := rfl
@[simp] theorem State.setPid_node (i : Nat) (v : Loop) : (s.setPid i v).node = s.node := rfl
@[simp] theorem State.setPid_regs (i : Nat) (v : Loop) : (s.setPid i v).regs = s.regs := rfl
@[simp] theorem State.setPid_cfg (i : Nat) (v : Loop) : (s.setPid i v).cfg = s.cfg := rfl
@[simp] theorem State.setPid_time (i : Nat) (v : Loop) : (s.setPid i v).time = s.time := rfl
@[simp] theorem State.setPid_regions (i : Nat) (v : Loop) : (s.setPid i v).regions = s.regions := rfl
@[simp] theorem State.setPid_cells (i : Nat) (v : Loop) : (s.setPid i v).cells = s.cells := rfl
@[simp] theorem State.setPid_blocks (i : Nat) (v : Loop) : (s.setPid i v).blocks = s.blocks := rfl
@[simp] theorem State.setPid_trig (i : Nat) (v : Loop) : (s.setPid i v).trig = s.trig := rfl
@[simp] theorem State.setPid_pool (i : Nat) (v : Loop) : (s.setPid i v).pool = s.pool := rfl
@[simp] theorem State.setPid_dir (i : Nat) (v : Loop) : (s.setPid i v).dir = s.dir := rfl
@[simp] theorem State.setPid_ports (i : Nat) (v : Loop) : (s.setPid i v).ports = s.ports := rfl
@[simp] theorem State.setPid_pair (i : Nat) (v : Loop) : (s.setPid i v).pair = s.pair := rfl
@[simp] theorem State.setPid_mems (i : Nat) (v : Loop) : (s.setPid i v).mems = s.mems := rfl
@[simp] theorem State.setPid_prot (i : Nat) (v : Loop) : (s.setPid i v).prot = s.prot := rfl
@[simp] theorem State.setPid_host (i : Nat) (v : Loop) : (s.setPid i v).host = s.host := rfl
@[simp] theorem State.setPid_mbox (i : Nat) (v : Loop) : (s.setPid i v).mbox = s.mbox := rfl
@[simp] theorem State.setPid_fw (i : Nat) (v : Loop) : (s.setPid i v).fw = s.fw := rfl
@[simp] theorem State.setPid_hk (i : Nat) (v : Loop) : (s.setPid i v).hk = s.hk := rfl
@[simp] theorem State.setPid_test (i : Nat) (v : Loop) : (s.setPid i v).test = s.test := rfl
@[simp] theorem State.setPid_loop_telFifo (i : Nat) (v : Loop) : (s.setPid i v).loop.telFifo = s.loop.telFifo := rfl
@[simp] theorem State.setPid_loop_biasCode (i : Nat) (v : Loop) : (s.setPid i v).loop.biasCode = s.loop.biasCode := rfl
@[simp] theorem State.setPid_loop_lastPace (i : Nat) (v : Loop) : (s.setPid i v).loop.lastPace = s.loop.lastPace := rfl

/-! ## setSxp -/

@[simp] theorem State.setSxp_pending (n : Nat) (v : Sxp) : (s.setSxp n v).pending = s.pending := rfl
@[simp] theorem State.setSxp_free (n : Nat) (v : Sxp) : (s.setSxp n v).free = s.free := rfl
@[simp] theorem State.setSxp_ticks (n : Nat) (v : Sxp) : (s.setSxp n v).ticks = s.ticks := rfl
@[simp] theorem State.setSxp_out (n : Nat) (v : Sxp) : (s.setSxp n v).out = s.out := rfl
@[simp] theorem State.setSxp_hostMem (n : Nat) (v : Sxp) : (s.setSxp n v).hostMem = s.hostMem := rfl
@[simp] theorem State.setSxp_node (n : Nat) (v : Sxp) : (s.setSxp n v).node = s.node := rfl
@[simp] theorem State.setSxp_regs (n : Nat) (v : Sxp) : (s.setSxp n v).regs = s.regs := rfl
@[simp] theorem State.setSxp_cfg (n : Nat) (v : Sxp) : (s.setSxp n v).cfg = s.cfg := rfl
@[simp] theorem State.setSxp_time (n : Nat) (v : Sxp) : (s.setSxp n v).time = s.time := rfl
@[simp] theorem State.setSxp_regions (n : Nat) (v : Sxp) : (s.setSxp n v).regions = s.regions := rfl
@[simp] theorem State.setSxp_cells (n : Nat) (v : Sxp) : (s.setSxp n v).cells = s.cells := rfl
@[simp] theorem State.setSxp_blocks (n : Nat) (v : Sxp) : (s.setSxp n v).blocks = s.blocks := rfl
@[simp] theorem State.setSxp_trig (n : Nat) (v : Sxp) : (s.setSxp n v).trig = s.trig := rfl
@[simp] theorem State.setSxp_pool (n : Nat) (v : Sxp) : (s.setSxp n v).pool = s.pool := rfl
@[simp] theorem State.setSxp_dir (n : Nat) (v : Sxp) : (s.setSxp n v).dir = s.dir := rfl
@[simp] theorem State.setSxp_ports (n : Nat) (v : Sxp) : (s.setSxp n v).ports = s.ports := rfl
@[simp] theorem State.setSxp_pair (n : Nat) (v : Sxp) : (s.setSxp n v).pair = s.pair := rfl
@[simp] theorem State.setSxp_mems (n : Nat) (v : Sxp) : (s.setSxp n v).mems = s.mems := rfl
@[simp] theorem State.setSxp_prot (n : Nat) (v : Sxp) : (s.setSxp n v).prot = s.prot := rfl
@[simp] theorem State.setSxp_host (n : Nat) (v : Sxp) : (s.setSxp n v).host = s.host := rfl
@[simp] theorem State.setSxp_mbox (n : Nat) (v : Sxp) : (s.setSxp n v).mbox = s.mbox := rfl
@[simp] theorem State.setSxp_fw (n : Nat) (v : Sxp) : (s.setSxp n v).fw = s.fw := rfl
@[simp] theorem State.setSxp_loop (n : Nat) (v : Sxp) : (s.setSxp n v).loop = s.loop := rfl
@[simp] theorem State.setSxp_test (n : Nat) (v : Sxp) : (s.setSxp n v).test = s.test := rfl
@[simp] theorem State.setSxp_hk_conv (n : Nat) (v : Sxp) : (s.setSxp n v).hk.conv = s.hk.conv := rfl
@[simp] theorem State.setSxp_hk_fifo (n : Nat) (v : Sxp) : (s.setSxp n v).hk.fifo = s.hk.fifo := rfl
@[simp] theorem State.setSxp_hk_lowNext (n : Nat) (v : Sxp) : (s.setSxp n v).hk.lowNext = s.hk.lowNext := rfl
@[simp] theorem State.setSxp_hk_privPass (n : Nat) (v : Sxp) : (s.setSxp n v).hk.privPass = s.hk.privPass := rfl

/-! ## setConv -/

@[simp] theorem State.setConv_pending (c : Nat) (v : Conv) : (s.setConv c v).pending = s.pending := rfl
@[simp] theorem State.setConv_free (c : Nat) (v : Conv) : (s.setConv c v).free = s.free := rfl
@[simp] theorem State.setConv_ticks (c : Nat) (v : Conv) : (s.setConv c v).ticks = s.ticks := rfl
@[simp] theorem State.setConv_out (c : Nat) (v : Conv) : (s.setConv c v).out = s.out := rfl
@[simp] theorem State.setConv_hostMem (c : Nat) (v : Conv) : (s.setConv c v).hostMem = s.hostMem := rfl
@[simp] theorem State.setConv_node (c : Nat) (v : Conv) : (s.setConv c v).node = s.node := rfl
@[simp] theorem State.setConv_regs (c : Nat) (v : Conv) : (s.setConv c v).regs = s.regs := rfl
@[simp] theorem State.setConv_cfg (c : Nat) (v : Conv) : (s.setConv c v).cfg = s.cfg := rfl
@[simp] theorem State.setConv_time (c : Nat) (v : Conv) : (s.setConv c v).time = s.time := rfl
@[simp] theorem State.setConv_regions (c : Nat) (v : Conv) : (s.setConv c v).regions = s.regions := rfl
@[simp] theorem State.setConv_cells (c : Nat) (v : Conv) : (s.setConv c v).cells = s.cells := rfl
@[simp] theorem State.setConv_blocks (c : Nat) (v : Conv) : (s.setConv c v).blocks = s.blocks := rfl
@[simp] theorem State.setConv_trig (c : Nat) (v : Conv) : (s.setConv c v).trig = s.trig := rfl
@[simp] theorem State.setConv_pool (c : Nat) (v : Conv) : (s.setConv c v).pool = s.pool := rfl
@[simp] theorem State.setConv_dir (c : Nat) (v : Conv) : (s.setConv c v).dir = s.dir := rfl
@[simp] theorem State.setConv_ports (c : Nat) (v : Conv) : (s.setConv c v).ports = s.ports := rfl
@[simp] theorem State.setConv_pair (c : Nat) (v : Conv) : (s.setConv c v).pair = s.pair := rfl
@[simp] theorem State.setConv_mems (c : Nat) (v : Conv) : (s.setConv c v).mems = s.mems := rfl
@[simp] theorem State.setConv_prot (c : Nat) (v : Conv) : (s.setConv c v).prot = s.prot := rfl
@[simp] theorem State.setConv_host (c : Nat) (v : Conv) : (s.setConv c v).host = s.host := rfl
@[simp] theorem State.setConv_mbox (c : Nat) (v : Conv) : (s.setConv c v).mbox = s.mbox := rfl
@[simp] theorem State.setConv_fw (c : Nat) (v : Conv) : (s.setConv c v).fw = s.fw := rfl
@[simp] theorem State.setConv_loop (c : Nat) (v : Conv) : (s.setConv c v).loop = s.loop := rfl
@[simp] theorem State.setConv_test (c : Nat) (v : Conv) : (s.setConv c v).test = s.test := rfl
@[simp] theorem State.setConv_hk_fifo (c : Nat) (v : Conv) : (s.setConv c v).hk.fifo = s.hk.fifo := rfl
@[simp] theorem State.setConv_hk_sxp (c : Nat) (v : Conv) : (s.setConv c v).hk.sxp = s.hk.sxp := rfl
@[simp] theorem State.setConv_hk_lowNext (c : Nat) (v : Conv) : (s.setConv c v).hk.lowNext = s.hk.lowNext := rfl
@[simp] theorem State.setConv_hk_privPass (c : Nat) (v : Conv) : (s.setConv c v).hk.privPass = s.hk.privPass := rfl

/-! ## setTri -/

@[simp] theorem State.setTri_pending (i : Nat) (v : BitVec 80) : (s.setTri i v).pending = s.pending := rfl
@[simp] theorem State.setTri_free (i : Nat) (v : BitVec 80) : (s.setTri i v).free = s.free := rfl
@[simp] theorem State.setTri_ticks (i : Nat) (v : BitVec 80) : (s.setTri i v).ticks = s.ticks := rfl
@[simp] theorem State.setTri_out (i : Nat) (v : BitVec 80) : (s.setTri i v).out = s.out := rfl
@[simp] theorem State.setTri_hostMem (i : Nat) (v : BitVec 80) : (s.setTri i v).hostMem = s.hostMem := rfl
@[simp] theorem State.setTri_node (i : Nat) (v : BitVec 80) : (s.setTri i v).node = s.node := rfl
@[simp] theorem State.setTri_regs (i : Nat) (v : BitVec 80) : (s.setTri i v).regs = s.regs := rfl
@[simp] theorem State.setTri_cfg (i : Nat) (v : BitVec 80) : (s.setTri i v).cfg = s.cfg := rfl
@[simp] theorem State.setTri_time (i : Nat) (v : BitVec 80) : (s.setTri i v).time = s.time := rfl
@[simp] theorem State.setTri_regions (i : Nat) (v : BitVec 80) : (s.setTri i v).regions = s.regions := rfl
@[simp] theorem State.setTri_cells (i : Nat) (v : BitVec 80) : (s.setTri i v).cells = s.cells := rfl
@[simp] theorem State.setTri_blocks (i : Nat) (v : BitVec 80) : (s.setTri i v).blocks = s.blocks := rfl
@[simp] theorem State.setTri_trig (i : Nat) (v : BitVec 80) : (s.setTri i v).trig = s.trig := rfl
@[simp] theorem State.setTri_pool (i : Nat) (v : BitVec 80) : (s.setTri i v).pool = s.pool := rfl
@[simp] theorem State.setTri_dir (i : Nat) (v : BitVec 80) : (s.setTri i v).dir = s.dir := rfl
@[simp] theorem State.setTri_ports (i : Nat) (v : BitVec 80) : (s.setTri i v).ports = s.ports := rfl
@[simp] theorem State.setTri_pair (i : Nat) (v : BitVec 80) : (s.setTri i v).pair = s.pair := rfl
@[simp] theorem State.setTri_mems (i : Nat) (v : BitVec 80) : (s.setTri i v).mems = s.mems := rfl
@[simp] theorem State.setTri_host (i : Nat) (v : BitVec 80) : (s.setTri i v).host = s.host := rfl
@[simp] theorem State.setTri_mbox (i : Nat) (v : BitVec 80) : (s.setTri i v).mbox = s.mbox := rfl
@[simp] theorem State.setTri_fw (i : Nat) (v : BitVec 80) : (s.setTri i v).fw = s.fw := rfl
@[simp] theorem State.setTri_hk (i : Nat) (v : BitVec 80) : (s.setTri i v).hk = s.hk := rfl
@[simp] theorem State.setTri_loop (i : Nat) (v : BitVec 80) : (s.setTri i v).loop = s.loop := rfl
@[simp] theorem State.setTri_test (i : Nat) (v : BitVec 80) : (s.setTri i v).test = s.test := rfl
@[simp] theorem State.setTri_prot_log (i : Nat) (v : BitVec 80) : (s.setTri i v).prot.log = s.prot.log := rfl
@[simp] theorem State.setTri_prot_recent (i : Nat) (v : BitVec 80) : (s.setTri i v).prot.recent = s.prot.recent := rfl
@[simp] theorem State.setTri_prot_logTimes (i : Nat) (v : BitVec 80) : (s.setTri i v).prot.logTimes = s.prot.logTimes := rfl
@[simp] theorem State.setTri_prot_suppressed (i : Nat) (v : BitVec 80) : (s.setTri i v).prot.suppressed = s.prot.suppressed := rfl
@[simp] theorem State.setTri_prot_pages (i : Nat) (v : BitVec 80) : (s.setTri i v).prot.pages = s.prot.pages := rfl
@[simp] theorem State.setTri_prot_banks (i : Nat) (v : BitVec 80) : (s.setTri i v).prot.banks = s.prot.banks := rfl
@[simp] theorem State.setTri_prot_withheld (i : Nat) (v : BitVec 80) : (s.setTri i v).prot.withheld = s.prot.withheld := rfl

/-! ## setLock -/

@[simp] theorem State.setLock_pending (i : Nat) (v : W32) : (s.setLock i v).pending = s.pending := rfl
@[simp] theorem State.setLock_free (i : Nat) (v : W32) : (s.setLock i v).free = s.free := rfl
@[simp] theorem State.setLock_ticks (i : Nat) (v : W32) : (s.setLock i v).ticks = s.ticks := rfl
@[simp] theorem State.setLock_out (i : Nat) (v : W32) : (s.setLock i v).out = s.out := rfl
@[simp] theorem State.setLock_hostMem (i : Nat) (v : W32) : (s.setLock i v).hostMem = s.hostMem := rfl
@[simp] theorem State.setLock_node (i : Nat) (v : W32) : (s.setLock i v).node = s.node := rfl
@[simp] theorem State.setLock_regs (i : Nat) (v : W32) : (s.setLock i v).regs = s.regs := rfl
@[simp] theorem State.setLock_cfg (i : Nat) (v : W32) : (s.setLock i v).cfg = s.cfg := rfl
@[simp] theorem State.setLock_time (i : Nat) (v : W32) : (s.setLock i v).time = s.time := rfl
@[simp] theorem State.setLock_regions (i : Nat) (v : W32) : (s.setLock i v).regions = s.regions := rfl
@[simp] theorem State.setLock_cells (i : Nat) (v : W32) : (s.setLock i v).cells = s.cells := rfl
@[simp] theorem State.setLock_blocks (i : Nat) (v : W32) : (s.setLock i v).blocks = s.blocks := rfl
@[simp] theorem State.setLock_trig (i : Nat) (v : W32) : (s.setLock i v).trig = s.trig := rfl
@[simp] theorem State.setLock_pool (i : Nat) (v : W32) : (s.setLock i v).pool = s.pool := rfl
@[simp] theorem State.setLock_dir (i : Nat) (v : W32) : (s.setLock i v).dir = s.dir := rfl
@[simp] theorem State.setLock_ports (i : Nat) (v : W32) : (s.setLock i v).ports = s.ports := rfl
@[simp] theorem State.setLock_pair (i : Nat) (v : W32) : (s.setLock i v).pair = s.pair := rfl
@[simp] theorem State.setLock_mems (i : Nat) (v : W32) : (s.setLock i v).mems = s.mems := rfl
@[simp] theorem State.setLock_host (i : Nat) (v : W32) : (s.setLock i v).host = s.host := rfl
@[simp] theorem State.setLock_mbox (i : Nat) (v : W32) : (s.setLock i v).mbox = s.mbox := rfl
@[simp] theorem State.setLock_fw (i : Nat) (v : W32) : (s.setLock i v).fw = s.fw := rfl
@[simp] theorem State.setLock_hk (i : Nat) (v : W32) : (s.setLock i v).hk = s.hk := rfl
@[simp] theorem State.setLock_loop (i : Nat) (v : W32) : (s.setLock i v).loop = s.loop := rfl
@[simp] theorem State.setLock_test (i : Nat) (v : W32) : (s.setLock i v).test = s.test := rfl
@[simp] theorem State.setLock_prot_log (i : Nat) (v : W32) : (s.setLock i v).prot.log = s.prot.log := rfl
@[simp] theorem State.setLock_prot_recent (i : Nat) (v : W32) : (s.setLock i v).prot.recent = s.prot.recent := rfl
@[simp] theorem State.setLock_prot_logTimes (i : Nat) (v : W32) : (s.setLock i v).prot.logTimes = s.prot.logTimes := rfl
@[simp] theorem State.setLock_prot_suppressed (i : Nat) (v : W32) : (s.setLock i v).prot.suppressed = s.prot.suppressed := rfl
@[simp] theorem State.setLock_prot_pages (i : Nat) (v : W32) : (s.setLock i v).prot.pages = s.prot.pages := rfl
@[simp] theorem State.setLock_prot_banks (i : Nat) (v : W32) : (s.setLock i v).prot.banks = s.prot.banks := rfl
@[simp] theorem State.setLock_prot_withheld (i : Nat) (v : W32) : (s.setLock i v).prot.withheld = s.prot.withheld := rfl

/-! ## setBar0 -/

@[simp] theorem State.setBar0_pending (o : Nat) (v : W32) : (s.setBar0 o v).pending = s.pending := rfl
@[simp] theorem State.setBar0_free (o : Nat) (v : W32) : (s.setBar0 o v).free = s.free := rfl
@[simp] theorem State.setBar0_ticks (o : Nat) (v : W32) : (s.setBar0 o v).ticks = s.ticks := rfl
@[simp] theorem State.setBar0_out (o : Nat) (v : W32) : (s.setBar0 o v).out = s.out := rfl
@[simp] theorem State.setBar0_hostMem (o : Nat) (v : W32) : (s.setBar0 o v).hostMem = s.hostMem := rfl
@[simp] theorem State.setBar0_node (o : Nat) (v : W32) : (s.setBar0 o v).node = s.node := rfl
@[simp] theorem State.setBar0_regs (o : Nat) (v : W32) : (s.setBar0 o v).regs = s.regs := rfl
@[simp] theorem State.setBar0_cfg (o : Nat) (v : W32) : (s.setBar0 o v).cfg = s.cfg := rfl
@[simp] theorem State.setBar0_time (o : Nat) (v : W32) : (s.setBar0 o v).time = s.time := rfl
@[simp] theorem State.setBar0_regions (o : Nat) (v : W32) : (s.setBar0 o v).regions = s.regions := rfl
@[simp] theorem State.setBar0_cells (o : Nat) (v : W32) : (s.setBar0 o v).cells = s.cells := rfl
@[simp] theorem State.setBar0_blocks (o : Nat) (v : W32) : (s.setBar0 o v).blocks = s.blocks := rfl
@[simp] theorem State.setBar0_trig (o : Nat) (v : W32) : (s.setBar0 o v).trig = s.trig := rfl
@[simp] theorem State.setBar0_pool (o : Nat) (v : W32) : (s.setBar0 o v).pool = s.pool := rfl
@[simp] theorem State.setBar0_dir (o : Nat) (v : W32) : (s.setBar0 o v).dir = s.dir := rfl
@[simp] theorem State.setBar0_ports (o : Nat) (v : W32) : (s.setBar0 o v).ports = s.ports := rfl
@[simp] theorem State.setBar0_pair (o : Nat) (v : W32) : (s.setBar0 o v).pair = s.pair := rfl
@[simp] theorem State.setBar0_mems (o : Nat) (v : W32) : (s.setBar0 o v).mems = s.mems := rfl
@[simp] theorem State.setBar0_prot (o : Nat) (v : W32) : (s.setBar0 o v).prot = s.prot := rfl
@[simp] theorem State.setBar0_mbox (o : Nat) (v : W32) : (s.setBar0 o v).mbox = s.mbox := rfl
@[simp] theorem State.setBar0_fw (o : Nat) (v : W32) : (s.setBar0 o v).fw = s.fw := rfl
@[simp] theorem State.setBar0_hk (o : Nat) (v : W32) : (s.setBar0 o v).hk = s.hk := rfl
@[simp] theorem State.setBar0_loop (o : Nat) (v : W32) : (s.setBar0 o v).loop = s.loop := rfl
@[simp] theorem State.setBar0_test (o : Nat) (v : W32) : (s.setBar0 o v).test = s.test := rfl
@[simp] theorem State.setBar0_host_pba (o : Nat) (v : W32) : (s.setBar0 o v).host.pba = s.host.pba := rfl
@[simp] theorem State.setBar0_host_linkUp (o : Nat) (v : W32) : (s.setBar0 o v).host.linkUp = s.host.linkUp := rfl
@[simp] theorem State.setBar0_host_d3hot (o : Nat) (v : W32) : (s.setBar0 o v).host.d3hot = s.host.d3hot := rfl
@[simp] theorem State.setBar0_host_busMaster (o : Nat) (v : W32) : (s.setBar0 o v).host.busMaster = s.host.busMaster := rfl
@[simp] theorem State.setBar0_host_wbCount (o : Nat) (v : W32) : (s.setBar0 o v).host.wbCount = s.host.wbCount := rfl
@[simp] theorem State.setBar0_host_wbDue (o : Nat) (v : W32) : (s.setBar0 o v).host.wbDue = s.host.wbDue := rfl
@[simp] theorem State.setBar0_host_lastSignal (o : Nat) (v : W32) : (s.setBar0 o v).host.lastSignal = s.host.lastSignal := rfl
@[simp] theorem State.setBar0_host_holdPending (o : Nat) (v : W32) : (s.setBar0 o v).host.holdPending = s.host.holdPending := rfl
@[simp] theorem State.setBar0_host_ptmMaster (o : Nat) (v : W32) : (s.setBar0 o v).host.ptmMaster = s.host.ptmMaster := rfl
@[simp] theorem State.setBar0_host_ptmStamp (o : Nat) (v : W32) : (s.setBar0 o v).host.ptmStamp = s.host.ptmStamp := rfl
@[simp] theorem State.setBar0_host_odd (o : Nat) (v : W32) : (s.setBar0 o v).host.odd = s.host.odd := rfl
@[simp] theorem State.setBar0_host_control (o : Nat) (v : W32) : (s.setBar0 o v).host.control = s.host.control := rfl

/-! ## setItems -/

@[simp] theorem State.setItems_pending (l : List Item) : (s.setItems l).pending = s.pending := rfl
@[simp] theorem State.setItems_free (l : List Item) : (s.setItems l).free = s.free := rfl
@[simp] theorem State.setItems_ticks (l : List Item) : (s.setItems l).ticks = s.ticks := rfl
@[simp] theorem State.setItems_out (l : List Item) : (s.setItems l).out = s.out := rfl
@[simp] theorem State.setItems_hostMem (l : List Item) : (s.setItems l).hostMem = s.hostMem := rfl
@[simp] theorem State.setItems_node (l : List Item) : (s.setItems l).node = s.node := rfl
@[simp] theorem State.setItems_regs (l : List Item) : (s.setItems l).regs = s.regs := rfl
@[simp] theorem State.setItems_cfg (l : List Item) : (s.setItems l).cfg = s.cfg := rfl
@[simp] theorem State.setItems_time (l : List Item) : (s.setItems l).time = s.time := rfl
@[simp] theorem State.setItems_regions (l : List Item) : (s.setItems l).regions = s.regions := rfl
@[simp] theorem State.setItems_cells (l : List Item) : (s.setItems l).cells = s.cells := rfl
@[simp] theorem State.setItems_blocks (l : List Item) : (s.setItems l).blocks = s.blocks := rfl
@[simp] theorem State.setItems_trig (l : List Item) : (s.setItems l).trig = s.trig := rfl
@[simp] theorem State.setItems_dir (l : List Item) : (s.setItems l).dir = s.dir := rfl
@[simp] theorem State.setItems_ports (l : List Item) : (s.setItems l).ports = s.ports := rfl
@[simp] theorem State.setItems_pair (l : List Item) : (s.setItems l).pair = s.pair := rfl
@[simp] theorem State.setItems_mems (l : List Item) : (s.setItems l).mems = s.mems := rfl
@[simp] theorem State.setItems_prot (l : List Item) : (s.setItems l).prot = s.prot := rfl
@[simp] theorem State.setItems_host (l : List Item) : (s.setItems l).host = s.host := rfl
@[simp] theorem State.setItems_mbox (l : List Item) : (s.setItems l).mbox = s.mbox := rfl
@[simp] theorem State.setItems_fw (l : List Item) : (s.setItems l).fw = s.fw := rfl
@[simp] theorem State.setItems_hk (l : List Item) : (s.setItems l).hk = s.hk := rfl
@[simp] theorem State.setItems_loop (l : List Item) : (s.setItems l).loop = s.loop := rfl
@[simp] theorem State.setItems_test (l : List Item) : (s.setItems l).test = s.test := rfl
@[simp] theorem State.setItems_pool_nextItem (l : List Item) : (s.setItems l).pool.nextItem = s.pool.nextItem := rfl
@[simp] theorem State.setItems_pool_nextAge (l : List Item) : (s.setItems l).pool.nextAge = s.pool.nextAge := rfl
@[simp] theorem State.setItems_pool_bankPtr (l : List Item) : (s.setItems l).pool.bankPtr = s.pool.bankPtr := rfl
@[simp] theorem State.setItems_pool_orphans (l : List Item) : (s.setItems l).pool.orphans = s.pool.orphans := rfl
@[simp] theorem State.setItems_pool_ctxs (l : List Item) : (s.setItems l).pool.ctxs = s.pool.ctxs := rfl
@[simp] theorem State.setItems_pool_nextCtx (l : List Item) : (s.setItems l).pool.nextCtx = s.pool.nextCtx := rfl
@[simp] theorem State.setItems_pool_lastClosed (l : List Item) : (s.setItems l).pool.lastClosed = s.pool.lastClosed := rfl
@[simp] theorem State.setItems_pool_closedEvents (l : List Item) : (s.setItems l).pool.closedEvents = s.pool.closedEvents := rfl
@[simp] theorem State.setItems_pool_closedFrames (l : List Item) : (s.setItems l).pool.closedFrames = s.pool.closedFrames := rfl
@[simp] theorem State.setItems_pool_ownLost (l : List Item) : (s.setItems l).pool.ownLost = s.pool.ownLost := rfl
@[simp] theorem State.setItems_pool_asms (l : List Item) : (s.setItems l).pool.asms = s.pool.asms := rfl
@[simp] theorem State.setItems_pool_toComplete (l : List Item) : (s.setItems l).pool.toComplete = s.pool.toComplete := rfl
@[simp] theorem State.setItems_pool_arbPos (l : List Item) : (s.setItems l).pool.arbPos = s.pool.arbPos := rfl
@[simp] theorem State.setItems_pool_agg (l : List Item) : (s.setItems l).pool.agg = s.pool.agg := rfl
@[simp] theorem State.setItems_pool_rawRem (l : List Item) : (s.setItems l).pool.rawRem = s.pool.rawRem := rfl
@[simp] theorem State.setItems_pool_outRem (l : List Item) : (s.setItems l).pool.outRem = s.pool.outRem := rfl
@[simp] theorem State.setItems_pool_regFifo (l : List Item) : (s.setItems l).pool.regFifo = s.pool.regFifo := rfl
@[simp] theorem State.setItems_pool_regDone (l : List Item) : (s.setItems l).pool.regDone = s.pool.regDone := rfl
@[simp] theorem State.setItems_pool_regMore (l : List Item) : (s.setItems l).pool.regMore = s.pool.regMore := rfl
@[simp] theorem State.setItems_pool_frags (l : List Item) : (s.setItems l).pool.frags = s.pool.frags := rfl
@[simp] theorem State.setItems_pool_frameDone (l : List Item) : (s.setItems l).pool.frameDone = s.pool.frameDone := rfl
@[simp] theorem State.setItems_pool_readers (l : List Item) : (s.setItems l).pool.readers = s.pool.readers := rfl
@[simp] theorem State.setItems_pool_parked (l : List Item) : (s.setItems l).pool.parked = s.pool.parked := rfl
@[simp] theorem State.setItems_pool_north (l : List Item) : (s.setItems l).pool.north = s.pool.north := rfl
@[simp] theorem State.setItems_pool_held (l : List Item) : (s.setItems l).pool.held = s.pool.held := rfl
@[simp] theorem State.setItems_pool_reclaimDue (l : List Item) : (s.setItems l).pool.reclaimDue = s.pool.reclaimDue := rfl
@[simp] theorem State.setItems_pool_lastThrottle (l : List Item) : (s.setItems l).pool.lastThrottle = s.pool.lastThrottle := rfl
@[simp] theorem State.setItems_pool_excludedBank (l : List Item) : (s.setItems l).pool.excludedBank = s.pool.excludedBank := rfl

/-! ## setHops -/

@[simp] theorem State.setHops_pending (l : List Hop) : (s.setHops l).pending = s.pending := rfl
@[simp] theorem State.setHops_free (l : List Hop) : (s.setHops l).free = s.free := rfl
@[simp] theorem State.setHops_ticks (l : List Hop) : (s.setHops l).ticks = s.ticks := rfl
@[simp] theorem State.setHops_out (l : List Hop) : (s.setHops l).out = s.out := rfl
@[simp] theorem State.setHops_hostMem (l : List Hop) : (s.setHops l).hostMem = s.hostMem := rfl
@[simp] theorem State.setHops_node (l : List Hop) : (s.setHops l).node = s.node := rfl
@[simp] theorem State.setHops_regs (l : List Hop) : (s.setHops l).regs = s.regs := rfl
@[simp] theorem State.setHops_cfg (l : List Hop) : (s.setHops l).cfg = s.cfg := rfl
@[simp] theorem State.setHops_time (l : List Hop) : (s.setHops l).time = s.time := rfl
@[simp] theorem State.setHops_regions (l : List Hop) : (s.setHops l).regions = s.regions := rfl
@[simp] theorem State.setHops_cells (l : List Hop) : (s.setHops l).cells = s.cells := rfl
@[simp] theorem State.setHops_blocks (l : List Hop) : (s.setHops l).blocks = s.blocks := rfl
@[simp] theorem State.setHops_trig (l : List Hop) : (s.setHops l).trig = s.trig := rfl
@[simp] theorem State.setHops_pool (l : List Hop) : (s.setHops l).pool = s.pool := rfl
@[simp] theorem State.setHops_dir (l : List Hop) : (s.setHops l).dir = s.dir := rfl
@[simp] theorem State.setHops_ports (l : List Hop) : (s.setHops l).ports = s.ports := rfl
@[simp] theorem State.setHops_pair (l : List Hop) : (s.setHops l).pair = s.pair := rfl
@[simp] theorem State.setHops_mems (l : List Hop) : (s.setHops l).mems = s.mems := rfl
@[simp] theorem State.setHops_prot (l : List Hop) : (s.setHops l).prot = s.prot := rfl
@[simp] theorem State.setHops_host (l : List Hop) : (s.setHops l).host = s.host := rfl
@[simp] theorem State.setHops_fw (l : List Hop) : (s.setHops l).fw = s.fw := rfl
@[simp] theorem State.setHops_hk (l : List Hop) : (s.setHops l).hk = s.hk := rfl
@[simp] theorem State.setHops_loop (l : List Hop) : (s.setHops l).loop = s.loop := rfl
@[simp] theorem State.setHops_test (l : List Hop) : (s.setHops l).test = s.test := rfl
@[simp] theorem State.setHops_mbox_order (l : List Hop) : (s.setHops l).mbox.order = s.mbox.order := rfl
@[simp] theorem State.setHops_mbox_inDoorbell (l : List Hop) : (s.setHops l).mbox.inDoorbell = s.mbox.inDoorbell := rfl
@[simp] theorem State.setHops_mbox_outDoorbell (l : List Hop) : (s.setHops l).mbox.outDoorbell = s.mbox.outDoorbell := rfl
@[simp] theorem State.setHops_mbox_arrival (l : List Hop) : (s.setHops l).mbox.arrival = s.mbox.arrival := rfl
@[simp] theorem State.setHops_mbox_redo (l : List Hop) : (s.setHops l).mbox.redo = s.mbox.redo := rfl
@[simp] theorem State.setHops_mbox_owed (l : List Hop) : (s.setHops l).mbox.owed = s.mbox.owed := rfl

/-! ## sendMsg -/

@[simp] theorem State.sendMsg_pending (p : Nat) (m : CtlMsg) : (s.sendMsg p m).pending = s.pending := rfl
@[simp] theorem State.sendMsg_free (p : Nat) (m : CtlMsg) : (s.sendMsg p m).free = s.free := rfl
@[simp] theorem State.sendMsg_ticks (p : Nat) (m : CtlMsg) : (s.sendMsg p m).ticks = s.ticks := rfl
@[simp] theorem State.sendMsg_out (p : Nat) (m : CtlMsg) : (s.sendMsg p m).out = s.out := rfl
@[simp] theorem State.sendMsg_hostMem (p : Nat) (m : CtlMsg) : (s.sendMsg p m).hostMem = s.hostMem := rfl
@[simp] theorem State.sendMsg_node (p : Nat) (m : CtlMsg) : (s.sendMsg p m).node = s.node := rfl
@[simp] theorem State.sendMsg_regs (p : Nat) (m : CtlMsg) : (s.sendMsg p m).regs = s.regs := rfl
@[simp] theorem State.sendMsg_cfg (p : Nat) (m : CtlMsg) : (s.sendMsg p m).cfg = s.cfg := rfl
@[simp] theorem State.sendMsg_time (p : Nat) (m : CtlMsg) : (s.sendMsg p m).time = s.time := rfl
@[simp] theorem State.sendMsg_regions (p : Nat) (m : CtlMsg) : (s.sendMsg p m).regions = s.regions := rfl
@[simp] theorem State.sendMsg_cells (p : Nat) (m : CtlMsg) : (s.sendMsg p m).cells = s.cells := rfl
@[simp] theorem State.sendMsg_blocks (p : Nat) (m : CtlMsg) : (s.sendMsg p m).blocks = s.blocks := rfl
@[simp] theorem State.sendMsg_trig (p : Nat) (m : CtlMsg) : (s.sendMsg p m).trig = s.trig := rfl
@[simp] theorem State.sendMsg_pool (p : Nat) (m : CtlMsg) : (s.sendMsg p m).pool = s.pool := rfl
@[simp] theorem State.sendMsg_dir (p : Nat) (m : CtlMsg) : (s.sendMsg p m).dir = s.dir := rfl
@[simp] theorem State.sendMsg_pair (p : Nat) (m : CtlMsg) : (s.sendMsg p m).pair = s.pair := rfl
@[simp] theorem State.sendMsg_mems (p : Nat) (m : CtlMsg) : (s.sendMsg p m).mems = s.mems := rfl
@[simp] theorem State.sendMsg_prot (p : Nat) (m : CtlMsg) : (s.sendMsg p m).prot = s.prot := rfl
@[simp] theorem State.sendMsg_host (p : Nat) (m : CtlMsg) : (s.sendMsg p m).host = s.host := rfl
@[simp] theorem State.sendMsg_mbox (p : Nat) (m : CtlMsg) : (s.sendMsg p m).mbox = s.mbox := rfl
@[simp] theorem State.sendMsg_fw (p : Nat) (m : CtlMsg) : (s.sendMsg p m).fw = s.fw := rfl
@[simp] theorem State.sendMsg_hk (p : Nat) (m : CtlMsg) : (s.sendMsg p m).hk = s.hk := rfl
@[simp] theorem State.sendMsg_loop (p : Nat) (m : CtlMsg) : (s.sendMsg p m).loop = s.loop := rfl
@[simp] theorem State.sendMsg_test (p : Nat) (m : CtlMsg) : (s.sendMsg p m).test = s.test := rfl

/-! ## emit -/

@[simp] theorem State.emit_pending (o : Out) : (s.emit o).pending = s.pending := rfl
@[simp] theorem State.emit_free (o : Out) : (s.emit o).free = s.free := rfl
@[simp] theorem State.emit_ticks (o : Out) : (s.emit o).ticks = s.ticks := rfl
@[simp] theorem State.emit_hostMem (o : Out) : (s.emit o).hostMem = s.hostMem := rfl
@[simp] theorem State.emit_node (o : Out) : (s.emit o).node = s.node := rfl
@[simp] theorem State.emit_regs (o : Out) : (s.emit o).regs = s.regs := rfl
@[simp] theorem State.emit_cfg (o : Out) : (s.emit o).cfg = s.cfg := rfl
@[simp] theorem State.emit_time (o : Out) : (s.emit o).time = s.time := rfl
@[simp] theorem State.emit_regions (o : Out) : (s.emit o).regions = s.regions := rfl
@[simp] theorem State.emit_cells (o : Out) : (s.emit o).cells = s.cells := rfl
@[simp] theorem State.emit_blocks (o : Out) : (s.emit o).blocks = s.blocks := rfl
@[simp] theorem State.emit_trig (o : Out) : (s.emit o).trig = s.trig := rfl
@[simp] theorem State.emit_pool (o : Out) : (s.emit o).pool = s.pool := rfl
@[simp] theorem State.emit_dir (o : Out) : (s.emit o).dir = s.dir := rfl
@[simp] theorem State.emit_ports (o : Out) : (s.emit o).ports = s.ports := rfl
@[simp] theorem State.emit_pair (o : Out) : (s.emit o).pair = s.pair := rfl
@[simp] theorem State.emit_mems (o : Out) : (s.emit o).mems = s.mems := rfl
@[simp] theorem State.emit_prot (o : Out) : (s.emit o).prot = s.prot := rfl
@[simp] theorem State.emit_host (o : Out) : (s.emit o).host = s.host := rfl
@[simp] theorem State.emit_mbox (o : Out) : (s.emit o).mbox = s.mbox := rfl
@[simp] theorem State.emit_fw (o : Out) : (s.emit o).fw = s.fw := rfl
@[simp] theorem State.emit_hk (o : Out) : (s.emit o).hk = s.hk := rfl
@[simp] theorem State.emit_loop (o : Out) : (s.emit o).loop = s.loop := rfl
@[simp] theorem State.emit_test (o : Out) : (s.emit o).test = s.test := rfl

/-! ## drawn -/

@[simp] theorem State.drawn_pending : (s.drawn ).pending = s.pending := rfl
@[simp] theorem State.drawn_ticks : (s.drawn ).ticks = s.ticks := rfl
@[simp] theorem State.drawn_out : (s.drawn ).out = s.out := rfl
@[simp] theorem State.drawn_hostMem : (s.drawn ).hostMem = s.hostMem := rfl
@[simp] theorem State.drawn_node : (s.drawn ).node = s.node := rfl
@[simp] theorem State.drawn_regs : (s.drawn ).regs = s.regs := rfl
@[simp] theorem State.drawn_cfg : (s.drawn ).cfg = s.cfg := rfl
@[simp] theorem State.drawn_time : (s.drawn ).time = s.time := rfl
@[simp] theorem State.drawn_regions : (s.drawn ).regions = s.regions := rfl
@[simp] theorem State.drawn_cells : (s.drawn ).cells = s.cells := rfl
@[simp] theorem State.drawn_blocks : (s.drawn ).blocks = s.blocks := rfl
@[simp] theorem State.drawn_trig : (s.drawn ).trig = s.trig := rfl
@[simp] theorem State.drawn_pool : (s.drawn ).pool = s.pool := rfl
@[simp] theorem State.drawn_dir : (s.drawn ).dir = s.dir := rfl
@[simp] theorem State.drawn_ports : (s.drawn ).ports = s.ports := rfl
@[simp] theorem State.drawn_pair : (s.drawn ).pair = s.pair := rfl
@[simp] theorem State.drawn_mems : (s.drawn ).mems = s.mems := rfl
@[simp] theorem State.drawn_prot : (s.drawn ).prot = s.prot := rfl
@[simp] theorem State.drawn_host : (s.drawn ).host = s.host := rfl
@[simp] theorem State.drawn_mbox : (s.drawn ).mbox = s.mbox := rfl
@[simp] theorem State.drawn_fw : (s.drawn ).fw = s.fw := rfl
@[simp] theorem State.drawn_hk : (s.drawn ).hk = s.hk := rfl
@[simp] theorem State.drawn_loop : (s.drawn ).loop = s.loop := rfl
@[simp] theorem State.drawn_test : (s.drawn ).test = s.test := rfl

/-! ## A read after a write -/

@[simp] theorem State.emit_out (o : Out) : (s.emit o).out = o :: s.out := rfl
@[simp] theorem State.drawn_free : s.drawn.free = s.free + 1 := rfl
@[simp] theorem State.setItems_items (l : List Item) : (s.setItems l).pool.items = l := rfl
@[simp] theorem State.setHops_hops (l : List Hop) : (s.setHops l).mbox.hops = l := rfl

@[simp] theorem State.setRegion_region_same (i : Nat) (v : Region) : (s.setRegion i v).region i = v := Tab.get_set_same _ _ _ _
theorem State.setRegion_region_other {i j : Nat} (v : Region) (h : j ≠ i) : (s.setRegion i v).region j = s.region j :=
  Tab.get_set_other _ _ _ h
@[simp] theorem State.setCell_cell_same (i : Nat) (v : Cell) : (s.setCell i v).cell i = v := Tab.get_set_same _ _ _ _
theorem State.setCell_cell_other {i j : Nat} (v : Cell) (h : j ≠ i) : (s.setCell i v).cell j = s.cell j :=
  Tab.get_set_other _ _ _ h
@[simp] theorem State.setBlock_block_same (i : Nat) (v : Block) : (s.setBlock i v).block i = v := Tab.get_set_same _ _ _ _
theorem State.setBlock_block_other {i j : Nat} (v : Block) (h : j ≠ i) : (s.setBlock i v).block j = s.block j :=
  Tab.get_set_other _ _ _ h
@[simp] theorem State.setPort_port_same (i : Nat) (v : Port) : (s.setPort i v).port i = v := Tab.get_set_same _ _ _ _
theorem State.setPort_port_other {i j : Nat} (v : Port) (h : j ≠ i) : (s.setPort i v).port j = s.port j :=
  Tab.get_set_other _ _ _ h
@[simp] theorem State.setMem_mem_same (i : Nat) (v : Mem) : (s.setMem i v).mem i = v := Tab.get_set_same _ _ _ _
theorem State.setMem_mem_other {i j : Nat} (v : Mem) (h : j ≠ i) : (s.setMem i v).mem j = s.mem j :=
  Tab.get_set_other _ _ _ h
@[simp] theorem State.setPid_pid_same (i : Nat) (v : Loop) : (s.setPid i v).pid i = v := Tab.get_set_same _ _ _ _
theorem State.setPid_pid_other {i j : Nat} (v : Loop) (h : j ≠ i) : (s.setPid i v).pid j = s.pid j :=
  Tab.get_set_other _ _ _ h
@[simp] theorem State.setSxp_sxp_same (i : Nat) (v : Sxp) : (s.setSxp i v).sxp i = v := Tab.get_set_same _ _ _ _
theorem State.setSxp_sxp_other {i j : Nat} (v : Sxp) (h : j ≠ i) : (s.setSxp i v).sxp j = s.sxp j :=
  Tab.get_set_other _ _ _ h
@[simp] theorem State.setConv_conv_same (i : Nat) (v : Conv) : (s.setConv i v).conv i = v := Tab.get_set_same _ _ _ _
theorem State.setConv_conv_other {i j : Nat} (v : Conv) (h : j ≠ i) : (s.setConv i v).conv j = s.conv j :=
  Tab.get_set_other _ _ _ h

@[simp] theorem State.setWord_word_same (o : Nat) (v : W32) : (s.setWord o v).word o = v := by
  simp [State.word, State.setWord]
theorem State.setWord_word_other {o p : Nat} (v : W32) (h : p ≠ o) : (s.setWord o v).word p = s.word p := by
  simp [State.word, State.setWord, Tab.get_set_other _ _ _ h]
@[simp] theorem State.setRecord_record_same (k v : Nat) : (s.setRecord k v).record k = v := by
  simp [State.record, State.setRecord]
theorem State.setRecord_record_other {k j : Nat} (v : Nat) (h : j ≠ k) : (s.setRecord k v).record j = s.record j := by
  simp [State.record, State.setRecord, Tab.get_set_other _ _ _ h]
@[simp] theorem State.setBar0_bar0_same (o : Nat) (v : W32) : (s.setBar0 o v).bar0 o = v := by
  simp [State.bar0, State.setBar0]
theorem State.setBar0_bar0_other {o p : Nat} (v : W32) (h : p ≠ o) : (s.setBar0 o v).bar0 p = s.bar0 p := by
  simp [State.bar0, State.setBar0, Tab.get_set_other _ _ _ h]
@[simp] theorem Tri.vote_same (v : BitVec 80) : Tri.vote ⟨v, v, v⟩ = v := by
  simp [Tri.vote]
@[simp] theorem State.setTri_triWord_same (i : Nat) (v : BitVec 80) : (s.setTri i v).triWord i = v := by
  simp [State.triWord, State.setTri]
theorem State.setTri_triWord_other {i j : Nat} (v : BitVec 80) (h : j ≠ i) : (s.setTri i v).triWord j = s.triWord j := by
  simp [State.triWord, State.setTri, Tab.get_set_other _ _ _ h]

/-! ## Register fields -/

theorem fget_lt (v : W32) (lo n : Nat) : fget v lo n < 2 ^ n := Nat.mod_lt _ (Nat.two_pow_pos n)

theorem State.getF_lt (f : RF) : s.getF f < 2 ^ f.w := fget_lt _ _ _

theorem fget_testBit (v : W32) (lo n i : Nat) : (fget v lo n).testBit i = (decide (i < n) && v.getLsbD (lo + i)) := by
  simp [fget, Nat.testBit_mod_two_pow, Nat.testBit_shiftRight, BitVec.getLsbD]

theorem fset_getLsbD (v : W32) (lo n x i : Nat) : (fset v lo n x).getLsbD i =
    (decide (i < 32) && (if lo ≤ i ∧ i < lo + n then x.testBit (i - lo) else v.getLsbD i)) := by
  unfold fset
  rw [BitVec.getLsbD_or, BitVec.getLsbD_and, BitVec.getLsbD_not, BitVec.getLsbD_ofNat, BitVec.getLsbD_ofNat]
  simp only [Nat.testBit_shiftLeft, Nat.testBit_two_pow_sub_one, Nat.testBit_mod_two_pow]
  by_cases h : i < 32
  · by_cases h1 : lo ≤ i
    · by_cases h2 : i < lo + n
      · simp [h, h1, h2, show i - lo < n by omega]
      · simp [h, h1, h2, show ¬ i - lo < n by omega]
    · simp [h, h1]
  · simp [h]

theorem fget_fset_same (v : W32) {lo n : Nat} (x : Nat) (h : lo + n ≤ 32) : fget (fset v lo n x) lo n = x % 2 ^ n := by
  apply Nat.eq_of_testBit_eq
  intro i
  rw [fget_testBit, fset_getLsbD, Nat.testBit_mod_two_pow]
  by_cases hi : i < n
  · rw [if_pos ⟨by omega, by omega⟩]
    simp [hi, show lo + i < 32 by omega]
  · simp [hi]

theorem fget_fset_other (v : W32) {lo n lo' n' : Nat} (x : Nat) (h : lo' + n' ≤ lo ∨ lo + n ≤ lo') (h' : lo' + n' ≤ 32) :
    fget (fset v lo n x) lo' n' = fget v lo' n' := by
  apply Nat.eq_of_testBit_eq
  intro i
  rw [fget_testBit, fget_testBit, fset_getLsbD]
  by_cases hi : i < n'
  · rw [if_neg (by omega)]
    simp [hi, show lo' + i < 32 by omega]
  · simp [hi]

/-- A field after a write of it. -/
theorem State.getF_setF_same (f : RF) (x : Nat) (h : f.lo + f.w ≤ 32) : (s.setF f x).getF f = x % 2 ^ f.w := by
  rw [State.getF, State.setF, State.setWord_word_same, fget_fset_same _ _ h]

/-- A field after a write of another. -/
theorem State.getF_setF_other {f g : RF} (x : Nat) (h : g.off ≠ f.off ∨ g.lo + g.w ≤ f.lo ∨ f.lo + f.w ≤ g.lo)
    (hg : g.lo + g.w ≤ 32) : (s.setF f x).getF g = s.getF g := by
  by_cases ho : g.off = f.off
  · have h' := h.resolve_left (fun hn => hn ho)
    unfold State.getF State.setF
    rw [ho, State.setWord_word_same, fget_fset_other _ _ h' hg]
  · rw [State.getF, State.setF, State.setWord_word_other _ _ ho, State.getF]

theorem State.setF_word_other {f : RF} {p : Nat} (x : Nat) (h : p ≠ f.off) : (s.setF f x).word p = s.word p :=
  State.setWord_word_other s _ h

end Sys2Proof.Machine
end

