-- ==== Sys2Proof/Laws/Touch.lean ====
section
/-! SUPPORT. What an operation can do to the state, said once: `Touch P s t` says that `t` comes of `s` by updates of the parts in `P`
that keep the invariant, the queue, and everything that has left the node. One lemma per primitive update. -/

set_option Elab.async false

namespace Sys2Proof.Machine

/-- `t` comes of `s` by changing parts in `P` alone. -/
structure Touch (P : Comp → Prop) (s t : State) : Prop where
  pending : t.pending = s.pending
  out : s.out <:+ t.out
  ticks : s.ticks ≤ t.ticks
  free : s.free ≤ t.free
  inv : Inv s → Inv t
  frame : ∀ c, P c ∨ Same c s t

/-- `t` comes of `s` by updates of any parts. -/
abbrev Keep (s t : State) : Prop := Touch (fun _ => True) s t

variable {P Q : Comp → Prop} {s u : State}

theorem Same.refl (c : Comp) (s : State) : Same c s s := by cases c <;> simp [Same]

theorem Same.trans {c : Comp} {s u t : State} (h : Same c s u) (h' : Same c u t) : Same c s t := by
  cases c <;> simp only [Same] at * <;> first | exact h'.trans h | exact fun x => (h' x).trans (h x)

theorem Touch.refl (P : Comp → Prop) (s : State) : Touch P s s :=
  ⟨rfl, List.suffix_refl _, Nat.le_refl _, Nat.le_refl _, id, fun c => .inr (Same.refl c s)⟩

theorem Touch.trans {t : State} (h : Touch P s u) (h' : Touch P u t) : Touch P s t :=
  ⟨h'.pending.trans h.pending, h.out.trans h'.out, Nat.le_trans h.ticks h'.ticks, Nat.le_trans h.free h'.free,
    fun i => h'.inv (h.inv i), fun c => (h.frame c).elim .inl fun hc => (h'.frame c).imp_right hc.trans⟩

theorem Touch.mono {t : State} (h : Touch P s t) (hp : ∀ c, P c → Q c) : Touch Q s t :=
  ⟨h.pending, h.out, h.ticks, h.free, h.inv, fun c => (h.frame c).imp_left (hp c)⟩

theorem Touch.keep {t : State} (h : Touch P s t) : Keep s t := h.mono fun _ _ => trivial

theorem Touch.ite {c : Prop} {_ : Decidable c} {a b : State} (ha : Touch P s a) (hb : Touch P s b) :
    Touch P s (if c then a else b) := by split <;> assumption

theorem Touch.ite2 {α : Type} {c : Prop} {_ : Decidable c} {a b : α × State} (ha : Touch P s a.2) (hb : Touch P s b.2) :
    Touch P s (if c then a else b).2 := by split <;> assumption

theorem Touch.ite22 {α β : Type} {c : Prop} {_ : Decidable c} {a b : α × β × State} (ha : Touch P s a.2.2) (hb : Touch P s b.2.2) :
    Touch P s (if c then a else b).2.2 := by split <;> assumption

theorem Touch.foldl {α : Type} {f : State → α → State} (l : List α) (h : Touch P s u)
    (hf : ∀ v a, Touch P s v → Touch P s (f v a)) : Touch P s (l.foldl f u) := by
  induction l generalizing u with
  | nil => exact h
  | cons a l ih => exact ih (hf u a h)

theorem Touch.foldl2 {α β : Type} {f : β × State → α → β × State} (l : List α) {r : β × State} (h : Touch P s r.2)
    (hf : ∀ r a, Touch P s r.2 → Touch P s (f r a).2) : Touch P s (l.foldl f r).2 := by
  induction l generalizing r with
  | nil => exact h
  | cons a l ih => exact ih (hf r a h)

/-- Any update of the parts that are not tables of the invariant. -/
theorem Touch.upd (h : Touch P s u) {free : Nat} {ticks : Nat} {out : List Out} {node : NodeSt} {time : TimeSt} {trig : TrigSt}
    {pool : PoolSt} {dir : DirSt} {pair : PairSt} {prot : ProtSt} {host : HostSt} {mbox : MboxSt} {fw : FwSt} {hk : HkSt}
    {loop : LoopSt} {test : TestSt}
    (hfree : P .free ∧ u.free ≤ free ∨ free = u.free := by first | exact .inr rfl | exact .inl ⟨trivial, by with_unfolding_all first | exact Nat.le_add_right _ _ | simp⟩)
    (hticks : P .ticks ∧ u.ticks ≤ ticks ∨ ticks = u.ticks := by first | exact .inr rfl | exact .inl ⟨trivial, by with_unfolding_all first | exact Nat.le_add_right _ _ | simp⟩)
    (hout : P .out ∧ u.out <:+ out ∨ out = u.out := by first | exact .inr rfl | exact .inl ⟨trivial, by with_unfolding_all simp⟩)
    (hnode : P .node ∨ node = u.node := by first | exact .inl trivial | exact .inr rfl)
    (htime : P .time ∨ time = u.time := by first | exact .inl trivial | exact .inr rfl)
    (htrig : P .trig ∨ trig = u.trig := by first | exact .inl trivial | exact .inr rfl)
    (hpool : P .pool ∨ pool = u.pool := by first | exact .inl trivial | exact .inr rfl)
    (hclosed : pool.closedEvents = u.pool.closedEvents := by first | exact rfl | with_unfolding_all exact rfl)
    (hdir : P .dir ∨ dir = u.dir := by first | exact .inl trivial | exact .inr rfl)
    (hpair : P .pair ∨ pair = u.pair := by first | exact .inl trivial | exact .inr rfl)
    (hsigs : pair.sigs = u.pair.sigs := by first | exact rfl | with_unfolding_all exact rfl)
    (hprot : P .prot ∨ prot = u.prot := by first | exact .inl trivial | exact .inr rfl)
    (htri : prot.tri = u.prot.tri := by first | exact rfl | with_unfolding_all exact rfl)
    (hpages : prot.pages = u.prot.pages := by first | exact rfl | with_unfolding_all exact rfl)
    (hbanks : prot.banks = u.prot.banks := by first | exact rfl | with_unfolding_all exact rfl)
    (hhost : P .host ∨ host = u.host := by first | exact .inl trivial | exact .inr rfl)
    (hbar0 : host.bar0 = u.host.bar0 := by first | exact rfl | with_unfolding_all exact rfl)
    (hmbox : P .mbox ∨ mbox = u.mbox := by first | exact .inl trivial | exact .inr rfl)
    (hfw : P .fw ∨ fw = u.fw := by first | exact .inl trivial | exact .inr rfl)
    (hhk : P .hk ∨ hk = u.hk := by first | exact .inl trivial | exact .inr rfl)
    (hloop : P .loop ∨ loop = u.loop := by first | exact .inl trivial | exact .inr rfl)
    (htest : P .test ∨ test = u.test := by first | exact .inl trivial | exact .inr rfl)
    (hir : test.ir = u.test.ir := by first | exact rfl | with_unfolding_all exact rfl) :
    Touch P s ⟨u.pending, free, ticks, out, u.hostMem, node, u.regs, u.cfg, time, u.regions, u.cells, u.blocks, trig, pool, dir,
      u.ports, pair, u.mems, prot, host, mbox, fw, hk, loop, test⟩ := by
  refine h.trans ⟨rfl, ?_, ?_, ?_, ?_, ?_⟩
  · rcases hout with ⟨_, h⟩ | rfl
    · exact h
    · exact List.suffix_refl _
  · rcases hticks with ⟨_, h⟩ | rfl
    · exact h
    · exact Nat.le_refl _
  · rcases hfree with ⟨_, h⟩ | rfl
    · exact h
    · exact Nat.le_refl _
  · intro i
    exact { regs := i.regs, cfg := i.cfg, hostMem := i.hostMem, tri := htri ▸ i.tri, bar0 := hbar0 ▸ i.bar0, mems := i.mems, mem := i.mem, regions := i.regions, cells := i.cells, blocks := i.blocks, ports := i.ports, pages := hpages ▸ i.pages, banks := hbanks ▸ i.banks, sigs := hsigs ▸ i.sigs, closed := hclosed ▸ i.closed, ir := hir ▸ i.ir }
  · intro c
    cases c
    case node => exact hnode.imp_right id
    case time => exact htime.imp_right id
    case trig => exact htrig.imp_right id
    case pool => exact hpool.imp_right id
    case dir => exact hdir.imp_right id
    case pair => exact hpair.imp_right id
    case prot => exact hprot.imp_right fun (h : prot = u.prot) => by subst h; exact fun _ => rfl
    case host => exact hhost.imp_right fun (h : host = u.host) => by subst h; exact fun _ => rfl
    case mbox => exact hmbox.imp_right id
    case fw => exact hfw.imp_right id
    case hk => exact hhk.imp_right id
    case loop => exact hloop.imp_right id
    case test => exact htest.imp_right id
    case free => exact hfree.imp And.left id
    case ticks => exact hticks.imp And.left id
    case out => exact hout.imp And.left id
    case tri i => right; show Tab.get _ prot.tri i = _; rw [htri]
    case bar0 i => right; show Tab.get _ host.bar0 i ^^^ _ = _; rw [hbar0]; rfl
    all_goals exact .inr rfl

/-! ## The primitive updates -/

theorem State.setWord_touch {o : Nat} {v : W32} (h : Touch P s u) (hp : P (.reg o)) : Touch P s (u.setWord o v) := by
  refine h.trans ⟨rfl, List.suffix_refl _, Nat.le_refl _, Nat.le_refl _, fun i => { i with regs := Tab.set_wf _ _ _ _ i.regs }, ?_⟩
  intro c
  cases c
  case reg p =>
    by_cases hc : p = o
    · exact .inl (hc ▸ hp)
    · exact .inr (State.setWord_word_other _ _ hc)
  all_goals first | exact .inr rfl | exact .inr fun _ => rfl

theorem State.setF_touch {f : RF} {v : Nat} (h : Touch P s u) (hp : P (.reg f.off)) : Touch P s (u.setF f v) :=
  State.setWord_touch h hp

theorem State.setRecord_touch {k v : Nat} (h : Touch P s u) (hp : P (.cfg k)) : Touch P s (u.setRecord k v) := by
  refine h.trans ⟨rfl, List.suffix_refl _, Nat.le_refl _, Nat.le_refl _, fun i => { i with cfg := Tab.set_wf _ _ _ _ i.cfg }, ?_⟩
  intro c
  cases c
  case cfg p =>
    by_cases hc : p = k
    · exact .inl (hc ▸ hp)
    · exact .inr (State.setRecord_record_other _ _ hc)
  all_goals first | exact .inr rfl | exact .inr fun _ => rfl

theorem State.setCfg_touch {f : CF} {v : Nat} (h : Touch P s u) (hp : P (.cfg f.key)) : Touch P s (u.setCfg f v) :=
  State.setRecord_touch h hp

theorem State.setRegion_touch {r : Nat} {v : Region} (h : Touch P s u) (hp : P (.region r)) : Touch P s (u.setRegion r v) := by
  refine h.trans ⟨rfl, List.suffix_refl _, Nat.le_refl _, Nat.le_refl _, fun i => { i with regions := Tab.set_wf _ _ _ _ i.regions }, ?_⟩
  intro c
  cases c
  case region p =>
    by_cases hc : p = r
    · exact .inl (hc ▸ hp)
    · exact .inr (State.setRegion_region_other _ _ hc)
  all_goals first | exact .inr rfl | exact .inr fun _ => rfl

theorem State.setCell_touch {r : Nat} {v : Cell} (h : Touch P s u) (hp : P (.cell r)) : Touch P s (u.setCell r v) := by
  refine h.trans ⟨rfl, List.suffix_refl _, Nat.le_refl _, Nat.le_refl _, fun i => { i with cells := Tab.set_wf _ _ _ _ i.cells }, ?_⟩
  intro c
  cases c
  case cell p =>
    by_cases hc : p = r
    · exact .inl (hc ▸ hp)
    · exact .inr (State.setCell_cell_other _ _ hc)
  all_goals first | exact .inr rfl | exact .inr fun _ => rfl

theorem State.setBlock_touch {r : Nat} {v : Block} (h : Touch P s u) (hp : P (.block r)) : Touch P s (u.setBlock r v) := by
  refine h.trans ⟨rfl, List.suffix_refl _, Nat.le_refl _, Nat.le_refl _, fun i => { i with blocks := Tab.set_wf _ _ _ _ i.blocks }, ?_⟩
  intro c
  cases c
  case block p =>
    by_cases hc : p = r
    · exact .inl (hc ▸ hp)
    · exact .inr (State.setBlock_block_other _ _ hc)
  all_goals first | exact .inr rfl | exact .inr fun _ => rfl

theorem State.setPort_touch {r : Nat} {v : Port} (h : Touch P s u) (hp : P (.port r)) : Touch P s (u.setPort r v) := by
  refine h.trans ⟨rfl, List.suffix_refl _, Nat.le_refl _, Nat.le_refl _, fun i => { i with ports := Tab.set_wf _ _ _ _ i.ports }, ?_⟩
  intro c
  cases c
  case port p =>
    by_cases hc : p = r
    · exact .inl (hc ▸ hp)
    · exact .inr (State.setPort_port_other _ _ hc)
  all_goals first | exact .inr rfl | exact .inr fun _ => rfl

/-- A memory of a state that meets the invariant is well formed. -/
theorem Inv.mem_wf (i : Inv s) (m : Nat) : (s.mem m).wf = true := by
  rcases Tab.get_mem_or ({} : Mem) s.mems m with h | ⟨e, he, h⟩
  · rw [State.mem, h]; rfl
  · rw [State.mem, ← h]; exact i.mem e he

theorem State.setMem_touch {m : Nat} {v : Mem} (h : Touch P s u) (hp : P (.mem m)) (hv : (u.mem m).wf = true → v.wf = true) :
    Touch P s (u.setMem m v) := by
  refine h.trans ⟨rfl, List.suffix_refl _, Nat.le_refl _, Nat.le_refl _, fun i => { i with mems := Tab.set_wf _ _ _ _ i.mems, mem := ?_ }, ?_⟩
  · intro e he
    rcases Tab.mem_set _ he with rfl | he
    · exact hv (i.mem_wf m)
    · exact i.mem e he
  intro c
  cases c
  case mem p =>
    by_cases hc : p = m
    · exact .inl (hc ▸ hp)
    · exact .inr (State.setMem_mem_other _ _ hc)
  all_goals first | exact .inr rfl | exact .inr fun _ => rfl

theorem State.triSet_touch {i : Nat} {v : Tri} (h : Touch P s u) (hp : P (.tri i)) :
    Touch P s { u with prot := { u.prot with tri := Tab.set {} u.prot.tri i v } } := by
  refine h.trans ⟨rfl, List.suffix_refl _, Nat.le_refl _, Nat.le_refl _, fun j => { j with tri := Tab.set_wf _ _ _ _ j.tri }, ?_⟩
  intro c
  cases c
  case tri p =>
    by_cases hc : p = i
    · exact .inl (hc ▸ hp)
    · exact .inr (Tab.get_set_other _ _ _ hc)
  all_goals first | exact .inr rfl | exact .inr fun _ => rfl

theorem State.setTri_touch {i : Nat} {v : BitVec 80} (h : Touch P s u) (hp : P (.tri i)) : Touch P s (u.setTri i v) :=
  State.triSet_touch h hp

theorem State.setLock_touch {i : Nat} {v : W32} (h : Touch P s u) (hp : P (.tri (34 + i))) : Touch P s (u.setLock i v) :=
  State.triSet_touch h hp

theorem State.setBar0_touch {o : Nat} {v : W32} (h : Touch P s u) (hp : P (.bar0 o)) : Touch P s (u.setBar0 o v) := by
  refine h.trans ⟨rfl, List.suffix_refl _, Nat.le_refl _, Nat.le_refl _, fun j => { j with bar0 := Tab.set_wf _ _ _ _ j.bar0 }, ?_⟩
  intro c
  cases c
  case bar0 p =>
    by_cases hc : p = o
    · exact .inl (hc ▸ hp)
    · exact .inr (State.setBar0_bar0_other _ _ hc)
  all_goals first | exact .inr rfl | exact .inr fun _ => rfl

theorem State.hostMem_touch {k : Nat} {w : Word} (h : Touch P s u) (hp : P .hostMem) :
    Touch P s { u with hostMem := Tab.set 0 u.hostMem k w } := by
  refine h.trans ⟨rfl, List.suffix_refl _, Nat.le_refl _, Nat.le_refl _, fun j => { j with hostMem := Tab.set_wf _ _ _ _ j.hostMem }, ?_⟩
  intro c
  cases c
  case hostMem => exact .inl hp
  all_goals first | exact .inr rfl | exact .inr fun _ => rfl

theorem State.emit_touch {o : Out} (h : Touch P s u) (hp : P .out) : Touch P s (u.emit o) :=
  h.upd (hout := .inl ⟨hp, List.suffix_cons _ _⟩)

theorem State.drawn_touch (h : Touch P s u) (hp : P .free) : Touch P s u.drawn :=
  h.upd (hfree := .inl ⟨hp, Nat.le_succ _⟩)

theorem State.skip_touch {n : Nat} (h : Touch P s u) (hp : P .free) : Touch P s (u.skip n) :=
  h.upd (hfree := .inl ⟨hp, Nat.le_add_right _ _⟩)

theorem State.setPid_touch {i : Nat} {v : Loop} (h : Touch P s u) (hp : P .loop) : Touch P s (u.setPid i v) :=
  h.upd (hloop := .inl hp)

theorem State.setSxp_touch {i : Nat} {v : Sxp} (h : Touch P s u) (hp : P .hk) : Touch P s (u.setSxp i v) :=
  h.upd (hhk := .inl hp)

theorem State.setConv_touch {i : Nat} {v : Conv} (h : Touch P s u) (hp : P .hk) : Touch P s (u.setConv i v) :=
  h.upd (hhk := .inl hp)

theorem State.setItems_touch {l : List Item} (h : Touch P s u) (hp : P .pool) : Touch P s (u.setItems l) :=
  h.upd (hpool := .inl hp)

theorem State.setHops_touch {l : List Hop} (h : Touch P s u) (hp : P .mbox) : Touch P s (u.setHops l) :=
  h.upd (hmbox := .inl hp)

/-! ## Flags, counters and messages -/

theorem State.incBy_touch {f : RF} {n : Nat} (h : Touch P s u) (hp : P (.reg f.off)) : Touch P s (u.incBy f n) :=
  State.setF_touch h hp

theorem State.inc_touch {f : RF} (h : Touch P s u) (hp : P (.reg f.off)) : Touch P s (u.inc f) := State.setF_touch h hp

theorem State.incWrap_touch {f : RF} {n : Nat} (h : Touch P s u) (hp : P (.reg f.off)) : Touch P s (u.incWrap f n) :=
  State.setF_touch h hp

theorem State.setFlag_touch {f : FlagF} (h : Touch P s u) (hp : P (.reg f.flag.off)) (hq : P (.reg f.occ.off)) :
    Touch P s (u.setFlag f) :=
  State.incWrap_touch (State.setF_touch h hp) hq

theorem State.clearFlags_touch {o : Nat} {v : W32} (h : Touch P s u) (hp : P (.reg o)) : Touch P s (u.clearFlags o v) :=
  State.setWord_touch h hp

theorem State.clearCounters_touch {o : Nat} (h : Touch P s u) (hp : P (.reg o)) : Touch P s (u.clearCounters o) :=
  State.setWord_touch h hp

theorem State.clearCountersAt_touch {l : List Nat} (h : Touch P s u) (hp : ∀ o ∈ l, P (.reg o)) :
    Touch P s (u.clearCountersAt l) := by
  unfold State.clearCountersAt
  induction l generalizing u with
  | nil => exact h
  | cons a l ih => exact ih (State.clearCounters_touch h (hp a (by simp))) fun o ho => hp o (by simp [ho])

theorem State.sendMsg_touch {p : Nat} {m : CtlMsg} (h : Touch P s u) (hp : P (.port p)) : Touch P s (u.sendMsg p m) :=
  State.setPort_touch h hp

theorem State.sendAll_touch {l : List Nat} {m : CtlMsg} (h : Touch P s u) (hp : ∀ p ∈ l, P (.port p)) :
    Touch P s (u.sendAll l m) := by
  unfold State.sendAll
  induction l generalizing u with
  | nil => exact h
  | cons a l ih =>
    exact ih (State.sendMsg_touch h (hp a (by simp))) (fun p hq => hp p (by simp [hq]))

theorem State.msix_touch {v : Nat} (h : Touch P s u) (hh : P .host) (ho : P .out) : Touch P s (u.msix v) := by
  unfold State.msix
  split
  · exact h
  split
  · exact State.emit_touch h ho
  · exact h.upd (hhost := .inl hh)

theorem State.msixFlush_touch {v : Nat} (h : Touch P s u) (hh : P .host) (ho : P .out) : Touch P s (u.msixFlush v) := by
  unfold State.msixFlush
  split
  · exact State.emit_touch (h.upd (hhost := .inl hh)) ho
  · exact h

theorem State.ringOutDoorbell_touch {i : Nat} (h : Touch P s u) (hm : P .mbox) (hb : P (.bar0 (0x2010 + 4 * (i / 4))))
    (hh : P .host) (ho : P .out) : Touch P s (u.ringOutDoorbell i) := by
  unfold State.ringOutDoorbell
  exact State.msix_touch (State.setBar0_touch (h.upd (hmbox := .inl hm)) hb) hh ho

end Sys2Proof.Machine
end

