-- ==== Sys2Proof/Laws/Store.lean ====
section
/-! SUPPORT. What the shared operations of Machine/Ops.lean can do: storing items, notices, the error log, and the code words of the
memories. -/

set_option Elab.async false
set_option linter.tactic.unusedName false
set_option linter.unusedTactic false
set_option linter.unreachableTactic false

namespace Sys2Proof.Machine

variable {P : Comp → Prop} {s u : State}

/-! ## The shared pool -/

theorem Touch.pool (h : Touch P s u) (hp : P .pool) {v : PoolSt} (hc : v.closedEvents = u.pool.closedEvents) :
    Touch P s { u with pool := v } := h.upd (hpool := .inl hp) (hclosed := hc)

theorem State.modItem_touch {id : Nat} {f : Item → Item} (h : Touch P s u) (hp : P .pool) : Touch P s (u.modItem id f) :=
  State.setItems_touch h hp

theorem State.freeItem_touch {id : Nat} (h : Touch P s u) (hp : P .pool) : Touch P s (u.freeItem id) :=
  State.setItems_touch h hp

theorem State.allocSlot_touch {n : Nat} {v : State} (h : Touch P s u) (hp : P .pool) (e : u.allocSlot = some (n, v)) :
    Touch P s v := by
  unfold State.allocSlot at e
  split at e
  · cases e; exact h.pool hp rfl
  · cases e

theorem State.loseEntries_touch {ids : List Nat} (h : Touch P s u) (hp : P .pool) : Touch P s (u.loseEntries ids) := h.pool hp rfl

theorem State.countLost_touch {q n : Nat} (h : Touch P s u) (hs : ∀ c, storeParts c → P c) : Touch P s (u.countLost q n) := by
  unfold State.countLost
  split
  · rename_i hq
    refine State.incWrap_touch h (hs _ ?_)
    rcases hq with rfl | rfl <;> simp [storeParts, R.queueLost]
  · exact State.incWrap_touch h (hs _ (by simp [storeParts, R.mergeLost]))

theorem State.unchoose_touch {ids : List Nat} (h : Touch P s u) (hp : P .pool) : Touch P s (u.unchoose ids) := h.pool hp rfl

theorem State.loseItem_touch {i : Item} (h : Touch P s u) (hs : ∀ c, storeParts c → P c) : Touch P s (u.loseItem i) :=
  State.countLost_touch (State.loseEntries_touch (State.freeItem_touch (State.unchoose_touch
    (State.setItems_touch h (hs _ trivial)) (hs _ trivial)) (hs _ trivial)) (hs _ trivial)) hs

theorem State.overwrite_touch {fuel q : Nat} (h : Touch P s u) (hs : ∀ c, storeParts c → P c) :
    Touch P s (State.overwrite fuel u q).2 := by
  induction fuel generalizing u with
  | zero => exact h
  | succ k ih =>
    unfold State.overwrite
    split
    · exact h
    · dsimp only
      split
      · exact State.loseItem_touch h hs
      · exact ih (State.loseItem_touch h hs)

theorem State.takeSlot_touch {q : Nat} (h : Touch P s u) (hs : ∀ c, storeParts c → P c) : Touch P s (u.takeSlot q).2.2 := by
  unfold State.takeSlot
  split
  · rename_i r hr
    split at hr
    · exact State.allocSlot_touch h (hs _ trivial) hr
    · cases hr
  · split
    · exact h
    · have ho : Touch P s (State.overwrite u.pool.items.length u q).2 := State.overwrite_touch h hs
      split <;> rename_i e <;> rw [e] at ho <;> exact ho

theorem northUp_mem {s : State} {p : Nat} (h : p ∈ s.northUp) : p = 16 ∨ p = 17 := by
  simpa using (List.mem_filter.1 h).1

theorem State.sendThrottle_touch {w : Word} (h : Touch P s u) (hs : ∀ c, storeParts c → P c) : Touch P s (u.sendThrottle w) := by
  unfold State.sendThrottle
  have hl : ∀ p ∈ u.northUp, P (.port p) := fun p h => hs _ (by simpa [storeParts] using northUp_mem h)
  generalize u.northUp = l at hl
  induction l generalizing u with
  | nil => exact h
  | cons a l ih => exact ih (State.sendMsg_touch h (hl a (by simp))) fun p hp => hl p (by simp [hp])

theorem State.throttleUpdate_touch (h : Touch P s u) (hs : ∀ c, storeParts c → P c) : Touch P s (u.throttleUpdate) := by
  have h3 : P (.reg 0x3000) := hs _ (by simp [storeParts])
  have h8 : P (.reg 0x3008) := hs _ (by simp [storeParts])
  have h1 : P (.reg R.throttleOwn.off) := h3
  have h2 : P (.reg R.poolPeak.off) := h8
  have h4 : P (.reg R.throttleEvent.flag.off) := h3
  have h5 : P (.reg R.throttleEvent.occ.off) := h3
  have ho : P .out := hs _ trivial
  have hh : P .host := hs _ trivial
  have hp : P .pool := hs _ trivial
  unfold State.throttleUpdate
  have x := @id True
  repeat' first
    | with_reducible assumption
    | (extract_lets +onlyGivenNames x; (fail_if_success have y : True → True := x); (try refine (fun (hx : Touch P s x) => ?_) ?_); all_goals have x := @id True)
    | with_reducible apply Touch.ite
    | with_reducible apply State.setF_touch
    | with_reducible apply State.setFlag_touch
    | with_reducible apply State.msix_touch
    | with_reducible refine State.sendThrottle_touch ?_ hs
    | fail_if_no_progress (with_reducible refine Touch.pool ?_ hp rfl)

theorem putCodeWords_wf (t : Tab (BitVec 152)) (a : Nat) (l : List (BitVec 152)) (h : Tab.wf 0 t = true) :
    Tab.wf 0 (putCodeWords t a l) = true := by
  induction l generalizing t a with
  | nil => exact h
  | cons c l ih => exact ih _ _ (Tab.set_wf _ _ _ _ h)

theorem putSlots_wf (t : Tab (BitVec 152)) (c n : Nat) (first : Bool) (l : List (Nat × Nat)) (ws : List PWord) (h : Tab.wf 0 t = true) :
    Tab.wf 0 (putSlots t c n first l ws) = true := by
  induction l generalizing t first ws with
  | nil => exact h
  | cons a l ih => exact ih _ _ _ (putCodeWords_wf _ _ _ (Tab.set_wf _ _ _ _ h))

theorem Mem.wf_iff (v : Mem) : v.wf = true ↔ Tab.wf 0 v.cells = true ∧ v.buffer.length ≤ 16 := by
  simp [Mem.wf]

theorem State.writePool_touch {c n : Nat} {l : List (Nat × Nat)} {ws : List PWord} (h : Touch P s u) (hp : P (.mem 0)) :
    Touch P s (u.writePool c n l ws) :=
  State.setMem_touch h hp fun hv => (Mem.wf_iff _).2 ⟨putSlots_wf _ _ _ _ _ _ ((Mem.wf_iff _).1 hv).1, ((Mem.wf_iff _).1 hv).2⟩

theorem State.writeSlots_touch {i : Item} {ws : List PWord} {n : Nat} (h : Touch P s u) (hp : P (.mem 0)) :
    Touch P s (u.writeSlots i ws n) := State.writePool_touch h hp

theorem State.growItem_touch {fuel id n : Nat} (h : Touch P s u) (hs : ∀ c, storeParts c → P c) :
    Touch P s (State.growItem fuel u id n).2 := by
  induction fuel generalizing u with
  | zero => exact h
  | succ k ih =>
    unfold State.growItem
    split
    · exact h
    · rename_i i _
      have ht := State.takeSlot_touch (q := i.queue) h hs
      split
      · exact h
      · split <;> rename_i e <;> rw [e] at ht
        · exact ih (State.modItem_touch ht (hs _ trivial))
        · exact ht

theorem State.newItem_touch {q : Nat} {c : Cls} (h : Touch P s u) (hp : P .pool) : Touch P s (u.newItem q c) := h.pool hp rfl

theorem State.completeItem_touch {id : Nat} (h : Touch P s u) (hs : ∀ c, storeParts c → P c) : Touch P s (u.completeItem id) := by
  unfold State.completeItem
  split
  · exact h
  · exact State.writeSlots_touch (State.modItem_touch (h.pool (hs _ trivial) rfl) (hs _ trivial)) (hs _ rfl)

theorem State.storeRaw_touch {q : Nat} {c : Cls} {ws : List PWord} (h : Touch P s u) (hs : ∀ c, storeParts c → P c) :
    Touch P s (u.storeRaw q c ws) := by
  have h1 : Touch P s ((u.newItem q c).modItem u.pool.nextItem fun i => { i with words := ws }) :=
    State.modItem_touch (State.newItem_touch h (hs _ trivial)) (hs _ trivial)
  have hg := State.growItem_touch (fuel := slotsFor ws.length + 1) (id := u.pool.nextItem) (n := slotsFor ws.length) h1 hs
  unfold State.storeRaw
  dsimp only
  split
  · exact h.pool (hs _ trivial) rfl
  · split <;> rename_i e <;> rw [e] at hg
    · exact State.throttleUpdate_touch (State.completeItem_touch hg hs) hs
    · exact State.throttleUpdate_touch (State.countLost_touch (State.freeItem_touch hg (hs _ trivial)) hs) hs
    · exact (State.freeItem_touch hg (hs _ trivial)).pool (hs _ trivial) rfl

/-! ## Notices of a memory error or a queue reset, and FAIL -/

theorem State.noticeRaw_touch {code : Nat} {l : List Byte} (h : Touch P s u) (hn : P .node) (hs : ∀ c, storeParts c → P c) :
    Touch P s (u.noticeRaw code l) :=
  State.storeRaw_touch (h.upd (hnode := .inl hn)) hs

theorem State.setFail_touch {cause : Nat} (h : Touch P s u) (hp : P .pair) (hr : P (.reg 0x7000)) :
    Touch P s (u.setFail cause) := by
  unfold State.setFail
  exact Touch.ite (State.setF_touch (h.upd (hpair := .inl hp)) hr) h

/-! ## The error log -/

theorem logParts_store {c : Comp} (h : storeParts c) : logParts c := .inr (.inr h)

theorem State.logEntry_touch {a b c d e f g : Nat} (h : Touch P s u) (hs : ∀ c, logParts c → P c) :
    Touch P s (u.logEntry a b c d e f g) := by
  have hl : P (.reg 0x8204) := hs _ (.inr (.inl rfl))
  have hp : P .prot := hs _ (.inl rfl)
  have hc : ∀ c, storeParts c → P c := fun c hc => hs c (logParts_store hc)
  unfold State.logEntry
  have x := @id True
  repeat' first
    | with_reducible assumption
    | (extract_lets +onlyGivenNames x; (fail_if_success have y : True → True := x); (try refine (fun (hx : Touch P s x) => ?_) ?_); all_goals have x := @id True)
    | with_reducible refine State.storeRaw_touch ?_ hc
    | with_reducible apply State.incWrap_touch
    | with_reducible apply State.setF_touch
    | fail_if_no_progress (with_reducible refine Touch.upd ?_ (hprot := .inl hp))
    | exact hl

theorem State.remember_touch {a : Nat} (h : Touch P s u) (hp : P .prot) : Touch P s (u.remember a) := h.upd (hprot := .inl hp)

variable {m : Nat}

theorem memParts_log {c : Comp} (h : logParts c) : memParts m c := .inr (.inr (.inr h))
theorem memParts_node : memParts m .node := .inl rfl
theorem memParts_store {c : Comp} (h : storeParts c) : memParts m c := memParts_log (logParts_store h)
theorem memParts_mem : memParts m (.mem m) := .inr (.inl rfl)
theorem memParts_reg {o : Nat} (h : 0x8000 + 0x40 * m ≤ o) (h' : o < 0x8018 + 0x40 * m) : memParts m (.reg o) :=
  .inr (.inr (.inl ⟨o, rfl, h, h'⟩))

theorem State.memNotice_touch (h : Touch P s u) (hs : ∀ c, memParts m c → P c) : Touch P s (u.memNotice m) := by
  unfold State.memNotice
  extract_lets v due
  exact Touch.ite h (State.noticeRaw_touch (State.setMem_touch h (hs _ memParts_mem) fun h => h) (hs _ memParts_node)
    fun c hc => hs c (memParts_store hc))

theorem State.memEvent_touch {f : FlagF} {c : BitVec 3} (h : Touch P s u) (hs : ∀ c, memParts m c → P c)
    (hf : P (.reg f.flag.off)) (ho : P (.reg f.occ.off)) : Touch P s (u.memEvent m f c) := by
  unfold State.memEvent
  extract_lets v
  have hv : Touch P s v := State.msix_touch (State.setFlag_touch h hf ho) (hs _ (memParts_log (logParts_store trivial)))
    (hs _ (memParts_log (logParts_store trivial)))
  clear_value v
  exact State.memNotice_touch (State.setMem_touch hv (hs _ memParts_mem) fun h => h) hs

theorem State.correction_touch {a b c d e : Nat} (h : Touch P s u) (hs : ∀ c, memParts m c → P c) :
    Touch P s (u.correction m a b c d e) := by
  have hr : ∀ o, 0x8000 + 0x40 * m ≤ o → o < 0x8018 + 0x40 * m → P (.reg o) := fun o h h' => hs _ (memParts_reg h h')
  have hp : P .prot := hs _ (memParts_log (.inl rfl))
  have hl : ∀ c, logParts c → P c := fun c hc => hs c (memParts_log hc)
  have hm : P (.mem m) := hs _ memParts_mem
  have h1 : P (.reg (R.ceCount m).off) := hr _ (by simp [R.ceCount]) (by simp [R.ceCount])
  have h2 : P (.reg (R.logSuppressed m).off) := hr _ (by simp [R.logSuppressed]) (by simp [R.logSuppressed])
  have h3 : P (.reg (R.level m).off) := hr _ (by simp [R.level]) (by simp [R.level])
  have h4 : P (.reg (R.bucketOvf m).flag.off) := hr _ (by simp [R.bucketOvf]) (by simp [R.bucketOvf])
  have h5 : P (.reg (R.bucketOvf m).occ.off) := hr _ (by simp [R.bucketOvf]) (by simp [R.bucketOvf])
  unfold State.correction
  have x := @id True
  repeat' first
    | with_reducible assumption
    | (extract_lets +onlyGivenNames x; (fail_if_success have y : True → True := x); (try refine (fun (hx : Touch P s x) => ?_) ?_); all_goals have x := @id True)
    | with_reducible apply Touch.ite
    | with_reducible apply State.incWrap_touch
    | with_reducible apply State.inc_touch
    | with_reducible apply State.remember_touch
    | with_reducible apply State.logEntry_touch
    | with_reducible apply State.memEvent_touch
    | with_reducible apply State.setMem_touch
    | exact fun h => h
    | fail_if_no_progress (with_reducible refine Touch.upd ?_ (hprot := .inl hp))

theorem State.ueFound_touch {a b : Nat} {f : RF} (h : Touch P s u) (hs : ∀ c, memParts m c → P c) (hf : P (.reg f.off)) :
    Touch P s (u.ueFound m a b f) := by
  unfold State.ueFound
  refine State.memEvent_touch (State.inc_touch (State.remember_touch (State.logEntry_touch h fun c hc => hs c (memParts_log hc))
    (hs _ (memParts_log (.inl rfl)))) hf) hs ?_ ?_ <;>
    exact hs _ (memParts_reg (by simp [R.ueEvent]) (by simp [R.ueEvent]))

/-! ## Code words -/

theorem State.setRaw_touch {a : Nat} {c : BitVec 152} (h : Touch P s u) (hp : P (.mem m)) : Touch P s (u.setRaw m a c) := by
  unfold State.setRaw
  refine Touch.ite h (State.setMem_touch h hp fun hv => (Mem.wf_iff _).2 ?_)
  exact ⟨Tab.set_wf _ _ _ _ ((Mem.wf_iff _).1 hv).1, ((Mem.wf_iff _).1 hv).2⟩

theorem ue_regs (hs : ∀ c, memParts m c → P c) : P (.reg (R.ueWrite m).off) ∧ P (.reg (R.ueRead m).off) ∧
    P (.reg (R.ueScrub m).off) ∧ P (.reg (R.poisonRead m).off) := by
  refine ⟨?_, ?_, ?_, ?_⟩ <;> refine hs _ (memParts_reg ?_ ?_) <;> simp [R.ueWrite, R.ueRead, R.ueScrub, R.poisonRead]

theorem State.drainEntry_touch {e : MbEntry} (h : Touch P s u) (hs : ∀ c, memParts m c → P c) :
    Touch P s (u.drainEntry m e) := by
  have hm : P (.mem m) := hs _ memParts_mem
  have hw := (ue_regs hs).1
  unfold State.drainEntry
  have x := @id True
  repeat' first
    | with_reducible assumption
    | (extract_lets +onlyGivenNames x; (fail_if_success have y : True → True := x); (try refine (fun (hx : Touch P s x) => ?_) ?_); all_goals have x := @id True)
    | with_reducible apply Touch.ite
    | split
    | with_reducible apply State.inc_touch
    | with_reducible apply State.correction_touch
    | with_reducible apply State.ueFound_touch
    | with_reducible apply State.setRaw_touch
    | with_reducible apply State.setMem_touch
    | exact fun hv => (Mem.wf_iff _).2
        ⟨((Mem.wf_iff _).1 hv).1, Nat.le_trans (List.length_filter_le _ _) ((Mem.wf_iff _).1 hv).2⟩

theorem State.writeBytes_touch {a : Nat} {mask : BitVec 16} {d : BitVec 128} (h : Touch P s u) (hs : ∀ c, memParts m c → P c) :
    Touch P s (u.writeBytes m a mask d) := by
  have hm : P (.mem m) := hs _ memParts_mem
  unfold State.writeBytes
  split
  · rename_i e he
    have h1 : ∀ (b : List MbEntry), b.length = (u.mem m).buffer.length → Touch P s (u.setMem m { u.mem m with buffer := b }) :=
      fun b hb => State.setMem_touch h hm fun hv => (Mem.wf_iff _).2
        ⟨((Mem.wf_iff _).1 hv).1, by rw [hb]; exact ((Mem.wf_iff _).1 hv).2⟩
    have h2 := h1 ((u.mem m).buffer.map fun x => if x.addr = a then
      { e with mask := e.mask ||| mask, data := (e.data &&& ~~~byteBits mask) ||| (d &&& byteBits mask) } else x)
      (List.length_map _)
    exact Touch.ite (State.drainEntry_touch h2 hs) h2
  · extract_lets e l full src v w
    have hv : Touch P s v := State.setMem_touch h hm fun hv => (Mem.wf_iff _).2 ⟨((Mem.wf_iff _).1 hv).1, by
      have hb := ((Mem.wf_iff _).1 hv).2
      show ((if full = true then l.drop 1 else l) ++ [e]).length ≤ 16
      have hl : l.length ≤ 16 := hb
      by_cases hf : l.length = 16
      · simp [full, hf]
      · simp [full, hf]; omega⟩
    have hm' : ∀ l' : List MbEntry, Touch P s (match l' with | old :: _ => if full then v.drainEntry m old else v | [] => v) := by
      intro l'
      cases l' with
      | nil => exact hv
      | cons old _ => exact Touch.ite (State.drainEntry_touch hv hs) hv
    have hw : Touch P s w := hm' l
    exact Touch.ite (State.drainEntry_touch hw hs) hw

theorem State.writeHalf_touch {a i : Nat} {w : Word} (h : Touch P s u) (hs : ∀ c, memParts m c → P c) :
    Touch P s (u.writeHalf m a i w) := State.writeBytes_touch h hs

theorem State.drainFor_touch {a : Nat} (h : Touch P s u) (hs : ∀ c, memParts m c → P c) : Touch P s (u.drainFor m a) := by
  unfold State.drainFor
  split
  · exact State.drainEntry_touch h hs
  · exact h

theorem State.upset_touch {a : Nat} {c : BitVec 152} (h : Touch P s u) (hp : P (.mem m)) : Touch P s (u.upset m a c) := by
  unfold State.upset
  refine Touch.ite h (State.setMem_touch h hp fun hv => (Mem.wf_iff _).2 ?_)
  exact ⟨Tab.set_wf _ _ _ _ ((Mem.wf_iff _).1 hv).1, ((Mem.wf_iff _).1 hv).2⟩

theorem State.readCw_touch {a : Nat} (h : Touch P s u) (hs : ∀ c, memParts m c → P c) : Touch P s (u.readCw m a).2 := by
  have hd := State.drainFor_touch (a := a) h hs
  have hm : P (.mem m) := hs _ memParts_mem
  obtain ⟨-, hr, -, hpr⟩ := ue_regs hs
  unfold State.readCw
  split
  · exact h
  · dsimp only
    split
    · exact hd
    · exact State.correction_touch hd hs
    · exact State.inc_touch hd hpr
    · exact State.correction_touch hd hs
    · split
      · exact State.inc_touch hd hpr
      · exact State.ueFound_touch (State.setMem_touch hd hm fun h => h) hs hr

theorem State.readCws_touch {n a : Nat} (h : Touch P s u) (hs : ∀ c, memParts m c → P c) :
    Touch P s (State.readCws n u m a).2 := by
  induction n generalizing u a with
  | zero => exact h
  | succ n ih => exact ih (State.readCw_touch h hs)

/-! ## Queue reset and reading an item -/

theorem queueParts_mem {c : Comp} (h : memParts 5 c) : queueParts c := .inr (.inr (.inr (.inr h)))
theorem queueParts_store {c : Comp} (h : storeParts c) : queueParts c := queueParts_mem (memParts_store h)

theorem State.cutItems_touch {l : List Nat} (h : Touch P s u) (hp : P .pool) : Touch P s (u.cutItems l) := by
  unfold State.cutItems
  extract_lets lost cut v asms readers parked orphans
  exact Touch.pool (State.setItems_touch h hp) hp rfl

/-- A queue reset (R186): the pool's registers and items, the error log, a notice, and FAIL. -/
theorem State.resetQueue_touch {q cause : Nat} (h : Touch P s u) (hq : ∀ c, queueParts c → P c) :
    Touch P s (u.resetQueue q cause) := by
  have hst : ∀ c, storeParts c → P c := fun c hc => hq c (queueParts_store hc)
  have hl : ∀ c, logParts c → P c := fun c hc => hq c (queueParts_mem (memParts_log hc))
  have hn : P .node := hq _ (queueParts_mem memParts_node)
  have hf : P .free := hq _ (.inl rfl)
  have hp : P .pair := hq _ (.inr (.inl rfl))
  have h4 : P (.reg 0x3004) := hq _ (.inr (.inr (.inl rfl)))
  have hr : P (.reg 0x7000) := hq _ (.inr (.inr (.inr (.inl rfl))))
  have hpool : P .pool := hst _ trivial
  have hprot : P .prot := hl _ (.inl rfl)
  have h0 : P (.reg R.queueReset.flag.off) := hst _ (by simp [storeParts, R.queueReset])
  have h1 : P (.reg R.queueReset.occ.off) := h4
  unfold State.resetQueue
  have x := @id True
  repeat' first
    | with_reducible assumption
    | (extract_lets +onlyGivenNames x; (fail_if_success have y : True → True := x); (try refine (fun (hx : Touch P s x) => ?_) ?_); all_goals have x := @id True)
    | with_reducible apply Touch.ite
    | with_reducible apply State.throttleUpdate_touch
    | with_reducible apply State.setFail_touch
    | with_reducible refine State.noticeRaw_touch ?_ hn hst
    | with_reducible apply State.setFlag_touch
    | with_reducible apply State.drawn_touch
    | with_reducible apply State.remember_touch
    | with_reducible apply State.logEntry_touch
    | with_reducible apply State.countLost_touch
    | with_reducible apply State.loseEntries_touch
    | with_reducible refine State.cutItems_touch ?_ hpool
    | with_reducible apply State.setItems_touch
    | fail_if_no_progress (with_reducible refine Touch.pool ?_ hpool rfl)
    | fail_if_no_progress (with_reducible refine Touch.upd ?_ (hpair := .inl hp))

/-! ## Table words, and what enters a queue (R185, R326) -/

theorem State.tableCw_touch {a : Nat} (h : Touch P s u) (hs : ∀ c, memParts 5 c → P c) : Touch P s (u.tableCw a).2 := by
  unfold State.tableCw
  split
  · exact h
  · exact State.readCw_touch h hs

theorem State.tableWrite_touch {l : List Nat} (h : Touch P s u) (hp : P (.mem 5)) : Touch P s (u.tableWrite l) := by
  unfold State.tableWrite
  split
  · exact h
  · exact Touch.foldl _ h fun _ _ h => State.setRaw_touch h hp

theorem State.readMap_touch (h : Touch P s u) (hs : ∀ c, memParts 5 c → P c) : Touch P s u.readMap := by
  unfold State.readMap
  split
  · exact h
  · exact Touch.foldl _ h fun _ _ h => Touch.ite h (State.tableCw_touch h hs)

/-- With no table word damaged, reading a table touches nothing. -/
theorem State.tableCw_intact {a : Nat} (h : (u.mem 5).cells = []) : u.tableCw a = (false, u) := by
  rw [State.tableCw, h]

/-- With no table word damaged, writing a table touches nothing here. -/
theorem State.tableWrite_intact {l : List Nat} (h : (u.mem 5).cells = []) : u.tableWrite l = u := by
  rw [State.tableWrite, h]

/-- With no table word damaged, the allocator's read of its map touches nothing. -/
theorem State.readMap_intact (h : (u.mem 5).cells = []) : u.readMap = u := by
  rw [State.readMap, h]

/-- With no table word damaged, the pointer copies of a queue agree. -/
theorem State.checkQueue_intact {q : Nat} (h : (u.mem 5).cells = []) : u.checkQueue q = u := by
  rw [State.checkQueue, h]

theorem State.checkQueue_touch {q : Nat} (h : Touch P s u) (hq : ∀ c, queueParts c → P c) : Touch P s (u.checkQueue q) := by
  unfold State.checkQueue
  split
  · exact h
  · extract_lets r
    have hr : Touch P s r.2 :=
      Touch.foldl2 _ h fun _ _ h => State.tableCw_touch h fun c hc => hq c (queueParts_mem hc)
    exact Touch.ite (State.resetQueue_touch (State.tableWrite_touch hr (hq _ (queueParts_mem memParts_mem))) hq) hr

theorem State.storeItem_touch {q : Nat} {c : Cls} {ws : List PWord} (h : Touch P s u) (hq : ∀ c, queueParts c → P c) :
    Touch P s (u.storeItem q c ws) :=
  State.storeRaw_touch (State.checkQueue_touch h hq) fun c hc => hq c (queueParts_store hc)

theorem State.storeHeld_touch (h : Touch P s u) (hq : ∀ c, queueParts c → P c) : Touch P s u.storeHeld :=
  Touch.foldl _ (h.pool (hq _ (queueParts_store trivial)) rfl) fun _ _ h => State.storeItem_touch h hq

theorem State.controlItem_touch {code arg : Nat} {l : List Word} (h : Touch P s u) (hq : ∀ c, queueParts c → P c) :
    Touch P s (u.controlItem code arg l) := State.storeItem_touch h hq

theorem State.notice_touch {code : Nat} {l : List Byte} (h : Touch P s u) (hq : ∀ c, queueParts c → P c) :
    Touch P s (u.notice code l) :=
  State.noticeRaw_touch (State.checkQueue_touch h hq) (hq _ (queueParts_mem memParts_node)) fun c hc => hq c (queueParts_store hc)

theorem State.enterState_touch {n : NodeState} (h : Touch P s u) (hq : ∀ c, queueParts c → P c) : Touch P s (u.enterState n) := by
  have hn : P .node := hq _ (queueParts_mem memParts_node)
  have ho : P .out := hq _ (queueParts_store trivial)
  have hh : P .host := hq _ (queueParts_store trivial)
  unfold State.enterState
  have x := @id True
  repeat' first
    | with_reducible assumption
    | (extract_lets +onlyGivenNames x; (fail_if_success have y : True → True := x); (try refine (fun (hx : Touch P s x) => ?_) ?_); all_goals have x := @id True)
    | with_reducible apply Touch.ite
    | with_reducible refine State.notice_touch ?_ hq
    | with_reducible apply State.msix_touch
    | fail_if_no_progress (with_reducible refine Touch.upd ?_ (hnode := .inl hn))

theorem State.tbNotice_touch {r : Nat} (h : Touch P s u) (hq : ∀ c, queueParts c → P c) : Touch P s (u.tbNotice r) :=
  State.notice_touch h hq

/-! ## Reading an item -/

theorem State.readChain_touch {k n : Nat} (h : Touch P s u) (hs : ∀ c, memParts 0 c → P c) :
    Touch P s (State.readChain k u n).2 := by
  induction k generalizing u n with
  | zero => exact h
  | succ k ih =>
    unfold State.readChain
    dsimp only
    split
    · exact State.readCw_touch h hs
    · have hr : ∀ m a, Touch P s (State.readCws m (u.readCw 0 (n * 16)).2 0 a).2 := fun _ _ =>
        State.readCws_touch (State.readCw_touch h hs) hs
      dsimp only
      split
      · exact hr _ _
      · exact ih (hr _ _)

theorem State.readItem_touch {i : Item} (h : Touch P s u) (hm : ∀ c, memParts 0 c → P c) (hq : ∀ c, queueParts c → P c) :
    Touch P s (u.readItem i).2 := by
  have hr : Touch P s (State.readChain (if i.view.isEmpty then i.slots else i.view).length u
      ((if i.view.isEmpty then i.slots else i.view).headD 0)).2 := State.readChain_touch h hm
  unfold State.readItem
  dsimp only
  split
  · exact State.resetQueue_touch hr hq
  · split
    · split
      · exact State.resetQueue_touch hr hq
      · exact hr
    · split
      · exact State.resetQueue_touch hr hq
      · exact hr

end Sys2Proof.Machine
end

