-- ==== Sys2Proof/Laws/Mbox.lean ====
section
/-! SUPPORT. What the mailbox operations can do (R361-R383): bytes of the mailbox memory, completion, replies, hops, locks and the
checks common to the commands that firmware carries out. -/

set_option Elab.async false
set_option linter.tactic.unusedName false
set_option linter.unusedTactic false
set_option linter.unreachableTactic false

namespace Sys2Proof.Machine

variable {P : Comp → Prop} {s u : State} {m : Nat}

theorem State.setGrantPos_touch {g : Nat} (h : Touch P s u) (hp : P (.tri 1)) : Touch P s (u.setGrantPos g) :=
  State.setTri_touch h hp

theorem State.putBytesN_touch {n a : Nat} {l : List Byte} (h : Touch P s u) (hs : ∀ c, memParts m c → P c) :
    Touch P s (State.putBytesN n u m a l) := by
  induction n generalizing u a l with
  | zero => exact h
  | succ n ih =>
    unfold State.putBytesN
    exact Touch.ite h (ih (State.writeBytes_touch h hs))

theorem State.putBytes_touch {a : Nat} {l : List Byte} (h : Touch P s u) (hs : ∀ c, memParts m c → P c) :
    Touch P s (u.putBytes m a l) := State.putBytesN_touch h hs

theorem State.getBytes_touch {a n : Nat} (h : Touch P s u) (hs : ∀ c, memParts m c → P c) :
    Touch P s (u.getBytes m a n).2 := State.readCws_touch h hs

theorem State.upsets_touch {a : Nat} {l : List (BitVec 152)} (h : Touch P s u) (hp : P (.mem m)) :
    Touch P s (u.upsets m a l) := by
  induction l generalizing u a with
  | nil => exact h
  | cons c l ih => exact ih (State.upset_touch h hp)

/-! ## Completion and replies -/

/-- A message completes (R362): its mailbox is EMPTY, its POST and ABORT bits clear, and no other message is changed. -/
theorem State.complete_touch {i : Nat} (h : Touch P s u) (hm : P .mbox) (hr : P (.reg (0xA000 + 4 * i)))
    (hp : ∀ p, P (.port p)) : Touch P s (u.complete i) := by
  unfold State.complete
  extract_lets from' bits v0 v1 v
  have h0 : Touch P s v1 := h.upd (hmbox := .inl hm)
  have hv : Touch P s v := State.setF_touch h0 hr
  clear_value from'
  split
  · exact State.sendMsg_touch hv (hp _)
  · exact hv

theorem State.replyItem_touch {i : Nat} {l : List Byte} (h : Touch P s u) (hs : ∀ c, queueParts c → P c) :
    Touch P s (u.replyItem i l) := State.controlItem_touch h hs

theorem answerParts_mem {i : Nat} {c : Comp} (h : memParts 4 c) : answerParts i c := .inr (.inr (.inr (.inr (.inl h))))
theorem answerParts_queue {i : Nat} {c : Comp} (h : queueParts c) : answerParts i c := .inr (.inr (.inr (.inr (.inr (.inl h)))))
theorem answerParts_store {i : Nat} {c : Comp} (h : storeParts c) : answerParts i c := answerParts_queue (queueParts_store h)

theorem State.ownReply_touch {w : W32} {l : List Byte} (h : Touch P s u) (hf : P .fw) (hr : P (.reg 0xA088)) :
    Touch P s (u.ownReply w l) := Touch.ite (State.inc_touch h hr) (h.upd (hfw := .inl hf))

theorem State.sendReply_touch {i : Nat} {st : W32} {l : List Byte} (h : Touch P s u) (hs : ∀ c, answerParts i c → P c) :
    Touch P s (u.sendReply i st l) := by
  have hst : ∀ c, storeParts c → P c := fun c hc => hs c (answerParts_store hc)
  unfold State.sendReply
  split
  · extract_lets v
    have hv : Touch P s v := Touch.ite (State.ringOutDoorbell_touch h (hs _ (.inl rfl)) (hs _ (.inr (.inr (.inr (.inl rfl)))))
      (hst _ trivial) (hst _ trivial)) h
    exact State.replyItem_touch hv fun c hc => hs c (answerParts_queue hc)
  · extract_lets target
    split
    · exact State.sendMsg_touch h (hs _ (.inr (.inl ⟨_, rfl⟩)))
    · exact State.ownReply_touch h (hs _ (by simp [answerParts])) (hs _ (by simp [answerParts]))
    · exact h

theorem State.replyTo_touch {i o t st : Nat} {w : W32} {l : List Byte} (h : Touch P s u) (hs : ∀ c, answerParts i c → P c) :
    Touch P s (u.replyTo i w o t st l) :=
  State.sendReply_touch (State.putBytes_touch h fun c hc => hs c (answerParts_mem hc)) hs

theorem State.reply_touch {x : Msg} {st : Nat} {l : List Byte} (h : Touch P s u) (hs : ∀ c, answerParts x.mbox c → P c) :
    Touch P s (u.reply x st l) := Touch.ite h (State.replyTo_touch h hs)

/-- The reply to a message and its completion change the parts of `answerParts` and nothing else. -/
theorem State.answer_touch {x : Msg} {st : Nat} {l : List Byte} (h : Touch P s u) (hs : ∀ c, answerParts x.mbox c → P c) :
    Touch P s (u.answer x st l) :=
  State.complete_touch (State.reply_touch h hs) (hs _ (.inl rfl)) (hs _ (.inr (.inr (.inl rfl))))
    fun p => hs _ (.inr (.inl ⟨p, rfl⟩))

/-! ## Locks -/

theorem State.lockReadBy_touch {i : Nat} {w : W32} (h : Touch P s u) (hp : P (.tri (34 + i))) :
    Touch P s (u.lockReadBy i w).2 := by
  unfold State.lockReadBy
  split
  · exact State.setLock_touch h hp
  · exact h

theorem State.lockWriteBy_touch {i : Nat} {w : W32} (h : Touch P s u) (hp : P (.tri (34 + i))) (hr : P (.reg 0xA084)) :
    Touch P s (u.lockWriteBy i w) := Touch.ite (State.setLock_touch h hp) (State.inc_touch h hr)

/-! ## Reads that come with a state -/

theorem State.readCw_keepE {a : Nat} {x v} (e : u.readCw m a = (x, v)) (h : Keep s u) : Keep s v := by
  have h2 : Keep s (u.readCw m a).2 := State.readCw_touch h (fun _ _ => trivial)
  rw [e] at h2
  exact h2

theorem State.readCws_keepE {n a : Nat} {x v} (e : State.readCws n u m a = (x, v)) (h : Keep s u) : Keep s v := by
  have h2 : Keep s (State.readCws n u m a).2 := State.readCws_touch h (fun _ _ => trivial)
  rw [e] at h2
  exact h2

theorem State.readChain_keepE {k n : Nat} {x v} (e : State.readChain k u n = (x, v)) (h : Keep s u) : Keep s v := by
  have h2 : Keep s (State.readChain k u n).2 := State.readChain_touch h (fun _ _ => trivial)
  rw [e] at h2
  exact h2

theorem State.readItem_keepE {i : Item} {x v} (e : u.readItem i = (x, v)) (h : Keep s u) : Keep s v := by
  have h2 : Keep s (u.readItem i).2 := State.readItem_touch h (fun _ _ => trivial) (fun _ _ => trivial)
  rw [e] at h2
  exact h2

theorem State.getBytes_keepE {a n : Nat} {x v} (e : u.getBytes m a n = (x, v)) (h : Keep s u) : Keep s v := by
  have h2 : Keep s (u.getBytes m a n).2 := State.getBytes_touch h (fun _ _ => trivial)
  rw [e] at h2
  exact h2

theorem State.lockReadBy_keepE {i : Nat} {w : W32} {x v} (e : u.lockReadBy i w = (x, v)) (h : Keep s u) : Keep s v := by
  have h2 : Keep s (u.lockReadBy i w).2 := State.lockReadBy_touch h trivial
  rw [e] at h2
  exact h2

theorem State.tableCw_keepE {a : Nat} {x v} (e : u.tableCw a = (x, v)) (h : Keep s u) : Keep s v := by
  have h2 : Keep s (u.tableCw a).2 := State.tableCw_touch h (fun _ _ => trivial)
  rw [e] at h2
  exact h2

theorem State.takeSlot_keepE {q : Nat} {x y v} (e : u.takeSlot q = (x, y, v)) (h : Keep s u) : Keep s v := by
  have h2 : Keep s (u.takeSlot q).2.2 := State.takeSlot_touch h (fun _ _ => trivial)
  rw [e] at h2
  exact h2

theorem State.growItem_keepE {k id n : Nat} {x v} (e : State.growItem k u id n = (x, v)) (h : Keep s u) : Keep s v := by
  have h2 : Keep s (State.growItem k u id n).2 := State.growItem_touch h (fun _ _ => trivial)
  rw [e] at h2
  exact h2

/-! ## Outcomes -/

/-- Every next state of an outcome comes of `s` by updates that keep the invariant. -/
def KeepRes (s : State) (r : Res) : Prop := ∀ t, r = .next t → Keep s t

theorem KeepRes.next {t : State} (h : Keep s t) : KeepRes s (.next t) := fun _ e => by cases e; exact h
theorem KeepRes.fault {f : Fault} : KeepRes s (.fault f) := fun _ e => by cases e
theorem KeepRes.refused {f : Refusal} : KeepRes s (.refused f) := fun _ e => by cases e
theorem KeepRes.ite {c : Prop} {_ : Decidable c} {a b : Res} (ha : KeepRes s a) (hb : KeepRes s b) :
    KeepRes s (if c then a else b) := by split <;> assumption

/-- A state that may come out of an operation comes of `s` by updates that keep the invariant. -/
def KeepOpt (s : State) (o : Option State) : Prop := ∀ t, o = some t → Keep s t

theorem KeepOpt.some {t : State} (h : Keep s t) : KeepOpt s (some t) := fun _ e => by cases e; exact h
theorem KeepOpt.none : KeepOpt s none := fun _ e => by cases e
theorem KeepOpt.ite {c : Prop} {_ : Decidable c} {a b : Option State} (ha : KeepOpt s a) (hb : KeepOpt s b) :
    KeepOpt s (if c then a else b) := by split <;> assumption
theorem KeepOpt.map {o : Option State} {f : State → State} (h : KeepOpt s o) (hf : ∀ v, Keep s v → Keep s (f v)) :
    KeepOpt s (o.map f) := by
  intro t e
  obtain ⟨v, hv, rfl⟩ := Option.map_eq_some_iff.1 e
  exact hf v (h v hv)
theorem KeepOpt.findSome {α : Type} {f : α → Option State} {l : List α} (h : ∀ a, KeepOpt s (f a)) :
    KeepOpt s (l.findSome? f) := by
  intro t e
  obtain ⟨a, _, ha⟩ := List.exists_of_findSome?_eq_some e
  exact h a t ha
theorem KeepOpt.getD {o : Option State} {d : State} (h : KeepOpt s o) (hd : Keep s d) : Keep s (o.getD d) := by
  cases o with
  | none => exact hd
  | some t => exact h t rfl

/-! ## Commands that firmware carries out -/

theorem State.commandL_keep {o : BitVec 16} {n : Msg → Nat} {l : List NodeState} {f : Msg → State → State} (h : Keep s u)
    (hf : ∀ x v, Keep s v → Keep s (f x v)) : Keep s (u.commandL o n l f) := by
  unfold State.commandL
  split
  · exact h
  · split
    · exact h
    · have h1 : Keep s { u with fw := { u.fw with cur := none } } := h.upd
      exact Touch.ite (State.answer_touch h1 fun _ _ => trivial)
        (Touch.ite (State.answer_touch h1 fun _ _ => trivial) (hf _ _ h1))

theorem State.command_keep {o : BitVec 16} {n : Nat} {l : List NodeState} {f : Msg → State → State} (h : Keep s u)
    (hf : ∀ x v, Keep s v → Keep s (f x v)) : Keep s (u.command o n l f) := State.commandL_keep h hf

end Sys2Proof.Machine
end

