-- ==== Sys2Proof/Laws/KeepTime.lean ====
section
/-! SUPPORT. Every operation of these files keeps the invariant, the queue and what has left the node (`Keep`):
Machine/Operands, Machine/AcqOps, Machine/MboxOps, Machine/TrainOps, Machine/NodeOps, Machine/TbOps, Machine/MemProt, Machine/Timebase, Machine/Node. -/

set_option Elab.async false
set_option linter.tactic.unusedName false
set_option linter.unusedTactic false
set_option linter.unreachableTactic false
set_option linter.unusedVariables false
set_option linter.unusedSimpArgs false

namespace Sys2Proof.Machine

variable {s u : State}

theorem State.settlePages_keep {a1} (h : Keep s u) : Keep s (State.settlePages u a1) := by
  unfold State.settlePages
  have x := @id True
  repeat' first
    | with_reducible assumption
    | exact fun _ _ => trivial
    | exact fun _ => trivial
    | exact trivial
    | (extract_lets +onlyGivenNames x; (fail_if_success have y : True → True := x); (first | (refine (fun (hx : Keep s x) => ?_) ?_; rotate_left; (try unfold x); rotate_left) | (refine (fun (hx : Keep s x.2) => ?_) ?_; rotate_left; (try unfold x); rotate_left) | (refine (fun (hx : Keep s x.2.2) => ?_) ?_; rotate_left; (try unfold x); rotate_left) | (refine (fun (hx : KeepOpt s x) => ?_) ?_; rotate_left; (try unfold x); rotate_left) | (refine (fun (hx : ∀ v : State, Keep s v → Keep s (x v)) => ?_) ?_; rotate_left; (try unfold x); (try intro v hv); rotate_left) | (have y : Mem := x) | (have y : ProtSt := x) | (have y : PoolSt := x) | (have y : PairSt := x) | (have y : HostSt := x) | (have y : TestSt := x) | (have y : Tab Cell := x) | (have y : Tab Word := x) | (try clear_value x)); all_goals have x := @id True)
    | with_reducible apply Touch.ite
    | with_reducible refine Touch.foldl _ ?_ (fun v a hv => ?_)
    | with_reducible apply State.setF_touch
    | split
    | intro _ _ _
    | intro _ _
    | fail_if_no_progress (with_reducible refine Touch.upd ?_)
    | with_reducible apply_assumption


theorem State.flushStaging_keep {a1} (h : Keep s u) : Keep s (State.flushStaging u a1) := by
  unfold State.flushStaging
  have x := @id True
  repeat' first
    | with_reducible assumption
    | exact fun _ _ => trivial
    | exact fun _ => trivial
    | exact trivial
    | (extract_lets +onlyGivenNames x; (fail_if_success have y : True → True := x); (first | (refine (fun (hx : Keep s x) => ?_) ?_; rotate_left; (try unfold x); rotate_left) | (refine (fun (hx : Keep s x.2) => ?_) ?_; rotate_left; (try unfold x); rotate_left) | (refine (fun (hx : Keep s x.2.2) => ?_) ?_; rotate_left; (try unfold x); rotate_left) | (refine (fun (hx : KeepOpt s x) => ?_) ?_; rotate_left; (try unfold x); rotate_left) | (refine (fun (hx : ∀ v : State, Keep s v → Keep s (x v)) => ?_) ?_; rotate_left; (try unfold x); (try intro v hv); rotate_left) | (have y : Mem := x) | (have y : ProtSt := x) | (have y : PoolSt := x) | (have y : PairSt := x) | (have y : HostSt := x) | (have y : TestSt := x) | (have y : Tab Cell := x) | (have y : Tab Word := x) | (try clear_value x)); all_goals have x := @id True)
    | with_reducible apply Touch.ite
    | with_reducible refine Touch.foldl _ ?_ (fun v a hv => ?_)
    | with_reducible apply State.setCell_touch
    | with_reducible apply State.drainEntry_touch
    | with_reducible apply State.setRaw_touch
    | split
    | intro _ _ _
    | intro _ _
    | fail_if_no_progress (with_reducible refine Touch.upd ?_)
    | with_reducible apply_assumption


theorem State.storeContainer_keep {a1 a2 a3} (h : Keep s u) : Keep s (State.storeContainer u a1 a2 a3) := by
  unfold State.storeContainer
  have x := @id True
  repeat' first
    | with_reducible assumption
    | exact fun _ _ => trivial
    | exact fun _ => trivial
    | exact trivial
    | (extract_lets +onlyGivenNames x; (fail_if_success have y : True → True := x); (first | (refine (fun (hx : Keep s x) => ?_) ?_; rotate_left; (try unfold x); rotate_left) | (refine (fun (hx : Keep s x.2) => ?_) ?_; rotate_left; (try unfold x); rotate_left) | (refine (fun (hx : Keep s x.2.2) => ?_) ?_; rotate_left; (try unfold x); rotate_left) | (refine (fun (hx : KeepOpt s x) => ?_) ?_; rotate_left; (try unfold x); rotate_left) | (refine (fun (hx : ∀ v : State, Keep s v → Keep s (x v)) => ?_) ?_; rotate_left; (try unfold x); (try intro v hv); rotate_left) | (have y : Mem := x) | (have y : ProtSt := x) | (have y : PoolSt := x) | (have y : PairSt := x) | (have y : HostSt := x) | (have y : TestSt := x) | (have y : Tab Cell := x) | (have y : Tab Word := x) | (try clear_value x)); all_goals have x := @id True)
    | with_reducible apply Touch.ite
    | with_reducible refine Touch.foldl _ ?_ (fun v a hv => ?_)
    | with_reducible apply State.flushStaging_keep
    | with_reducible apply State.setCell_touch
    | split
    | intro _ _ _
    | intro _ _
    | fail_if_no_progress (with_reducible refine Touch.upd ?_)
    | with_reducible apply_assumption


theorem State.segRead_keep {a1} (h : Keep s u) : Keep s (State.segRead u a1).2 := by
  unfold State.segRead
  have x := @id True
  repeat' first
    | with_reducible assumption
    | exact fun _ _ => trivial
    | exact fun _ => trivial
    | exact trivial
    | (extract_lets +onlyGivenNames x; (fail_if_success have y : True → True := x); (first | (refine (fun (hx : Keep s x) => ?_) ?_; rotate_left; (try unfold x); rotate_left) | (refine (fun (hx : Keep s x.2) => ?_) ?_; rotate_left; (try unfold x); rotate_left) | (refine (fun (hx : Keep s x.2.2) => ?_) ?_; rotate_left; (try unfold x); rotate_left) | (refine (fun (hx : KeepOpt s x) => ?_) ?_; rotate_left; (try unfold x); rotate_left) | (refine (fun (hx : ∀ v : State, Keep s v → Keep s (x v)) => ?_) ?_; rotate_left; (try unfold x); (try intro v hv); rotate_left) | (have y : Mem := x) | (have y : ProtSt := x) | (have y : PoolSt := x) | (have y : PairSt := x) | (have y : HostSt := x) | (have y : TestSt := x) | (have y : Tab Cell := x) | (have y : Tab Word := x) | (try clear_value x)); all_goals have x := @id True)
    | with_reducible apply Touch.ite
    | with_reducible apply Touch.ite2
    | with_reducible apply Touch.ite22
    | with_reducible refine Touch.foldl _ ?_ (fun v a hv => ?_)
    | with_reducible apply State.readCw_touch
    | with_reducible refine State.readCw_keepE (by with_reducible assumption) ?_
    | split
    | intro _ _ _
    | intro _ _
    | fail_if_no_progress (with_reducible refine Touch.upd ?_)
    | with_reducible apply_assumption

theorem State.segRead_keepE {a1} {x v} (e : (State.segRead u a1) = (x, v)) (h : Keep s u) : Keep s v := by
  have h2 := State.segRead_keep (u := u) (a1 := a1) h; rw [e] at h2; exact h2


theorem State.readWords_keep {a0 a2 a3} (h : Keep s u) : Keep s (State.readWords a0 u a2 a3).2 := by
  induction a0 generalizing u a2 a3 with
  | zero => exact h
  | succ n ih =>
    unfold State.readWords
    have x := @id True
    repeat' first
      | with_reducible assumption
      | exact fun _ _ => trivial
      | exact fun _ => trivial
      | exact trivial
      | (extract_lets +onlyGivenNames x; (fail_if_success have y : True → True := x); (first | (refine (fun (hx : Keep s x) => ?_) ?_; rotate_left; (try unfold x); rotate_left) | (refine (fun (hx : Keep s x.2) => ?_) ?_; rotate_left; (try unfold x); rotate_left) | (refine (fun (hx : Keep s x.2.2) => ?_) ?_; rotate_left; (try unfold x); rotate_left) | (refine (fun (hx : KeepOpt s x) => ?_) ?_; rotate_left; (try unfold x); rotate_left) | (refine (fun (hx : ∀ v : State, Keep s v → Keep s (x v)) => ?_) ?_; rotate_left; (try unfold x); (try intro v hv); rotate_left) | (have y : Mem := x) | (have y : ProtSt := x) | (have y : PoolSt := x) | (have y : PairSt := x) | (have y : HostSt := x) | (have y : TestSt := x) | (have y : Tab Cell := x) | (have y : Tab Word := x) | (try clear_value x)); all_goals have x := @id True)
      | with_reducible apply Touch.ite
      | with_reducible apply Touch.ite2
      | with_reducible apply Touch.ite22
      | with_reducible apply ih
      | with_reducible refine Touch.foldl _ ?_ (fun v a hv => ?_)
      | with_reducible apply State.segRead_keep
      | with_reducible refine State.segRead_keepE (by with_reducible assumption) ?_
      | with_reducible apply State.readCw_touch
      | with_reducible refine State.readCw_keepE (by with_reducible assumption) ?_
      | split
      | intro _ _ _
      | intro _ _
      | fail_if_no_progress (with_reducible refine Touch.upd ?_)
      | with_reducible apply_assumption

theorem State.readWords_keepE {a0 a2 a3} {x v} (e : (State.readWords a0 u a2 a3) = (x, v)) (h : Keep s u) : Keep s v := by
  have h2 := State.readWords_keep (u := u) (a0 := a0) (a2 := a2) (a3 := a3) h; rw [e] at h2; exact h2


theorem State.readContainer_keep {a1 a2} (h : Keep s u) : Keep s (State.readContainer u a1 a2).2 := by
  unfold State.readContainer
  have x := @id True
  repeat' first
    | with_reducible assumption
    | exact fun _ _ => trivial
    | exact fun _ => trivial
    | exact trivial
    | (extract_lets +onlyGivenNames x; (fail_if_success have y : True → True := x); (first | (refine (fun (hx : Keep s x) => ?_) ?_; rotate_left; (try unfold x); rotate_left) | (refine (fun (hx : Keep s x.2) => ?_) ?_; rotate_left; (try unfold x); rotate_left) | (refine (fun (hx : Keep s x.2.2) => ?_) ?_; rotate_left; (try unfold x); rotate_left) | (refine (fun (hx : KeepOpt s x) => ?_) ?_; rotate_left; (try unfold x); rotate_left) | (refine (fun (hx : ∀ v : State, Keep s v → Keep s (x v)) => ?_) ?_; rotate_left; (try unfold x); (try intro v hv); rotate_left) | (have y : Mem := x) | (have y : ProtSt := x) | (have y : PoolSt := x) | (have y : PairSt := x) | (have y : HostSt := x) | (have y : TestSt := x) | (have y : Tab Cell := x) | (have y : Tab Word := x) | (try clear_value x)); all_goals have x := @id True)
    | with_reducible apply Touch.ite
    | with_reducible apply Touch.ite2
    | with_reducible apply Touch.ite22
    | with_reducible refine Touch.foldl _ ?_ (fun v a hv => ?_)
    | with_reducible apply State.readCw_touch
    | with_reducible refine State.readCw_keepE (by with_reducible assumption) ?_
    | split
    | intro _ _ _
    | intro _ _
    | fail_if_no_progress (with_reducible refine Touch.upd ?_)
    | with_reducible apply_assumption

theorem State.readContainer_keepE {a1 a2} {x v} (e : (State.readContainer u a1 a2) = (x, v)) (h : Keep s u) : Keep s v := by
  have h2 := State.readContainer_keep (u := u) (a1 := a1) (a2 := a2) h; rw [e] at h2; exact h2


theorem State.flushBlock_keep {a1} (h : Keep s u) : Keep s (State.flushBlock u a1) := by
  unfold State.flushBlock
  have x := @id True
  repeat' first
    | with_reducible assumption
    | exact fun _ _ => trivial
    | exact fun _ => trivial
    | exact trivial
    | (extract_lets +onlyGivenNames x; (fail_if_success have y : True → True := x); (first | (refine (fun (hx : Keep s x) => ?_) ?_; rotate_left; (try unfold x); rotate_left) | (refine (fun (hx : Keep s x.2) => ?_) ?_; rotate_left; (try unfold x); rotate_left) | (refine (fun (hx : Keep s x.2.2) => ?_) ?_; rotate_left; (try unfold x); rotate_left) | (refine (fun (hx : KeepOpt s x) => ?_) ?_; rotate_left; (try unfold x); rotate_left) | (refine (fun (hx : ∀ v : State, Keep s v → Keep s (x v)) => ?_) ?_; rotate_left; (try unfold x); (try intro v hv); rotate_left) | (have y : Mem := x) | (have y : ProtSt := x) | (have y : PoolSt := x) | (have y : PairSt := x) | (have y : HostSt := x) | (have y : TestSt := x) | (have y : Tab Cell := x) | (have y : Tab Word := x) | (try clear_value x)); all_goals have x := @id True)
    | with_reducible apply Touch.ite
    | with_reducible refine Touch.foldl _ ?_ (fun v a hv => ?_)
    | with_reducible apply State.flushStaging_keep
    | split
    | intro _ _ _
    | intro _ _
    | fail_if_no_progress (with_reducible refine Touch.upd ?_)
    | with_reducible apply_assumption


theorem State.stopSamplers_keep {a1} (h : Keep s u) : Keep s (State.stopSamplers u a1) := by
  unfold State.stopSamplers
  have x := @id True
  repeat' first
    | with_reducible assumption
    | exact fun _ _ => trivial
    | exact fun _ => trivial
    | exact trivial
    | (extract_lets +onlyGivenNames x; (fail_if_success have y : True → True := x); (first | (refine (fun (hx : Keep s x) => ?_) ?_; rotate_left; (try unfold x); rotate_left) | (refine (fun (hx : Keep s x.2) => ?_) ?_; rotate_left; (try unfold x); rotate_left) | (refine (fun (hx : Keep s x.2.2) => ?_) ?_; rotate_left; (try unfold x); rotate_left) | (refine (fun (hx : KeepOpt s x) => ?_) ?_; rotate_left; (try unfold x); rotate_left) | (refine (fun (hx : ∀ v : State, Keep s v → Keep s (x v)) => ?_) ?_; rotate_left; (try unfold x); (try intro v hv); rotate_left) | (have y : Mem := x) | (have y : ProtSt := x) | (have y : PoolSt := x) | (have y : PairSt := x) | (have y : HostSt := x) | (have y : TestSt := x) | (have y : Tab Cell := x) | (have y : Tab Word := x) | (try clear_value x)); all_goals have x := @id True)
    | with_reducible apply Touch.ite
    | with_reducible refine Touch.foldl _ ?_ (fun v a hv => ?_)
    | with_reducible apply State.flushBlock_keep
    | with_reducible apply State.setBlock_touch
    | split
    | intro _ _ _
    | intro _ _
    | fail_if_no_progress (with_reducible refine Touch.upd ?_)
    | with_reducible apply_assumption


theorem State.startSamplers_keep {a1 a2 a3} (h : Keep s u) : Keep s (State.startSamplers u a1 a2 a3) := by
  unfold State.startSamplers
  have x := @id True
  repeat' first
    | with_reducible assumption
    | exact fun _ _ => trivial
    | exact fun _ => trivial
    | exact trivial
    | (extract_lets +onlyGivenNames x; (fail_if_success have y : True → True := x); (first | (refine (fun (hx : Keep s x) => ?_) ?_; rotate_left; (try unfold x); rotate_left) | (refine (fun (hx : Keep s x.2) => ?_) ?_; rotate_left; (try unfold x); rotate_left) | (refine (fun (hx : Keep s x.2.2) => ?_) ?_; rotate_left; (try unfold x); rotate_left) | (refine (fun (hx : KeepOpt s x) => ?_) ?_; rotate_left; (try unfold x); rotate_left) | (refine (fun (hx : ∀ v : State, Keep s v → Keep s (x v)) => ?_) ?_; rotate_left; (try unfold x); (try intro v hv); rotate_left) | (have y : Mem := x) | (have y : ProtSt := x) | (have y : PoolSt := x) | (have y : PairSt := x) | (have y : HostSt := x) | (have y : TestSt := x) | (have y : Tab Cell := x) | (have y : Tab Word := x) | (try clear_value x)); all_goals have x := @id True)
    | with_reducible apply Touch.ite
    | with_reducible refine Touch.foldl _ ?_ (fun v a hv => ?_)
    | with_reducible apply State.setBlock_touch
    | split
    | intro _ _ _
    | intro _ _
    | fail_if_no_progress (with_reducible refine Touch.upd ?_)
    | with_reducible apply_assumption


theorem State.resumeGap_keep {a1} (h : Keep s u) : Keep s (State.resumeGap u a1) := by
  unfold State.resumeGap
  have x := @id True
  repeat' first
    | with_reducible assumption
    | exact fun _ _ => trivial
    | exact fun _ => trivial
    | exact trivial
    | (extract_lets +onlyGivenNames x; (fail_if_success have y : True → True := x); (first | (refine (fun (hx : Keep s x) => ?_) ?_; rotate_left; (try unfold x); rotate_left) | (refine (fun (hx : Keep s x.2) => ?_) ?_; rotate_left; (try unfold x); rotate_left) | (refine (fun (hx : Keep s x.2.2) => ?_) ?_; rotate_left; (try unfold x); rotate_left) | (refine (fun (hx : KeepOpt s x) => ?_) ?_; rotate_left; (try unfold x); rotate_left) | (refine (fun (hx : ∀ v : State, Keep s v → Keep s (x v)) => ?_) ?_; rotate_left; (try unfold x); (try intro v hv); rotate_left) | (have y : Mem := x) | (have y : ProtSt := x) | (have y : PoolSt := x) | (have y : PairSt := x) | (have y : HostSt := x) | (have y : TestSt := x) | (have y : Tab Cell := x) | (have y : Tab Word := x) | (try clear_value x)); all_goals have x := @id True)
    | with_reducible apply Touch.ite
    | with_reducible refine Touch.foldl _ ?_ (fun v a hv => ?_)
    | with_reducible apply State.startSamplers_keep
    | split
    | intro _ _ _
    | intro _ _
    | fail_if_no_progress (with_reducible refine Touch.upd ?_)
    | with_reducible apply_assumption


theorem State.beginGap_keep {a1 a2} (h : Keep s u) : Keep s (State.beginGap u a1 a2) := by
  unfold State.beginGap
  have x := @id True
  repeat' first
    | with_reducible assumption
    | exact fun _ _ => trivial
    | exact fun _ => trivial
    | exact trivial
    | (extract_lets +onlyGivenNames x; (fail_if_success have y : True → True := x); (first | (refine (fun (hx : Keep s x) => ?_) ?_; rotate_left; (try unfold x); rotate_left) | (refine (fun (hx : Keep s x.2) => ?_) ?_; rotate_left; (try unfold x); rotate_left) | (refine (fun (hx : Keep s x.2.2) => ?_) ?_; rotate_left; (try unfold x); rotate_left) | (refine (fun (hx : KeepOpt s x) => ?_) ?_; rotate_left; (try unfold x); rotate_left) | (refine (fun (hx : ∀ v : State, Keep s v → Keep s (x v)) => ?_) ?_; rotate_left; (try unfold x); (try intro v hv); rotate_left) | (have y : Mem := x) | (have y : ProtSt := x) | (have y : PoolSt := x) | (have y : PairSt := x) | (have y : HostSt := x) | (have y : TestSt := x) | (have y : Tab Cell := x) | (have y : Tab Word := x) | (try clear_value x)); all_goals have x := @id True)
    | with_reducible apply Touch.ite
    | with_reducible refine Touch.foldl _ ?_ (fun v a hv => ?_)
    | with_reducible apply State.inc_touch
    | with_reducible apply State.setBlock_touch
    | split
    | intro _ _ _
    | intro _ _
    | fail_if_no_progress (with_reducible refine Touch.upd ?_)
    | with_reducible apply_assumption


theorem State.frostEntry_keep {a1} (h : Keep s u) : Keep s (State.frostEntry u a1) := by
  unfold State.frostEntry
  have x := @id True
  repeat' first
    | with_reducible assumption
    | exact fun _ _ => trivial
    | exact fun _ => trivial
    | exact trivial
    | (extract_lets +onlyGivenNames x; (fail_if_success have y : True → True := x); (first | (refine (fun (hx : Keep s x) => ?_) ?_; rotate_left; (try unfold x); rotate_left) | (refine (fun (hx : Keep s x.2) => ?_) ?_; rotate_left; (try unfold x); rotate_left) | (refine (fun (hx : Keep s x.2.2) => ?_) ?_; rotate_left; (try unfold x); rotate_left) | (refine (fun (hx : KeepOpt s x) => ?_) ?_; rotate_left; (try unfold x); rotate_left) | (refine (fun (hx : ∀ v : State, Keep s v → Keep s (x v)) => ?_) ?_; rotate_left; (try unfold x); (try intro v hv); rotate_left) | (have y : Mem := x) | (have y : ProtSt := x) | (have y : PoolSt := x) | (have y : PairSt := x) | (have y : HostSt := x) | (have y : TestSt := x) | (have y : Tab Cell := x) | (have y : Tab Word := x) | (try clear_value x)); all_goals have x := @id True)
    | with_reducible apply Touch.ite
    | with_reducible refine Touch.foldl _ ?_ (fun v a hv => ?_)
    | with_reducible apply State.setFlag_touch
    | with_reducible apply State.setF_touch
    | with_reducible apply State.stopSamplers_keep
    | with_reducible apply State.notice_touch
    | split
    | intro _ _ _
    | intro _ _
    | fail_if_no_progress (with_reducible refine Touch.upd ?_)
    | with_reducible apply_assumption


theorem State.modFrag_keep {a1 a2} (h : Keep s u) : Keep s (State.modFrag u a1 a2) := by
  unfold State.modFrag
  have x := @id True
  repeat' first
    | with_reducible assumption
    | exact fun _ _ => trivial
    | exact fun _ => trivial
    | exact trivial
    | (extract_lets +onlyGivenNames x; (fail_if_success have y : True → True := x); (first | (refine (fun (hx : Keep s x) => ?_) ?_; rotate_left; (try unfold x); rotate_left) | (refine (fun (hx : Keep s x.2) => ?_) ?_; rotate_left; (try unfold x); rotate_left) | (refine (fun (hx : Keep s x.2.2) => ?_) ?_; rotate_left; (try unfold x); rotate_left) | (refine (fun (hx : KeepOpt s x) => ?_) ?_; rotate_left; (try unfold x); rotate_left) | (refine (fun (hx : ∀ v : State, Keep s v → Keep s (x v)) => ?_) ?_; rotate_left; (try unfold x); (try intro v hv); rotate_left) | (have y : Mem := x) | (have y : ProtSt := x) | (have y : PoolSt := x) | (have y : PairSt := x) | (have y : HostSt := x) | (have y : TestSt := x) | (have y : Tab Cell := x) | (have y : Tab Word := x) | (try clear_value x)); all_goals have x := @id True)
    | with_reducible apply Touch.ite
    | with_reducible refine Touch.foldl _ ?_ (fun v a hv => ?_)
    | split
    | intro _ _ _
    | intro _ _
    | fail_if_no_progress (with_reducible refine Touch.upd ?_)
    | with_reducible apply_assumption


theorem State.newFrag_keep {a1 a2 a3 a4} (h : Keep s u) : Keep s (State.newFrag u a1 a2 a3 a4) := by
  unfold State.newFrag
  have x := @id True
  repeat' first
    | with_reducible assumption
    | exact fun _ _ => trivial
    | exact fun _ => trivial
    | exact trivial
    | (extract_lets +onlyGivenNames x; (fail_if_success have y : True → True := x); (first | (refine (fun (hx : Keep s x) => ?_) ?_; rotate_left; (try unfold x); rotate_left) | (refine (fun (hx : Keep s x.2) => ?_) ?_; rotate_left; (try unfold x); rotate_left) | (refine (fun (hx : Keep s x.2.2) => ?_) ?_; rotate_left; (try unfold x); rotate_left) | (refine (fun (hx : KeepOpt s x) => ?_) ?_; rotate_left; (try unfold x); rotate_left) | (refine (fun (hx : ∀ v : State, Keep s v → Keep s (x v)) => ?_) ?_; rotate_left; (try unfold x); (try intro v hv); rotate_left) | (have y : Mem := x) | (have y : ProtSt := x) | (have y : PoolSt := x) | (have y : PairSt := x) | (have y : HostSt := x) | (have y : TestSt := x) | (have y : Tab Cell := x) | (have y : Tab Word := x) | (try clear_value x)); all_goals have x := @id True)
    | with_reducible apply Touch.ite
    | with_reducible refine Touch.foldl _ ?_ (fun v a hv => ?_)
    | with_reducible apply State.modFrag_keep
    | split
    | intro _ _ _
    | intro _ _
    | fail_if_no_progress (with_reducible refine Touch.upd ?_)
    | with_reducible apply_assumption


theorem State.judge_keep {a1 a2 a3 a4 a5} (h : Keep s u) : Keep s (State.judge u a1 a2 a3 a4 a5).2 := by
  unfold State.judge
  have x := @id True
  repeat' first
    | with_reducible assumption
    | exact fun _ _ => trivial
    | exact fun _ => trivial
    | exact trivial
    | (extract_lets +onlyGivenNames x; (fail_if_success have y : True → True := x); (first | (refine (fun (hx : Keep s x) => ?_) ?_; rotate_left; (try unfold x); rotate_left) | (refine (fun (hx : Keep s x.2) => ?_) ?_; rotate_left; (try unfold x); rotate_left) | (refine (fun (hx : Keep s x.2.2) => ?_) ?_; rotate_left; (try unfold x); rotate_left) | (refine (fun (hx : KeepOpt s x) => ?_) ?_; rotate_left; (try unfold x); rotate_left) | (refine (fun (hx : ∀ v : State, Keep s v → Keep s (x v)) => ?_) ?_; rotate_left; (try unfold x); (try intro v hv); rotate_left) | (have y : Mem := x) | (have y : ProtSt := x) | (have y : PoolSt := x) | (have y : PairSt := x) | (have y : HostSt := x) | (have y : TestSt := x) | (have y : Tab Cell := x) | (have y : Tab Word := x) | (try clear_value x)); all_goals have x := @id True)
    | with_reducible apply Touch.ite
    | with_reducible apply Touch.ite2
    | with_reducible apply Touch.ite22
    | with_reducible refine Touch.foldl _ ?_ (fun v a hv => ?_)
    | with_reducible apply State.inc_touch
    | with_reducible apply State.setBlock_touch
    | with_reducible apply State.setF_touch
    | with_reducible apply State.incWrap_touch
    | split
    | intro _ _ _
    | intro _ _
    | fail_if_no_progress (with_reducible refine Touch.upd ?_)
    | with_reducible apply_assumption

theorem State.judge_keepE {a1 a2 a3 a4 a5} {x v} (e : (State.judge u a1 a2 a3 a4 a5) = (x, v)) (h : Keep s u) : Keep s v := by
  have h2 := State.judge_keep (u := u) (a1 := a1) (a2 := a2) (a3 := a3) (a4 := a4) (a5 := a5) h; rw [e] at h2; exact h2


theorem State.offer_keep {a1 a2 a3} {l : List (Nat × BitVec 16)} (h : Keep s u) : Keep s (State.offer u a1 a2 a3 l).2 := by
  induction l generalizing u with
  | nil => exact h
  | cons e l ih => exact ih (State.judge_keep h)


theorem State.trigger_keep {a1 a2 a3} (h : Keep s u) : Keep s (State.trigger u a1 a2 a3) := by
  unfold State.trigger
  have x := @id True
  repeat' first
    | with_reducible assumption
    | exact fun _ _ => trivial
    | exact fun _ => trivial
    | exact trivial
    | (extract_lets +onlyGivenNames x; (fail_if_success have y : True → True := x); (first | (refine (fun (hx : Keep s x) => ?_) ?_; rotate_left; (try unfold x); rotate_left) | (refine (fun (hx : Keep s x.2) => ?_) ?_; rotate_left; (try unfold x); rotate_left) | (refine (fun (hx : Keep s x.2.2) => ?_) ?_; rotate_left; (try unfold x); rotate_left) | (refine (fun (hx : KeepOpt s x) => ?_) ?_; rotate_left; (try unfold x); rotate_left) | (refine (fun (hx : ∀ v : State, Keep s v → Keep s (x v)) => ?_) ?_; rotate_left; (try unfold x); (try intro v hv); rotate_left) | (have y : Mem := x) | (have y : ProtSt := x) | (have y : PoolSt := x) | (have y : PairSt := x) | (have y : HostSt := x) | (have y : TestSt := x) | (have y : Tab Cell := x) | (have y : Tab Word := x) | (try clear_value x)); all_goals have x := @id True)
    | with_reducible apply Touch.ite
    | with_reducible apply Touch.ite2
    | with_reducible apply Touch.ite22
    | with_reducible refine Touch.foldl _ ?_ (fun v a hv => ?_)
    | with_reducible apply State.offer_keep
    | with_reducible refine State.offer_keepE (by with_reducible assumption) ?_
    | with_reducible apply State.newFrag_keep
    | split
    | intro _ _ _
    | intro _ _
    | fail_if_no_progress (with_reducible refine Touch.upd ?_)
    | with_reducible apply_assumption


theorem State.selfTrigger_keep {a1 a2 a3 a4} (h : Keep s u) : Keep s (State.selfTrigger u a1 a2 a3 a4) := by
  unfold State.selfTrigger
  have x := @id True
  repeat' first
    | with_reducible assumption
    | exact fun _ _ => trivial
    | exact fun _ => trivial
    | exact trivial
    | (extract_lets +onlyGivenNames x; (fail_if_success have y : True → True := x); (first | (refine (fun (hx : Keep s x) => ?_) ?_; rotate_left; (try unfold x); rotate_left) | (refine (fun (hx : Keep s x.2) => ?_) ?_; rotate_left; (try unfold x); rotate_left) | (refine (fun (hx : Keep s x.2.2) => ?_) ?_; rotate_left; (try unfold x); rotate_left) | (refine (fun (hx : KeepOpt s x) => ?_) ?_; rotate_left; (try unfold x); rotate_left) | (refine (fun (hx : ∀ v : State, Keep s v → Keep s (x v)) => ?_) ?_; rotate_left; (try unfold x); (try intro v hv); rotate_left) | (have y : Mem := x) | (have y : ProtSt := x) | (have y : PoolSt := x) | (have y : PairSt := x) | (have y : HostSt := x) | (have y : TestSt := x) | (have y : Tab Cell := x) | (have y : Tab Word := x) | (try clear_value x)); all_goals have x := @id True)
    | with_reducible apply Touch.ite
    | with_reducible apply Touch.ite2
    | with_reducible apply Touch.ite22
    | with_reducible refine Touch.foldl _ ?_ (fun v a hv => ?_)
    | with_reducible apply State.judge_keep
    | with_reducible refine State.judge_keepE (by with_reducible assumption) ?_
    | with_reducible apply State.newFrag_keep
    | with_reducible apply State.incWrap_touch
    | split
    | intro _ _ _
    | intro _ _
    | fail_if_no_progress (with_reducible refine Touch.upd ?_)
    | with_reducible apply_assumption


theorem State.takeTree_keep {a1 a2} (h : Keep s u) : Keep s (State.takeTree u a1 a2) := by
  unfold State.takeTree
  have x := @id True
  repeat' first
    | with_reducible assumption
    | exact fun _ _ => trivial
    | exact fun _ => trivial
    | exact trivial
    | (extract_lets +onlyGivenNames x; (fail_if_success have y : True → True := x); (first | (refine (fun (hx : Keep s x) => ?_) ?_; rotate_left; (try unfold x); rotate_left) | (refine (fun (hx : Keep s x.2) => ?_) ?_; rotate_left; (try unfold x); rotate_left) | (refine (fun (hx : Keep s x.2.2) => ?_) ?_; rotate_left; (try unfold x); rotate_left) | (refine (fun (hx : KeepOpt s x) => ?_) ?_; rotate_left; (try unfold x); rotate_left) | (refine (fun (hx : ∀ v : State, Keep s v → Keep s (x v)) => ?_) ?_; rotate_left; (try unfold x); (try intro v hv); rotate_left) | (have y : Mem := x) | (have y : ProtSt := x) | (have y : PoolSt := x) | (have y : PairSt := x) | (have y : HostSt := x) | (have y : TestSt := x) | (have y : Tab Cell := x) | (have y : Tab Word := x) | (try clear_value x)); all_goals have x := @id True)
    | with_reducible apply Touch.ite
    | with_reducible refine Touch.foldl _ ?_ (fun v a hv => ?_)
    | with_reducible apply State.inc_touch
    | with_reducible apply State.newFrag_keep
    | split
    | intro _ _ _
    | intro _ _
    | fail_if_no_progress (with_reducible refine Touch.upd ?_)
    | with_reducible apply_assumption


theorem State.recognise_keep (h : Keep s u) : Keep s (State.recognise u) := by
  unfold State.recognise
  have x := @id True
  repeat' first
    | with_reducible assumption
    | exact fun _ _ => trivial
    | exact fun _ => trivial
    | exact trivial
    | (extract_lets +onlyGivenNames x; (fail_if_success have y : True → True := x); (first | (refine (fun (hx : Keep s x) => ?_) ?_; rotate_left; (try unfold x); rotate_left) | (refine (fun (hx : Keep s x.2) => ?_) ?_; rotate_left; (try unfold x); rotate_left) | (refine (fun (hx : Keep s x.2.2) => ?_) ?_; rotate_left; (try unfold x); rotate_left) | (refine (fun (hx : KeepOpt s x) => ?_) ?_; rotate_left; (try unfold x); rotate_left) | (refine (fun (hx : ∀ v : State, Keep s v → Keep s (x v)) => ?_) ?_; rotate_left; (try unfold x); (try intro v hv); rotate_left) | (have y : Mem := x) | (have y : ProtSt := x) | (have y : PoolSt := x) | (have y : PairSt := x) | (have y : HostSt := x) | (have y : TestSt := x) | (have y : Tab Cell := x) | (have y : Tab Word := x) | (try clear_value x)); all_goals have x := @id True)
    | with_reducible apply Touch.ite
    | with_reducible refine Touch.foldl _ ?_ (fun v a hv => ?_)
    | split
    | intro _ _ _
    | intro _ _
    | fail_if_no_progress (with_reducible refine Touch.upd ?_)
    | with_reducible apply_assumption


theorem State.hopLock_keep {a1} (h : Keep s u) : Keep s (State.hopLock u a1) := by
  unfold State.hopLock
  have x := @id True
  repeat' first
    | with_reducible assumption
    | exact fun _ _ => trivial
    | exact fun _ => trivial
    | exact trivial
    | (extract_lets +onlyGivenNames x; (fail_if_success have y : True → True := x); (first | (refine (fun (hx : Keep s x) => ?_) ?_; rotate_left; (try unfold x); rotate_left) | (refine (fun (hx : Keep s x.2) => ?_) ?_; rotate_left; (try unfold x); rotate_left) | (refine (fun (hx : Keep s x.2.2) => ?_) ?_; rotate_left; (try unfold x); rotate_left) | (refine (fun (hx : KeepOpt s x) => ?_) ?_; rotate_left; (try unfold x); rotate_left) | (refine (fun (hx : ∀ v : State, Keep s v → Keep s (x v)) => ?_) ?_; rotate_left; (try unfold x); (try intro v hv); rotate_left) | (have y : Mem := x) | (have y : ProtSt := x) | (have y : PoolSt := x) | (have y : PairSt := x) | (have y : HostSt := x) | (have y : TestSt := x) | (have y : Tab Cell := x) | (have y : Tab Word := x) | (try clear_value x)); all_goals have x := @id True)
    | with_reducible apply Touch.ite
    | with_reducible refine Touch.foldl _ ?_ (fun v a hv => ?_)
    | with_reducible apply State.sendMsg_touch
    | split
    | intro _ _ _
    | intro _ _
    | fail_if_no_progress (with_reducible refine Touch.upd ?_)
    | with_reducible apply_assumption


theorem State.startHop_keep {a1} (h : Keep s u) : Keep s (State.startHop u a1) := by
  unfold State.startHop
  have x := @id True
  repeat' first
    | with_reducible assumption
    | exact fun _ _ => trivial
    | exact fun _ => trivial
    | exact trivial
    | (extract_lets +onlyGivenNames x; (fail_if_success have y : True → True := x); (first | (refine (fun (hx : Keep s x) => ?_) ?_; rotate_left; (try unfold x); rotate_left) | (refine (fun (hx : Keep s x.2) => ?_) ?_; rotate_left; (try unfold x); rotate_left) | (refine (fun (hx : Keep s x.2.2) => ?_) ?_; rotate_left; (try unfold x); rotate_left) | (refine (fun (hx : KeepOpt s x) => ?_) ?_; rotate_left; (try unfold x); rotate_left) | (refine (fun (hx : ∀ v : State, Keep s v → Keep s (x v)) => ?_) ?_; rotate_left; (try unfold x); (try intro v hv); rotate_left) | (have y : Mem := x) | (have y : ProtSt := x) | (have y : PoolSt := x) | (have y : PairSt := x) | (have y : HostSt := x) | (have y : TestSt := x) | (have y : Tab Cell := x) | (have y : Tab Word := x) | (try clear_value x)); all_goals have x := @id True)
    | with_reducible apply Touch.ite
    | with_reducible refine Touch.foldl _ ?_ (fun v a hv => ?_)
    | with_reducible apply State.setHops_touch
    | with_reducible apply State.hopLock_keep
    | split
    | intro _ _ _
    | intro _ _
    | fail_if_no_progress (with_reducible refine Touch.upd ?_)
    | with_reducible apply_assumption


theorem State.forward_keep {a1 a2 a3 a4 a5} (h : Keep s u) : Keep s (State.forward u a1 a2 a3 a4 a5) := by
  unfold State.forward
  have x := @id True
  repeat' first
    | with_reducible assumption
    | exact fun _ _ => trivial
    | exact fun _ => trivial
    | exact trivial
    | (extract_lets +onlyGivenNames x; (fail_if_success have y : True → True := x); (first | (refine (fun (hx : Keep s x) => ?_) ?_; rotate_left; (try unfold x); rotate_left) | (refine (fun (hx : Keep s x.2) => ?_) ?_; rotate_left; (try unfold x); rotate_left) | (refine (fun (hx : Keep s x.2.2) => ?_) ?_; rotate_left; (try unfold x); rotate_left) | (refine (fun (hx : KeepOpt s x) => ?_) ?_; rotate_left; (try unfold x); rotate_left) | (refine (fun (hx : ∀ v : State, Keep s v → Keep s (x v)) => ?_) ?_; rotate_left; (try unfold x); (try intro v hv); rotate_left) | (have y : Mem := x) | (have y : ProtSt := x) | (have y : PoolSt := x) | (have y : PairSt := x) | (have y : HostSt := x) | (have y : TestSt := x) | (have y : Tab Cell := x) | (have y : Tab Word := x) | (try clear_value x)); all_goals have x := @id True)
    | with_reducible apply Touch.ite
    | with_reducible refine Touch.foldl _ ?_ (fun v a hv => ?_)
    | with_reducible apply State.startHop_keep
    | split
    | intro _ _ _
    | intro _ _
    | fail_if_no_progress (with_reducible refine Touch.upd ?_)
    | with_reducible apply_assumption


theorem State.nextHop_keep {a1} (h : Keep s u) : Keep s (State.nextHop u a1) := by
  unfold State.nextHop
  have x := @id True
  repeat' first
    | with_reducible assumption
    | exact fun _ _ => trivial
    | exact fun _ => trivial
    | exact trivial
    | (extract_lets +onlyGivenNames x; (fail_if_success have y : True → True := x); (first | (refine (fun (hx : Keep s x) => ?_) ?_; rotate_left; (try unfold x); rotate_left) | (refine (fun (hx : Keep s x.2) => ?_) ?_; rotate_left; (try unfold x); rotate_left) | (refine (fun (hx : Keep s x.2.2) => ?_) ?_; rotate_left; (try unfold x); rotate_left) | (refine (fun (hx : KeepOpt s x) => ?_) ?_; rotate_left; (try unfold x); rotate_left) | (refine (fun (hx : ∀ v : State, Keep s v → Keep s (x v)) => ?_) ?_; rotate_left; (try unfold x); (try intro v hv); rotate_left) | (have y : Mem := x) | (have y : ProtSt := x) | (have y : PoolSt := x) | (have y : PairSt := x) | (have y : HostSt := x) | (have y : TestSt := x) | (have y : Tab Cell := x) | (have y : Tab Word := x) | (try clear_value x)); all_goals have x := @id True)
    | with_reducible apply Touch.ite
    | with_reducible refine Touch.foldl _ ?_ (fun v a hv => ?_)
    | with_reducible apply State.hopLock_keep
    | split
    | intro _ _ _
    | intro _ _
    | fail_if_no_progress (with_reducible refine Touch.upd ?_)
    | with_reducible apply_assumption


theorem State.hopUnlock_keep {a1 a2 a3} (h : Keep s u) : Keep s (State.hopUnlock u a1 a2 a3) := by
  unfold State.hopUnlock
  have x := @id True
  repeat' first
    | with_reducible assumption
    | exact fun _ _ => trivial
    | exact fun _ => trivial
    | exact trivial
    | (extract_lets +onlyGivenNames x; (fail_if_success have y : True → True := x); (first | (refine (fun (hx : Keep s x) => ?_) ?_; rotate_left; (try unfold x); rotate_left) | (refine (fun (hx : Keep s x.2) => ?_) ?_; rotate_left; (try unfold x); rotate_left) | (refine (fun (hx : Keep s x.2.2) => ?_) ?_; rotate_left; (try unfold x); rotate_left) | (refine (fun (hx : KeepOpt s x) => ?_) ?_; rotate_left; (try unfold x); rotate_left) | (refine (fun (hx : ∀ v : State, Keep s v → Keep s (x v)) => ?_) ?_; rotate_left; (try unfold x); (try intro v hv); rotate_left) | (have y : Mem := x) | (have y : ProtSt := x) | (have y : PoolSt := x) | (have y : PairSt := x) | (have y : HostSt := x) | (have y : TestSt := x) | (have y : Tab Cell := x) | (have y : Tab Word := x) | (try clear_value x)); all_goals have x := @id True)
    | with_reducible apply Touch.ite
    | with_reducible refine Touch.foldl _ ?_ (fun v a hv => ?_)
    | with_reducible apply State.sendMsg_touch
    | split
    | intro _ _ _
    | intro _ _
    | fail_if_no_progress (with_reducible refine Touch.upd ?_)
    | with_reducible apply_assumption


theorem State.hopLockResult_keep {a1 a2 a3} (h : Keep s u) : Keep s (State.hopLockResult u a1 a2 a3) := by
  unfold State.hopLockResult
  have x := @id True
  repeat' first
    | with_reducible assumption
    | exact fun _ _ => trivial
    | exact fun _ => trivial
    | exact trivial
    | (extract_lets +onlyGivenNames x; (fail_if_success have y : True → True := x); (first | (refine (fun (hx : Keep s x) => ?_) ?_; rotate_left; (try unfold x); rotate_left) | (refine (fun (hx : Keep s x.2) => ?_) ?_; rotate_left; (try unfold x); rotate_left) | (refine (fun (hx : Keep s x.2.2) => ?_) ?_; rotate_left; (try unfold x); rotate_left) | (refine (fun (hx : KeepOpt s x) => ?_) ?_; rotate_left; (try unfold x); rotate_left) | (refine (fun (hx : ∀ v : State, Keep s v → Keep s (x v)) => ?_) ?_; rotate_left; (try unfold x); (try intro v hv); rotate_left) | (have y : Mem := x) | (have y : ProtSt := x) | (have y : PoolSt := x) | (have y : PairSt := x) | (have y : HostSt := x) | (have y : TestSt := x) | (have y : Tab Cell := x) | (have y : Tab Word := x) | (try clear_value x)); all_goals have x := @id True)
    | with_reducible apply Touch.ite
    | with_reducible refine Touch.foldl _ ?_ (fun v a hv => ?_)
    | with_reducible apply State.hopUnlock_keep
    | with_reducible apply State.setHops_touch
    | with_reducible apply State.nextHop_keep
    | with_reducible apply State.sendMsg_touch
    | with_reducible apply State.hopLock_keep
    | split
    | intro _ _ _
    | intro _ _
    | fail_if_no_progress (with_reducible refine Touch.upd ?_)
    | with_reducible apply_assumption


theorem State.hopAcked_keep {a1 a2 a3} (h : Keep s u) : Keep s (State.hopAcked u a1 a2 a3) := by
  unfold State.hopAcked
  have x := @id True
  repeat' first
    | with_reducible assumption
    | exact fun _ _ => trivial
    | exact fun _ => trivial
    | exact trivial
    | (extract_lets +onlyGivenNames x; (fail_if_success have y : True → True := x); (first | (refine (fun (hx : Keep s x) => ?_) ?_; rotate_left; (try unfold x); rotate_left) | (refine (fun (hx : Keep s x.2) => ?_) ?_; rotate_left; (try unfold x); rotate_left) | (refine (fun (hx : Keep s x.2.2) => ?_) ?_; rotate_left; (try unfold x); rotate_left) | (refine (fun (hx : KeepOpt s x) => ?_) ?_; rotate_left; (try unfold x); rotate_left) | (refine (fun (hx : ∀ v : State, Keep s v → Keep s (x v)) => ?_) ?_; rotate_left; (try unfold x); (try intro v hv); rotate_left) | (have y : Mem := x) | (have y : ProtSt := x) | (have y : PoolSt := x) | (have y : PairSt := x) | (have y : HostSt := x) | (have y : TestSt := x) | (have y : Tab Cell := x) | (have y : Tab Word := x) | (try clear_value x)); all_goals have x := @id True)
    | with_reducible apply Touch.ite
    | with_reducible refine Touch.foldl _ ?_ (fun v a hv => ?_)
    | with_reducible apply State.setHops_touch
    | with_reducible apply State.complete_touch
    | split
    | intro _ _ _
    | intro _ _
    | fail_if_no_progress (with_reducible refine Touch.upd ?_)
    | with_reducible apply_assumption


theorem State.hopCleared_keep {a1 a2} (h : Keep s u) : Keep s (State.hopCleared u a1 a2) := by
  unfold State.hopCleared
  have x := @id True
  repeat' first
    | with_reducible assumption
    | exact fun _ _ => trivial
    | exact fun _ => trivial
    | exact trivial
    | (extract_lets +onlyGivenNames x; (fail_if_success have y : True → True := x); (first | (refine (fun (hx : Keep s x) => ?_) ?_; rotate_left; (try unfold x); rotate_left) | (refine (fun (hx : Keep s x.2) => ?_) ?_; rotate_left; (try unfold x); rotate_left) | (refine (fun (hx : Keep s x.2.2) => ?_) ?_; rotate_left; (try unfold x); rotate_left) | (refine (fun (hx : KeepOpt s x) => ?_) ?_; rotate_left; (try unfold x); rotate_left) | (refine (fun (hx : ∀ v : State, Keep s v → Keep s (x v)) => ?_) ?_; rotate_left; (try unfold x); (try intro v hv); rotate_left) | (have y : Mem := x) | (have y : ProtSt := x) | (have y : PoolSt := x) | (have y : PairSt := x) | (have y : HostSt := x) | (have y : TestSt := x) | (have y : Tab Cell := x) | (have y : Tab Word := x) | (try clear_value x)); all_goals have x := @id True)
    | with_reducible apply Touch.ite
    | with_reducible refine Touch.foldl _ ?_ (fun v a hv => ?_)
    | with_reducible apply State.setHops_touch
    | with_reducible apply State.hopUnlock_keep
    | split
    | intro _ _ _
    | intro _ _
    | fail_if_no_progress (with_reducible refine Touch.upd ?_)
    | with_reducible apply_assumption


theorem State.hopsRestart_keep {a1} (h : Keep s u) : Keep s (State.hopsRestart u a1) := by
  unfold State.hopsRestart
  have x := @id True
  repeat' first
    | with_reducible assumption
    | exact fun _ _ => trivial
    | exact fun _ => trivial
    | exact trivial
    | (extract_lets +onlyGivenNames x; (fail_if_success have y : True → True := x); (first | (refine (fun (hx : Keep s x) => ?_) ?_; rotate_left; (try unfold x); rotate_left) | (refine (fun (hx : Keep s x.2) => ?_) ?_; rotate_left; (try unfold x); rotate_left) | (refine (fun (hx : Keep s x.2.2) => ?_) ?_; rotate_left; (try unfold x); rotate_left) | (refine (fun (hx : KeepOpt s x) => ?_) ?_; rotate_left; (try unfold x); rotate_left) | (refine (fun (hx : ∀ v : State, Keep s v → Keep s (x v)) => ?_) ?_; rotate_left; (try unfold x); (try intro v hv); rotate_left) | (have y : Mem := x) | (have y : ProtSt := x) | (have y : PoolSt := x) | (have y : PairSt := x) | (have y : HostSt := x) | (have y : TestSt := x) | (have y : Tab Cell := x) | (have y : Tab Word := x) | (try clear_value x)); all_goals have x := @id True)
    | with_reducible apply Touch.ite
    | with_reducible refine Touch.foldl _ ?_ (fun v a hv => ?_)
    | with_reducible apply State.nextHop_keep
    | with_reducible apply State.setPort_touch
    | with_reducible apply State.setHops_touch
    | split
    | intro _ _ _
    | intro _ _
    | fail_if_no_progress (with_reducible refine Touch.upd ?_)
    | with_reducible apply_assumption


theorem State.setChan_keep {a1 a2 a3} (h : Keep s u) : Keep s (State.setChan u a1 a2 a3) := by
  unfold State.setChan
  have x := @id True
  repeat' first
    | with_reducible assumption
    | exact fun _ _ => trivial
    | exact fun _ => trivial
    | exact trivial
    | (extract_lets +onlyGivenNames x; (fail_if_success have y : True → True := x); (first | (refine (fun (hx : Keep s x) => ?_) ?_; rotate_left; (try unfold x); rotate_left) | (refine (fun (hx : Keep s x.2) => ?_) ?_; rotate_left; (try unfold x); rotate_left) | (refine (fun (hx : Keep s x.2.2) => ?_) ?_; rotate_left; (try unfold x); rotate_left) | (refine (fun (hx : KeepOpt s x) => ?_) ?_; rotate_left; (try unfold x); rotate_left) | (refine (fun (hx : ∀ v : State, Keep s v → Keep s (x v)) => ?_) ?_; rotate_left; (try unfold x); (try intro v hv); rotate_left) | (have y : Mem := x) | (have y : ProtSt := x) | (have y : PoolSt := x) | (have y : PairSt := x) | (have y : HostSt := x) | (have y : TestSt := x) | (have y : Tab Cell := x) | (have y : Tab Word := x) | (try clear_value x)); all_goals have x := @id True)
    | with_reducible apply Touch.ite
    | with_reducible refine Touch.foldl _ ?_ (fun v a hv => ?_)
    | with_reducible apply State.setPort_touch
    | split
    | intro _ _ _
    | intro _ _
    | fail_if_no_progress (with_reducible refine Touch.upd ?_)
    | with_reducible apply_assumption


theorem State.sendLinkCtl_keep {a1 a2 a3} (h : Keep s u) : Keep s (State.sendLinkCtl u a1 a2 a3) := by
  unfold State.sendLinkCtl
  have x := @id True
  repeat' first
    | with_reducible assumption
    | exact fun _ _ => trivial
    | exact fun _ => trivial
    | exact trivial
    | (extract_lets +onlyGivenNames x; (fail_if_success have y : True → True := x); (first | (refine (fun (hx : Keep s x) => ?_) ?_; rotate_left; (try unfold x); rotate_left) | (refine (fun (hx : Keep s x.2) => ?_) ?_; rotate_left; (try unfold x); rotate_left) | (refine (fun (hx : Keep s x.2.2) => ?_) ?_; rotate_left; (try unfold x); rotate_left) | (refine (fun (hx : KeepOpt s x) => ?_) ?_; rotate_left; (try unfold x); rotate_left) | (refine (fun (hx : ∀ v : State, Keep s v → Keep s (x v)) => ?_) ?_; rotate_left; (try unfold x); (try intro v hv); rotate_left) | (have y : Mem := x) | (have y : ProtSt := x) | (have y : PoolSt := x) | (have y : PairSt := x) | (have y : HostSt := x) | (have y : TestSt := x) | (have y : Tab Cell := x) | (have y : Tab Word := x) | (try clear_value x)); all_goals have x := @id True)
    | with_reducible apply Touch.ite
    | with_reducible refine Touch.foldl _ ?_ (fun v a hv => ?_)
    | with_reducible apply State.drawn_touch
    | with_reducible apply State.emit_touch
    | split
    | intro _ _ _
    | intro _ _
    | fail_if_no_progress (with_reducible refine Touch.upd ?_)
    | with_reducible apply_assumption


theorem State.sendAck_keep {a1 a2} (h : Keep s u) : Keep s (State.sendAck u a1 a2) := by
  unfold State.sendAck
  have x := @id True
  repeat' first
    | with_reducible assumption
    | exact fun _ _ => trivial
    | exact fun _ => trivial
    | exact trivial
    | (extract_lets +onlyGivenNames x; (fail_if_success have y : True → True := x); (first | (refine (fun (hx : Keep s x) => ?_) ?_; rotate_left; (try unfold x); rotate_left) | (refine (fun (hx : Keep s x.2) => ?_) ?_; rotate_left; (try unfold x); rotate_left) | (refine (fun (hx : Keep s x.2.2) => ?_) ?_; rotate_left; (try unfold x); rotate_left) | (refine (fun (hx : KeepOpt s x) => ?_) ?_; rotate_left; (try unfold x); rotate_left) | (refine (fun (hx : ∀ v : State, Keep s v → Keep s (x v)) => ?_) ?_; rotate_left; (try unfold x); (try intro v hv); rotate_left) | (have y : Mem := x) | (have y : ProtSt := x) | (have y : PoolSt := x) | (have y : PairSt := x) | (have y : HostSt := x) | (have y : TestSt := x) | (have y : Tab Cell := x) | (have y : Tab Word := x) | (try clear_value x)); all_goals have x := @id True)
    | with_reducible apply Touch.ite
    | with_reducible refine Touch.foldl _ ?_ (fun v a hv => ?_)
    | with_reducible apply State.sendLinkCtl_keep
    | split
    | intro _ _ _
    | intro _ _
    | fail_if_no_progress (with_reducible refine Touch.upd ?_)
    | with_reducible apply_assumption


theorem State.freeCredit_keep {a1 a2 a3} (h : Keep s u) : Keep s (State.freeCredit u a1 a2 a3) := by
  unfold State.freeCredit
  have x := @id True
  repeat' first
    | with_reducible assumption
    | exact fun _ _ => trivial
    | exact fun _ => trivial
    | exact trivial
    | (extract_lets +onlyGivenNames x; (fail_if_success have y : True → True := x); (first | (refine (fun (hx : Keep s x) => ?_) ?_; rotate_left; (try unfold x); rotate_left) | (refine (fun (hx : Keep s x.2) => ?_) ?_; rotate_left; (try unfold x); rotate_left) | (refine (fun (hx : Keep s x.2.2) => ?_) ?_; rotate_left; (try unfold x); rotate_left) | (refine (fun (hx : KeepOpt s x) => ?_) ?_; rotate_left; (try unfold x); rotate_left) | (refine (fun (hx : ∀ v : State, Keep s v → Keep s (x v)) => ?_) ?_; rotate_left; (try unfold x); (try intro v hv); rotate_left) | (have y : Mem := x) | (have y : ProtSt := x) | (have y : PoolSt := x) | (have y : PairSt := x) | (have y : HostSt := x) | (have y : TestSt := x) | (have y : Tab Cell := x) | (have y : Tab Word := x) | (try clear_value x)); all_goals have x := @id True)
    | with_reducible apply Touch.ite
    | with_reducible refine Touch.foldl _ ?_ (fun v a hv => ?_)
    | with_reducible apply State.sendAck_keep
    | with_reducible apply State.setChan_keep
    | split
    | intro _ _ _
    | intro _ _
    | fail_if_no_progress (with_reducible refine Touch.upd ?_)
    | with_reducible apply_assumption


theorem State.seek_keep {a1} (h : Keep s u) : Keep s (State.seek u a1) := by
  unfold State.seek
  have x := @id True
  repeat' first
    | with_reducible assumption
    | exact fun _ _ => trivial
    | exact fun _ => trivial
    | exact trivial
    | (extract_lets +onlyGivenNames x; (fail_if_success have y : True → True := x); (first | (refine (fun (hx : Keep s x) => ?_) ?_; rotate_left; (try unfold x); rotate_left) | (refine (fun (hx : Keep s x.2) => ?_) ?_; rotate_left; (try unfold x); rotate_left) | (refine (fun (hx : Keep s x.2.2) => ?_) ?_; rotate_left; (try unfold x); rotate_left) | (refine (fun (hx : KeepOpt s x) => ?_) ?_; rotate_left; (try unfold x); rotate_left) | (refine (fun (hx : ∀ v : State, Keep s v → Keep s (x v)) => ?_) ?_; rotate_left; (try unfold x); (try intro v hv); rotate_left) | (have y : Mem := x) | (have y : ProtSt := x) | (have y : PoolSt := x) | (have y : PairSt := x) | (have y : HostSt := x) | (have y : TestSt := x) | (have y : Tab Cell := x) | (have y : Tab Word := x) | (try clear_value x)); all_goals have x := @id True)
    | with_reducible apply Touch.ite
    | with_reducible refine Touch.foldl _ ?_ (fun v a hv => ?_)
    | with_reducible apply State.setPort_touch
    | with_reducible apply State.setF_touch
    | with_reducible apply State.emit_touch
    | split
    | intro _ _ _
    | intro _ _
    | fail_if_no_progress (with_reducible refine Touch.upd ?_)
    | with_reducible apply_assumption


theorem State.startTraining_keep {a1} (h : Keep s u) : Keep s (State.startTraining u a1) := by
  unfold State.startTraining
  have x := @id True
  repeat' first
    | with_reducible assumption
    | exact fun _ _ => trivial
    | exact fun _ => trivial
    | exact trivial
    | (extract_lets +onlyGivenNames x; (fail_if_success have y : True → True := x); (first | (refine (fun (hx : Keep s x) => ?_) ?_; rotate_left; (try unfold x); rotate_left) | (refine (fun (hx : Keep s x.2) => ?_) ?_; rotate_left; (try unfold x); rotate_left) | (refine (fun (hx : Keep s x.2.2) => ?_) ?_; rotate_left; (try unfold x); rotate_left) | (refine (fun (hx : KeepOpt s x) => ?_) ?_; rotate_left; (try unfold x); rotate_left) | (refine (fun (hx : ∀ v : State, Keep s v → Keep s (x v)) => ?_) ?_; rotate_left; (try unfold x); (try intro v hv); rotate_left) | (have y : Mem := x) | (have y : ProtSt := x) | (have y : PoolSt := x) | (have y : PairSt := x) | (have y : HostSt := x) | (have y : TestSt := x) | (have y : Tab Cell := x) | (have y : Tab Word := x) | (try clear_value x)); all_goals have x := @id True)
    | with_reducible apply Touch.ite
    | with_reducible refine Touch.foldl _ ?_ (fun v a hv => ?_)
    | with_reducible apply State.seek_keep
    | with_reducible apply State.setF_touch
    | split
    | intro _ _ _
    | intro _ _
    | fail_if_no_progress (with_reducible refine Touch.upd ?_)
    | with_reducible apply_assumption


theorem State.bootReads_keep (h : Keep s u) : Keep s u.bootReads.2 := by
  unfold State.bootReads
  extract_lets p q
  have hp : Keep s p.2 := Touch.foldl2 _ h fun _ _ h => State.readCw_touch h fun _ _ => trivial
  have hq : Keep s q.2 := Touch.foldl2 _ hp fun _ _ h => State.readCw_touch h fun _ _ => trivial
  exact hq.upd


theorem State.ramWrite_keep {f} (h : Keep s u) : Keep s (State.ramWrite u f) :=
  State.setMem_touch h trivial fun hv => (Mem.wf_iff _).2 ⟨Tab.filter_wf _ _ _ ((Mem.wf_iff _).1 hv).1, ((Mem.wf_iff _).1 hv).2⟩


theorem State.ramRewritten_keep (h : Keep s u) : Keep s (State.ramRewritten u) := by
  unfold State.ramRewritten
  have x := @id True
  repeat' first
    | with_reducible assumption
    | exact fun _ _ => trivial
    | exact fun _ => trivial
    | exact trivial
    | (extract_lets +onlyGivenNames x; (fail_if_success have y : True → True := x); (first | (refine (fun (hx : Keep s x) => ?_) ?_; rotate_left; (try unfold x); rotate_left) | (refine (fun (hx : Keep s x.2) => ?_) ?_; rotate_left; (try unfold x); rotate_left) | (refine (fun (hx : Keep s x.2.2) => ?_) ?_; rotate_left; (try unfold x); rotate_left) | (refine (fun (hx : KeepOpt s x) => ?_) ?_; rotate_left; (try unfold x); rotate_left) | (refine (fun (hx : ∀ v : State, Keep s v → Keep s (x v)) => ?_) ?_; rotate_left; (try unfold x); (try intro v hv); rotate_left) | (have y : Mem := x) | (have y : ProtSt := x) | (have y : PoolSt := x) | (have y : PairSt := x) | (have y : HostSt := x) | (have y : TestSt := x) | (have y : Tab Cell := x) | (have y : Tab Word := x) | (try clear_value x)); all_goals have x := @id True)
    | with_reducible apply Touch.ite
    | with_reducible refine Touch.foldl _ ?_ (fun v a hv => ?_)
    | with_reducible apply State.ramWrite_keep
    | split
    | intro _ _ _
    | intro _ _
    | fail_if_no_progress (with_reducible refine Touch.upd ?_)
    | with_reducible apply_assumption


theorem six_wf (a b c d e f : Mem) : Tab.wf ({} : Mem)
    ([(0, a), (1, b), (2, c), (3, d), (4, e), (5, f)].filter fun e => e.2 ≠ ({} : Mem)) = true := by
  simp only [List.filter_cons, List.filter_nil]
  split_ifs <;> simp_all [Tab.wf]

theorem memsAnew_wf (n : Nat) (k : Nat → Mem) : Tab.wf ({} : Mem) (memsAnew n k) = true := by
  simp only [memsAnew, show List.range 6 = [0, 1, 2, 3, 4, 5] from rfl, List.map_cons, List.map_nil]
  exact six_wf _ _ _ _ _ _

theorem memsAnew_mem {n : Nat} {k : Nat → Mem} (h : ∀ m, (k m).wf = true) (e : Nat × Mem) (he : e ∈ memsAnew n k) :
    e.2.wf = true := by
  obtain ⟨m, _, rfl⟩ := List.mem_map.1 (List.mem_filter.1 he).1
  exact h m

theorem State.powerOnReset_keep (h : Keep s u) : Keep s u.powerOnReset :=
  h.trans ⟨rfl, List.suffix_refl _, Nat.le_refl _, Nat.le_succ _, fun i =>
    { regs := rfl, cfg := rfl, hostMem := i.hostMem, tri := rfl, bar0 := rfl, mems := memsAnew_wf u.ticks fun _ => {},
      mem := memsAnew_mem (n := u.ticks) (k := fun _ => {}) fun _ => rfl, regions := rfl,
      cells := rfl, blocks := rfl, ports := rfl, pages := Nat.zero_le _, banks := Nat.zero_le _, sigs := Nat.zero_le _, closed := Nat.zero_le _,
      ir := rfl }, fun _ => .inl trivial⟩


theorem State.retake_keep (h : Keep s u) : Keep s (State.retake u) := by
  unfold State.retake
  have x := @id True
  repeat' first
    | with_reducible assumption
    | exact fun _ _ => trivial
    | exact fun _ => trivial
    | exact trivial
    | (extract_lets +onlyGivenNames x; (fail_if_success have y : True → True := x); (first | (refine (fun (hx : Keep s x) => ?_) ?_; rotate_left; (try unfold x); rotate_left) | (refine (fun (hx : Keep s x.2) => ?_) ?_; rotate_left; (try unfold x); rotate_left) | (refine (fun (hx : Keep s x.2.2) => ?_) ?_; rotate_left; (try unfold x); rotate_left) | (refine (fun (hx : KeepOpt s x) => ?_) ?_; rotate_left; (try unfold x); rotate_left) | (refine (fun (hx : ∀ v : State, Keep s v → Keep s (x v)) => ?_) ?_; rotate_left; (try unfold x); (try intro v hv); rotate_left) | (have y : Mem := x) | (have y : ProtSt := x) | (have y : PoolSt := x) | (have y : PairSt := x) | (have y : HostSt := x) | (have y : TestSt := x) | (have y : Tab Cell := x) | (have y : Tab Word := x) | (try clear_value x)); all_goals have x := @id True)
    | with_reducible apply Touch.ite
    | with_reducible refine Touch.foldl _ ?_ (fun v a hv => ?_)
    | split
    | intro _ _ _
    | intro _ _
    | fail_if_no_progress (with_reducible refine Touch.upd ?_)
    | with_reducible apply_assumption


theorem State.answerOwed_keep (h : Keep s u) : Keep s (State.answerOwed u) := by
  unfold State.answerOwed
  have x := @id True
  repeat' first
    | with_reducible assumption
    | exact fun _ _ => trivial
    | exact fun _ => trivial
    | exact trivial
    | (extract_lets +onlyGivenNames x; (fail_if_success have y : True → True := x); (first | (refine (fun (hx : Keep s x) => ?_) ?_; rotate_left; (try unfold x); rotate_left) | (refine (fun (hx : Keep s x.2) => ?_) ?_; rotate_left; (try unfold x); rotate_left) | (refine (fun (hx : Keep s x.2.2) => ?_) ?_; rotate_left; (try unfold x); rotate_left) | (refine (fun (hx : KeepOpt s x) => ?_) ?_; rotate_left; (try unfold x); rotate_left) | (refine (fun (hx : ∀ v : State, Keep s v → Keep s (x v)) => ?_) ?_; rotate_left; (try unfold x); (try intro v hv); rotate_left) | (have y : Mem := x) | (have y : ProtSt := x) | (have y : PoolSt := x) | (have y : PairSt := x) | (have y : HostSt := x) | (have y : TestSt := x) | (have y : Tab Cell := x) | (have y : Tab Word := x) | (try clear_value x)); all_goals have x := @id True)
    | with_reducible apply Touch.ite
    | with_reducible refine Touch.foldl _ ?_ (fun v a hv => ?_)
    | with_reducible apply State.replyTo_touch
    | split
    | intro _ _ _
    | intro _ _
    | fail_if_no_progress (with_reducible refine Touch.upd ?_)
    | with_reducible apply_assumption


theorem Mem.restart_wf (v : Mem) (f : Nat → Bool) (h : v.wf = true) : (v.restart f).wf = true :=
  (Mem.wf_iff _).2 ⟨Tab.filter_wf _ _ _ ((Mem.wf_iff _).1 h).1, Nat.le_trans (List.length_filter_le _ _) ((Mem.wf_iff _).1 h).2⟩

theorem State.loseConfig_keep {a1 a2 a3} (h : Keep s u) : Keep s (State.loseConfig u a1 a2 a3) := by
  unfold State.loseConfig
  extract_lets straps src src2 src3 src4 t0 t1 t2
  have h0 : Keep s t0 := h.trans ⟨rfl, List.suffix_refl _, Nat.le_refl _, Nat.le_refl _, fun i =>
    { regs := Tab.filter_wf _ _ _ i.regs, cfg := rfl, hostMem := i.hostMem, tri := Tab.filter_wf _ _ _ i.tri,
      bar0 := Tab.filter_wf _ _ _ i.bar0
      mems := memsAnew_wf u.ticks fun m => if m = 0 ∨ m = 4 then (u.mem m).restart fun _ => true
        else if m = 3 then (u.mem 3).restart Config.patchArea else if m = 5 then (u.mem 5).restart isRetireWord else {}
      mem := memsAnew_mem (n := u.ticks) (k := fun m => if m = 0 ∨ m = 4 then (u.mem m).restart fun _ => true
        else if m = 3 then (u.mem 3).restart Config.patchArea else if m = 5 then (u.mem 5).restart isRetireWord else {}) fun m => by
        split
        · exact Mem.restart_wf _ _ (i.mem_wf m)
        split
        · exact Mem.restart_wf _ _ (i.mem_wf 3)
        split
        · exact Mem.restart_wf _ _ (i.mem_wf 5)
        · rfl
      regions := rfl, cells := rfl, blocks := rfl, ports := rfl, pages := i.pages, banks := i.banks, sigs := Nat.zero_le _,
      closed := Nat.zero_le _, ir := i.ir }, fun _ => .inl trivial⟩
  have h1 : Keep s t1 := State.setF_touch h0 trivial
  have h2 : Keep s t2 := Touch.ite (State.setF_touch (State.setF_touch (State.setF_touch (State.setTri_touch h1 trivial) trivial)
    trivial) trivial) h1
  exact State.retake_keep h2


theorem State.warmReset_keep (h : Keep s u) : Keep s (State.warmReset u) := by
  unfold State.warmReset
  have x := @id True
  repeat' first
    | with_reducible assumption
    | exact fun _ _ => trivial
    | exact fun _ => trivial
    | exact trivial
    | (extract_lets +onlyGivenNames x; (fail_if_success have y : True → True := x); (first | (refine (fun (hx : Keep s x) => ?_) ?_; rotate_left; (try unfold x); rotate_left) | (refine (fun (hx : Keep s x.2) => ?_) ?_; rotate_left; (try unfold x); rotate_left) | (refine (fun (hx : Keep s x.2.2) => ?_) ?_; rotate_left; (try unfold x); rotate_left) | (refine (fun (hx : KeepOpt s x) => ?_) ?_; rotate_left; (try unfold x); rotate_left) | (refine (fun (hx : ∀ v : State, Keep s v → Keep s (x v)) => ?_) ?_; rotate_left; (try unfold x); (try intro v hv); rotate_left) | (have y : Mem := x) | (have y : ProtSt := x) | (have y : PoolSt := x) | (have y : PairSt := x) | (have y : HostSt := x) | (have y : TestSt := x) | (have y : Tab Cell := x) | (have y : Tab Word := x) | (try clear_value x)); all_goals have x := @id True)
    | with_reducible apply Touch.ite
    | with_reducible refine Touch.foldl _ ?_ (fun v a hv => ?_)
    | with_reducible apply State.loseConfig_keep
    | split
    | intro _ _ _
    | intro _ _
    | fail_if_no_progress (with_reducible refine Touch.upd ?_)
    | with_reducible apply_assumption


theorem State.bootNotice_keep (h : Keep s u) : Keep s (State.bootNotice u) := by
  unfold State.bootNotice
  have x := @id True
  repeat' first
    | with_reducible assumption
    | exact fun _ _ => trivial
    | exact fun _ => trivial
    | exact trivial
    | (extract_lets +onlyGivenNames x; (fail_if_success have y : True → True := x); (first | (refine (fun (hx : Keep s x) => ?_) ?_; rotate_left; (try unfold x); rotate_left) | (refine (fun (hx : Keep s x.2) => ?_) ?_; rotate_left; (try unfold x); rotate_left) | (refine (fun (hx : Keep s x.2.2) => ?_) ?_; rotate_left; (try unfold x); rotate_left) | (refine (fun (hx : KeepOpt s x) => ?_) ?_; rotate_left; (try unfold x); rotate_left) | (refine (fun (hx : ∀ v : State, Keep s v → Keep s (x v)) => ?_) ?_; rotate_left; (try unfold x); (try intro v hv); rotate_left) | (have y : Mem := x) | (have y : ProtSt := x) | (have y : PoolSt := x) | (have y : PairSt := x) | (have y : HostSt := x) | (have y : TestSt := x) | (have y : Tab Cell := x) | (have y : Tab Word := x) | (try clear_value x)); all_goals have x := @id True)
    | with_reducible apply Touch.ite
    | with_reducible refine Touch.foldl _ ?_ (fun v a hv => ?_)
    | with_reducible apply State.noticeRaw_touch
    | split
    | intro _ _ _
    | intro _ _
    | fail_if_no_progress (with_reducible refine Touch.upd ?_)
    | with_reducible apply_assumption


theorem State.enterLinkup_keep (h : Keep s u) : Keep s (State.enterLinkup u) := by
  unfold State.enterLinkup
  have x := @id True
  repeat' first
    | with_reducible assumption
    | exact fun _ _ => trivial
    | exact fun _ => trivial
    | exact trivial
    | (extract_lets +onlyGivenNames x; (fail_if_success have y : True → True := x); (first | (refine (fun (hx : Keep s x) => ?_) ?_; rotate_left; (try unfold x); rotate_left) | (refine (fun (hx : Keep s x.2) => ?_) ?_; rotate_left; (try unfold x); rotate_left) | (refine (fun (hx : Keep s x.2.2) => ?_) ?_; rotate_left; (try unfold x); rotate_left) | (refine (fun (hx : KeepOpt s x) => ?_) ?_; rotate_left; (try unfold x); rotate_left) | (refine (fun (hx : ∀ v : State, Keep s v → Keep s (x v)) => ?_) ?_; rotate_left; (try unfold x); (try intro v hv); rotate_left) | (have y : Mem := x) | (have y : ProtSt := x) | (have y : PoolSt := x) | (have y : PairSt := x) | (have y : HostSt := x) | (have y : TestSt := x) | (have y : Tab Cell := x) | (have y : Tab Word := x) | (try clear_value x)); all_goals have x := @id True)
    | with_reducible apply Touch.ite
    | with_reducible refine Touch.foldl _ ?_ (fun v a hv => ?_)
    | with_reducible apply State.noticeRaw_touch
    | with_reducible apply State.bootNotice_keep
    | with_reducible apply State.msix_touch
    | with_reducible apply State.startTraining_keep
    | split
    | intro _ _ _
    | intro _ _
    | fail_if_no_progress (with_reducible refine Touch.upd ?_)
    | with_reducible apply_assumption


theorem State.stopBlock_keep {a1} (h : Keep s u) : Keep s (State.stopBlock u a1) := by
  unfold State.stopBlock
  have x := @id True
  repeat' first
    | with_reducible assumption
    | exact fun _ _ => trivial
    | exact fun _ => trivial
    | exact trivial
    | (extract_lets +onlyGivenNames x; (fail_if_success have y : True → True := x); (first | (refine (fun (hx : Keep s x) => ?_) ?_; rotate_left; (try unfold x); rotate_left) | (refine (fun (hx : Keep s x.2) => ?_) ?_; rotate_left; (try unfold x); rotate_left) | (refine (fun (hx : Keep s x.2.2) => ?_) ?_; rotate_left; (try unfold x); rotate_left) | (refine (fun (hx : KeepOpt s x) => ?_) ?_; rotate_left; (try unfold x); rotate_left) | (refine (fun (hx : ∀ v : State, Keep s v → Keep s (x v)) => ?_) ?_; rotate_left; (try unfold x); (try intro v hv); rotate_left) | (have y : Mem := x) | (have y : ProtSt := x) | (have y : PoolSt := x) | (have y : PairSt := x) | (have y : HostSt := x) | (have y : TestSt := x) | (have y : Tab Cell := x) | (have y : Tab Word := x) | (try clear_value x)); all_goals have x := @id True)
    | with_reducible apply Touch.ite
    | with_reducible refine Touch.foldl _ ?_ (fun v a hv => ?_)
    | with_reducible apply State.stopSamplers_keep
    | with_reducible apply State.setF_touch
    | split
    | intro _ _ _
    | intro _ _
    | fail_if_no_progress (with_reducible refine Touch.upd ?_)
    | with_reducible apply_assumption


theorem State.applyStop_keep (h : Keep s u) : Keep s (State.applyStop u) := by
  unfold State.applyStop
  have x := @id True
  repeat' first
    | with_reducible assumption
    | exact fun _ _ => trivial
    | exact fun _ => trivial
    | exact trivial
    | (extract_lets +onlyGivenNames x; (fail_if_success have y : True → True := x); (first | (refine (fun (hx : Keep s x) => ?_) ?_; rotate_left; (try unfold x); rotate_left) | (refine (fun (hx : Keep s x.2) => ?_) ?_; rotate_left; (try unfold x); rotate_left) | (refine (fun (hx : Keep s x.2.2) => ?_) ?_; rotate_left; (try unfold x); rotate_left) | (refine (fun (hx : KeepOpt s x) => ?_) ?_; rotate_left; (try unfold x); rotate_left) | (refine (fun (hx : ∀ v : State, Keep s v → Keep s (x v)) => ?_) ?_; rotate_left; (try unfold x); (try intro v hv); rotate_left) | (have y : Mem := x) | (have y : ProtSt := x) | (have y : PoolSt := x) | (have y : PairSt := x) | (have y : HostSt := x) | (have y : TestSt := x) | (have y : Tab Cell := x) | (have y : Tab Word := x) | (try clear_value x)); all_goals have x := @id True)
    | with_reducible apply Touch.ite
    | with_reducible refine Touch.foldl _ ?_ (fun v a hv => ?_)
    | with_reducible apply State.setF_touch
    | with_reducible apply State.newFrag_keep
    | with_reducible apply State.stopBlock_keep
    | split
    | intro _ _ _
    | intro _ _
    | fail_if_no_progress (with_reducible refine Touch.upd ?_)
    | with_reducible apply_assumption


theorem State.dmaRestart_keep {a1} (h : Keep s u) : Keep s (State.dmaRestart u a1) := by
  unfold State.dmaRestart
  have x := @id True
  repeat' first
    | with_reducible assumption
    | exact fun _ _ => trivial
    | exact fun _ => trivial
    | exact trivial
    | (extract_lets +onlyGivenNames x; (fail_if_success have y : True → True := x); (first | (refine (fun (hx : Keep s x) => ?_) ?_; rotate_left; (try unfold x); rotate_left) | (refine (fun (hx : Keep s x.2) => ?_) ?_; rotate_left; (try unfold x); rotate_left) | (refine (fun (hx : Keep s x.2.2) => ?_) ?_; rotate_left; (try unfold x); rotate_left) | (refine (fun (hx : KeepOpt s x) => ?_) ?_; rotate_left; (try unfold x); rotate_left) | (refine (fun (hx : ∀ v : State, Keep s v → Keep s (x v)) => ?_) ?_; rotate_left; (try unfold x); (try intro v hv); rotate_left) | (have y : Mem := x) | (have y : ProtSt := x) | (have y : PoolSt := x) | (have y : PairSt := x) | (have y : HostSt := x) | (have y : TestSt := x) | (have y : Tab Cell := x) | (have y : Tab Word := x) | (try clear_value x)); all_goals have x := @id True)
    | with_reducible apply Touch.ite
    | with_reducible refine Touch.foldl _ ?_ (fun v a hv => ?_)
    | split
    | intro _ _ _
    | intro _ _
    | fail_if_no_progress (with_reducible refine Touch.upd ?_)
    | with_reducible apply_assumption


theorem State.functionReset_keep (h : Keep s u) : Keep s u.functionReset := by
  unfold State.functionReset
  extract_lets src v w
  have hv : Keep s v := h.trans ⟨rfl, List.suffix_refl _, Nat.le_refl _, Nat.le_refl _,
    fun i => { i with bar0 := Tab.filter_wf _ _ _ i.bar0 }, fun _ => .inl trivial⟩
  have hw : Keep s w := Touch.foldl _ hv fun _ _ h => State.setWord_touch h trivial
  exact State.dmaRestart_keep (State.setF_touch (State.setF_touch hw trivial) trivial)


theorem State.msixFlushAll_keep (h : Keep s u) : Keep s (State.msixFlushAll u) := by
  unfold State.msixFlushAll
  have x := @id True
  repeat' first
    | with_reducible assumption
    | exact fun _ _ => trivial
    | exact fun _ => trivial
    | exact trivial
    | (extract_lets +onlyGivenNames x; (fail_if_success have y : True → True := x); (first | (refine (fun (hx : Keep s x) => ?_) ?_; rotate_left; (try unfold x); rotate_left) | (refine (fun (hx : Keep s x.2) => ?_) ?_; rotate_left; (try unfold x); rotate_left) | (refine (fun (hx : Keep s x.2.2) => ?_) ?_; rotate_left; (try unfold x); rotate_left) | (refine (fun (hx : KeepOpt s x) => ?_) ?_; rotate_left; (try unfold x); rotate_left) | (refine (fun (hx : ∀ v : State, Keep s v → Keep s (x v)) => ?_) ?_; rotate_left; (try unfold x); (try intro v hv); rotate_left) | (have y : Mem := x) | (have y : ProtSt := x) | (have y : PoolSt := x) | (have y : PairSt := x) | (have y : HostSt := x) | (have y : TestSt := x) | (have y : Tab Cell := x) | (have y : Tab Word := x) | (try clear_value x)); all_goals have x := @id True)
    | with_reducible apply Touch.ite
    | with_reducible refine Touch.foldl _ ?_ (fun v a hv => ?_)
    | with_reducible apply State.msixFlush_touch
    | split
    | intro _ _ _
    | intro _ _
    | fail_if_no_progress (with_reducible refine Touch.upd ?_)
    | with_reducible apply_assumption


theorem State.publishBound_keep {a1} (h : Keep s u) : Keep s (State.publishBound u a1) := by
  unfold State.publishBound
  have x := @id True
  repeat' first
    | with_reducible assumption
    | exact fun _ _ => trivial
    | exact fun _ => trivial
    | exact trivial
    | (extract_lets +onlyGivenNames x; (fail_if_success have y : True → True := x); (first | (refine (fun (hx : Keep s x) => ?_) ?_; rotate_left; (try unfold x); rotate_left) | (refine (fun (hx : Keep s x.2) => ?_) ?_; rotate_left; (try unfold x); rotate_left) | (refine (fun (hx : Keep s x.2.2) => ?_) ?_; rotate_left; (try unfold x); rotate_left) | (refine (fun (hx : KeepOpt s x) => ?_) ?_; rotate_left; (try unfold x); rotate_left) | (refine (fun (hx : ∀ v : State, Keep s v → Keep s (x v)) => ?_) ?_; rotate_left; (try unfold x); (try intro v hv); rotate_left) | (have y : Mem := x) | (have y : ProtSt := x) | (have y : PoolSt := x) | (have y : PairSt := x) | (have y : HostSt := x) | (have y : TestSt := x) | (have y : Tab Cell := x) | (have y : Tab Word := x) | (try clear_value x)); all_goals have x := @id True)
    | with_reducible apply Touch.ite
    | with_reducible refine Touch.foldl _ ?_ (fun v a hv => ?_)
    | with_reducible apply State.drawn_touch
    | with_reducible apply State.setF_touch
    | split
    | intro _ _ _
    | intro _ _
    | fail_if_no_progress (with_reducible refine Touch.upd ?_)
    | with_reducible apply_assumption


theorem State.setTb_keep {a1 a2} (h : Keep s u) : Keep s (State.setTb u a1 a2) := by
  unfold State.setTb
  have x := @id True
  repeat' first
    | with_reducible assumption
    | exact fun _ _ => trivial
    | exact fun _ => trivial
    | exact trivial
    | (extract_lets +onlyGivenNames x; (fail_if_success have y : True → True := x); (first | (refine (fun (hx : Keep s x) => ?_) ?_; rotate_left; (try unfold x); rotate_left) | (refine (fun (hx : Keep s x.2) => ?_) ?_; rotate_left; (try unfold x); rotate_left) | (refine (fun (hx : Keep s x.2.2) => ?_) ?_; rotate_left; (try unfold x); rotate_left) | (refine (fun (hx : KeepOpt s x) => ?_) ?_; rotate_left; (try unfold x); rotate_left) | (refine (fun (hx : ∀ v : State, Keep s v → Keep s (x v)) => ?_) ?_; rotate_left; (try unfold x); (try intro v hv); rotate_left) | (have y : Mem := x) | (have y : ProtSt := x) | (have y : PoolSt := x) | (have y : PairSt := x) | (have y : HostSt := x) | (have y : TestSt := x) | (have y : Tab Cell := x) | (have y : Tab Word := x) | (try clear_value x)); all_goals have x := @id True)
    | with_reducible apply Touch.ite
    | with_reducible refine Touch.foldl _ ?_ (fun v a hv => ?_)
    | with_reducible apply State.setF_touch
    | split
    | intro _ _ _
    | intro _ _
    | fail_if_no_progress (with_reducible refine Touch.upd ?_)
    | with_reducible apply_assumption


theorem State.endHold_keep {a1 a2} (h : Keep s u) : Keep s (State.endHold u a1 a2) := by
  unfold State.endHold
  have x := @id True
  repeat' first
    | with_reducible assumption
    | exact fun _ _ => trivial
    | exact fun _ => trivial
    | exact trivial
    | (extract_lets +onlyGivenNames x; (fail_if_success have y : True → True := x); (first | (refine (fun (hx : Keep s x) => ?_) ?_; rotate_left; (try unfold x); rotate_left) | (refine (fun (hx : Keep s x.2) => ?_) ?_; rotate_left; (try unfold x); rotate_left) | (refine (fun (hx : Keep s x.2.2) => ?_) ?_; rotate_left; (try unfold x); rotate_left) | (refine (fun (hx : KeepOpt s x) => ?_) ?_; rotate_left; (try unfold x); rotate_left) | (refine (fun (hx : ∀ v : State, Keep s v → Keep s (x v)) => ?_) ?_; rotate_left; (try unfold x); (try intro v hv); rotate_left) | (have y : Mem := x) | (have y : ProtSt := x) | (have y : PoolSt := x) | (have y : PairSt := x) | (have y : HostSt := x) | (have y : TestSt := x) | (have y : Tab Cell := x) | (have y : Tab Word := x) | (try clear_value x)); all_goals have x := @id True)
    | with_reducible apply Touch.ite
    | with_reducible refine Touch.foldl _ ?_ (fun v a hv => ?_)
    | with_reducible apply State.setRegion_touch
    | split
    | intro _ _ _
    | intro _ _
    | fail_if_no_progress (with_reducible refine Touch.upd ?_)
    | with_reducible apply_assumption


theorem State.freezeTrim_keep {a1} (h : Keep s u) : Keep s (State.freezeTrim u a1) := by
  unfold State.freezeTrim
  have x := @id True
  repeat' first
    | with_reducible assumption
    | exact fun _ _ => trivial
    | exact fun _ => trivial
    | exact trivial
    | (extract_lets +onlyGivenNames x; (fail_if_success have y : True → True := x); (first | (refine (fun (hx : Keep s x) => ?_) ?_; rotate_left; (try unfold x); rotate_left) | (refine (fun (hx : Keep s x.2) => ?_) ?_; rotate_left; (try unfold x); rotate_left) | (refine (fun (hx : Keep s x.2.2) => ?_) ?_; rotate_left; (try unfold x); rotate_left) | (refine (fun (hx : KeepOpt s x) => ?_) ?_; rotate_left; (try unfold x); rotate_left) | (refine (fun (hx : ∀ v : State, Keep s v → Keep s (x v)) => ?_) ?_; rotate_left; (try unfold x); (try intro v hv); rotate_left) | (have y : Mem := x) | (have y : ProtSt := x) | (have y : PoolSt := x) | (have y : PairSt := x) | (have y : HostSt := x) | (have y : TestSt := x) | (have y : Tab Cell := x) | (have y : Tab Word := x) | (try clear_value x)); all_goals have x := @id True)
    | with_reducible apply Touch.ite
    | with_reducible refine Touch.foldl _ ?_ (fun v a hv => ?_)
    | with_reducible apply State.setPid_touch
    | split
    | intro _ _ _
    | intro _ _
    | fail_if_no_progress (with_reducible refine Touch.upd ?_)
    | with_reducible apply_assumption


theorem State.enterHoldover_keep {a1} (h : Keep s u) : Keep s (State.enterHoldover u a1) := by
  unfold State.enterHoldover
  have x := @id True
  repeat' first
    | with_reducible assumption
    | exact fun _ _ => trivial
    | exact fun _ => trivial
    | exact trivial
    | (extract_lets +onlyGivenNames x; (fail_if_success have y : True → True := x); (first | (refine (fun (hx : Keep s x) => ?_) ?_; rotate_left; (try unfold x); rotate_left) | (refine (fun (hx : Keep s x.2) => ?_) ?_; rotate_left; (try unfold x); rotate_left) | (refine (fun (hx : Keep s x.2.2) => ?_) ?_; rotate_left; (try unfold x); rotate_left) | (refine (fun (hx : KeepOpt s x) => ?_) ?_; rotate_left; (try unfold x); rotate_left) | (refine (fun (hx : ∀ v : State, Keep s v → Keep s (x v)) => ?_) ?_; rotate_left; (try unfold x); (try intro v hv); rotate_left) | (have y : Mem := x) | (have y : ProtSt := x) | (have y : PoolSt := x) | (have y : PairSt := x) | (have y : HostSt := x) | (have y : TestSt := x) | (have y : Tab Cell := x) | (have y : Tab Word := x) | (try clear_value x)); all_goals have x := @id True)
    | with_reducible apply Touch.ite
    | with_reducible refine Touch.foldl _ ?_ (fun v a hv => ?_)
    | with_reducible apply State.freezeTrim_keep
    | with_reducible apply State.tbNotice_touch
    | with_reducible apply State.setF_touch
    | with_reducible apply State.setFlag_touch
    | with_reducible apply State.setTb_keep
    | with_reducible apply State.setRegion_touch
    | split
    | intro _ _ _
    | intro _ _
    | fail_if_no_progress (with_reducible refine Touch.upd ?_)
    | with_reducible apply_assumption


theorem State.slewLost_keep {a1} (h : Keep s u) : Keep s (State.slewLost u a1) := by
  unfold State.slewLost
  have x := @id True
  repeat' first
    | with_reducible assumption
    | exact fun _ _ => trivial
    | exact fun _ => trivial
    | exact trivial
    | (extract_lets +onlyGivenNames x; (fail_if_success have y : True → True := x); (first | (refine (fun (hx : Keep s x) => ?_) ?_; rotate_left; (try unfold x); rotate_left) | (refine (fun (hx : Keep s x.2) => ?_) ?_; rotate_left; (try unfold x); rotate_left) | (refine (fun (hx : Keep s x.2.2) => ?_) ?_; rotate_left; (try unfold x); rotate_left) | (refine (fun (hx : KeepOpt s x) => ?_) ?_; rotate_left; (try unfold x); rotate_left) | (refine (fun (hx : ∀ v : State, Keep s v → Keep s (x v)) => ?_) ?_; rotate_left; (try unfold x); (try intro v hv); rotate_left) | (have y : Mem := x) | (have y : ProtSt := x) | (have y : PoolSt := x) | (have y : PairSt := x) | (have y : HostSt := x) | (have y : TestSt := x) | (have y : Tab Cell := x) | (have y : Tab Word := x) | (try clear_value x)); all_goals have x := @id True)
    | with_reducible apply Touch.ite
    | with_reducible refine Touch.foldl _ ?_ (fun v a hv => ?_)
    | with_reducible apply State.tbNotice_touch
    | with_reducible apply State.setTb_keep
    | with_reducible apply State.freezeTrim_keep
    | with_reducible apply State.setRegion_touch
    | split
    | intro _ _ _
    | intro _ _
    | fail_if_no_progress (with_reducible refine Touch.upd ?_)
    | with_reducible apply_assumption


theorem State.heldLost_keep {a1} (h : Keep s u) : Keep s (State.heldLost u a1) := by
  unfold State.heldLost
  have x := @id True
  repeat' first
    | with_reducible assumption
    | exact fun _ _ => trivial
    | exact fun _ => trivial
    | exact trivial
    | (extract_lets +onlyGivenNames x; (fail_if_success have y : True → True := x); (first | (refine (fun (hx : Keep s x) => ?_) ?_; rotate_left; (try unfold x); rotate_left) | (refine (fun (hx : Keep s x.2) => ?_) ?_; rotate_left; (try unfold x); rotate_left) | (refine (fun (hx : Keep s x.2.2) => ?_) ?_; rotate_left; (try unfold x); rotate_left) | (refine (fun (hx : KeepOpt s x) => ?_) ?_; rotate_left; (try unfold x); rotate_left) | (refine (fun (hx : ∀ v : State, Keep s v → Keep s (x v)) => ?_) ?_; rotate_left; (try unfold x); (try intro v hv); rotate_left) | (have y : Mem := x) | (have y : ProtSt := x) | (have y : PoolSt := x) | (have y : PairSt := x) | (have y : HostSt := x) | (have y : TestSt := x) | (have y : Tab Cell := x) | (have y : Tab Word := x) | (try clear_value x)); all_goals have x := @id True)
    | with_reducible apply Touch.ite
    | with_reducible refine Touch.foldl _ ?_ (fun v a hv => ?_)
    | with_reducible apply State.freezeTrim_keep
    | with_reducible apply State.setRegion_touch
    | split
    | intro _ _ _
    | intro _ _
    | fail_if_no_progress (with_reducible refine Touch.upd ?_)
    | with_reducible apply_assumption


theorem State.referenceLost_keep (h : Keep s u) : Keep s (State.referenceLost u) := by
  unfold State.referenceLost
  have x := @id True
  repeat' first
    | with_reducible assumption
    | exact fun _ _ => trivial
    | exact fun _ => trivial
    | exact trivial
    | (extract_lets +onlyGivenNames x; (fail_if_success have y : True → True := x); (first | (refine (fun (hx : Keep s x) => ?_) ?_; rotate_left; (try unfold x); rotate_left) | (refine (fun (hx : Keep s x.2) => ?_) ?_; rotate_left; (try unfold x); rotate_left) | (refine (fun (hx : Keep s x.2.2) => ?_) ?_; rotate_left; (try unfold x); rotate_left) | (refine (fun (hx : KeepOpt s x) => ?_) ?_; rotate_left; (try unfold x); rotate_left) | (refine (fun (hx : ∀ v : State, Keep s v → Keep s (x v)) => ?_) ?_; rotate_left; (try unfold x); (try intro v hv); rotate_left) | (have y : Mem := x) | (have y : ProtSt := x) | (have y : PoolSt := x) | (have y : PairSt := x) | (have y : HostSt := x) | (have y : TestSt := x) | (have y : Tab Cell := x) | (have y : Tab Word := x) | (try clear_value x)); all_goals have x := @id True)
    | with_reducible apply Touch.ite
    | with_reducible refine Touch.foldl _ ?_ (fun v a hv => ?_)
    | with_reducible apply State.setRegion_touch
    | with_reducible apply State.enterHoldover_keep
    | with_reducible apply State.slewLost_keep
    | with_reducible apply State.heldLost_keep
    | split
    | intro _ _ _
    | intro _ _
    | fail_if_no_progress (with_reducible refine Touch.upd ?_)
    | with_reducible apply_assumption


theorem State.reclose_keep {a1} (h : Keep s u) : Keep s (State.reclose u a1) := by
  unfold State.reclose
  have x := @id True
  repeat' first
    | with_reducible assumption
    | exact fun _ _ => trivial
    | exact fun _ => trivial
    | exact trivial
    | (extract_lets +onlyGivenNames x; (fail_if_success have y : True → True := x); (first | (refine (fun (hx : Keep s x) => ?_) ?_; rotate_left; (try unfold x); rotate_left) | (refine (fun (hx : Keep s x.2) => ?_) ?_; rotate_left; (try unfold x); rotate_left) | (refine (fun (hx : Keep s x.2.2) => ?_) ?_; rotate_left; (try unfold x); rotate_left) | (refine (fun (hx : KeepOpt s x) => ?_) ?_; rotate_left; (try unfold x); rotate_left) | (refine (fun (hx : ∀ v : State, Keep s v → Keep s (x v)) => ?_) ?_; rotate_left; (try unfold x); (try intro v hv); rotate_left) | (have y : Mem := x) | (have y : ProtSt := x) | (have y : PoolSt := x) | (have y : PairSt := x) | (have y : HostSt := x) | (have y : TestSt := x) | (have y : Tab Cell := x) | (have y : Tab Word := x) | (try clear_value x)); all_goals have x := @id True)
    | with_reducible apply Touch.ite
    | with_reducible refine Touch.foldl _ ?_ (fun v a hv => ?_)
    | with_reducible apply State.setRegion_touch
    | with_reducible apply State.setTb_keep
    | with_reducible apply State.tbNotice_touch
    | with_reducible apply State.setF_touch
    | split
    | intro _ _ _
    | intro _ _
    | fail_if_no_progress (with_reducible refine Touch.upd ?_)
    | with_reducible apply_assumption


theorem State.referenceBack_keep (h : Keep s u) : Keep s (State.referenceBack u) := by
  unfold State.referenceBack
  have x := @id True
  repeat' first
    | with_reducible assumption
    | exact fun _ _ => trivial
    | exact fun _ => trivial
    | exact trivial
    | (extract_lets +onlyGivenNames x; (fail_if_success have y : True → True := x); (first | (refine (fun (hx : Keep s x) => ?_) ?_; rotate_left; (try unfold x); rotate_left) | (refine (fun (hx : Keep s x.2) => ?_) ?_; rotate_left; (try unfold x); rotate_left) | (refine (fun (hx : Keep s x.2.2) => ?_) ?_; rotate_left; (try unfold x); rotate_left) | (refine (fun (hx : KeepOpt s x) => ?_) ?_; rotate_left; (try unfold x); rotate_left) | (refine (fun (hx : ∀ v : State, Keep s v → Keep s (x v)) => ?_) ?_; rotate_left; (try unfold x); (try intro v hv); rotate_left) | (have y : Mem := x) | (have y : ProtSt := x) | (have y : PoolSt := x) | (have y : PairSt := x) | (have y : HostSt := x) | (have y : TestSt := x) | (have y : Tab Cell := x) | (have y : Tab Word := x) | (try clear_value x)); all_goals have x := @id True)
    | with_reducible apply Touch.ite
    | with_reducible refine Touch.foldl _ ?_ (fun v a hv => ?_)
    | with_reducible apply State.reclose_keep
    | split
    | intro _ _ _
    | intro _ _
    | fail_if_no_progress (with_reducible refine Touch.upd ?_)
    | with_reducible apply_assumption


theorem State.fallCell_keep {a1 a2 a3} (h : Keep s u) : Keep s (State.fallCell u a1 a2 a3) := by
  unfold State.fallCell
  have x := @id True
  repeat' first
    | with_reducible assumption
    | exact fun _ _ => trivial
    | exact fun _ => trivial
    | exact trivial
    | (extract_lets +onlyGivenNames x; (fail_if_success have y : True → True := x); (first | (refine (fun (hx : Keep s x) => ?_) ?_; rotate_left; (try unfold x); rotate_left) | (refine (fun (hx : Keep s x.2) => ?_) ?_; rotate_left; (try unfold x); rotate_left) | (refine (fun (hx : Keep s x.2.2) => ?_) ?_; rotate_left; (try unfold x); rotate_left) | (refine (fun (hx : KeepOpt s x) => ?_) ?_; rotate_left; (try unfold x); rotate_left) | (refine (fun (hx : ∀ v : State, Keep s v → Keep s (x v)) => ?_) ?_; rotate_left; (try unfold x); (try intro v hv); rotate_left) | (have y : Mem := x) | (have y : ProtSt := x) | (have y : PoolSt := x) | (have y : PairSt := x) | (have y : HostSt := x) | (have y : TestSt := x) | (have y : Tab Cell := x) | (have y : Tab Word := x) | (try clear_value x)); all_goals have x := @id True)
    | with_reducible apply Touch.ite
    | with_reducible refine Touch.foldl _ ?_ (fun v a hv => ?_)
    | with_reducible apply State.setF_touch
    | with_reducible apply State.setCell_touch
    | split
    | intro _ _ _
    | intro _ _
    | fail_if_no_progress (with_reducible refine Touch.upd ?_)
    | with_reducible apply_assumption


theorem State.gateOff_keep {a1} (h : Keep s u) : Keep s (State.gateOff u a1) := by
  unfold State.gateOff
  have x := @id True
  repeat' first
    | with_reducible assumption
    | exact fun _ _ => trivial
    | exact fun _ => trivial
    | exact trivial
    | (extract_lets +onlyGivenNames x; (fail_if_success have y : True → True := x); (first | (refine (fun (hx : Keep s x) => ?_) ?_; rotate_left; (try unfold x); rotate_left) | (refine (fun (hx : Keep s x.2) => ?_) ?_; rotate_left; (try unfold x); rotate_left) | (refine (fun (hx : Keep s x.2.2) => ?_) ?_; rotate_left; (try unfold x); rotate_left) | (refine (fun (hx : KeepOpt s x) => ?_) ?_; rotate_left; (try unfold x); rotate_left) | (refine (fun (hx : ∀ v : State, Keep s v → Keep s (x v)) => ?_) ?_; rotate_left; (try unfold x); (try intro v hv); rotate_left) | (have y : Mem := x) | (have y : ProtSt := x) | (have y : PoolSt := x) | (have y : PairSt := x) | (have y : HostSt := x) | (have y : TestSt := x) | (have y : Tab Cell := x) | (have y : Tab Word := x) | (try clear_value x)); all_goals have x := @id True)
    | with_reducible apply Touch.ite
    | with_reducible refine Touch.foldl _ ?_ (fun v a hv => ?_)
    | with_reducible apply State.drawn_touch
    | with_reducible apply State.fallCell_keep
    | split
    | intro _ _ _
    | intro _ _
    | fail_if_no_progress (with_reducible refine Touch.upd ?_)
    | with_reducible apply_assumption


theorem State.zeroTrim_keep {a1} (h : Keep s u) : Keep s (State.zeroTrim u a1) := by
  unfold State.zeroTrim
  have x := @id True
  repeat' first
    | with_reducible assumption
    | exact fun _ _ => trivial
    | exact fun _ => trivial
    | exact trivial
    | (extract_lets +onlyGivenNames x; (fail_if_success have y : True → True := x); (first | (refine (fun (hx : Keep s x) => ?_) ?_; rotate_left; (try unfold x); rotate_left) | (refine (fun (hx : Keep s x.2) => ?_) ?_; rotate_left; (try unfold x); rotate_left) | (refine (fun (hx : Keep s x.2.2) => ?_) ?_; rotate_left; (try unfold x); rotate_left) | (refine (fun (hx : KeepOpt s x) => ?_) ?_; rotate_left; (try unfold x); rotate_left) | (refine (fun (hx : ∀ v : State, Keep s v → Keep s (x v)) => ?_) ?_; rotate_left; (try unfold x); (try intro v hv); rotate_left) | (have y : Mem := x) | (have y : ProtSt := x) | (have y : PoolSt := x) | (have y : PairSt := x) | (have y : HostSt := x) | (have y : TestSt := x) | (have y : Tab Cell := x) | (have y : Tab Word := x) | (try clear_value x)); all_goals have x := @id True)
    | with_reducible apply Touch.ite
    | with_reducible refine Touch.foldl _ ?_ (fun v a hv => ?_)
    | with_reducible apply State.setRegion_touch
    | split
    | intro _ _ _
    | intro _ _
    | fail_if_no_progress (with_reducible refine Touch.upd ?_)
    | with_reducible apply_assumption


theorem State.tbFail_keep {a1} (h : Keep s u) : Keep s (State.tbFail u a1) := by
  unfold State.tbFail
  have x := @id True
  repeat' first
    | with_reducible assumption
    | exact fun _ _ => trivial
    | exact fun _ => trivial
    | exact trivial
    | (extract_lets +onlyGivenNames x; (fail_if_success have y : True → True := x); (first | (refine (fun (hx : Keep s x) => ?_) ?_; rotate_left; (try unfold x); rotate_left) | (refine (fun (hx : Keep s x.2) => ?_) ?_; rotate_left; (try unfold x); rotate_left) | (refine (fun (hx : Keep s x.2.2) => ?_) ?_; rotate_left; (try unfold x); rotate_left) | (refine (fun (hx : KeepOpt s x) => ?_) ?_; rotate_left; (try unfold x); rotate_left) | (refine (fun (hx : ∀ v : State, Keep s v → Keep s (x v)) => ?_) ?_; rotate_left; (try unfold x); (try intro v hv); rotate_left) | (have y : Mem := x) | (have y : ProtSt := x) | (have y : PoolSt := x) | (have y : PairSt := x) | (have y : HostSt := x) | (have y : TestSt := x) | (have y : Tab Cell := x) | (have y : Tab Word := x) | (try clear_value x)); all_goals have x := @id True)
    | with_reducible apply Touch.ite
    | with_reducible refine Touch.foldl _ ?_ (fun v a hv => ?_)
    | with_reducible apply State.setFlag_touch
    | with_reducible apply State.setPid_touch
    | with_reducible apply State.setTb_keep
    | with_reducible apply State.setF_touch
    | with_reducible apply State.zeroTrim_keep
    | with_reducible apply State.endHold_keep
    | with_reducible apply State.tbNotice_touch
    | with_reducible apply State.gateOff_keep
    | with_reducible apply State.setFail_touch
    | split
    | intro _ _ _
    | intro _ _
    | fail_if_no_progress (with_reducible refine Touch.upd ?_)
    | with_reducible apply_assumption


theorem State.tbAcquire_keep {a1} (h : Keep s u) : Keep s (State.tbAcquire u a1) := by
  unfold State.tbAcquire
  have x := @id True
  repeat' first
    | with_reducible assumption
    | exact fun _ _ => trivial
    | exact fun _ => trivial
    | exact trivial
    | (extract_lets +onlyGivenNames x; (fail_if_success have y : True → True := x); (first | (refine (fun (hx : Keep s x) => ?_) ?_; rotate_left; (try unfold x); rotate_left) | (refine (fun (hx : Keep s x.2) => ?_) ?_; rotate_left; (try unfold x); rotate_left) | (refine (fun (hx : Keep s x.2.2) => ?_) ?_; rotate_left; (try unfold x); rotate_left) | (refine (fun (hx : KeepOpt s x) => ?_) ?_; rotate_left; (try unfold x); rotate_left) | (refine (fun (hx : ∀ v : State, Keep s v → Keep s (x v)) => ?_) ?_; rotate_left; (try unfold x); (try intro v hv); rotate_left) | (have y : Mem := x) | (have y : ProtSt := x) | (have y : PoolSt := x) | (have y : PairSt := x) | (have y : HostSt := x) | (have y : TestSt := x) | (have y : Tab Cell := x) | (have y : Tab Word := x) | (try clear_value x)); all_goals have x := @id True)
    | with_reducible apply Touch.ite
    | with_reducible refine Touch.foldl _ ?_ (fun v a hv => ?_)
    | with_reducible apply State.setPid_touch
    | with_reducible apply State.setTb_keep
    | with_reducible apply State.setRegion_touch
    | split
    | intro _ _ _
    | intro _ _
    | fail_if_no_progress (with_reducible refine Touch.upd ?_)
    | with_reducible apply_assumption


theorem State.voteTick_keep {a1} (h : Keep s u) : Keep s (State.voteTick u a1) := by
  unfold State.voteTick
  have x := @id True
  repeat' first
    | with_reducible assumption
    | exact fun _ _ => trivial
    | exact fun _ => trivial
    | exact trivial
    | (extract_lets +onlyGivenNames x; (fail_if_success have y : True → True := x); (first | (refine (fun (hx : Keep s x) => ?_) ?_; rotate_left; (try unfold x); rotate_left) | (refine (fun (hx : Keep s x.2) => ?_) ?_; rotate_left; (try unfold x); rotate_left) | (refine (fun (hx : Keep s x.2.2) => ?_) ?_; rotate_left; (try unfold x); rotate_left) | (refine (fun (hx : KeepOpt s x) => ?_) ?_; rotate_left; (try unfold x); rotate_left) | (refine (fun (hx : ∀ v : State, Keep s v → Keep s (x v)) => ?_) ?_; rotate_left; (try unfold x); (try intro v hv); rotate_left) | (have y : Mem := x) | (have y : ProtSt := x) | (have y : PoolSt := x) | (have y : PairSt := x) | (have y : HostSt := x) | (have y : TestSt := x) | (have y : Tab Cell := x) | (have y : Tab Word := x) | (try clear_value x)); all_goals have x := @id True)
    | with_reducible apply Touch.ite
    | with_reducible refine Touch.foldl _ ?_ (fun v a hv => ?_)
    | with_reducible apply State.setRegion_touch
    | with_reducible apply State.inc_touch
    | with_reducible apply State.drawn_touch
    | split
    | intro _ _ _
    | intro _ _
    | fail_if_no_progress (with_reducible refine Touch.upd ?_)
    | with_reducible apply_assumption


theorem State.beginBlock_keep {a1 a2} (h : Keep s u) : Keep s (State.beginBlock u a1 a2) := by
  unfold State.beginBlock
  have x := @id True
  repeat' first
    | with_reducible assumption
    | exact fun _ _ => trivial
    | exact fun _ => trivial
    | exact trivial
    | (extract_lets +onlyGivenNames x; (fail_if_success have y : True → True := x); (first | (refine (fun (hx : Keep s x) => ?_) ?_; rotate_left; (try unfold x); rotate_left) | (refine (fun (hx : Keep s x.2) => ?_) ?_; rotate_left; (try unfold x); rotate_left) | (refine (fun (hx : Keep s x.2.2) => ?_) ?_; rotate_left; (try unfold x); rotate_left) | (refine (fun (hx : KeepOpt s x) => ?_) ?_; rotate_left; (try unfold x); rotate_left) | (refine (fun (hx : ∀ v : State, Keep s v → Keep s (x v)) => ?_) ?_; rotate_left; (try unfold x); (try intro v hv); rotate_left) | (have y : Mem := x) | (have y : ProtSt := x) | (have y : PoolSt := x) | (have y : PairSt := x) | (have y : HostSt := x) | (have y : TestSt := x) | (have y : Tab Cell := x) | (have y : Tab Word := x) | (try clear_value x)); all_goals have x := @id True)
    | with_reducible apply Touch.ite
    | with_reducible refine Touch.foldl _ ?_ (fun v a hv => ?_)
    | with_reducible apply State.setBlock_touch
    | with_reducible apply State.startSamplers_keep
    | with_reducible apply State.settlePages_keep
    | with_reducible apply State.setF_touch
    | split
    | intro _ _ _
    | intro _ _
    | fail_if_no_progress (with_reducible refine Touch.upd ?_)
    | with_reducible apply_assumption


/-- A table whose entries are mapped, without those equal to the default. -/
theorem Tab.map_wf {α : Type} [DecidableEq α] (d : α) (f : Nat → α → α) (t : Tab α) (h : Tab.wf d t = true) :
    Tab.wf d ((t.map fun e => (e.1, f e.1 e.2)).filter fun e => e.2 ≠ d) = true := by
  induction t with
  | nil => rfl
  | cons e t ih =>
    obtain ⟨j, v⟩ := e
    obtain ⟨_, hk, ht⟩ := Tab.wf_cons d h
    rw [List.map_cons, List.filter_cons]
    split
    · rename_i hv
      refine Tab.wf_of_cons d (by simpa using hv) (fun e he => ?_) (ih ht)
      obtain ⟨e', he', rfl⟩ := List.mem_map.1 (List.mem_filter.1 he).1
      exact hk e' he'
    · exact ih ht

theorem State.cellsMap_keep {f : Nat → Cell → Cell} (h : Keep s u) :
    Keep s { u with cells := (u.cells.map fun e => (e.1, f e.1 e.2)).filter fun e => e.2 ≠ ({} : Cell) } :=
  h.trans ⟨rfl, List.suffix_refl _, Nat.le_refl _, Nat.le_refl _, fun i => { i with cells := Tab.map_wf _ _ _ i.cells },
    fun _ => .inl trivial⟩

theorem State.loadTime_keep {a1 a2} (h : Keep s u) : Keep s (State.loadTime u a1 a2) := by
  unfold State.loadTime
  have x := @id True
  repeat' first
    | with_reducible assumption
    | exact fun _ _ => trivial
    | exact fun _ => trivial
    | exact trivial
    | (extract_lets +onlyGivenNames x; (fail_if_success have y : True → True := x); (first | (refine (fun (hx : Keep s x) => ?_) ?_; rotate_left; (try unfold x); rotate_left) | (refine (fun (hx : Keep s x.2) => ?_) ?_; rotate_left; (try unfold x); rotate_left) | (refine (fun (hx : Keep s x.2.2) => ?_) ?_; rotate_left; (try unfold x); rotate_left) | (refine (fun (hx : KeepOpt s x) => ?_) ?_; rotate_left; (try unfold x); rotate_left) | (refine (fun (hx : ∀ v : State, Keep s v → Keep s (x v)) => ?_) ?_; rotate_left; (try unfold x); (try intro v hv); rotate_left) | (have y : Mem := x) | (have y : ProtSt := x) | (have y : PoolSt := x) | (have y : PairSt := x) | (have y : HostSt := x) | (have y : TestSt := x) | (have y : Tab Cell := x) | (have y : Tab Word := x) | (try clear_value x)); all_goals have x := @id True)
    | with_reducible apply Touch.ite
    | with_reducible refine State.cellsMap_keep (f := fun _ c => Cell.shift c _) ?_
    | with_reducible refine Touch.foldl _ ?_ (fun v a hv => ?_)
    | with_reducible apply State.setRegion_touch
    | with_reducible apply State.setTb_keep
    | with_reducible apply State.setF_touch
    | with_reducible apply State.freezeTrim_keep
    | split
    | intro _ _ _
    | intro _ _
    | fail_if_no_progress (with_reducible refine Touch.upd ?_)
    | with_reducible apply_assumption


theorem State.beginRun_keep {a1} (h : Keep s u) : Keep s (State.beginRun u a1) := by
  unfold State.beginRun
  have x := @id True
  repeat' first
    | with_reducible assumption
    | exact fun _ _ => trivial
    | exact fun _ => trivial
    | exact trivial
    | (extract_lets +onlyGivenNames x; (fail_if_success have y : True → True := x); (first | (refine (fun (hx : Keep s x) => ?_) ?_; rotate_left; (try unfold x); rotate_left) | (refine (fun (hx : Keep s x.2) => ?_) ?_; rotate_left; (try unfold x); rotate_left) | (refine (fun (hx : Keep s x.2.2) => ?_) ?_; rotate_left; (try unfold x); rotate_left) | (refine (fun (hx : KeepOpt s x) => ?_) ?_; rotate_left; (try unfold x); rotate_left) | (refine (fun (hx : ∀ v : State, Keep s v → Keep s (x v)) => ?_) ?_; rotate_left; (try unfold x); (try intro v hv); rotate_left) | (have y : Mem := x) | (have y : ProtSt := x) | (have y : PoolSt := x) | (have y : PairSt := x) | (have y : HostSt := x) | (have y : TestSt := x) | (have y : Tab Cell := x) | (have y : Tab Word := x) | (try clear_value x)); all_goals have x := @id True)
    | with_reducible apply Touch.ite
    | with_reducible refine Touch.foldl _ ?_ (fun v a hv => ?_)
    | with_reducible apply State.beginBlock_keep
    | split
    | intro _ _ _
    | intro _ _
    | fail_if_no_progress (with_reducible refine Touch.upd ?_)
    | with_reducible apply_assumption


theorem State.load_keep {a1 a2} (h : Keep s u) : Keep s (State.load u a1 a2) := by
  unfold State.load
  have x := @id True
  repeat' first
    | with_reducible assumption
    | exact fun _ _ => trivial
    | exact fun _ => trivial
    | exact trivial
    | (extract_lets +onlyGivenNames x; (fail_if_success have y : True → True := x); (first | (refine (fun (hx : Keep s x) => ?_) ?_; rotate_left; (try unfold x); rotate_left) | (refine (fun (hx : Keep s x.2) => ?_) ?_; rotate_left; (try unfold x); rotate_left) | (refine (fun (hx : Keep s x.2.2) => ?_) ?_; rotate_left; (try unfold x); rotate_left) | (refine (fun (hx : KeepOpt s x) => ?_) ?_; rotate_left; (try unfold x); rotate_left) | (refine (fun (hx : ∀ v : State, Keep s v → Keep s (x v)) => ?_) ?_; rotate_left; (try unfold x); (try intro v hv); rotate_left) | (have y : Mem := x) | (have y : ProtSt := x) | (have y : PoolSt := x) | (have y : PairSt := x) | (have y : HostSt := x) | (have y : TestSt := x) | (have y : Tab Cell := x) | (have y : Tab Word := x) | (try clear_value x)); all_goals have x := @id True)
    | with_reducible apply Touch.ite
    | with_reducible refine Touch.foldl _ ?_ (fun v a hv => ?_)
    | with_reducible apply State.beginRun_keep
    | with_reducible apply State.loadTime_keep
    | split
    | intro _ _ _
    | intro _ _
    | fail_if_no_progress (with_reducible refine Touch.upd ?_)
    | with_reducible apply_assumption


theorem State.start_keep {a1} (h : Keep s u) : Keep s (State.start u a1) := by
  unfold State.start
  have x := @id True
  repeat' first
    | with_reducible assumption
    | exact fun _ _ => trivial
    | exact fun _ => trivial
    | exact trivial
    | (extract_lets +onlyGivenNames x; (fail_if_success have y : True → True := x); (first | (refine (fun (hx : Keep s x) => ?_) ?_; rotate_left; (try unfold x); rotate_left) | (refine (fun (hx : Keep s x.2) => ?_) ?_; rotate_left; (try unfold x); rotate_left) | (refine (fun (hx : Keep s x.2.2) => ?_) ?_; rotate_left; (try unfold x); rotate_left) | (refine (fun (hx : KeepOpt s x) => ?_) ?_; rotate_left; (try unfold x); rotate_left) | (refine (fun (hx : ∀ v : State, Keep s v → Keep s (x v)) => ?_) ?_; rotate_left; (try unfold x); (try intro v hv); rotate_left) | (have y : Mem := x) | (have y : ProtSt := x) | (have y : PoolSt := x) | (have y : PairSt := x) | (have y : HostSt := x) | (have y : TestSt := x) | (have y : Tab Cell := x) | (have y : Tab Word := x) | (try clear_value x)); all_goals have x := @id True)
    | with_reducible apply Touch.ite
    | with_reducible refine Touch.foldl _ ?_ (fun v a hv => ?_)
    | with_reducible apply State.inc_touch
    | with_reducible apply State.modFrag_keep
    | with_reducible apply State.newFrag_keep
    | split
    | intro _ _ _
    | intro _ _
    | fail_if_no_progress (with_reducible refine Touch.upd ?_)
    | with_reducible apply_assumption


theorem State.closeStarts_keep (h : Keep s u) : Keep s (State.closeStarts u) := by
  unfold State.closeStarts
  have x := @id True
  repeat' first
    | with_reducible assumption
    | exact fun _ _ => trivial
    | exact fun _ => trivial
    | exact trivial
    | (extract_lets +onlyGivenNames x; (fail_if_success have y : True → True := x); (first | (refine (fun (hx : Keep s x) => ?_) ?_; rotate_left; (try unfold x); rotate_left) | (refine (fun (hx : Keep s x.2) => ?_) ?_; rotate_left; (try unfold x); rotate_left) | (refine (fun (hx : Keep s x.2.2) => ?_) ?_; rotate_left; (try unfold x); rotate_left) | (refine (fun (hx : KeepOpt s x) => ?_) ?_; rotate_left; (try unfold x); rotate_left) | (refine (fun (hx : ∀ v : State, Keep s v → Keep s (x v)) => ?_) ?_; rotate_left; (try unfold x); (try intro v hv); rotate_left) | (have y : Mem := x) | (have y : ProtSt := x) | (have y : PoolSt := x) | (have y : PairSt := x) | (have y : HostSt := x) | (have y : TestSt := x) | (have y : Tab Cell := x) | (have y : Tab Word := x) | (try clear_value x)); all_goals have x := @id True)
    | with_reducible apply Touch.ite
    | with_reducible refine Touch.foldl _ ?_ (fun v a hv => ?_)
    | split
    | intro _ _ _
    | intro _ _
    | fail_if_no_progress (with_reducible refine Touch.upd ?_)
    | with_reducible apply_assumption


theorem State.modeChange_keep {a1 a2 a3} (h : Keep s u) : Keep s (State.modeChange u a1 a2 a3) := by
  unfold State.modeChange
  have x := @id True
  repeat' first
    | with_reducible assumption
    | exact fun _ _ => trivial
    | exact fun _ => trivial
    | exact trivial
    | (extract_lets +onlyGivenNames x; (fail_if_success have y : True → True := x); (first | (refine (fun (hx : Keep s x) => ?_) ?_; rotate_left; (try unfold x); rotate_left) | (refine (fun (hx : Keep s x.2) => ?_) ?_; rotate_left; (try unfold x); rotate_left) | (refine (fun (hx : Keep s x.2.2) => ?_) ?_; rotate_left; (try unfold x); rotate_left) | (refine (fun (hx : KeepOpt s x) => ?_) ?_; rotate_left; (try unfold x); rotate_left) | (refine (fun (hx : ∀ v : State, Keep s v → Keep s (x v)) => ?_) ?_; rotate_left; (try unfold x); (try intro v hv); rotate_left) | (have y : Mem := x) | (have y : ProtSt := x) | (have y : PoolSt := x) | (have y : PairSt := x) | (have y : HostSt := x) | (have y : TestSt := x) | (have y : Tab Cell := x) | (have y : Tab Word := x) | (try clear_value x)); all_goals have x := @id True)
    | with_reducible apply Touch.ite
    | with_reducible refine Touch.foldl _ ?_ (fun v a hv => ?_)
    | with_reducible apply State.setF_touch
    | with_reducible apply State.incBy_touch
    | with_reducible apply State.setCell_touch
    | with_reducible apply State.flushStaging_keep
    | split
    | intro _ _ _
    | intro _ _
    | fail_if_no_progress (with_reducible refine Touch.upd ?_)
    | with_reducible apply_assumption


theorem State.setIlk_keep {a1 a2} (h : Keep s u) : Keep s (State.setIlk u a1 a2) := by
  unfold State.setIlk
  have x := @id True
  repeat' first
    | with_reducible assumption
    | exact fun _ _ => trivial
    | exact fun _ => trivial
    | exact trivial
    | (extract_lets +onlyGivenNames x; (fail_if_success have y : True → True := x); (first | (refine (fun (hx : Keep s x) => ?_) ?_; rotate_left; (try unfold x); rotate_left) | (refine (fun (hx : Keep s x.2) => ?_) ?_; rotate_left; (try unfold x); rotate_left) | (refine (fun (hx : Keep s x.2.2) => ?_) ?_; rotate_left; (try unfold x); rotate_left) | (refine (fun (hx : KeepOpt s x) => ?_) ?_; rotate_left; (try unfold x); rotate_left) | (refine (fun (hx : ∀ v : State, Keep s v → Keep s (x v)) => ?_) ?_; rotate_left; (try unfold x); (try intro v hv); rotate_left) | (have y : Mem := x) | (have y : ProtSt := x) | (have y : PoolSt := x) | (have y : PairSt := x) | (have y : HostSt := x) | (have y : TestSt := x) | (have y : Tab Cell := x) | (have y : Tab Word := x) | (try clear_value x)); all_goals have x := @id True)
    | with_reducible apply Touch.ite
    | with_reducible refine Touch.foldl _ ?_ (fun v a hv => ?_)
    | with_reducible apply State.setF_touch
    | with_reducible apply State.setSxp_touch
    | split
    | intro _ _ _
    | intro _ _
    | fail_if_no_progress (with_reducible refine Touch.upd ?_)
    | with_reducible apply_assumption


theorem State.enterSafe_keep {a1} (h : Keep s u) : Keep s (State.enterSafe u a1) := by
  unfold State.enterSafe
  have x := @id True
  repeat' first
    | with_reducible assumption
    | exact fun _ _ => trivial
    | exact fun _ => trivial
    | exact trivial
    | (extract_lets +onlyGivenNames x; (fail_if_success have y : True → True := x); (first | (refine (fun (hx : Keep s x) => ?_) ?_; rotate_left; (try unfold x); rotate_left) | (refine (fun (hx : Keep s x.2) => ?_) ?_; rotate_left; (try unfold x); rotate_left) | (refine (fun (hx : Keep s x.2.2) => ?_) ?_; rotate_left; (try unfold x); rotate_left) | (refine (fun (hx : KeepOpt s x) => ?_) ?_; rotate_left; (try unfold x); rotate_left) | (refine (fun (hx : ∀ v : State, Keep s v → Keep s (x v)) => ?_) ?_; rotate_left; (try unfold x); (try intro v hv); rotate_left) | (have y : Mem := x) | (have y : ProtSt := x) | (have y : PoolSt := x) | (have y : PairSt := x) | (have y : HostSt := x) | (have y : TestSt := x) | (have y : Tab Cell := x) | (have y : Tab Word := x) | (try clear_value x)); all_goals have x := @id True)
    | with_reducible apply Touch.ite
    | with_reducible refine Touch.foldl _ ?_ (fun v a hv => ?_)
    | with_reducible apply State.enterState_touch
    | with_reducible apply State.setF_touch
    | with_reducible apply State.modeChange_keep
    | with_reducible apply State.setIlk_keep
    | with_reducible apply State.setFail_touch
    | split
    | intro _ _ _
    | intro _ _
    | fail_if_no_progress (with_reducible refine Touch.upd ?_)
    | with_reducible apply_assumption


theorem State.checkRecord_keep (h : Keep s u) : Keep s (State.checkRecord u) := by
  unfold State.checkRecord
  have x := @id True
  repeat' first
    | with_reducible assumption
    | exact fun _ _ => trivial
    | exact fun _ => trivial
    | exact trivial
    | (extract_lets +onlyGivenNames x; (fail_if_success have y : True → True := x); (first | (refine (fun (hx : Keep s x) => ?_) ?_; rotate_left; (try unfold x); rotate_left) | (refine (fun (hx : Keep s x.2) => ?_) ?_; rotate_left; (try unfold x); rotate_left) | (refine (fun (hx : Keep s x.2.2) => ?_) ?_; rotate_left; (try unfold x); rotate_left) | (refine (fun (hx : KeepOpt s x) => ?_) ?_; rotate_left; (try unfold x); rotate_left) | (refine (fun (hx : ∀ v : State, Keep s v → Keep s (x v)) => ?_) ?_; rotate_left; (try unfold x); (try intro v hv); rotate_left) | (have y : Mem := x) | (have y : ProtSt := x) | (have y : PoolSt := x) | (have y : PairSt := x) | (have y : HostSt := x) | (have y : TestSt := x) | (have y : Tab Cell := x) | (have y : Tab Word := x) | (try clear_value x)); all_goals have x := @id True)
    | with_reducible apply Touch.ite
    | with_reducible refine Touch.foldl _ ?_ (fun v a hv => ?_)
    | with_reducible apply State.enterSafe_keep
    | split
    | intro _ _ _
    | intro _ _
    | fail_if_no_progress (with_reducible refine Touch.upd ?_)
    | with_reducible apply_assumption


theorem State.thawBlock_keep {a1} (h : Keep s u) : Keep s (State.thawBlock u a1) := by
  unfold State.thawBlock
  have x := @id True
  repeat' first
    | with_reducible assumption
    | exact fun _ _ => trivial
    | exact fun _ => trivial
    | exact trivial
    | (extract_lets +onlyGivenNames x; (fail_if_success have y : True → True := x); (first | (refine (fun (hx : Keep s x) => ?_) ?_; rotate_left; (try unfold x); rotate_left) | (refine (fun (hx : Keep s x.2) => ?_) ?_; rotate_left; (try unfold x); rotate_left) | (refine (fun (hx : Keep s x.2.2) => ?_) ?_; rotate_left; (try unfold x); rotate_left) | (refine (fun (hx : KeepOpt s x) => ?_) ?_; rotate_left; (try unfold x); rotate_left) | (refine (fun (hx : ∀ v : State, Keep s v → Keep s (x v)) => ?_) ?_; rotate_left; (try unfold x); (try intro v hv); rotate_left) | (have y : Mem := x) | (have y : ProtSt := x) | (have y : PoolSt := x) | (have y : PairSt := x) | (have y : HostSt := x) | (have y : TestSt := x) | (have y : Tab Cell := x) | (have y : Tab Word := x) | (try clear_value x)); all_goals have x := @id True)
    | with_reducible apply Touch.ite
    | with_reducible refine Touch.foldl _ ?_ (fun v a hv => ?_)
    | with_reducible apply State.setBlock_touch
    | with_reducible apply State.startSamplers_keep
    | with_reducible apply State.settlePages_keep
    | with_reducible apply State.setF_touch
    | with_reducible apply State.inc_touch
    | split
    | intro _ _ _
    | intro _ _
    | fail_if_no_progress (with_reducible refine Touch.upd ?_)
    | with_reducible apply_assumption


theorem State.setCellFields_keep {a1 a2 a3 a4 a5 a6} (h : Keep s u) : Keep s (State.setCellFields u a1 a2 a3 a4 a5 a6) := by
  unfold State.setCellFields
  have x := @id True
  repeat' first
    | with_reducible assumption
    | exact fun _ _ => trivial
    | exact fun _ => trivial
    | exact trivial
    | (extract_lets +onlyGivenNames x; (fail_if_success have y : True → True := x); (first | (refine (fun (hx : Keep s x) => ?_) ?_; rotate_left; (try unfold x); rotate_left) | (refine (fun (hx : Keep s x.2) => ?_) ?_; rotate_left; (try unfold x); rotate_left) | (refine (fun (hx : Keep s x.2.2) => ?_) ?_; rotate_left; (try unfold x); rotate_left) | (refine (fun (hx : KeepOpt s x) => ?_) ?_; rotate_left; (try unfold x); rotate_left) | (refine (fun (hx : ∀ v : State, Keep s v → Keep s (x v)) => ?_) ?_; rotate_left; (try unfold x); (try intro v hv); rotate_left) | (have y : Mem := x) | (have y : ProtSt := x) | (have y : PoolSt := x) | (have y : PairSt := x) | (have y : HostSt := x) | (have y : TestSt := x) | (have y : Tab Cell := x) | (have y : Tab Word := x) | (try clear_value x)); all_goals have x := @id True)
    | with_reducible apply Touch.ite
    | with_reducible refine Touch.foldl _ ?_ (fun v a hv => ?_)
    | with_reducible apply State.setCfg_touch
    | with_reducible apply State.drawn_touch
    | with_reducible apply State.fallCell_keep
    | with_reducible apply State.modeChange_keep
    | split
    | intro _ _ _
    | intro _ _
    | fail_if_no_progress (with_reducible refine Touch.upd ?_)
    | with_reducible apply_assumption


theorem State.applyAct_keep {a1} (h : Keep s u) : Keep s (State.applyAct u a1) := by
  unfold State.applyAct
  have x := @id True
  repeat' first
    | with_reducible assumption
    | exact fun _ _ => trivial
    | exact fun _ => trivial
    | exact trivial
    | (extract_lets +onlyGivenNames x; (fail_if_success have y : True → True := x); (first | (refine (fun (hx : Keep s x) => ?_) ?_; rotate_left; (try unfold x); rotate_left) | (refine (fun (hx : Keep s x.2) => ?_) ?_; rotate_left; (try unfold x); rotate_left) | (refine (fun (hx : Keep s x.2.2) => ?_) ?_; rotate_left; (try unfold x); rotate_left) | (refine (fun (hx : KeepOpt s x) => ?_) ?_; rotate_left; (try unfold x); rotate_left) | (refine (fun (hx : ∀ v : State, Keep s v → Keep s (x v)) => ?_) ?_; rotate_left; (try unfold x); (try intro v hv); rotate_left) | (have y : Mem := x) | (have y : ProtSt := x) | (have y : PoolSt := x) | (have y : PairSt := x) | (have y : HostSt := x) | (have y : TestSt := x) | (have y : Tab Cell := x) | (have y : Tab Word := x) | (try clear_value x)); all_goals have x := @id True)
    | with_reducible apply Touch.ite
    | with_reducible refine Touch.foldl _ ?_ (fun v a hv => ?_)
    | with_reducible apply State.setCellFields_keep
    | with_reducible apply State.thawBlock_keep
    | with_reducible apply State.answer_touch
    | with_reducible apply State.applyStop_keep
    | split
    | intro _ _ _
    | intro _ _
    | fail_if_no_progress (with_reducible refine Touch.upd ?_)
    | with_reducible apply_assumption


theorem State.atBoundary_keep (h : Keep s u) : Keep s (State.atBoundary u) := by
  unfold State.atBoundary
  have x := @id True
  repeat' first
    | with_reducible assumption
    | exact fun _ _ => trivial
    | exact fun _ => trivial
    | exact trivial
    | (extract_lets +onlyGivenNames x; (fail_if_success have y : True → True := x); (first | (refine (fun (hx : Keep s x) => ?_) ?_; rotate_left; (try unfold x); rotate_left) | (refine (fun (hx : Keep s x.2) => ?_) ?_; rotate_left; (try unfold x); rotate_left) | (refine (fun (hx : Keep s x.2.2) => ?_) ?_; rotate_left; (try unfold x); rotate_left) | (refine (fun (hx : KeepOpt s x) => ?_) ?_; rotate_left; (try unfold x); rotate_left) | (refine (fun (hx : ∀ v : State, Keep s v → Keep s (x v)) => ?_) ?_; rotate_left; (try unfold x); (try intro v hv); rotate_left) | (have y : Mem := x) | (have y : ProtSt := x) | (have y : PoolSt := x) | (have y : PairSt := x) | (have y : HostSt := x) | (have y : TestSt := x) | (have y : Tab Cell := x) | (have y : Tab Word := x) | (try clear_value x)); all_goals have x := @id True)
    | with_reducible apply Touch.ite
    | with_reducible refine Touch.foldl _ ?_ (fun v a hv => ?_)
    | with_reducible apply State.applyAct_keep
    | split
    | intro _ _ _
    | intro _ _
    | fail_if_no_progress (with_reducible refine Touch.upd ?_)
    | with_reducible apply_assumption


theorem execMemPoisonRewrite_keep {a0 a1} (h : Keep s u) : KeepRes s (execMemPoisonRewrite a0 a1 u) := by
  unfold execMemPoisonRewrite
  have x := @id True
  repeat' first
    | with_reducible assumption
    | exact fun _ _ => trivial
    | exact fun _ => trivial
    | exact trivial
    | (extract_lets +onlyGivenNames x; (fail_if_success have y : True → True := x); (first | (refine (fun (hx : Keep s x) => ?_) ?_; rotate_left; (try unfold x); rotate_left) | (refine (fun (hx : Keep s x.2) => ?_) ?_; rotate_left; (try unfold x); rotate_left) | (refine (fun (hx : Keep s x.2.2) => ?_) ?_; rotate_left; (try unfold x); rotate_left) | (refine (fun (hx : KeepOpt s x) => ?_) ?_; rotate_left; (try unfold x); rotate_left) | (refine (fun (hx : ∀ v : State, Keep s v → Keep s (x v)) => ?_) ?_; rotate_left; (try unfold x); (try intro v hv); rotate_left) | (have y : Mem := x) | (have y : ProtSt := x) | (have y : PoolSt := x) | (have y : PairSt := x) | (have y : HostSt := x) | (have y : TestSt := x) | (have y : Tab Cell := x) | (have y : Tab Word := x) | (try clear_value x)); all_goals have x := @id True)
    | with_reducible apply KeepRes.next
    | with_reducible exact KeepRes.fault
    | with_reducible apply KeepRes.ite
    | with_reducible apply Touch.ite
    | with_reducible refine Touch.foldl _ ?_ (fun v a hv => ?_)
    | with_reducible apply State.setRaw_touch
    | with_reducible apply State.setMem_touch
    | exact fun h => h
    | exact fun hv => (Mem.wf_iff _).2 ⟨Tab.set_wf _ _ _ _ ((Mem.wf_iff _).1 hv).1, ((Mem.wf_iff _).1 hv).2⟩
    | exact fun hv => (Mem.wf_iff _).2 ⟨putSlots_wf _ _ _ _ _ _ _ ((Mem.wf_iff _).1 hv).1, ((Mem.wf_iff _).1 hv).2⟩
    | split
    | intro _ _ _
    | intro _ _
    | fail_if_no_progress (with_reducible refine Touch.upd ?_)
    | with_reducible apply_assumption


theorem execMergeBufferDrain_keep {a0 a1} (h : Keep s u) : KeepRes s (execMergeBufferDrain a0 a1 u) := by
  unfold execMergeBufferDrain
  have x := @id True
  repeat' first
    | with_reducible assumption
    | exact fun _ _ => trivial
    | exact fun _ => trivial
    | exact trivial
    | (extract_lets +onlyGivenNames x; (fail_if_success have y : True → True := x); (first | (refine (fun (hx : Keep s x) => ?_) ?_; rotate_left; (try unfold x); rotate_left) | (refine (fun (hx : Keep s x.2) => ?_) ?_; rotate_left; (try unfold x); rotate_left) | (refine (fun (hx : Keep s x.2.2) => ?_) ?_; rotate_left; (try unfold x); rotate_left) | (refine (fun (hx : KeepOpt s x) => ?_) ?_; rotate_left; (try unfold x); rotate_left) | (refine (fun (hx : ∀ v : State, Keep s v → Keep s (x v)) => ?_) ?_; rotate_left; (try unfold x); (try intro v hv); rotate_left) | (have y : Mem := x) | (have y : ProtSt := x) | (have y : PoolSt := x) | (have y : PairSt := x) | (have y : HostSt := x) | (have y : TestSt := x) | (have y : Tab Cell := x) | (have y : Tab Word := x) | (try clear_value x)); all_goals have x := @id True)
    | with_reducible apply KeepRes.next
    | with_reducible exact KeepRes.fault
    | with_reducible apply KeepRes.ite
    | with_reducible apply Touch.ite
    | with_reducible refine Touch.foldl _ ?_ (fun v a hv => ?_)
    | with_reducible apply State.drainEntry_touch
    | with_reducible apply State.upset_touch
    | split
    | intro _ _ _
    | intro _ _
    | fail_if_no_progress (with_reducible refine Touch.upd ?_)
    | with_reducible apply_assumption


theorem State.scrubWord_keep {a1 a2} (h : Keep s u) : Keep s (State.scrubWord u a1 a2) := by
  unfold State.scrubWord
  have x := @id True
  repeat' first
    | with_reducible assumption
    | exact fun _ _ => trivial
    | exact fun _ => trivial
    | exact trivial
    | (extract_lets +onlyGivenNames x; (fail_if_success have y : True → True := x); (first | (refine (fun (hx : Keep s x) => ?_) ?_; rotate_left; (try unfold x); rotate_left) | (refine (fun (hx : Keep s x.2) => ?_) ?_; rotate_left; (try unfold x); rotate_left) | (refine (fun (hx : Keep s x.2.2) => ?_) ?_; rotate_left; (try unfold x); rotate_left) | (refine (fun (hx : KeepOpt s x) => ?_) ?_; rotate_left; (try unfold x); rotate_left) | (refine (fun (hx : ∀ v : State, Keep s v → Keep s (x v)) => ?_) ?_; rotate_left; (try unfold x); (try intro v hv); rotate_left) | (have y : Mem := x) | (have y : ProtSt := x) | (have y : PoolSt := x) | (have y : PairSt := x) | (have y : HostSt := x) | (have y : TestSt := x) | (have y : Tab Cell := x) | (have y : Tab Word := x) | (try clear_value x)); all_goals have x := @id True)
    | with_reducible apply Touch.ite
    | with_reducible refine Touch.foldl _ ?_ (fun v a hv => ?_)
    | with_reducible apply State.drainFor_touch
    | with_reducible apply State.correction_touch
    | with_reducible apply State.setRaw_touch
    | with_reducible apply State.ueFound_touch
    | split
    | intro _ _ _
    | intro _ _
    | fail_if_no_progress (with_reducible refine Touch.upd ?_)
    | with_reducible apply_assumption


theorem State.lapEnd_keep {a1} (h : Keep s u) : Keep s (State.lapEnd u a1) := by
  unfold State.lapEnd
  have x := @id True
  repeat' first
    | with_reducible assumption
    | exact fun _ _ => trivial
    | exact fun _ => trivial
    | exact trivial
    | (extract_lets +onlyGivenNames x; (fail_if_success have y : True → True := x); (first | (refine (fun (hx : Keep s x) => ?_) ?_; rotate_left; (try unfold x); rotate_left) | (refine (fun (hx : Keep s x.2) => ?_) ?_; rotate_left; (try unfold x); rotate_left) | (refine (fun (hx : Keep s x.2.2) => ?_) ?_; rotate_left; (try unfold x); rotate_left) | (refine (fun (hx : KeepOpt s x) => ?_) ?_; rotate_left; (try unfold x); rotate_left) | (refine (fun (hx : ∀ v : State, Keep s v → Keep s (x v)) => ?_) ?_; rotate_left; (try unfold x); (try intro v hv); rotate_left) | (have y : Mem := x) | (have y : ProtSt := x) | (have y : PoolSt := x) | (have y : PairSt := x) | (have y : HostSt := x) | (have y : TestSt := x) | (have y : Tab Cell := x) | (have y : Tab Word := x) | (try clear_value x)); all_goals have x := @id True)
    | with_reducible apply Touch.ite
    | with_reducible refine Touch.foldl _ ?_ (fun v a hv => ?_)
    | with_reducible apply State.setMem_touch
    | with_reducible apply State.setF_touch
    | exact fun h => h
    | exact fun hv => (Mem.wf_iff _).2 ⟨Tab.set_wf _ _ _ _ ((Mem.wf_iff _).1 hv).1, ((Mem.wf_iff _).1 hv).2⟩
    | exact fun hv => (Mem.wf_iff _).2 ⟨putSlots_wf _ _ _ _ _ _ _ ((Mem.wf_iff _).1 hv).1, ((Mem.wf_iff _).1 hv).2⟩
    | split
    | intro _ _ _
    | intro _ _
    | fail_if_no_progress (with_reducible refine Touch.upd ?_)
    | with_reducible apply_assumption


theorem execScrubVisit_keep {a0 a1} (h : Keep s u) : KeepRes s (execScrubVisit a0 a1 u) := by
  unfold execScrubVisit
  have x := @id True
  repeat' first
    | with_reducible assumption
    | exact fun _ _ => trivial
    | exact fun _ => trivial
    | exact trivial
    | (extract_lets +onlyGivenNames x; (fail_if_success have y : True → True := x); (first | (refine (fun (hx : Keep s x) => ?_) ?_; rotate_left; (try unfold x); rotate_left) | (refine (fun (hx : Keep s x.2) => ?_) ?_; rotate_left; (try unfold x); rotate_left) | (refine (fun (hx : Keep s x.2.2) => ?_) ?_; rotate_left; (try unfold x); rotate_left) | (refine (fun (hx : KeepOpt s x) => ?_) ?_; rotate_left; (try unfold x); rotate_left) | (refine (fun (hx : ∀ v : State, Keep s v → Keep s (x v)) => ?_) ?_; rotate_left; (try unfold x); (try intro v hv); rotate_left) | (have y : Mem := x) | (have y : ProtSt := x) | (have y : PoolSt := x) | (have y : PairSt := x) | (have y : HostSt := x) | (have y : TestSt := x) | (have y : Tab Cell := x) | (have y : Tab Word := x) | (try clear_value x)); all_goals have x := @id True)
    | with_reducible apply KeepRes.next
    | with_reducible exact KeepRes.fault
    | with_reducible apply KeepRes.ite
    | with_reducible apply Touch.ite
    | with_reducible refine Touch.foldl _ ?_ (fun v a hv => ?_)
    | with_reducible apply State.memNotice_touch
    | with_reducible apply State.lapEnd_keep
    | with_reducible apply State.upset_touch
    | with_reducible apply State.scrubWord_keep
    | with_reducible apply State.setMem_touch
    | exact fun h => h
    | exact fun hv => (Mem.wf_iff _).2 ⟨Tab.set_wf _ _ _ _ ((Mem.wf_iff _).1 hv).1, ((Mem.wf_iff _).1 hv).2⟩
    | exact fun hv => (Mem.wf_iff _).2 ⟨putSlots_wf _ _ _ _ _ _ _ ((Mem.wf_iff _).1 hv).1, ((Mem.wf_iff _).1 hv).2⟩
    | split
    | intro _ _ _
    | intro _ _
    | fail_if_no_progress (with_reducible refine Touch.upd ?_)
    | with_reducible apply_assumption


theorem execLapOverdue_keep {a0} (h : Keep s u) : KeepRes s (execLapOverdue a0 u) := by
  unfold execLapOverdue
  have x := @id True
  repeat' first
    | with_reducible assumption
    | exact fun _ _ => trivial
    | exact fun _ => trivial
    | exact trivial
    | (extract_lets +onlyGivenNames x; (fail_if_success have y : True → True := x); (first | (refine (fun (hx : Keep s x) => ?_) ?_; rotate_left; (try unfold x); rotate_left) | (refine (fun (hx : Keep s x.2) => ?_) ?_; rotate_left; (try unfold x); rotate_left) | (refine (fun (hx : Keep s x.2.2) => ?_) ?_; rotate_left; (try unfold x); rotate_left) | (refine (fun (hx : KeepOpt s x) => ?_) ?_; rotate_left; (try unfold x); rotate_left) | (refine (fun (hx : ∀ v : State, Keep s v → Keep s (x v)) => ?_) ?_; rotate_left; (try unfold x); (try intro v hv); rotate_left) | (have y : Mem := x) | (have y : ProtSt := x) | (have y : PoolSt := x) | (have y : PairSt := x) | (have y : HostSt := x) | (have y : TestSt := x) | (have y : Tab Cell := x) | (have y : Tab Word := x) | (try clear_value x)); all_goals have x := @id True)
    | with_reducible apply KeepRes.next
    | with_reducible exact KeepRes.fault
    | with_reducible apply KeepRes.ite
    | with_reducible apply Touch.ite
    | with_reducible refine Touch.foldl _ ?_ (fun v a hv => ?_)
    | with_reducible apply State.memEvent_touch
    | with_reducible apply State.setMem_touch
    | exact fun h => h
    | exact fun hv => (Mem.wf_iff _).2 ⟨Tab.set_wf _ _ _ _ ((Mem.wf_iff _).1 hv).1, ((Mem.wf_iff _).1 hv).2⟩
    | exact fun hv => (Mem.wf_iff _).2 ⟨putSlots_wf _ _ _ _ _ _ _ ((Mem.wf_iff _).1 hv).1, ((Mem.wf_iff _).1 hv).2⟩
    | split
    | intro _ _ _
    | intro _ _
    | fail_if_no_progress (with_reducible refine Touch.upd ?_)
    | with_reducible apply_assumption


theorem execLeakPeriod_keep {a0} (h : Keep s u) : KeepRes s (execLeakPeriod a0 u) := by
  unfold execLeakPeriod
  have x := @id True
  repeat' first
    | with_reducible assumption
    | exact fun _ _ => trivial
    | exact fun _ => trivial
    | exact trivial
    | (extract_lets +onlyGivenNames x; (fail_if_success have y : True → True := x); (first | (refine (fun (hx : Keep s x) => ?_) ?_; rotate_left; (try unfold x); rotate_left) | (refine (fun (hx : Keep s x.2) => ?_) ?_; rotate_left; (try unfold x); rotate_left) | (refine (fun (hx : Keep s x.2.2) => ?_) ?_; rotate_left; (try unfold x); rotate_left) | (refine (fun (hx : KeepOpt s x) => ?_) ?_; rotate_left; (try unfold x); rotate_left) | (refine (fun (hx : ∀ v : State, Keep s v → Keep s (x v)) => ?_) ?_; rotate_left; (try unfold x); (try intro v hv); rotate_left) | (have y : Mem := x) | (have y : ProtSt := x) | (have y : PoolSt := x) | (have y : PairSt := x) | (have y : HostSt := x) | (have y : TestSt := x) | (have y : Tab Cell := x) | (have y : Tab Word := x) | (try clear_value x)); all_goals have x := @id True)
    | with_reducible apply KeepRes.next
    | with_reducible exact KeepRes.fault
    | with_reducible apply KeepRes.ite
    | with_reducible apply Touch.ite
    | with_reducible refine Touch.foldl _ ?_ (fun v a hv => ?_)
    | with_reducible apply State.setF_touch
    | with_reducible apply State.setMem_touch
    | exact fun h => h
    | exact fun hv => (Mem.wf_iff _).2 ⟨Tab.set_wf _ _ _ _ ((Mem.wf_iff _).1 hv).1, ((Mem.wf_iff _).1 hv).2⟩
    | exact fun hv => (Mem.wf_iff _).2 ⟨putSlots_wf _ _ _ _ _ _ _ ((Mem.wf_iff _).1 hv).1, ((Mem.wf_iff _).1 hv).2⟩
    | split
    | intro _ _ _
    | intro _ _
    | fail_if_no_progress (with_reducible refine Touch.upd ?_)
    | with_reducible apply_assumption


theorem State.triUpsets_keep {l} (h : Keep s u) : Keep s (State.triUpsets u l) :=
  Touch.foldl _ h fun _ _ h => State.triSet_touch h trivial


theorem State.tmrFix_keep {a1} (h : Keep s u) : Keep s (State.tmrFix u a1) := by
  unfold State.tmrFix
  have x := @id True
  repeat' first
    | with_reducible assumption
    | exact fun _ _ => trivial
    | exact fun _ => trivial
    | exact trivial
    | (extract_lets +onlyGivenNames x; (fail_if_success have y : True → True := x); (first | (refine (fun (hx : Keep s x) => ?_) ?_; rotate_left; (try unfold x); rotate_left) | (refine (fun (hx : Keep s x.2) => ?_) ?_; rotate_left; (try unfold x); rotate_left) | (refine (fun (hx : Keep s x.2.2) => ?_) ?_; rotate_left; (try unfold x); rotate_left) | (refine (fun (hx : KeepOpt s x) => ?_) ?_; rotate_left; (try unfold x); rotate_left) | (refine (fun (hx : ∀ v : State, Keep s v → Keep s (x v)) => ?_) ?_; rotate_left; (try unfold x); (try intro v hv); rotate_left) | (have y : Mem := x) | (have y : ProtSt := x) | (have y : PoolSt := x) | (have y : PairSt := x) | (have y : HostSt := x) | (have y : TestSt := x) | (have y : Tab Cell := x) | (have y : Tab Word := x) | (try clear_value x)); all_goals have x := @id True)
    | with_reducible apply Touch.ite
    | with_reducible refine Touch.foldl _ ?_ (fun v a hv => ?_)
    | with_reducible apply State.inc_touch
    | with_reducible apply State.setTri_touch
    | with_reducible apply State.drawn_touch
    | with_reducible apply State.remember_touch
    | with_reducible apply State.logEntry_touch
    | split
    | intro _ _ _
    | intro _ _
    | fail_if_no_progress (with_reducible refine Touch.upd ?_)
    | with_reducible apply_assumption


theorem execTmrRefresh_keep {a0} (h : Keep s u) : KeepRes s (execTmrRefresh a0 u) := by
  unfold execTmrRefresh
  have x := @id True
  repeat' first
    | with_reducible assumption
    | exact fun _ _ => trivial
    | exact fun _ => trivial
    | exact trivial
    | (extract_lets +onlyGivenNames x; (fail_if_success have y : True → True := x); (first | (refine (fun (hx : Keep s x) => ?_) ?_; rotate_left; (try unfold x); rotate_left) | (refine (fun (hx : Keep s x.2) => ?_) ?_; rotate_left; (try unfold x); rotate_left) | (refine (fun (hx : Keep s x.2.2) => ?_) ?_; rotate_left; (try unfold x); rotate_left) | (refine (fun (hx : KeepOpt s x) => ?_) ?_; rotate_left; (try unfold x); rotate_left) | (refine (fun (hx : ∀ v : State, Keep s v → Keep s (x v)) => ?_) ?_; rotate_left; (try unfold x); (try intro v hv); rotate_left) | (have y : Mem := x) | (have y : ProtSt := x) | (have y : PoolSt := x) | (have y : PairSt := x) | (have y : HostSt := x) | (have y : TestSt := x) | (have y : Tab Cell := x) | (have y : Tab Word := x) | (try clear_value x)); all_goals have x := @id True)
    | with_reducible apply KeepRes.next
    | with_reducible exact KeepRes.fault
    | with_reducible apply KeepRes.ite
    | with_reducible apply Touch.ite
    | with_reducible refine Touch.foldl _ ?_ (fun v a hv => ?_)
    | with_reducible apply State.triUpsets_keep
    | with_reducible apply State.checkRecord_keep
    | with_reducible apply State.tmrFix_keep
    | split
    | intro _ _ _
    | intro _ _
    | fail_if_no_progress (with_reducible refine Touch.upd ?_)
    | with_reducible apply_assumption


theorem execRetireMapRepair_keep {a0} (h : Keep s u) : KeepRes s (execRetireMapRepair a0 u) := by
  unfold execRetireMapRepair
  have x := @id True
  repeat' first
    | with_reducible assumption
    | exact fun _ _ => trivial
    | exact fun _ => trivial
    | exact trivial
    | (extract_lets +onlyGivenNames x; (fail_if_success have y : True → True := x); (first | (refine (fun (hx : Keep s x) => ?_) ?_; rotate_left; (try unfold x); rotate_left) | (refine (fun (hx : Keep s x.2) => ?_) ?_; rotate_left; (try unfold x); rotate_left) | (refine (fun (hx : Keep s x.2.2) => ?_) ?_; rotate_left; (try unfold x); rotate_left) | (refine (fun (hx : KeepOpt s x) => ?_) ?_; rotate_left; (try unfold x); rotate_left) | (refine (fun (hx : ∀ v : State, Keep s v → Keep s (x v)) => ?_) ?_; rotate_left; (try unfold x); (try intro v hv); rotate_left) | (have y : Mem := x) | (have y : ProtSt := x) | (have y : PoolSt := x) | (have y : PairSt := x) | (have y : HostSt := x) | (have y : TestSt := x) | (have y : Tab Cell := x) | (have y : Tab Word := x) | (try clear_value x)); all_goals have x := @id True)
    | with_reducible apply KeepRes.next
    | with_reducible exact KeepRes.fault
    | with_reducible apply KeepRes.ite
    | with_reducible apply Touch.ite
    | with_reducible apply Touch.ite2
    | with_reducible apply Touch.ite22
    | with_reducible refine Touch.foldl _ ?_ (fun v a hv => ?_)
    | with_reducible apply State.tableCw_touch
    | with_reducible refine State.tableCw_keepE (by with_reducible assumption) ?_
    | with_reducible apply State.tableWrite_touch
    | with_reducible apply State.memNotice_touch
    | with_reducible apply State.setMem_touch
    | exact fun h => h
    | exact fun hv => (Mem.wf_iff _).2 ⟨Tab.set_wf _ _ _ _ ((Mem.wf_iff _).1 hv).1, ((Mem.wf_iff _).1 hv).2⟩
    | exact fun hv => (Mem.wf_iff _).2 ⟨putSlots_wf _ _ _ _ _ _ _ ((Mem.wf_iff _).1 hv).1, ((Mem.wf_iff _).1 hv).2⟩
    | split
    | intro _ _ _
    | intro _ _
    | fail_if_no_progress (with_reducible refine Touch.upd ?_)
    | with_reducible apply_assumption


theorem execTbPhaseCompare_keep {a0 a1} (h : Keep s u) : KeepRes s (execTbPhaseCompare a0 a1 u) := by
  unfold execTbPhaseCompare
  have x := @id True
  repeat' first
    | with_reducible assumption
    | exact fun _ _ => trivial
    | exact fun _ => trivial
    | exact trivial
    | (extract_lets +onlyGivenNames x; (fail_if_success have y : True → True := x); (first | (refine (fun (hx : Keep s x) => ?_) ?_; rotate_left; (try unfold x); rotate_left) | (refine (fun (hx : Keep s x.2) => ?_) ?_; rotate_left; (try unfold x); rotate_left) | (refine (fun (hx : Keep s x.2.2) => ?_) ?_; rotate_left; (try unfold x); rotate_left) | (refine (fun (hx : KeepOpt s x) => ?_) ?_; rotate_left; (try unfold x); rotate_left) | (refine (fun (hx : ∀ v : State, Keep s v → Keep s (x v)) => ?_) ?_; rotate_left; (try unfold x); (try intro v hv); rotate_left) | (have y : Mem := x) | (have y : ProtSt := x) | (have y : PoolSt := x) | (have y : PairSt := x) | (have y : HostSt := x) | (have y : TestSt := x) | (have y : Tab Cell := x) | (have y : Tab Word := x) | (try clear_value x)); all_goals have x := @id True)
    | with_reducible apply KeepRes.next
    | with_reducible exact KeepRes.fault
    | with_reducible apply KeepRes.ite
    | with_reducible apply Touch.ite
    | with_reducible refine Touch.foldl _ ?_ (fun v a hv => ?_)
    | with_reducible apply State.inc_touch
    | with_reducible apply State.setF_touch
    | with_reducible apply State.setRegion_touch
    | with_reducible apply State.reclose_keep
    | split
    | intro _ _ _
    | intro _ _
    | fail_if_no_progress (with_reducible refine Touch.upd ?_)
    | with_reducible apply_assumption


theorem execTbLocked_keep {a0} (h : Keep s u) : KeepRes s (execTbLocked a0 u) := by
  unfold execTbLocked
  have x := @id True
  repeat' first
    | with_reducible assumption
    | exact fun _ _ => trivial
    | exact fun _ => trivial
    | exact trivial
    | (extract_lets +onlyGivenNames x; (fail_if_success have y : True → True := x); (first | (refine (fun (hx : Keep s x) => ?_) ?_; rotate_left; (try unfold x); rotate_left) | (refine (fun (hx : Keep s x.2) => ?_) ?_; rotate_left; (try unfold x); rotate_left) | (refine (fun (hx : Keep s x.2.2) => ?_) ?_; rotate_left; (try unfold x); rotate_left) | (refine (fun (hx : KeepOpt s x) => ?_) ?_; rotate_left; (try unfold x); rotate_left) | (refine (fun (hx : ∀ v : State, Keep s v → Keep s (x v)) => ?_) ?_; rotate_left; (try unfold x); (try intro v hv); rotate_left) | (have y : Mem := x) | (have y : ProtSt := x) | (have y : PoolSt := x) | (have y : PairSt := x) | (have y : HostSt := x) | (have y : TestSt := x) | (have y : Tab Cell := x) | (have y : Tab Word := x) | (try clear_value x)); all_goals have x := @id True)
    | with_reducible apply KeepRes.next
    | with_reducible exact KeepRes.fault
    | with_reducible apply KeepRes.ite
    | with_reducible apply Touch.ite
    | with_reducible refine Touch.foldl _ ?_ (fun v a hv => ?_)
    | with_reducible apply State.setF_touch
    | with_reducible apply State.setTb_keep
    | with_reducible apply State.endHold_keep
    | with_reducible apply State.setRegion_touch
    | with_reducible apply State.tbNotice_touch
    | split
    | intro _ _ _
    | intro _ _
    | fail_if_no_progress (with_reducible refine Touch.upd ?_)
    | with_reducible apply_assumption


theorem execTbLockLoss_keep {a0} (h : Keep s u) : KeepRes s (execTbLockLoss a0 u) := by
  unfold execTbLockLoss
  have x := @id True
  repeat' first
    | with_reducible assumption
    | exact fun _ _ => trivial
    | exact fun _ => trivial
    | exact trivial
    | (extract_lets +onlyGivenNames x; (fail_if_success have y : True → True := x); (first | (refine (fun (hx : Keep s x) => ?_) ?_; rotate_left; (try unfold x); rotate_left) | (refine (fun (hx : Keep s x.2) => ?_) ?_; rotate_left; (try unfold x); rotate_left) | (refine (fun (hx : Keep s x.2.2) => ?_) ?_; rotate_left; (try unfold x); rotate_left) | (refine (fun (hx : KeepOpt s x) => ?_) ?_; rotate_left; (try unfold x); rotate_left) | (refine (fun (hx : ∀ v : State, Keep s v → Keep s (x v)) => ?_) ?_; rotate_left; (try unfold x); (try intro v hv); rotate_left) | (have y : Mem := x) | (have y : ProtSt := x) | (have y : PoolSt := x) | (have y : PairSt := x) | (have y : HostSt := x) | (have y : TestSt := x) | (have y : Tab Cell := x) | (have y : Tab Word := x) | (try clear_value x)); all_goals have x := @id True)
    | with_reducible apply KeepRes.next
    | with_reducible exact KeepRes.fault
    | with_reducible apply KeepRes.ite
    | with_reducible apply Touch.ite
    | with_reducible refine Touch.foldl _ ?_ (fun v a hv => ?_)
    | with_reducible apply State.enterHoldover_keep
    | split
    | intro _ _ _
    | intro _ _
    | fail_if_no_progress (with_reducible refine Touch.upd ?_)
    | with_reducible apply_assumption


theorem execTbAcquireTimeout_keep {a0} (h : Keep s u) : KeepRes s (execTbAcquireTimeout a0 u) := by
  unfold execTbAcquireTimeout
  have x := @id True
  repeat' first
    | with_reducible assumption
    | exact fun _ _ => trivial
    | exact fun _ => trivial
    | exact trivial
    | (extract_lets +onlyGivenNames x; (fail_if_success have y : True → True := x); (first | (refine (fun (hx : Keep s x) => ?_) ?_; rotate_left; (try unfold x); rotate_left) | (refine (fun (hx : Keep s x.2) => ?_) ?_; rotate_left; (try unfold x); rotate_left) | (refine (fun (hx : Keep s x.2.2) => ?_) ?_; rotate_left; (try unfold x); rotate_left) | (refine (fun (hx : KeepOpt s x) => ?_) ?_; rotate_left; (try unfold x); rotate_left) | (refine (fun (hx : ∀ v : State, Keep s v → Keep s (x v)) => ?_) ?_; rotate_left; (try unfold x); (try intro v hv); rotate_left) | (have y : Mem := x) | (have y : ProtSt := x) | (have y : PoolSt := x) | (have y : PairSt := x) | (have y : HostSt := x) | (have y : TestSt := x) | (have y : Tab Cell := x) | (have y : Tab Word := x) | (try clear_value x)); all_goals have x := @id True)
    | with_reducible apply KeepRes.next
    | with_reducible exact KeepRes.fault
    | with_reducible apply KeepRes.ite
    | with_reducible apply Touch.ite
    | with_reducible refine Touch.foldl _ ?_ (fun v a hv => ?_)
    | with_reducible apply State.tbFail_keep
    | split
    | intro _ _ _
    | intro _ _
    | fail_if_no_progress (with_reducible refine Touch.upd ?_)
    | with_reducible apply_assumption


theorem execTbRingStopped_keep {a0} (h : Keep s u) : KeepRes s (execTbRingStopped a0 u) := by
  unfold execTbRingStopped
  have x := @id True
  repeat' first
    | with_reducible assumption
    | exact fun _ _ => trivial
    | exact fun _ => trivial
    | exact trivial
    | (extract_lets +onlyGivenNames x; (fail_if_success have y : True → True := x); (first | (refine (fun (hx : Keep s x) => ?_) ?_; rotate_left; (try unfold x); rotate_left) | (refine (fun (hx : Keep s x.2) => ?_) ?_; rotate_left; (try unfold x); rotate_left) | (refine (fun (hx : Keep s x.2.2) => ?_) ?_; rotate_left; (try unfold x); rotate_left) | (refine (fun (hx : KeepOpt s x) => ?_) ?_; rotate_left; (try unfold x); rotate_left) | (refine (fun (hx : ∀ v : State, Keep s v → Keep s (x v)) => ?_) ?_; rotate_left; (try unfold x); (try intro v hv); rotate_left) | (have y : Mem := x) | (have y : ProtSt := x) | (have y : PoolSt := x) | (have y : PairSt := x) | (have y : HostSt := x) | (have y : TestSt := x) | (have y : Tab Cell := x) | (have y : Tab Word := x) | (try clear_value x)); all_goals have x := @id True)
    | with_reducible apply KeepRes.next
    | with_reducible exact KeepRes.fault
    | with_reducible apply KeepRes.ite
    | with_reducible apply Touch.ite
    | with_reducible refine Touch.foldl _ ?_ (fun v a hv => ?_)
    | with_reducible apply State.tbFail_keep
    | split
    | intro _ _ _
    | intro _ _
    | fail_if_no_progress (with_reducible refine Touch.upd ?_)
    | with_reducible apply_assumption


theorem execHoldoverBoundUpdate_keep {a0} (h : Keep s u) : KeepRes s (execHoldoverBoundUpdate a0 u) := by
  unfold execHoldoverBoundUpdate
  have x := @id True
  repeat' first
    | with_reducible assumption
    | exact fun _ _ => trivial
    | exact fun _ => trivial
    | exact trivial
    | (extract_lets +onlyGivenNames x; (fail_if_success have y : True → True := x); (first | (refine (fun (hx : Keep s x) => ?_) ?_; rotate_left; (try unfold x); rotate_left) | (refine (fun (hx : Keep s x.2) => ?_) ?_; rotate_left; (try unfold x); rotate_left) | (refine (fun (hx : Keep s x.2.2) => ?_) ?_; rotate_left; (try unfold x); rotate_left) | (refine (fun (hx : KeepOpt s x) => ?_) ?_; rotate_left; (try unfold x); rotate_left) | (refine (fun (hx : ∀ v : State, Keep s v → Keep s (x v)) => ?_) ?_; rotate_left; (try unfold x); (try intro v hv); rotate_left) | (have y : Mem := x) | (have y : ProtSt := x) | (have y : PoolSt := x) | (have y : PairSt := x) | (have y : HostSt := x) | (have y : TestSt := x) | (have y : Tab Cell := x) | (have y : Tab Word := x) | (try clear_value x)); all_goals have x := @id True)
    | with_reducible apply KeepRes.next
    | with_reducible exact KeepRes.fault
    | with_reducible apply KeepRes.ite
    | with_reducible apply Touch.ite
    | with_reducible refine Touch.foldl _ ?_ (fun v a hv => ?_)
    | with_reducible apply State.publishBound_keep
    | split
    | intro _ _ _
    | intro _ _
    | fail_if_no_progress (with_reducible refine Touch.upd ?_)
    | with_reducible apply_assumption


theorem execCoarseTickVote_keep {a0} (h : Keep s u) : KeepRes s (execCoarseTickVote a0 u) := by
  unfold execCoarseTickVote
  have x := @id True
  repeat' first
    | with_reducible assumption
    | exact fun _ _ => trivial
    | exact fun _ => trivial
    | exact trivial
    | (extract_lets +onlyGivenNames x; (fail_if_success have y : True → True := x); (first | (refine (fun (hx : Keep s x) => ?_) ?_; rotate_left; (try unfold x); rotate_left) | (refine (fun (hx : Keep s x.2) => ?_) ?_; rotate_left; (try unfold x); rotate_left) | (refine (fun (hx : Keep s x.2.2) => ?_) ?_; rotate_left; (try unfold x); rotate_left) | (refine (fun (hx : KeepOpt s x) => ?_) ?_; rotate_left; (try unfold x); rotate_left) | (refine (fun (hx : ∀ v : State, Keep s v → Keep s (x v)) => ?_) ?_; rotate_left; (try unfold x); (try intro v hv); rotate_left) | (have y : Mem := x) | (have y : ProtSt := x) | (have y : PoolSt := x) | (have y : PairSt := x) | (have y : HostSt := x) | (have y : TestSt := x) | (have y : Tab Cell := x) | (have y : Tab Word := x) | (try clear_value x)); all_goals have x := @id True)
    | with_reducible apply KeepRes.next
    | with_reducible exact KeepRes.fault
    | with_reducible apply KeepRes.ite
    | with_reducible apply Touch.ite
    | with_reducible refine Touch.foldl _ ?_ (fun v a hv => ?_)
    | with_reducible apply State.atBoundary_keep
    | with_reducible apply State.closeStarts_keep
    | with_reducible apply State.voteTick_keep
    | split
    | intro _ _ _
    | intro _ _
    | fail_if_no_progress (with_reducible refine Touch.upd ?_)
    | with_reducible apply_assumption


theorem execCoarseWrap_keep (h : Keep s u) : KeepRes s (execCoarseWrap u) := by
  unfold execCoarseWrap
  have x := @id True
  repeat' first
    | with_reducible assumption
    | exact fun _ _ => trivial
    | exact fun _ => trivial
    | exact trivial
    | (extract_lets +onlyGivenNames x; (fail_if_success have y : True → True := x); (first | (refine (fun (hx : Keep s x) => ?_) ?_; rotate_left; (try unfold x); rotate_left) | (refine (fun (hx : Keep s x.2) => ?_) ?_; rotate_left; (try unfold x); rotate_left) | (refine (fun (hx : Keep s x.2.2) => ?_) ?_; rotate_left; (try unfold x); rotate_left) | (refine (fun (hx : KeepOpt s x) => ?_) ?_; rotate_left; (try unfold x); rotate_left) | (refine (fun (hx : ∀ v : State, Keep s v → Keep s (x v)) => ?_) ?_; rotate_left; (try unfold x); (try intro v hv); rotate_left) | (have y : Mem := x) | (have y : ProtSt := x) | (have y : PoolSt := x) | (have y : PairSt := x) | (have y : HostSt := x) | (have y : TestSt := x) | (have y : Tab Cell := x) | (have y : Tab Word := x) | (try clear_value x)); all_goals have x := @id True)
    | with_reducible apply KeepRes.next
    | with_reducible exact KeepRes.fault
    | with_reducible apply KeepRes.ite
    | with_reducible apply Touch.ite
    | with_reducible refine Touch.foldl _ ?_ (fun v a hv => ?_)
    | with_reducible apply State.setFlag_touch
    | split
    | intro _ _ _
    | intro _ _
    | fail_if_no_progress (with_reducible refine Touch.upd ?_)
    | with_reducible apply_assumption


theorem execEpochEdge_keep {a0} (h : Keep s u) : KeepRes s (execEpochEdge a0 u) := by
  unfold execEpochEdge
  have x := @id True
  repeat' first
    | with_reducible assumption
    | exact fun _ _ => trivial
    | exact fun _ => trivial
    | exact trivial
    | (extract_lets +onlyGivenNames x; (fail_if_success have y : True → True := x); (first | (refine (fun (hx : Keep s x) => ?_) ?_; rotate_left; (try unfold x); rotate_left) | (refine (fun (hx : Keep s x.2) => ?_) ?_; rotate_left; (try unfold x); rotate_left) | (refine (fun (hx : Keep s x.2.2) => ?_) ?_; rotate_left; (try unfold x); rotate_left) | (refine (fun (hx : KeepOpt s x) => ?_) ?_; rotate_left; (try unfold x); rotate_left) | (refine (fun (hx : ∀ v : State, Keep s v → Keep s (x v)) => ?_) ?_; rotate_left; (try unfold x); (try intro v hv); rotate_left) | (have y : Mem := x) | (have y : ProtSt := x) | (have y : PoolSt := x) | (have y : PairSt := x) | (have y : HostSt := x) | (have y : TestSt := x) | (have y : Tab Cell := x) | (have y : Tab Word := x) | (try clear_value x)); all_goals have x := @id True)
    | with_reducible apply KeepRes.next
    | with_reducible exact KeepRes.fault
    | with_reducible apply KeepRes.ite
    | with_reducible apply Touch.ite
    | with_reducible refine Touch.foldl _ ?_ (fun v a hv => ?_)
    | with_reducible apply State.inc_touch
    | with_reducible apply State.load_keep
    | with_reducible apply State.setF_touch
    | with_reducible apply State.start_keep
    | split
    | intro _ _ _
    | intro _ _
    | fail_if_no_progress (with_reducible refine Touch.upd ?_)
    | with_reducible apply_assumption


theorem execWindowOpen_keep (h : Keep s u) : KeepRes s (execWindowOpen u) := by
  unfold execWindowOpen
  have x := @id True
  repeat' first
    | with_reducible assumption
    | exact fun _ _ => trivial
    | exact fun _ => trivial
    | exact trivial
    | (extract_lets +onlyGivenNames x; (fail_if_success have y : True → True := x); (first | (refine (fun (hx : Keep s x) => ?_) ?_; rotate_left; (try unfold x); rotate_left) | (refine (fun (hx : Keep s x.2) => ?_) ?_; rotate_left; (try unfold x); rotate_left) | (refine (fun (hx : Keep s x.2.2) => ?_) ?_; rotate_left; (try unfold x); rotate_left) | (refine (fun (hx : KeepOpt s x) => ?_) ?_; rotate_left; (try unfold x); rotate_left) | (refine (fun (hx : ∀ v : State, Keep s v → Keep s (x v)) => ?_) ?_; rotate_left; (try unfold x); (try intro v hv); rotate_left) | (have y : Mem := x) | (have y : ProtSt := x) | (have y : PoolSt := x) | (have y : PairSt := x) | (have y : HostSt := x) | (have y : TestSt := x) | (have y : Tab Cell := x) | (have y : Tab Word := x) | (try clear_value x)); all_goals have x := @id True)
    | with_reducible apply KeepRes.next
    | with_reducible exact KeepRes.fault
    | with_reducible apply KeepRes.ite
    | with_reducible apply Touch.ite
    | with_reducible refine Touch.foldl _ ?_ (fun v a hv => ?_)
    | split
    | intro _ _ _
    | intro _ _
    | fail_if_no_progress (with_reducible refine Touch.upd ?_)
    | with_reducible apply_assumption


theorem execWindowClose_keep (h : Keep s u) : KeepRes s (execWindowClose u) := by
  unfold execWindowClose
  have x := @id True
  repeat' first
    | with_reducible assumption
    | exact fun _ _ => trivial
    | exact fun _ => trivial
    | exact trivial
    | (extract_lets +onlyGivenNames x; (fail_if_success have y : True → True := x); (first | (refine (fun (hx : Keep s x) => ?_) ?_; rotate_left; (try unfold x); rotate_left) | (refine (fun (hx : Keep s x.2) => ?_) ?_; rotate_left; (try unfold x); rotate_left) | (refine (fun (hx : Keep s x.2.2) => ?_) ?_; rotate_left; (try unfold x); rotate_left) | (refine (fun (hx : KeepOpt s x) => ?_) ?_; rotate_left; (try unfold x); rotate_left) | (refine (fun (hx : ∀ v : State, Keep s v → Keep s (x v)) => ?_) ?_; rotate_left; (try unfold x); (try intro v hv); rotate_left) | (have y : Mem := x) | (have y : ProtSt := x) | (have y : PoolSt := x) | (have y : PairSt := x) | (have y : HostSt := x) | (have y : TestSt := x) | (have y : Tab Cell := x) | (have y : Tab Word := x) | (try clear_value x)); all_goals have x := @id True)
    | with_reducible apply KeepRes.next
    | with_reducible exact KeepRes.fault
    | with_reducible apply KeepRes.ite
    | with_reducible apply Touch.ite
    | with_reducible refine Touch.foldl _ ?_ (fun v a hv => ?_)
    | split
    | intro _ _ _
    | intro _ _
    | fail_if_no_progress (with_reducible refine Touch.upd ?_)
    | with_reducible apply_assumption


theorem execStartHoldoffEnd_keep (h : Keep s u) : KeepRes s (execStartHoldoffEnd u) := by
  unfold execStartHoldoffEnd
  have x := @id True
  repeat' first
    | with_reducible assumption
    | exact fun _ _ => trivial
    | exact fun _ => trivial
    | exact trivial
    | (extract_lets +onlyGivenNames x; (fail_if_success have y : True → True := x); (first | (refine (fun (hx : Keep s x) => ?_) ?_; rotate_left; (try unfold x); rotate_left) | (refine (fun (hx : Keep s x.2) => ?_) ?_; rotate_left; (try unfold x); rotate_left) | (refine (fun (hx : Keep s x.2.2) => ?_) ?_; rotate_left; (try unfold x); rotate_left) | (refine (fun (hx : KeepOpt s x) => ?_) ?_; rotate_left; (try unfold x); rotate_left) | (refine (fun (hx : ∀ v : State, Keep s v → Keep s (x v)) => ?_) ?_; rotate_left; (try unfold x); (try intro v hv); rotate_left) | (have y : Mem := x) | (have y : ProtSt := x) | (have y : PoolSt := x) | (have y : PairSt := x) | (have y : HostSt := x) | (have y : TestSt := x) | (have y : Tab Cell := x) | (have y : Tab Word := x) | (try clear_value x)); all_goals have x := @id True)
    | with_reducible apply KeepRes.next
    | with_reducible exact KeepRes.fault
    | with_reducible apply KeepRes.ite
    | with_reducible apply Touch.ite
    | with_reducible refine Touch.foldl _ ?_ (fun v a hv => ?_)
    | split
    | intro _ _ _
    | intro _ _
    | fail_if_no_progress (with_reducible refine Touch.upd ?_)
    | with_reducible apply_assumption


theorem execPowerOn_keep (h : Keep s u) : KeepRes s (execPowerOn u) := by
  unfold execPowerOn
  have x := @id True
  repeat' first
    | with_reducible assumption
    | exact fun _ _ => trivial
    | exact fun _ => trivial
    | exact trivial
    | (extract_lets +onlyGivenNames x; (fail_if_success have y : True → True := x); (first | (refine (fun (hx : Keep s x) => ?_) ?_; rotate_left; (try unfold x); rotate_left) | (refine (fun (hx : Keep s x.2) => ?_) ?_; rotate_left; (try unfold x); rotate_left) | (refine (fun (hx : Keep s x.2.2) => ?_) ?_; rotate_left; (try unfold x); rotate_left) | (refine (fun (hx : KeepOpt s x) => ?_) ?_; rotate_left; (try unfold x); rotate_left) | (refine (fun (hx : ∀ v : State, Keep s v → Keep s (x v)) => ?_) ?_; rotate_left; (try unfold x); (try intro v hv); rotate_left) | (have y : Mem := x) | (have y : ProtSt := x) | (have y : PoolSt := x) | (have y : PairSt := x) | (have y : HostSt := x) | (have y : TestSt := x) | (have y : Tab Cell := x) | (have y : Tab Word := x) | (try clear_value x)); all_goals have x := @id True)
    | with_reducible apply KeepRes.next
    | with_reducible exact KeepRes.fault
    | with_reducible apply KeepRes.ite
    | with_reducible apply Touch.ite
    | with_reducible refine Touch.foldl _ ?_ (fun v a hv => ?_)
    | with_reducible apply State.powerOnReset_keep
    | split
    | intro _ _ _
    | intro _ _
    | fail_if_no_progress (with_reducible refine Touch.upd ?_)
    | with_reducible apply_assumption


theorem execRailFall_keep (h : Keep s u) : KeepRes s (execRailFall u) := by
  unfold execRailFall
  have x := @id True
  repeat' first
    | with_reducible assumption
    | exact fun _ _ => trivial
    | exact fun _ => trivial
    | exact trivial
    | (extract_lets +onlyGivenNames x; (fail_if_success have y : True → True := x); (first | (refine (fun (hx : Keep s x) => ?_) ?_; rotate_left; (try unfold x); rotate_left) | (refine (fun (hx : Keep s x.2) => ?_) ?_; rotate_left; (try unfold x); rotate_left) | (refine (fun (hx : Keep s x.2.2) => ?_) ?_; rotate_left; (try unfold x); rotate_left) | (refine (fun (hx : KeepOpt s x) => ?_) ?_; rotate_left; (try unfold x); rotate_left) | (refine (fun (hx : ∀ v : State, Keep s v → Keep s (x v)) => ?_) ?_; rotate_left; (try unfold x); (try intro v hv); rotate_left) | (have y : Mem := x) | (have y : ProtSt := x) | (have y : PoolSt := x) | (have y : PairSt := x) | (have y : HostSt := x) | (have y : TestSt := x) | (have y : Tab Cell := x) | (have y : Tab Word := x) | (try clear_value x)); all_goals have x := @id True)
    | with_reducible apply KeepRes.next
    | with_reducible exact KeepRes.fault
    | with_reducible apply KeepRes.ite
    | with_reducible apply Touch.ite
    | with_reducible refine Touch.foldl _ ?_ (fun v a hv => ?_)
    | with_reducible apply State.powerOnReset_keep
    | split
    | intro _ _ _
    | intro _ _
    | fail_if_no_progress (with_reducible refine Touch.upd ?_)
    | with_reducible apply_assumption


theorem execResetNLow_keep (h : Keep s u) : KeepRes s (execResetNLow u) := by
  unfold execResetNLow
  have x := @id True
  repeat' first
    | with_reducible assumption
    | exact fun _ _ => trivial
    | exact fun _ => trivial
    | exact trivial
    | (extract_lets +onlyGivenNames x; (fail_if_success have y : True → True := x); (first | (refine (fun (hx : Keep s x) => ?_) ?_; rotate_left; (try unfold x); rotate_left) | (refine (fun (hx : Keep s x.2) => ?_) ?_; rotate_left; (try unfold x); rotate_left) | (refine (fun (hx : Keep s x.2.2) => ?_) ?_; rotate_left; (try unfold x); rotate_left) | (refine (fun (hx : KeepOpt s x) => ?_) ?_; rotate_left; (try unfold x); rotate_left) | (refine (fun (hx : ∀ v : State, Keep s v → Keep s (x v)) => ?_) ?_; rotate_left; (try unfold x); (try intro v hv); rotate_left) | (have y : Mem := x) | (have y : ProtSt := x) | (have y : PoolSt := x) | (have y : PairSt := x) | (have y : HostSt := x) | (have y : TestSt := x) | (have y : Tab Cell := x) | (have y : Tab Word := x) | (try clear_value x)); all_goals have x := @id True)
    | with_reducible apply KeepRes.next
    | with_reducible exact KeepRes.fault
    | with_reducible apply KeepRes.ite
    | with_reducible apply Touch.ite
    | with_reducible refine Touch.foldl _ ?_ (fun v a hv => ?_)
    | with_reducible apply State.loseConfig_keep
    | split
    | intro _ _ _
    | intro _ _
    | fail_if_no_progress (with_reducible refine Touch.upd ?_)
    | with_reducible apply_assumption


theorem execResetRelease_keep {a0 a1 a2} (h : Keep s u) : KeepRes s (execResetRelease a0 a1 a2 u) := by
  unfold execResetRelease
  have x := @id True
  repeat' first
    | with_reducible assumption
    | exact fun _ _ => trivial
    | exact fun _ => trivial
    | exact trivial
    | (extract_lets +onlyGivenNames x; (fail_if_success have y : True → True := x); (first | (refine (fun (hx : Keep s x) => ?_) ?_; rotate_left; (try unfold x); rotate_left) | (refine (fun (hx : Keep s x.2) => ?_) ?_; rotate_left; (try unfold x); rotate_left) | (refine (fun (hx : Keep s x.2.2) => ?_) ?_; rotate_left; (try unfold x); rotate_left) | (refine (fun (hx : KeepOpt s x) => ?_) ?_; rotate_left; (try unfold x); rotate_left) | (refine (fun (hx : ∀ v : State, Keep s v → Keep s (x v)) => ?_) ?_; rotate_left; (try unfold x); (try intro v hv); rotate_left) | (have y : Mem := x) | (have y : ProtSt := x) | (have y : PoolSt := x) | (have y : PairSt := x) | (have y : HostSt := x) | (have y : TestSt := x) | (have y : Tab Cell := x) | (have y : Tab Word := x) | (try clear_value x)); all_goals have x := @id True)
    | with_reducible apply KeepRes.next
    | with_reducible exact KeepRes.fault
    | with_reducible apply KeepRes.ite
    | with_reducible apply Touch.ite
    | with_reducible refine Touch.foldl _ ?_ (fun v a hv => ?_)
    | with_reducible apply State.setTri_touch
    | with_reducible apply State.setF_touch
    | split
    | intro _ _ _
    | intro _ _
    | fail_if_no_progress (with_reducible refine Touch.upd ?_)
    | with_reducible apply_assumption


theorem execBootComplete_keep (h : Keep s u) : KeepRes s (execBootComplete u) := by
  unfold execBootComplete
  have x := @id True
  repeat' first
    | with_reducible assumption
    | exact fun _ _ => trivial
    | exact fun _ => trivial
    | exact trivial
    | (extract_lets +onlyGivenNames x; (fail_if_success have y : True → True := x); (first | (refine (fun (hx : Keep s x) => ?_) ?_; rotate_left; (try unfold x); rotate_left) | (refine (fun (hx : Keep s x.2) => ?_) ?_; rotate_left; (try unfold x); rotate_left) | (refine (fun (hx : Keep s x.2.2) => ?_) ?_; rotate_left; (try unfold x); rotate_left) | (refine (fun (hx : KeepOpt s x) => ?_) ?_; rotate_left; (try unfold x); rotate_left) | (refine (fun (hx : ∀ v : State, Keep s v → Keep s (x v)) => ?_) ?_; rotate_left; (try unfold x); (try intro v hv); rotate_left) | (have y : Mem := x) | (have y : ProtSt := x) | (have y : PoolSt := x) | (have y : PairSt := x) | (have y : HostSt := x) | (have y : TestSt := x) | (have y : Tab Cell := x) | (have y : Tab Word := x) | (try clear_value x)); all_goals have x := @id True)
    | with_reducible apply KeepRes.next
    | with_reducible exact KeepRes.fault
    | with_reducible apply KeepRes.ite
    | with_reducible apply Touch.ite
    | with_reducible apply Touch.ite2
    | with_reducible apply Touch.ite22
    | with_reducible refine Touch.foldl _ ?_ (fun v a hv => ?_)
    | with_reducible apply State.bootReads_keep
    | with_reducible refine State.bootReads_keepE (by with_reducible assumption) ?_
    | with_reducible apply State.answerOwed_keep
    | with_reducible apply State.enterLinkup_keep
    | split
    | intro _ _ _
    | intro _ _
    | fail_if_no_progress (with_reducible refine Touch.upd ?_)
    | with_reducible apply_assumption


theorem execFirmwareRestartDone_keep (h : Keep s u) : KeepRes s (execFirmwareRestartDone u) := by
  unfold execFirmwareRestartDone
  have x := @id True
  repeat' first
    | with_reducible assumption
    | exact fun _ _ => trivial
    | exact fun _ => trivial
    | exact trivial
    | (extract_lets +onlyGivenNames x; (fail_if_success have y : True → True := x); (first | (refine (fun (hx : Keep s x) => ?_) ?_; rotate_left; (try unfold x); rotate_left) | (refine (fun (hx : Keep s x.2) => ?_) ?_; rotate_left; (try unfold x); rotate_left) | (refine (fun (hx : Keep s x.2.2) => ?_) ?_; rotate_left; (try unfold x); rotate_left) | (refine (fun (hx : KeepOpt s x) => ?_) ?_; rotate_left; (try unfold x); rotate_left) | (refine (fun (hx : ∀ v : State, Keep s v → Keep s (x v)) => ?_) ?_; rotate_left; (try unfold x); (try intro v hv); rotate_left) | (have y : Mem := x) | (have y : ProtSt := x) | (have y : PoolSt := x) | (have y : PairSt := x) | (have y : HostSt := x) | (have y : TestSt := x) | (have y : Tab Cell := x) | (have y : Tab Word := x) | (try clear_value x)); all_goals have x := @id True)
    | with_reducible apply KeepRes.next
    | with_reducible exact KeepRes.fault
    | with_reducible apply KeepRes.ite
    | with_reducible apply Touch.ite
    | with_reducible apply Touch.ite2
    | with_reducible apply Touch.ite22
    | with_reducible refine Touch.foldl _ ?_ (fun v a hv => ?_)
    | with_reducible apply State.bootReads_keep
    | with_reducible refine State.bootReads_keepE (by with_reducible assumption) ?_
    | with_reducible apply State.ramRewritten_keep
    | with_reducible apply State.answerOwed_keep
    | with_reducible apply State.bootNotice_keep
    | with_reducible apply State.retake_keep
    | with_reducible apply State.enterSafe_keep
    | split
    | intro _ _ _
    | intro _ _
    | fail_if_no_progress (with_reducible refine Touch.upd ?_)
    | with_reducible apply_assumption


theorem execPerstNEvent_keep {a0} (h : Keep s u) : KeepRes s (execPerstNEvent a0 u) := by
  unfold execPerstNEvent
  apply KeepRes.next
  extract_lets src v w src2
  have hv : Keep s v := h.upd
  exact Touch.ite hv (Touch.upd (State.functionReset_keep hv))


theorem execFunctionLevelReset_keep (h : Keep s u) : KeepRes s (execFunctionLevelReset u) := by
  unfold execFunctionLevelReset
  have x := @id True
  repeat' first
    | with_reducible assumption
    | exact fun _ _ => trivial
    | exact fun _ => trivial
    | exact trivial
    | (extract_lets +onlyGivenNames x; (fail_if_success have y : True → True := x); (first | (refine (fun (hx : Keep s x) => ?_) ?_; rotate_left; (try unfold x); rotate_left) | (refine (fun (hx : Keep s x.2) => ?_) ?_; rotate_left; (try unfold x); rotate_left) | (refine (fun (hx : Keep s x.2.2) => ?_) ?_; rotate_left; (try unfold x); rotate_left) | (refine (fun (hx : KeepOpt s x) => ?_) ?_; rotate_left; (try unfold x); rotate_left) | (refine (fun (hx : ∀ v : State, Keep s v → Keep s (x v)) => ?_) ?_; rotate_left; (try unfold x); (try intro v hv); rotate_left) | (have y : Mem := x) | (have y : ProtSt := x) | (have y : PoolSt := x) | (have y : PairSt := x) | (have y : HostSt := x) | (have y : TestSt := x) | (have y : Tab Cell := x) | (have y : Tab Word := x) | (try clear_value x)); all_goals have x := @id True)
    | with_reducible apply KeepRes.next
    | with_reducible exact KeepRes.fault
    | with_reducible apply KeepRes.ite
    | with_reducible apply Touch.ite
    | with_reducible refine Touch.foldl _ ?_ (fun v a hv => ?_)
    | with_reducible apply State.functionReset_keep
    | split
    | intro _ _ _
    | intro _ _
    | fail_if_no_progress (with_reducible refine Touch.upd ?_)
    | with_reducible apply_assumption


theorem execPciePowerStateChange_keep {a0 a1 a2} (h : Keep s u) : KeepRes s (execPciePowerStateChange a0 a1 a2 u) := by
  unfold execPciePowerStateChange
  have x := @id True
  repeat' first
    | with_reducible assumption
    | exact fun _ _ => trivial
    | exact fun _ => trivial
    | exact trivial
    | (extract_lets +onlyGivenNames x; (fail_if_success have y : True → True := x); (first | (refine (fun (hx : Keep s x) => ?_) ?_; rotate_left; (try unfold x); rotate_left) | (refine (fun (hx : Keep s x.2) => ?_) ?_; rotate_left; (try unfold x); rotate_left) | (refine (fun (hx : Keep s x.2.2) => ?_) ?_; rotate_left; (try unfold x); rotate_left) | (refine (fun (hx : KeepOpt s x) => ?_) ?_; rotate_left; (try unfold x); rotate_left) | (refine (fun (hx : ∀ v : State, Keep s v → Keep s (x v)) => ?_) ?_; rotate_left; (try unfold x); (try intro v hv); rotate_left) | (have y : Mem := x) | (have y : ProtSt := x) | (have y : PoolSt := x) | (have y : PairSt := x) | (have y : HostSt := x) | (have y : TestSt := x) | (have y : Tab Cell := x) | (have y : Tab Word := x) | (try clear_value x)); all_goals have x := @id True)
    | with_reducible apply KeepRes.next
    | with_reducible exact KeepRes.fault
    | with_reducible apply KeepRes.ite
    | with_reducible apply Touch.ite
    | with_reducible refine Touch.foldl _ ?_ (fun v a hv => ?_)
    | with_reducible apply State.msixFlushAll_keep
    | with_reducible apply State.emit_touch
    | split
    | intro _ _ _
    | intro _ _
    | fail_if_no_progress (with_reducible refine Touch.upd ?_)
    | with_reducible apply_assumption


theorem execPcieLinkLoss_keep (h : Keep s u) : KeepRes s (execPcieLinkLoss u) := by
  unfold execPcieLinkLoss
  have x := @id True
  repeat' first
    | with_reducible assumption
    | exact fun _ _ => trivial
    | exact fun _ => trivial
    | exact trivial
    | (extract_lets +onlyGivenNames x; (fail_if_success have y : True → True := x); (first | (refine (fun (hx : Keep s x) => ?_) ?_; rotate_left; (try unfold x); rotate_left) | (refine (fun (hx : Keep s x.2) => ?_) ?_; rotate_left; (try unfold x); rotate_left) | (refine (fun (hx : Keep s x.2.2) => ?_) ?_; rotate_left; (try unfold x); rotate_left) | (refine (fun (hx : KeepOpt s x) => ?_) ?_; rotate_left; (try unfold x); rotate_left) | (refine (fun (hx : ∀ v : State, Keep s v → Keep s (x v)) => ?_) ?_; rotate_left; (try unfold x); (try intro v hv); rotate_left) | (have y : Mem := x) | (have y : ProtSt := x) | (have y : PoolSt := x) | (have y : PairSt := x) | (have y : HostSt := x) | (have y : TestSt := x) | (have y : Tab Cell := x) | (have y : Tab Word := x) | (try clear_value x)); all_goals have x := @id True)
    | with_reducible apply KeepRes.next
    | with_reducible exact KeepRes.fault
    | with_reducible apply KeepRes.ite
    | with_reducible apply Touch.ite
    | with_reducible refine Touch.foldl _ ?_ (fun v a hv => ?_)
    | split
    | intro _ _ _
    | intro _ _
    | fail_if_no_progress (with_reducible refine Touch.upd ?_)
    | with_reducible apply_assumption


end Sys2Proof.Machine
end

