-- ==== Sys2Proof/Laws/KeepCell.lean ====
section
/-! SUPPORT. Every operation of these files keeps the invariant, the queue and what has left the node (`Keep`):
Machine/CellOps, Machine/Cell, Machine/Acq, Machine/Stage. -/

set_option Elab.async false
set_option linter.tactic.unusedName false
set_option linter.unusedTactic false
set_option linter.unreachableTactic false
set_option linter.unusedVariables false
set_option linter.unusedSimpArgs false

namespace Sys2Proof.Machine

variable {s u : State}

theorem State.readSample_keep {a1 a2} (h : Keep s u) : Keep s (State.readSample u a1 a2).2 := by
  unfold State.readSample
  have x := @id True
  repeat' first
    | with_reducible assumption
    | exact fun _ _ => trivial
    | exact fun _ => trivial
    | exact trivial
    | (extract_lets +onlyGivenNames x; (fail_if_success have y : True → True := x); (first | (refine (fun (hx : Keep s x) => ?_) ?_; rotate_left; (try unfold x); rotate_left) | (refine (fun (hx : Keep s x.2) => ?_) ?_; rotate_left; (try unfold x); rotate_left) | (refine (fun (hx : Keep s x.2.2) => ?_) ?_; rotate_left; (try unfold x); rotate_left) | (refine (fun (hx : KeepOpt s x) => ?_) ?_; rotate_left; (try unfold x); rotate_left) | (refine (fun (hx : ∀ v : State, Keep s v → Keep s (x v)) => ?_) ?_; rotate_left; (try unfold x); (try intro v hv); rotate_left) | (have y : Mem := x) | (have y : ProtSt := x) | (have y : PoolSt := x) | (have y : PairSt := x) | (have y : HostSt := x) | (have y : TestSt := x) | (have y : Tab Cell := x) | (have y : Tab Word := x) | (try clear_value x)); all_goals have x := @id True)
    | with_reducible apply Touch.ite
    | with_reducible apply Touch.ite2
    | with_reducible apply Touch.ite22
    | with_reducible refine Touch.foldl _ ?_ (fun v a hv => ?_)
    | with_reducible apply State.readContainer_keep
    | with_reducible refine State.readContainer_keepE (by with_reducible assumption) ?_
    | with_reducible apply State.drawn_touch
    | split
    | intro _ _ _
    | intro _ _
    | fail_if_no_progress (with_reducible refine Touch.upd ?_)
    | with_reducible apply_assumption

theorem State.readSample_keepE {a1 a2} {x v} (e : (State.readSample u a1 a2) = (x, v)) (h : Keep s u) : Keep s v := by
  have h2 := State.readSample_keep (u := u) (a1 := a1) (a2 := a2) h; rw [e] at h2; exact h2


theorem State.qWindow_keep {a0 a2 a3 a4} (h : Keep s u) : Keep s (State.qWindow a0 u a2 a3 a4).2 := by
  induction a0 generalizing u a2 a3 a4 with
  | zero => exact h
  | succ n ih =>
    unfold State.qWindow
    have x := @id True
    repeat' first
      | with_reducible assumption
      | exact fun _ _ => trivial
      | exact fun _ => trivial
      | exact trivial
      | (extract_lets +onlyGivenNames x; (fail_if_success have y : True → True := x); (first | (refine (fun (hx : Keep s x) => ?_) ?_; rotate_left; (try unfold x); rotate_left) | (refine (fun (hx : Keep s x.2) => ?_) ?_; rotate_left; (try unfold x); rotate_left) | (refine (fun (hx : Keep s x.2.2) => ?_) ?_; rotate_left; (try unfold x); rotate_left) | (refine (fun (hx : KeepOpt s x) => ?_) ?_; rotate_left; (try unfold x); rotate_left) | (refine (fun (hx : ∀ v : State, Keep s v → Keep s (x v)) => ?_) ?_; rotate_left; (try unfold x); (try intro v hv); rotate_left) | (have y : Mem := x) | (have y : ProtSt := x) | (have y : PoolSt := x) | (have y : PairSt := x) | (have y : HostSt := x) | (have y : TestSt := x) | (have y : Tab Cell := x) | (have y : Tab Word := x) | (try clear_value x)); all_goals have x := @id True)
      | with_reducible apply Touch.ite
      | with_reducible apply Touch.ite2
      | with_reducible apply Touch.ite22
      | with_reducible apply ih
      | with_reducible refine Touch.foldl _ ?_ (fun v a hv => ?_)
      | with_reducible apply State.readSample_keep
      | with_reducible refine State.readSample_keepE (by with_reducible assumption) ?_
      | split
      | intro _ _ _
      | intro _ _
      | fail_if_no_progress (with_reducible refine Touch.upd ?_)
      | with_reducible apply_assumption

theorem State.qWindow_keepE {a0 a2 a3 a4} {x v} (e : (State.qWindow a0 u a2 a3 a4) = (x, v)) (h : Keep s u) : Keep s v := by
  have h2 := State.qWindow_keep (u := u) (a0 := a0) (a2 := a2) (a3 := a3) (a4 := a4) h; rw [e] at h2; exact h2


theorem State.inlRead_keep {a1 a2} (h : Keep s u) : Keep s (State.inlRead u a1 a2).2 := by
  unfold State.inlRead
  have x := @id True
  repeat' first
    | with_reducible assumption
    | exact fun _ _ => trivial
    | exact fun _ => trivial
    | exact trivial
    | (extract_lets +onlyGivenNames x; (fail_if_success have y : True → True := x); (first | (refine (fun (hx : Keep s x) => ?_) ?_; rotate_left; (try unfold x); rotate_left) | (refine (fun (hx : Keep s x.2) => ?_) ?_; rotate_left; (try unfold x); rotate_left) | (refine (fun (hx : Keep s x.2.2) => ?_) ?_; rotate_left; (try unfold x); rotate_left) | (refine (fun (hx : KeepOpt s x) => ?_) ?_; rotate_left; (try unfold x); rotate_left) | (refine (fun (hx : ∀ v : State, Keep s v → Keep s (x v)) => ?_) ?_; rotate_left; (try unfold x); (try intro v hv); rotate_left) | (have y : Mem := x) | (have y : ProtSt := x) | (have y : PoolSt := x) | (have y : PairSt := x) | (have y : HostSt := x) | (have y : TestSt := x) | (have y : Tab Cell := x) | (have y : Tab Word := x) | (try clear_value x)); all_goals have x := @id True)
    | with_reducible apply Touch.ite
    | with_reducible apply Touch.ite2
    | with_reducible apply Touch.ite22
    | with_reducible refine Touch.foldl _ ?_ (fun v a hv => ?_)
    | with_reducible apply State.tableCw_touch
    | with_reducible refine State.tableCw_keepE (by with_reducible assumption) ?_
    | split
    | intro _ _ _
    | intro _ _
    | fail_if_no_progress (with_reducible refine Touch.upd ?_)
    | with_reducible apply_assumption

theorem State.inlRead_keepE {a1 a2} {x v} (e : (State.inlRead u a1 a2) = (x, v)) (h : Keep s u) : Keep s v := by
  have h2 := State.inlRead_keep (u := u) (a1 := a1) (a2 := a2) h; rw [e] at h2; exact h2


theorem State.inlTable_keep {a1} (h : Keep s u) : Keep s (State.inlTable u a1).2 := by
  unfold State.inlTable
  suffices ∀ (l : List Nat) (b : Tab Int × Nat) (v : State), Keep s v → Keep s (l.foldl (fun (r : (Tab Int × Nat) × State) (g : Nat) =>
      let x := r.2.tableCw (Config.inlWord a1 (u.cell a1).activeB g)
      (dropEntries r.1 g x.1, x.2)) (b, v)).2 from this _ _ _ h
  intro l
  induction l with
  | nil => exact fun _ _ h => h
  | cons a l ih => exact fun _ _ h => ih _ _ (State.tableCw_touch h fun _ _ => trivial)

theorem State.inlTable_keepE {a1} {x v} (e : (State.inlTable u a1) = (x, v)) (h : Keep s u) : Keep s v := by
  have h2 := State.inlTable_keep (u := u) (a1 := a1) h; rw [e] at h2; exact h2


theorem State.calLoad_keep {a1 a2} (h : Keep s u) : Keep s (State.calLoad u a1 a2) := by
  unfold State.calLoad
  have x := @id True
  repeat' first
    | with_reducible assumption
    | exact fun _ _ => trivial
    | exact fun _ => trivial
    | exact trivial
    | (extract_lets +onlyGivenNames x; (fail_if_success have y : True → True := x); (first | (refine (fun (hx : Keep s x) => ?_) ?_; rotate_left; (try unfold x); rotate_left) | (refine (fun (hx : Keep s x.2) => ?_) ?_; rotate_left; (try unfold x); rotate_left) | (refine (fun (hx : Keep s x.2.2) => ?_) ?_; rotate_left; (try unfold x); rotate_left) | (refine (fun (hx : KeepOpt s x) => ?_) ?_; rotate_left; (try unfold x); rotate_left) | (refine (fun (hx : ∀ v : State, Keep s v → Keep s (x v)) => ?_) ?_; rotate_left; (try unfold x); (try intro v hv); rotate_left) | (have y : Mem := x) | (have y : ProtSt := x) | (have y : PoolSt := x) | (have y : PairSt := x) | (have y : HostSt := x) | (have y : TestSt := x) | (have y : Tab Cell := x) | (have y : Tab Word := x) | (try clear_value x)); all_goals have x := @id True)
    | with_reducible apply Touch.ite
    | with_reducible refine Touch.foldl _ ?_ (fun v a hv => ?_)
    | with_reducible apply State.tableWrite_touch
    | with_reducible apply State.setCell_touch
    | split
    | intro _ _ _
    | intro _ _
    | fail_if_no_progress (with_reducible refine Touch.upd ?_)
    | with_reducible apply_assumption


theorem State.drawTable_keep (h : Keep s u) : Keep s (State.drawTable u) := by
  unfold State.drawTable
  have x := @id True
  repeat' first
    | with_reducible assumption
    | exact fun _ _ => trivial
    | exact fun _ => trivial
    | exact trivial
    | (extract_lets +onlyGivenNames x; (fail_if_success have y : True → True := x); (first | (refine (fun (hx : Keep s x) => ?_) ?_; rotate_left; (try unfold x); rotate_left) | (refine (fun (hx : Keep s x.2) => ?_) ?_; rotate_left; (try unfold x); rotate_left) | (refine (fun (hx : Keep s x.2.2) => ?_) ?_; rotate_left; (try unfold x); rotate_left) | (refine (fun (hx : KeepOpt s x) => ?_) ?_; rotate_left; (try unfold x); rotate_left) | (refine (fun (hx : ∀ v : State, Keep s v → Keep s (x v)) => ?_) ?_; rotate_left; (try unfold x); (try intro v hv); rotate_left) | (have y : Mem := x) | (have y : ProtSt := x) | (have y : PoolSt := x) | (have y : PairSt := x) | (have y : HostSt := x) | (have y : TestSt := x) | (have y : Tab Cell := x) | (have y : Tab Word := x) | (try clear_value x)); all_goals have x := @id True)
    | with_reducible apply Touch.ite
    | with_reducible refine Touch.foldl _ ?_ (fun v a hv => ?_)
    | split
    | intro _ _ _
    | intro _ _
    | fail_if_no_progress (with_reducible refine Touch.upd ?_)
    | with_reducible apply_assumption


theorem State.setRun_keep {a1 a2} (h : Keep s u) : Keep s (State.setRun u a1 a2) := by
  unfold State.setRun
  have x := @id True
  repeat' first
    | with_reducible assumption
    | exact fun _ _ => trivial
    | exact fun _ => trivial
    | exact trivial
    | (extract_lets +onlyGivenNames x; (fail_if_success have y : True → True := x); (first | (refine (fun (hx : Keep s x) => ?_) ?_; rotate_left; (try unfold x); rotate_left) | (refine (fun (hx : Keep s x.2) => ?_) ?_; rotate_left; (try unfold x); rotate_left) | (refine (fun (hx : Keep s x.2.2) => ?_) ?_; rotate_left; (try unfold x); rotate_left) | (refine (fun (hx : KeepOpt s x) => ?_) ?_; rotate_left; (try unfold x); rotate_left) | (refine (fun (hx : ∀ v : State, Keep s v → Keep s (x v)) => ?_) ?_; rotate_left; (try unfold x); (try intro v hv); rotate_left) | (have y : Mem := x) | (have y : ProtSt := x) | (have y : PoolSt := x) | (have y : PairSt := x) | (have y : HostSt := x) | (have y : TestSt := x) | (have y : Tab Cell := x) | (have y : Tab Word := x) | (try clear_value x)); all_goals have x := @id True)
    | with_reducible apply Touch.ite
    | with_reducible refine Touch.foldl _ ?_ (fun v a hv => ?_)
    | with_reducible apply State.setCell_touch
    | split
    | intro _ _ _
    | intro _ _
    | fail_if_no_progress (with_reducible refine Touch.upd ?_)
    | with_reducible apply_assumption


theorem State.calCount_keep {a1 a2} (h : Keep s u) : Keep s (State.calCount u a1 a2) := by
  unfold State.calCount
  have x := @id True
  repeat' first
    | with_reducible assumption
    | exact fun _ _ => trivial
    | exact fun _ => trivial
    | exact trivial
    | (extract_lets +onlyGivenNames x; (fail_if_success have y : True → True := x); (first | (refine (fun (hx : Keep s x) => ?_) ?_; rotate_left; (try unfold x); rotate_left) | (refine (fun (hx : Keep s x.2) => ?_) ?_; rotate_left; (try unfold x); rotate_left) | (refine (fun (hx : Keep s x.2.2) => ?_) ?_; rotate_left; (try unfold x); rotate_left) | (refine (fun (hx : KeepOpt s x) => ?_) ?_; rotate_left; (try unfold x); rotate_left) | (refine (fun (hx : ∀ v : State, Keep s v → Keep s (x v)) => ?_) ?_; rotate_left; (try unfold x); (try intro v hv); rotate_left) | (have y : Mem := x) | (have y : ProtSt := x) | (have y : PoolSt := x) | (have y : PairSt := x) | (have y : HostSt := x) | (have y : TestSt := x) | (have y : Tab Cell := x) | (have y : Tab Word := x) | (try clear_value x)); all_goals have x := @id True)
    | with_reducible apply Touch.ite
    | with_reducible refine Touch.foldl _ ?_ (fun v a hv => ?_)
    | with_reducible apply State.setCell_touch
    | split
    | intro _ _ _
    | intro _ _
    | fail_if_no_progress (with_reducible refine Touch.upd ?_)
    | with_reducible apply_assumption


theorem State.acceptStop_keep {a1 a2} (h : Keep s u) : Keep s (State.acceptStop u a1 a2).2 := by
  unfold State.acceptStop
  have x := @id True
  repeat' first
    | with_reducible assumption
    | exact fun _ _ => trivial
    | exact fun _ => trivial
    | exact trivial
    | (extract_lets +onlyGivenNames x; (fail_if_success have y : True → True := x); (first | (refine (fun (hx : Keep s x) => ?_) ?_; rotate_left; (try unfold x); rotate_left) | (refine (fun (hx : Keep s x.2) => ?_) ?_; rotate_left; (try unfold x); rotate_left) | (refine (fun (hx : Keep s x.2.2) => ?_) ?_; rotate_left; (try unfold x); rotate_left) | (refine (fun (hx : KeepOpt s x) => ?_) ?_; rotate_left; (try unfold x); rotate_left) | (refine (fun (hx : ∀ v : State, Keep s v → Keep s (x v)) => ?_) ?_; rotate_left; (try unfold x); (try intro v hv); rotate_left) | (have y : Mem := x) | (have y : ProtSt := x) | (have y : PoolSt := x) | (have y : PairSt := x) | (have y : HostSt := x) | (have y : TestSt := x) | (have y : Tab Cell := x) | (have y : Tab Word := x) | (try clear_value x)); all_goals have x := @id True)
    | with_reducible apply Touch.ite
    | with_reducible apply Touch.ite2
    | with_reducible apply Touch.ite22
    | with_reducible refine Touch.foldl _ ?_ (fun v a hv => ?_)
    | with_reducible apply State.inc_touch
    | with_reducible apply State.setCell_touch
    | split
    | intro _ _ _
    | intro _ _
    | fail_if_no_progress (with_reducible refine Touch.upd ?_)
    | with_reducible apply_assumption

theorem State.acceptStop_keepE {a1 a2} {x v} (e : (State.acceptStop u a1 a2) = (x, v)) (h : Keep s u) : Keep s v := by
  have h2 := State.acceptStop_keep (u := u) (a1 := a1) (a2 := a2) h; rw [e] at h2; exact h2


theorem State.coincidence_keep {a1 a2} (h : Keep s u) : Keep s (State.coincidence u a1 a2) := by
  unfold State.coincidence
  have x := @id True
  repeat' first
    | with_reducible assumption
    | exact fun _ _ => trivial
    | exact fun _ => trivial
    | exact trivial
    | (extract_lets +onlyGivenNames x; (fail_if_success have y : True → True := x); (first | (refine (fun (hx : Keep s x) => ?_) ?_; rotate_left; (try unfold x); rotate_left) | (refine (fun (hx : Keep s x.2) => ?_) ?_; rotate_left; (try unfold x); rotate_left) | (refine (fun (hx : Keep s x.2.2) => ?_) ?_; rotate_left; (try unfold x); rotate_left) | (refine (fun (hx : KeepOpt s x) => ?_) ?_; rotate_left; (try unfold x); rotate_left) | (refine (fun (hx : ∀ v : State, Keep s v → Keep s (x v)) => ?_) ?_; rotate_left; (try unfold x); (try intro v hv); rotate_left) | (have y : Mem := x) | (have y : ProtSt := x) | (have y : PoolSt := x) | (have y : PairSt := x) | (have y : HostSt := x) | (have y : TestSt := x) | (have y : Tab Cell := x) | (have y : Tab Word := x) | (try clear_value x)); all_goals have x := @id True)
    | with_reducible apply Touch.ite
    | with_reducible refine Touch.foldl _ ?_ (fun v a hv => ?_)
    | with_reducible apply State.selfTrigger_keep
    | with_reducible apply State.setBlock_touch
    | split
    | intro _ _ _
    | intro _ _
    | fail_if_no_progress (with_reducible refine Touch.upd ?_)
    | with_reducible apply_assumption


theorem State.cellTrigger_keep {a1 a2} (h : Keep s u) : Keep s (State.cellTrigger u a1 a2) := by
  unfold State.cellTrigger
  have x := @id True
  repeat' first
    | with_reducible assumption
    | exact fun _ _ => trivial
    | exact fun _ => trivial
    | exact trivial
    | (extract_lets +onlyGivenNames x; (fail_if_success have y : True → True := x); (first | (refine (fun (hx : Keep s x) => ?_) ?_; rotate_left; (try unfold x); rotate_left) | (refine (fun (hx : Keep s x.2) => ?_) ?_; rotate_left; (try unfold x); rotate_left) | (refine (fun (hx : Keep s x.2.2) => ?_) ?_; rotate_left; (try unfold x); rotate_left) | (refine (fun (hx : KeepOpt s x) => ?_) ?_; rotate_left; (try unfold x); rotate_left) | (refine (fun (hx : ∀ v : State, Keep s v → Keep s (x v)) => ?_) ?_; rotate_left; (try unfold x); (try intro v hv); rotate_left) | (have y : Mem := x) | (have y : ProtSt := x) | (have y : PoolSt := x) | (have y : PairSt := x) | (have y : HostSt := x) | (have y : TestSt := x) | (have y : Tab Cell := x) | (have y : Tab Word := x) | (try clear_value x)); all_goals have x := @id True)
    | with_reducible apply Touch.ite
    | with_reducible refine Touch.foldl _ ?_ (fun v a hv => ?_)
    | with_reducible apply State.selfTrigger_keep
    | split
    | intro _ _ _
    | intro _ _
    | fail_if_no_progress (with_reducible refine Touch.upd ?_)
    | with_reducible apply_assumption


theorem State.edgeTriggers_keep {a1 a2} (h : Keep s u) : Keep s (State.edgeTriggers u a1 a2) := by
  unfold State.edgeTriggers
  have x := @id True
  repeat' first
    | with_reducible assumption
    | exact fun _ _ => trivial
    | exact fun _ => trivial
    | exact trivial
    | (extract_lets +onlyGivenNames x; (fail_if_success have y : True → True := x); (first | (refine (fun (hx : Keep s x) => ?_) ?_; rotate_left; (try unfold x); rotate_left) | (refine (fun (hx : Keep s x.2) => ?_) ?_; rotate_left; (try unfold x); rotate_left) | (refine (fun (hx : Keep s x.2.2) => ?_) ?_; rotate_left; (try unfold x); rotate_left) | (refine (fun (hx : KeepOpt s x) => ?_) ?_; rotate_left; (try unfold x); rotate_left) | (refine (fun (hx : ∀ v : State, Keep s v → Keep s (x v)) => ?_) ?_; rotate_left; (try unfold x); (try intro v hv); rotate_left) | (have y : Mem := x) | (have y : ProtSt := x) | (have y : PoolSt := x) | (have y : PairSt := x) | (have y : HostSt := x) | (have y : TestSt := x) | (have y : Tab Cell := x) | (have y : Tab Word := x) | (try clear_value x)); all_goals have x := @id True)
    | with_reducible apply Touch.ite
    | with_reducible refine Touch.foldl _ ?_ (fun v a hv => ?_)
    | with_reducible apply State.coincidence_keep
    | with_reducible apply State.cellTrigger_keep
    | with_reducible apply State.drawn_touch
    | split
    | intro _ _ _
    | intro _ _
    | fail_if_no_progress (with_reducible refine Touch.upd ?_)
    | with_reducible apply_assumption


theorem State.strike_keep {a1 a2} (h : Keep s u) : Keep s (State.strike u a1 a2) := by
  unfold State.strike
  have x := @id True
  repeat' first
    | with_reducible assumption
    | exact fun _ _ => trivial
    | exact fun _ => trivial
    | exact trivial
    | (extract_lets +onlyGivenNames x; (fail_if_success have y : True → True := x); (first | (refine (fun (hx : Keep s x) => ?_) ?_; rotate_left; (try unfold x); rotate_left) | (refine (fun (hx : Keep s x.2) => ?_) ?_; rotate_left; (try unfold x); rotate_left) | (refine (fun (hx : Keep s x.2.2) => ?_) ?_; rotate_left; (try unfold x); rotate_left) | (refine (fun (hx : KeepOpt s x) => ?_) ?_; rotate_left; (try unfold x); rotate_left) | (refine (fun (hx : ∀ v : State, Keep s v → Keep s (x v)) => ?_) ?_; rotate_left; (try unfold x); (try intro v hv); rotate_left) | (have y : Mem := x) | (have y : ProtSt := x) | (have y : PoolSt := x) | (have y : PairSt := x) | (have y : HostSt := x) | (have y : TestSt := x) | (have y : Tab Cell := x) | (have y : Tab Word := x) | (try clear_value x)); all_goals have x := @id True)
    | with_reducible apply Touch.ite
    | with_reducible refine Touch.foldl _ ?_ (fun v a hv => ?_)
    | with_reducible apply State.setCell_touch
    | split
    | intro _ _ _
    | intro _ _
    | fail_if_no_progress (with_reducible refine Touch.upd ?_)
    | with_reducible apply_assumption


theorem State.judgeStop_keep {a1 a2} (h : Keep s u) : Keep s (State.judgeStop u a1 a2).2 := by
  unfold State.judgeStop
  have x := @id True
  repeat' first
    | with_reducible assumption
    | exact fun _ _ => trivial
    | exact fun _ => trivial
    | exact trivial
    | (extract_lets +onlyGivenNames x; (fail_if_success have y : True → True := x); (first | (refine (fun (hx : Keep s x) => ?_) ?_; rotate_left; (try unfold x); rotate_left) | (refine (fun (hx : Keep s x.2) => ?_) ?_; rotate_left; (try unfold x); rotate_left) | (refine (fun (hx : Keep s x.2.2) => ?_) ?_; rotate_left; (try unfold x); rotate_left) | (refine (fun (hx : KeepOpt s x) => ?_) ?_; rotate_left; (try unfold x); rotate_left) | (refine (fun (hx : ∀ v : State, Keep s v → Keep s (x v)) => ?_) ?_; rotate_left; (try unfold x); (try intro v hv); rotate_left) | (have y : Mem := x) | (have y : ProtSt := x) | (have y : PoolSt := x) | (have y : PairSt := x) | (have y : HostSt := x) | (have y : TestSt := x) | (have y : Tab Cell := x) | (have y : Tab Word := x) | (try clear_value x)); all_goals have x := @id True)
    | with_reducible apply Touch.ite
    | with_reducible apply Touch.ite2
    | with_reducible apply Touch.ite22
    | with_reducible refine Touch.foldl _ ?_ (fun v a hv => ?_)
    | with_reducible apply State.acceptStop_keep
    | with_reducible refine State.acceptStop_keepE (by with_reducible assumption) ?_
    | split
    | intro _ _ _
    | intro _ _
    | fail_if_no_progress (with_reducible refine Touch.upd ?_)
    | with_reducible apply_assumption

theorem State.judgeStop_keepE {a1 a2} {x v} (e : (State.judgeStop u a1 a2) = (x, v)) (h : Keep s u) : Keep s v := by
  have h2 := State.judgeStop_keep (u := u) (a1 := a1) (a2 := a2) h; rw [e] at h2; exact h2


theorem State.derandomise_keep {a1 a2} (h : Keep s u) : Keep s (State.derandomise u a1 a2) := by
  unfold State.derandomise
  have x := @id True
  repeat' first
    | with_reducible assumption
    | exact fun _ _ => trivial
    | exact fun _ => trivial
    | exact trivial
    | (extract_lets +onlyGivenNames x; (fail_if_success have y : True → True := x); (first | (refine (fun (hx : Keep s x) => ?_) ?_; rotate_left; (try unfold x); rotate_left) | (refine (fun (hx : Keep s x.2) => ?_) ?_; rotate_left; (try unfold x); rotate_left) | (refine (fun (hx : Keep s x.2.2) => ?_) ?_; rotate_left; (try unfold x); rotate_left) | (refine (fun (hx : KeepOpt s x) => ?_) ?_; rotate_left; (try unfold x); rotate_left) | (refine (fun (hx : ∀ v : State, Keep s v → Keep s (x v)) => ?_) ?_; rotate_left; (try unfold x); (try intro v hv); rotate_left) | (have y : Mem := x) | (have y : ProtSt := x) | (have y : PoolSt := x) | (have y : PairSt := x) | (have y : HostSt := x) | (have y : TestSt := x) | (have y : Tab Cell := x) | (have y : Tab Word := x) | (try clear_value x)); all_goals have x := @id True)
    | with_reducible apply Touch.ite
    | with_reducible refine Touch.foldl _ ?_ (fun v a hv => ?_)
    | with_reducible apply State.inc_touch
    | with_reducible apply State.setCell_touch
    | with_reducible apply State.setF_touch
    | split
    | intro _ _ _
    | intro _ _
    | fail_if_no_progress (with_reducible refine Touch.upd ?_)
    | with_reducible apply_assumption


theorem execCalUpdate_keep {a0} (h : Keep s u) : KeepRes s (execCalUpdate a0 u) := by
  unfold execCalUpdate
  have x := @id True
  repeat' first
    | with_reducible assumption
    | exact fun _ _ => trivial
    | exact fun _ => trivial
    | exact trivial
    | (extract_lets +onlyGivenNames x; (fail_if_success have y : True → True := x); (first | (refine (fun (hx : Keep s x) => ?_) ?_; rotate_left; (try unfold x); rotate_left) | (refine (fun (hx : Keep s x.2) => ?_) ?_; rotate_left; (try unfold x); rotate_left) | (refine (fun (hx : Keep s x.2.2) => ?_) ?_; rotate_left; (try unfold x); rotate_left) | (refine (fun (hx : KeepOpt s x) => ?_) ?_; rotate_left; (try unfold x); rotate_left) | (refine (fun (hx : ∀ v : State, Keep s v → Keep s (x v)) => ?_) ?_; rotate_left; (try unfold x); (try intro v hv); rotate_left) | (have y : Mem := x) | (have y : ProtSt := x) | (have y : PoolSt := x) | (have y : PairSt := x) | (have y : HostSt := x) | (have y : TestSt := x) | (have y : Tab Cell := x) | (have y : Tab Word := x) | (try clear_value x)); all_goals have x := @id True)
    | with_reducible apply KeepRes.next
    | with_reducible exact KeepRes.fault
    | with_reducible apply KeepRes.ite
    | with_reducible apply Touch.ite
    | with_reducible apply Touch.ite2
    | with_reducible apply Touch.ite22
    | with_reducible refine Touch.foldl _ ?_ (fun v a hv => ?_)
    | with_reducible apply State.setCell_touch
    | with_reducible apply State.inlTable_keep
    | with_reducible refine State.inlTable_keepE (by with_reducible assumption) ?_
    | with_reducible apply State.inc_touch
    | with_reducible apply State.setRun_keep
    | with_reducible apply State.setF_touch
    | with_reducible apply State.calLoad_keep
    | with_reducible apply State.drawTable_keep
    | split
    | intro _ _ _
    | intro _ _
    | fail_if_no_progress (with_reducible refine Touch.upd ?_)
    | with_reducible apply_assumption


theorem execCalPulse_keep {a0 a1} (h : Keep s u) : KeepRes s (execCalPulse a0 a1 u) := by
  unfold execCalPulse
  have x := @id True
  repeat' first
    | with_reducible assumption
    | exact fun _ _ => trivial
    | exact fun _ => trivial
    | exact trivial
    | (extract_lets +onlyGivenNames x; (fail_if_success have y : True → True := x); (first | (refine (fun (hx : Keep s x) => ?_) ?_; rotate_left; (try unfold x); rotate_left) | (refine (fun (hx : Keep s x.2) => ?_) ?_; rotate_left; (try unfold x); rotate_left) | (refine (fun (hx : Keep s x.2.2) => ?_) ?_; rotate_left; (try unfold x); rotate_left) | (refine (fun (hx : KeepOpt s x) => ?_) ?_; rotate_left; (try unfold x); rotate_left) | (refine (fun (hx : ∀ v : State, Keep s v → Keep s (x v)) => ?_) ?_; rotate_left; (try unfold x); (try intro v hv); rotate_left) | (have y : Mem := x) | (have y : ProtSt := x) | (have y : PoolSt := x) | (have y : PairSt := x) | (have y : HostSt := x) | (have y : TestSt := x) | (have y : Tab Cell := x) | (have y : Tab Word := x) | (try clear_value x)); all_goals have x := @id True)
    | with_reducible apply KeepRes.next
    | with_reducible exact KeepRes.fault
    | with_reducible apply KeepRes.ite
    | with_reducible apply Touch.ite
    | with_reducible refine Touch.foldl _ ?_ (fun v a hv => ?_)
    | with_reducible apply State.calCount_keep
    | split
    | intro _ _ _
    | intro _ _
    | fail_if_no_progress (with_reducible refine Touch.upd ?_)
    | with_reducible apply_assumption


theorem execDiscRise_keep {a0 a1} (h : Keep s u) : KeepRes s (execDiscRise a0 a1 u) := by
  unfold execDiscRise
  have x := @id True
  repeat' first
    | with_reducible assumption
    | exact fun _ _ => trivial
    | exact fun _ => trivial
    | exact trivial
    | (extract_lets +onlyGivenNames x; (fail_if_success have y : True → True := x); (first | (refine (fun (hx : Keep s x) => ?_) ?_; rotate_left; (try unfold x); rotate_left) | (refine (fun (hx : Keep s x.2) => ?_) ?_; rotate_left; (try unfold x); rotate_left) | (refine (fun (hx : Keep s x.2.2) => ?_) ?_; rotate_left; (try unfold x); rotate_left) | (refine (fun (hx : KeepOpt s x) => ?_) ?_; rotate_left; (try unfold x); rotate_left) | (refine (fun (hx : ∀ v : State, Keep s v → Keep s (x v)) => ?_) ?_; rotate_left; (try unfold x); (try intro v hv); rotate_left) | (have y : Mem := x) | (have y : ProtSt := x) | (have y : PoolSt := x) | (have y : PairSt := x) | (have y : HostSt := x) | (have y : TestSt := x) | (have y : Tab Cell := x) | (have y : Tab Word := x) | (try clear_value x)); all_goals have x := @id True)
    | with_reducible apply KeepRes.next
    | with_reducible exact KeepRes.fault
    | with_reducible apply KeepRes.ite
    | with_reducible apply Touch.ite
    | with_reducible refine Touch.foldl _ ?_ (fun v a hv => ?_)
    | with_reducible apply State.setF_touch
    | with_reducible apply State.strike_keep
    | with_reducible apply State.setCell_touch
    | with_reducible apply State.drawn_touch
    | with_reducible apply State.inc_touch
    | split
    | intro _ _ _
    | intro _ _
    | fail_if_no_progress (with_reducible refine Touch.upd ?_)
    | with_reducible apply_assumption


theorem execInterpolationDone_keep {a0} (h : Keep s u) : KeepRes s (execInterpolationDone a0 u) := by
  unfold execInterpolationDone
  have x := @id True
  repeat' first
    | with_reducible assumption
    | exact fun _ _ => trivial
    | exact fun _ => trivial
    | exact trivial
    | (extract_lets +onlyGivenNames x; (fail_if_success have y : True → True := x); (first | (refine (fun (hx : Keep s x) => ?_) ?_; rotate_left; (try unfold x); rotate_left) | (refine (fun (hx : Keep s x.2) => ?_) ?_; rotate_left; (try unfold x); rotate_left) | (refine (fun (hx : Keep s x.2.2) => ?_) ?_; rotate_left; (try unfold x); rotate_left) | (refine (fun (hx : KeepOpt s x) => ?_) ?_; rotate_left; (try unfold x); rotate_left) | (refine (fun (hx : ∀ v : State, Keep s v → Keep s (x v)) => ?_) ?_; rotate_left; (try unfold x); (try intro v hv); rotate_left) | (have y : Mem := x) | (have y : ProtSt := x) | (have y : PoolSt := x) | (have y : PairSt := x) | (have y : HostSt := x) | (have y : TestSt := x) | (have y : Tab Cell := x) | (have y : Tab Word := x) | (try clear_value x)); all_goals have x := @id True)
    | with_reducible apply KeepRes.next
    | with_reducible exact KeepRes.fault
    | with_reducible apply KeepRes.ite
    | with_reducible apply Touch.ite
    | with_reducible apply Touch.ite2
    | with_reducible apply Touch.ite22
    | with_reducible refine Touch.foldl _ ?_ (fun v a hv => ?_)
    | with_reducible apply State.inlRead_keep
    | with_reducible refine State.inlRead_keepE (by with_reducible assumption) ?_
    | with_reducible apply State.calCount_keep
    | with_reducible apply State.judgeStop_keep
    | with_reducible refine State.judgeStop_keepE (by with_reducible assumption) ?_
    | with_reducible apply State.setCell_touch
    | with_reducible apply State.edgeTriggers_keep
    | split
    | intro _ _ _
    | intro _ _
    | fail_if_no_progress (with_reducible refine Touch.upd ?_)
    | with_reducible apply_assumption


theorem execDiscFall_keep {a0 a1 a2} (h : Keep s u) : KeepRes s (execDiscFall a0 a1 a2 u) := by
  unfold execDiscFall
  have x := @id True
  repeat' first
    | with_reducible assumption
    | exact fun _ _ => trivial
    | exact fun _ => trivial
    | exact trivial
    | (extract_lets +onlyGivenNames x; (fail_if_success have y : True → True := x); (first | (refine (fun (hx : Keep s x) => ?_) ?_; rotate_left; (try unfold x); rotate_left) | (refine (fun (hx : Keep s x.2) => ?_) ?_; rotate_left; (try unfold x); rotate_left) | (refine (fun (hx : Keep s x.2.2) => ?_) ?_; rotate_left; (try unfold x); rotate_left) | (refine (fun (hx : KeepOpt s x) => ?_) ?_; rotate_left; (try unfold x); rotate_left) | (refine (fun (hx : ∀ v : State, Keep s v → Keep s (x v)) => ?_) ?_; rotate_left; (try unfold x); (try intro v hv); rotate_left) | (have y : Mem := x) | (have y : ProtSt := x) | (have y : PoolSt := x) | (have y : PairSt := x) | (have y : HostSt := x) | (have y : TestSt := x) | (have y : Tab Cell := x) | (have y : Tab Word := x) | (try clear_value x)); all_goals have x := @id True)
    | with_reducible apply KeepRes.next
    | with_reducible exact KeepRes.fault
    | with_reducible apply KeepRes.ite
    | with_reducible apply Touch.ite
    | with_reducible refine Touch.foldl _ ?_ (fun v a hv => ?_)
    | with_reducible apply State.fallCell_keep
    | split
    | intro _ _ _
    | intro _ _
    | fail_if_no_progress (with_reducible refine Touch.upd ?_)
    | with_reducible apply_assumption


theorem execTotLimit_keep {a0 a1} (h : Keep s u) : KeepRes s (execTotLimit a0 a1 u) := by
  unfold execTotLimit
  have x := @id True
  repeat' first
    | with_reducible assumption
    | exact fun _ _ => trivial
    | exact fun _ => trivial
    | exact trivial
    | (extract_lets +onlyGivenNames x; (fail_if_success have y : True → True := x); (first | (refine (fun (hx : Keep s x) => ?_) ?_; rotate_left; (try unfold x); rotate_left) | (refine (fun (hx : Keep s x.2) => ?_) ?_; rotate_left; (try unfold x); rotate_left) | (refine (fun (hx : Keep s x.2.2) => ?_) ?_; rotate_left; (try unfold x); rotate_left) | (refine (fun (hx : KeepOpt s x) => ?_) ?_; rotate_left; (try unfold x); rotate_left) | (refine (fun (hx : ∀ v : State, Keep s v → Keep s (x v)) => ?_) ?_; rotate_left; (try unfold x); (try intro v hv); rotate_left) | (have y : Mem := x) | (have y : ProtSt := x) | (have y : PoolSt := x) | (have y : PairSt := x) | (have y : HostSt := x) | (have y : TestSt := x) | (have y : Tab Cell := x) | (have y : Tab Word := x) | (try clear_value x)); all_goals have x := @id True)
    | with_reducible apply KeepRes.next
    | with_reducible exact KeepRes.fault
    | with_reducible apply KeepRes.ite
    | with_reducible apply Touch.ite
    | with_reducible refine Touch.foldl _ ?_ (fun v a hv => ?_)
    | with_reducible apply State.setCell_touch
    | split
    | intro _ _ _
    | intro _ _
    | fail_if_no_progress (with_reducible refine Touch.upd ?_)
    | with_reducible apply_assumption


theorem execHitWordFormed_keep {a0} (h : Keep s u) : KeepRes s (execHitWordFormed a0 u) := by
  unfold execHitWordFormed
  have x := @id True
  repeat' first
    | with_reducible assumption
    | exact fun _ _ => trivial
    | exact fun _ => trivial
    | exact trivial
    | (extract_lets +onlyGivenNames x; (fail_if_success have y : True → True := x); (first | (refine (fun (hx : Keep s x) => ?_) ?_; rotate_left; (try unfold x); rotate_left) | (refine (fun (hx : Keep s x.2) => ?_) ?_; rotate_left; (try unfold x); rotate_left) | (refine (fun (hx : Keep s x.2.2) => ?_) ?_; rotate_left; (try unfold x); rotate_left) | (refine (fun (hx : KeepOpt s x) => ?_) ?_; rotate_left; (try unfold x); rotate_left) | (refine (fun (hx : ∀ v : State, Keep s v → Keep s (x v)) => ?_) ?_; rotate_left; (try unfold x); (try intro v hv); rotate_left) | (have y : Mem := x) | (have y : ProtSt := x) | (have y : PoolSt := x) | (have y : PairSt := x) | (have y : HostSt := x) | (have y : TestSt := x) | (have y : Tab Cell := x) | (have y : Tab Word := x) | (try clear_value x)); all_goals have x := @id True)
    | with_reducible apply KeepRes.next
    | with_reducible exact KeepRes.fault
    | with_reducible apply KeepRes.ite
    | with_reducible apply Touch.ite
    | with_reducible apply Touch.ite2
    | with_reducible apply Touch.ite22
    | with_reducible refine Touch.foldl _ ?_ (fun v a hv => ?_)
    | with_reducible apply State.setCell_touch
    | with_reducible apply State.judgeStop_keep
    | with_reducible refine State.judgeStop_keepE (by with_reducible assumption) ?_
    | with_reducible apply State.qWindow_keep
    | with_reducible refine State.qWindow_keepE (by with_reducible assumption) ?_
    | with_reducible apply State.setFlag_touch
    | with_reducible apply State.derandomise_keep
    | with_reducible apply State.inc_touch
    | split
    | intro _ _ _
    | intro _ _
    | fail_if_no_progress (with_reducible refine Touch.upd ?_)
    | with_reducible apply_assumption


theorem execRangeSwitchUp_keep {a0} (h : Keep s u) : KeepRes s (execRangeSwitchUp a0 u) := by
  unfold execRangeSwitchUp
  have x := @id True
  repeat' first
    | with_reducible assumption
    | exact fun _ _ => trivial
    | exact fun _ => trivial
    | exact trivial
    | (extract_lets +onlyGivenNames x; (fail_if_success have y : True → True := x); (first | (refine (fun (hx : Keep s x) => ?_) ?_; rotate_left; (try unfold x); rotate_left) | (refine (fun (hx : Keep s x.2) => ?_) ?_; rotate_left; (try unfold x); rotate_left) | (refine (fun (hx : Keep s x.2.2) => ?_) ?_; rotate_left; (try unfold x); rotate_left) | (refine (fun (hx : KeepOpt s x) => ?_) ?_; rotate_left; (try unfold x); rotate_left) | (refine (fun (hx : ∀ v : State, Keep s v → Keep s (x v)) => ?_) ?_; rotate_left; (try unfold x); (try intro v hv); rotate_left) | (have y : Mem := x) | (have y : ProtSt := x) | (have y : PoolSt := x) | (have y : PairSt := x) | (have y : HostSt := x) | (have y : TestSt := x) | (have y : Tab Cell := x) | (have y : Tab Word := x) | (try clear_value x)); all_goals have x := @id True)
    | with_reducible apply KeepRes.next
    | with_reducible exact KeepRes.fault
    | with_reducible apply KeepRes.ite
    | with_reducible apply Touch.ite
    | with_reducible refine Touch.foldl _ ?_ (fun v a hv => ?_)
    | with_reducible apply State.incWrap_touch
    | with_reducible apply State.setF_touch
    | with_reducible apply State.setCell_touch
    | split
    | intro _ _ _
    | intro _ _
    | fail_if_no_progress (with_reducible refine Touch.upd ?_)
    | with_reducible apply_assumption


theorem execRangeSwitchDown_keep {a0} (h : Keep s u) : KeepRes s (execRangeSwitchDown a0 u) := by
  unfold execRangeSwitchDown
  have x := @id True
  repeat' first
    | with_reducible assumption
    | exact fun _ _ => trivial
    | exact fun _ => trivial
    | exact trivial
    | (extract_lets +onlyGivenNames x; (fail_if_success have y : True → True := x); (first | (refine (fun (hx : Keep s x) => ?_) ?_; rotate_left; (try unfold x); rotate_left) | (refine (fun (hx : Keep s x.2) => ?_) ?_; rotate_left; (try unfold x); rotate_left) | (refine (fun (hx : Keep s x.2.2) => ?_) ?_; rotate_left; (try unfold x); rotate_left) | (refine (fun (hx : KeepOpt s x) => ?_) ?_; rotate_left; (try unfold x); rotate_left) | (refine (fun (hx : ∀ v : State, Keep s v → Keep s (x v)) => ?_) ?_; rotate_left; (try unfold x); (try intro v hv); rotate_left) | (have y : Mem := x) | (have y : ProtSt := x) | (have y : PoolSt := x) | (have y : PairSt := x) | (have y : HostSt := x) | (have y : TestSt := x) | (have y : Tab Cell := x) | (have y : Tab Word := x) | (try clear_value x)); all_goals have x := @id True)
    | with_reducible apply KeepRes.next
    | with_reducible exact KeepRes.fault
    | with_reducible apply KeepRes.ite
    | with_reducible apply Touch.ite
    | with_reducible refine Touch.foldl _ ?_ (fun v a hv => ?_)
    | with_reducible apply State.incWrap_touch
    | with_reducible apply State.setF_touch
    | with_reducible apply State.setCell_touch
    | split
    | intro _ _ _
    | intro _ _
    | fail_if_no_progress (with_reducible refine Touch.upd ?_)
    | with_reducible apply_assumption


theorem execCellSettleEnd_keep {a0} (h : Keep s u) : KeepRes s (execCellSettleEnd a0 u) := by
  unfold execCellSettleEnd
  have x := @id True
  repeat' first
    | with_reducible assumption
    | exact fun _ _ => trivial
    | exact fun _ => trivial
    | exact trivial
    | (extract_lets +onlyGivenNames x; (fail_if_success have y : True → True := x); (first | (refine (fun (hx : Keep s x) => ?_) ?_; rotate_left; (try unfold x); rotate_left) | (refine (fun (hx : Keep s x.2) => ?_) ?_; rotate_left; (try unfold x); rotate_left) | (refine (fun (hx : Keep s x.2.2) => ?_) ?_; rotate_left; (try unfold x); rotate_left) | (refine (fun (hx : KeepOpt s x) => ?_) ?_; rotate_left; (try unfold x); rotate_left) | (refine (fun (hx : ∀ v : State, Keep s v → Keep s (x v)) => ?_) ?_; rotate_left; (try unfold x); (try intro v hv); rotate_left) | (have y : Mem := x) | (have y : ProtSt := x) | (have y : PoolSt := x) | (have y : PairSt := x) | (have y : HostSt := x) | (have y : TestSt := x) | (have y : Tab Cell := x) | (have y : Tab Word := x) | (try clear_value x)); all_goals have x := @id True)
    | with_reducible apply KeepRes.next
    | with_reducible exact KeepRes.fault
    | with_reducible apply KeepRes.ite
    | with_reducible apply Touch.ite
    | with_reducible refine Touch.foldl _ ?_ (fun v a hv => ?_)
    | with_reducible apply State.setCell_touch
    | split
    | intro _ _ _
    | intro _ _
    | fail_if_no_progress (with_reducible refine Touch.upd ?_)
    | with_reducible apply_assumption


theorem execSampleConversion_keep {a0 a1 a2} (h : Keep s u) : KeepRes s (execSampleConversion a0 a1 a2 u) := by
  unfold execSampleConversion
  have x := @id True
  repeat' first
    | with_reducible assumption
    | exact fun _ _ => trivial
    | exact fun _ => trivial
    | exact trivial
    | (extract_lets +onlyGivenNames x; (fail_if_success have y : True → True := x); (first | (refine (fun (hx : Keep s x) => ?_) ?_; rotate_left; (try unfold x); rotate_left) | (refine (fun (hx : Keep s x.2) => ?_) ?_; rotate_left; (try unfold x); rotate_left) | (refine (fun (hx : Keep s x.2.2) => ?_) ?_; rotate_left; (try unfold x); rotate_left) | (refine (fun (hx : KeepOpt s x) => ?_) ?_; rotate_left; (try unfold x); rotate_left) | (refine (fun (hx : ∀ v : State, Keep s v → Keep s (x v)) => ?_) ?_; rotate_left; (try unfold x); (try intro v hv); rotate_left) | (have y : Mem := x) | (have y : ProtSt := x) | (have y : PoolSt := x) | (have y : PairSt := x) | (have y : HostSt := x) | (have y : TestSt := x) | (have y : Tab Cell := x) | (have y : Tab Word := x) | (try clear_value x)); all_goals have x := @id True)
    | with_reducible apply KeepRes.next
    | with_reducible exact KeepRes.fault
    | with_reducible apply KeepRes.ite
    | with_reducible apply Touch.ite
    | with_reducible refine Touch.foldl _ ?_ (fun v a hv => ?_)
    | with_reducible apply State.setCell_touch
    | with_reducible apply State.storeContainer_keep
    | split
    | intro _ _ _
    | intro _ _
    | fail_if_no_progress (with_reducible refine Touch.upd ?_)
    | with_reducible apply_assumption


theorem execPageAdvance_keep {a0 a1} (h : Keep s u) : KeepRes s (execPageAdvance a0 a1 u) := by
  unfold execPageAdvance
  have x := @id True
  repeat' first
    | with_reducible assumption
    | exact fun _ _ => trivial
    | exact fun _ => trivial
    | exact trivial
    | (extract_lets +onlyGivenNames x; (fail_if_success have y : True → True := x); (first | (refine (fun (hx : Keep s x) => ?_) ?_; rotate_left; (try unfold x); rotate_left) | (refine (fun (hx : Keep s x.2) => ?_) ?_; rotate_left; (try unfold x); rotate_left) | (refine (fun (hx : Keep s x.2.2) => ?_) ?_; rotate_left; (try unfold x); rotate_left) | (refine (fun (hx : KeepOpt s x) => ?_) ?_; rotate_left; (try unfold x); rotate_left) | (refine (fun (hx : ∀ v : State, Keep s v → Keep s (x v)) => ?_) ?_; rotate_left; (try unfold x); (try intro v hv); rotate_left) | (have y : Mem := x) | (have y : ProtSt := x) | (have y : PoolSt := x) | (have y : PairSt := x) | (have y : HostSt := x) | (have y : TestSt := x) | (have y : Tab Cell := x) | (have y : Tab Word := x) | (try clear_value x)); all_goals have x := @id True)
    | with_reducible apply KeepRes.next
    | with_reducible exact KeepRes.fault
    | with_reducible apply KeepRes.ite
    | with_reducible apply Touch.ite
    | with_reducible refine Touch.foldl _ ?_ (fun v a hv => ?_)
    | with_reducible apply State.setBlock_touch
    | with_reducible apply State.beginGap_keep
    | split
    | intro _ _ _
    | intro _ _
    | fail_if_no_progress (with_reducible refine Touch.upd ?_)
    | with_reducible apply_assumption


theorem execTrigInEdge_keep {a0} (h : Keep s u) : KeepRes s (execTrigInEdge a0 u) := by
  unfold execTrigInEdge
  have x := @id True
  repeat' first
    | with_reducible assumption
    | exact fun _ _ => trivial
    | exact fun _ => trivial
    | exact trivial
    | (extract_lets +onlyGivenNames x; (fail_if_success have y : True → True := x); (first | (refine (fun (hx : Keep s x) => ?_) ?_; rotate_left; (try unfold x); rotate_left) | (refine (fun (hx : Keep s x.2) => ?_) ?_; rotate_left; (try unfold x); rotate_left) | (refine (fun (hx : Keep s x.2.2) => ?_) ?_; rotate_left; (try unfold x); rotate_left) | (refine (fun (hx : KeepOpt s x) => ?_) ?_; rotate_left; (try unfold x); rotate_left) | (refine (fun (hx : ∀ v : State, Keep s v → Keep s (x v)) => ?_) ?_; rotate_left; (try unfold x); (try intro v hv); rotate_left) | (have y : Mem := x) | (have y : ProtSt := x) | (have y : PoolSt := x) | (have y : PairSt := x) | (have y : HostSt := x) | (have y : TestSt := x) | (have y : Tab Cell := x) | (have y : Tab Word := x) | (try clear_value x)); all_goals have x := @id True)
    | with_reducible apply KeepRes.next
    | with_reducible exact KeepRes.fault
    | with_reducible apply KeepRes.ite
    | with_reducible apply Touch.ite
    | with_reducible refine Touch.foldl _ ?_ (fun v a hv => ?_)
    | with_reducible apply State.inc_touch
    | with_reducible apply State.incWrap_touch
    | with_reducible apply State.trigger_keep
    | split
    | intro _ _ _
    | intro _ _
    | fail_if_no_progress (with_reducible refine Touch.upd ?_)
    | with_reducible apply_assumption


theorem execTreeTriggerDue_keep (h : Keep s u) : KeepRes s (execTreeTriggerDue u) := by
  unfold execTreeTriggerDue
  have x := @id True
  repeat' first
    | with_reducible assumption
    | exact fun _ _ => trivial
    | exact fun _ => trivial
    | exact trivial
    | (extract_lets +onlyGivenNames x; (fail_if_success have y : True → True := x); (first | (refine (fun (hx : Keep s x) => ?_) ?_; rotate_left; (try unfold x); rotate_left) | (refine (fun (hx : Keep s x.2) => ?_) ?_; rotate_left; (try unfold x); rotate_left) | (refine (fun (hx : Keep s x.2.2) => ?_) ?_; rotate_left; (try unfold x); rotate_left) | (refine (fun (hx : KeepOpt s x) => ?_) ?_; rotate_left; (try unfold x); rotate_left) | (refine (fun (hx : ∀ v : State, Keep s v → Keep s (x v)) => ?_) ?_; rotate_left; (try unfold x); (try intro v hv); rotate_left) | (have y : Mem := x) | (have y : ProtSt := x) | (have y : PoolSt := x) | (have y : PairSt := x) | (have y : HostSt := x) | (have y : TestSt := x) | (have y : Tab Cell := x) | (have y : Tab Word := x) | (try clear_value x)); all_goals have x := @id True)
    | with_reducible apply KeepRes.next
    | with_reducible exact KeepRes.fault
    | with_reducible apply KeepRes.ite
    | with_reducible apply Touch.ite
    | with_reducible refine Touch.foldl _ ?_ (fun v a hv => ?_)
    | with_reducible apply State.trigger_keep
    | split
    | intro _ _ _
    | intro _ _
    | fail_if_no_progress (with_reducible refine Touch.upd ?_)
    | with_reducible apply_assumption


theorem State.recordsDone_keep {a1} (h : Keep s u) : Keep s (State.recordsDone u a1) := by
  unfold State.recordsDone
  have x := @id True
  repeat' first
    | with_reducible assumption
    | exact fun _ _ => trivial
    | exact fun _ => trivial
    | exact trivial
    | (extract_lets +onlyGivenNames x; (fail_if_success have y : True → True := x); (first | (refine (fun (hx : Keep s x) => ?_) ?_; rotate_left; (try unfold x); rotate_left) | (refine (fun (hx : Keep s x.2) => ?_) ?_; rotate_left; (try unfold x); rotate_left) | (refine (fun (hx : Keep s x.2.2) => ?_) ?_; rotate_left; (try unfold x); rotate_left) | (refine (fun (hx : KeepOpt s x) => ?_) ?_; rotate_left; (try unfold x); rotate_left) | (refine (fun (hx : ∀ v : State, Keep s v → Keep s (x v)) => ?_) ?_; rotate_left; (try unfold x); (try intro v hv); rotate_left) | (have y : Mem := x) | (have y : ProtSt := x) | (have y : PoolSt := x) | (have y : PairSt := x) | (have y : HostSt := x) | (have y : TestSt := x) | (have y : Tab Cell := x) | (have y : Tab Word := x) | (try clear_value x)); all_goals have x := @id True)
    | with_reducible apply Touch.ite
    | with_reducible refine Touch.foldl _ ?_ (fun v a hv => ?_)
    | with_reducible apply State.frostEntry_keep
    | with_reducible apply State.stopBlock_keep
    | with_reducible apply State.setF_touch
    | split
    | intro _ _ _
    | intro _ _
    | fail_if_no_progress (with_reducible refine Touch.upd ?_)
    | with_reducible apply_assumption


theorem execRecordComplete_keep {a0} (h : Keep s u) : KeepRes s (execRecordComplete a0 u) := by
  unfold execRecordComplete
  have x := @id True
  repeat' first
    | with_reducible assumption
    | exact fun _ _ => trivial
    | exact fun _ => trivial
    | exact trivial
    | (extract_lets +onlyGivenNames x; (fail_if_success have y : True → True := x); (first | (refine (fun (hx : Keep s x) => ?_) ?_; rotate_left; (try unfold x); rotate_left) | (refine (fun (hx : Keep s x.2) => ?_) ?_; rotate_left; (try unfold x); rotate_left) | (refine (fun (hx : Keep s x.2.2) => ?_) ?_; rotate_left; (try unfold x); rotate_left) | (refine (fun (hx : KeepOpt s x) => ?_) ?_; rotate_left; (try unfold x); rotate_left) | (refine (fun (hx : ∀ v : State, Keep s v → Keep s (x v)) => ?_) ?_; rotate_left; (try unfold x); (try intro v hv); rotate_left) | (have y : Mem := x) | (have y : ProtSt := x) | (have y : PoolSt := x) | (have y : PairSt := x) | (have y : HostSt := x) | (have y : TestSt := x) | (have y : Tab Cell := x) | (have y : Tab Word := x) | (try clear_value x)); all_goals have x := @id True)
    | with_reducible apply KeepRes.next
    | with_reducible exact KeepRes.fault
    | with_reducible apply KeepRes.ite
    | with_reducible apply Touch.ite
    | with_reducible refine Touch.foldl _ ?_ (fun v a hv => ?_)
    | with_reducible apply State.setBlock_touch
    | with_reducible apply State.recordsDone_keep
    | with_reducible apply State.beginGap_keep
    | split
    | intro _ _ _
    | intro _ _
    | fail_if_no_progress (with_reducible refine Touch.upd ?_)
    | with_reducible apply_assumption


theorem execRearmEnd_keep {a0} (h : Keep s u) : KeepRes s (execRearmEnd a0 u) := by
  unfold execRearmEnd
  have x := @id True
  repeat' first
    | with_reducible assumption
    | exact fun _ _ => trivial
    | exact fun _ => trivial
    | exact trivial
    | (extract_lets +onlyGivenNames x; (fail_if_success have y : True → True := x); (first | (refine (fun (hx : Keep s x) => ?_) ?_; rotate_left; (try unfold x); rotate_left) | (refine (fun (hx : Keep s x.2) => ?_) ?_; rotate_left; (try unfold x); rotate_left) | (refine (fun (hx : Keep s x.2.2) => ?_) ?_; rotate_left; (try unfold x); rotate_left) | (refine (fun (hx : KeepOpt s x) => ?_) ?_; rotate_left; (try unfold x); rotate_left) | (refine (fun (hx : ∀ v : State, Keep s v → Keep s (x v)) => ?_) ?_; rotate_left; (try unfold x); (try intro v hv); rotate_left) | (have y : Mem := x) | (have y : ProtSt := x) | (have y : PoolSt := x) | (have y : PairSt := x) | (have y : HostSt := x) | (have y : TestSt := x) | (have y : Tab Cell := x) | (have y : Tab Word := x) | (try clear_value x)); all_goals have x := @id True)
    | with_reducible apply KeepRes.next
    | with_reducible exact KeepRes.fault
    | with_reducible apply KeepRes.ite
    | with_reducible apply Touch.ite
    | with_reducible refine Touch.foldl _ ?_ (fun v a hv => ?_)
    | with_reducible apply State.settlePages_keep
    | with_reducible apply State.setF_touch
    | split
    | intro _ _ _
    | intro _ _
    | fail_if_no_progress (with_reducible refine Touch.upd ?_)
    | with_reducible apply_assumption


theorem State.readMask_keep {a1 a2 a3 a4} (h : Keep s u) : Keep s (State.readMask u a1 a2 a3 a4).2 := by
  unfold State.readMask
  have x := @id True
  repeat' first
    | with_reducible assumption
    | exact fun _ _ => trivial
    | exact fun _ => trivial
    | exact trivial
    | (extract_lets +onlyGivenNames x; (fail_if_success have y : True → True := x); (first | (refine (fun (hx : Keep s x) => ?_) ?_; rotate_left; (try unfold x); rotate_left) | (refine (fun (hx : Keep s x.2) => ?_) ?_; rotate_left; (try unfold x); rotate_left) | (refine (fun (hx : Keep s x.2.2) => ?_) ?_; rotate_left; (try unfold x); rotate_left) | (refine (fun (hx : KeepOpt s x) => ?_) ?_; rotate_left; (try unfold x); rotate_left) | (refine (fun (hx : ∀ v : State, Keep s v → Keep s (x v)) => ?_) ?_; rotate_left; (try unfold x); (try intro v hv); rotate_left) | (have y : Mem := x) | (have y : ProtSt := x) | (have y : PoolSt := x) | (have y : PairSt := x) | (have y : HostSt := x) | (have y : TestSt := x) | (have y : Tab Cell := x) | (have y : Tab Word := x) | (try clear_value x)); all_goals have x := @id True)
    | with_reducible apply Touch.ite
    | with_reducible apply Touch.ite2
    | with_reducible apply Touch.ite22
    | with_reducible refine Touch.foldl _ ?_ (fun v a hv => ?_)
    | with_reducible apply State.tableCw_touch
    | with_reducible refine State.tableCw_keepE (by with_reducible assumption) ?_
    | split
    | intro _ _ _
    | intro _ _
    | fail_if_no_progress (with_reducible refine Touch.upd ?_)
    | with_reducible apply_assumption

theorem State.readMask_keepE {a1 a2 a3 a4} {x v} (e : (State.readMask u a1 a2 a3 a4) = (x, v)) (h : Keep s u) : Keep s v := by
  have h2 := State.readMask_keep (u := u) (a1 := a1) (a2 := a2) (a3 := a3) (a4 := a4) h; rw [e] at h2; exact h2


theorem State.readRecord_keep {a0 a2 a3 a4 a5 a6 a7 a8} (h : Keep s u) : Keep s (State.readRecord a0 u a2 a3 a4 a5 a6 a7 a8).2 := by
  induction a0 generalizing u a2 a3 a4 a5 a6 a7 a8 with
  | zero => exact h
  | succ n ih =>
    unfold State.readRecord
    have x := @id True
    repeat' first
      | with_reducible assumption
      | exact fun _ _ => trivial
      | exact fun _ => trivial
      | exact trivial
      | (extract_lets +onlyGivenNames x; (fail_if_success have y : True → True := x); (first | (refine (fun (hx : Keep s x) => ?_) ?_; rotate_left; (try unfold x); rotate_left) | (refine (fun (hx : Keep s x.2) => ?_) ?_; rotate_left; (try unfold x); rotate_left) | (refine (fun (hx : Keep s x.2.2) => ?_) ?_; rotate_left; (try unfold x); rotate_left) | (refine (fun (hx : KeepOpt s x) => ?_) ?_; rotate_left; (try unfold x); rotate_left) | (refine (fun (hx : ∀ v : State, Keep s v → Keep s (x v)) => ?_) ?_; rotate_left; (try unfold x); (try intro v hv); rotate_left) | (have y : Mem := x) | (have y : ProtSt := x) | (have y : PoolSt := x) | (have y : PairSt := x) | (have y : HostSt := x) | (have y : TestSt := x) | (have y : Tab Cell := x) | (have y : Tab Word := x) | (try clear_value x)); all_goals have x := @id True)
      | with_reducible apply Touch.ite
      | with_reducible apply Touch.ite2
      | with_reducible apply Touch.ite22
      | with_reducible apply ih
      | with_reducible refine Touch.foldl _ ?_ (fun v a hv => ?_)
      | with_reducible apply State.readSample_keep
      | with_reducible refine State.readSample_keepE (by with_reducible assumption) ?_
      | with_reducible apply State.readMask_keep
      | with_reducible refine State.readMask_keepE (by with_reducible assumption) ?_
      | split
      | intro _ _ _
      | intro _ _
      | fail_if_no_progress (with_reducible refine Touch.upd ?_)
      | with_reducible apply_assumption

theorem State.readRecord_keepE {a0 a2 a3 a4 a5 a6 a7 a8} {x v} (e : (State.readRecord a0 u a2 a3 a4 a5 a6 a7 a8) = (x, v)) (h : Keep s u) : Keep s v := by
  have h2 := State.readRecord_keep (u := u) (a0 := a0) (a2 := a2) (a3 := a3) (a4 := a4) (a5 := a5) (a6 := a6) (a7 := a7) (a8 := a8) h; rw [e] at h2; exact h2


theorem State.buildRecord_keep {a1 a2 a3} (h : Keep s u) : Keep s (State.buildRecord u a1 a2 a3).2 := by
  unfold State.buildRecord
  have x := @id True
  repeat' first
    | with_reducible assumption
    | exact fun _ _ => trivial
    | exact fun _ => trivial
    | exact trivial
    | (extract_lets +onlyGivenNames x; (fail_if_success have y : True → True := x); (first | (refine (fun (hx : Keep s x) => ?_) ?_; rotate_left; (try unfold x); rotate_left) | (refine (fun (hx : Keep s x.2) => ?_) ?_; rotate_left; (try unfold x); rotate_left) | (refine (fun (hx : Keep s x.2.2) => ?_) ?_; rotate_left; (try unfold x); rotate_left) | (refine (fun (hx : KeepOpt s x) => ?_) ?_; rotate_left; (try unfold x); rotate_left) | (refine (fun (hx : ∀ v : State, Keep s v → Keep s (x v)) => ?_) ?_; rotate_left; (try unfold x); (try intro v hv); rotate_left) | (have y : Mem := x) | (have y : ProtSt := x) | (have y : PoolSt := x) | (have y : PairSt := x) | (have y : HostSt := x) | (have y : TestSt := x) | (have y : Tab Cell := x) | (have y : Tab Word := x) | (try clear_value x)); all_goals have x := @id True)
    | with_reducible apply Touch.ite
    | with_reducible apply Touch.ite2
    | with_reducible apply Touch.ite22
    | with_reducible refine Touch.foldl _ ?_ (fun v a hv => ?_)
    | with_reducible apply State.readRecord_keep
    | with_reducible refine State.readRecord_keepE (by with_reducible assumption) ?_
    | split
    | intro _ _ _
    | intro _ _
    | fail_if_no_progress (with_reducible refine Touch.upd ?_)
    | with_reducible apply_assumption

theorem State.buildRecord_keepE {a1 a2 a3} {x v} (e : (State.buildRecord u a1 a2 a3) = (x, v)) (h : Keep s u) : Keep s v := by
  have h2 := State.buildRecord_keep (u := u) (a1 := a1) (a2 := a2) (a3 := a3) h; rw [e] at h2; exact h2


theorem State.maskHit_keep {a1 a2 a3 a4} (h : Keep s u) : Keep s (State.maskHit u a1 a2 a3 a4) := by
  unfold State.maskHit
  have x := @id True
  repeat' first
    | with_reducible assumption
    | exact fun _ _ => trivial
    | exact fun _ => trivial
    | exact trivial
    | (extract_lets +onlyGivenNames x; (fail_if_success have y : True → True := x); (first | (refine (fun (hx : Keep s x) => ?_) ?_; rotate_left; (try unfold x); rotate_left) | (refine (fun (hx : Keep s x.2) => ?_) ?_; rotate_left; (try unfold x); rotate_left) | (refine (fun (hx : Keep s x.2.2) => ?_) ?_; rotate_left; (try unfold x); rotate_left) | (refine (fun (hx : KeepOpt s x) => ?_) ?_; rotate_left; (try unfold x); rotate_left) | (refine (fun (hx : ∀ v : State, Keep s v → Keep s (x v)) => ?_) ?_; rotate_left; (try unfold x); (try intro v hv); rotate_left) | (have y : Mem := x) | (have y : ProtSt := x) | (have y : PoolSt := x) | (have y : PairSt := x) | (have y : HostSt := x) | (have y : TestSt := x) | (have y : Tab Cell := x) | (have y : Tab Word := x) | (try clear_value x)); all_goals have x := @id True)
    | with_reducible apply Touch.ite
    | with_reducible refine Touch.foldl _ ?_ (fun v a hv => ?_)
    | with_reducible apply State.setFlag_touch
    | with_reducible apply State.setF_touch
    | with_reducible apply State.setBlock_touch
    | with_reducible apply State.frostEntry_keep
    | split
    | intro _ _ _
    | intro _ _
    | fail_if_no_progress (with_reducible refine Touch.upd ?_)
    | with_reducible apply_assumption


theorem State.buildAll_keep {a1 a2 a3} (h : Keep s u) : Keep s (State.buildAll u a1 a2 a3) := by
  induction a3 generalizing u a1 a2 with
  | nil => exact h
  | cons e l ih =>
    unfold State.buildAll
    have x := @id True
    repeat' first
      | with_reducible assumption
      | exact fun _ _ => trivial
      | exact fun _ => trivial
      | exact trivial
      | (extract_lets +onlyGivenNames x; (fail_if_success have y : True → True := x); (first | (refine (fun (hx : Keep s x) => ?_) ?_; rotate_left; (try unfold x); rotate_left) | (refine (fun (hx : Keep s x.2) => ?_) ?_; rotate_left; (try unfold x); rotate_left) | (refine (fun (hx : Keep s x.2.2) => ?_) ?_; rotate_left; (try unfold x); rotate_left) | (refine (fun (hx : KeepOpt s x) => ?_) ?_; rotate_left; (try unfold x); rotate_left) | (refine (fun (hx : ∀ v : State, Keep s v → Keep s (x v)) => ?_) ?_; rotate_left; (try unfold x); (try intro v hv); rotate_left) | (have y : Mem := x) | (have y : ProtSt := x) | (have y : PoolSt := x) | (have y : PairSt := x) | (have y : HostSt := x) | (have y : TestSt := x) | (have y : Tab Cell := x) | (have y : Tab Word := x) | (try clear_value x)); all_goals have x := @id True)
      | with_reducible apply Touch.ite
      | with_reducible apply Touch.ite2
      | with_reducible apply Touch.ite22
      | with_reducible apply ih
      | with_reducible refine Touch.foldl _ ?_ (fun v a hv => ?_)
      | with_reducible apply State.buildRecord_keep
      | with_reducible refine State.buildRecord_keepE (by with_reducible assumption) ?_
      | with_reducible apply State.setBlock_touch
      | with_reducible apply State.maskHit_keep
      | split
      | intro _ _ _
      | intro _ _
      | fail_if_no_progress (with_reducible refine Touch.upd ?_)
      | with_reducible apply_assumption


theorem State.freePagesOf_keep {a1 a2} (h : Keep s u) : Keep s (State.freePagesOf u a1 a2) := by
  unfold State.freePagesOf
  have x := @id True
  repeat' first
    | with_reducible assumption
    | exact fun _ _ => trivial
    | exact fun _ => trivial
    | exact trivial
    | (extract_lets +onlyGivenNames x; (fail_if_success have y : True → True := x); (first | (refine (fun (hx : Keep s x) => ?_) ?_; rotate_left; (try unfold x); rotate_left) | (refine (fun (hx : Keep s x.2) => ?_) ?_; rotate_left; (try unfold x); rotate_left) | (refine (fun (hx : Keep s x.2.2) => ?_) ?_; rotate_left; (try unfold x); rotate_left) | (refine (fun (hx : KeepOpt s x) => ?_) ?_; rotate_left; (try unfold x); rotate_left) | (refine (fun (hx : ∀ v : State, Keep s v → Keep s (x v)) => ?_) ?_; rotate_left; (try unfold x); (try intro v hv); rotate_left) | (have y : Mem := x) | (have y : ProtSt := x) | (have y : PoolSt := x) | (have y : PairSt := x) | (have y : HostSt := x) | (have y : TestSt := x) | (have y : Tab Cell := x) | (have y : Tab Word := x) | (try clear_value x)); all_goals have x := @id True)
    | with_reducible apply Touch.ite
    | with_reducible refine Touch.foldl _ ?_ (fun v a hv => ?_)
    | with_reducible apply State.setBlock_touch
    | split
    | intro _ _ _
    | intro _ _
    | fail_if_no_progress (with_reducible refine Touch.upd ?_)
    | with_reducible apply_assumption


theorem execRecordRead_keep {a0} (h : Keep s u) : KeepRes s (execRecordRead a0 u) := by
  unfold execRecordRead
  have x := @id True
  repeat' first
    | with_reducible assumption
    | exact fun _ _ => trivial
    | exact fun _ => trivial
    | exact trivial
    | (extract_lets +onlyGivenNames x; (fail_if_success have y : True → True := x); (first | (refine (fun (hx : Keep s x) => ?_) ?_; rotate_left; (try unfold x); rotate_left) | (refine (fun (hx : Keep s x.2) => ?_) ?_; rotate_left; (try unfold x); rotate_left) | (refine (fun (hx : Keep s x.2.2) => ?_) ?_; rotate_left; (try unfold x); rotate_left) | (refine (fun (hx : KeepOpt s x) => ?_) ?_; rotate_left; (try unfold x); rotate_left) | (refine (fun (hx : ∀ v : State, Keep s v → Keep s (x v)) => ?_) ?_; rotate_left; (try unfold x); (try intro v hv); rotate_left) | (have y : Mem := x) | (have y : ProtSt := x) | (have y : PoolSt := x) | (have y : PairSt := x) | (have y : HostSt := x) | (have y : TestSt := x) | (have y : Tab Cell := x) | (have y : Tab Word := x) | (try clear_value x)); all_goals have x := @id True)
    | with_reducible apply KeepRes.next
    | with_reducible exact KeepRes.fault
    | with_reducible apply KeepRes.ite
    | with_reducible apply Touch.ite
    | with_reducible refine Touch.foldl _ ?_ (fun v a hv => ?_)
    | with_reducible apply State.resumeGap_keep
    | with_reducible apply State.settlePages_keep
    | with_reducible apply State.freePagesOf_keep
    | with_reducible apply State.buildAll_keep
    | split
    | intro _ _ _
    | intro _ _
    | fail_if_no_progress (with_reducible refine Touch.upd ?_)
    | with_reducible apply_assumption


theorem execBlockGrant_keep {a0} (h : Keep s u) : KeepRes s (execBlockGrant a0 u) := by
  unfold execBlockGrant
  have x := @id True
  repeat' first
    | with_reducible assumption
    | exact fun _ _ => trivial
    | exact fun _ => trivial
    | exact trivial
    | (extract_lets +onlyGivenNames x; (fail_if_success have y : True → True := x); (first | (refine (fun (hx : Keep s x) => ?_) ?_; rotate_left; (try unfold x); rotate_left) | (refine (fun (hx : Keep s x.2) => ?_) ?_; rotate_left; (try unfold x); rotate_left) | (refine (fun (hx : Keep s x.2.2) => ?_) ?_; rotate_left; (try unfold x); rotate_left) | (refine (fun (hx : KeepOpt s x) => ?_) ?_; rotate_left; (try unfold x); rotate_left) | (refine (fun (hx : ∀ v : State, Keep s v → Keep s (x v)) => ?_) ?_; rotate_left; (try unfold x); (try intro v hv); rotate_left) | (have y : Mem := x) | (have y : ProtSt := x) | (have y : PoolSt := x) | (have y : PairSt := x) | (have y : HostSt := x) | (have y : TestSt := x) | (have y : Tab Cell := x) | (have y : Tab Word := x) | (try clear_value x)); all_goals have x := @id True)
    | with_reducible apply KeepRes.next
    | with_reducible exact KeepRes.fault
    | with_reducible apply KeepRes.ite
    | with_reducible apply Touch.ite
    | with_reducible refine Touch.foldl _ ?_ (fun v a hv => ?_)
    | with_reducible apply State.drawn_touch
    | with_reducible apply State.setBlock_touch
    | with_reducible apply State.setCell_touch
    | split
    | intro _ _ _
    | intro _ _
    | fail_if_no_progress (with_reducible refine Touch.upd ?_)
    | with_reducible apply_assumption


theorem State.enterRegion_keep {a1 a2 a3} (h : Keep s u) : Keep s (State.enterRegion u a1 a2 a3) := by
  unfold State.enterRegion
  have x := @id True
  repeat' first
    | with_reducible assumption
    | exact fun _ _ => trivial
    | exact fun _ => trivial
    | exact trivial
    | (extract_lets +onlyGivenNames x; (fail_if_success have y : True → True := x); (first | (refine (fun (hx : Keep s x) => ?_) ?_; rotate_left; (try unfold x); rotate_left) | (refine (fun (hx : Keep s x.2) => ?_) ?_; rotate_left; (try unfold x); rotate_left) | (refine (fun (hx : Keep s x.2.2) => ?_) ?_; rotate_left; (try unfold x); rotate_left) | (refine (fun (hx : KeepOpt s x) => ?_) ?_; rotate_left; (try unfold x); rotate_left) | (refine (fun (hx : ∀ v : State, Keep s v → Keep s (x v)) => ?_) ?_; rotate_left; (try unfold x); (try intro v hv); rotate_left) | (have y : Mem := x) | (have y : ProtSt := x) | (have y : PoolSt := x) | (have y : PairSt := x) | (have y : HostSt := x) | (have y : TestSt := x) | (have y : Tab Cell := x) | (have y : Tab Word := x) | (try clear_value x)); all_goals have x := @id True)
    | with_reducible apply Touch.ite
    | with_reducible refine Touch.foldl _ ?_ (fun v a hv => ?_)
    | with_reducible apply State.setBlock_touch
    | with_reducible apply State.modFrag_keep
    | split
    | intro _ _ _
    | intro _ _
    | fail_if_no_progress (with_reducible refine Touch.upd ?_)
    | with_reducible apply_assumption


theorem execRegionGrant_keep {a0} (h : Keep s u) : KeepRes s (execRegionGrant a0 u) := by
  unfold execRegionGrant
  have x := @id True
  repeat' first
    | with_reducible assumption
    | exact fun _ _ => trivial
    | exact fun _ => trivial
    | exact trivial
    | (extract_lets +onlyGivenNames x; (fail_if_success have y : True → True := x); (first | (refine (fun (hx : Keep s x) => ?_) ?_; rotate_left; (try unfold x); rotate_left) | (refine (fun (hx : Keep s x.2) => ?_) ?_; rotate_left; (try unfold x); rotate_left) | (refine (fun (hx : Keep s x.2.2) => ?_) ?_; rotate_left; (try unfold x); rotate_left) | (refine (fun (hx : KeepOpt s x) => ?_) ?_; rotate_left; (try unfold x); rotate_left) | (refine (fun (hx : ∀ v : State, Keep s v → Keep s (x v)) => ?_) ?_; rotate_left; (try unfold x); (try intro v hv); rotate_left) | (have y : Mem := x) | (have y : ProtSt := x) | (have y : PoolSt := x) | (have y : PairSt := x) | (have y : HostSt := x) | (have y : TestSt := x) | (have y : Tab Cell := x) | (have y : Tab Word := x) | (try clear_value x)); all_goals have x := @id True)
    | with_reducible apply KeepRes.next
    | with_reducible exact KeepRes.fault
    | with_reducible apply KeepRes.ite
    | with_reducible apply Touch.ite
    | with_reducible refine Touch.foldl _ ?_ (fun v a hv => ?_)
    | with_reducible apply State.enterRegion_keep
    | with_reducible apply State.inc_touch
    | with_reducible apply State.setBlock_touch
    | split
    | intro _ _ _
    | intro _ _
    | fail_if_no_progress (with_reducible refine Touch.upd ?_)
    | with_reducible apply_assumption


theorem State.dirEntry_keep {a1 a2} (h : Keep s u) : Keep s (State.dirEntry u a1 a2).2 := by
  unfold State.dirEntry
  have x := @id True
  repeat' first
    | with_reducible assumption
    | exact fun _ _ => trivial
    | exact fun _ => trivial
    | exact trivial
    | (extract_lets +onlyGivenNames x; (fail_if_success have y : True → True := x); (first | (refine (fun (hx : Keep s x) => ?_) ?_; rotate_left; (try unfold x); rotate_left) | (refine (fun (hx : Keep s x.2) => ?_) ?_; rotate_left; (try unfold x); rotate_left) | (refine (fun (hx : Keep s x.2.2) => ?_) ?_; rotate_left; (try unfold x); rotate_left) | (refine (fun (hx : KeepOpt s x) => ?_) ?_; rotate_left; (try unfold x); rotate_left) | (refine (fun (hx : ∀ v : State, Keep s v → Keep s (x v)) => ?_) ?_; rotate_left; (try unfold x); (try intro v hv); rotate_left) | (have y : Mem := x) | (have y : ProtSt := x) | (have y : PoolSt := x) | (have y : PairSt := x) | (have y : HostSt := x) | (have y : TestSt := x) | (have y : Tab Cell := x) | (have y : Tab Word := x) | (try clear_value x)); all_goals have x := @id True)
    | with_reducible apply Touch.ite
    | with_reducible apply Touch.ite2
    | with_reducible apply Touch.ite22
    | with_reducible refine Touch.foldl _ ?_ (fun v a hv => ?_)
    | with_reducible apply State.readCw_touch
    | with_reducible refine State.readCw_keepE (by with_reducible assumption) ?_
    | split
    | intro _ _ _
    | intro _ _
    | fail_if_no_progress (with_reducible refine Touch.upd ?_)
    | with_reducible apply_assumption

theorem State.dirEntry_keepE {a1 a2} {x v} (e : (State.dirEntry u a1 a2) = (x, v)) (h : Keep s u) : Keep s v := by
  have h2 := State.dirEntry_keep (u := u) (a1 := a1) (a2 := a2) h; rw [e] at h2; exact h2


theorem State.correctHit_keep {a1 a2 a3} (h : Keep s u) : Keep s (State.correctHit u a1 a2 a3).2 := by
  unfold State.correctHit
  have x := @id True
  repeat' first
    | with_reducible assumption
    | exact fun _ _ => trivial
    | exact fun _ => trivial
    | exact trivial
    | (extract_lets +onlyGivenNames x; (fail_if_success have y : True → True := x); (first | (refine (fun (hx : Keep s x) => ?_) ?_; rotate_left; (try unfold x); rotate_left) | (refine (fun (hx : Keep s x.2) => ?_) ?_; rotate_left; (try unfold x); rotate_left) | (refine (fun (hx : Keep s x.2.2) => ?_) ?_; rotate_left; (try unfold x); rotate_left) | (refine (fun (hx : KeepOpt s x) => ?_) ?_; rotate_left; (try unfold x); rotate_left) | (refine (fun (hx : ∀ v : State, Keep s v → Keep s (x v)) => ?_) ?_; rotate_left; (try unfold x); (try intro v hv); rotate_left) | (have y : Mem := x) | (have y : ProtSt := x) | (have y : PoolSt := x) | (have y : PairSt := x) | (have y : HostSt := x) | (have y : TestSt := x) | (have y : Tab Cell := x) | (have y : Tab Word := x) | (try clear_value x)); all_goals have x := @id True)
    | with_reducible apply Touch.ite
    | with_reducible apply Touch.ite2
    | with_reducible apply Touch.ite22
    | with_reducible refine Touch.foldl _ ?_ (fun v a hv => ?_)
    | with_reducible apply State.dirEntry_keep
    | with_reducible refine State.dirEntry_keepE (by with_reducible assumption) ?_
    | with_reducible apply State.inc_touch
    | split
    | intro _ _ _
    | intro _ _
    | fail_if_no_progress (with_reducible refine Touch.upd ?_)
    | with_reducible apply_assumption

theorem State.correctHit_keepE {a1 a2 a3} {x v} (e : (State.correctHit u a1 a2 a3) = (x, v)) (h : Keep s u) : Keep s v := by
  have h2 := State.correctHit_keep (u := u) (a1 := a1) (a2 := a2) (a3 := a3) h; rw [e] at h2; exact h2


theorem State.correctWords_keep {a1 a2 a3 a4} (h : Keep s u) : Keep s (State.correctWords u a1 a2 a3 a4).2 := by
  induction a4 generalizing u a1 a2 a3 with
  | nil => exact h
  | cons e l ih =>
    unfold State.correctWords
    have x := @id True
    repeat' first
      | with_reducible assumption
      | exact fun _ _ => trivial
      | exact fun _ => trivial
      | exact trivial
      | (extract_lets +onlyGivenNames x; (fail_if_success have y : True → True := x); (first | (refine (fun (hx : Keep s x) => ?_) ?_; rotate_left; (try unfold x); rotate_left) | (refine (fun (hx : Keep s x.2) => ?_) ?_; rotate_left; (try unfold x); rotate_left) | (refine (fun (hx : Keep s x.2.2) => ?_) ?_; rotate_left; (try unfold x); rotate_left) | (refine (fun (hx : KeepOpt s x) => ?_) ?_; rotate_left; (try unfold x); rotate_left) | (refine (fun (hx : ∀ v : State, Keep s v → Keep s (x v)) => ?_) ?_; rotate_left; (try unfold x); (try intro v hv); rotate_left) | (have y : Mem := x) | (have y : ProtSt := x) | (have y : PoolSt := x) | (have y : PairSt := x) | (have y : HostSt := x) | (have y : TestSt := x) | (have y : Tab Cell := x) | (have y : Tab Word := x) | (try clear_value x)); all_goals have x := @id True)
      | with_reducible apply Touch.ite
      | with_reducible apply Touch.ite2
      | with_reducible apply Touch.ite22
      | with_reducible apply ih
      | with_reducible refine Touch.foldl _ ?_ (fun v a hv => ?_)
      | with_reducible apply State.correctHit_keep
      | with_reducible refine State.correctHit_keepE (by with_reducible assumption) ?_
      | split
      | intro _ _ _
      | intro _ _
      | fail_if_no_progress (with_reducible refine Touch.upd ?_)
      | with_reducible apply_assumption

theorem State.correctWords_keepE {a1 a2 a3 a4} {x v} (e : (State.correctWords u a1 a2 a3 a4) = (x, v)) (h : Keep s u) : Keep s v := by
  have h2 := State.correctWords_keep (u := u) (a1 := a1) (a2 := a2) (a3 := a3) (a4 := a4) h; rw [e] at h2; exact h2


theorem State.compress_keep {a1} (h : Keep s u) : Keep s (State.compress u a1).2 := by
  unfold State.compress
  have x := @id True
  repeat' first
    | with_reducible assumption
    | exact fun _ _ => trivial
    | exact fun _ => trivial
    | exact trivial
    | (extract_lets +onlyGivenNames x; (fail_if_success have y : True → True := x); (first | (refine (fun (hx : Keep s x) => ?_) ?_; rotate_left; (try unfold x); rotate_left) | (refine (fun (hx : Keep s x.2) => ?_) ?_; rotate_left; (try unfold x); rotate_left) | (refine (fun (hx : Keep s x.2.2) => ?_) ?_; rotate_left; (try unfold x); rotate_left) | (refine (fun (hx : KeepOpt s x) => ?_) ?_; rotate_left; (try unfold x); rotate_left) | (refine (fun (hx : ∀ v : State, Keep s v → Keep s (x v)) => ?_) ?_; rotate_left; (try unfold x); (try intro v hv); rotate_left) | (have y : Mem := x) | (have y : ProtSt := x) | (have y : PoolSt := x) | (have y : PairSt := x) | (have y : HostSt := x) | (have y : TestSt := x) | (have y : Tab Cell := x) | (have y : Tab Word := x) | (try clear_value x)); all_goals have x := @id True)
    | with_reducible apply Touch.ite
    | with_reducible apply Touch.ite2
    | with_reducible apply Touch.ite22
    | with_reducible refine Touch.foldl _ ?_ (fun v a hv => ?_)
    | with_reducible apply State.incBy_touch
    | with_reducible apply State.incWrap_touch
    | with_reducible apply State.skip_touch
    | with_reducible apply State.setFlag_touch
    | split
    | intro _ _ _
    | intro _ _
    | fail_if_no_progress (with_reducible refine Touch.upd ?_)
    | with_reducible apply_assumption

theorem State.compress_keepE {a1} {x v} (e : (State.compress u a1) = (x, v)) (h : Keep s u) : Keep s v := by
  have h2 := State.compress_keep (u := u) (a1 := a1) h; rw [e] at h2; exact h2


theorem State.finishFragment_keep {a1 a2 a3} (h : Keep s u) : Keep s (State.finishFragment u a1 a2 a3).2 := by
  unfold State.finishFragment
  have x := @id True
  repeat' first
    | with_reducible assumption
    | exact fun _ _ => trivial
    | exact fun _ => trivial
    | exact trivial
    | (extract_lets +onlyGivenNames x; (fail_if_success have y : True → True := x); (first | (refine (fun (hx : Keep s x) => ?_) ?_; rotate_left; (try unfold x); rotate_left) | (refine (fun (hx : Keep s x.2) => ?_) ?_; rotate_left; (try unfold x); rotate_left) | (refine (fun (hx : Keep s x.2.2) => ?_) ?_; rotate_left; (try unfold x); rotate_left) | (refine (fun (hx : KeepOpt s x) => ?_) ?_; rotate_left; (try unfold x); rotate_left) | (refine (fun (hx : ∀ v : State, Keep s v → Keep s (x v)) => ?_) ?_; rotate_left; (try unfold x); (try intro v hv); rotate_left) | (have y : Mem := x) | (have y : ProtSt := x) | (have y : PoolSt := x) | (have y : PairSt := x) | (have y : HostSt := x) | (have y : TestSt := x) | (have y : Tab Cell := x) | (have y : Tab Word := x) | (try clear_value x)); all_goals have x := @id True)
    | with_reducible apply Touch.ite
    | with_reducible apply Touch.ite2
    | with_reducible apply Touch.ite22
    | with_reducible refine Touch.foldl _ ?_ (fun v a hv => ?_)
    | with_reducible apply State.compress_keep
    | with_reducible refine State.compress_keepE (by with_reducible assumption) ?_
    | split
    | intro _ _ _
    | intro _ _
    | fail_if_no_progress (with_reducible refine Touch.upd ?_)
    | with_reducible apply_assumption

theorem State.finishFragment_keepE {a1 a2 a3} {x v} (e : (State.finishFragment u a1 a2 a3) = (x, v)) (h : Keep s u) : Keep s v := by
  have h2 := State.finishFragment_keep (u := u) (a1 := a1) (a2 := a2) (a3 := a3) h; rw [e] at h2; exact h2


theorem State.treatOrigin_keep {a1 a2} (h : Keep s u) : Keep s (State.treatOrigin u a1 a2).2 := by
  unfold State.treatOrigin
  have x := @id True
  repeat' first
    | with_reducible assumption
    | exact fun _ _ => trivial
    | exact fun _ => trivial
    | exact trivial
    | (extract_lets +onlyGivenNames x; (fail_if_success have y : True → True := x); (first | (refine (fun (hx : Keep s x) => ?_) ?_; rotate_left; (try unfold x); rotate_left) | (refine (fun (hx : Keep s x.2) => ?_) ?_; rotate_left; (try unfold x); rotate_left) | (refine (fun (hx : Keep s x.2.2) => ?_) ?_; rotate_left; (try unfold x); rotate_left) | (refine (fun (hx : KeepOpt s x) => ?_) ?_; rotate_left; (try unfold x); rotate_left) | (refine (fun (hx : ∀ v : State, Keep s v → Keep s (x v)) => ?_) ?_; rotate_left; (try unfold x); (try intro v hv); rotate_left) | (have y : Mem := x) | (have y : ProtSt := x) | (have y : PoolSt := x) | (have y : PairSt := x) | (have y : HostSt := x) | (have y : TestSt := x) | (have y : Tab Cell := x) | (have y : Tab Word := x) | (try clear_value x)); all_goals have x := @id True)
    | with_reducible apply Touch.ite
    | with_reducible apply Touch.ite2
    | with_reducible apply Touch.ite22
    | with_reducible refine Touch.foldl _ ?_ (fun v a hv => ?_)
    | with_reducible apply State.correctWords_keep
    | with_reducible refine State.correctWords_keepE (by with_reducible assumption) ?_
    | with_reducible apply State.finishFragment_keep
    | with_reducible refine State.finishFragment_keepE (by with_reducible assumption) ?_
    | split
    | intro _ _ _
    | intro _ _
    | fail_if_no_progress (with_reducible refine Touch.upd ?_)
    | with_reducible apply_assumption

theorem State.treatOrigin_keepE {a1 a2} {x v} (e : (State.treatOrigin u a1 a2) = (x, v)) (h : Keep s u) : Keep s v := by
  have h2 := State.treatOrigin_keep (u := u) (a1 := a1) (a2 := a2) h; rw [e] at h2; exact h2


theorem treatLoose_keep {f} {n l} (hf : ∀ v l, Keep s v → Keep s (f v l).2) (h : Keep s u) :
    Keep s (treatLoose f n l u).2 := by
  induction n generalizing u l with
  | zero => exact h
  | succ n ih =>
    unfold treatLoose
    split
    · exact h
    · dsimp only
      split
      · exact h
      · exact ih (hf _ _ h)


theorem treatChildren_keep {f} {a1 a2} (hf : ∀ v l, Keep s v → Keep s (f v l).2) (h : Keep s u) :
    Keep s (treatChildren f a1 a2 u).2 := by
  induction a1 generalizing u a2 with
  | nil => exact h
  | cons e l ih =>
    unfold treatChildren
    dsimp only
    split
    · exact treatLoose_keep hf h
    · split
      · exact ih h
      · exact ih (hf _ _ h)


theorem State.treat_keep {n ws} (h : Keep s u) : Keep s (State.treat n u ws).2 := by
  induction n generalizing u ws with
  | zero => exact h
  | succ n ih =>
    have hc : ∀ a b, Keep s (treatChildren (State.treat n) a b u).2 := fun a b => treatChildren_keep (fun _ _ h => ih h) h
    unfold State.treat
    split
    · exact h
    · split
      · exact h
      split
      · exact State.treatOrigin_keep h
      · dsimp only
        split
        · exact hc _ _
        · exact hc _ _

theorem State.treat_keepE {n ws} {x v} (e : State.treat n u ws = (x, v)) (h : Keep s u) : Keep s v := by
  have h2 := State.treat_keep (n := n) (ws := ws) h; rw [e] at h2; exact h2


end Sys2Proof.Machine
end

