-- ==== Sys2Proof/Laws/KeepPool.lean ====
section
/-! SUPPORT. Every operation of these files keeps the invariant, the queue and what has left the node (`Keep`):
Machine/PoolOps, Machine/Pool. -/

set_option Elab.async false
set_option linter.tactic.unusedName false
set_option linter.unusedTactic false
set_option linter.unreachableTactic false
set_option linter.unusedVariables false
set_option linter.unusedSimpArgs false

namespace Sys2Proof.Machine

variable {s u : State}

theorem State.setNext_keep {a1 a2} (h : Keep s u) : Keep s (State.setNext u a1 a2) := by
  unfold State.setNext
  have x := @id True
  repeat' first
    | with_reducible assumption
    | exact fun _ _ => trivial
    | exact fun _ => trivial
    | exact trivial
    | (extract_lets +onlyGivenNames x; (fail_if_success have y : True → True := x); (first | (refine (fun (hx : Keep s x) => ?_) ?_; rotate_left; (try unfold x); rotate_left) | (refine (fun (hx : Keep s x.2) => ?_) ?_; rotate_left; (try unfold x); rotate_left) | (refine (fun (hx : Keep s x.2.2) => ?_) ?_; rotate_left; (try unfold x); rotate_left) | (refine (fun (hx : KeepOpt s x) => ?_) ?_; rotate_left; (try unfold x); rotate_left) | (refine (fun (hx : ∀ v : State, Keep s v → Keep s (x v)) => ?_) ?_; rotate_left; (try unfold x); (try intro v hv); rotate_left) | (have y : Mem := x) | (have y : ProtSt := x) | (have y : PoolSt := x) | (have y : PairSt := x) | (have y : HostSt := x) | (have y : TestSt := x) | (have y : Tab Cell := x) | (have y : Tab Word := x) | (try clear_value x)); all_goals have x := @id True)
    | with_reducible apply Touch.ite
    | with_reducible refine Touch.foldl _ ?_ (fun v a hv => ?_)
    | with_reducible apply State.setRaw_touch
    | split
    | intro _ _ _
    | intro _ _
    | fail_if_no_progress (with_reducible refine Touch.upd ?_)
    | with_reducible apply_assumption


theorem State.joinChains_keep {l : List (List Nat)} (h : Keep s u) : Keep s (u.joinChains l) := by
  induction l generalizing u with
  | nil => exact h
  | cons a l ih =>
    cases l with
    | nil => exact h
    | cons b l => exact ih (State.setNext_keep h)


theorem State.viewsKeep_keep {a1 a2} (h : Keep s u) : Keep s (State.viewsKeep u a1 a2) := by
  unfold State.viewsKeep
  have x := @id True
  repeat' first
    | with_reducible assumption
    | exact fun _ _ => trivial
    | exact fun _ => trivial
    | exact trivial
    | (extract_lets +onlyGivenNames x; (fail_if_success have y : True → True := x); (first | (refine (fun (hx : Keep s x) => ?_) ?_; rotate_left; (try unfold x); rotate_left) | (refine (fun (hx : Keep s x.2) => ?_) ?_; rotate_left; (try unfold x); rotate_left) | (refine (fun (hx : Keep s x.2.2) => ?_) ?_; rotate_left; (try unfold x); rotate_left) | (refine (fun (hx : KeepOpt s x) => ?_) ?_; rotate_left; (try unfold x); rotate_left) | (refine (fun (hx : ∀ v : State, Keep s v → Keep s (x v)) => ?_) ?_; rotate_left; (try unfold x); (try intro v hv); rotate_left) | (have y : Mem := x) | (have y : ProtSt := x) | (have y : PoolSt := x) | (have y : PairSt := x) | (have y : HostSt := x) | (have y : TestSt := x) | (have y : Tab Cell := x) | (have y : Tab Word := x) | (try clear_value x)); all_goals have x := @id True)
    | with_reducible apply Touch.ite
    | with_reducible refine Touch.foldl _ ?_ (fun v a hv => ?_)
    | with_reducible apply State.setItems_touch
    | split
    | intro _ _ _
    | intro _ _
    | fail_if_no_progress (with_reducible refine Touch.upd ?_)
    | with_reducible apply_assumption


theorem State.releaseItem_keep {a1} (h : Keep s u) : Keep s (State.releaseItem u a1) := by
  unfold State.releaseItem
  have x := @id True
  repeat' first
    | with_reducible assumption
    | exact fun _ _ => trivial
    | exact fun _ => trivial
    | exact trivial
    | (extract_lets +onlyGivenNames x; (fail_if_success have y : True → True := x); (first | (refine (fun (hx : Keep s x) => ?_) ?_; rotate_left; (try unfold x); rotate_left) | (refine (fun (hx : Keep s x.2) => ?_) ?_; rotate_left; (try unfold x); rotate_left) | (refine (fun (hx : Keep s x.2.2) => ?_) ?_; rotate_left; (try unfold x); rotate_left) | (refine (fun (hx : KeepOpt s x) => ?_) ?_; rotate_left; (try unfold x); rotate_left) | (refine (fun (hx : ∀ v : State, Keep s v → Keep s (x v)) => ?_) ?_; rotate_left; (try unfold x); (try intro v hv); rotate_left) | (have y : Mem := x) | (have y : ProtSt := x) | (have y : PoolSt := x) | (have y : PairSt := x) | (have y : HostSt := x) | (have y : TestSt := x) | (have y : Tab Cell := x) | (have y : Tab Word := x) | (try clear_value x)); all_goals have x := @id True)
    | with_reducible apply Touch.ite
    | with_reducible refine Touch.foldl _ ?_ (fun v a hv => ?_)
    | with_reducible apply State.checkQueue_touch
    | with_reducible apply State.viewsKeep_keep
    | with_reducible apply State.setItems_touch
    | with_reducible apply State.throttleUpdate_touch
    | with_reducible apply State.freeItem_touch
    | with_reducible apply State.incBy_touch
    | with_reducible apply State.unchoose_touch
    | split
    | intro _ _ _
    | intro _ _
    | fail_if_no_progress (with_reducible refine Touch.upd ?_)
    | with_reducible apply_assumption


theorem State.releaseView_keep {a1} (h : Keep s u) : Keep s (State.releaseView u a1) := by
  unfold State.releaseView
  have x := @id True
  repeat' first
    | with_reducible assumption
    | exact fun _ _ => trivial
    | exact fun _ => trivial
    | exact trivial
    | (extract_lets +onlyGivenNames x; (fail_if_success have y : True → True := x); (first | (refine (fun (hx : Keep s x) => ?_) ?_; rotate_left; (try unfold x); rotate_left) | (refine (fun (hx : Keep s x.2) => ?_) ?_; rotate_left; (try unfold x); rotate_left) | (refine (fun (hx : Keep s x.2.2) => ?_) ?_; rotate_left; (try unfold x); rotate_left) | (refine (fun (hx : KeepOpt s x) => ?_) ?_; rotate_left; (try unfold x); rotate_left) | (refine (fun (hx : ∀ v : State, Keep s v → Keep s (x v)) => ?_) ?_; rotate_left; (try unfold x); (try intro v hv); rotate_left) | (have y : Mem := x) | (have y : ProtSt := x) | (have y : PoolSt := x) | (have y : PairSt := x) | (have y : HostSt := x) | (have y : TestSt := x) | (have y : Tab Cell := x) | (have y : Tab Word := x) | (try clear_value x)); all_goals have x := @id True)
    | with_reducible apply Touch.ite
    | with_reducible refine Touch.foldl _ ?_ (fun v a hv => ?_)
    | with_reducible apply State.throttleUpdate_touch
    | with_reducible apply State.freeItem_touch
    | split
    | intro _ _ _
    | intro _ _
    | fail_if_no_progress (with_reducible refine Touch.upd ?_)
    | with_reducible apply_assumption


theorem State.freeAcked_keep {a1 a2} (h : Keep s u) : Keep s (State.freeAcked u a1 a2) := by
  unfold State.freeAcked
  have x := @id True
  repeat' first
    | with_reducible assumption
    | exact fun _ _ => trivial
    | exact fun _ => trivial
    | exact trivial
    | (extract_lets +onlyGivenNames x; (fail_if_success have y : True → True := x); (first | (refine (fun (hx : Keep s x) => ?_) ?_; rotate_left; (try unfold x); rotate_left) | (refine (fun (hx : Keep s x.2) => ?_) ?_; rotate_left; (try unfold x); rotate_left) | (refine (fun (hx : Keep s x.2.2) => ?_) ?_; rotate_left; (try unfold x); rotate_left) | (refine (fun (hx : KeepOpt s x) => ?_) ?_; rotate_left; (try unfold x); rotate_left) | (refine (fun (hx : ∀ v : State, Keep s v → Keep s (x v)) => ?_) ?_; rotate_left; (try unfold x); (try intro v hv); rotate_left) | (have y : Mem := x) | (have y : ProtSt := x) | (have y : PoolSt := x) | (have y : PairSt := x) | (have y : HostSt := x) | (have y : TestSt := x) | (have y : Tab Cell := x) | (have y : Tab Word := x) | (try clear_value x)); all_goals have x := @id True)
    | with_reducible apply Touch.ite
    | with_reducible refine Touch.foldl _ ?_ (fun v a hv => ?_)
    | with_reducible apply State.releaseItem_keep
    | with_reducible apply State.throttleUpdate_touch
    | with_reducible apply State.modItem_touch
    | with_reducible apply State.viewsKeep_keep
    | split
    | intro _ _ _
    | intro _ _
    | fail_if_no_progress (with_reducible refine Touch.upd ?_)
    | with_reducible apply_assumption


theorem State.freeDelivered_keep (h : Keep s u) : Keep s (State.freeDelivered u) := by
  unfold State.freeDelivered
  have x := @id True
  repeat' first
    | with_reducible assumption
    | exact fun _ _ => trivial
    | exact fun _ => trivial
    | exact trivial
    | (extract_lets +onlyGivenNames x; (fail_if_success have y : True → True := x); (first | (refine (fun (hx : Keep s x) => ?_) ?_; rotate_left; (try unfold x); rotate_left) | (refine (fun (hx : Keep s x.2) => ?_) ?_; rotate_left; (try unfold x); rotate_left) | (refine (fun (hx : Keep s x.2.2) => ?_) ?_; rotate_left; (try unfold x); rotate_left) | (refine (fun (hx : KeepOpt s x) => ?_) ?_; rotate_left; (try unfold x); rotate_left) | (refine (fun (hx : ∀ v : State, Keep s v → Keep s (x v)) => ?_) ?_; rotate_left; (try unfold x); (try intro v hv); rotate_left) | (have y : Mem := x) | (have y : ProtSt := x) | (have y : PoolSt := x) | (have y : PairSt := x) | (have y : HostSt := x) | (have y : TestSt := x) | (have y : Tab Cell := x) | (have y : Tab Word := x) | (try clear_value x)); all_goals have x := @id True)
    | with_reducible apply Touch.ite
    | with_reducible refine Touch.foldl _ ?_ (fun v a hv => ?_)
    | with_reducible apply State.freeAcked_keep
    | split
    | intro _ _ _
    | intro _ _
    | fail_if_no_progress (with_reducible refine Touch.upd ?_)
    | with_reducible apply_assumption


theorem State.skipLag_keep {a0 a2 a3 a4} (h : Keep s u) : Keep s (State.skipLag a0 u a2 a3 a4) := by
  induction a0 generalizing u a2 a3 a4 with
  | zero => exact h
  | succ n ih =>
    unfold State.skipLag
    have x := @id True
    repeat' first
      | with_reducible assumption
      | exact fun _ _ => trivial
      | exact fun _ => trivial
      | exact trivial
      | (extract_lets +onlyGivenNames x; (fail_if_success have y : True → True := x); (first | (refine (fun (hx : Keep s x) => ?_) ?_; rotate_left; (try unfold x); rotate_left) | (refine (fun (hx : Keep s x.2) => ?_) ?_; rotate_left; (try unfold x); rotate_left) | (refine (fun (hx : Keep s x.2.2) => ?_) ?_; rotate_left; (try unfold x); rotate_left) | (refine (fun (hx : KeepOpt s x) => ?_) ?_; rotate_left; (try unfold x); rotate_left) | (refine (fun (hx : ∀ v : State, Keep s v → Keep s (x v)) => ?_) ?_; rotate_left; (try unfold x); (try intro v hv); rotate_left) | (have y : Mem := x) | (have y : ProtSt := x) | (have y : PoolSt := x) | (have y : PairSt := x) | (have y : HostSt := x) | (have y : TestSt := x) | (have y : Tab Cell := x) | (have y : Tab Word := x) | (try clear_value x)); all_goals have x := @id True)
      | with_reducible apply Touch.ite
      | with_reducible apply ih
      | with_reducible refine Touch.foldl _ ?_ (fun v a hv => ?_)
      | with_reducible apply State.modItem_touch
      | with_reducible apply State.inc_touch
      | split
      | intro _ _ _
      | intro _ _
      | fail_if_no_progress (with_reducible refine Touch.upd ?_)
      | with_reducible apply_assumption


theorem State.northLag_keep (h : Keep s u) : Keep s (State.northLag u) := by
  unfold State.northLag
  have x := @id True
  repeat' first
    | with_reducible assumption
    | exact fun _ _ => trivial
    | exact fun _ => trivial
    | exact trivial
    | (extract_lets +onlyGivenNames x; (fail_if_success have y : True → True := x); (first | (refine (fun (hx : Keep s x) => ?_) ?_; rotate_left; (try unfold x); rotate_left) | (refine (fun (hx : Keep s x.2) => ?_) ?_; rotate_left; (try unfold x); rotate_left) | (refine (fun (hx : Keep s x.2.2) => ?_) ?_; rotate_left; (try unfold x); rotate_left) | (refine (fun (hx : KeepOpt s x) => ?_) ?_; rotate_left; (try unfold x); rotate_left) | (refine (fun (hx : ∀ v : State, Keep s v → Keep s (x v)) => ?_) ?_; rotate_left; (try unfold x); (try intro v hv); rotate_left) | (have y : Mem := x) | (have y : ProtSt := x) | (have y : PoolSt := x) | (have y : PairSt := x) | (have y : HostSt := x) | (have y : TestSt := x) | (have y : Tab Cell := x) | (have y : Tab Word := x) | (try clear_value x)); all_goals have x := @id True)
    | with_reducible apply Touch.ite
    | with_reducible refine Touch.foldl _ ?_ (fun v a hv => ?_)
    | with_reducible apply State.freeDelivered_keep
    | with_reducible apply State.skipLag_keep
    | split
    | intro _ _ _
    | intro _ _
    | fail_if_no_progress (with_reducible refine Touch.upd ?_)
    | with_reducible apply_assumption


theorem State.trimRetained_keep (h : Keep s u) : Keep s (State.trimRetained u) := by
  unfold State.trimRetained
  have x := @id True
  repeat' first
    | with_reducible assumption
    | exact fun _ _ => trivial
    | exact fun _ => trivial
    | exact trivial
    | (extract_lets +onlyGivenNames x; (fail_if_success have y : True → True := x); (first | (refine (fun (hx : Keep s x) => ?_) ?_; rotate_left; (try unfold x); rotate_left) | (refine (fun (hx : Keep s x.2) => ?_) ?_; rotate_left; (try unfold x); rotate_left) | (refine (fun (hx : Keep s x.2.2) => ?_) ?_; rotate_left; (try unfold x); rotate_left) | (refine (fun (hx : KeepOpt s x) => ?_) ?_; rotate_left; (try unfold x); rotate_left) | (refine (fun (hx : ∀ v : State, Keep s v → Keep s (x v)) => ?_) ?_; rotate_left; (try unfold x); (try intro v hv); rotate_left) | (have y : Mem := x) | (have y : ProtSt := x) | (have y : PoolSt := x) | (have y : PairSt := x) | (have y : HostSt := x) | (have y : TestSt := x) | (have y : Tab Cell := x) | (have y : Tab Word := x) | (try clear_value x)); all_goals have x := @id True)
    | with_reducible apply Touch.ite
    | with_reducible refine Touch.foldl _ ?_ (fun v a hv => ?_)
    | with_reducible apply State.releaseItem_keep
    | split
    | intro _ _ _
    | intro _ _
    | fail_if_no_progress (with_reducible refine Touch.upd ?_)
    | with_reducible apply_assumption


theorem State.spliceMerged_keep {a1 a2 a3 a4} (h : Keep s u) : Keep s (State.spliceMerged u a1 a2 a3 a4) := by
  unfold State.spliceMerged
  have x := @id True
  repeat' first
    | with_reducible assumption
    | exact fun _ _ => trivial
    | exact fun _ => trivial
    | exact trivial
    | (extract_lets +onlyGivenNames x; (fail_if_success have y : True → True := x); (first | (refine (fun (hx : Keep s x) => ?_) ?_; rotate_left; (try unfold x); rotate_left) | (refine (fun (hx : Keep s x.2) => ?_) ?_; rotate_left; (try unfold x); rotate_left) | (refine (fun (hx : Keep s x.2.2) => ?_) ?_; rotate_left; (try unfold x); rotate_left) | (refine (fun (hx : KeepOpt s x) => ?_) ?_; rotate_left; (try unfold x); rotate_left) | (refine (fun (hx : ∀ v : State, Keep s v → Keep s (x v)) => ?_) ?_; rotate_left; (try unfold x); (try intro v hv); rotate_left) | (have y : Mem := x) | (have y : ProtSt := x) | (have y : PoolSt := x) | (have y : PairSt := x) | (have y : HostSt := x) | (have y : TestSt := x) | (have y : Tab Cell := x) | (have y : Tab Word := x) | (try clear_value x)); all_goals have x := @id True)
    | with_reducible apply Touch.ite
    | with_reducible refine Touch.foldl _ ?_ (fun v a hv => ?_)
    | with_reducible apply State.joinChains_keep
    | with_reducible apply State.writePool_touch
    | with_reducible apply State.releaseItem_keep
    | with_reducible apply State.trimRetained_keep
    | with_reducible apply State.throttleUpdate_touch
    | split
    | intro _ _ _
    | intro _ _
    | fail_if_no_progress (with_reducible refine Touch.upd ?_)
    | with_reducible apply_assumption


theorem State.wrap_keep {a1 a2 a3} (h : Keep s u) : KeepOpt s (State.wrap u a1 a2 a3) := by
  unfold State.wrap
  have x := @id True
  repeat' first
    | with_reducible assumption
    | exact fun _ _ => trivial
    | exact fun _ => trivial
    | exact trivial
    | (extract_lets +onlyGivenNames x; (fail_if_success have y : True → True := x); (first | (refine (fun (hx : Keep s x) => ?_) ?_; rotate_left; (try unfold x); rotate_left) | (refine (fun (hx : Keep s x.2) => ?_) ?_; rotate_left; (try unfold x); rotate_left) | (refine (fun (hx : Keep s x.2.2) => ?_) ?_; rotate_left; (try unfold x); rotate_left) | (refine (fun (hx : KeepOpt s x) => ?_) ?_; rotate_left; (try unfold x); rotate_left) | (refine (fun (hx : ∀ v : State, Keep s v → Keep s (x v)) => ?_) ?_; rotate_left; (try unfold x); (try intro v hv); rotate_left) | (have y : Mem := x) | (have y : ProtSt := x) | (have y : PoolSt := x) | (have y : PairSt := x) | (have y : HostSt := x) | (have y : TestSt := x) | (have y : Tab Cell := x) | (have y : Tab Word := x) | (try clear_value x)); all_goals have x := @id True)
    | with_reducible apply KeepOpt.some
    | with_reducible exact KeepOpt.none
    | with_reducible apply KeepOpt.ite
    | with_reducible apply KeepOpt.map
    | with_reducible apply Touch.ite
    | with_reducible refine Touch.foldl _ ?_ (fun v a hv => ?_)
    | with_reducible apply State.checkQueue_touch
    | with_reducible refine State.allocSlot_touch ?_ trivial (by with_reducible assumption)
    | with_reducible apply State.spliceMerged_keep
    | split
    | intro _ _ _
    | intro _ _
    | fail_if_no_progress (with_reducible refine Touch.upd ?_)
    | with_reducible apply_assumption

theorem State.wrap_keepE {a1 a2 a3} {v} (e : (State.wrap u a1 a2 a3) = some v) (h : Keep s u) : Keep s v :=
  State.wrap_keep h v e


theorem State.modCtx_keep {a1 a2} (h : Keep s u) : Keep s (State.modCtx u a1 a2) := by
  unfold State.modCtx
  have x := @id True
  repeat' first
    | with_reducible assumption
    | exact fun _ _ => trivial
    | exact fun _ => trivial
    | exact trivial
    | (extract_lets +onlyGivenNames x; (fail_if_success have y : True → True := x); (first | (refine (fun (hx : Keep s x) => ?_) ?_; rotate_left; (try unfold x); rotate_left) | (refine (fun (hx : Keep s x.2) => ?_) ?_; rotate_left; (try unfold x); rotate_left) | (refine (fun (hx : Keep s x.2.2) => ?_) ?_; rotate_left; (try unfold x); rotate_left) | (refine (fun (hx : KeepOpt s x) => ?_) ?_; rotate_left; (try unfold x); rotate_left) | (refine (fun (hx : ∀ v : State, Keep s v → Keep s (x v)) => ?_) ?_; rotate_left; (try unfold x); (try intro v hv); rotate_left) | (have y : Mem := x) | (have y : ProtSt := x) | (have y : PoolSt := x) | (have y : PairSt := x) | (have y : HostSt := x) | (have y : TestSt := x) | (have y : Tab Cell := x) | (have y : Tab Word := x) | (try clear_value x)); all_goals have x := @id True)
    | with_reducible apply Touch.ite
    | with_reducible refine Touch.foldl _ ?_ (fun v a hv => ?_)
    | split
    | intro _ _ _
    | intro _ _
    | fail_if_no_progress (with_reducible refine Touch.upd ?_)
    | with_reducible apply_assumption


theorem State.closeNow_keep {a1} (h : Keep s u) : Keep s (State.closeNow u a1) := by
  unfold State.closeNow
  have x := @id True
  repeat' first
    | with_reducible assumption
    | exact fun _ _ => trivial
    | exact fun _ => trivial
    | exact trivial
    | (extract_lets +onlyGivenNames x; (fail_if_success have y : True → True := x); (first | (refine (fun (hx : Keep s x) => ?_) ?_; rotate_left; (try unfold x); rotate_left) | (refine (fun (hx : Keep s x.2) => ?_) ?_; rotate_left; (try unfold x); rotate_left) | (refine (fun (hx : Keep s x.2.2) => ?_) ?_; rotate_left; (try unfold x); rotate_left) | (refine (fun (hx : KeepOpt s x) => ?_) ?_; rotate_left; (try unfold x); rotate_left) | (refine (fun (hx : ∀ v : State, Keep s v → Keep s (x v)) => ?_) ?_; rotate_left; (try unfold x); (try intro v hv); rotate_left) | (have y : Mem := x) | (have y : ProtSt := x) | (have y : PoolSt := x) | (have y : PairSt := x) | (have y : HostSt := x) | (have y : TestSt := x) | (have y : Tab Cell := x) | (have y : Tab Word := x) | (try clear_value x)); all_goals have x := @id True)
    | with_reducible apply Touch.ite
    | with_reducible refine Touch.foldl _ ?_ (fun v a hv => ?_)
    | with_reducible apply State.inc_touch
    | with_reducible apply State.setItems_touch
    | with_reducible apply State.modCtx_keep
    | split
    | intro _ _ _
    | intro _ _
    | fail_if_no_progress (with_reducible refine Touch.upd ?_)
    | with_reducible apply_assumption


theorem State.spliceReads_keep {l : List (List Nat)} (h : Keep s u) : Keep s (u.spliceReads l).2 := by
  induction l generalizing u with
  | nil => exact h
  | cons a l ih =>
    cases l with
    | nil => exact h
    | cons b l => exact ih (State.readCw_touch h fun _ _ => trivial)

theorem State.spliceReads_keepE {l : List (List Nat)} {x v} (e : u.spliceReads l = (x, v)) (h : Keep s u) : Keep s v := by
  have h2 := State.spliceReads_keep (l := l) h; rw [e] at h2; exact h2


theorem Touch.close {P : Comp → Prop} (h : Touch P s u) (hp : P .pool) {e : MergeKey × List (BitVec 12)} :
    Touch P s { u with pool := { u.pool with closedEvents := (e :: u.pool.closedEvents).take 4096 } } := by
  refine h.trans ⟨rfl, List.suffix_refl _, Nat.le_refl _, Nat.le_refl _,
    fun i => { i with closed := by simp only [List.length_take]; exact Nat.min_le_left _ _ }, ?_⟩
  intro c
  cases c
  case pool => exact .inl hp
  all_goals first | exact .inr rfl | exact .inr fun _ => rfl

theorem State.spliceCtx_keep {a1 a2} (h : Keep s u) : Keep s (State.spliceCtx u a1 a2) := by
  unfold State.spliceCtx
  have x := @id True
  repeat' first
    | with_reducible assumption
    | exact fun _ _ => trivial
    | exact fun _ => trivial
    | exact trivial
    | (extract_lets +onlyGivenNames x; (fail_if_success have y : True → True := x); (first | (refine (fun (hx : Keep s x) => ?_) ?_; rotate_left; (try unfold x); rotate_left) | (refine (fun (hx : Keep s x.2) => ?_) ?_; rotate_left; (try unfold x); rotate_left) | (refine (fun (hx : Keep s x.2.2) => ?_) ?_; rotate_left; (try unfold x); rotate_left) | (refine (fun (hx : KeepOpt s x) => ?_) ?_; rotate_left; (try unfold x); rotate_left) | (refine (fun (hx : ∀ v : State, Keep s v → Keep s (x v)) => ?_) ?_; rotate_left; (try unfold x); (try intro v hv); rotate_left) | (have y : Mem := x) | (have y : ProtSt := x) | (have y : PoolSt := x) | (have y : PairSt := x) | (have y : HostSt := x) | (have y : TestSt := x) | (have y : Tab Cell := x) | (have y : Tab Word := x) | (try clear_value x)); all_goals have x := @id True)
    | with_reducible apply Touch.ite
    | with_reducible refine Touch.close ?_ trivial
    | with_reducible refine Touch.foldl _ ?_ (fun v a hv => ?_)
    | with_reducible apply State.spliceMerged_keep
    | split
    | intro _ _ _
    | intro _ _
    | fail_if_no_progress (with_reducible refine Touch.upd ?_)
    | with_reducible apply_assumption


theorem State.closeCtx_keep {a1} (h : Keep s u) : Keep s (State.closeCtx u a1) := by
  unfold State.closeCtx
  have x := @id True
  repeat' first
    | with_reducible assumption
    | exact fun _ _ => trivial
    | exact fun _ => trivial
    | exact trivial
    | (extract_lets +onlyGivenNames x; (fail_if_success have y : True → True := x); (first | (refine (fun (hx : Keep s x) => ?_) ?_; rotate_left; (try unfold x); rotate_left) | (refine (fun (hx : Keep s x.2) => ?_) ?_; rotate_left; (try unfold x); rotate_left) | (refine (fun (hx : Keep s x.2.2) => ?_) ?_; rotate_left; (try unfold x); rotate_left) | (refine (fun (hx : KeepOpt s x) => ?_) ?_; rotate_left; (try unfold x); rotate_left) | (refine (fun (hx : ∀ v : State, Keep s v → Keep s (x v)) => ?_) ?_; rotate_left; (try unfold x); (try intro v hv); rotate_left) | (have y : Mem := x) | (have y : ProtSt := x) | (have y : PoolSt := x) | (have y : PairSt := x) | (have y : HostSt := x) | (have y : TestSt := x) | (have y : Tab Cell := x) | (have y : Tab Word := x) | (try clear_value x)); all_goals have x := @id True)
    | with_reducible apply Touch.ite
    | with_reducible apply Touch.ite2
    | with_reducible apply Touch.ite22
    | with_reducible refine Touch.foldl _ ?_ (fun v a hv => ?_)
    | with_reducible apply State.readMap_touch
    | with_reducible apply State.checkQueue_touch
    | with_reducible refine State.allocSlot_touch ?_ trivial (by with_reducible assumption)
    | with_reducible apply State.spliceReads_keep
    | with_reducible refine State.spliceReads_keepE (by with_reducible assumption) ?_
    | with_reducible apply State.spliceCtx_keep
    | with_reducible apply State.resetQueue_touch
    | split
    | intro _ _ _
    | intro _ _
    | fail_if_no_progress (with_reducible refine Touch.upd ?_)
    | with_reducible apply_assumption


theorem State.forceOldest_keep (h : Keep s u) : Keep s (State.forceOldest u) := by
  unfold State.forceOldest
  have x := @id True
  repeat' first
    | with_reducible assumption
    | exact fun _ _ => trivial
    | exact fun _ => trivial
    | exact trivial
    | (extract_lets +onlyGivenNames x; (fail_if_success have y : True → True := x); (first | (refine (fun (hx : Keep s x) => ?_) ?_; rotate_left; (try unfold x); rotate_left) | (refine (fun (hx : Keep s x.2) => ?_) ?_; rotate_left; (try unfold x); rotate_left) | (refine (fun (hx : Keep s x.2.2) => ?_) ?_; rotate_left; (try unfold x); rotate_left) | (refine (fun (hx : KeepOpt s x) => ?_) ?_; rotate_left; (try unfold x); rotate_left) | (refine (fun (hx : ∀ v : State, Keep s v → Keep s (x v)) => ?_) ?_; rotate_left; (try unfold x); (try intro v hv); rotate_left) | (have y : Mem := x) | (have y : ProtSt := x) | (have y : PoolSt := x) | (have y : PairSt := x) | (have y : HostSt := x) | (have y : TestSt := x) | (have y : Tab Cell := x) | (have y : Tab Word := x) | (try clear_value x)); all_goals have x := @id True)
    | with_reducible apply Touch.ite
    | with_reducible refine Touch.foldl _ ?_ (fun v a hv => ?_)
    | with_reducible apply State.closeCtx_keep
    | with_reducible apply State.inc_touch
    | with_reducible apply State.closeNow_keep
    | split
    | intro _ _ _
    | intro _ _
    | fail_if_no_progress (with_reducible refine Touch.upd ?_)
    | with_reducible apply_assumption


theorem State.openCtx_keep {a1} (h : Keep s u) : Keep s (State.openCtx u a1).2 := by
  unfold State.openCtx
  have x := @id True
  repeat' first
    | with_reducible assumption
    | exact fun _ _ => trivial
    | exact fun _ => trivial
    | exact trivial
    | (extract_lets +onlyGivenNames x; (fail_if_success have y : True → True := x); (first | (refine (fun (hx : Keep s x) => ?_) ?_; rotate_left; (try unfold x); rotate_left) | (refine (fun (hx : Keep s x.2) => ?_) ?_; rotate_left; (try unfold x); rotate_left) | (refine (fun (hx : Keep s x.2.2) => ?_) ?_; rotate_left; (try unfold x); rotate_left) | (refine (fun (hx : KeepOpt s x) => ?_) ?_; rotate_left; (try unfold x); rotate_left) | (refine (fun (hx : ∀ v : State, Keep s v → Keep s (x v)) => ?_) ?_; rotate_left; (try unfold x); (try intro v hv); rotate_left) | (have y : Mem := x) | (have y : ProtSt := x) | (have y : PoolSt := x) | (have y : PairSt := x) | (have y : HostSt := x) | (have y : TestSt := x) | (have y : Tab Cell := x) | (have y : Tab Word := x) | (try clear_value x)); all_goals have x := @id True)
    | with_reducible apply Touch.ite
    | with_reducible apply Touch.ite2
    | with_reducible apply Touch.ite22
    | with_reducible refine Touch.foldl _ ?_ (fun v a hv => ?_)
    | with_reducible apply State.forceOldest_keep
    | with_reducible apply State.modItem_touch
    | split
    | intro _ _ _
    | intro _ _
    | fail_if_no_progress (with_reducible refine Touch.upd ?_)
    | with_reducible apply_assumption

theorem State.openCtx_keepE {a1} {x v} (e : (State.openCtx u a1) = (x, v)) (h : Keep s u) : Keep s v := by
  have h2 := State.openCtx_keep (u := u) (a1 := a1) h; rw [e] at h2; exact h2


theorem State.dropItem_keep {a1} (h : Keep s u) : Keep s (State.dropItem u a1) := by
  unfold State.dropItem
  have x := @id True
  repeat' first
    | with_reducible assumption
    | exact fun _ _ => trivial
    | exact fun _ => trivial
    | exact trivial
    | (extract_lets +onlyGivenNames x; (fail_if_success have y : True → True := x); (first | (refine (fun (hx : Keep s x) => ?_) ?_; rotate_left; (try unfold x); rotate_left) | (refine (fun (hx : Keep s x.2) => ?_) ?_; rotate_left; (try unfold x); rotate_left) | (refine (fun (hx : Keep s x.2.2) => ?_) ?_; rotate_left; (try unfold x); rotate_left) | (refine (fun (hx : KeepOpt s x) => ?_) ?_; rotate_left; (try unfold x); rotate_left) | (refine (fun (hx : ∀ v : State, Keep s v → Keep s (x v)) => ?_) ?_; rotate_left; (try unfold x); (try intro v hv); rotate_left) | (have y : Mem := x) | (have y : ProtSt := x) | (have y : PoolSt := x) | (have y : PairSt := x) | (have y : HostSt := x) | (have y : TestSt := x) | (have y : Tab Cell := x) | (have y : Tab Word := x) | (try clear_value x)); all_goals have x := @id True)
    | with_reducible apply Touch.ite
    | with_reducible refine Touch.foldl _ ?_ (fun v a hv => ?_)
    | with_reducible apply State.loseItem_touch
    | split
    | intro _ _ _
    | intro _ _
    | fail_if_no_progress (with_reducible refine Touch.upd ?_)
    | with_reducible apply_assumption


theorem State.grow_keep {k id n} (h : Keep s u) : Keep s (State.grow k u id n).2 := by
  induction k generalizing u with
  | zero => exact h
  | succ k ih =>
    unfold State.grow
    split
    · exact h
    · split
      · exact h
      · rename_i i _ _
        have hc : Keep s (if u.canGrow i.queue then u else u.checkQueue i.queue) :=
          Touch.ite h (State.checkQueue_touch h fun _ _ => trivial)
        have hg := State.growItem_touch (fuel := 1) (id := id) (n := i.slots.length + 1) hc fun _ _ => trivial
        dsimp only
        split
        · rename_i e
          rw [e] at hg
          exact ih hg
        · exact hg

theorem State.grow_keepE {k id n x v} (e : State.grow k u id n = (x, v)) (h : Keep s u) : Keep s v := by
  have h2 := State.grow_keep (k := k) (id := id) (n := n) h; rw [e] at h2; exact h2


theorem State.addView_keep {a1} (h : Keep s u) : Keep s (State.addView u a1) := by
  unfold State.addView
  have x := @id True
  repeat' first
    | with_reducible assumption
    | exact fun _ _ => trivial
    | exact fun _ => trivial
    | exact trivial
    | (extract_lets +onlyGivenNames x; (fail_if_success have y : True → True := x); (first | (refine (fun (hx : Keep s x) => ?_) ?_; rotate_left; (try unfold x); rotate_left) | (refine (fun (hx : Keep s x.2) => ?_) ?_; rotate_left; (try unfold x); rotate_left) | (refine (fun (hx : Keep s x.2.2) => ?_) ?_; rotate_left; (try unfold x); rotate_left) | (refine (fun (hx : KeepOpt s x) => ?_) ?_; rotate_left; (try unfold x); rotate_left) | (refine (fun (hx : ∀ v : State, Keep s v → Keep s (x v)) => ?_) ?_; rotate_left; (try unfold x); (try intro v hv); rotate_left) | (have y : Mem := x) | (have y : ProtSt := x) | (have y : PoolSt := x) | (have y : PairSt := x) | (have y : HostSt := x) | (have y : TestSt := x) | (have y : Tab Cell := x) | (have y : Tab Word := x) | (try clear_value x)); all_goals have x := @id True)
    | with_reducible apply Touch.ite
    | with_reducible refine Touch.foldl _ ?_ (fun v a hv => ?_)
    | split
    | intro _ _ _
    | intro _ _
    | fail_if_no_progress (with_reducible refine Touch.upd ?_)
    | with_reducible apply_assumption


theorem State.completeFragment_keep {a1 a2 a3} (h : Keep s u) : Keep s (State.completeFragment u a1 a2 a3) := by
  unfold State.completeFragment
  have x := @id True
  repeat' first
    | with_reducible assumption
    | exact fun _ _ => trivial
    | exact fun _ => trivial
    | exact trivial
    | (extract_lets +onlyGivenNames x; (fail_if_success have y : True → True := x); (first | (refine (fun (hx : Keep s x) => ?_) ?_; rotate_left; (try unfold x); rotate_left) | (refine (fun (hx : Keep s x.2) => ?_) ?_; rotate_left; (try unfold x); rotate_left) | (refine (fun (hx : Keep s x.2.2) => ?_) ?_; rotate_left; (try unfold x); rotate_left) | (refine (fun (hx : KeepOpt s x) => ?_) ?_; rotate_left; (try unfold x); rotate_left) | (refine (fun (hx : ∀ v : State, Keep s v → Keep s (x v)) => ?_) ?_; rotate_left; (try unfold x); (try intro v hv); rotate_left) | (have y : Mem := x) | (have y : ProtSt := x) | (have y : PoolSt := x) | (have y : PairSt := x) | (have y : HostSt := x) | (have y : TestSt := x) | (have y : Tab Cell := x) | (have y : Tab Word := x) | (try clear_value x)); all_goals have x := @id True)
    | with_reducible apply Touch.ite
    | with_reducible refine Touch.foldl _ ?_ (fun v a hv => ?_)
    | with_reducible apply State.modItem_touch
    | with_reducible apply State.completeItem_touch
    | split
    | intro _ _ _
    | intro _ _
    | fail_if_no_progress (with_reducible refine Touch.upd ?_)
    | with_reducible apply_assumption


theorem State.placeFragment_keep {a1 a2 a3 a4 a5} (h : Keep s u) : KeepOpt s (State.placeFragment u a1 a2 a3 a4 a5) := by
  unfold State.placeFragment
  have x := @id True
  repeat' first
    | with_reducible assumption
    | exact fun _ _ => trivial
    | exact fun _ => trivial
    | exact trivial
    | (extract_lets +onlyGivenNames x; (fail_if_success have y : True → True := x); (first | (refine (fun (hx : Keep s x) => ?_) ?_; rotate_left; (try unfold x); rotate_left) | (refine (fun (hx : Keep s x.2) => ?_) ?_; rotate_left; (try unfold x); rotate_left) | (refine (fun (hx : Keep s x.2.2) => ?_) ?_; rotate_left; (try unfold x); rotate_left) | (refine (fun (hx : KeepOpt s x) => ?_) ?_; rotate_left; (try unfold x); rotate_left) | (refine (fun (hx : ∀ v : State, Keep s v → Keep s (x v)) => ?_) ?_; rotate_left; (try unfold x); (try intro v hv); rotate_left) | (have y : Mem := x) | (have y : ProtSt := x) | (have y : PoolSt := x) | (have y : PairSt := x) | (have y : HostSt := x) | (have y : TestSt := x) | (have y : Tab Cell := x) | (have y : Tab Word := x) | (try clear_value x)); all_goals have x := @id True)
    | with_reducible apply KeepOpt.getD
    | with_reducible apply KeepOpt.ite
    | with_reducible exact KeepOpt.none
    | with_reducible apply KeepOpt.some
    | with_reducible exact KeepOpt.none
    | with_reducible apply KeepOpt.ite
    | with_reducible apply KeepOpt.map
    | with_reducible apply Touch.ite
    | with_reducible refine Touch.foldl _ ?_ (fun v a hv => ?_)
    | with_reducible refine State.wrap_keepE (by with_reducible assumption) ?_
    | with_reducible apply State.wrap_keep
    | with_reducible apply State.modItem_touch
    | with_reducible apply State.modCtx_keep
    | split
    | intro _ _ _
    | intro _ _
    | fail_if_no_progress (with_reducible refine Touch.upd ?_)
    | with_reducible apply_assumption

theorem State.placeFragment_keepE {a1 a2 a3 a4 a5} {v} (e : (State.placeFragment u a1 a2 a3 a4 a5) = some v) (h : Keep s u) : Keep s v :=
  State.placeFragment_keep h v e


theorem State.ownLoss_keep (h : Keep s u) : Keep s (State.ownLoss u) := by
  unfold State.ownLoss
  have x := @id True
  repeat' first
    | with_reducible assumption
    | exact fun _ _ => trivial
    | exact fun _ => trivial
    | exact trivial
    | (extract_lets +onlyGivenNames x; (fail_if_success have y : True → True := x); (first | (refine (fun (hx : Keep s x) => ?_) ?_; rotate_left; (try unfold x); rotate_left) | (refine (fun (hx : Keep s x.2) => ?_) ?_; rotate_left; (try unfold x); rotate_left) | (refine (fun (hx : Keep s x.2.2) => ?_) ?_; rotate_left; (try unfold x); rotate_left) | (refine (fun (hx : KeepOpt s x) => ?_) ?_; rotate_left; (try unfold x); rotate_left) | (refine (fun (hx : ∀ v : State, Keep s v → Keep s (x v)) => ?_) ?_; rotate_left; (try unfold x); (try intro v hv); rotate_left) | (have y : Mem := x) | (have y : ProtSt := x) | (have y : PoolSt := x) | (have y : PairSt := x) | (have y : HostSt := x) | (have y : TestSt := x) | (have y : Tab Cell := x) | (have y : Tab Word := x) | (try clear_value x)); all_goals have x := @id True)
    | with_reducible apply Touch.ite
    | with_reducible refine Touch.foldl _ ?_ (fun v a hv => ?_)
    | with_reducible apply State.incWrap_touch
    | split
    | intro _ _ _
    | intro _ _
    | fail_if_no_progress (with_reducible refine Touch.upd ?_)
    | with_reducible apply_assumption


theorem State.openFrag_keep {a1} (h : Keep s u) : Keep s (State.openFrag u a1).2 := by
  unfold State.openFrag
  have x := @id True
  repeat' first
    | with_reducible assumption
    | exact fun _ _ => trivial
    | exact fun _ => trivial
    | exact trivial
    | (extract_lets +onlyGivenNames x; (fail_if_success have y : True → True := x); (first | (refine (fun (hx : Keep s x) => ?_) ?_; rotate_left; (try unfold x); rotate_left) | (refine (fun (hx : Keep s x.2) => ?_) ?_; rotate_left; (try unfold x); rotate_left) | (refine (fun (hx : Keep s x.2.2) => ?_) ?_; rotate_left; (try unfold x); rotate_left) | (refine (fun (hx : KeepOpt s x) => ?_) ?_; rotate_left; (try unfold x); rotate_left) | (refine (fun (hx : ∀ v : State, Keep s v → Keep s (x v)) => ?_) ?_; rotate_left; (try unfold x); (try intro v hv); rotate_left) | (have y : Mem := x) | (have y : ProtSt := x) | (have y : PoolSt := x) | (have y : PairSt := x) | (have y : HostSt := x) | (have y : TestSt := x) | (have y : Tab Cell := x) | (have y : Tab Word := x) | (try clear_value x)); all_goals have x := @id True)
    | with_reducible apply Touch.ite
    | with_reducible apply Touch.ite2
    | with_reducible apply Touch.ite22
    | with_reducible refine Touch.foldl _ ?_ (fun v a hv => ?_)
    | with_reducible apply State.checkQueue_touch
    | with_reducible apply State.growItem_touch
    | with_reducible refine State.growItem_keepE (by with_reducible assumption) ?_
    | with_reducible apply State.modItem_touch
    | with_reducible apply State.newItem_touch
    | with_reducible apply State.skip_touch
    | with_reducible apply State.writeSlots_touch
    | with_reducible apply State.modFrag_keep
    | with_reducible apply State.throttleUpdate_touch
    | with_reducible apply State.modCtx_keep
    | with_reducible apply State.ownLoss_keep
    | with_reducible apply State.freeItem_touch
    | split
    | intro _ _ _
    | intro _ _
    | fail_if_no_progress (with_reducible refine Touch.upd ?_)
    | with_reducible apply_assumption

theorem State.openFrag_keepE {a1} {x v} (e : (State.openFrag u a1) = (x, v)) (h : Keep s u) : Keep s v := by
  have h2 := State.openFrag_keep (u := u) (a1 := a1) h; rw [e] at h2; exact h2


theorem State.beginFrag_keep {a1} (h : Keep s u) : Keep s (State.beginFrag u a1) := by
  unfold State.beginFrag
  have x := @id True
  repeat' first
    | with_reducible assumption
    | exact fun _ _ => trivial
    | exact fun _ => trivial
    | exact trivial
    | (extract_lets +onlyGivenNames x; (fail_if_success have y : True → True := x); (first | (refine (fun (hx : Keep s x) => ?_) ?_; rotate_left; (try unfold x); rotate_left) | (refine (fun (hx : Keep s x.2) => ?_) ?_; rotate_left; (try unfold x); rotate_left) | (refine (fun (hx : Keep s x.2.2) => ?_) ?_; rotate_left; (try unfold x); rotate_left) | (refine (fun (hx : KeepOpt s x) => ?_) ?_; rotate_left; (try unfold x); rotate_left) | (refine (fun (hx : ∀ v : State, Keep s v → Keep s (x v)) => ?_) ?_; rotate_left; (try unfold x); (try intro v hv); rotate_left) | (have y : Mem := x) | (have y : ProtSt := x) | (have y : PoolSt := x) | (have y : PairSt := x) | (have y : HostSt := x) | (have y : TestSt := x) | (have y : Tab Cell := x) | (have y : Tab Word := x) | (try clear_value x)); all_goals have x := @id True)
    | with_reducible apply Touch.ite
    | with_reducible refine Touch.foldl _ ?_ (fun v a hv => ?_)
    | with_reducible apply State.newFrag_keep
    | split
    | intro _ _ _
    | intro _ _
    | fail_if_no_progress (with_reducible refine Touch.upd ?_)
    | with_reducible apply_assumption


theorem State.storeUnit_keep {a1} (h : Keep s u) : Keep s (State.storeUnit u a1).2 := by
  unfold State.storeUnit
  have x := @id True
  repeat' first
    | with_reducible assumption
    | exact fun _ _ => trivial
    | exact fun _ => trivial
    | exact trivial
    | (extract_lets +onlyGivenNames x; (fail_if_success have y : True → True := x); (first | (refine (fun (hx : Keep s x) => ?_) ?_; rotate_left; (try unfold x); rotate_left) | (refine (fun (hx : Keep s x.2) => ?_) ?_; rotate_left; (try unfold x); rotate_left) | (refine (fun (hx : Keep s x.2.2) => ?_) ?_; rotate_left; (try unfold x); rotate_left) | (refine (fun (hx : KeepOpt s x) => ?_) ?_; rotate_left; (try unfold x); rotate_left) | (refine (fun (hx : ∀ v : State, Keep s v → Keep s (x v)) => ?_) ?_; rotate_left; (try unfold x); (try intro v hv); rotate_left) | (have y : Mem := x) | (have y : ProtSt := x) | (have y : PoolSt := x) | (have y : PairSt := x) | (have y : HostSt := x) | (have y : TestSt := x) | (have y : Tab Cell := x) | (have y : Tab Word := x) | (try clear_value x)); all_goals have x := @id True)
    | with_reducible apply Touch.ite
    | with_reducible apply Touch.ite2
    | with_reducible apply Touch.ite22
    | with_reducible refine Touch.foldl _ ?_ (fun v a hv => ?_)
    | with_reducible apply State.openFrag_keep
    | with_reducible refine State.openFrag_keepE (by with_reducible assumption) ?_
    | with_reducible apply State.beginFrag_keep
    | with_reducible apply State.correctWords_keep
    | with_reducible refine State.correctWords_keepE (by with_reducible assumption) ?_
    | with_reducible apply State.modFrag_keep
    | with_reducible apply State.grow_keep
    | with_reducible refine State.grow_keepE (by with_reducible assumption) ?_
    | with_reducible apply State.throttleUpdate_touch
    | with_reducible apply State.modItem_touch
    | with_reducible apply State.ownLoss_keep
    | split
    | intro _ _ _
    | intro _ _
    | fail_if_no_progress (with_reducible refine Touch.upd ?_)
    | with_reducible apply_assumption

theorem State.storeUnit_keepE {a1} {x v} (e : (State.storeUnit u a1) = (x, v)) (h : Keep s u) : Keep s v := by
  have h2 := State.storeUnit_keep (u := u) (a1 := a1) h; rw [e] at h2; exact h2


theorem State.noteOwnLost_keep {a1} (h : Keep s u) : Keep s (State.noteOwnLost u a1) := by
  unfold State.noteOwnLost
  have x := @id True
  repeat' first
    | with_reducible assumption
    | exact fun _ _ => trivial
    | exact fun _ => trivial
    | exact trivial
    | (extract_lets +onlyGivenNames x; (fail_if_success have y : True → True := x); (first | (refine (fun (hx : Keep s x) => ?_) ?_; rotate_left; (try unfold x); rotate_left) | (refine (fun (hx : Keep s x.2) => ?_) ?_; rotate_left; (try unfold x); rotate_left) | (refine (fun (hx : Keep s x.2.2) => ?_) ?_; rotate_left; (try unfold x); rotate_left) | (refine (fun (hx : KeepOpt s x) => ?_) ?_; rotate_left; (try unfold x); rotate_left) | (refine (fun (hx : ∀ v : State, Keep s v → Keep s (x v)) => ?_) ?_; rotate_left; (try unfold x); (try intro v hv); rotate_left) | (have y : Mem := x) | (have y : ProtSt := x) | (have y : PoolSt := x) | (have y : PairSt := x) | (have y : HostSt := x) | (have y : TestSt := x) | (have y : Tab Cell := x) | (have y : Tab Word := x) | (try clear_value x)); all_goals have x := @id True)
    | with_reducible apply Touch.ite
    | with_reducible refine Touch.foldl _ ?_ (fun v a hv => ?_)
    | split
    | intro _ _ _
    | intro _ _
    | fail_if_no_progress (with_reducible refine Touch.upd ?_)
    | with_reducible apply_assumption


theorem State.ownComplete_keep {a1} (h : Keep s u) : KeepOpt s (State.ownComplete u a1) := by
  unfold State.ownComplete
  have x := @id True
  repeat' first
    | with_reducible assumption
    | exact fun _ _ => trivial
    | exact fun _ => trivial
    | exact trivial
    | (extract_lets +onlyGivenNames x; (fail_if_success have y : True → True := x); (first | (refine (fun (hx : Keep s x) => ?_) ?_; rotate_left; (try unfold x); rotate_left) | (refine (fun (hx : Keep s x.2) => ?_) ?_; rotate_left; (try unfold x); rotate_left) | (refine (fun (hx : Keep s x.2.2) => ?_) ?_; rotate_left; (try unfold x); rotate_left) | (refine (fun (hx : KeepOpt s x) => ?_) ?_; rotate_left; (try unfold x); rotate_left) | (refine (fun (hx : ∀ v : State, Keep s v → Keep s (x v)) => ?_) ?_; rotate_left; (try unfold x); (try intro v hv); rotate_left) | (have y : Mem := x) | (have y : ProtSt := x) | (have y : PoolSt := x) | (have y : PairSt := x) | (have y : HostSt := x) | (have y : TestSt := x) | (have y : Tab Cell := x) | (have y : Tab Word := x) | (try clear_value x)); all_goals have x := @id True)
    | with_reducible apply KeepOpt.getD
    | with_reducible apply KeepOpt.ite
    | with_reducible exact KeepOpt.none
    | with_reducible apply KeepOpt.some
    | with_reducible exact KeepOpt.none
    | with_reducible apply KeepOpt.ite
    | with_reducible apply KeepOpt.map
    | with_reducible apply Touch.ite
    | with_reducible apply Touch.ite2
    | with_reducible apply Touch.ite22
    | with_reducible refine Touch.foldl _ ?_ (fun v a hv => ?_)
    | with_reducible apply State.checkQueue_touch
    | with_reducible apply State.finishFragment_keep
    | with_reducible refine State.finishFragment_keepE (by with_reducible assumption) ?_
    | with_reducible apply State.grow_keep
    | with_reducible refine State.grow_keepE (by with_reducible assumption) ?_
    | with_reducible apply State.modItem_touch
    | with_reducible apply State.throttleUpdate_touch
    | with_reducible apply State.noteOwnLost_keep
    | with_reducible apply State.dropItem_keep
    | with_reducible apply State.completeFragment_keep
    | with_reducible apply State.addView_keep
    | with_reducible apply State.openCtx_keep
    | with_reducible refine State.openCtx_keepE (by with_reducible assumption) ?_
    | with_reducible refine State.placeFragment_keepE (by with_reducible assumption) ?_
    | with_reducible apply State.placeFragment_keep
    | split
    | intro _ _ _
    | intro _ _
    | fail_if_no_progress (with_reducible refine Touch.upd ?_)
    | with_reducible apply_assumption

theorem State.ownComplete_keepE {a1} {v} (e : (State.ownComplete u a1) = some v) (h : Keep s u) : Keep s v :=
  State.ownComplete_keep h v e


theorem State.countDup_keep {a1} (h : Keep s u) : Keep s (State.countDup u a1) := by
  unfold State.countDup
  have x := @id True
  repeat' first
    | with_reducible assumption
    | exact fun _ _ => trivial
    | exact fun _ => trivial
    | exact trivial
    | (extract_lets +onlyGivenNames x; (fail_if_success have y : True → True := x); (first | (refine (fun (hx : Keep s x) => ?_) ?_; rotate_left; (try unfold x); rotate_left) | (refine (fun (hx : Keep s x.2) => ?_) ?_; rotate_left; (try unfold x); rotate_left) | (refine (fun (hx : Keep s x.2.2) => ?_) ?_; rotate_left; (try unfold x); rotate_left) | (refine (fun (hx : KeepOpt s x) => ?_) ?_; rotate_left; (try unfold x); rotate_left) | (refine (fun (hx : ∀ v : State, Keep s v → Keep s (x v)) => ?_) ?_; rotate_left; (try unfold x); (try intro v hv); rotate_left) | (have y : Mem := x) | (have y : ProtSt := x) | (have y : PoolSt := x) | (have y : PairSt := x) | (have y : HostSt := x) | (have y : TestSt := x) | (have y : Tab Cell := x) | (have y : Tab Word := x) | (try clear_value x)); all_goals have x := @id True)
    | with_reducible apply Touch.ite
    | with_reducible refine Touch.foldl _ ?_ (fun v a hv => ?_)
    | with_reducible apply State.inc_touch
    | split
    | intro _ _ _
    | intro _ _
    | fail_if_no_progress (with_reducible refine Touch.upd ?_)
    | with_reducible apply_assumption


theorem State.setAsm_keep {a1 a2} (h : Keep s u) : Keep s (State.setAsm u a1 a2) := by
  unfold State.setAsm
  have x := @id True
  repeat' first
    | with_reducible assumption
    | exact fun _ _ => trivial
    | exact fun _ => trivial
    | exact trivial
    | (extract_lets +onlyGivenNames x; (fail_if_success have y : True → True := x); (first | (refine (fun (hx : Keep s x) => ?_) ?_; rotate_left; (try unfold x); rotate_left) | (refine (fun (hx : Keep s x.2) => ?_) ?_; rotate_left; (try unfold x); rotate_left) | (refine (fun (hx : Keep s x.2.2) => ?_) ?_; rotate_left; (try unfold x); rotate_left) | (refine (fun (hx : KeepOpt s x) => ?_) ?_; rotate_left; (try unfold x); rotate_left) | (refine (fun (hx : ∀ v : State, Keep s v → Keep s (x v)) => ?_) ?_; rotate_left; (try unfold x); (try intro v hv); rotate_left) | (have y : Mem := x) | (have y : ProtSt := x) | (have y : PoolSt := x) | (have y : PairSt := x) | (have y : HostSt := x) | (have y : TestSt := x) | (have y : Tab Cell := x) | (have y : Tab Word := x) | (try clear_value x)); all_goals have x := @id True)
    | with_reducible apply Touch.ite
    | with_reducible refine Touch.foldl _ ?_ (fun v a hv => ?_)
    | split
    | intro _ _ _
    | intro _ _
    | fail_if_no_progress (with_reducible refine Touch.upd ?_)
    | with_reducible apply_assumption


theorem State.beginArrival_keep {a1 a2 a3 a4 a5 a6} (h : Keep s u) : Keep s (State.beginArrival u a1 a2 a3 a4 a5 a6).2 := by
  unfold State.beginArrival
  extract_lets v id mine
  have hv : Keep s v := Touch.ite h (State.checkQueue_touch h fun _ _ => trivial)
  have hm : ∀ w st it, Keep s w → Keep s (mine w st it) := by
    intro w st it hw
    cases a4 with
    | none => exact hw
    | some k => exact Touch.ite (State.modCtx_keep hw) hw
  clear_value mine v
  have hg := State.growItem_touch (fuel := 2) (id := id) (n := 1)
    (State.modItem_touch (id := id) (f := fun i => { i with key := a4, hidden := a5, src := some a1 })
      (State.newItem_touch (q := a2) (c := a3) hv trivial) trivial) fun _ _ => trivial
  split <;> rename_i e <;> rw [e] at hg
  · exact State.throttleUpdate_touch (State.setAsm_keep (hm _ _ _ hg)) fun _ _ => trivial
  · exact hm _ _ _ (State.setAsm_keep (State.countLost_touch (State.freeItem_touch hg trivial) fun _ _ => trivial))
  · exact State.freeItem_touch hg trivial

theorem State.beginArrival_keepE {a1 a2 a3 a4 a5 a6 x v} (e : State.beginArrival u a1 a2 a3 a4 a5 a6 = (x, v)) (h : Keep s u) :
    Keep s v := by
  have h2 := State.beginArrival_keep (a1 := a1) (a2 := a2) (a3 := a3) (a4 := a4) (a5 := a5) (a6 := a6) h; rw [e] at h2; exact h2


theorem State.firstWord_keep {a1 a2} (h : Keep s u) : Keep s (State.firstWord u a1 a2).2 := by
  unfold State.firstWord
  have x := @id True
  repeat' first
    | with_reducible assumption
    | exact fun _ _ => trivial
    | exact fun _ => trivial
    | exact trivial
    | (extract_lets +onlyGivenNames x; (fail_if_success have y : True → True := x); (first | (refine (fun (hx : Keep s x) => ?_) ?_; rotate_left; (try unfold x); rotate_left) | (refine (fun (hx : Keep s x.2) => ?_) ?_; rotate_left; (try unfold x); rotate_left) | (refine (fun (hx : Keep s x.2.2) => ?_) ?_; rotate_left; (try unfold x); rotate_left) | (refine (fun (hx : KeepOpt s x) => ?_) ?_; rotate_left; (try unfold x); rotate_left) | (refine (fun (hx : ∀ v : State, Keep s v → Keep s (x v)) => ?_) ?_; rotate_left; (try unfold x); (try intro v hv); rotate_left) | (have y : Mem := x) | (have y : ProtSt := x) | (have y : PoolSt := x) | (have y : PairSt := x) | (have y : HostSt := x) | (have y : TestSt := x) | (have y : Tab Cell := x) | (have y : Tab Word := x) | (try clear_value x)); all_goals have x := @id True)
    | with_reducible apply Touch.ite
    | with_reducible apply Touch.ite2
    | with_reducible apply Touch.ite22
    | with_reducible refine Touch.foldl _ ?_ (fun v a hv => ?_)
    | with_reducible apply State.beginArrival_keep
    | with_reducible refine State.beginArrival_keepE (by with_reducible assumption) ?_
    | with_reducible apply State.setAsm_keep
    | with_reducible apply State.countDup_keep
    | with_reducible apply State.inc_touch
    | with_reducible apply State.openCtx_keep
    | with_reducible refine State.openCtx_keepE (by with_reducible assumption) ?_
    | split
    | intro _ _ _
    | intro _ _
    | fail_if_no_progress (with_reducible refine Touch.upd ?_)
    | with_reducible apply_assumption

theorem State.firstWord_keepE {a1 a2} {x v} (e : (State.firstWord u a1 a2) = (x, v)) (h : Keep s u) : Keep s v := by
  have h2 := State.firstWord_keep (u := u) (a1 := a1) (a2 := a2) h; rw [e] at h2; exact h2


theorem State.appendWord_keep {a1 a2} (h : Keep s u) : Keep s (State.appendWord u a1 a2).2 := by
  unfold State.appendWord
  have x := @id True
  repeat' first
    | with_reducible assumption
    | exact fun _ _ => trivial
    | exact fun _ => trivial
    | exact trivial
    | (extract_lets +onlyGivenNames x; (fail_if_success have y : True → True := x); (first | (refine (fun (hx : Keep s x) => ?_) ?_; rotate_left; (try unfold x); rotate_left) | (refine (fun (hx : Keep s x.2) => ?_) ?_; rotate_left; (try unfold x); rotate_left) | (refine (fun (hx : Keep s x.2.2) => ?_) ?_; rotate_left; (try unfold x); rotate_left) | (refine (fun (hx : KeepOpt s x) => ?_) ?_; rotate_left; (try unfold x); rotate_left) | (refine (fun (hx : ∀ v : State, Keep s v → Keep s (x v)) => ?_) ?_; rotate_left; (try unfold x); (try intro v hv); rotate_left) | (have y : Mem := x) | (have y : ProtSt := x) | (have y : PoolSt := x) | (have y : PairSt := x) | (have y : HostSt := x) | (have y : TestSt := x) | (have y : Tab Cell := x) | (have y : Tab Word := x) | (try clear_value x)); all_goals have x := @id True)
    | with_reducible apply Touch.ite
    | with_reducible apply Touch.ite2
    | with_reducible apply Touch.ite22
    | with_reducible refine Touch.foldl _ ?_ (fun v a hv => ?_)
    | with_reducible apply State.grow_keep
    | with_reducible refine State.grow_keepE (by with_reducible assumption) ?_
    | with_reducible apply State.throttleUpdate_touch
    | with_reducible apply State.modItem_touch
    | with_reducible apply State.setAsm_keep
    | with_reducible apply State.dropItem_keep
    | split
    | intro _ _ _
    | intro _ _
    | fail_if_no_progress (with_reducible refine Touch.upd ?_)
    | with_reducible apply_assumption

theorem State.appendWord_keepE {a1 a2} {x v} (e : (State.appendWord u a1 a2) = (x, v)) (h : Keep s u) : Keep s v := by
  have h2 := State.appendWord_keep (u := u) (a1 := a1) (a2 := a2) h; rw [e] at h2; exact h2


theorem State.lastWord_keep {a1} (h : Keep s u) : Keep s (State.lastWord u a1) := by
  unfold State.lastWord
  have x := @id True
  repeat' first
    | with_reducible assumption
    | exact fun _ _ => trivial
    | exact fun _ => trivial
    | exact trivial
    | (extract_lets +onlyGivenNames x; (fail_if_success have y : True → True := x); (first | (refine (fun (hx : Keep s x) => ?_) ?_; rotate_left; (try unfold x); rotate_left) | (refine (fun (hx : Keep s x.2) => ?_) ?_; rotate_left; (try unfold x); rotate_left) | (refine (fun (hx : Keep s x.2.2) => ?_) ?_; rotate_left; (try unfold x); rotate_left) | (refine (fun (hx : KeepOpt s x) => ?_) ?_; rotate_left; (try unfold x); rotate_left) | (refine (fun (hx : ∀ v : State, Keep s v → Keep s (x v)) => ?_) ?_; rotate_left; (try unfold x); (try intro v hv); rotate_left) | (have y : Mem := x) | (have y : ProtSt := x) | (have y : PoolSt := x) | (have y : PairSt := x) | (have y : HostSt := x) | (have y : TestSt := x) | (have y : Tab Cell := x) | (have y : Tab Word := x) | (try clear_value x)); all_goals have x := @id True)
    | with_reducible apply Touch.ite
    | with_reducible apply Touch.ite2
    | with_reducible apply Touch.ite22
    | with_reducible refine Touch.foldl _ ?_ (fun v a hv => ?_)
    | with_reducible apply State.setAsm_keep
    | with_reducible apply State.treat_keep
    | with_reducible refine State.treat_keepE (by with_reducible assumption) ?_
    | with_reducible apply State.modItem_touch
    | with_reducible apply State.completeItem_touch
    | with_reducible apply State.checkQueue_touch
    | with_reducible apply State.throttleUpdate_touch
    | with_reducible apply State.freeItem_touch
    | split
    | intro _ _ _
    | intro _ _
    | fail_if_no_progress (with_reducible refine Touch.upd ?_)
    | with_reducible apply_assumption


theorem State.portWord_keep {a1 a2} (h : Keep s u) : Keep s (State.portWord u a1 a2).2 := by
  unfold State.portWord
  have x := @id True
  repeat' first
    | with_reducible assumption
    | exact fun _ _ => trivial
    | exact fun _ => trivial
    | exact trivial
    | (extract_lets +onlyGivenNames x; (fail_if_success have y : True → True := x); (first | (refine (fun (hx : Keep s x) => ?_) ?_; rotate_left; (try unfold x); rotate_left) | (refine (fun (hx : Keep s x.2) => ?_) ?_; rotate_left; (try unfold x); rotate_left) | (refine (fun (hx : Keep s x.2.2) => ?_) ?_; rotate_left; (try unfold x); rotate_left) | (refine (fun (hx : KeepOpt s x) => ?_) ?_; rotate_left; (try unfold x); rotate_left) | (refine (fun (hx : ∀ v : State, Keep s v → Keep s (x v)) => ?_) ?_; rotate_left; (try unfold x); (try intro v hv); rotate_left) | (have y : Mem := x) | (have y : ProtSt := x) | (have y : PoolSt := x) | (have y : PairSt := x) | (have y : HostSt := x) | (have y : TestSt := x) | (have y : Tab Cell := x) | (have y : Tab Word := x) | (try clear_value x)); all_goals have x := @id True)
    | with_reducible apply Touch.ite
    | with_reducible apply Touch.ite2
    | with_reducible apply Touch.ite22
    | with_reducible refine Touch.foldl _ ?_ (fun v a hv => ?_)
    | with_reducible apply State.firstWord_keep
    | with_reducible refine State.firstWord_keepE (by with_reducible assumption) ?_
    | with_reducible apply State.appendWord_keep
    | with_reducible refine State.appendWord_keepE (by with_reducible assumption) ?_
    | with_reducible apply State.lastWord_keep
    | split
    | intro _ _ _
    | intro _ _
    | fail_if_no_progress (with_reducible refine Touch.upd ?_)
    | with_reducible apply_assumption

theorem State.portWord_keepE {a1 a2} {x v} (e : (State.portWord u a1 a2) = (x, v)) (h : Keep s u) : Keep s v := by
  have h2 := State.portWord_keep (u := u) (a1 := a1) (a2 := a2) h; rw [e] at h2; exact h2


theorem State.ackFrame_keep {a1 a2} (h : Keep s u) : Keep s (State.ackFrame u a1 a2) := by
  unfold State.ackFrame
  split
  · exact (h.upd : Keep s _).upd
  · exact h


theorem State.portComplete_keep {a1} (h : Keep s u) : KeepOpt s (State.portComplete u a1) := by
  unfold State.portComplete
  have x := @id True
  repeat' first
    | with_reducible assumption
    | exact fun _ _ => trivial
    | exact fun _ => trivial
    | exact trivial
    | (extract_lets +onlyGivenNames x; (fail_if_success have y : True → True := x); (first | (refine (fun (hx : Keep s x) => ?_) ?_; rotate_left; (try unfold x); rotate_left) | (refine (fun (hx : Keep s x.2) => ?_) ?_; rotate_left; (try unfold x); rotate_left) | (refine (fun (hx : Keep s x.2.2) => ?_) ?_; rotate_left; (try unfold x); rotate_left) | (refine (fun (hx : KeepOpt s x) => ?_) ?_; rotate_left; (try unfold x); rotate_left) | (refine (fun (hx : ∀ v : State, Keep s v → Keep s (x v)) => ?_) ?_; rotate_left; (try unfold x); (try intro v hv); rotate_left) | (have y : Mem := x) | (have y : ProtSt := x) | (have y : PoolSt := x) | (have y : PairSt := x) | (have y : HostSt := x) | (have y : TestSt := x) | (have y : Tab Cell := x) | (have y : Tab Word := x) | (try clear_value x)); all_goals have x := @id True)
    | with_reducible apply KeepOpt.getD
    | with_reducible apply KeepOpt.ite
    | with_reducible exact KeepOpt.none
    | with_reducible apply KeepOpt.some
    | with_reducible exact KeepOpt.none
    | with_reducible apply KeepOpt.ite
    | with_reducible apply KeepOpt.map
    | with_reducible apply Touch.ite
    | with_reducible apply Touch.ite2
    | with_reducible apply Touch.ite22
    | with_reducible refine Touch.foldl _ ?_ (fun v a hv => ?_)
    | with_reducible apply State.grow_keep
    | with_reducible refine State.grow_keepE (by with_reducible assumption) ?_
    | with_reducible apply State.checkQueue_touch
    | with_reducible apply State.throttleUpdate_touch
    | with_reducible apply State.dropItem_keep
    | with_reducible apply State.completeFragment_keep
    | with_reducible apply State.ackFrame_keep
    | with_reducible refine State.placeFragment_keepE (by with_reducible assumption) ?_
    | with_reducible apply State.placeFragment_keep
    | with_reducible apply State.completeItem_touch
    | with_reducible apply State.freeItem_touch
    | split
    | intro _ _ _
    | intro _ _
    | fail_if_no_progress (with_reducible refine Touch.upd ?_)
    | with_reducible apply_assumption

theorem State.portComplete_keepE {a1} {v} (e : (State.portComplete u a1) = some v) (h : Keep s u) : Keep s v :=
  State.portComplete_keep h v e


theorem State.grantRegion_keep {a0 a2 a3} (h : Keep s u) : Keep s (State.grantRegion a0 u a2 a3) := by
  induction a0 generalizing u a2 a3 with
  | zero => exact h
  | succ n ih =>
    unfold State.grantRegion
    have x := @id True
    repeat' first
      | with_reducible assumption
      | exact fun _ _ => trivial
      | exact fun _ => trivial
      | exact trivial
      | (extract_lets +onlyGivenNames x; (fail_if_success have y : True → True := x); (first | (refine (fun (hx : Keep s x) => ?_) ?_; rotate_left; (try unfold x); rotate_left) | (refine (fun (hx : Keep s x.2) => ?_) ?_; rotate_left; (try unfold x); rotate_left) | (refine (fun (hx : Keep s x.2.2) => ?_) ?_; rotate_left; (try unfold x); rotate_left) | (refine (fun (hx : KeepOpt s x) => ?_) ?_; rotate_left; (try unfold x); rotate_left) | (refine (fun (hx : ∀ v : State, Keep s v → Keep s (x v)) => ?_) ?_; rotate_left; (try unfold x); (try intro v hv); rotate_left) | (have y : Mem := x) | (have y : ProtSt := x) | (have y : PoolSt := x) | (have y : PairSt := x) | (have y : HostSt := x) | (have y : TestSt := x) | (have y : Tab Cell := x) | (have y : Tab Word := x) | (try clear_value x)); all_goals have x := @id True)
      | with_reducible apply Touch.ite
      | with_reducible apply Touch.ite2
      | with_reducible apply Touch.ite22
      | with_reducible apply ih
      | with_reducible refine Touch.foldl _ ?_ (fun v a hv => ?_)
      | with_reducible apply State.storeUnit_keep
      | with_reducible refine State.storeUnit_keepE (by with_reducible assumption) ?_
      | split
      | intro _ _ _
      | intro _ _
      | fail_if_no_progress (with_reducible refine Touch.upd ?_)
      | with_reducible apply_assumption


theorem State.takePort_keep {a0 a2} (h : Keep s u) : Keep s (State.takePort a0 u a2) := by
  induction a0 generalizing u a2 with
  | zero => exact h
  | succ n ih =>
    unfold State.takePort
    have x := @id True
    repeat' first
      | with_reducible assumption
      | exact fun _ _ => trivial
      | exact fun _ => trivial
      | exact trivial
      | (extract_lets +onlyGivenNames x; (fail_if_success have y : True → True := x); (first | (refine (fun (hx : Keep s x) => ?_) ?_; rotate_left; (try unfold x); rotate_left) | (refine (fun (hx : Keep s x.2) => ?_) ?_; rotate_left; (try unfold x); rotate_left) | (refine (fun (hx : Keep s x.2.2) => ?_) ?_; rotate_left; (try unfold x); rotate_left) | (refine (fun (hx : KeepOpt s x) => ?_) ?_; rotate_left; (try unfold x); rotate_left) | (refine (fun (hx : ∀ v : State, Keep s v → Keep s (x v)) => ?_) ?_; rotate_left; (try unfold x); (try intro v hv); rotate_left) | (have y : Mem := x) | (have y : ProtSt := x) | (have y : PoolSt := x) | (have y : PairSt := x) | (have y : HostSt := x) | (have y : TestSt := x) | (have y : Tab Cell := x) | (have y : Tab Word := x) | (try clear_value x)); all_goals have x := @id True)
      | with_reducible apply Touch.ite
      | with_reducible apply Touch.ite2
      | with_reducible apply Touch.ite22
      | with_reducible apply ih
      | with_reducible refine Touch.foldl _ ?_ (fun v a hv => ?_)
      | with_reducible apply State.portWord_keep
      | with_reducible refine State.portWord_keepE (by with_reducible assumption) ?_
      | with_reducible apply State.setPort_touch
      | with_reducible apply State.tableCw_touch
      | with_reducible refine State.tableCw_keepE (by with_reducible assumption) ?_
      | split
      | intro _ _ _
      | intro _ _
      | fail_if_no_progress (with_reducible refine Touch.upd ?_)
      | with_reducible apply_assumption


theorem State.strikePort_keep {a1 a2} (h : Keep s u) : Keep s (State.strikePort u a1 a2) := by
  unfold State.strikePort
  have x := @id True
  repeat' first
    | with_reducible assumption
    | exact fun _ _ => trivial
    | exact fun _ => trivial
    | exact trivial
    | (extract_lets +onlyGivenNames x; (fail_if_success have y : True → True := x); (first | (refine (fun (hx : Keep s x) => ?_) ?_; rotate_left; (try unfold x); rotate_left) | (refine (fun (hx : Keep s x.2) => ?_) ?_; rotate_left; (try unfold x); rotate_left) | (refine (fun (hx : Keep s x.2.2) => ?_) ?_; rotate_left; (try unfold x); rotate_left) | (refine (fun (hx : KeepOpt s x) => ?_) ?_; rotate_left; (try unfold x); rotate_left) | (refine (fun (hx : ∀ v : State, Keep s v → Keep s (x v)) => ?_) ?_; rotate_left; (try unfold x); (try intro v hv); rotate_left) | (have y : Mem := x) | (have y : ProtSt := x) | (have y : PoolSt := x) | (have y : PairSt := x) | (have y : HostSt := x) | (have y : TestSt := x) | (have y : Tab Cell := x) | (have y : Tab Word := x) | (try clear_value x)); all_goals have x := @id True)
    | with_reducible apply Touch.ite
    | with_reducible refine Touch.foldl _ ?_ (fun v a hv => ?_)
    | with_reducible apply State.setPort_touch
    | split
    | intro _ _ _
    | intro _ _
    | fail_if_no_progress (with_reducible refine Touch.upd ?_)
    | with_reducible apply_assumption


theorem State.grantPort_keep {a1 a2} (h : Keep s u) : Keep s (State.grantPort u a1 a2) := by
  unfold State.grantPort
  have x := @id True
  repeat' first
    | with_reducible assumption
    | exact fun _ _ => trivial
    | exact fun _ => trivial
    | exact trivial
    | (extract_lets +onlyGivenNames x; (fail_if_success have y : True → True := x); (first | (refine (fun (hx : Keep s x) => ?_) ?_; rotate_left; (try unfold x); rotate_left) | (refine (fun (hx : Keep s x.2) => ?_) ?_; rotate_left; (try unfold x); rotate_left) | (refine (fun (hx : Keep s x.2.2) => ?_) ?_; rotate_left; (try unfold x); rotate_left) | (refine (fun (hx : KeepOpt s x) => ?_) ?_; rotate_left; (try unfold x); rotate_left) | (refine (fun (hx : ∀ v : State, Keep s v → Keep s (x v)) => ?_) ?_; rotate_left; (try unfold x); (try intro v hv); rotate_left) | (have y : Mem := x) | (have y : ProtSt := x) | (have y : PoolSt := x) | (have y : PairSt := x) | (have y : HostSt := x) | (have y : TestSt := x) | (have y : Tab Cell := x) | (have y : Tab Word := x) | (try clear_value x)); all_goals have x := @id True)
    | with_reducible apply Touch.ite
    | with_reducible refine Touch.foldl _ ?_ (fun v a hv => ?_)
    | with_reducible apply State.takePort_keep
    | with_reducible apply State.freeCredit_keep
    | split
    | intro _ _ _
    | intro _ _
    | fail_if_no_progress (with_reducible refine Touch.upd ?_)
    | with_reducible apply_assumption


theorem State.setReader_keep {a1 a2} (h : Keep s u) : Keep s (State.setReader u a1 a2) := by
  unfold State.setReader
  have x := @id True
  repeat' first
    | with_reducible assumption
    | exact fun _ _ => trivial
    | exact fun _ => trivial
    | exact trivial
    | (extract_lets +onlyGivenNames x; (fail_if_success have y : True → True := x); (first | (refine (fun (hx : Keep s x) => ?_) ?_; rotate_left; (try unfold x); rotate_left) | (refine (fun (hx : Keep s x.2) => ?_) ?_; rotate_left; (try unfold x); rotate_left) | (refine (fun (hx : Keep s x.2.2) => ?_) ?_; rotate_left; (try unfold x); rotate_left) | (refine (fun (hx : KeepOpt s x) => ?_) ?_; rotate_left; (try unfold x); rotate_left) | (refine (fun (hx : ∀ v : State, Keep s v → Keep s (x v)) => ?_) ?_; rotate_left; (try unfold x); (try intro v hv); rotate_left) | (have y : Mem := x) | (have y : ProtSt := x) | (have y : PoolSt := x) | (have y : PairSt := x) | (have y : HostSt := x) | (have y : TestSt := x) | (have y : Tab Cell := x) | (have y : Tab Word := x) | (try clear_value x)); all_goals have x := @id True)
    | with_reducible apply Touch.ite
    | with_reducible refine Touch.foldl _ ?_ (fun v a hv => ?_)
    | split
    | intro _ _ _
    | intro _ _
    | fail_if_no_progress (with_reducible refine Touch.upd ?_)
    | with_reducible apply_assumption


theorem State.noteChoice_keep {a1 a2 a3} (h : Keep s u) : Keep s (State.noteChoice u a1 a2 a3) := by
  unfold State.noteChoice
  have x := @id True
  repeat' first
    | with_reducible assumption
    | exact fun _ _ => trivial
    | exact fun _ => trivial
    | exact trivial
    | (extract_lets +onlyGivenNames x; (fail_if_success have y : True → True := x); (first | (refine (fun (hx : Keep s x) => ?_) ?_; rotate_left; (try unfold x); rotate_left) | (refine (fun (hx : Keep s x.2) => ?_) ?_; rotate_left; (try unfold x); rotate_left) | (refine (fun (hx : Keep s x.2.2) => ?_) ?_; rotate_left; (try unfold x); rotate_left) | (refine (fun (hx : KeepOpt s x) => ?_) ?_; rotate_left; (try unfold x); rotate_left) | (refine (fun (hx : ∀ v : State, Keep s v → Keep s (x v)) => ?_) ?_; rotate_left; (try unfold x); (try intro v hv); rotate_left) | (have y : Mem := x) | (have y : ProtSt := x) | (have y : PoolSt := x) | (have y : PairSt := x) | (have y : HostSt := x) | (have y : TestSt := x) | (have y : Tab Cell := x) | (have y : Tab Word := x) | (try clear_value x)); all_goals have x := @id True)
    | with_reducible apply Touch.ite
    | with_reducible refine Touch.foldl _ ?_ (fun v a hv => ?_)
    | split
    | intro _ _ _
    | intro _ _
    | fail_if_no_progress (with_reducible refine Touch.upd ?_)
    | with_reducible apply_assumption


theorem State.giveBack_keep {a1} (h : Keep s u) : Keep s (State.giveBack u a1) := by
  unfold State.giveBack
  have x := @id True
  repeat' first
    | with_reducible assumption
    | exact fun _ _ => trivial
    | exact fun _ => trivial
    | exact trivial
    | (extract_lets +onlyGivenNames x; (fail_if_success have y : True → True := x); (first | (refine (fun (hx : Keep s x) => ?_) ?_; rotate_left; (try unfold x); rotate_left) | (refine (fun (hx : Keep s x.2) => ?_) ?_; rotate_left; (try unfold x); rotate_left) | (refine (fun (hx : Keep s x.2.2) => ?_) ?_; rotate_left; (try unfold x); rotate_left) | (refine (fun (hx : KeepOpt s x) => ?_) ?_; rotate_left; (try unfold x); rotate_left) | (refine (fun (hx : ∀ v : State, Keep s v → Keep s (x v)) => ?_) ?_; rotate_left; (try unfold x); (try intro v hv); rotate_left) | (have y : Mem := x) | (have y : ProtSt := x) | (have y : PoolSt := x) | (have y : PairSt := x) | (have y : HostSt := x) | (have y : TestSt := x) | (have y : Tab Cell := x) | (have y : Tab Word := x) | (try clear_value x)); all_goals have x := @id True)
    | with_reducible apply Touch.ite
    | with_reducible refine Touch.foldl _ ?_ (fun v a hv => ?_)
    | with_reducible apply State.setReader_keep
    | split
    | intro _ _ _
    | intro _ _
    | fail_if_no_progress (with_reducible refine Touch.upd ?_)
    | with_reducible apply_assumption


theorem State.dmaPark_keep (h : Keep s u) : Keep s (State.dmaPark u) := by
  unfold State.dmaPark
  have x := @id True
  repeat' first
    | with_reducible assumption
    | exact fun _ _ => trivial
    | exact fun _ => trivial
    | exact trivial
    | (extract_lets +onlyGivenNames x; (fail_if_success have y : True → True := x); (first | (refine (fun (hx : Keep s x) => ?_) ?_; rotate_left; (try unfold x); rotate_left) | (refine (fun (hx : Keep s x.2) => ?_) ?_; rotate_left; (try unfold x); rotate_left) | (refine (fun (hx : Keep s x.2.2) => ?_) ?_; rotate_left; (try unfold x); rotate_left) | (refine (fun (hx : KeepOpt s x) => ?_) ?_; rotate_left; (try unfold x); rotate_left) | (refine (fun (hx : ∀ v : State, Keep s v → Keep s (x v)) => ?_) ?_; rotate_left; (try unfold x); (try intro v hv); rotate_left) | (have y : Mem := x) | (have y : ProtSt := x) | (have y : PoolSt := x) | (have y : PairSt := x) | (have y : HostSt := x) | (have y : TestSt := x) | (have y : Tab Cell := x) | (have y : Tab Word := x) | (try clear_value x)); all_goals have x := @id True)
    | with_reducible apply Touch.ite
    | with_reducible refine Touch.foldl _ ?_ (fun v a hv => ?_)
    | with_reducible apply State.setReader_keep
    | split
    | intro _ _ _
    | intro _ _
    | fail_if_no_progress (with_reducible refine Touch.upd ?_)
    | with_reducible apply_assumption


theorem State.dmaChoose_keep (h : Keep s u) : Keep s (State.dmaChoose u) := by
  unfold State.dmaChoose
  have x := @id True
  repeat' first
    | with_reducible assumption
    | exact fun _ _ => trivial
    | exact fun _ => trivial
    | exact trivial
    | (extract_lets +onlyGivenNames x; (fail_if_success have y : True → True := x); (first | (refine (fun (hx : Keep s x) => ?_) ?_; rotate_left; (try unfold x); rotate_left) | (refine (fun (hx : Keep s x.2) => ?_) ?_; rotate_left; (try unfold x); rotate_left) | (refine (fun (hx : Keep s x.2.2) => ?_) ?_; rotate_left; (try unfold x); rotate_left) | (refine (fun (hx : KeepOpt s x) => ?_) ?_; rotate_left; (try unfold x); rotate_left) | (refine (fun (hx : ∀ v : State, Keep s v → Keep s (x v)) => ?_) ?_; rotate_left; (try unfold x); (try intro v hv); rotate_left) | (have y : Mem := x) | (have y : ProtSt := x) | (have y : PoolSt := x) | (have y : PairSt := x) | (have y : HostSt := x) | (have y : TestSt := x) | (have y : Tab Cell := x) | (have y : Tab Word := x) | (try clear_value x)); all_goals have x := @id True)
    | with_reducible apply Touch.ite
    | with_reducible refine Touch.foldl _ ?_ (fun v a hv => ?_)
    | with_reducible apply State.setReader_keep
    | with_reducible apply State.dmaPark_keep
    | with_reducible apply State.drawn_touch
    | split
    | intro _ _ _
    | intro _ _
    | fail_if_no_progress (with_reducible refine Touch.upd ?_)
    | with_reducible apply_assumption


theorem State.choose_keep {a1} (h : Keep s u) : Keep s (State.choose u a1) := by
  unfold State.choose
  have x := @id True
  repeat' first
    | with_reducible assumption
    | exact fun _ _ => trivial
    | exact fun _ => trivial
    | exact trivial
    | (extract_lets +onlyGivenNames x; (fail_if_success have y : True → True := x); (first | (refine (fun (hx : Keep s x) => ?_) ?_; rotate_left; (try unfold x); rotate_left) | (refine (fun (hx : Keep s x.2) => ?_) ?_; rotate_left; (try unfold x); rotate_left) | (refine (fun (hx : Keep s x.2.2) => ?_) ?_; rotate_left; (try unfold x); rotate_left) | (refine (fun (hx : KeepOpt s x) => ?_) ?_; rotate_left; (try unfold x); rotate_left) | (refine (fun (hx : ∀ v : State, Keep s v → Keep s (x v)) => ?_) ?_; rotate_left; (try unfold x); (try intro v hv); rotate_left) | (have y : Mem := x) | (have y : ProtSt := x) | (have y : PoolSt := x) | (have y : PairSt := x) | (have y : HostSt := x) | (have y : TestSt := x) | (have y : Tab Cell := x) | (have y : Tab Word := x) | (try clear_value x)); all_goals have x := @id True)
    | with_reducible apply Touch.ite
    | with_reducible refine Touch.foldl _ ?_ (fun v a hv => ?_)
    | with_reducible apply State.dmaChoose_keep
    | with_reducible apply State.setReader_keep
    | with_reducible apply State.noteChoice_keep
    | split
    | intro _ _ _
    | intro _ _
    | fail_if_no_progress (with_reducible refine Touch.upd ?_)
    | with_reducible apply_assumption


theorem execOriginFragmentOpen_keep {a0} (h : Keep s u) : KeepRes s (execOriginFragmentOpen a0 u) := by
  unfold execOriginFragmentOpen
  have x := @id True
  repeat' first
    | with_reducible assumption
    | exact fun _ _ => trivial
    | exact fun _ => trivial
    | exact trivial
    | (extract_lets +onlyGivenNames x; (fail_if_success have y : True → True := x); (first | (refine (fun (hx : Keep s x) => ?_) ?_; rotate_left; (try unfold x); rotate_left) | (refine (fun (hx : Keep s x.2) => ?_) ?_; rotate_left; (try unfold x); rotate_left) | (refine (fun (hx : Keep s x.2.2) => ?_) ?_; rotate_left; (try unfold x); rotate_left) | (refine (fun (hx : KeepOpt s x) => ?_) ?_; rotate_left; (try unfold x); rotate_left) | (refine (fun (hx : ∀ v : State, Keep s v → Keep s (x v)) => ?_) ?_; rotate_left; (try unfold x); (try intro v hv); rotate_left) | (have y : Mem := x) | (have y : ProtSt := x) | (have y : PoolSt := x) | (have y : PairSt := x) | (have y : HostSt := x) | (have y : TestSt := x) | (have y : Tab Cell := x) | (have y : Tab Word := x) | (try clear_value x)); all_goals have x := @id True)
    | with_reducible apply KeepRes.next
    | with_reducible exact KeepRes.fault
    | with_reducible apply KeepRes.ite
    | with_reducible apply Touch.ite
    | with_reducible apply Touch.ite2
    | with_reducible apply Touch.ite22
    | with_reducible refine Touch.foldl _ ?_ (fun v a hv => ?_)
    | with_reducible apply State.openFrag_keep
    | with_reducible refine State.openFrag_keepE (by with_reducible assumption) ?_
    | with_reducible apply State.newFrag_keep
    | split
    | intro _ _ _
    | intro _ _
    | fail_if_no_progress (with_reducible refine Touch.upd ?_)
    | with_reducible apply_assumption


theorem execFrameClose_keep {a0} (h : Keep s u) : KeepRes s (execFrameClose a0 u) := by
  unfold execFrameClose
  have x := @id True
  repeat' first
    | with_reducible assumption
    | exact fun _ _ => trivial
    | exact fun _ => trivial
    | exact trivial
    | (extract_lets +onlyGivenNames x; (fail_if_success have y : True → True := x); (first | (refine (fun (hx : Keep s x) => ?_) ?_; rotate_left; (try unfold x); rotate_left) | (refine (fun (hx : Keep s x.2) => ?_) ?_; rotate_left; (try unfold x); rotate_left) | (refine (fun (hx : Keep s x.2.2) => ?_) ?_; rotate_left; (try unfold x); rotate_left) | (refine (fun (hx : KeepOpt s x) => ?_) ?_; rotate_left; (try unfold x); rotate_left) | (refine (fun (hx : ∀ v : State, Keep s v → Keep s (x v)) => ?_) ?_; rotate_left; (try unfold x); (try intro v hv); rotate_left) | (have y : Mem := x) | (have y : ProtSt := x) | (have y : PoolSt := x) | (have y : PairSt := x) | (have y : HostSt := x) | (have y : TestSt := x) | (have y : Tab Cell := x) | (have y : Tab Word := x) | (try clear_value x)); all_goals have x := @id True)
    | with_reducible apply KeepRes.next
    | with_reducible exact KeepRes.fault
    | with_reducible apply KeepRes.ite
    | with_reducible apply Touch.ite
    | with_reducible apply Touch.ite2
    | with_reducible apply Touch.ite22
    | with_reducible refine Touch.foldl _ ?_ (fun v a hv => ?_)
    | with_reducible apply State.modFrag_keep
    | with_reducible apply State.openFrag_keep
    | with_reducible refine State.openFrag_keepE (by with_reducible assumption) ?_
    | with_reducible apply State.newFrag_keep
    | split
    | intro _ _ _
    | intro _ _
    | fail_if_no_progress (with_reducible refine Touch.upd ?_)
    | with_reducible apply_assumption


theorem execChipGrant_keep {a0} (h : Keep s u) : KeepRes s (execChipGrant a0 u) := by
  unfold execChipGrant
  have x := @id True
  repeat' first
    | with_reducible assumption
    | exact fun _ _ => trivial
    | exact fun _ => trivial
    | exact trivial
    | (extract_lets +onlyGivenNames x; (fail_if_success have y : True → True := x); (first | (refine (fun (hx : Keep s x) => ?_) ?_; rotate_left; (try unfold x); rotate_left) | (refine (fun (hx : Keep s x.2) => ?_) ?_; rotate_left; (try unfold x); rotate_left) | (refine (fun (hx : Keep s x.2.2) => ?_) ?_; rotate_left; (try unfold x); rotate_left) | (refine (fun (hx : KeepOpt s x) => ?_) ?_; rotate_left; (try unfold x); rotate_left) | (refine (fun (hx : ∀ v : State, Keep s v → Keep s (x v)) => ?_) ?_; rotate_left; (try unfold x); (try intro v hv); rotate_left) | (have y : Mem := x) | (have y : ProtSt := x) | (have y : PoolSt := x) | (have y : PairSt := x) | (have y : HostSt := x) | (have y : TestSt := x) | (have y : Tab Cell := x) | (have y : Tab Word := x) | (try clear_value x)); all_goals have x := @id True)
    | with_reducible apply KeepRes.next
    | with_reducible exact KeepRes.fault
    | with_reducible apply KeepRes.ite
    | with_reducible apply Touch.ite
    | with_reducible refine Touch.foldl _ ?_ (fun v a hv => ?_)
    | with_reducible apply State.readMap_touch
    | with_reducible apply State.grantPort_keep
    | with_reducible apply State.strikePort_keep
    | with_reducible apply State.grantRegion_keep
    | split
    | intro _ _ _
    | intro _ _
    | fail_if_no_progress (with_reducible refine Touch.upd ?_)
    | with_reducible apply_assumption


theorem State.stageStep_keep (h : Keep s u) : Keep s u.stageStep := by
  unfold State.stageStep
  extract_lets src port own
  have hport : ∀ id, KeepOpt s (port id) := by
    intro id
    have ht : Keep s { u with pool := { u.pool with toComplete := u.pool.toComplete.filter (· ≠ id) } } := h.upd
    show KeepOpt s (match u.item id with | some i => _ | none => _)
    split
    · exact State.portComplete_keep ht
    · exact .some ht
  split
  · rename_i t ht
    exact KeepOpt.findSome hport _ ht
  · have hown : ∀ g, KeepOpt s (own g) := by
      intro g
      show KeepOpt s (if _ then _ else _)
      refine .ite ?_ .none
      dsimp only
      split
      · exact .ite (State.ownComplete_keep (State.openFrag_keep h)) .none
      · exact .none
    exact KeepOpt.getD (KeepOpt.findSome hown) h


theorem execWriteStageComplete_keep (h : Keep s u) : KeepRes s (execWriteStageComplete u) := by
  unfold execWriteStageComplete
  have x := @id True
  repeat' first
    | with_reducible assumption
    | exact fun _ _ => trivial
    | exact fun _ => trivial
    | exact trivial
    | (extract_lets +onlyGivenNames x; (fail_if_success have y : True → True := x); (first | (refine (fun (hx : Keep s x) => ?_) ?_; rotate_left; (try unfold x); rotate_left) | (refine (fun (hx : Keep s x.2) => ?_) ?_; rotate_left; (try unfold x); rotate_left) | (refine (fun (hx : Keep s x.2.2) => ?_) ?_; rotate_left; (try unfold x); rotate_left) | (refine (fun (hx : KeepOpt s x) => ?_) ?_; rotate_left; (try unfold x); rotate_left) | (refine (fun (hx : ∀ v : State, Keep s v → Keep s (x v)) => ?_) ?_; rotate_left; (try unfold x); (try intro v hv); rotate_left) | (have y : Mem := x) | (have y : ProtSt := x) | (have y : PoolSt := x) | (have y : PairSt := x) | (have y : HostSt := x) | (have y : TestSt := x) | (have y : Tab Cell := x) | (have y : Tab Word := x) | (try clear_value x)); all_goals have x := @id True)
    | with_reducible apply KeepRes.next
    | with_reducible exact KeepRes.fault
    | with_reducible apply KeepRes.ite
    | with_reducible apply Touch.ite
    | with_reducible refine Touch.foldl _ ?_ (fun v a hv => ?_)
    | with_reducible apply State.stageStep_keep
    | with_reducible apply State.storeHeld_touch
    | with_reducible apply State.readMap_touch
    | split
    | intro _ _ _
    | intro _ _
    | fail_if_no_progress (with_reducible refine Touch.upd ?_)
    | with_reducible apply_assumption


theorem execReclaimPass_keep (h : Keep s u) : KeepRes s (execReclaimPass u) := by
  unfold execReclaimPass
  have x := @id True
  repeat' first
    | with_reducible assumption
    | exact fun _ _ => trivial
    | exact fun _ => trivial
    | exact trivial
    | (extract_lets +onlyGivenNames x; (fail_if_success have y : True → True := x); (first | (refine (fun (hx : Keep s x) => ?_) ?_; rotate_left; (try unfold x); rotate_left) | (refine (fun (hx : Keep s x.2) => ?_) ?_; rotate_left; (try unfold x); rotate_left) | (refine (fun (hx : Keep s x.2.2) => ?_) ?_; rotate_left; (try unfold x); rotate_left) | (refine (fun (hx : KeepOpt s x) => ?_) ?_; rotate_left; (try unfold x); rotate_left) | (refine (fun (hx : ∀ v : State, Keep s v → Keep s (x v)) => ?_) ?_; rotate_left; (try unfold x); (try intro v hv); rotate_left) | (have y : Mem := x) | (have y : ProtSt := x) | (have y : PoolSt := x) | (have y : PairSt := x) | (have y : HostSt := x) | (have y : TestSt := x) | (have y : Tab Cell := x) | (have y : Tab Word := x) | (try clear_value x)); all_goals have x := @id True)
    | with_reducible apply KeepRes.next
    | with_reducible exact KeepRes.fault
    | with_reducible apply KeepRes.ite
    | with_reducible apply Touch.ite
    | with_reducible refine Touch.foldl _ ?_ (fun v a hv => ?_)
    | with_reducible apply State.tableWrite_touch
    | with_reducible apply State.throttleUpdate_touch
    | split
    | intro _ _ _
    | intro _ _
    | fail_if_no_progress (with_reducible refine Touch.upd ?_)
    | with_reducible apply_assumption


theorem execContextOpen_keep {a0} (h : Keep s u) : KeepRes s (execContextOpen a0 u) := by
  unfold execContextOpen
  have x := @id True
  repeat' first
    | with_reducible assumption
    | exact fun _ _ => trivial
    | exact fun _ => trivial
    | exact trivial
    | (extract_lets +onlyGivenNames x; (fail_if_success have y : True → True := x); (first | (refine (fun (hx : Keep s x) => ?_) ?_; rotate_left; (try unfold x); rotate_left) | (refine (fun (hx : Keep s x.2) => ?_) ?_; rotate_left; (try unfold x); rotate_left) | (refine (fun (hx : Keep s x.2.2) => ?_) ?_; rotate_left; (try unfold x); rotate_left) | (refine (fun (hx : KeepOpt s x) => ?_) ?_; rotate_left; (try unfold x); rotate_left) | (refine (fun (hx : ∀ v : State, Keep s v → Keep s (x v)) => ?_) ?_; rotate_left; (try unfold x); (try intro v hv); rotate_left) | (have y : Mem := x) | (have y : ProtSt := x) | (have y : PoolSt := x) | (have y : PairSt := x) | (have y : HostSt := x) | (have y : TestSt := x) | (have y : Tab Cell := x) | (have y : Tab Word := x) | (try clear_value x)); all_goals have x := @id True)
    | with_reducible apply KeepRes.next
    | with_reducible exact KeepRes.fault
    | with_reducible apply KeepRes.ite
    | with_reducible apply Touch.ite
    | with_reducible apply Touch.ite2
    | with_reducible apply Touch.ite22
    | with_reducible refine Touch.foldl _ ?_ (fun v a hv => ?_)
    | with_reducible apply State.openCtx_keep
    | with_reducible refine State.openCtx_keepE (by with_reducible assumption) ?_
    | split
    | intro _ _ _
    | intro _ _
    | fail_if_no_progress (with_reducible refine Touch.upd ?_)
    | with_reducible apply_assumption


theorem execContextDeadline_keep {a0} (h : Keep s u) : KeepRes s (execContextDeadline a0 u) := by
  unfold execContextDeadline
  have x := @id True
  repeat' first
    | with_reducible assumption
    | exact fun _ _ => trivial
    | exact fun _ => trivial
    | exact trivial
    | (extract_lets +onlyGivenNames x; (fail_if_success have y : True → True := x); (first | (refine (fun (hx : Keep s x) => ?_) ?_; rotate_left; (try unfold x); rotate_left) | (refine (fun (hx : Keep s x.2) => ?_) ?_; rotate_left; (try unfold x); rotate_left) | (refine (fun (hx : Keep s x.2.2) => ?_) ?_; rotate_left; (try unfold x); rotate_left) | (refine (fun (hx : KeepOpt s x) => ?_) ?_; rotate_left; (try unfold x); rotate_left) | (refine (fun (hx : ∀ v : State, Keep s v → Keep s (x v)) => ?_) ?_; rotate_left; (try unfold x); (try intro v hv); rotate_left) | (have y : Mem := x) | (have y : ProtSt := x) | (have y : PoolSt := x) | (have y : PairSt := x) | (have y : HostSt := x) | (have y : TestSt := x) | (have y : Tab Cell := x) | (have y : Tab Word := x) | (try clear_value x)); all_goals have x := @id True)
    | with_reducible apply KeepRes.next
    | with_reducible exact KeepRes.fault
    | with_reducible apply KeepRes.ite
    | with_reducible apply Touch.ite
    | with_reducible refine Touch.foldl _ ?_ (fun v a hv => ?_)
    | with_reducible apply State.closeNow_keep
    | split
    | intro _ _ _
    | intro _ _
    | fail_if_no_progress (with_reducible refine Touch.upd ?_)
    | with_reducible apply_assumption


theorem execContextClose_keep {a0} (h : Keep s u) : KeepRes s (execContextClose a0 u) := by
  unfold execContextClose
  have x := @id True
  repeat' first
    | with_reducible assumption
    | exact fun _ _ => trivial
    | exact fun _ => trivial
    | exact trivial
    | (extract_lets +onlyGivenNames x; (fail_if_success have y : True → True := x); (first | (refine (fun (hx : Keep s x) => ?_) ?_; rotate_left; (try unfold x); rotate_left) | (refine (fun (hx : Keep s x.2) => ?_) ?_; rotate_left; (try unfold x); rotate_left) | (refine (fun (hx : Keep s x.2.2) => ?_) ?_; rotate_left; (try unfold x); rotate_left) | (refine (fun (hx : KeepOpt s x) => ?_) ?_; rotate_left; (try unfold x); rotate_left) | (refine (fun (hx : ∀ v : State, Keep s v → Keep s (x v)) => ?_) ?_; rotate_left; (try unfold x); (try intro v hv); rotate_left) | (have y : Mem := x) | (have y : ProtSt := x) | (have y : PoolSt := x) | (have y : PairSt := x) | (have y : HostSt := x) | (have y : TestSt := x) | (have y : Tab Cell := x) | (have y : Tab Word := x) | (try clear_value x)); all_goals have x := @id True)
    | with_reducible apply KeepRes.next
    | with_reducible exact KeepRes.fault
    | with_reducible apply KeepRes.ite
    | with_reducible apply Touch.ite
    | with_reducible refine Touch.foldl _ ?_ (fun v a hv => ?_)
    | with_reducible apply State.closeCtx_keep
    | split
    | intro _ _ _
    | intro _ _
    | fail_if_no_progress (with_reducible refine Touch.upd ?_)
    | with_reducible apply_assumption


theorem execOutputReaderSelect_keep {a0} (h : Keep s u) : KeepRes s (execOutputReaderSelect a0 u) := by
  unfold execOutputReaderSelect
  have x := @id True
  repeat' first
    | with_reducible assumption
    | exact fun _ _ => trivial
    | exact fun _ => trivial
    | exact trivial
    | (extract_lets +onlyGivenNames x; (fail_if_success have y : True → True := x); (first | (refine (fun (hx : Keep s x) => ?_) ?_; rotate_left; (try unfold x); rotate_left) | (refine (fun (hx : Keep s x.2) => ?_) ?_; rotate_left; (try unfold x); rotate_left) | (refine (fun (hx : Keep s x.2.2) => ?_) ?_; rotate_left; (try unfold x); rotate_left) | (refine (fun (hx : KeepOpt s x) => ?_) ?_; rotate_left; (try unfold x); rotate_left) | (refine (fun (hx : ∀ v : State, Keep s v → Keep s (x v)) => ?_) ?_; rotate_left; (try unfold x); (try intro v hv); rotate_left) | (have y : Mem := x) | (have y : ProtSt := x) | (have y : PoolSt := x) | (have y : PairSt := x) | (have y : HostSt := x) | (have y : TestSt := x) | (have y : Tab Cell := x) | (have y : Tab Word := x) | (try clear_value x)); all_goals have x := @id True)
    | with_reducible apply KeepRes.next
    | with_reducible exact KeepRes.fault
    | with_reducible apply KeepRes.ite
    | with_reducible apply Touch.ite
    | with_reducible refine Touch.foldl _ ?_ (fun v a hv => ?_)
    | with_reducible apply State.choose_keep
    | with_reducible apply State.checkQueue_touch
    | split
    | intro _ _ _
    | intro _ _
    | fail_if_no_progress (with_reducible refine Touch.upd ?_)
    | with_reducible apply_assumption


theorem execThrottlePeriodic_keep (h : Keep s u) : KeepRes s (execThrottlePeriodic u) := by
  unfold execThrottlePeriodic
  have x := @id True
  repeat' first
    | with_reducible assumption
    | exact fun _ _ => trivial
    | exact fun _ => trivial
    | exact trivial
    | (extract_lets +onlyGivenNames x; (fail_if_success have y : True → True := x); (first | (refine (fun (hx : Keep s x) => ?_) ?_; rotate_left; (try unfold x); rotate_left) | (refine (fun (hx : Keep s x.2) => ?_) ?_; rotate_left; (try unfold x); rotate_left) | (refine (fun (hx : Keep s x.2.2) => ?_) ?_; rotate_left; (try unfold x); rotate_left) | (refine (fun (hx : KeepOpt s x) => ?_) ?_; rotate_left; (try unfold x); rotate_left) | (refine (fun (hx : ∀ v : State, Keep s v → Keep s (x v)) => ?_) ?_; rotate_left; (try unfold x); (try intro v hv); rotate_left) | (have y : Mem := x) | (have y : ProtSt := x) | (have y : PoolSt := x) | (have y : PairSt := x) | (have y : HostSt := x) | (have y : TestSt := x) | (have y : Tab Cell := x) | (have y : Tab Word := x) | (try clear_value x)); all_goals have x := @id True)
    | with_reducible apply KeepRes.next
    | with_reducible exact KeepRes.fault
    | with_reducible apply KeepRes.ite
    | with_reducible apply Touch.ite
    | with_reducible refine Touch.foldl _ ?_ (fun v a hv => ?_)
    | with_reducible apply State.sendThrottle_touch
    | split
    | intro _ _ _
    | intro _ _
    | fail_if_no_progress (with_reducible refine Touch.upd ?_)
    | with_reducible apply_assumption


end Sys2Proof.Machine
end

