-- ==== Sys2Proof/Laws/KeepLink.lean ====
section
/-! SUPPORT. Every operation of these files keeps the invariant, the queue and what has left the node (`Keep`):
Machine/LinkOps, Machine/PairOps, Machine/Link. -/

set_option Elab.async false
set_option linter.tactic.unusedName false
set_option linter.unusedTactic false
set_option linter.unreachableTactic false
set_option linter.unusedVariables false
set_option linter.unusedSimpArgs false

namespace Sys2Proof.Machine

variable {s u : State}

theorem State.frameOut_keep {a1} (h : Keep s u) : Keep s (State.frameOut u a1) := by
  unfold State.frameOut
  have x := @id True
  repeat' first
    | with_reducible assumption
    | exact fun _ _ => trivial
    | exact fun _ => trivial
    | exact trivial
    | (extract_lets +onlyGivenNames x; (fail_if_success have y : True → True := x); (first | (refine (fun (hx : Keep s x) => ?_) ?_; rotate_left; (try unfold x); rotate_left) | (refine (fun (hx : Keep s x.2) => ?_) ?_; rotate_left; (try unfold x); rotate_left) | (refine (fun (hx : Keep s x.2.2) => ?_) ?_; rotate_left; (try unfold x); rotate_left) | (refine (fun (hx : KeepOpt s x) => ?_) ?_; rotate_left; (try unfold x); rotate_left) | (refine (fun (hx : ∀ v : State, Keep s v → Keep s (x v)) => ?_) ?_; rotate_left; (try unfold x); (try intro v hv); rotate_left) | (have y : Mem := x) | (have y : ProtSt := x) | (have y : PoolSt := x) | (have y : PairSt := x) | (have y : HostSt := x) | (have y : TestSt := x) | (have y : Tab Cell := x) | (have y : Tab Word := x) | (try clear_value x)); all_goals have x := @id True)
    | with_reducible apply Touch.ite
    | with_reducible refine Touch.foldl _ ?_ (fun v a hv => ?_)
    | split
    | intro _ _ _
    | intro _ _
    | fail_if_no_progress (with_reducible refine Touch.upd ?_)
    | with_reducible apply_assumption


theorem State.noteOut_keep (h : Keep s u) : Keep s (State.noteOut u) := by
  unfold State.noteOut
  have x := @id True
  repeat' first
    | with_reducible assumption
    | exact fun _ _ => trivial
    | exact fun _ => trivial
    | exact trivial
    | (extract_lets +onlyGivenNames x; (fail_if_success have y : True → True := x); (first | (refine (fun (hx : Keep s x) => ?_) ?_; rotate_left; (try unfold x); rotate_left) | (refine (fun (hx : Keep s x.2) => ?_) ?_; rotate_left; (try unfold x); rotate_left) | (refine (fun (hx : Keep s x.2.2) => ?_) ?_; rotate_left; (try unfold x); rotate_left) | (refine (fun (hx : KeepOpt s x) => ?_) ?_; rotate_left; (try unfold x); rotate_left) | (refine (fun (hx : ∀ v : State, Keep s v → Keep s (x v)) => ?_) ?_; rotate_left; (try unfold x); (try intro v hv); rotate_left) | (have y : Mem := x) | (have y : ProtSt := x) | (have y : PoolSt := x) | (have y : PairSt := x) | (have y : HostSt := x) | (have y : TestSt := x) | (have y : Tab Cell := x) | (have y : Tab Word := x) | (try clear_value x)); all_goals have x := @id True)
    | with_reducible apply Touch.ite
    | with_reducible refine Touch.foldl _ ?_ (fun v a hv => ?_)
    | with_reducible apply State.frameOut_keep
    | split
    | intro _ _ _
    | intro _ _
    | fail_if_no_progress (with_reducible refine Touch.upd ?_)
    | with_reducible apply_assumption


theorem State.settleReader_keep {a1} (h : Keep s u) : Keep s (State.settleReader u a1) := by
  unfold State.settleReader
  have x := @id True
  repeat' first
    | with_reducible assumption
    | exact fun _ _ => trivial
    | exact fun _ => trivial
    | exact trivial
    | (extract_lets +onlyGivenNames x; (fail_if_success have y : True → True := x); (first | (refine (fun (hx : Keep s x) => ?_) ?_; rotate_left; (try unfold x); rotate_left) | (refine (fun (hx : Keep s x.2) => ?_) ?_; rotate_left; (try unfold x); rotate_left) | (refine (fun (hx : Keep s x.2.2) => ?_) ?_; rotate_left; (try unfold x); rotate_left) | (refine (fun (hx : KeepOpt s x) => ?_) ?_; rotate_left; (try unfold x); rotate_left) | (refine (fun (hx : ∀ v : State, Keep s v → Keep s (x v)) => ?_) ?_; rotate_left; (try unfold x); (try intro v hv); rotate_left) | (have y : Mem := x) | (have y : ProtSt := x) | (have y : PoolSt := x) | (have y : PairSt := x) | (have y : HostSt := x) | (have y : TestSt := x) | (have y : Tab Cell := x) | (have y : Tab Word := x) | (try clear_value x)); all_goals have x := @id True)
    | with_reducible apply Touch.ite
    | with_reducible refine Touch.foldl _ ?_ (fun v a hv => ?_)
    | with_reducible apply State.releaseView_keep
    | with_reducible apply State.freeDelivered_keep
    | with_reducible apply State.noteOut_keep
    | split
    | intro _ _ _
    | intro _ _
    | fail_if_no_progress (with_reducible refine Touch.upd ?_)
    | with_reducible apply_assumption


theorem State.packetAcked_keep {a1 a2 a3} (h : Keep s u) : Keep s (State.packetAcked u a1 a2 a3) := by
  unfold State.packetAcked
  have x := @id True
  repeat' first
    | with_reducible assumption
    | exact fun _ _ => trivial
    | exact fun _ => trivial
    | exact trivial
    | (extract_lets +onlyGivenNames x; (fail_if_success have y : True → True := x); (first | (refine (fun (hx : Keep s x) => ?_) ?_; rotate_left; (try unfold x); rotate_left) | (refine (fun (hx : Keep s x.2) => ?_) ?_; rotate_left; (try unfold x); rotate_left) | (refine (fun (hx : Keep s x.2.2) => ?_) ?_; rotate_left; (try unfold x); rotate_left) | (refine (fun (hx : KeepOpt s x) => ?_) ?_; rotate_left; (try unfold x); rotate_left) | (refine (fun (hx : ∀ v : State, Keep s v → Keep s (x v)) => ?_) ?_; rotate_left; (try unfold x); (try intro v hv); rotate_left) | (have y : Mem := x) | (have y : ProtSt := x) | (have y : PoolSt := x) | (have y : PairSt := x) | (have y : HostSt := x) | (have y : TestSt := x) | (have y : Tab Cell := x) | (have y : Tab Word := x) | (try clear_value x)); all_goals have x := @id True)
    | with_reducible apply Touch.ite
    | with_reducible refine Touch.foldl _ ?_ (fun v a hv => ?_)
    | with_reducible apply State.hopAcked_keep
    | with_reducible apply State.modItem_touch
    | split
    | intro _ _ _
    | intro _ _
    | fail_if_no_progress (with_reducible refine Touch.upd ?_)
    | with_reducible apply_assumption


theorem State.ackPackets_keep {a1 a2 a3} (h : Keep s u) : Keep s (State.ackPackets u a1 a2 a3) := by
  unfold State.ackPackets
  have x := @id True
  repeat' first
    | with_reducible assumption
    | exact fun _ _ => trivial
    | exact fun _ => trivial
    | exact trivial
    | (extract_lets +onlyGivenNames x; (fail_if_success have y : True → True := x); (first | (refine (fun (hx : Keep s x) => ?_) ?_; rotate_left; (try unfold x); rotate_left) | (refine (fun (hx : Keep s x.2) => ?_) ?_; rotate_left; (try unfold x); rotate_left) | (refine (fun (hx : Keep s x.2.2) => ?_) ?_; rotate_left; (try unfold x); rotate_left) | (refine (fun (hx : KeepOpt s x) => ?_) ?_; rotate_left; (try unfold x); rotate_left) | (refine (fun (hx : ∀ v : State, Keep s v → Keep s (x v)) => ?_) ?_; rotate_left; (try unfold x); (try intro v hv); rotate_left) | (have y : Mem := x) | (have y : ProtSt := x) | (have y : PoolSt := x) | (have y : PairSt := x) | (have y : HostSt := x) | (have y : TestSt := x) | (have y : Tab Cell := x) | (have y : Tab Word := x) | (try clear_value x)); all_goals have x := @id True)
    | with_reducible apply Touch.ite
    | with_reducible refine Touch.foldl _ ?_ (fun v a hv => ?_)
    | with_reducible apply State.setChan_keep
    | with_reducible apply State.packetAcked_keep
    | with_reducible apply State.settleReader_keep
    | split
    | intro _ _ _
    | intro _ _
    | fail_if_no_progress (with_reducible refine Touch.upd ?_)
    | with_reducible apply_assumption


theorem State.leaveUp_keep {a1} (h : Keep s u) : Keep s (State.leaveUp u a1) := by
  unfold State.leaveUp
  have x := @id True
  repeat' first
    | with_reducible assumption
    | exact fun _ _ => trivial
    | exact fun _ => trivial
    | exact trivial
    | (extract_lets +onlyGivenNames x; (fail_if_success have y : True → True := x); (first | (refine (fun (hx : Keep s x) => ?_) ?_; rotate_left; (try unfold x); rotate_left) | (refine (fun (hx : Keep s x.2) => ?_) ?_; rotate_left; (try unfold x); rotate_left) | (refine (fun (hx : Keep s x.2.2) => ?_) ?_; rotate_left; (try unfold x); rotate_left) | (refine (fun (hx : KeepOpt s x) => ?_) ?_; rotate_left; (try unfold x); rotate_left) | (refine (fun (hx : ∀ v : State, Keep s v → Keep s (x v)) => ?_) ?_; rotate_left; (try unfold x); (try intro v hv); rotate_left) | (have y : Mem := x) | (have y : ProtSt := x) | (have y : PoolSt := x) | (have y : PairSt := x) | (have y : HostSt := x) | (have y : TestSt := x) | (have y : Tab Cell := x) | (have y : Tab Word := x) | (try clear_value x)); all_goals have x := @id True)
    | with_reducible apply Touch.ite
    | with_reducible refine Touch.foldl _ ?_ (fun v a hv => ?_)
    | with_reducible apply State.seek_keep
    | with_reducible apply State.setFlag_touch
    | with_reducible apply State.throttleUpdate_touch
    | with_reducible apply State.setF_touch
    | with_reducible apply State.freeDelivered_keep
    | with_reducible apply State.noteOut_keep
    | with_reducible apply State.giveBack_keep
    | with_reducible apply State.referenceLost_keep
    | split
    | intro _ _ _
    | intro _ _
    | fail_if_no_progress (with_reducible refine Touch.upd ?_)
    | with_reducible apply_assumption


theorem State.retrainPort_keep {a1} (h : Keep s u) : Keep s (State.retrainPort u a1) := by
  unfold State.retrainPort
  have x := @id True
  repeat' first
    | with_reducible assumption
    | exact fun _ _ => trivial
    | exact fun _ => trivial
    | exact trivial
    | (extract_lets +onlyGivenNames x; (fail_if_success have y : True → True := x); (first | (refine (fun (hx : Keep s x) => ?_) ?_; rotate_left; (try unfold x); rotate_left) | (refine (fun (hx : Keep s x.2) => ?_) ?_; rotate_left; (try unfold x); rotate_left) | (refine (fun (hx : Keep s x.2.2) => ?_) ?_; rotate_left; (try unfold x); rotate_left) | (refine (fun (hx : KeepOpt s x) => ?_) ?_; rotate_left; (try unfold x); rotate_left) | (refine (fun (hx : ∀ v : State, Keep s v → Keep s (x v)) => ?_) ?_; rotate_left; (try unfold x); (try intro v hv); rotate_left) | (have y : Mem := x) | (have y : ProtSt := x) | (have y : PoolSt := x) | (have y : PairSt := x) | (have y : HostSt := x) | (have y : TestSt := x) | (have y : Tab Cell := x) | (have y : Tab Word := x) | (try clear_value x)); all_goals have x := @id True)
    | with_reducible apply Touch.ite
    | with_reducible refine Touch.foldl _ ?_ (fun v a hv => ?_)
    | with_reducible apply State.leaveUp_keep
    | with_reducible apply State.seek_keep
    | split
    | intro _ _ _
    | intro _ _
    | fail_if_no_progress (with_reducible refine Touch.upd ?_)
    | with_reducible apply_assumption


theorem State.referenceMoved_keep {a1} (h : Keep s u) : Keep s (State.referenceMoved u a1) := by
  unfold State.referenceMoved
  have x := @id True
  repeat' first
    | with_reducible assumption
    | exact fun _ _ => trivial
    | exact fun _ => trivial
    | exact trivial
    | (extract_lets +onlyGivenNames x; (fail_if_success have y : True → True := x); (first | (refine (fun (hx : Keep s x) => ?_) ?_; rotate_left; (try unfold x); rotate_left) | (refine (fun (hx : Keep s x.2) => ?_) ?_; rotate_left; (try unfold x); rotate_left) | (refine (fun (hx : Keep s x.2.2) => ?_) ?_; rotate_left; (try unfold x); rotate_left) | (refine (fun (hx : KeepOpt s x) => ?_) ?_; rotate_left; (try unfold x); rotate_left) | (refine (fun (hx : ∀ v : State, Keep s v → Keep s (x v)) => ?_) ?_; rotate_left; (try unfold x); (try intro v hv); rotate_left) | (have y : Mem := x) | (have y : ProtSt := x) | (have y : PoolSt := x) | (have y : PairSt := x) | (have y : HostSt := x) | (have y : TestSt := x) | (have y : Tab Cell := x) | (have y : Tab Word := x) | (try clear_value x)); all_goals have x := @id True)
    | with_reducible apply Touch.ite
    | with_reducible refine Touch.foldl _ ?_ (fun v a hv => ?_)
    | with_reducible apply State.retrainPort_keep
    | split
    | intro _ _ _
    | intro _ _
    | fail_if_no_progress (with_reducible refine Touch.upd ?_)
    | with_reducible apply_assumption


theorem State.discardTx_keep {a1 a2} (h : Keep s u) : Keep s (State.discardTx u a1 a2) := by
  unfold State.discardTx
  have x := @id True
  repeat' first
    | with_reducible assumption
    | exact fun _ _ => trivial
    | exact fun _ => trivial
    | exact trivial
    | (extract_lets +onlyGivenNames x; (fail_if_success have y : True → True := x); (first | (refine (fun (hx : Keep s x) => ?_) ?_; rotate_left; (try unfold x); rotate_left) | (refine (fun (hx : Keep s x.2) => ?_) ?_; rotate_left; (try unfold x); rotate_left) | (refine (fun (hx : Keep s x.2.2) => ?_) ?_; rotate_left; (try unfold x); rotate_left) | (refine (fun (hx : KeepOpt s x) => ?_) ?_; rotate_left; (try unfold x); rotate_left) | (refine (fun (hx : ∀ v : State, Keep s v → Keep s (x v)) => ?_) ?_; rotate_left; (try unfold x); (try intro v hv); rotate_left) | (have y : Mem := x) | (have y : ProtSt := x) | (have y : PoolSt := x) | (have y : PairSt := x) | (have y : HostSt := x) | (have y : TestSt := x) | (have y : Tab Cell := x) | (have y : Tab Word := x) | (try clear_value x)); all_goals have x := @id True)
    | with_reducible apply Touch.ite
    | with_reducible refine Touch.foldl _ ?_ (fun v a hv => ?_)
    | with_reducible apply State.incBy_touch
    | with_reducible apply State.setChan_keep
    | with_reducible apply State.hopsRestart_keep
    | with_reducible apply State.setReader_keep
    | with_reducible apply State.settleReader_keep
    | with_reducible apply State.setItems_touch
    | split
    | intro _ _ _
    | intro _ _
    | fail_if_no_progress (with_reducible refine Touch.upd ?_)
    | with_reducible apply_assumption


theorem State.dropPartial_keep {a1} (h : Keep s u) : Keep s (State.dropPartial u a1) := by
  unfold State.dropPartial
  extract_lets v tail w byLink a y
  have hb : ∀ k st x, Keep s x → Keep s (byLink k st x) := fun _ _ _ h => State.modCtx_keep h
  refine Touch.ite h ?_
  have hw : Keep s w := State.setPort_touch h trivial
  clear_value w byLink
  refine Touch.ite hw ?_
  split
  · split
    · exact Touch.ite (State.countLost_touch hw fun _ _ => trivial) (Touch.ite (State.countLost_touch hw fun _ _ => trivial)
        (hb _ _ _ (State.countLost_touch hw fun _ _ => trivial)))
    · exact State.countLost_touch hw fun _ _ => trivial
  · have hy : Keep s y := State.setAsm_keep hw
    clear_value y a
    split
    · exact hy
    · have hz := State.throttleUpdate_touch (State.dropItem_keep (a1 := ‹_›) hy) fun _ _ => trivial
      split
      · exact hb _ _ _ hz
      · exact hz


theorem State.pairMarks_keep (h : Keep s u) : Keep s (State.pairMarks u) := by
  unfold State.pairMarks
  have x := @id True
  repeat' first
    | with_reducible assumption
    | exact fun _ _ => trivial
    | exact fun _ => trivial
    | exact trivial
    | (extract_lets +onlyGivenNames x; (fail_if_success have y : True → True := x); (first | (refine (fun (hx : Keep s x) => ?_) ?_; rotate_left; (try unfold x); rotate_left) | (refine (fun (hx : Keep s x.2) => ?_) ?_; rotate_left; (try unfold x); rotate_left) | (refine (fun (hx : Keep s x.2.2) => ?_) ?_; rotate_left; (try unfold x); rotate_left) | (refine (fun (hx : KeepOpt s x) => ?_) ?_; rotate_left; (try unfold x); rotate_left) | (refine (fun (hx : ∀ v : State, Keep s v → Keep s (x v)) => ?_) ?_; rotate_left; (try unfold x); (try intro v hv); rotate_left) | (have y : Mem := x) | (have y : ProtSt := x) | (have y : PoolSt := x) | (have y : PairSt := x) | (have y : HostSt := x) | (have y : TestSt := x) | (have y : Tab Cell := x) | (have y : Tab Word := x) | (try clear_value x)); all_goals have x := @id True)
    | with_reducible apply Touch.ite
    | with_reducible refine Touch.foldl _ ?_ (fun v a hv => ?_)
    | with_reducible apply State.recognise_keep
    | with_reducible apply State.setF_touch
    | split
    | intro _ _ _
    | intro _ _
    | fail_if_no_progress (with_reducible refine Touch.upd ?_)
    | with_reducible apply_assumption


theorem State.pairRestart_keep {a1} (h : Keep s u) : Keep s (State.pairRestart u a1) := by
  unfold State.pairRestart
  have x := @id True
  repeat' first
    | with_reducible assumption
    | exact fun _ _ => trivial
    | exact fun _ => trivial
    | exact trivial
    | (extract_lets +onlyGivenNames x; (fail_if_success have y : True → True := x); (first | (refine (fun (hx : Keep s x) => ?_) ?_; rotate_left; (try unfold x); rotate_left) | (refine (fun (hx : Keep s x.2) => ?_) ?_; rotate_left; (try unfold x); rotate_left) | (refine (fun (hx : Keep s x.2.2) => ?_) ?_; rotate_left; (try unfold x); rotate_left) | (refine (fun (hx : KeepOpt s x) => ?_) ?_; rotate_left; (try unfold x); rotate_left) | (refine (fun (hx : ∀ v : State, Keep s v → Keep s (x v)) => ?_) ?_; rotate_left; (try unfold x); (try intro v hv); rotate_left) | (have y : Mem := x) | (have y : ProtSt := x) | (have y : PoolSt := x) | (have y : PairSt := x) | (have y : HostSt := x) | (have y : TestSt := x) | (have y : Tab Cell := x) | (have y : Tab Word := x) | (try clear_value x)); all_goals have x := @id True)
    | with_reducible apply Touch.ite
    | with_reducible refine Touch.foldl _ ?_ (fun v a hv => ?_)
    | with_reducible apply State.setF_touch
    | with_reducible apply State.emit_touch
    | split
    | intro _ _ _
    | intro _ _
    | fail_if_no_progress (with_reducible refine Touch.upd ?_)
    | with_reducible apply_assumption


theorem State.reachUp_keep {a1 a2 a3 a4} (h : Keep s u) : Keep s (State.reachUp u a1 a2 a3 a4) := by
  unfold State.reachUp
  have x := @id True
  repeat' first
    | with_reducible assumption
    | exact fun _ _ => trivial
    | exact fun _ => trivial
    | exact trivial
    | (extract_lets +onlyGivenNames x; (fail_if_success have y : True → True := x); (first | (refine (fun (hx : Keep s x) => ?_) ?_; rotate_left; (try unfold x); rotate_left) | (refine (fun (hx : Keep s x.2) => ?_) ?_; rotate_left; (try unfold x); rotate_left) | (refine (fun (hx : Keep s x.2.2) => ?_) ?_; rotate_left; (try unfold x); rotate_left) | (refine (fun (hx : KeepOpt s x) => ?_) ?_; rotate_left; (try unfold x); rotate_left) | (refine (fun (hx : ∀ v : State, Keep s v → Keep s (x v)) => ?_) ?_; rotate_left; (try unfold x); (try intro v hv); rotate_left) | (have y : Mem := x) | (have y : ProtSt := x) | (have y : PoolSt := x) | (have y : PairSt := x) | (have y : HostSt := x) | (have y : TestSt := x) | (have y : Tab Cell := x) | (have y : Tab Word := x) | (try clear_value x)); all_goals have x := @id True)
    | with_reducible apply Touch.ite
    | with_reducible refine Touch.foldl _ ?_ (fun v a hv => ?_)
    | with_reducible apply State.ackPackets_keep
    | with_reducible apply State.dropPartial_keep
    | with_reducible apply State.discardTx_keep
    | with_reducible apply State.setPort_touch
    | with_reducible apply State.setF_touch
    | with_reducible apply State.referenceBack_keep
    | with_reducible apply State.pairMarks_keep
    | with_reducible apply State.pairRestart_keep
    | split
    | intro _ _ _
    | intro _ _
    | fail_if_no_progress (with_reducible refine Touch.upd ?_)
    | with_reducible apply_assumption


theorem State.emitPacket_keep {a1 a2 a3} (h : Keep s u) : Keep s (State.emitPacket u a1 a2 a3) := by
  unfold State.emitPacket
  have x := @id True
  repeat' first
    | with_reducible assumption
    | exact fun _ _ => trivial
    | exact fun _ => trivial
    | exact trivial
    | (extract_lets +onlyGivenNames x; (fail_if_success have y : True → True := x); (first | (refine (fun (hx : Keep s x) => ?_) ?_; rotate_left; (try unfold x); rotate_left) | (refine (fun (hx : Keep s x.2) => ?_) ?_; rotate_left; (try unfold x); rotate_left) | (refine (fun (hx : Keep s x.2.2) => ?_) ?_; rotate_left; (try unfold x); rotate_left) | (refine (fun (hx : KeepOpt s x) => ?_) ?_; rotate_left; (try unfold x); rotate_left) | (refine (fun (hx : ∀ v : State, Keep s v → Keep s (x v)) => ?_) ?_; rotate_left; (try unfold x); (try intro v hv); rotate_left) | (have y : Mem := x) | (have y : ProtSt := x) | (have y : PoolSt := x) | (have y : PairSt := x) | (have y : HostSt := x) | (have y : TestSt := x) | (have y : Tab Cell := x) | (have y : Tab Word := x) | (try clear_value x)); all_goals have x := @id True)
    | with_reducible apply Touch.ite
    | with_reducible refine Touch.foldl _ ?_ (fun v a hv => ?_)
    | with_reducible apply State.drawn_touch
    | with_reducible apply State.emit_touch
    | split
    | intro _ _ _
    | intro _ _
    | fail_if_no_progress (with_reducible refine Touch.upd ?_)
    | with_reducible apply_assumption


theorem State.sendNew_keep {a1 a2 a3} (h : Keep s u) : Keep s (State.sendNew u a1 a2 a3) := by
  unfold State.sendNew
  have x := @id True
  repeat' first
    | with_reducible assumption
    | exact fun _ _ => trivial
    | exact fun _ => trivial
    | exact trivial
    | (extract_lets +onlyGivenNames x; (fail_if_success have y : True → True := x); (first | (refine (fun (hx : Keep s x) => ?_) ?_; rotate_left; (try unfold x); rotate_left) | (refine (fun (hx : Keep s x.2) => ?_) ?_; rotate_left; (try unfold x); rotate_left) | (refine (fun (hx : Keep s x.2.2) => ?_) ?_; rotate_left; (try unfold x); rotate_left) | (refine (fun (hx : KeepOpt s x) => ?_) ?_; rotate_left; (try unfold x); rotate_left) | (refine (fun (hx : ∀ v : State, Keep s v → Keep s (x v)) => ?_) ?_; rotate_left; (try unfold x); (try intro v hv); rotate_left) | (have y : Mem := x) | (have y : ProtSt := x) | (have y : PoolSt := x) | (have y : PairSt := x) | (have y : HostSt := x) | (have y : TestSt := x) | (have y : Tab Cell := x) | (have y : Tab Word := x) | (try clear_value x)); all_goals have x := @id True)
    | with_reducible apply Touch.ite
    | with_reducible refine Touch.foldl _ ?_ (fun v a hv => ?_)
    | with_reducible apply State.emitPacket_keep
    | with_reducible apply State.setChan_keep
    | split
    | intro _ _ _
    | intro _ _
    | fail_if_no_progress (with_reducible refine Touch.upd ?_)
    | with_reducible apply_assumption


theorem State.sendAgain_keep {a1 a2 a3} (h : Keep s u) : Keep s (State.sendAgain u a1 a2 a3) := by
  unfold State.sendAgain
  have x := @id True
  repeat' first
    | with_reducible assumption
    | exact fun _ _ => trivial
    | exact fun _ => trivial
    | exact trivial
    | (extract_lets +onlyGivenNames x; (fail_if_success have y : True → True := x); (first | (refine (fun (hx : Keep s x) => ?_) ?_; rotate_left; (try unfold x); rotate_left) | (refine (fun (hx : Keep s x.2) => ?_) ?_; rotate_left; (try unfold x); rotate_left) | (refine (fun (hx : Keep s x.2.2) => ?_) ?_; rotate_left; (try unfold x); rotate_left) | (refine (fun (hx : KeepOpt s x) => ?_) ?_; rotate_left; (try unfold x); rotate_left) | (refine (fun (hx : ∀ v : State, Keep s v → Keep s (x v)) => ?_) ?_; rotate_left; (try unfold x); (try intro v hv); rotate_left) | (have y : Mem := x) | (have y : ProtSt := x) | (have y : PoolSt := x) | (have y : PairSt := x) | (have y : HostSt := x) | (have y : TestSt := x) | (have y : Tab Cell := x) | (have y : Tab Word := x) | (try clear_value x)); all_goals have x := @id True)
    | with_reducible apply Touch.ite
    | with_reducible refine Touch.foldl _ ?_ (fun v a hv => ?_)
    | with_reducible apply State.emitPacket_keep
    | with_reducible apply State.setChan_keep
    | split
    | intro _ _ _
    | intro _ _
    | fail_if_no_progress (with_reducible refine Touch.upd ?_)
    | with_reducible apply_assumption


theorem State.loadItem_keep {a1} (h : Keep s u) : Keep s (State.loadItem u a1) := by
  unfold State.loadItem
  have x := @id True
  repeat' first
    | with_reducible assumption
    | exact fun _ _ => trivial
    | exact fun _ => trivial
    | exact trivial
    | (extract_lets +onlyGivenNames x; (fail_if_success have y : True → True := x); (first | (refine (fun (hx : Keep s x) => ?_) ?_; rotate_left; (try unfold x); rotate_left) | (refine (fun (hx : Keep s x.2) => ?_) ?_; rotate_left; (try unfold x); rotate_left) | (refine (fun (hx : Keep s x.2.2) => ?_) ?_; rotate_left; (try unfold x); rotate_left) | (refine (fun (hx : KeepOpt s x) => ?_) ?_; rotate_left; (try unfold x); rotate_left) | (refine (fun (hx : ∀ v : State, Keep s v → Keep s (x v)) => ?_) ?_; rotate_left; (try unfold x); (try intro v hv); rotate_left) | (have y : Mem := x) | (have y : ProtSt := x) | (have y : PoolSt := x) | (have y : PairSt := x) | (have y : HostSt := x) | (have y : TestSt := x) | (have y : Tab Cell := x) | (have y : Tab Word := x) | (try clear_value x)); all_goals have x := @id True)
    | with_reducible apply Touch.ite
    | with_reducible apply Touch.ite2
    | with_reducible apply Touch.ite22
    | with_reducible refine Touch.foldl _ ?_ (fun v a hv => ?_)
    | with_reducible apply State.readItem_touch
    | with_reducible refine State.readItem_keepE (by with_reducible assumption) ?_
    | with_reducible apply State.setReader_keep
    | split
    | intro _ _ _
    | intro _ _
    | fail_if_no_progress (with_reducible refine Touch.upd ?_)
    | with_reducible apply_assumption


theorem State.beginItem_keep {a1 a2} (h : Keep s u) : Keep s (State.beginItem u a1 a2) := by
  unfold State.beginItem
  have x := @id True
  repeat' first
    | with_reducible assumption
    | exact fun _ _ => trivial
    | exact fun _ => trivial
    | exact trivial
    | (extract_lets +onlyGivenNames x; (fail_if_success have y : True → True := x); (first | (refine (fun (hx : Keep s x) => ?_) ?_; rotate_left; (try unfold x); rotate_left) | (refine (fun (hx : Keep s x.2) => ?_) ?_; rotate_left; (try unfold x); rotate_left) | (refine (fun (hx : Keep s x.2.2) => ?_) ?_; rotate_left; (try unfold x); rotate_left) | (refine (fun (hx : KeepOpt s x) => ?_) ?_; rotate_left; (try unfold x); rotate_left) | (refine (fun (hx : ∀ v : State, Keep s v → Keep s (x v)) => ?_) ?_; rotate_left; (try unfold x); (try intro v hv); rotate_left) | (have y : Mem := x) | (have y : ProtSt := x) | (have y : PoolSt := x) | (have y : PairSt := x) | (have y : HostSt := x) | (have y : TestSt := x) | (have y : Tab Cell := x) | (have y : Tab Word := x) | (try clear_value x)); all_goals have x := @id True)
    | with_reducible apply Touch.ite
    | with_reducible refine Touch.foldl _ ?_ (fun v a hv => ?_)
    | with_reducible apply State.modItem_touch
    | with_reducible apply State.northLag_keep
    | split
    | intro _ _ _
    | intro _ _
    | fail_if_no_progress (with_reducible refine Touch.upd ?_)
    | with_reducible apply_assumption


theorem State.nextControl_keep {a1 f} (e : State.nextControl u a1 = some f) (h : Keep s u) : Keep s (f u) := by
  unfold State.nextControl at e
  dsimp only at e
  split at e
  · split at e
    · cases e; exact State.sendAgain_keep h
    · cases e
  · split at e
    · split at e
      · cases e; exact State.sendNew_keep (State.setPort_touch h trivial)
      · cases e
    · cases e


theorem State.sendData_keep {a1 a2 a3} (h : Keep s u) : Keep s (State.sendData u a1 a2 a3) := by
  unfold State.sendData
  have x := @id True
  repeat' first
    | with_reducible assumption
    | exact fun _ _ => trivial
    | exact fun _ => trivial
    | exact trivial
    | (extract_lets +onlyGivenNames x; (fail_if_success have y : True → True := x); (first | (refine (fun (hx : Keep s x) => ?_) ?_; rotate_left; (try unfold x); rotate_left) | (refine (fun (hx : Keep s x.2) => ?_) ?_; rotate_left; (try unfold x); rotate_left) | (refine (fun (hx : Keep s x.2.2) => ?_) ?_; rotate_left; (try unfold x); rotate_left) | (refine (fun (hx : KeepOpt s x) => ?_) ?_; rotate_left; (try unfold x); rotate_left) | (refine (fun (hx : ∀ v : State, Keep s v → Keep s (x v)) => ?_) ?_; rotate_left; (try unfold x); (try intro v hv); rotate_left) | (have y : Mem := x) | (have y : ProtSt := x) | (have y : PoolSt := x) | (have y : PairSt := x) | (have y : HostSt := x) | (have y : TestSt := x) | (have y : Tab Cell := x) | (have y : Tab Word := x) | (try clear_value x)); all_goals have x := @id True)
    | with_reducible apply Touch.ite
    | with_reducible refine Touch.foldl _ ?_ (fun v a hv => ?_)
    | with_reducible apply State.sendAgain_keep
    | with_reducible apply State.loadItem_keep
    | with_reducible apply State.setReader_keep
    | with_reducible apply State.sendNew_keep
    | with_reducible apply State.beginItem_keep
    | split
    | intro _ _ _
    | intro _ _
    | fail_if_no_progress (with_reducible refine Touch.upd ?_)
    | with_reducible apply_assumption


theorem State.replayFrom_keep {a1 a2 a3} (h : Keep s u) : Keep s (State.replayFrom u a1 a2 a3) := by
  unfold State.replayFrom
  have x := @id True
  repeat' first
    | with_reducible assumption
    | exact fun _ _ => trivial
    | exact fun _ => trivial
    | exact trivial
    | (extract_lets +onlyGivenNames x; (fail_if_success have y : True → True := x); (first | (refine (fun (hx : Keep s x) => ?_) ?_; rotate_left; (try unfold x); rotate_left) | (refine (fun (hx : Keep s x.2) => ?_) ?_; rotate_left; (try unfold x); rotate_left) | (refine (fun (hx : Keep s x.2.2) => ?_) ?_; rotate_left; (try unfold x); rotate_left) | (refine (fun (hx : KeepOpt s x) => ?_) ?_; rotate_left; (try unfold x); rotate_left) | (refine (fun (hx : ∀ v : State, Keep s v → Keep s (x v)) => ?_) ?_; rotate_left; (try unfold x); (try intro v hv); rotate_left) | (have y : Mem := x) | (have y : ProtSt := x) | (have y : PoolSt := x) | (have y : PairSt := x) | (have y : HostSt := x) | (have y : TestSt := x) | (have y : Tab Cell := x) | (have y : Tab Word := x) | (try clear_value x)); all_goals have x := @id True)
    | with_reducible apply Touch.ite
    | with_reducible refine Touch.foldl _ ?_ (fun v a hv => ?_)
    | with_reducible apply State.setChan_keep
    | with_reducible apply State.inc_touch
    | with_reducible apply State.setPort_touch
    | split
    | intro _ _ _
    | intro _ _
    | fail_if_no_progress (with_reducible refine Touch.upd ?_)
    | with_reducible apply_assumption


theorem State.linkWordCheck_keep {a1 a2 a3} (h : Keep s u) : Keep s (State.linkWordCheck u a1 a2 a3).2 := by
  unfold State.linkWordCheck
  have x := @id True
  repeat' first
    | with_reducible assumption
    | exact fun _ _ => trivial
    | exact fun _ => trivial
    | exact trivial
    | (extract_lets +onlyGivenNames x; (fail_if_success have y : True → True := x); (first | (refine (fun (hx : Keep s x) => ?_) ?_; rotate_left; (try unfold x); rotate_left) | (refine (fun (hx : Keep s x.2) => ?_) ?_; rotate_left; (try unfold x); rotate_left) | (refine (fun (hx : Keep s x.2.2) => ?_) ?_; rotate_left; (try unfold x); rotate_left) | (refine (fun (hx : KeepOpt s x) => ?_) ?_; rotate_left; (try unfold x); rotate_left) | (refine (fun (hx : ∀ v : State, Keep s v → Keep s (x v)) => ?_) ?_; rotate_left; (try unfold x); (try intro v hv); rotate_left) | (have y : Mem := x) | (have y : ProtSt := x) | (have y : PoolSt := x) | (have y : PairSt := x) | (have y : HostSt := x) | (have y : TestSt := x) | (have y : Tab Cell := x) | (have y : Tab Word := x) | (try clear_value x)); all_goals have x := @id True)
    | with_reducible apply Touch.ite
    | with_reducible apply Touch.ite2
    | with_reducible apply Touch.ite22
    | with_reducible refine Touch.foldl _ ?_ (fun v a hv => ?_)
    | with_reducible apply State.inc_touch
    | split
    | intro _ _ _
    | intro _ _
    | fail_if_no_progress (with_reducible refine Touch.upd ?_)
    | with_reducible apply_assumption

theorem State.linkWordCheck_keepE {a1 a2 a3} {x v} (e : (State.linkWordCheck u a1 a2 a3) = (x, v)) (h : Keep s u) : Keep s v := by
  have h2 := State.linkWordCheck_keep (u := u) (a1 := a1) (a2 := a2) (a3 := a3) h; rw [e] at h2; exact h2


theorem State.acceptControl_keep {a1 a2} (h : Keep s u) : Keep s (State.acceptControl u a1 a2) := by
  unfold State.acceptControl
  have x := @id True
  repeat' first
    | with_reducible assumption
    | exact fun _ _ => trivial
    | exact fun _ => trivial
    | exact trivial
    | (extract_lets +onlyGivenNames x; (fail_if_success have y : True → True := x); (first | (refine (fun (hx : Keep s x) => ?_) ?_; rotate_left; (try unfold x); rotate_left) | (refine (fun (hx : Keep s x.2) => ?_) ?_; rotate_left; (try unfold x); rotate_left) | (refine (fun (hx : Keep s x.2.2) => ?_) ?_; rotate_left; (try unfold x); rotate_left) | (refine (fun (hx : KeepOpt s x) => ?_) ?_; rotate_left; (try unfold x); rotate_left) | (refine (fun (hx : ∀ v : State, Keep s v → Keep s (x v)) => ?_) ?_; rotate_left; (try unfold x); (try intro v hv); rotate_left) | (have y : Mem := x) | (have y : ProtSt := x) | (have y : PoolSt := x) | (have y : PairSt := x) | (have y : HostSt := x) | (have y : TestSt := x) | (have y : Tab Cell := x) | (have y : Tab Word := x) | (try clear_value x)); all_goals have x := @id True)
    | with_reducible apply Touch.ite
    | with_reducible refine Touch.foldl _ ?_ (fun v a hv => ?_)
    | with_reducible apply State.skip_touch
    | with_reducible apply State.setPort_touch
    | with_reducible apply State.freeCredit_keep
    | with_reducible apply State.inc_touch
    | split
    | intro _ _ _
    | intro _ _
    | fail_if_no_progress (with_reducible refine Touch.upd ?_)
    | with_reducible apply_assumption


theorem State.arrivalDrop_keep {a1 a2} (h : Keep s u) : KeepOpt s (State.arrivalDrop u a1 a2) := by
  unfold State.arrivalDrop
  have x := @id True
  repeat' first
    | with_reducible assumption
    | exact fun _ _ => trivial
    | exact fun _ => trivial
    | exact trivial
    | (extract_lets +onlyGivenNames x; (fail_if_success have y : True → True := x); (first | (refine (fun (hx : Keep s x) => ?_) ?_; rotate_left; (try unfold x); rotate_left) | (refine (fun (hx : Keep s x.2) => ?_) ?_; rotate_left; (try unfold x); rotate_left) | (refine (fun (hx : Keep s x.2.2) => ?_) ?_; rotate_left; (try unfold x); rotate_left) | (refine (fun (hx : KeepOpt s x) => ?_) ?_; rotate_left; (try unfold x); rotate_left) | (refine (fun (hx : ∀ v : State, Keep s v → Keep s (x v)) => ?_) ?_; rotate_left; (try unfold x); (try intro v hv); rotate_left) | (have y : Mem := x) | (have y : ProtSt := x) | (have y : PoolSt := x) | (have y : PairSt := x) | (have y : HostSt := x) | (have y : TestSt := x) | (have y : Tab Cell := x) | (have y : Tab Word := x) | (try clear_value x)); all_goals have x := @id True)
    | with_reducible apply KeepOpt.some
    | with_reducible exact KeepOpt.none
    | with_reducible apply KeepOpt.ite
    | with_reducible apply KeepOpt.map
    | with_reducible apply Touch.ite
    | with_reducible refine Touch.foldl _ ?_ (fun v a hv => ?_)
    | with_reducible apply State.inc_touch
    | with_reducible apply State.countDup_keep
    | split
    | intro _ _ _
    | intro _ _
    | fail_if_no_progress (with_reducible refine Touch.upd ?_)
    | with_reducible apply_assumption

theorem State.arrivalDrop_keepE {a1 a2} {v} (e : (State.arrivalDrop u a1 a2) = some v) (h : Keep s u) : Keep s v :=
  State.arrivalDrop_keep h v e


theorem State.acceptData_keep {a1 a2} (h : Keep s u) : Keep s (State.acceptData u a1 a2) := by
  unfold State.acceptData
  have x := @id True
  repeat' first
    | with_reducible assumption
    | exact fun _ _ => trivial
    | exact fun _ => trivial
    | exact trivial
    | (extract_lets +onlyGivenNames x; (fail_if_success have y : True → True := x); (first | (refine (fun (hx : Keep s x) => ?_) ?_; rotate_left; (try unfold x); rotate_left) | (refine (fun (hx : Keep s x.2) => ?_) ?_; rotate_left; (try unfold x); rotate_left) | (refine (fun (hx : Keep s x.2.2) => ?_) ?_; rotate_left; (try unfold x); rotate_left) | (refine (fun (hx : KeepOpt s x) => ?_) ?_; rotate_left; (try unfold x); rotate_left) | (refine (fun (hx : ∀ v : State, Keep s v → Keep s (x v)) => ?_) ?_; rotate_left; (try unfold x); (try intro v hv); rotate_left) | (have y : Mem := x) | (have y : ProtSt := x) | (have y : PoolSt := x) | (have y : PairSt := x) | (have y : HostSt := x) | (have y : TestSt := x) | (have y : Tab Cell := x) | (have y : Tab Word := x) | (try clear_value x)); all_goals have x := @id True)
    | with_reducible apply KeepOpt.getD
    | with_reducible apply KeepOpt.ite
    | with_reducible exact KeepOpt.none
    | with_reducible apply Touch.ite
    | with_reducible refine Touch.foldl _ ?_ (fun v a hv => ?_)
    | with_reducible apply State.freeCredit_keep
    | with_reducible apply State.inc_touch
    | with_reducible refine State.arrivalDrop_keepE (by with_reducible assumption) ?_
    | with_reducible apply State.arrivalDrop_keep
    | with_reducible apply State.setPort_touch
    | with_reducible apply State.tableWrite_touch
    | with_reducible apply State.setRaw_touch
    | split
    | intro _ _ _
    | intro _ _
    | fail_if_no_progress (with_reducible refine Touch.upd ?_)
    | with_reducible apply_assumption


theorem State.packetFails_keep {a1 a2} (h : Keep s u) : Keep s (State.packetFails u a1 a2) := by
  unfold State.packetFails
  have x := @id True
  repeat' first
    | with_reducible assumption
    | exact fun _ _ => trivial
    | exact fun _ => trivial
    | exact trivial
    | (extract_lets +onlyGivenNames x; (fail_if_success have y : True → True := x); (first | (refine (fun (hx : Keep s x) => ?_) ?_; rotate_left; (try unfold x); rotate_left) | (refine (fun (hx : Keep s x.2) => ?_) ?_; rotate_left; (try unfold x); rotate_left) | (refine (fun (hx : Keep s x.2.2) => ?_) ?_; rotate_left; (try unfold x); rotate_left) | (refine (fun (hx : KeepOpt s x) => ?_) ?_; rotate_left; (try unfold x); rotate_left) | (refine (fun (hx : ∀ v : State, Keep s v → Keep s (x v)) => ?_) ?_; rotate_left; (try unfold x); (try intro v hv); rotate_left) | (have y : Mem := x) | (have y : ProtSt := x) | (have y : PoolSt := x) | (have y : PairSt := x) | (have y : HostSt := x) | (have y : TestSt := x) | (have y : Tab Cell := x) | (have y : Tab Word := x) | (try clear_value x)); all_goals have x := @id True)
    | with_reducible apply Touch.ite
    | with_reducible refine Touch.foldl _ ?_ (fun v a hv => ?_)
    | with_reducible apply State.inc_touch
    | with_reducible apply State.setChan_keep
    | with_reducible apply State.sendLinkCtl_keep
    | split
    | intro _ _ _
    | intro _ _
    | fail_if_no_progress (with_reducible refine Touch.upd ?_)
    | with_reducible apply_assumption


theorem State.takeCtl_keepE {a1 a2 x v} (e : State.takeCtl u a1 a2 = some (x, v)) (h : Keep s u) : Keep s v := by
  unfold State.takeCtl at e
  split at e
  · cases e
  · cases e; exact State.freeCredit_keep (State.setPort_touch h trivial)


theorem State.setArb_keep {a1 a2} (h : Keep s u) : Keep s (State.setArb u a1 a2) := by
  unfold State.setArb
  have x := @id True
  repeat' first
    | with_reducible assumption
    | exact fun _ _ => trivial
    | exact fun _ => trivial
    | exact trivial
    | (extract_lets +onlyGivenNames x; (fail_if_success have y : True → True := x); (first | (refine (fun (hx : Keep s x) => ?_) ?_; rotate_left; (try unfold x); rotate_left) | (refine (fun (hx : Keep s x.2) => ?_) ?_; rotate_left; (try unfold x); rotate_left) | (refine (fun (hx : Keep s x.2.2) => ?_) ?_; rotate_left; (try unfold x); rotate_left) | (refine (fun (hx : KeepOpt s x) => ?_) ?_; rotate_left; (try unfold x); rotate_left) | (refine (fun (hx : ∀ v : State, Keep s v → Keep s (x v)) => ?_) ?_; rotate_left; (try unfold x); (try intro v hv); rotate_left) | (have y : Mem := x) | (have y : ProtSt := x) | (have y : PoolSt := x) | (have y : PairSt := x) | (have y : HostSt := x) | (have y : TestSt := x) | (have y : Tab Cell := x) | (have y : Tab Word := x) | (try clear_value x)); all_goals have x := @id True)
    | with_reducible apply Touch.ite
    | with_reducible refine Touch.foldl _ ?_ (fun v a hv => ?_)
    | split
    | intro _ _ _
    | intro _ _
    | fail_if_no_progress (with_reducible refine Touch.upd ?_)
    | with_reducible apply_assumption


theorem State.sendGrant_keep {a1} (h : Keep s u) : Keep s (State.sendGrant u a1) := by
  unfold State.sendGrant
  have x := @id True
  repeat' first
    | with_reducible assumption
    | exact fun _ _ => trivial
    | exact fun _ => trivial
    | exact trivial
    | (extract_lets +onlyGivenNames x; (fail_if_success have y : True → True := x); (first | (refine (fun (hx : Keep s x) => ?_) ?_; rotate_left; (try unfold x); rotate_left) | (refine (fun (hx : Keep s x.2) => ?_) ?_; rotate_left; (try unfold x); rotate_left) | (refine (fun (hx : Keep s x.2.2) => ?_) ?_; rotate_left; (try unfold x); rotate_left) | (refine (fun (hx : KeepOpt s x) => ?_) ?_; rotate_left; (try unfold x); rotate_left) | (refine (fun (hx : ∀ v : State, Keep s v → Keep s (x v)) => ?_) ?_; rotate_left; (try unfold x); (try intro v hv); rotate_left) | (have y : Mem := x) | (have y : ProtSt := x) | (have y : PoolSt := x) | (have y : PairSt := x) | (have y : HostSt := x) | (have y : TestSt := x) | (have y : Tab Cell := x) | (have y : Tab Word := x) | (try clear_value x)); all_goals have x := @id True)
    | with_reducible apply Touch.ite
    | with_reducible refine Touch.foldl _ ?_ (fun v a hv => ?_)
    | with_reducible apply State.sendMsg_touch
    | split
    | intro _ _ _
    | intro _ _
    | fail_if_no_progress (with_reducible refine Touch.upd ?_)
    | with_reducible apply_assumption


theorem State.setGrant_keep {a1 a2} (h : Keep s u) : Keep s (State.setGrant u a1 a2) := by
  unfold State.setGrant
  have x := @id True
  repeat' first
    | with_reducible assumption
    | exact fun _ _ => trivial
    | exact fun _ => trivial
    | exact trivial
    | (extract_lets +onlyGivenNames x; (fail_if_success have y : True → True := x); (first | (refine (fun (hx : Keep s x) => ?_) ?_; rotate_left; (try unfold x); rotate_left) | (refine (fun (hx : Keep s x.2) => ?_) ?_; rotate_left; (try unfold x); rotate_left) | (refine (fun (hx : Keep s x.2.2) => ?_) ?_; rotate_left; (try unfold x); rotate_left) | (refine (fun (hx : KeepOpt s x) => ?_) ?_; rotate_left; (try unfold x); rotate_left) | (refine (fun (hx : ∀ v : State, Keep s v → Keep s (x v)) => ?_) ?_; rotate_left; (try unfold x); (try intro v hv); rotate_left) | (have y : Mem := x) | (have y : ProtSt := x) | (have y : PoolSt := x) | (have y : PairSt := x) | (have y : HostSt := x) | (have y : TestSt := x) | (have y : Tab Cell := x) | (have y : Tab Word := x) | (try clear_value x)); all_goals have x := @id True)
    | with_reducible apply Touch.ite
    | with_reducible refine Touch.foldl _ ?_ (fun v a hv => ?_)
    | with_reducible apply State.dropPartial_keep
    | with_reducible apply State.sendGrant_keep
    | with_reducible apply State.setF_touch
    | split
    | intro _ _ _
    | intro _ _
    | fail_if_no_progress (with_reducible refine Touch.upd ?_)
    | with_reducible apply_assumption


theorem State.declareFailed_keep {a1 a2} (h : Keep s u) : Keep s (State.declareFailed u a1 a2) := by
  unfold State.declareFailed
  have x := @id True
  repeat' first
    | with_reducible assumption
    | exact fun _ _ => trivial
    | exact fun _ => trivial
    | exact trivial
    | (extract_lets +onlyGivenNames x; (fail_if_success have y : True → True := x); (first | (refine (fun (hx : Keep s x) => ?_) ?_; rotate_left; (try unfold x); rotate_left) | (refine (fun (hx : Keep s x.2) => ?_) ?_; rotate_left; (try unfold x); rotate_left) | (refine (fun (hx : Keep s x.2.2) => ?_) ?_; rotate_left; (try unfold x); rotate_left) | (refine (fun (hx : KeepOpt s x) => ?_) ?_; rotate_left; (try unfold x); rotate_left) | (refine (fun (hx : ∀ v : State, Keep s v → Keep s (x v)) => ?_) ?_; rotate_left; (try unfold x); (try intro v hv); rotate_left) | (have y : Mem := x) | (have y : ProtSt := x) | (have y : PoolSt := x) | (have y : PairSt := x) | (have y : HostSt := x) | (have y : TestSt := x) | (have y : Tab Cell := x) | (have y : Tab Word := x) | (try clear_value x)); all_goals have x := @id True)
    | with_reducible apply Touch.ite
    | with_reducible refine Touch.foldl _ ?_ (fun v a hv => ?_)
    | with_reducible apply State.setFlag_touch
    | with_reducible apply State.setF_touch
    | with_reducible apply State.setGrant_keep
    | split
    | intro _ _ _
    | intro _ _
    | fail_if_no_progress (with_reducible refine Touch.upd ?_)
    | with_reducible apply_assumption


theorem State.arbReview_keep {a1} (h : Keep s u) : Keep s (State.arbReview u a1) := by
  unfold State.arbReview
  have x := @id True
  repeat' first
    | with_reducible assumption
    | exact fun _ _ => trivial
    | exact fun _ => trivial
    | exact trivial
    | (extract_lets +onlyGivenNames x; (fail_if_success have y : True → True := x); (first | (refine (fun (hx : Keep s x) => ?_) ?_; rotate_left; (try unfold x); rotate_left) | (refine (fun (hx : Keep s x.2) => ?_) ?_; rotate_left; (try unfold x); rotate_left) | (refine (fun (hx : Keep s x.2.2) => ?_) ?_; rotate_left; (try unfold x); rotate_left) | (refine (fun (hx : KeepOpt s x) => ?_) ?_; rotate_left; (try unfold x); rotate_left) | (refine (fun (hx : ∀ v : State, Keep s v → Keep s (x v)) => ?_) ?_; rotate_left; (try unfold x); (try intro v hv); rotate_left) | (have y : Mem := x) | (have y : ProtSt := x) | (have y : PoolSt := x) | (have y : PairSt := x) | (have y : HostSt := x) | (have y : TestSt := x) | (have y : Tab Cell := x) | (have y : Tab Word := x) | (try clear_value x)); all_goals have x := @id True)
    | with_reducible apply Touch.ite
    | with_reducible refine Touch.foldl _ ?_ (fun v a hv => ?_)
    | with_reducible apply State.setF_touch
    | with_reducible apply State.setGrant_keep
    | split
    | intro _ _ _
    | intro _ _
    | fail_if_no_progress (with_reducible refine Touch.upd ?_)
    | with_reducible apply_assumption


theorem State.grantAll_keep (h : Keep s u) : Keep s (State.grantAll u) := by
  unfold State.grantAll
  have x := @id True
  repeat' first
    | with_reducible assumption
    | exact fun _ _ => trivial
    | exact fun _ => trivial
    | exact trivial
    | (extract_lets +onlyGivenNames x; (fail_if_success have y : True → True := x); (first | (refine (fun (hx : Keep s x) => ?_) ?_; rotate_left; (try unfold x); rotate_left) | (refine (fun (hx : Keep s x.2) => ?_) ?_; rotate_left; (try unfold x); rotate_left) | (refine (fun (hx : Keep s x.2.2) => ?_) ?_; rotate_left; (try unfold x); rotate_left) | (refine (fun (hx : KeepOpt s x) => ?_) ?_; rotate_left; (try unfold x); rotate_left) | (refine (fun (hx : ∀ v : State, Keep s v → Keep s (x v)) => ?_) ?_; rotate_left; (try unfold x); (try intro v hv); rotate_left) | (have y : Mem := x) | (have y : ProtSt := x) | (have y : PoolSt := x) | (have y : PairSt := x) | (have y : HostSt := x) | (have y : TestSt := x) | (have y : Tab Cell := x) | (have y : Tab Word := x) | (try clear_value x)); all_goals have x := @id True)
    | with_reducible apply Touch.ite
    | with_reducible refine Touch.foldl _ ?_ (fun v a hv => ?_)
    | with_reducible apply State.pairMarks_keep
    | with_reducible apply State.setGrant_keep
    | split
    | intro _ _ _
    | intro _ _
    | fail_if_no_progress (with_reducible refine Touch.upd ?_)
    | with_reducible apply_assumption


theorem State.switchover_keep {a1} (h : Keep s u) : Keep s (State.switchover u a1) := by
  unfold State.switchover
  have x := @id True
  repeat' first
    | with_reducible assumption
    | exact fun _ _ => trivial
    | exact fun _ => trivial
    | exact trivial
    | (extract_lets +onlyGivenNames x; (fail_if_success have y : True → True := x); (first | (refine (fun (hx : Keep s x) => ?_) ?_; rotate_left; (try unfold x); rotate_left) | (refine (fun (hx : Keep s x.2) => ?_) ?_; rotate_left; (try unfold x); rotate_left) | (refine (fun (hx : Keep s x.2.2) => ?_) ?_; rotate_left; (try unfold x); rotate_left) | (refine (fun (hx : KeepOpt s x) => ?_) ?_; rotate_left; (try unfold x); rotate_left) | (refine (fun (hx : ∀ v : State, Keep s v → Keep s (x v)) => ?_) ?_; rotate_left; (try unfold x); (try intro v hv); rotate_left) | (have y : Mem := x) | (have y : ProtSt := x) | (have y : PoolSt := x) | (have y : PairSt := x) | (have y : HostSt := x) | (have y : TestSt := x) | (have y : Tab Cell := x) | (have y : Tab Word := x) | (try clear_value x)); all_goals have x := @id True)
    | with_reducible apply Touch.ite
    | with_reducible refine Touch.foldl _ ?_ (fun v a hv => ?_)
    | with_reducible apply State.releaseItem_keep
    | with_reducible apply State.setItems_touch
    | with_reducible apply State.setFlag_touch
    | with_reducible apply State.incBy_touch
    | with_reducible apply State.setF_touch
    | with_reducible apply State.notice_touch
    | split
    | intro _ _ _
    | intro _ _
    | fail_if_no_progress (with_reducible refine Touch.upd ?_)
    | with_reducible apply_assumption


theorem State.standDown_keep (h : Keep s u) : Keep s u.standDown := by
  unfold State.standDown
  extract_lets v unsent w sent mine late x
  have hv : Keep s v := State.setF_touch h trivial
  clear_value v unsent
  have hw : Keep s w := State.giveBack_keep (State.giveBack_keep (State.giveBack_keep hv))
  have hx : Keep s x := Touch.foldl _ hw fun _ _ h => State.releaseItem_keep h
  exact State.trimRetained_keep (State.setItems_touch hx trivial)


theorem State.applyGrant_keep {a1 a2} (h : Keep s u) : Keep s (State.applyGrant u a1 a2) := by
  unfold State.applyGrant
  have x := @id True
  repeat' first
    | with_reducible assumption
    | exact fun _ _ => trivial
    | exact fun _ => trivial
    | exact trivial
    | (extract_lets +onlyGivenNames x; (fail_if_success have y : True → True := x); (first | (refine (fun (hx : Keep s x) => ?_) ?_; rotate_left; (try unfold x); rotate_left) | (refine (fun (hx : Keep s x.2) => ?_) ?_; rotate_left; (try unfold x); rotate_left) | (refine (fun (hx : Keep s x.2.2) => ?_) ?_; rotate_left; (try unfold x); rotate_left) | (refine (fun (hx : KeepOpt s x) => ?_) ?_; rotate_left; (try unfold x); rotate_left) | (refine (fun (hx : ∀ v : State, Keep s v → Keep s (x v)) => ?_) ?_; rotate_left; (try unfold x); (try intro v hv); rotate_left) | (have y : Mem := x) | (have y : ProtSt := x) | (have y : PoolSt := x) | (have y : PairSt := x) | (have y : HostSt := x) | (have y : TestSt := x) | (have y : Tab Cell := x) | (have y : Tab Word := x) | (try clear_value x)); all_goals have x := @id True)
    | with_reducible apply Touch.ite
    | with_reducible refine Touch.foldl _ ?_ (fun v a hv => ?_)
    | with_reducible apply State.setGrantPos_touch
    | with_reducible apply State.switchover_keep
    | with_reducible apply State.standDown_keep
    | split
    | intro _ _ _
    | intro _ _
    | fail_if_no_progress (with_reducible refine Touch.upd ?_)
    | with_reducible apply_assumption


theorem State.pinGrant_keep (h : Keep s u) : Keep s (State.pinGrant u) := by
  unfold State.pinGrant
  have x := @id True
  repeat' first
    | with_reducible assumption
    | exact fun _ _ => trivial
    | exact fun _ => trivial
    | exact trivial
    | (extract_lets +onlyGivenNames x; (fail_if_success have y : True → True := x); (first | (refine (fun (hx : Keep s x) => ?_) ?_; rotate_left; (try unfold x); rotate_left) | (refine (fun (hx : Keep s x.2) => ?_) ?_; rotate_left; (try unfold x); rotate_left) | (refine (fun (hx : Keep s x.2.2) => ?_) ?_; rotate_left; (try unfold x); rotate_left) | (refine (fun (hx : KeepOpt s x) => ?_) ?_; rotate_left; (try unfold x); rotate_left) | (refine (fun (hx : ∀ v : State, Keep s v → Keep s (x v)) => ?_) ?_; rotate_left; (try unfold x); (try intro v hv); rotate_left) | (have y : Mem := x) | (have y : ProtSt := x) | (have y : PoolSt := x) | (have y : PairSt := x) | (have y : HostSt := x) | (have y : TestSt := x) | (have y : Tab Cell := x) | (have y : Tab Word := x) | (try clear_value x)); all_goals have x := @id True)
    | with_reducible apply Touch.ite
    | with_reducible refine Touch.foldl _ ?_ (fun v a hv => ?_)
    | with_reducible apply State.applyGrant_keep
    | split
    | intro _ _ _
    | intro _ _
    | fail_if_no_progress (with_reducible refine Touch.upd ?_)
    | with_reducible apply_assumption


theorem State.applyGrantWord_keep {a1} (h : Keep s u) : Keep s (State.applyGrantWord u a1) := by
  unfold State.applyGrantWord
  have x := @id True
  repeat' first
    | with_reducible assumption
    | exact fun _ _ => trivial
    | exact fun _ => trivial
    | exact trivial
    | (extract_lets +onlyGivenNames x; (fail_if_success have y : True → True := x); (first | (refine (fun (hx : Keep s x) => ?_) ?_; rotate_left; (try unfold x); rotate_left) | (refine (fun (hx : Keep s x.2) => ?_) ?_; rotate_left; (try unfold x); rotate_left) | (refine (fun (hx : Keep s x.2.2) => ?_) ?_; rotate_left; (try unfold x); rotate_left) | (refine (fun (hx : KeepOpt s x) => ?_) ?_; rotate_left; (try unfold x); rotate_left) | (refine (fun (hx : ∀ v : State, Keep s v → Keep s (x v)) => ?_) ?_; rotate_left; (try unfold x); (try intro v hv); rotate_left) | (have y : Mem := x) | (have y : ProtSt := x) | (have y : PoolSt := x) | (have y : PairSt := x) | (have y : HostSt := x) | (have y : TestSt := x) | (have y : Tab Cell := x) | (have y : Tab Word := x) | (try clear_value x)); all_goals have x := @id True)
    | with_reducible apply Touch.ite
    | with_reducible refine Touch.foldl _ ?_ (fun v a hv => ?_)
    | with_reducible apply State.applyGrant_keep
    | split
    | intro _ _ _
    | intro _ _
    | fail_if_no_progress (with_reducible refine Touch.upd ?_)
    | with_reducible apply_assumption


theorem State.resyncDone_keep (h : Keep s u) : Keep s (State.resyncDone u) := by
  unfold State.resyncDone
  have x := @id True
  repeat' first
    | with_reducible assumption
    | exact fun _ _ => trivial
    | exact fun _ => trivial
    | exact trivial
    | (extract_lets +onlyGivenNames x; (fail_if_success have y : True → True := x); (first | (refine (fun (hx : Keep s x) => ?_) ?_; rotate_left; (try unfold x); rotate_left) | (refine (fun (hx : Keep s x.2) => ?_) ?_; rotate_left; (try unfold x); rotate_left) | (refine (fun (hx : Keep s x.2.2) => ?_) ?_; rotate_left; (try unfold x); rotate_left) | (refine (fun (hx : KeepOpt s x) => ?_) ?_; rotate_left; (try unfold x); rotate_left) | (refine (fun (hx : ∀ v : State, Keep s v → Keep s (x v)) => ?_) ?_; rotate_left; (try unfold x); (try intro v hv); rotate_left) | (have y : Mem := x) | (have y : ProtSt := x) | (have y : PoolSt := x) | (have y : PairSt := x) | (have y : HostSt := x) | (have y : TestSt := x) | (have y : Tab Cell := x) | (have y : Tab Word := x) | (try clear_value x)); all_goals have x := @id True)
    | with_reducible apply Touch.ite
    | with_reducible refine Touch.foldl _ ?_ (fun v a hv => ?_)
    | with_reducible apply State.setF_touch
    | with_reducible apply State.notice_touch
    | split
    | intro _ _ _
    | intro _ _
    | fail_if_no_progress (with_reducible refine Touch.upd ?_)
    | with_reducible apply_assumption


theorem State.compareSig_keep {a1 a2} (h : Keep s u) : Keep s (State.compareSig u a1 a2) := by
  unfold State.compareSig
  have x := @id True
  repeat' first
    | with_reducible assumption
    | exact fun _ _ => trivial
    | exact fun _ => trivial
    | exact trivial
    | (extract_lets +onlyGivenNames x; (fail_if_success have y : True → True := x); (first | (refine (fun (hx : Keep s x) => ?_) ?_; rotate_left; (try unfold x); rotate_left) | (refine (fun (hx : Keep s x.2) => ?_) ?_; rotate_left; (try unfold x); rotate_left) | (refine (fun (hx : Keep s x.2.2) => ?_) ?_; rotate_left; (try unfold x); rotate_left) | (refine (fun (hx : KeepOpt s x) => ?_) ?_; rotate_left; (try unfold x); rotate_left) | (refine (fun (hx : ∀ v : State, Keep s v → Keep s (x v)) => ?_) ?_; rotate_left; (try unfold x); (try intro v hv); rotate_left) | (have y : Mem := x) | (have y : ProtSt := x) | (have y : PoolSt := x) | (have y : PairSt := x) | (have y : HostSt := x) | (have y : TestSt := x) | (have y : Tab Cell := x) | (have y : Tab Word := x) | (try clear_value x)); all_goals have x := @id True)
    | with_reducible apply Touch.ite
    | with_reducible refine Touch.foldl _ ?_ (fun v a hv => ?_)
    | with_reducible apply State.inc_touch
    | with_reducible apply State.resyncDone_keep
    | with_reducible apply State.setFlag_touch
    | split
    | intro _ _ _
    | intro _ _
    | fail_if_no_progress (with_reducible refine Touch.upd ?_)
    | with_reducible apply_assumption


theorem execRefclkAbsent_keep (h : Keep s u) : KeepRes s (execRefclkAbsent u) := by
  unfold execRefclkAbsent
  have x := @id True
  repeat' first
    | with_reducible assumption
    | exact fun _ _ => trivial
    | exact fun _ => trivial
    | exact trivial
    | (extract_lets +onlyGivenNames x; (fail_if_success have y : True → True := x); (first | (refine (fun (hx : Keep s x) => ?_) ?_; rotate_left; (try unfold x); rotate_left) | (refine (fun (hx : Keep s x.2) => ?_) ?_; rotate_left; (try unfold x); rotate_left) | (refine (fun (hx : Keep s x.2.2) => ?_) ?_; rotate_left; (try unfold x); rotate_left) | (refine (fun (hx : KeepOpt s x) => ?_) ?_; rotate_left; (try unfold x); rotate_left) | (refine (fun (hx : ∀ v : State, Keep s v → Keep s (x v)) => ?_) ?_; rotate_left; (try unfold x); (try intro v hv); rotate_left) | (have y : Mem := x) | (have y : ProtSt := x) | (have y : PoolSt := x) | (have y : PairSt := x) | (have y : HostSt := x) | (have y : TestSt := x) | (have y : Tab Cell := x) | (have y : Tab Word := x) | (try clear_value x)); all_goals have x := @id True)
    | with_reducible apply KeepRes.next
    | with_reducible exact KeepRes.fault
    | with_reducible apply KeepRes.ite
    | with_reducible apply Touch.ite
    | with_reducible refine Touch.foldl _ ?_ (fun v a hv => ?_)
    | with_reducible apply State.setFlag_touch
    | with_reducible apply State.setF_touch
    | with_reducible apply State.referenceMoved_keep
    | with_reducible apply State.referenceLost_keep
    | split
    | intro _ _ _
    | intro _ _
    | fail_if_no_progress (with_reducible refine Touch.upd ?_)
    | with_reducible apply_assumption


theorem execRefclkPresent_keep (h : Keep s u) : KeepRes s (execRefclkPresent u) := by
  unfold execRefclkPresent
  have x := @id True
  repeat' first
    | with_reducible assumption
    | exact fun _ _ => trivial
    | exact fun _ => trivial
    | exact trivial
    | (extract_lets +onlyGivenNames x; (fail_if_success have y : True → True := x); (first | (refine (fun (hx : Keep s x) => ?_) ?_; rotate_left; (try unfold x); rotate_left) | (refine (fun (hx : Keep s x.2) => ?_) ?_; rotate_left; (try unfold x); rotate_left) | (refine (fun (hx : Keep s x.2.2) => ?_) ?_; rotate_left; (try unfold x); rotate_left) | (refine (fun (hx : KeepOpt s x) => ?_) ?_; rotate_left; (try unfold x); rotate_left) | (refine (fun (hx : ∀ v : State, Keep s v → Keep s (x v)) => ?_) ?_; rotate_left; (try unfold x); (try intro v hv); rotate_left) | (have y : Mem := x) | (have y : ProtSt := x) | (have y : PoolSt := x) | (have y : PairSt := x) | (have y : HostSt := x) | (have y : TestSt := x) | (have y : Tab Cell := x) | (have y : Tab Word := x) | (try clear_value x)); all_goals have x := @id True)
    | with_reducible apply KeepRes.next
    | with_reducible exact KeepRes.fault
    | with_reducible apply KeepRes.ite
    | with_reducible apply Touch.ite
    | with_reducible refine Touch.foldl _ ?_ (fun v a hv => ?_)
    | with_reducible apply State.setF_touch
    | with_reducible apply State.referenceMoved_keep
    | with_reducible apply State.referenceBack_keep
    | split
    | intro _ _ _
    | intro _ _
    | fail_if_no_progress (with_reducible refine Touch.upd ?_)
    | with_reducible apply_assumption


theorem execLinkBlockLock_keep {a0 a1} (h : Keep s u) : KeepRes s (execLinkBlockLock a0 a1 u) := by
  unfold execLinkBlockLock
  have x := @id True
  repeat' first
    | with_reducible assumption
    | exact fun _ _ => trivial
    | exact fun _ => trivial
    | exact trivial
    | (extract_lets +onlyGivenNames x; (fail_if_success have y : True → True := x); (first | (refine (fun (hx : Keep s x) => ?_) ?_; rotate_left; (try unfold x); rotate_left) | (refine (fun (hx : Keep s x.2) => ?_) ?_; rotate_left; (try unfold x); rotate_left) | (refine (fun (hx : Keep s x.2.2) => ?_) ?_; rotate_left; (try unfold x); rotate_left) | (refine (fun (hx : KeepOpt s x) => ?_) ?_; rotate_left; (try unfold x); rotate_left) | (refine (fun (hx : ∀ v : State, Keep s v → Keep s (x v)) => ?_) ?_; rotate_left; (try unfold x); (try intro v hv); rotate_left) | (have y : Mem := x) | (have y : ProtSt := x) | (have y : PoolSt := x) | (have y : PairSt := x) | (have y : HostSt := x) | (have y : TestSt := x) | (have y : Tab Cell := x) | (have y : Tab Word := x) | (try clear_value x)); all_goals have x := @id True)
    | with_reducible apply KeepRes.next
    | with_reducible exact KeepRes.fault
    | with_reducible apply KeepRes.ite
    | with_reducible apply Touch.ite
    | with_reducible refine Touch.foldl _ ?_ (fun v a hv => ?_)
    | with_reducible apply State.setPort_touch
    | with_reducible apply State.emit_touch
    | with_reducible apply State.setF_touch
    | split
    | intro _ _ _
    | intro _ _
    | fail_if_no_progress (with_reducible refine Touch.upd ?_)
    | with_reducible apply_assumption


theorem execLinkBlockLockLoss_keep {a0 a1} (h : Keep s u) : KeepRes s (execLinkBlockLockLoss a0 a1 u) := by
  unfold execLinkBlockLockLoss
  have x := @id True
  repeat' first
    | with_reducible assumption
    | exact fun _ _ => trivial
    | exact fun _ => trivial
    | exact trivial
    | (extract_lets +onlyGivenNames x; (fail_if_success have y : True → True := x); (first | (refine (fun (hx : Keep s x) => ?_) ?_; rotate_left; (try unfold x); rotate_left) | (refine (fun (hx : Keep s x.2) => ?_) ?_; rotate_left; (try unfold x); rotate_left) | (refine (fun (hx : Keep s x.2.2) => ?_) ?_; rotate_left; (try unfold x); rotate_left) | (refine (fun (hx : KeepOpt s x) => ?_) ?_; rotate_left; (try unfold x); rotate_left) | (refine (fun (hx : ∀ v : State, Keep s v → Keep s (x v)) => ?_) ?_; rotate_left; (try unfold x); (try intro v hv); rotate_left) | (have y : Mem := x) | (have y : ProtSt := x) | (have y : PoolSt := x) | (have y : PairSt := x) | (have y : HostSt := x) | (have y : TestSt := x) | (have y : Tab Cell := x) | (have y : Tab Word := x) | (try clear_value x)); all_goals have x := @id True)
    | with_reducible apply KeepRes.next
    | with_reducible exact KeepRes.fault
    | with_reducible apply KeepRes.ite
    | with_reducible apply Touch.ite
    | with_reducible refine Touch.foldl _ ?_ (fun v a hv => ?_)
    | with_reducible apply State.setPort_touch
    | with_reducible apply State.leaveUp_keep
    | with_reducible apply State.seek_keep
    | split
    | intro _ _ _
    | intro _ _
    | fail_if_no_progress (with_reducible refine Touch.upd ?_)
    | with_reducible apply_assumption


theorem execAlignmentMissing_keep {a0 a1} (h : Keep s u) : KeepRes s (execAlignmentMissing a0 a1 u) := by
  unfold execAlignmentMissing
  have x := @id True
  repeat' first
    | with_reducible assumption
    | exact fun _ _ => trivial
    | exact fun _ => trivial
    | exact trivial
    | (extract_lets +onlyGivenNames x; (fail_if_success have y : True → True := x); (first | (refine (fun (hx : Keep s x) => ?_) ?_; rotate_left; (try unfold x); rotate_left) | (refine (fun (hx : Keep s x.2) => ?_) ?_; rotate_left; (try unfold x); rotate_left) | (refine (fun (hx : Keep s x.2.2) => ?_) ?_; rotate_left; (try unfold x); rotate_left) | (refine (fun (hx : KeepOpt s x) => ?_) ?_; rotate_left; (try unfold x); rotate_left) | (refine (fun (hx : ∀ v : State, Keep s v → Keep s (x v)) => ?_) ?_; rotate_left; (try unfold x); (try intro v hv); rotate_left) | (have y : Mem := x) | (have y : ProtSt := x) | (have y : PoolSt := x) | (have y : PairSt := x) | (have y : HostSt := x) | (have y : TestSt := x) | (have y : Tab Cell := x) | (have y : Tab Word := x) | (try clear_value x)); all_goals have x := @id True)
    | with_reducible apply KeepRes.next
    | with_reducible exact KeepRes.fault
    | with_reducible apply KeepRes.ite
    | with_reducible apply Touch.ite
    | with_reducible apply Touch.ite2
    | with_reducible apply Touch.ite22
    | with_reducible refine Touch.foldl _ ?_ (fun v a hv => ?_)
    | with_reducible apply State.linkWordCheck_keep
    | with_reducible refine State.linkWordCheck_keepE (by with_reducible assumption) ?_
    | with_reducible apply State.leaveUp_keep
    | split
    | intro _ _ _
    | intro _ _
    | fail_if_no_progress (with_reducible refine Touch.upd ?_)
    | with_reducible apply_assumption


theorem execAlignWordTx_keep {a0} (h : Keep s u) : KeepRes s (execAlignWordTx a0 u) := by
  unfold execAlignWordTx
  have x := @id True
  repeat' first
    | with_reducible assumption
    | exact fun _ _ => trivial
    | exact fun _ => trivial
    | exact trivial
    | (extract_lets +onlyGivenNames x; (fail_if_success have y : True → True := x); (first | (refine (fun (hx : Keep s x) => ?_) ?_; rotate_left; (try unfold x); rotate_left) | (refine (fun (hx : Keep s x.2) => ?_) ?_; rotate_left; (try unfold x); rotate_left) | (refine (fun (hx : Keep s x.2.2) => ?_) ?_; rotate_left; (try unfold x); rotate_left) | (refine (fun (hx : KeepOpt s x) => ?_) ?_; rotate_left; (try unfold x); rotate_left) | (refine (fun (hx : ∀ v : State, Keep s v → Keep s (x v)) => ?_) ?_; rotate_left; (try unfold x); (try intro v hv); rotate_left) | (have y : Mem := x) | (have y : ProtSt := x) | (have y : PoolSt := x) | (have y : PairSt := x) | (have y : HostSt := x) | (have y : TestSt := x) | (have y : Tab Cell := x) | (have y : Tab Word := x) | (try clear_value x)); all_goals have x := @id True)
    | with_reducible apply KeepRes.next
    | with_reducible exact KeepRes.fault
    | with_reducible apply KeepRes.ite
    | with_reducible apply Touch.ite
    | with_reducible refine Touch.foldl _ ?_ (fun v a hv => ?_)
    | with_reducible apply State.emit_touch
    | with_reducible apply State.setPort_touch
    | split
    | intro _ _ _
    | intro _ _
    | fail_if_no_progress (with_reducible refine Touch.upd ?_)
    | with_reducible apply_assumption


theorem State.beginDeskew_keep {a1} (h : Keep s u) : Keep s (State.beginDeskew u a1) := by
  unfold State.beginDeskew
  have x := @id True
  repeat' first
    | with_reducible assumption
    | exact fun _ _ => trivial
    | exact fun _ => trivial
    | exact trivial
    | (extract_lets +onlyGivenNames x; (fail_if_success have y : True → True := x); (first | (refine (fun (hx : Keep s x) => ?_) ?_; rotate_left; (try unfold x); rotate_left) | (refine (fun (hx : Keep s x.2) => ?_) ?_; rotate_left; (try unfold x); rotate_left) | (refine (fun (hx : Keep s x.2.2) => ?_) ?_; rotate_left; (try unfold x); rotate_left) | (refine (fun (hx : KeepOpt s x) => ?_) ?_; rotate_left; (try unfold x); rotate_left) | (refine (fun (hx : ∀ v : State, Keep s v → Keep s (x v)) => ?_) ?_; rotate_left; (try unfold x); (try intro v hv); rotate_left) | (have y : Mem := x) | (have y : ProtSt := x) | (have y : PoolSt := x) | (have y : PairSt := x) | (have y : HostSt := x) | (have y : TestSt := x) | (have y : Tab Cell := x) | (have y : Tab Word := x) | (try clear_value x)); all_goals have x := @id True)
    | with_reducible apply Touch.ite
    | with_reducible refine Touch.foldl _ ?_ (fun v a hv => ?_)
    | with_reducible apply State.setPort_touch
    | with_reducible apply State.setF_touch
    | split
    | intro _ _ _
    | intro _ _
    | fail_if_no_progress (with_reducible refine Touch.upd ?_)
    | with_reducible apply_assumption


theorem execLinkLaneReady_keep {a0 a1} (h : Keep s u) : KeepRes s (execLinkLaneReady a0 a1 u) := by
  unfold execLinkLaneReady
  have x := @id True
  repeat' first
    | with_reducible assumption
    | exact fun _ _ => trivial
    | exact fun _ => trivial
    | exact trivial
    | (extract_lets +onlyGivenNames x; (fail_if_success have y : True → True := x); (first | (refine (fun (hx : Keep s x) => ?_) ?_; rotate_left; (try unfold x); rotate_left) | (refine (fun (hx : Keep s x.2) => ?_) ?_; rotate_left; (try unfold x); rotate_left) | (refine (fun (hx : Keep s x.2.2) => ?_) ?_; rotate_left; (try unfold x); rotate_left) | (refine (fun (hx : KeepOpt s x) => ?_) ?_; rotate_left; (try unfold x); rotate_left) | (refine (fun (hx : ∀ v : State, Keep s v → Keep s (x v)) => ?_) ?_; rotate_left; (try unfold x); (try intro v hv); rotate_left) | (have y : Mem := x) | (have y : ProtSt := x) | (have y : PoolSt := x) | (have y : PairSt := x) | (have y : HostSt := x) | (have y : TestSt := x) | (have y : Tab Cell := x) | (have y : Tab Word := x) | (try clear_value x)); all_goals have x := @id True)
    | with_reducible apply KeepRes.next
    | with_reducible exact KeepRes.fault
    | with_reducible apply KeepRes.ite
    | with_reducible apply Touch.ite
    | with_reducible refine Touch.foldl _ ?_ (fun v a hv => ?_)
    | with_reducible apply State.setPort_touch
    | with_reducible apply State.beginDeskew_keep
    | split
    | intro _ _ _
    | intro _ _
    | fail_if_no_progress (with_reducible refine Touch.upd ?_)
    | with_reducible apply_assumption


theorem execLinkLaneWaitExpiry_keep {a0} (h : Keep s u) : KeepRes s (execLinkLaneWaitExpiry a0 u) := by
  unfold execLinkLaneWaitExpiry
  have x := @id True
  repeat' first
    | with_reducible assumption
    | exact fun _ _ => trivial
    | exact fun _ => trivial
    | exact trivial
    | (extract_lets +onlyGivenNames x; (fail_if_success have y : True → True := x); (first | (refine (fun (hx : Keep s x) => ?_) ?_; rotate_left; (try unfold x); rotate_left) | (refine (fun (hx : Keep s x.2) => ?_) ?_; rotate_left; (try unfold x); rotate_left) | (refine (fun (hx : Keep s x.2.2) => ?_) ?_; rotate_left; (try unfold x); rotate_left) | (refine (fun (hx : KeepOpt s x) => ?_) ?_; rotate_left; (try unfold x); rotate_left) | (refine (fun (hx : ∀ v : State, Keep s v → Keep s (x v)) => ?_) ?_; rotate_left; (try unfold x); (try intro v hv); rotate_left) | (have y : Mem := x) | (have y : ProtSt := x) | (have y : PoolSt := x) | (have y : PairSt := x) | (have y : HostSt := x) | (have y : TestSt := x) | (have y : Tab Cell := x) | (have y : Tab Word := x) | (try clear_value x)); all_goals have x := @id True)
    | with_reducible apply KeepRes.next
    | with_reducible exact KeepRes.fault
    | with_reducible apply KeepRes.ite
    | with_reducible apply Touch.ite
    | with_reducible refine Touch.foldl _ ?_ (fun v a hv => ?_)
    | with_reducible apply State.beginDeskew_keep
    | split
    | intro _ _ _
    | intro _ _
    | fail_if_no_progress (with_reducible refine Touch.upd ?_)
    | with_reducible apply_assumption


theorem execLinkDeskewDone_keep {a0 a1} (h : Keep s u) : KeepRes s (execLinkDeskewDone a0 a1 u) := by
  unfold execLinkDeskewDone
  have x := @id True
  repeat' first
    | with_reducible assumption
    | exact fun _ _ => trivial
    | exact fun _ => trivial
    | exact trivial
    | (extract_lets +onlyGivenNames x; (fail_if_success have y : True → True := x); (first | (refine (fun (hx : Keep s x) => ?_) ?_; rotate_left; (try unfold x); rotate_left) | (refine (fun (hx : Keep s x.2) => ?_) ?_; rotate_left; (try unfold x); rotate_left) | (refine (fun (hx : Keep s x.2.2) => ?_) ?_; rotate_left; (try unfold x); rotate_left) | (refine (fun (hx : KeepOpt s x) => ?_) ?_; rotate_left; (try unfold x); rotate_left) | (refine (fun (hx : ∀ v : State, Keep s v → Keep s (x v)) => ?_) ?_; rotate_left; (try unfold x); (try intro v hv); rotate_left) | (have y : Mem := x) | (have y : ProtSt := x) | (have y : PoolSt := x) | (have y : PairSt := x) | (have y : HostSt := x) | (have y : TestSt := x) | (have y : Tab Cell := x) | (have y : Tab Word := x) | (try clear_value x)); all_goals have x := @id True)
    | with_reducible apply KeepRes.next
    | with_reducible exact KeepRes.fault
    | with_reducible apply KeepRes.ite
    | with_reducible apply Touch.ite
    | with_reducible refine Touch.foldl _ ?_ (fun v a hv => ?_)
    | with_reducible apply State.seek_keep
    | with_reducible apply State.setF_touch
    | with_reducible apply State.emit_touch
    | split
    | intro _ _ _
    | intro _ _
    | fail_if_no_progress (with_reducible refine Touch.upd ?_)
    | with_reducible apply_assumption


theorem execLinkCfgDone_keep {a0 a1 a2 a3} (h : Keep s u) : KeepRes s (execLinkCfgDone a0 a1 a2 a3 u) := by
  unfold execLinkCfgDone
  have x := @id True
  repeat' first
    | with_reducible assumption
    | exact fun _ _ => trivial
    | exact fun _ => trivial
    | exact trivial
    | (extract_lets +onlyGivenNames x; (fail_if_success have y : True → True := x); (first | (refine (fun (hx : Keep s x) => ?_) ?_; rotate_left; (try unfold x); rotate_left) | (refine (fun (hx : Keep s x.2) => ?_) ?_; rotate_left; (try unfold x); rotate_left) | (refine (fun (hx : Keep s x.2.2) => ?_) ?_; rotate_left; (try unfold x); rotate_left) | (refine (fun (hx : KeepOpt s x) => ?_) ?_; rotate_left; (try unfold x); rotate_left) | (refine (fun (hx : ∀ v : State, Keep s v → Keep s (x v)) => ?_) ?_; rotate_left; (try unfold x); (try intro v hv); rotate_left) | (have y : Mem := x) | (have y : ProtSt := x) | (have y : PoolSt := x) | (have y : PairSt := x) | (have y : HostSt := x) | (have y : TestSt := x) | (have y : Tab Cell := x) | (have y : Tab Word := x) | (try clear_value x)); all_goals have x := @id True)
    | with_reducible apply KeepRes.next
    | with_reducible exact KeepRes.fault
    | with_reducible apply KeepRes.ite
    | with_reducible apply Touch.ite
    | with_reducible refine Touch.foldl _ ?_ (fun v a hv => ?_)
    | with_reducible apply State.setPort_touch
    | with_reducible apply State.reachUp_keep
    | with_reducible apply State.setF_touch
    | split
    | intro _ _ _
    | intro _ _
    | fail_if_no_progress (with_reducible refine Touch.upd ?_)
    | with_reducible apply_assumption


theorem execLinkDwellExpiry_keep {a0} (h : Keep s u) : KeepRes s (execLinkDwellExpiry a0 u) := by
  unfold execLinkDwellExpiry
  have x := @id True
  repeat' first
    | with_reducible assumption
    | exact fun _ _ => trivial
    | exact fun _ => trivial
    | exact trivial
    | (extract_lets +onlyGivenNames x; (fail_if_success have y : True → True := x); (first | (refine (fun (hx : Keep s x) => ?_) ?_; rotate_left; (try unfold x); rotate_left) | (refine (fun (hx : Keep s x.2) => ?_) ?_; rotate_left; (try unfold x); rotate_left) | (refine (fun (hx : Keep s x.2.2) => ?_) ?_; rotate_left; (try unfold x); rotate_left) | (refine (fun (hx : KeepOpt s x) => ?_) ?_; rotate_left; (try unfold x); rotate_left) | (refine (fun (hx : ∀ v : State, Keep s v → Keep s (x v)) => ?_) ?_; rotate_left; (try unfold x); (try intro v hv); rotate_left) | (have y : Mem := x) | (have y : ProtSt := x) | (have y : PoolSt := x) | (have y : PairSt := x) | (have y : HostSt := x) | (have y : TestSt := x) | (have y : Tab Cell := x) | (have y : Tab Word := x) | (try clear_value x)); all_goals have x := @id True)
    | with_reducible apply KeepRes.next
    | with_reducible exact KeepRes.fault
    | with_reducible apply KeepRes.ite
    | with_reducible apply Touch.ite
    | with_reducible refine Touch.foldl _ ?_ (fun v a hv => ?_)
    | with_reducible apply State.seek_keep
    | with_reducible apply State.setF_touch
    | split
    | intro _ _ _
    | intro _ _
    | fail_if_no_progress (with_reducible refine Touch.upd ?_)
    | with_reducible apply_assumption


theorem execPacketTx_keep {a0} (h : Keep s u) : KeepRes s (execPacketTx a0 u) := by
  unfold execPacketTx
  have x := @id True
  repeat' first
    | with_reducible assumption
    | exact fun _ _ => trivial
    | exact fun _ => trivial
    | exact trivial
    | (extract_lets +onlyGivenNames x; (fail_if_success have y : True → True := x); (first | (refine (fun (hx : Keep s x) => ?_) ?_; rotate_left; (try unfold x); rotate_left) | (refine (fun (hx : Keep s x.2) => ?_) ?_; rotate_left; (try unfold x); rotate_left) | (refine (fun (hx : Keep s x.2.2) => ?_) ?_; rotate_left; (try unfold x); rotate_left) | (refine (fun (hx : KeepOpt s x) => ?_) ?_; rotate_left; (try unfold x); rotate_left) | (refine (fun (hx : ∀ v : State, Keep s v → Keep s (x v)) => ?_) ?_; rotate_left; (try unfold x); (try intro v hv); rotate_left) | (have y : Mem := x) | (have y : ProtSt := x) | (have y : PoolSt := x) | (have y : PairSt := x) | (have y : HostSt := x) | (have y : TestSt := x) | (have y : Tab Cell := x) | (have y : Tab Word := x) | (try clear_value x)); all_goals have x := @id True)
    | with_reducible apply KeepRes.next
    | with_reducible exact KeepRes.fault
    | with_reducible apply KeepRes.ite
    | with_reducible apply Touch.ite
    | with_reducible refine State.nextControl_keep (by with_reducible assumption) ?_
    | with_reducible refine Touch.foldl _ ?_ (fun v a hv => ?_)
    | with_reducible apply State.sendData_keep
    | split
    | intro _ _ _
    | intro _ _
    | fail_if_no_progress (with_reducible refine Touch.upd ?_)
    | with_reducible apply_assumption


theorem execPacketRx_keep {a0 a1} (h : Keep s u) : KeepRes s (execPacketRx a0 a1 u) := by
  unfold execPacketRx
  have x := @id True
  repeat' first
    | with_reducible assumption
    | exact fun _ _ => trivial
    | exact fun _ => trivial
    | exact trivial
    | (extract_lets +onlyGivenNames x; (fail_if_success have y : True → True := x); (first | (refine (fun (hx : Keep s x) => ?_) ?_; rotate_left; (try unfold x); rotate_left) | (refine (fun (hx : Keep s x.2) => ?_) ?_; rotate_left; (try unfold x); rotate_left) | (refine (fun (hx : Keep s x.2.2) => ?_) ?_; rotate_left; (try unfold x); rotate_left) | (refine (fun (hx : KeepOpt s x) => ?_) ?_; rotate_left; (try unfold x); rotate_left) | (refine (fun (hx : ∀ v : State, Keep s v → Keep s (x v)) => ?_) ?_; rotate_left; (try unfold x); (try intro v hv); rotate_left) | (have y : Mem := x) | (have y : ProtSt := x) | (have y : PoolSt := x) | (have y : PairSt := x) | (have y : HostSt := x) | (have y : TestSt := x) | (have y : Tab Cell := x) | (have y : Tab Word := x) | (try clear_value x)); all_goals have x := @id True)
    | with_reducible apply KeepRes.next
    | with_reducible exact KeepRes.fault
    | with_reducible apply KeepRes.ite
    | with_reducible apply Touch.ite
    | with_reducible refine Touch.foldl _ ?_ (fun v a hv => ?_)
    | with_reducible apply State.packetFails_keep
    | with_reducible apply State.setChan_keep
    | with_reducible apply State.acceptControl_keep
    | with_reducible apply State.acceptData_keep
    | with_reducible apply State.sendAck_keep
    | with_reducible apply State.freeCredit_keep
    | split
    | intro _ _ _
    | intro _ _
    | fail_if_no_progress (with_reducible refine Touch.upd ?_)
    | with_reducible apply_assumption


theorem execLinkAckRx_keep {a0 a1} (h : Keep s u) : KeepRes s (execLinkAckRx a0 a1 u) := by
  unfold execLinkAckRx
  have x := @id True
  repeat' first
    | with_reducible assumption
    | exact fun _ _ => trivial
    | exact fun _ => trivial
    | exact trivial
    | (extract_lets +onlyGivenNames x; (fail_if_success have y : True → True := x); (first | (refine (fun (hx : Keep s x) => ?_) ?_; rotate_left; (try unfold x); rotate_left) | (refine (fun (hx : Keep s x.2) => ?_) ?_; rotate_left; (try unfold x); rotate_left) | (refine (fun (hx : Keep s x.2.2) => ?_) ?_; rotate_left; (try unfold x); rotate_left) | (refine (fun (hx : KeepOpt s x) => ?_) ?_; rotate_left; (try unfold x); rotate_left) | (refine (fun (hx : ∀ v : State, Keep s v → Keep s (x v)) => ?_) ?_; rotate_left; (try unfold x); (try intro v hv); rotate_left) | (have y : Mem := x) | (have y : ProtSt := x) | (have y : PoolSt := x) | (have y : PairSt := x) | (have y : HostSt := x) | (have y : TestSt := x) | (have y : Tab Cell := x) | (have y : Tab Word := x) | (try clear_value x)); all_goals have x := @id True)
    | with_reducible apply KeepRes.next
    | with_reducible exact KeepRes.fault
    | with_reducible apply KeepRes.ite
    | with_reducible apply Touch.ite
    | with_reducible apply Touch.ite2
    | with_reducible apply Touch.ite22
    | with_reducible refine Touch.foldl _ ?_ (fun v a hv => ?_)
    | with_reducible apply State.linkWordCheck_keep
    | with_reducible refine State.linkWordCheck_keepE (by with_reducible assumption) ?_
    | with_reducible apply State.ackPackets_keep
    | with_reducible apply State.setChan_keep
    | split
    | intro _ _ _
    | intro _ _
    | fail_if_no_progress (with_reducible refine Touch.upd ?_)
    | with_reducible apply_assumption


theorem execLinkNakRx_keep {a0 a1} (h : Keep s u) : KeepRes s (execLinkNakRx a0 a1 u) := by
  unfold execLinkNakRx
  have x := @id True
  repeat' first
    | with_reducible assumption
    | exact fun _ _ => trivial
    | exact fun _ => trivial
    | exact trivial
    | (extract_lets +onlyGivenNames x; (fail_if_success have y : True → True := x); (first | (refine (fun (hx : Keep s x) => ?_) ?_; rotate_left; (try unfold x); rotate_left) | (refine (fun (hx : Keep s x.2) => ?_) ?_; rotate_left; (try unfold x); rotate_left) | (refine (fun (hx : Keep s x.2.2) => ?_) ?_; rotate_left; (try unfold x); rotate_left) | (refine (fun (hx : KeepOpt s x) => ?_) ?_; rotate_left; (try unfold x); rotate_left) | (refine (fun (hx : ∀ v : State, Keep s v → Keep s (x v)) => ?_) ?_; rotate_left; (try unfold x); (try intro v hv); rotate_left) | (have y : Mem := x) | (have y : ProtSt := x) | (have y : PoolSt := x) | (have y : PairSt := x) | (have y : HostSt := x) | (have y : TestSt := x) | (have y : Tab Cell := x) | (have y : Tab Word := x) | (try clear_value x)); all_goals have x := @id True)
    | with_reducible apply KeepRes.next
    | with_reducible exact KeepRes.fault
    | with_reducible apply KeepRes.ite
    | with_reducible apply Touch.ite
    | with_reducible apply Touch.ite2
    | with_reducible apply Touch.ite22
    | with_reducible refine Touch.foldl _ ?_ (fun v a hv => ?_)
    | with_reducible apply State.linkWordCheck_keep
    | with_reducible refine State.linkWordCheck_keepE (by with_reducible assumption) ?_
    | with_reducible apply State.replayFrom_keep
    | split
    | intro _ _ _
    | intro _ _
    | fail_if_no_progress (with_reducible refine Touch.upd ?_)
    | with_reducible apply_assumption


theorem execAckTimer_keep {a0} (h : Keep s u) : KeepRes s (execAckTimer a0 u) := by
  unfold execAckTimer
  have x := @id True
  repeat' first
    | with_reducible assumption
    | exact fun _ _ => trivial
    | exact fun _ => trivial
    | exact trivial
    | (extract_lets +onlyGivenNames x; (fail_if_success have y : True → True := x); (first | (refine (fun (hx : Keep s x) => ?_) ?_; rotate_left; (try unfold x); rotate_left) | (refine (fun (hx : Keep s x.2) => ?_) ?_; rotate_left; (try unfold x); rotate_left) | (refine (fun (hx : Keep s x.2.2) => ?_) ?_; rotate_left; (try unfold x); rotate_left) | (refine (fun (hx : KeepOpt s x) => ?_) ?_; rotate_left; (try unfold x); rotate_left) | (refine (fun (hx : ∀ v : State, Keep s v → Keep s (x v)) => ?_) ?_; rotate_left; (try unfold x); (try intro v hv); rotate_left) | (have y : Mem := x) | (have y : ProtSt := x) | (have y : PoolSt := x) | (have y : PairSt := x) | (have y : HostSt := x) | (have y : TestSt := x) | (have y : Tab Cell := x) | (have y : Tab Word := x) | (try clear_value x)); all_goals have x := @id True)
    | with_reducible apply KeepRes.next
    | with_reducible exact KeepRes.fault
    | with_reducible apply KeepRes.ite
    | with_reducible apply Touch.ite
    | with_reducible refine Touch.foldl _ ?_ (fun v a hv => ?_)
    | with_reducible apply State.sendAck_keep
    | split
    | intro _ _ _
    | intro _ _
    | fail_if_no_progress (with_reducible refine Touch.upd ?_)
    | with_reducible apply_assumption


theorem execReplayTimeout_keep {a0 a1} (h : Keep s u) : KeepRes s (execReplayTimeout a0 a1 u) := by
  unfold execReplayTimeout
  have x := @id True
  repeat' first
    | with_reducible assumption
    | exact fun _ _ => trivial
    | exact fun _ => trivial
    | exact trivial
    | (extract_lets +onlyGivenNames x; (fail_if_success have y : True → True := x); (first | (refine (fun (hx : Keep s x) => ?_) ?_; rotate_left; (try unfold x); rotate_left) | (refine (fun (hx : Keep s x.2) => ?_) ?_; rotate_left; (try unfold x); rotate_left) | (refine (fun (hx : Keep s x.2.2) => ?_) ?_; rotate_left; (try unfold x); rotate_left) | (refine (fun (hx : KeepOpt s x) => ?_) ?_; rotate_left; (try unfold x); rotate_left) | (refine (fun (hx : ∀ v : State, Keep s v → Keep s (x v)) => ?_) ?_; rotate_left; (try unfold x); (try intro v hv); rotate_left) | (have y : Mem := x) | (have y : ProtSt := x) | (have y : PoolSt := x) | (have y : PairSt := x) | (have y : HostSt := x) | (have y : TestSt := x) | (have y : Tab Cell := x) | (have y : Tab Word := x) | (try clear_value x)); all_goals have x := @id True)
    | with_reducible apply KeepRes.next
    | with_reducible exact KeepRes.fault
    | with_reducible apply KeepRes.ite
    | with_reducible apply Touch.ite
    | with_reducible refine Touch.foldl _ ?_ (fun v a hv => ?_)
    | with_reducible apply State.replayFrom_keep
    | split
    | intro _ _ _
    | intro _ _
    | fail_if_no_progress (with_reducible refine Touch.upd ?_)
    | with_reducible apply_assumption


theorem execReplayWindowEnd_keep {a0} (h : Keep s u) : KeepRes s (execReplayWindowEnd a0 u) := by
  unfold execReplayWindowEnd
  have x := @id True
  repeat' first
    | with_reducible assumption
    | exact fun _ _ => trivial
    | exact fun _ => trivial
    | exact trivial
    | (extract_lets +onlyGivenNames x; (fail_if_success have y : True → True := x); (first | (refine (fun (hx : Keep s x) => ?_) ?_; rotate_left; (try unfold x); rotate_left) | (refine (fun (hx : Keep s x.2) => ?_) ?_; rotate_left; (try unfold x); rotate_left) | (refine (fun (hx : Keep s x.2.2) => ?_) ?_; rotate_left; (try unfold x); rotate_left) | (refine (fun (hx : KeepOpt s x) => ?_) ?_; rotate_left; (try unfold x); rotate_left) | (refine (fun (hx : ∀ v : State, Keep s v → Keep s (x v)) => ?_) ?_; rotate_left; (try unfold x); (try intro v hv); rotate_left) | (have y : Mem := x) | (have y : ProtSt := x) | (have y : PoolSt := x) | (have y : PairSt := x) | (have y : HostSt := x) | (have y : TestSt := x) | (have y : Tab Cell := x) | (have y : Tab Word := x) | (try clear_value x)); all_goals have x := @id True)
    | with_reducible apply KeepRes.next
    | with_reducible exact KeepRes.fault
    | with_reducible apply KeepRes.ite
    | with_reducible apply Touch.ite
    | with_reducible refine Touch.foldl _ ?_ (fun v a hv => ?_)
    | with_reducible apply State.setPort_touch
    | with_reducible apply State.setF_touch
    | with_reducible apply State.declareFailed_keep
    | with_reducible apply State.arbReview_keep
    | split
    | intro _ _ _
    | intro _ _
    | fail_if_no_progress (with_reducible refine Touch.upd ?_)
    | with_reducible apply_assumption


theorem execTimingMarkerTx_keep (h : Keep s u) : KeepRes s (execTimingMarkerTx u) := by
  unfold execTimingMarkerTx
  have x := @id True
  repeat' first
    | with_reducible assumption
    | exact fun _ _ => trivial
    | exact fun _ => trivial
    | exact trivial
    | (extract_lets +onlyGivenNames x; (fail_if_success have y : True → True := x); (first | (refine (fun (hx : Keep s x) => ?_) ?_; rotate_left; (try unfold x); rotate_left) | (refine (fun (hx : Keep s x.2) => ?_) ?_; rotate_left; (try unfold x); rotate_left) | (refine (fun (hx : Keep s x.2.2) => ?_) ?_; rotate_left; (try unfold x); rotate_left) | (refine (fun (hx : KeepOpt s x) => ?_) ?_; rotate_left; (try unfold x); rotate_left) | (refine (fun (hx : ∀ v : State, Keep s v → Keep s (x v)) => ?_) ?_; rotate_left; (try unfold x); (try intro v hv); rotate_left) | (have y : Mem := x) | (have y : ProtSt := x) | (have y : PoolSt := x) | (have y : PairSt := x) | (have y : HostSt := x) | (have y : TestSt := x) | (have y : Tab Cell := x) | (have y : Tab Word := x) | (try clear_value x)); all_goals have x := @id True)
    | with_reducible apply KeepRes.next
    | with_reducible exact KeepRes.fault
    | with_reducible apply KeepRes.ite
    | with_reducible apply Touch.ite
    | with_reducible refine Touch.foldl _ ?_ (fun v a hv => ?_)
    | with_reducible apply State.emit_touch
    | split
    | intro _ _ _
    | intro _ _
    | fail_if_no_progress (with_reducible refine Touch.upd ?_)
    | with_reducible apply_assumption


theorem execTimingMarkerRx_keep {a0 a1} (h : Keep s u) : KeepRes s (execTimingMarkerRx a0 a1 u) := by
  unfold execTimingMarkerRx
  have x := @id True
  repeat' first
    | with_reducible assumption
    | exact fun _ _ => trivial
    | exact fun _ => trivial
    | exact trivial
    | (extract_lets +onlyGivenNames x; (fail_if_success have y : True → True := x); (first | (refine (fun (hx : Keep s x) => ?_) ?_; rotate_left; (try unfold x); rotate_left) | (refine (fun (hx : Keep s x.2) => ?_) ?_; rotate_left; (try unfold x); rotate_left) | (refine (fun (hx : Keep s x.2.2) => ?_) ?_; rotate_left; (try unfold x); rotate_left) | (refine (fun (hx : KeepOpt s x) => ?_) ?_; rotate_left; (try unfold x); rotate_left) | (refine (fun (hx : ∀ v : State, Keep s v → Keep s (x v)) => ?_) ?_; rotate_left; (try unfold x); (try intro v hv); rotate_left) | (have y : Mem := x) | (have y : ProtSt := x) | (have y : PoolSt := x) | (have y : PairSt := x) | (have y : HostSt := x) | (have y : TestSt := x) | (have y : Tab Cell := x) | (have y : Tab Word := x) | (try clear_value x)); all_goals have x := @id True)
    | with_reducible apply KeepRes.next
    | with_reducible exact KeepRes.fault
    | with_reducible apply KeepRes.ite
    | with_reducible apply Touch.ite
    | with_reducible apply Touch.ite2
    | with_reducible apply Touch.ite22
    | with_reducible refine Touch.foldl _ ?_ (fun v a hv => ?_)
    | with_reducible apply State.linkWordCheck_keep
    | with_reducible refine State.linkWordCheck_keepE (by with_reducible assumption) ?_
    | with_reducible apply State.loadTime_keep
    | with_reducible apply State.setFlag_touch
    | with_reducible apply State.load_keep
    | split
    | intro _ _ _
    | intro _ _
    | fail_if_no_progress (with_reducible refine Touch.upd ?_)
    | with_reducible apply_assumption


theorem execTriggerRx_keep {a0} (h : Keep s u) : KeepRes s (execTriggerRx a0 u) := by
  unfold execTriggerRx
  have x := @id True
  repeat' first
    | with_reducible assumption
    | exact fun _ _ => trivial
    | exact fun _ => trivial
    | exact trivial
    | (extract_lets +onlyGivenNames x; (fail_if_success have y : True → True := x); (first | (refine (fun (hx : Keep s x) => ?_) ?_; rotate_left; (try unfold x); rotate_left) | (refine (fun (hx : Keep s x.2) => ?_) ?_; rotate_left; (try unfold x); rotate_left) | (refine (fun (hx : Keep s x.2.2) => ?_) ?_; rotate_left; (try unfold x); rotate_left) | (refine (fun (hx : KeepOpt s x) => ?_) ?_; rotate_left; (try unfold x); rotate_left) | (refine (fun (hx : ∀ v : State, Keep s v → Keep s (x v)) => ?_) ?_; rotate_left; (try unfold x); (try intro v hv); rotate_left) | (have y : Mem := x) | (have y : ProtSt := x) | (have y : PoolSt := x) | (have y : PairSt := x) | (have y : HostSt := x) | (have y : TestSt := x) | (have y : Tab Cell := x) | (have y : Tab Word := x) | (try clear_value x)); all_goals have x := @id True)
    | with_reducible apply KeepRes.next
    | with_reducible exact KeepRes.fault
    | with_reducible apply KeepRes.ite
    | with_reducible apply Touch.ite
    | with_reducible refine Touch.foldl _ ?_ (fun v a hv => ?_)
    | with_reducible refine State.takeCtl_keepE (by with_reducible assumption) ?_
    | with_reducible apply State.inc_touch
    | with_reducible apply State.sendAll_touch
    | with_reducible apply State.takeTree_keep
    | split
    | intro _ _ _
    | intro _ _
    | fail_if_no_progress (with_reducible refine Touch.upd ?_)
    | with_reducible apply_assumption


theorem execThrottleRx_keep {a0} (h : Keep s u) : KeepRes s (execThrottleRx a0 u) := by
  unfold execThrottleRx
  have x := @id True
  repeat' first
    | with_reducible assumption
    | exact fun _ _ => trivial
    | exact fun _ => trivial
    | exact trivial
    | (extract_lets +onlyGivenNames x; (fail_if_success have y : True → True := x); (first | (refine (fun (hx : Keep s x) => ?_) ?_; rotate_left; (try unfold x); rotate_left) | (refine (fun (hx : Keep s x.2) => ?_) ?_; rotate_left; (try unfold x); rotate_left) | (refine (fun (hx : Keep s x.2.2) => ?_) ?_; rotate_left; (try unfold x); rotate_left) | (refine (fun (hx : KeepOpt s x) => ?_) ?_; rotate_left; (try unfold x); rotate_left) | (refine (fun (hx : ∀ v : State, Keep s v → Keep s (x v)) => ?_) ?_; rotate_left; (try unfold x); (try intro v hv); rotate_left) | (have y : Mem := x) | (have y : ProtSt := x) | (have y : PoolSt := x) | (have y : PairSt := x) | (have y : HostSt := x) | (have y : TestSt := x) | (have y : Tab Cell := x) | (have y : Tab Word := x) | (try clear_value x)); all_goals have x := @id True)
    | with_reducible apply KeepRes.next
    | with_reducible exact KeepRes.fault
    | with_reducible apply KeepRes.ite
    | with_reducible apply Touch.ite
    | with_reducible refine Touch.foldl _ ?_ (fun v a hv => ?_)
    | with_reducible refine State.takeCtl_keepE (by with_reducible assumption) ?_
    | with_reducible apply State.throttleUpdate_touch
    | with_reducible apply State.setF_touch
    | split
    | intro _ _ _
    | intro _ _
    | fail_if_no_progress (with_reducible refine Touch.upd ?_)
    | with_reducible apply_assumption


end Sys2Proof.Machine
end

