-- ==== Sys2Proof/Laws/KeepHost.lean ====
section
/-! SUPPORT. Every operation of these files keeps the invariant, the queue and what has left the node (`Keep`):
Machine/RegOps, Machine/HostOps, Machine/Host, Machine/Mbox. -/

set_option Elab.async false
set_option linter.tactic.unusedName false
set_option linter.unusedTactic false
set_option linter.unreachableTactic false
set_option linter.unusedVariables false
set_option linter.unusedSimpArgs false

namespace Sys2Proof.Machine

variable {s u : State}

theorem State.readClear_keep {a1} (h : Keep s u) : Keep s (State.readClear u a1) := by
  unfold State.readClear
  have x := @id True
  repeat' first
    | with_reducible assumption
    | exact fun _ _ => trivial
    | exact fun _ => trivial
    | exact trivial
    | (extract_lets +onlyGivenNames x; (fail_if_success have y : True → True := x); (first | (refine (fun (hx : Keep s x) => ?_) ?_; rotate_left; (try unfold x); rotate_left) | (refine (fun (hx : Keep s x.2) => ?_) ?_; rotate_left; (try unfold x); rotate_left) | (refine (fun (hx : Keep s x.2.2) => ?_) ?_; rotate_left; (try unfold x); rotate_left) | (refine (fun (hx : KeepOpt s x) => ?_) ?_; rotate_left; (try unfold x); rotate_left) | (refine (fun (hx : ∀ v : State, Keep s v → Keep s (x v)) => ?_) ?_; rotate_left; (try unfold x); (try intro v hv); rotate_left) | (have y : Mem := x) | (have y : ProtSt := x) | (have y : PoolSt := x) | (have y : PairSt := x) | (have y : HostSt := x) | (have y : TestSt := x) | (have y : Tab Cell := x) | (have y : Tab Word := x) | (try clear_value x)); all_goals have x := @id True)
    | with_reducible apply Touch.ite
    | with_reducible refine Touch.foldl _ ?_ (fun v a hv => ?_)
    | with_reducible apply State.setWord_touch
    | split
    | intro _ _ _
    | intro _ _
    | fail_if_no_progress (with_reducible refine Touch.upd ?_)
    | with_reducible apply_assumption


theorem State.readRegs_keep {n o} (h : Keep s u) : Keep s (State.readRegs n u o).2 := by
  induction n generalizing u o with
  | zero => exact h
  | succ n ih => exact ih (State.readClear_keep h)

theorem State.readRegs_keepE {n o} {x v} (e : State.readRegs n u o = (x, v)) (h : Keep s u) : Keep s v := by
  have h2 := State.readRegs_keep (n := n) (o := o) h; rw [e] at h2; exact h2


theorem State.apertureData_keep {a1 a2 a3} (h : Keep s u) : Keep s (State.apertureData u a1 a2 a3).2 := by
  unfold State.apertureData
  have x := @id True
  repeat' first
    | with_reducible assumption
    | exact fun _ _ => trivial
    | exact fun _ => trivial
    | exact trivial
    | (extract_lets +onlyGivenNames x; (fail_if_success have y : True → True := x); (first | (refine (fun (hx : Keep s x) => ?_) ?_; rotate_left; (try unfold x); rotate_left) | (refine (fun (hx : Keep s x.2) => ?_) ?_; rotate_left; (try unfold x); rotate_left) | (refine (fun (hx : Keep s x.2.2) => ?_) ?_; rotate_left; (try unfold x); rotate_left) | (refine (fun (hx : KeepOpt s x) => ?_) ?_; rotate_left; (try unfold x); rotate_left) | (refine (fun (hx : ∀ v : State, Keep s v → Keep s (x v)) => ?_) ?_; rotate_left; (try unfold x); (try intro v hv); rotate_left) | (have y : Mem := x) | (have y : ProtSt := x) | (have y : PoolSt := x) | (have y : PairSt := x) | (have y : HostSt := x) | (have y : TestSt := x) | (have y : Tab Cell := x) | (have y : Tab Word := x) | (try clear_value x)); all_goals have x := @id True)
    | with_reducible apply Touch.ite
    | with_reducible apply Touch.ite2
    | with_reducible apply Touch.ite22
    | with_reducible refine Touch.foldl _ ?_ (fun v a hv => ?_)
    | with_reducible apply State.readWords_keep
    | with_reducible refine State.readWords_keepE (by with_reducible assumption) ?_
    | with_reducible apply State.upsets_touch
    | split
    | intro _ _ _
    | intro _ _
    | fail_if_no_progress (with_reducible refine Touch.upd ?_)
    | with_reducible apply_assumption

theorem State.apertureData_keepE {a1 a2 a3} {x v} (e : (State.apertureData u a1 a2 a3) = (x, v)) (h : Keep s u) : Keep s v := by
  have h2 := State.apertureData_keep (u := u) (a1 := a1) (a2 := a2) (a3 := a3) h; rw [e] at h2; exact h2


theorem State.bar2Read_keep {a1} (h : Keep s u) : Keep s (State.bar2Read u a1).2 := by
  unfold State.bar2Read
  have x := @id True
  repeat' first
    | with_reducible assumption
    | exact fun _ _ => trivial
    | exact fun _ => trivial
    | exact trivial
    | (extract_lets +onlyGivenNames x; (fail_if_success have y : True → True := x); (first | (refine (fun (hx : Keep s x) => ?_) ?_; rotate_left; (try unfold x); rotate_left) | (refine (fun (hx : Keep s x.2) => ?_) ?_; rotate_left; (try unfold x); rotate_left) | (refine (fun (hx : Keep s x.2.2) => ?_) ?_; rotate_left; (try unfold x); rotate_left) | (refine (fun (hx : KeepOpt s x) => ?_) ?_; rotate_left; (try unfold x); rotate_left) | (refine (fun (hx : ∀ v : State, Keep s v → Keep s (x v)) => ?_) ?_; rotate_left; (try unfold x); (try intro v hv); rotate_left) | (have y : Mem := x) | (have y : ProtSt := x) | (have y : PoolSt := x) | (have y : PairSt := x) | (have y : HostSt := x) | (have y : TestSt := x) | (have y : Tab Cell := x) | (have y : Tab Word := x) | (try clear_value x)); all_goals have x := @id True)
    | with_reducible apply Touch.ite
    | with_reducible apply Touch.ite2
    | with_reducible apply Touch.ite22
    | with_reducible refine Touch.foldl _ ?_ (fun v a hv => ?_)
    | with_reducible apply State.apertureData_keep
    | with_reducible refine State.apertureData_keepE (by with_reducible assumption) ?_
    | split
    | intro _ _ _
    | intro _ _
    | fail_if_no_progress (with_reducible refine Touch.upd ?_)
    | with_reducible apply_assumption

theorem State.bar2Read_keepE {a1} {x v} (e : (State.bar2Read u a1) = (x, v)) (h : Keep s u) : Keep s v := by
  have h2 := State.bar2Read_keep (u := u) (a1 := a1) h; rw [e] at h2; exact h2


theorem State.badAccess_keep (h : Keep s u) : Keep s (State.badAccess u) := by
  unfold State.badAccess
  have x := @id True
  repeat' first
    | with_reducible assumption
    | exact fun _ _ => trivial
    | exact fun _ => trivial
    | exact trivial
    | (extract_lets +onlyGivenNames x; (fail_if_success have y : True → True := x); (first | (refine (fun (hx : Keep s x) => ?_) ?_; rotate_left; (try unfold x); rotate_left) | (refine (fun (hx : Keep s x.2) => ?_) ?_; rotate_left; (try unfold x); rotate_left) | (refine (fun (hx : Keep s x.2.2) => ?_) ?_; rotate_left; (try unfold x); rotate_left) | (refine (fun (hx : KeepOpt s x) => ?_) ?_; rotate_left; (try unfold x); rotate_left) | (refine (fun (hx : ∀ v : State, Keep s v → Keep s (x v)) => ?_) ?_; rotate_left; (try unfold x); (try intro v hv); rotate_left) | (have y : Mem := x) | (have y : ProtSt := x) | (have y : PoolSt := x) | (have y : PairSt := x) | (have y : HostSt := x) | (have y : TestSt := x) | (have y : Tab Cell := x) | (have y : Tab Word := x) | (try clear_value x)); all_goals have x := @id True)
    | with_reducible apply Touch.ite
    | with_reducible refine Touch.foldl _ ?_ (fun v a hv => ?_)
    | with_reducible apply State.inc_touch
    | split
    | intro _ _ _
    | intro _ _
    | fail_if_no_progress (with_reducible refine Touch.upd ?_)
    | with_reducible apply_assumption


theorem State.setHead_keep {a1 a2} (h : Keep s u) : Keep s (State.setHead u a1 a2) := by
  unfold State.setHead
  have x := @id True
  repeat' first
    | with_reducible assumption
    | exact fun _ _ => trivial
    | exact fun _ => trivial
    | exact trivial
    | (extract_lets +onlyGivenNames x; (fail_if_success have y : True → True := x); (first | (refine (fun (hx : Keep s x) => ?_) ?_; rotate_left; (try unfold x); rotate_left) | (refine (fun (hx : Keep s x.2) => ?_) ?_; rotate_left; (try unfold x); rotate_left) | (refine (fun (hx : Keep s x.2.2) => ?_) ?_; rotate_left; (try unfold x); rotate_left) | (refine (fun (hx : KeepOpt s x) => ?_) ?_; rotate_left; (try unfold x); rotate_left) | (refine (fun (hx : ∀ v : State, Keep s v → Keep s (x v)) => ?_) ?_; rotate_left; (try unfold x); (try intro v hv); rotate_left) | (have y : Mem := x) | (have y : ProtSt := x) | (have y : PoolSt := x) | (have y : PairSt := x) | (have y : HostSt := x) | (have y : TestSt := x) | (have y : Tab Cell := x) | (have y : Tab Word := x) | (try clear_value x)); all_goals have x := @id True)
    | with_reducible apply Touch.ite
    | with_reducible refine Touch.foldl _ ?_ (fun v a hv => ?_)
    | with_reducible apply State.setBar0_touch
    | split
    | intro _ _ _
    | intro _ _
    | fail_if_no_progress (with_reducible refine Touch.upd ?_)
    | with_reducible apply_assumption


theorem State.setBusy_keep {a1 a2} (h : Keep s u) : Keep s (State.setBusy u a1 a2) := by
  unfold State.setBusy
  have x := @id True
  repeat' first
    | with_reducible assumption
    | exact fun _ _ => trivial
    | exact fun _ => trivial
    | exact trivial
    | (extract_lets +onlyGivenNames x; (fail_if_success have y : True → True := x); (first | (refine (fun (hx : Keep s x) => ?_) ?_; rotate_left; (try unfold x); rotate_left) | (refine (fun (hx : Keep s x.2) => ?_) ?_; rotate_left; (try unfold x); rotate_left) | (refine (fun (hx : Keep s x.2.2) => ?_) ?_; rotate_left; (try unfold x); rotate_left) | (refine (fun (hx : KeepOpt s x) => ?_) ?_; rotate_left; (try unfold x); rotate_left) | (refine (fun (hx : ∀ v : State, Keep s v → Keep s (x v)) => ?_) ?_; rotate_left; (try unfold x); (try intro v hv); rotate_left) | (have y : Mem := x) | (have y : ProtSt := x) | (have y : PoolSt := x) | (have y : PairSt := x) | (have y : HostSt := x) | (have y : TestSt := x) | (have y : Tab Cell := x) | (have y : Tab Word := x) | (try clear_value x)); all_goals have x := @id True)
    | with_reducible apply Touch.ite
    | with_reducible refine Touch.foldl _ ?_ (fun v a hv => ?_)
    | with_reducible apply State.setBar0_touch
    | split
    | intro _ _ _
    | intro _ _
    | fail_if_no_progress (with_reducible refine Touch.upd ?_)
    | with_reducible apply_assumption


theorem State.setOdd_keep {a1 a2} (h : Keep s u) : Keep s (State.setOdd u a1 a2) := by
  unfold State.setOdd
  have x := @id True
  repeat' first
    | with_reducible assumption
    | exact fun _ _ => trivial
    | exact fun _ => trivial
    | exact trivial
    | (extract_lets +onlyGivenNames x; (fail_if_success have y : True → True := x); (first | (refine (fun (hx : Keep s x) => ?_) ?_; rotate_left; (try unfold x); rotate_left) | (refine (fun (hx : Keep s x.2) => ?_) ?_; rotate_left; (try unfold x); rotate_left) | (refine (fun (hx : Keep s x.2.2) => ?_) ?_; rotate_left; (try unfold x); rotate_left) | (refine (fun (hx : KeepOpt s x) => ?_) ?_; rotate_left; (try unfold x); rotate_left) | (refine (fun (hx : ∀ v : State, Keep s v → Keep s (x v)) => ?_) ?_; rotate_left; (try unfold x); (try intro v hv); rotate_left) | (have y : Mem := x) | (have y : ProtSt := x) | (have y : PoolSt := x) | (have y : PairSt := x) | (have y : HostSt := x) | (have y : TestSt := x) | (have y : Tab Cell := x) | (have y : Tab Word := x) | (try clear_value x)); all_goals have x := @id True)
    | with_reducible apply Touch.ite
    | with_reducible refine Touch.foldl _ ?_ (fun v a hv => ?_)
    | split
    | intro _ _ _
    | intro _ _
    | fail_if_no_progress (with_reducible refine Touch.upd ?_)
    | with_reducible apply_assumption


theorem State.writeCtl_keep {a1 a2} (h : Keep s u) : Keep s (State.writeCtl u a1 a2) := by
  unfold State.writeCtl
  have x := @id True
  repeat' first
    | with_reducible assumption
    | exact fun _ _ => trivial
    | exact fun _ => trivial
    | exact trivial
    | (extract_lets +onlyGivenNames x; (fail_if_success have y : True → True := x); (first | (refine (fun (hx : Keep s x) => ?_) ?_; rotate_left; (try unfold x); rotate_left) | (refine (fun (hx : Keep s x.2) => ?_) ?_; rotate_left; (try unfold x); rotate_left) | (refine (fun (hx : Keep s x.2.2) => ?_) ?_; rotate_left; (try unfold x); rotate_left) | (refine (fun (hx : KeepOpt s x) => ?_) ?_; rotate_left; (try unfold x); rotate_left) | (refine (fun (hx : ∀ v : State, Keep s v → Keep s (x v)) => ?_) ?_; rotate_left; (try unfold x); (try intro v hv); rotate_left) | (have y : Mem := x) | (have y : ProtSt := x) | (have y : PoolSt := x) | (have y : PairSt := x) | (have y : HostSt := x) | (have y : TestSt := x) | (have y : Tab Cell := x) | (have y : Tab Word := x) | (try clear_value x)); all_goals have x := @id True)
    | with_reducible apply Touch.ite
    | with_reducible refine Touch.foldl _ ?_ (fun v a hv => ?_)
    | with_reducible apply State.setBar0_touch
    | with_reducible apply State.setOdd_keep
    | with_reducible apply State.setHead_keep
    | with_reducible apply State.setBusy_keep
    | with_reducible apply State.dmaRestart_keep
    | split
    | intro _ _ _
    | intro _ _
    | fail_if_no_progress (with_reducible refine Touch.upd ?_)
    | with_reducible apply_assumption


theorem State.writeTail_keep {a1 a2} (h : Keep s u) : Keep s (State.writeTail u a1 a2) := by
  unfold State.writeTail
  have x := @id True
  repeat' first
    | with_reducible assumption
    | exact fun _ _ => trivial
    | exact fun _ => trivial
    | exact trivial
    | (extract_lets +onlyGivenNames x; (fail_if_success have y : True → True := x); (first | (refine (fun (hx : Keep s x) => ?_) ?_; rotate_left; (try unfold x); rotate_left) | (refine (fun (hx : Keep s x.2) => ?_) ?_; rotate_left; (try unfold x); rotate_left) | (refine (fun (hx : Keep s x.2.2) => ?_) ?_; rotate_left; (try unfold x); rotate_left) | (refine (fun (hx : KeepOpt s x) => ?_) ?_; rotate_left; (try unfold x); rotate_left) | (refine (fun (hx : ∀ v : State, Keep s v → Keep s (x v)) => ?_) ?_; rotate_left; (try unfold x); (try intro v hv); rotate_left) | (have y : Mem := x) | (have y : ProtSt := x) | (have y : PoolSt := x) | (have y : PairSt := x) | (have y : HostSt := x) | (have y : TestSt := x) | (have y : Tab Cell := x) | (have y : Tab Word := x) | (try clear_value x)); all_goals have x := @id True)
    | with_reducible apply Touch.ite
    | with_reducible refine Touch.foldl _ ?_ (fun v a hv => ?_)
    | with_reducible apply State.setOdd_keep
    | with_reducible apply State.setBar0_touch
    | split
    | intro _ _ _
    | intro _ _
    | fail_if_no_progress (with_reducible refine Touch.upd ?_)
    | with_reducible apply_assumption


theorem State.writeBase_keep {a1 a2 a3} (h : Keep s u) : Keep s (State.writeBase u a1 a2 a3) := by
  unfold State.writeBase
  have x := @id True
  repeat' first
    | with_reducible assumption
    | exact fun _ _ => trivial
    | exact fun _ => trivial
    | exact trivial
    | (extract_lets +onlyGivenNames x; (fail_if_success have y : True → True := x); (first | (refine (fun (hx : Keep s x) => ?_) ?_; rotate_left; (try unfold x); rotate_left) | (refine (fun (hx : Keep s x.2) => ?_) ?_; rotate_left; (try unfold x); rotate_left) | (refine (fun (hx : Keep s x.2.2) => ?_) ?_; rotate_left; (try unfold x); rotate_left) | (refine (fun (hx : KeepOpt s x) => ?_) ?_; rotate_left; (try unfold x); rotate_left) | (refine (fun (hx : ∀ v : State, Keep s v → Keep s (x v)) => ?_) ?_; rotate_left; (try unfold x); (try intro v hv); rotate_left) | (have y : Mem := x) | (have y : ProtSt := x) | (have y : PoolSt := x) | (have y : PairSt := x) | (have y : HostSt := x) | (have y : TestSt := x) | (have y : Tab Cell := x) | (have y : Tab Word := x) | (try clear_value x)); all_goals have x := @id True)
    | with_reducible apply Touch.ite
    | with_reducible refine Touch.foldl _ ?_ (fun v a hv => ?_)
    | with_reducible apply State.setOdd_keep
    | with_reducible apply State.setBar0_touch
    | split
    | intro _ _ _
    | intro _ _
    | fail_if_no_progress (with_reducible refine Touch.upd ?_)
    | with_reducible apply_assumption


theorem State.writeReg_keep {a1 a2} (h : Keep s u) : Keep s (State.writeReg u a1 a2) := by
  unfold State.writeReg
  have x := @id True
  repeat' first
    | with_reducible assumption
    | exact fun _ _ => trivial
    | exact fun _ => trivial
    | exact trivial
    | (extract_lets +onlyGivenNames x; (fail_if_success have y : True → True := x); (first | (refine (fun (hx : Keep s x) => ?_) ?_; rotate_left; (try unfold x); rotate_left) | (refine (fun (hx : Keep s x.2) => ?_) ?_; rotate_left; (try unfold x); rotate_left) | (refine (fun (hx : Keep s x.2.2) => ?_) ?_; rotate_left; (try unfold x); rotate_left) | (refine (fun (hx : KeepOpt s x) => ?_) ?_; rotate_left; (try unfold x); rotate_left) | (refine (fun (hx : ∀ v : State, Keep s v → Keep s (x v)) => ?_) ?_; rotate_left; (try unfold x); (try intro v hv); rotate_left) | (have y : Mem := x) | (have y : ProtSt := x) | (have y : PoolSt := x) | (have y : PairSt := x) | (have y : HostSt := x) | (have y : TestSt := x) | (have y : Tab Cell := x) | (have y : Tab Word := x) | (try clear_value x)); all_goals have x := @id True)
    | with_reducible apply Touch.ite
    | with_reducible refine Touch.foldl _ ?_ (fun v a hv => ?_)
    | with_reducible apply State.writeBase_keep
    | with_reducible apply State.writeCtl_keep
    | with_reducible apply State.writeTail_keep
    | with_reducible apply State.setBar0_touch
    | with_reducible apply State.setF_touch
    | with_reducible apply State.msixFlush_touch
    | split
    | intro _ _ _
    | intro _ _
    | fail_if_no_progress (with_reducible refine Touch.upd ?_)
    | with_reducible apply_assumption


theorem State.decoderFault_keep {a1} (h : Keep s u) : Keep s (State.decoderFault u a1) := by
  unfold State.decoderFault
  have x := @id True
  repeat' first
    | with_reducible assumption
    | exact fun _ _ => trivial
    | exact fun _ => trivial
    | exact trivial
    | (extract_lets +onlyGivenNames x; (fail_if_success have y : True → True := x); (first | (refine (fun (hx : Keep s x) => ?_) ?_; rotate_left; (try unfold x); rotate_left) | (refine (fun (hx : Keep s x.2) => ?_) ?_; rotate_left; (try unfold x); rotate_left) | (refine (fun (hx : Keep s x.2.2) => ?_) ?_; rotate_left; (try unfold x); rotate_left) | (refine (fun (hx : KeepOpt s x) => ?_) ?_; rotate_left; (try unfold x); rotate_left) | (refine (fun (hx : ∀ v : State, Keep s v → Keep s (x v)) => ?_) ?_; rotate_left; (try unfold x); (try intro v hv); rotate_left) | (have y : Mem := x) | (have y : ProtSt := x) | (have y : PoolSt := x) | (have y : PairSt := x) | (have y : HostSt := x) | (have y : TestSt := x) | (have y : Tab Cell := x) | (have y : Tab Word := x) | (try clear_value x)); all_goals have x := @id True)
    | with_reducible apply Touch.ite
    | with_reducible refine Touch.foldl _ ?_ (fun v a hv => ?_)
    | with_reducible apply State.setF_touch
    | with_reducible apply State.setFlag_touch
    | with_reducible apply State.inc_touch
    | split
    | intro _ _ _
    | intro _ _
    | fail_if_no_progress (with_reducible refine Touch.upd ?_)
    | with_reducible apply_assumption


theorem State.hostOrigin_keep {a1 a2} (h : Keep s u) : Keep s (State.hostOrigin u a1 a2).2 := by
  unfold State.hostOrigin
  have x := @id True
  repeat' first
    | with_reducible assumption
    | exact fun _ _ => trivial
    | exact fun _ => trivial
    | exact trivial
    | (extract_lets +onlyGivenNames x; (fail_if_success have y : True → True := x); (first | (refine (fun (hx : Keep s x) => ?_) ?_; rotate_left; (try unfold x); rotate_left) | (refine (fun (hx : Keep s x.2) => ?_) ?_; rotate_left; (try unfold x); rotate_left) | (refine (fun (hx : Keep s x.2.2) => ?_) ?_; rotate_left; (try unfold x); rotate_left) | (refine (fun (hx : KeepOpt s x) => ?_) ?_; rotate_left; (try unfold x); rotate_left) | (refine (fun (hx : ∀ v : State, Keep s v → Keep s (x v)) => ?_) ?_; rotate_left; (try unfold x); (try intro v hv); rotate_left) | (have y : Mem := x) | (have y : ProtSt := x) | (have y : PoolSt := x) | (have y : PairSt := x) | (have y : HostSt := x) | (have y : TestSt := x) | (have y : Tab Cell := x) | (have y : Tab Word := x) | (try clear_value x)); all_goals have x := @id True)
    | with_reducible apply Touch.ite
    | with_reducible apply Touch.ite2
    | with_reducible apply Touch.ite22
    | with_reducible refine Touch.foldl _ ?_ (fun v a hv => ?_)
    | with_reducible apply State.decoderFault_keep
    | split
    | intro _ _ _
    | intro _ _
    | fail_if_no_progress (with_reducible refine Touch.upd ?_)
    | with_reducible apply_assumption

theorem State.hostOrigin_keepE {a1 a2} {x v} (e : (State.hostOrigin u a1 a2) = (x, v)) (h : Keep s u) : Keep s v := by
  have h2 := State.hostOrigin_keep (u := u) (a1 := a1) (a2 := a2) h; rw [e] at h2; exact h2


theorem State.hostFragment_keep {n ws} (h : Keep s u) : Keep s (State.hostFragment n u ws).2 := by
  induction n generalizing u ws with
  | zero => exact h
  | succ n ih =>
    have hc : ∀ a b, Keep s (treatChildren (State.hostFragment n) a b u).2 := fun a b => treatChildren_keep (fun _ _ h => ih h) h
    unfold State.hostFragment
    split
    · exact h
    · split
      · exact State.hostOrigin_keep h
      · dsimp only
        split <;> split <;> exact hc _ _

theorem State.hostFragment_keepE {n ws} {x v} (e : State.hostFragment n u ws = (x, v)) (h : Keep s u) : Keep s v := by
  have h2 := State.hostFragment_keep (n := n) (ws := ws) h; rw [e] at h2; exact h2


theorem State.hostItem_keep {a1} (h : Keep s u) : Keep s (State.hostItem u a1).2 := by
  unfold State.hostItem
  have x := @id True
  repeat' first
    | with_reducible assumption
    | exact fun _ _ => trivial
    | exact fun _ => trivial
    | exact trivial
    | (extract_lets +onlyGivenNames x; (fail_if_success have y : True → True := x); (first | (refine (fun (hx : Keep s x) => ?_) ?_; rotate_left; (try unfold x); rotate_left) | (refine (fun (hx : Keep s x.2) => ?_) ?_; rotate_left; (try unfold x); rotate_left) | (refine (fun (hx : Keep s x.2.2) => ?_) ?_; rotate_left; (try unfold x); rotate_left) | (refine (fun (hx : KeepOpt s x) => ?_) ?_; rotate_left; (try unfold x); rotate_left) | (refine (fun (hx : ∀ v : State, Keep s v → Keep s (x v)) => ?_) ?_; rotate_left; (try unfold x); (try intro v hv); rotate_left) | (have y : Mem := x) | (have y : ProtSt := x) | (have y : PoolSt := x) | (have y : PairSt := x) | (have y : HostSt := x) | (have y : TestSt := x) | (have y : Tab Cell := x) | (have y : Tab Word := x) | (try clear_value x)); all_goals have x := @id True)
    | with_reducible apply Touch.ite
    | with_reducible apply Touch.ite2
    | with_reducible apply Touch.ite22
    | with_reducible refine Touch.foldl _ ?_ (fun v a hv => ?_)
    | with_reducible apply State.hostFragment_keep
    | with_reducible refine State.hostFragment_keepE (by with_reducible assumption) ?_
    | split
    | intro _ _ _
    | intro _ _
    | fail_if_no_progress (with_reducible refine Touch.upd ?_)
    | with_reducible apply_assumption

theorem State.hostItem_keepE {a1} {x v} (e : (State.hostItem u a1) = (x, v)) (h : Keep s u) : Keep s v := by
  have h2 := State.hostItem_keep (u := u) (a1 := a1) h; rw [e] at h2; exact h2


theorem State.sendWrite_keep {a1 a2} (h : Keep s u) : Keep s (State.sendWrite u a1 a2) := by
  unfold State.sendWrite
  have x := @id True
  repeat' first
    | with_reducible assumption
    | exact fun _ _ => trivial
    | exact fun _ => trivial
    | exact trivial
    | (extract_lets +onlyGivenNames x; (fail_if_success have y : True → True := x); (first | (refine (fun (hx : Keep s x) => ?_) ?_; rotate_left; (try unfold x); rotate_left) | (refine (fun (hx : Keep s x.2) => ?_) ?_; rotate_left; (try unfold x); rotate_left) | (refine (fun (hx : Keep s x.2.2) => ?_) ?_; rotate_left; (try unfold x); rotate_left) | (refine (fun (hx : KeepOpt s x) => ?_) ?_; rotate_left; (try unfold x); rotate_left) | (refine (fun (hx : ∀ v : State, Keep s v → Keep s (x v)) => ?_) ?_; rotate_left; (try unfold x); (try intro v hv); rotate_left) | (have y : Mem := x) | (have y : ProtSt := x) | (have y : PoolSt := x) | (have y : PairSt := x) | (have y : HostSt := x) | (have y : TestSt := x) | (have y : Tab Cell := x) | (have y : Tab Word := x) | (try clear_value x)); all_goals have x := @id True)
    | with_reducible apply Touch.ite
    | with_reducible refine Touch.foldl _ ?_ (fun v a hv => ?_)
    | with_reducible apply State.emit_touch
    | split
    | intro _ _ _
    | intro _ _
    | fail_if_no_progress (with_reducible refine Touch.upd ?_)
    | with_reducible apply_assumption


theorem State.hostPut_keep {n wb a w} (h : Keep s u) : Keep s (State.hostPut u n wb a w) := by
  unfold State.hostPut
  refine Touch.ite ?_ (Touch.ite ?_ ?_)
  · exact State.hostMem_touch (State.skip_touch h trivial) trivial
  · exact State.hostMem_touch (State.drawn_touch h trivial) trivial
  · exact State.hostMem_touch h trivial


theorem State.hostPuts_keep {n p l} (h : Keep s u) : Keep s (State.hostPuts u n p l) := by
  induction l generalizing u p with
  | nil => exact h
  | cons w l ih => exact ih (State.hostPut_keep h)


theorem ringWords_wf (t : Tab Word) (b n p : Nat) (l : List Word) (h : Tab.wf 0 t = true) :
    Tab.wf 0 (ringWords t b n p l) = true := by
  induction l generalizing t p with
  | nil => exact h
  | cons w l ih => exact ih _ _ (Tab.set_wf _ _ _ _ h)

theorem State.ringWords_keep {b n p : Nat} {l : List Word} (h : Keep s u) :
    Keep s { u with hostMem := ringWords u.hostMem b n p l } :=
  h.trans ⟨rfl, List.suffix_refl _, Nat.le_refl _, Nat.le_refl _, fun i => { i with hostMem := ringWords_wf _ _ _ _ _ i.hostMem },
    fun _ => .inl trivial⟩

theorem State.ringPut_keep {a1 a2 a3} (h : Keep s u) : Keep s (State.ringPut u a1 a2 a3) := by
  unfold State.ringPut
  have x := @id True
  repeat' first
    | with_reducible assumption
    | exact fun _ _ => trivial
    | exact fun _ => trivial
    | exact trivial
    | (extract_lets +onlyGivenNames x; (fail_if_success have y : True → True := x); (first | (refine (fun (hx : Keep s x) => ?_) ?_; rotate_left; (try unfold x); rotate_left) | (refine (fun (hx : Keep s x.2) => ?_) ?_; rotate_left; (try unfold x); rotate_left) | (refine (fun (hx : Keep s x.2.2) => ?_) ?_; rotate_left; (try unfold x); rotate_left) | (refine (fun (hx : KeepOpt s x) => ?_) ?_; rotate_left; (try unfold x); rotate_left) | (refine (fun (hx : ∀ v : State, Keep s v → Keep s (x v)) => ?_) ?_; rotate_left; (try unfold x); (try intro v hv); rotate_left) | (have y : Mem := x) | (have y : ProtSt := x) | (have y : PoolSt := x) | (have y : PairSt := x) | (have y : HostSt := x) | (have y : TestSt := x) | (have y : Tab Cell := x) | (have y : Tab Word := x) | (try clear_value x)); all_goals have x := @id True)
    | with_reducible apply Touch.ite
    | with_reducible refine State.ringWords_keep ?_
    | with_reducible refine Touch.foldl _ ?_ (fun v a hv => ?_)
    | with_reducible apply State.sendWrite_keep
    | with_reducible apply State.hostPuts_keep
    | split
    | intro _ _ _
    | intro _ _
    | fail_if_no_progress (with_reducible refine Touch.upd ?_)
    | with_reducible apply_assumption


theorem State.advanceHead_keep {a1 a2} (h : Keep s u) : Keep s (State.advanceHead u a1 a2) := by
  unfold State.advanceHead
  have x := @id True
  repeat' first
    | with_reducible assumption
    | exact fun _ _ => trivial
    | exact fun _ => trivial
    | exact trivial
    | (extract_lets +onlyGivenNames x; (fail_if_success have y : True → True := x); (first | (refine (fun (hx : Keep s x) => ?_) ?_; rotate_left; (try unfold x); rotate_left) | (refine (fun (hx : Keep s x.2) => ?_) ?_; rotate_left; (try unfold x); rotate_left) | (refine (fun (hx : Keep s x.2.2) => ?_) ?_; rotate_left; (try unfold x); rotate_left) | (refine (fun (hx : KeepOpt s x) => ?_) ?_; rotate_left; (try unfold x); rotate_left) | (refine (fun (hx : ∀ v : State, Keep s v → Keep s (x v)) => ?_) ?_; rotate_left; (try unfold x); (try intro v hv); rotate_left) | (have y : Mem := x) | (have y : ProtSt := x) | (have y : PoolSt := x) | (have y : PairSt := x) | (have y : HostSt := x) | (have y : TestSt := x) | (have y : Tab Cell := x) | (have y : Tab Word := x) | (try clear_value x)); all_goals have x := @id True)
    | with_reducible apply Touch.ite
    | with_reducible refine Touch.foldl _ ?_ (fun v a hv => ?_)
    | with_reducible apply State.setHead_keep
    | split
    | intro _ _ _
    | intro _ _
    | fail_if_no_progress (with_reducible refine Touch.upd ?_)
    | with_reducible apply_assumption


theorem State.dmaBegin_keep (h : Keep s u) : Keep s (State.dmaBegin u) := by
  unfold State.dmaBegin
  have x := @id True
  repeat' first
    | with_reducible assumption
    | exact fun _ _ => trivial
    | exact fun _ => trivial
    | exact trivial
    | (extract_lets +onlyGivenNames x; (fail_if_success have y : True → True := x); (first | (refine (fun (hx : Keep s x) => ?_) ?_; rotate_left; (try unfold x); rotate_left) | (refine (fun (hx : Keep s x.2) => ?_) ?_; rotate_left; (try unfold x); rotate_left) | (refine (fun (hx : Keep s x.2.2) => ?_) ?_; rotate_left; (try unfold x); rotate_left) | (refine (fun (hx : KeepOpt s x) => ?_) ?_; rotate_left; (try unfold x); rotate_left) | (refine (fun (hx : ∀ v : State, Keep s v → Keep s (x v)) => ?_) ?_; rotate_left; (try unfold x); (try intro v hv); rotate_left) | (have y : Mem := x) | (have y : ProtSt := x) | (have y : PoolSt := x) | (have y : PairSt := x) | (have y : HostSt := x) | (have y : TestSt := x) | (have y : Tab Cell := x) | (have y : Tab Word := x) | (try clear_value x)); all_goals have x := @id True)
    | with_reducible apply Touch.ite
    | with_reducible apply Touch.ite2
    | with_reducible apply Touch.ite22
    | with_reducible refine Touch.foldl _ ?_ (fun v a hv => ?_)
    | with_reducible apply State.setReader_keep
    | with_reducible apply State.readItem_touch
    | with_reducible refine State.readItem_keepE (by with_reducible assumption) ?_
    | with_reducible apply State.hostItem_keep
    | with_reducible refine State.hostItem_keepE (by with_reducible assumption) ?_
    | with_reducible apply State.modItem_touch
    | split
    | intro _ _ _
    | intro _ _
    | fail_if_no_progress (with_reducible refine Touch.upd ?_)
    | with_reducible apply_assumption


theorem State.dmaDone_keep {a1 a2 a3} (h : Keep s u) : Keep s (State.dmaDone u a1 a2 a3) := by
  unfold State.dmaDone
  have x := @id True
  repeat' first
    | with_reducible assumption
    | exact fun _ _ => trivial
    | exact fun _ => trivial
    | exact trivial
    | (extract_lets +onlyGivenNames x; (fail_if_success have y : True → True := x); (first | (refine (fun (hx : Keep s x) => ?_) ?_; rotate_left; (try unfold x); rotate_left) | (refine (fun (hx : Keep s x.2) => ?_) ?_; rotate_left; (try unfold x); rotate_left) | (refine (fun (hx : Keep s x.2.2) => ?_) ?_; rotate_left; (try unfold x); rotate_left) | (refine (fun (hx : KeepOpt s x) => ?_) ?_; rotate_left; (try unfold x); rotate_left) | (refine (fun (hx : ∀ v : State, Keep s v → Keep s (x v)) => ?_) ?_; rotate_left; (try unfold x); (try intro v hv); rotate_left) | (have y : Mem := x) | (have y : ProtSt := x) | (have y : PoolSt := x) | (have y : PairSt := x) | (have y : HostSt := x) | (have y : TestSt := x) | (have y : Tab Cell := x) | (have y : Tab Word := x) | (try clear_value x)); all_goals have x := @id True)
    | with_reducible apply Touch.ite
    | with_reducible refine Touch.foldl _ ?_ (fun v a hv => ?_)
    | with_reducible apply State.setBusy_keep
    | with_reducible apply State.setReader_keep
    | with_reducible apply State.frameOut_keep
    | with_reducible apply State.ringOutDoorbell_touch
    | with_reducible apply State.releaseItem_keep
    | split
    | intro _ _ _
    | intro _ _
    | fail_if_no_progress (with_reducible refine Touch.upd ?_)
    | with_reducible apply_assumption


theorem State.ringRoom_keep {a1 a2 a3} (h : Keep s u) : Keep s (State.ringRoom u a1 a2 a3).2 := by
  unfold State.ringRoom
  have x := @id True
  repeat' first
    | with_reducible assumption
    | exact fun _ _ => trivial
    | exact fun _ => trivial
    | exact trivial
    | (extract_lets +onlyGivenNames x; (fail_if_success have y : True → True := x); (first | (refine (fun (hx : Keep s x) => ?_) ?_; rotate_left; (try unfold x); rotate_left) | (refine (fun (hx : Keep s x.2) => ?_) ?_; rotate_left; (try unfold x); rotate_left) | (refine (fun (hx : Keep s x.2.2) => ?_) ?_; rotate_left; (try unfold x); rotate_left) | (refine (fun (hx : KeepOpt s x) => ?_) ?_; rotate_left; (try unfold x); rotate_left) | (refine (fun (hx : ∀ v : State, Keep s v → Keep s (x v)) => ?_) ?_; rotate_left; (try unfold x); (try intro v hv); rotate_left) | (have y : Mem := x) | (have y : ProtSt := x) | (have y : PoolSt := x) | (have y : PairSt := x) | (have y : HostSt := x) | (have y : TestSt := x) | (have y : Tab Cell := x) | (have y : Tab Word := x) | (try clear_value x)); all_goals have x := @id True)
    | with_reducible apply Touch.ite
    | with_reducible apply Touch.ite2
    | with_reducible apply Touch.ite22
    | with_reducible refine Touch.foldl _ ?_ (fun v a hv => ?_)
    | with_reducible apply State.drawn_touch
    | split
    | intro _ _ _
    | intro _ _
    | fail_if_no_progress (with_reducible refine Touch.upd ?_)
    | with_reducible apply_assumption

theorem State.ringRoom_keepE {a1 a2 a3} {x v} (e : (State.ringRoom u a1 a2 a3) = (x, v)) (h : Keep s u) : Keep s v := by
  have h2 := State.ringRoom_keep (u := u) (a1 := a1) (a2 := a2) (a3 := a3) h; rw [e] at h2; exact h2


theorem State.dmaWaits_keep {a1 a2} (h : Keep s u) : Keep s (State.dmaWaits u a1 a2) := by
  unfold State.dmaWaits
  have x := @id True
  repeat' first
    | with_reducible assumption
    | exact fun _ _ => trivial
    | exact fun _ => trivial
    | exact trivial
    | (extract_lets +onlyGivenNames x; (fail_if_success have y : True → True := x); (first | (refine (fun (hx : Keep s x) => ?_) ?_; rotate_left; (try unfold x); rotate_left) | (refine (fun (hx : Keep s x.2) => ?_) ?_; rotate_left; (try unfold x); rotate_left) | (refine (fun (hx : Keep s x.2.2) => ?_) ?_; rotate_left; (try unfold x); rotate_left) | (refine (fun (hx : KeepOpt s x) => ?_) ?_; rotate_left; (try unfold x); rotate_left) | (refine (fun (hx : ∀ v : State, Keep s v → Keep s (x v)) => ?_) ?_; rotate_left; (try unfold x); (try intro v hv); rotate_left) | (have y : Mem := x) | (have y : ProtSt := x) | (have y : PoolSt := x) | (have y : PairSt := x) | (have y : HostSt := x) | (have y : TestSt := x) | (have y : Tab Cell := x) | (have y : Tab Word := x) | (try clear_value x)); all_goals have x := @id True)
    | with_reducible apply Touch.ite
    | with_reducible refine Touch.foldl _ ?_ (fun v a hv => ?_)
    | with_reducible apply State.setBusy_keep
    | with_reducible apply State.setBar0_touch
    | split
    | intro _ _ _
    | intro _ _
    | fail_if_no_progress (with_reducible refine Touch.upd ?_)
    | with_reducible apply_assumption


theorem State.dmaWrite_keep {a1} (h : Keep s u) : Keep s (State.dmaWrite u a1) := by
  unfold State.dmaWrite
  have x := @id True
  repeat' first
    | with_reducible assumption
    | exact fun _ _ => trivial
    | exact fun _ => trivial
    | exact trivial
    | (extract_lets +onlyGivenNames x; (fail_if_success have y : True → True := x); (first | (refine (fun (hx : Keep s x) => ?_) ?_; rotate_left; (try unfold x); rotate_left) | (refine (fun (hx : Keep s x.2) => ?_) ?_; rotate_left; (try unfold x); rotate_left) | (refine (fun (hx : Keep s x.2.2) => ?_) ?_; rotate_left; (try unfold x); rotate_left) | (refine (fun (hx : KeepOpt s x) => ?_) ?_; rotate_left; (try unfold x); rotate_left) | (refine (fun (hx : ∀ v : State, Keep s v → Keep s (x v)) => ?_) ?_; rotate_left; (try unfold x); (try intro v hv); rotate_left) | (have y : Mem := x) | (have y : ProtSt := x) | (have y : PoolSt := x) | (have y : PairSt := x) | (have y : HostSt := x) | (have y : TestSt := x) | (have y : Tab Cell := x) | (have y : Tab Word := x) | (try clear_value x)); all_goals have x := @id True)
    | with_reducible apply Touch.ite
    | with_reducible apply Touch.ite2
    | with_reducible apply Touch.ite22
    | with_reducible refine Touch.foldl _ ?_ (fun v a hv => ?_)
    | with_reducible apply State.ringRoom_keep
    | with_reducible refine State.ringRoom_keepE (by with_reducible assumption) ?_
    | with_reducible apply State.ringPut_keep
    | with_reducible apply State.dmaDone_keep
    | with_reducible apply State.advanceHead_keep
    | with_reducible apply State.setReader_keep
    | with_reducible apply State.dmaWaits_keep
    | split
    | intro _ _ _
    | intro _ _
    | fail_if_no_progress (with_reducible refine Touch.upd ?_)
    | with_reducible apply_assumption


theorem State.ringSignal_keep {a1} (h : Keep s u) : Keep s (State.ringSignal u a1) := by
  unfold State.ringSignal
  have x := @id True
  repeat' first
    | with_reducible assumption
    | exact fun _ _ => trivial
    | exact fun _ => trivial
    | exact trivial
    | (extract_lets +onlyGivenNames x; (fail_if_success have y : True → True := x); (first | (refine (fun (hx : Keep s x) => ?_) ?_; rotate_left; (try unfold x); rotate_left) | (refine (fun (hx : Keep s x.2) => ?_) ?_; rotate_left; (try unfold x); rotate_left) | (refine (fun (hx : Keep s x.2.2) => ?_) ?_; rotate_left; (try unfold x); rotate_left) | (refine (fun (hx : KeepOpt s x) => ?_) ?_; rotate_left; (try unfold x); rotate_left) | (refine (fun (hx : ∀ v : State, Keep s v → Keep s (x v)) => ?_) ?_; rotate_left; (try unfold x); (try intro v hv); rotate_left) | (have y : Mem := x) | (have y : ProtSt := x) | (have y : PoolSt := x) | (have y : PairSt := x) | (have y : HostSt := x) | (have y : TestSt := x) | (have y : Tab Cell := x) | (have y : Tab Word := x) | (try clear_value x)); all_goals have x := @id True)
    | with_reducible apply Touch.ite
    | with_reducible refine Touch.foldl _ ?_ (fun v a hv => ?_)
    | with_reducible apply State.msix_touch
    | split
    | intro _ _ _
    | intro _ _
    | fail_if_no_progress (with_reducible refine Touch.upd ?_)
    | with_reducible apply_assumption


theorem execDmaItemWrite_keep (h : Keep s u) : KeepRes s (execDmaItemWrite u) := by
  unfold execDmaItemWrite
  have x := @id True
  repeat' first
    | with_reducible assumption
    | exact fun _ _ => trivial
    | exact fun _ => trivial
    | exact trivial
    | (extract_lets +onlyGivenNames x; (fail_if_success have y : True → True := x); (first | (refine (fun (hx : Keep s x) => ?_) ?_; rotate_left; (try unfold x); rotate_left) | (refine (fun (hx : Keep s x.2) => ?_) ?_; rotate_left; (try unfold x); rotate_left) | (refine (fun (hx : Keep s x.2.2) => ?_) ?_; rotate_left; (try unfold x); rotate_left) | (refine (fun (hx : KeepOpt s x) => ?_) ?_; rotate_left; (try unfold x); rotate_left) | (refine (fun (hx : ∀ v : State, Keep s v → Keep s (x v)) => ?_) ?_; rotate_left; (try unfold x); (try intro v hv); rotate_left) | (have y : Mem := x) | (have y : ProtSt := x) | (have y : PoolSt := x) | (have y : PairSt := x) | (have y : HostSt := x) | (have y : TestSt := x) | (have y : Tab Cell := x) | (have y : Tab Word := x) | (try clear_value x)); all_goals have x := @id True)
    | with_reducible apply KeepRes.next
    | with_reducible exact KeepRes.fault
    | with_reducible apply KeepRes.ite
    | with_reducible apply Touch.ite
    | with_reducible refine Touch.foldl _ ?_ (fun v a hv => ?_)
    | with_reducible apply State.dmaWaits_keep
    | with_reducible apply State.dmaBegin_keep
    | with_reducible apply State.dmaWrite_keep
    | split
    | intro _ _ _
    | intro _ _
    | fail_if_no_progress (with_reducible refine Touch.upd ?_)
    | with_reducible apply_assumption


theorem execRingWriteback_keep {a0} (h : Keep s u) : KeepRes s (execRingWriteback a0 u) := by
  unfold execRingWriteback
  have x := @id True
  repeat' first
    | with_reducible assumption
    | exact fun _ _ => trivial
    | exact fun _ => trivial
    | exact trivial
    | (extract_lets +onlyGivenNames x; (fail_if_success have y : True → True := x); (first | (refine (fun (hx : Keep s x) => ?_) ?_; rotate_left; (try unfold x); rotate_left) | (refine (fun (hx : Keep s x.2) => ?_) ?_; rotate_left; (try unfold x); rotate_left) | (refine (fun (hx : Keep s x.2.2) => ?_) ?_; rotate_left; (try unfold x); rotate_left) | (refine (fun (hx : KeepOpt s x) => ?_) ?_; rotate_left; (try unfold x); rotate_left) | (refine (fun (hx : ∀ v : State, Keep s v → Keep s (x v)) => ?_) ?_; rotate_left; (try unfold x); (try intro v hv); rotate_left) | (have y : Mem := x) | (have y : ProtSt := x) | (have y : PoolSt := x) | (have y : PairSt := x) | (have y : HostSt := x) | (have y : TestSt := x) | (have y : Tab Cell := x) | (have y : Tab Word := x) | (try clear_value x)); all_goals have x := @id True)
    | with_reducible apply KeepRes.next
    | with_reducible exact KeepRes.fault
    | with_reducible apply KeepRes.ite
    | with_reducible apply Touch.ite
    | with_reducible refine State.hostMem_touch ?_ trivial
    | with_reducible refine Touch.foldl _ ?_ (fun v a hv => ?_)
    | with_reducible apply State.hostPut_keep
    | with_reducible apply State.sendWrite_keep
    | with_reducible apply State.ringSignal_keep
    | split
    | intro _ _ _
    | intro _ _
    | fail_if_no_progress (with_reducible refine Touch.upd ?_)
    | with_reducible apply_assumption


theorem execMsixHoldoffEnd_keep {a0} (h : Keep s u) : KeepRes s (execMsixHoldoffEnd a0 u) := by
  unfold execMsixHoldoffEnd
  have x := @id True
  repeat' first
    | with_reducible assumption
    | exact fun _ _ => trivial
    | exact fun _ => trivial
    | exact trivial
    | (extract_lets +onlyGivenNames x; (fail_if_success have y : True → True := x); (first | (refine (fun (hx : Keep s x) => ?_) ?_; rotate_left; (try unfold x); rotate_left) | (refine (fun (hx : Keep s x.2) => ?_) ?_; rotate_left; (try unfold x); rotate_left) | (refine (fun (hx : Keep s x.2.2) => ?_) ?_; rotate_left; (try unfold x); rotate_left) | (refine (fun (hx : KeepOpt s x) => ?_) ?_; rotate_left; (try unfold x); rotate_left) | (refine (fun (hx : ∀ v : State, Keep s v → Keep s (x v)) => ?_) ?_; rotate_left; (try unfold x); (try intro v hv); rotate_left) | (have y : Mem := x) | (have y : ProtSt := x) | (have y : PoolSt := x) | (have y : PairSt := x) | (have y : HostSt := x) | (have y : TestSt := x) | (have y : Tab Cell := x) | (have y : Tab Word := x) | (try clear_value x)); all_goals have x := @id True)
    | with_reducible apply KeepRes.next
    | with_reducible exact KeepRes.fault
    | with_reducible apply KeepRes.ite
    | with_reducible apply Touch.ite
    | with_reducible refine Touch.foldl _ ?_ (fun v a hv => ?_)
    | with_reducible apply State.ringSignal_keep
    | split
    | intro _ _ _
    | intro _ _
    | fail_if_no_progress (with_reducible refine Touch.upd ?_)
    | with_reducible apply_assumption


theorem execRingEnable_keep {a0 a1} (h : Keep s u) : KeepRes s (execRingEnable a0 a1 u) := by
  unfold execRingEnable
  have x := @id True
  repeat' first
    | with_reducible assumption
    | exact fun _ _ => trivial
    | exact fun _ => trivial
    | exact trivial
    | (extract_lets +onlyGivenNames x; (fail_if_success have y : True → True := x); (first | (refine (fun (hx : Keep s x) => ?_) ?_; rotate_left; (try unfold x); rotate_left) | (refine (fun (hx : Keep s x.2) => ?_) ?_; rotate_left; (try unfold x); rotate_left) | (refine (fun (hx : Keep s x.2.2) => ?_) ?_; rotate_left; (try unfold x); rotate_left) | (refine (fun (hx : KeepOpt s x) => ?_) ?_; rotate_left; (try unfold x); rotate_left) | (refine (fun (hx : ∀ v : State, Keep s v → Keep s (x v)) => ?_) ?_; rotate_left; (try unfold x); (try intro v hv); rotate_left) | (have y : Mem := x) | (have y : ProtSt := x) | (have y : PoolSt := x) | (have y : PairSt := x) | (have y : HostSt := x) | (have y : TestSt := x) | (have y : Tab Cell := x) | (have y : Tab Word := x) | (try clear_value x)); all_goals have x := @id True)
    | with_reducible apply KeepRes.next
    | with_reducible exact KeepRes.fault
    | with_reducible apply KeepRes.ite
    | with_reducible apply Touch.ite
    | with_reducible refine Touch.foldl _ ?_ (fun v a hv => ?_)
    | with_reducible apply State.writeCtl_keep
    | split
    | intro _ _ _
    | intro _ _
    | fail_if_no_progress (with_reducible refine Touch.upd ?_)
    | with_reducible apply_assumption


theorem execRingTailWrite_keep {a0 a1} (h : Keep s u) : KeepRes s (execRingTailWrite a0 a1 u) := by
  unfold execRingTailWrite
  have x := @id True
  repeat' first
    | with_reducible assumption
    | exact fun _ _ => trivial
    | exact fun _ => trivial
    | exact trivial
    | (extract_lets +onlyGivenNames x; (fail_if_success have y : True → True := x); (first | (refine (fun (hx : Keep s x) => ?_) ?_; rotate_left; (try unfold x); rotate_left) | (refine (fun (hx : Keep s x.2) => ?_) ?_; rotate_left; (try unfold x); rotate_left) | (refine (fun (hx : Keep s x.2.2) => ?_) ?_; rotate_left; (try unfold x); rotate_left) | (refine (fun (hx : KeepOpt s x) => ?_) ?_; rotate_left; (try unfold x); rotate_left) | (refine (fun (hx : ∀ v : State, Keep s v → Keep s (x v)) => ?_) ?_; rotate_left; (try unfold x); (try intro v hv); rotate_left) | (have y : Mem := x) | (have y : ProtSt := x) | (have y : PoolSt := x) | (have y : PairSt := x) | (have y : HostSt := x) | (have y : TestSt := x) | (have y : Tab Cell := x) | (have y : Tab Word := x) | (try clear_value x)); all_goals have x := @id True)
    | with_reducible apply KeepRes.next
    | with_reducible exact KeepRes.fault
    | with_reducible apply KeepRes.ite
    | with_reducible apply Touch.ite
    | with_reducible refine Touch.foldl _ ?_ (fun v a hv => ?_)
    | with_reducible apply State.writeTail_keep
    | split
    | intro _ _ _
    | intro _ _
    | fail_if_no_progress (with_reducible refine Touch.upd ?_)
    | with_reducible apply_assumption


theorem execBarAccess_keep {a0} (h : Keep s u) : KeepRes s (execBarAccess a0 u) := by
  unfold execBarAccess
  have x := @id True
  repeat' first
    | with_reducible assumption
    | exact fun _ _ => trivial
    | exact fun _ => trivial
    | exact trivial
    | (extract_lets +onlyGivenNames x; (fail_if_success have y : True → True := x); (first | (refine (fun (hx : Keep s x) => ?_) ?_; rotate_left; (try unfold x); rotate_left) | (refine (fun (hx : Keep s x.2) => ?_) ?_; rotate_left; (try unfold x); rotate_left) | (refine (fun (hx : Keep s x.2.2) => ?_) ?_; rotate_left; (try unfold x); rotate_left) | (refine (fun (hx : KeepOpt s x) => ?_) ?_; rotate_left; (try unfold x); rotate_left) | (refine (fun (hx : ∀ v : State, Keep s v → Keep s (x v)) => ?_) ?_; rotate_left; (try unfold x); (try intro v hv); rotate_left) | (have y : Mem := x) | (have y : ProtSt := x) | (have y : PoolSt := x) | (have y : PairSt := x) | (have y : HostSt := x) | (have y : TestSt := x) | (have y : Tab Cell := x) | (have y : Tab Word := x) | (try clear_value x)); all_goals have x := @id True)
    | with_reducible apply KeepRes.next
    | with_reducible exact KeepRes.fault
    | with_reducible apply KeepRes.ite
    | with_reducible apply Touch.ite
    | with_reducible apply Touch.ite2
    | with_reducible apply Touch.ite22
    | with_reducible refine Touch.foldl _ ?_ (fun v a hv => ?_)
    | with_reducible apply State.emit_touch
    | with_reducible apply State.badAccess_keep
    | with_reducible apply State.bar2Read_keep
    | with_reducible refine State.bar2Read_keepE (by with_reducible assumption) ?_
    | split
    | intro _ _ _
    | intro _ _
    | fail_if_no_progress (with_reducible refine Touch.upd ?_)
    | with_reducible apply_assumption


theorem execRegisterWrite_keep {a0 a1 a2} (h : Keep s u) : KeepRes s (execRegisterWrite a0 a1 a2 u) := by
  unfold execRegisterWrite
  have x := @id True
  repeat' first
    | with_reducible assumption
    | exact fun _ _ => trivial
    | exact fun _ => trivial
    | exact trivial
    | (extract_lets +onlyGivenNames x; (fail_if_success have y : True → True := x); (first | (refine (fun (hx : Keep s x) => ?_) ?_; rotate_left; (try unfold x); rotate_left) | (refine (fun (hx : Keep s x.2) => ?_) ?_; rotate_left; (try unfold x); rotate_left) | (refine (fun (hx : Keep s x.2.2) => ?_) ?_; rotate_left; (try unfold x); rotate_left) | (refine (fun (hx : KeepOpt s x) => ?_) ?_; rotate_left; (try unfold x); rotate_left) | (refine (fun (hx : ∀ v : State, Keep s v → Keep s (x v)) => ?_) ?_; rotate_left; (try unfold x); (try intro v hv); rotate_left) | (have y : Mem := x) | (have y : ProtSt := x) | (have y : PoolSt := x) | (have y : PairSt := x) | (have y : HostSt := x) | (have y : TestSt := x) | (have y : Tab Cell := x) | (have y : Tab Word := x) | (try clear_value x)); all_goals have x := @id True)
    | with_reducible apply KeepRes.next
    | with_reducible exact KeepRes.fault
    | with_reducible apply KeepRes.ite
    | with_reducible apply Touch.ite
    | with_reducible refine Touch.foldl _ ?_ (fun v a hv => ?_)
    | with_reducible apply State.badAccess_keep
    | with_reducible apply State.writeReg_keep
    | split
    | intro _ _ _
    | intro _ _
    | fail_if_no_progress (with_reducible refine Touch.upd ?_)
    | with_reducible apply_assumption


theorem execApertureRead_keep {a0 a1 a2} (h : Keep s u) : KeepRes s (execApertureRead a0 a1 a2 u) := by
  unfold execApertureRead
  have x := @id True
  repeat' first
    | with_reducible assumption
    | exact fun _ _ => trivial
    | exact fun _ => trivial
    | exact trivial
    | (extract_lets +onlyGivenNames x; (fail_if_success have y : True → True := x); (first | (refine (fun (hx : Keep s x) => ?_) ?_; rotate_left; (try unfold x); rotate_left) | (refine (fun (hx : Keep s x.2) => ?_) ?_; rotate_left; (try unfold x); rotate_left) | (refine (fun (hx : Keep s x.2.2) => ?_) ?_; rotate_left; (try unfold x); rotate_left) | (refine (fun (hx : KeepOpt s x) => ?_) ?_; rotate_left; (try unfold x); rotate_left) | (refine (fun (hx : ∀ v : State, Keep s v → Keep s (x v)) => ?_) ?_; rotate_left; (try unfold x); (try intro v hv); rotate_left) | (have y : Mem := x) | (have y : ProtSt := x) | (have y : PoolSt := x) | (have y : PairSt := x) | (have y : HostSt := x) | (have y : TestSt := x) | (have y : Tab Cell := x) | (have y : Tab Word := x) | (try clear_value x)); all_goals have x := @id True)
    | with_reducible apply KeepRes.next
    | with_reducible exact KeepRes.fault
    | with_reducible apply KeepRes.ite
    | with_reducible apply Touch.ite
    | with_reducible apply Touch.ite2
    | with_reducible apply Touch.ite22
    | with_reducible refine Touch.foldl _ ?_ (fun v a hv => ?_)
    | with_reducible apply State.emit_touch
    | with_reducible apply State.badAccess_keep
    | with_reducible apply State.apertureData_keep
    | with_reducible refine State.apertureData_keepE (by with_reducible assumption) ?_
    | split
    | intro _ _ _
    | intro _ _
    | fail_if_no_progress (with_reducible refine Touch.upd ?_)
    | with_reducible apply_assumption


theorem execPtmDialog_keep {a0 a1} (h : Keep s u) : KeepRes s (execPtmDialog a0 a1 u) := by
  unfold execPtmDialog
  have x := @id True
  repeat' first
    | with_reducible assumption
    | exact fun _ _ => trivial
    | exact fun _ => trivial
    | exact trivial
    | (extract_lets +onlyGivenNames x; (fail_if_success have y : True → True := x); (first | (refine (fun (hx : Keep s x) => ?_) ?_; rotate_left; (try unfold x); rotate_left) | (refine (fun (hx : Keep s x.2) => ?_) ?_; rotate_left; (try unfold x); rotate_left) | (refine (fun (hx : Keep s x.2.2) => ?_) ?_; rotate_left; (try unfold x); rotate_left) | (refine (fun (hx : KeepOpt s x) => ?_) ?_; rotate_left; (try unfold x); rotate_left) | (refine (fun (hx : ∀ v : State, Keep s v → Keep s (x v)) => ?_) ?_; rotate_left; (try unfold x); (try intro v hv); rotate_left) | (have y : Mem := x) | (have y : ProtSt := x) | (have y : PoolSt := x) | (have y : PairSt := x) | (have y : HostSt := x) | (have y : TestSt := x) | (have y : Tab Cell := x) | (have y : Tab Word := x) | (try clear_value x)); all_goals have x := @id True)
    | with_reducible apply KeepRes.next
    | with_reducible exact KeepRes.fault
    | with_reducible apply KeepRes.ite
    | with_reducible apply Touch.ite
    | with_reducible refine Touch.foldl _ ?_ (fun v a hv => ?_)
    | with_reducible apply State.msix_touch
    | with_reducible apply State.incWrap_touch
    | split
    | intro _ _ _
    | intro _ _
    | fail_if_no_progress (with_reducible refine Touch.upd ?_)
    | with_reducible apply_assumption


theorem State.postIn_keep {a1 a2 a3} (h : Keep s u) : Keep s (State.postIn u a1 a2 a3) := by
  unfold State.postIn
  have x := @id True
  repeat' first
    | with_reducible assumption
    | exact fun _ _ => trivial
    | exact fun _ => trivial
    | exact trivial
    | (extract_lets +onlyGivenNames x; (fail_if_success have y : True → True := x); (first | (refine (fun (hx : Keep s x) => ?_) ?_; rotate_left; (try unfold x); rotate_left) | (refine (fun (hx : Keep s x.2) => ?_) ?_; rotate_left; (try unfold x); rotate_left) | (refine (fun (hx : Keep s x.2.2) => ?_) ?_; rotate_left; (try unfold x); rotate_left) | (refine (fun (hx : KeepOpt s x) => ?_) ?_; rotate_left; (try unfold x); rotate_left) | (refine (fun (hx : ∀ v : State, Keep s v → Keep s (x v)) => ?_) ?_; rotate_left; (try unfold x); (try intro v hv); rotate_left) | (have y : Mem := x) | (have y : ProtSt := x) | (have y : PoolSt := x) | (have y : PairSt := x) | (have y : HostSt := x) | (have y : TestSt := x) | (have y : Tab Cell := x) | (have y : Tab Word := x) | (try clear_value x)); all_goals have x := @id True)
    | with_reducible apply Touch.ite
    | with_reducible refine Touch.foldl _ ?_ (fun v a hv => ?_)
    | with_reducible apply State.setF_touch
    | split
    | intro _ _ _
    | intro _ _
    | fail_if_no_progress (with_reducible refine Touch.upd ?_)
    | with_reducible apply_assumption


theorem State.refuse_keep {a1 a2 a3 a4} (h : Keep s u) : Keep s (State.refuse u a1 a2 a3 a4) := by
  unfold State.refuse
  have x := @id True
  repeat' first
    | with_reducible assumption
    | exact fun _ _ => trivial
    | exact fun _ => trivial
    | exact trivial
    | (extract_lets +onlyGivenNames x; (fail_if_success have y : True → True := x); (first | (refine (fun (hx : Keep s x) => ?_) ?_; rotate_left; (try unfold x); rotate_left) | (refine (fun (hx : Keep s x.2) => ?_) ?_; rotate_left; (try unfold x); rotate_left) | (refine (fun (hx : Keep s x.2.2) => ?_) ?_; rotate_left; (try unfold x); rotate_left) | (refine (fun (hx : KeepOpt s x) => ?_) ?_; rotate_left; (try unfold x); rotate_left) | (refine (fun (hx : ∀ v : State, Keep s v → Keep s (x v)) => ?_) ?_; rotate_left; (try unfold x); (try intro v hv); rotate_left) | (have y : Mem := x) | (have y : ProtSt := x) | (have y : PoolSt := x) | (have y : PairSt := x) | (have y : HostSt := x) | (have y : TestSt := x) | (have y : Tab Cell := x) | (have y : Tab Word := x) | (try clear_value x)); all_goals have x := @id True)
    | with_reducible apply Touch.ite
    | with_reducible refine Touch.foldl _ ?_ (fun v a hv => ?_)
    | with_reducible apply State.replyTo_touch
    | split
    | intro _ _ _
    | intro _ _
    | fail_if_no_progress (with_reducible refine Touch.upd ?_)
    | with_reducible apply_assumption


theorem execMboxMsgRx_keep {a0} (h : Keep s u) : KeepRes s (execMboxMsgRx a0 u) := by
  unfold execMboxMsgRx
  have x := @id True
  repeat' first
    | with_reducible assumption
    | exact fun _ _ => trivial
    | exact fun _ => trivial
    | exact trivial
    | (extract_lets +onlyGivenNames x; (fail_if_success have y : True → True := x); (first | (refine (fun (hx : Keep s x) => ?_) ?_; rotate_left; (try unfold x); rotate_left) | (refine (fun (hx : Keep s x.2) => ?_) ?_; rotate_left; (try unfold x); rotate_left) | (refine (fun (hx : Keep s x.2.2) => ?_) ?_; rotate_left; (try unfold x); rotate_left) | (refine (fun (hx : KeepOpt s x) => ?_) ?_; rotate_left; (try unfold x); rotate_left) | (refine (fun (hx : ∀ v : State, Keep s v → Keep s (x v)) => ?_) ?_; rotate_left; (try unfold x); (try intro v hv); rotate_left) | (have y : Mem := x) | (have y : ProtSt := x) | (have y : PoolSt := x) | (have y : PairSt := x) | (have y : HostSt := x) | (have y : TestSt := x) | (have y : Tab Cell := x) | (have y : Tab Word := x) | (try clear_value x)); all_goals have x := @id True)
    | with_reducible apply KeepRes.next
    | with_reducible exact KeepRes.fault
    | with_reducible apply KeepRes.ite
    | with_reducible apply Touch.ite
    | with_reducible refine Touch.foldl _ ?_ (fun v a hv => ?_)
    | with_reducible refine State.takeCtl_keepE (by with_reducible assumption) ?_
    | with_reducible apply State.sendMsg_touch
    | with_reducible apply State.refuse_keep
    | with_reducible apply State.postIn_keep
    | with_reducible apply State.setRaw_touch
    | with_reducible apply State.drainFor_touch
    | with_reducible apply State.putBytes_touch
    | with_reducible apply State.setF_touch
    | with_reducible apply State.inc_touch
    | split
    | intro _ _ _
    | intro _ _
    | fail_if_no_progress (with_reducible refine Touch.upd ?_)
    | with_reducible apply_assumption


theorem State.passOn_keep {a1} (h : Keep s u) : Keep s (State.passOn u a1) := by
  unfold State.passOn
  have x := @id True
  repeat' first
    | with_reducible assumption
    | exact fun _ _ => trivial
    | exact fun _ => trivial
    | exact trivial
    | (extract_lets +onlyGivenNames x; (fail_if_success have y : True → True := x); (first | (refine (fun (hx : Keep s x) => ?_) ?_; rotate_left; (try unfold x); rotate_left) | (refine (fun (hx : Keep s x.2) => ?_) ?_; rotate_left; (try unfold x); rotate_left) | (refine (fun (hx : Keep s x.2.2) => ?_) ?_; rotate_left; (try unfold x); rotate_left) | (refine (fun (hx : KeepOpt s x) => ?_) ?_; rotate_left; (try unfold x); rotate_left) | (refine (fun (hx : ∀ v : State, Keep s v → Keep s (x v)) => ?_) ?_; rotate_left; (try unfold x); (try intro v hv); rotate_left) | (have y : Mem := x) | (have y : ProtSt := x) | (have y : PoolSt := x) | (have y : PairSt := x) | (have y : HostSt := x) | (have y : TestSt := x) | (have y : Tab Cell := x) | (have y : Tab Word := x) | (try clear_value x)); all_goals have x := @id True)
    | with_reducible apply Touch.ite
    | with_reducible refine Touch.foldl _ ?_ (fun v a hv => ?_)
    | with_reducible apply State.sendMsg_touch
    | split
    | intro _ _ _
    | intro _ _
    | fail_if_no_progress (with_reducible refine Touch.upd ?_)
    | with_reducible apply_assumption


theorem State.abortBit_keep {a1} (h : Keep s u) : Keep s (State.abortBit u a1) := by
  unfold State.abortBit
  extract_lets bit st src v src2
  have hv : Keep s v := h.upd
  exact Touch.ite hv (Touch.ite (State.inc_touch (State.complete_touch hv trivial trivial fun _ => trivial) trivial)
    (Touch.ite hv.upd hv))


theorem execDoorbellRx_keep {a0} (h : Keep s u) : KeepRes s (execDoorbellRx a0 u) := by
  unfold execDoorbellRx
  have x := @id True
  repeat' first
    | with_reducible assumption
    | exact fun _ _ => trivial
    | exact fun _ => trivial
    | exact trivial
    | (extract_lets +onlyGivenNames x; (fail_if_success have y : True → True := x); (first | (refine (fun (hx : Keep s x) => ?_) ?_; rotate_left; (try unfold x); rotate_left) | (refine (fun (hx : Keep s x.2) => ?_) ?_; rotate_left; (try unfold x); rotate_left) | (refine (fun (hx : Keep s x.2.2) => ?_) ?_; rotate_left; (try unfold x); rotate_left) | (refine (fun (hx : KeepOpt s x) => ?_) ?_; rotate_left; (try unfold x); rotate_left) | (refine (fun (hx : ∀ v : State, Keep s v → Keep s (x v)) => ?_) ?_; rotate_left; (try unfold x); (try intro v hv); rotate_left) | (have y : Mem := x) | (have y : ProtSt := x) | (have y : PoolSt := x) | (have y : PairSt := x) | (have y : HostSt := x) | (have y : TestSt := x) | (have y : Tab Cell := x) | (have y : Tab Word := x) | (try clear_value x)); all_goals have x := @id True)
    | with_reducible apply KeepRes.next
    | with_reducible exact KeepRes.fault
    | with_reducible apply KeepRes.ite
    | with_reducible apply Touch.ite
    | with_reducible refine Touch.foldl _ ?_ (fun v a hv => ?_)
    | with_reducible refine State.takeCtl_keepE (by with_reducible assumption) ?_
    | with_reducible apply State.passOn_keep
    | with_reducible apply State.inc_touch
    | with_reducible apply State.abortBit_keep
    | with_reducible apply State.hopCleared_keep
    | split
    | intro _ _ _
    | intro _ _
    | fail_if_no_progress (with_reducible refine Touch.upd ?_)
    | with_reducible apply_assumption


theorem execLockReadRx_keep {a0} (h : Keep s u) : KeepRes s (execLockReadRx a0 u) := by
  unfold execLockReadRx
  have x := @id True
  repeat' first
    | with_reducible assumption
    | exact fun _ _ => trivial
    | exact fun _ => trivial
    | exact trivial
    | (extract_lets +onlyGivenNames x; (fail_if_success have y : True → True := x); (first | (refine (fun (hx : Keep s x) => ?_) ?_; rotate_left; (try unfold x); rotate_left) | (refine (fun (hx : Keep s x.2) => ?_) ?_; rotate_left; (try unfold x); rotate_left) | (refine (fun (hx : Keep s x.2.2) => ?_) ?_; rotate_left; (try unfold x); rotate_left) | (refine (fun (hx : KeepOpt s x) => ?_) ?_; rotate_left; (try unfold x); rotate_left) | (refine (fun (hx : ∀ v : State, Keep s v → Keep s (x v)) => ?_) ?_; rotate_left; (try unfold x); (try intro v hv); rotate_left) | (have y : Mem := x) | (have y : ProtSt := x) | (have y : PoolSt := x) | (have y : PairSt := x) | (have y : HostSt := x) | (have y : TestSt := x) | (have y : Tab Cell := x) | (have y : Tab Word := x) | (try clear_value x)); all_goals have x := @id True)
    | with_reducible apply KeepRes.next
    | with_reducible exact KeepRes.fault
    | with_reducible apply KeepRes.ite
    | with_reducible apply Touch.ite
    | with_reducible apply Touch.ite2
    | with_reducible apply Touch.ite22
    | with_reducible refine Touch.foldl _ ?_ (fun v a hv => ?_)
    | with_reducible refine State.takeCtl_keepE (by with_reducible assumption) ?_
    | with_reducible apply State.passOn_keep
    | with_reducible apply State.lockReadBy_touch
    | with_reducible refine State.lockReadBy_keepE (by with_reducible assumption) ?_
    | with_reducible apply State.sendMsg_touch
    | split
    | intro _ _ _
    | intro _ _
    | fail_if_no_progress (with_reducible refine Touch.upd ?_)
    | with_reducible apply_assumption


theorem execLockWriteRx_keep {a0} (h : Keep s u) : KeepRes s (execLockWriteRx a0 u) := by
  unfold execLockWriteRx
  have x := @id True
  repeat' first
    | with_reducible assumption
    | exact fun _ _ => trivial
    | exact fun _ => trivial
    | exact trivial
    | (extract_lets +onlyGivenNames x; (fail_if_success have y : True → True := x); (first | (refine (fun (hx : Keep s x) => ?_) ?_; rotate_left; (try unfold x); rotate_left) | (refine (fun (hx : Keep s x.2) => ?_) ?_; rotate_left; (try unfold x); rotate_left) | (refine (fun (hx : Keep s x.2.2) => ?_) ?_; rotate_left; (try unfold x); rotate_left) | (refine (fun (hx : KeepOpt s x) => ?_) ?_; rotate_left; (try unfold x); rotate_left) | (refine (fun (hx : ∀ v : State, Keep s v → Keep s (x v)) => ?_) ?_; rotate_left; (try unfold x); (try intro v hv); rotate_left) | (have y : Mem := x) | (have y : ProtSt := x) | (have y : PoolSt := x) | (have y : PairSt := x) | (have y : HostSt := x) | (have y : TestSt := x) | (have y : Tab Cell := x) | (have y : Tab Word := x) | (try clear_value x)); all_goals have x := @id True)
    | with_reducible apply KeepRes.next
    | with_reducible exact KeepRes.fault
    | with_reducible apply KeepRes.ite
    | with_reducible apply Touch.ite
    | with_reducible refine Touch.foldl _ ?_ (fun v a hv => ?_)
    | with_reducible refine State.takeCtl_keepE (by with_reducible assumption) ?_
    | with_reducible apply State.passOn_keep
    | with_reducible apply State.lockWriteBy_touch
    | split
    | intro _ _ _
    | intro _ _
    | fail_if_no_progress (with_reducible refine Touch.upd ?_)
    | with_reducible apply_assumption


theorem execLockResultRx_keep {a0} (h : Keep s u) : KeepRes s (execLockResultRx a0 u) := by
  unfold execLockResultRx
  have x := @id True
  repeat' first
    | with_reducible assumption
    | exact fun _ _ => trivial
    | exact fun _ => trivial
    | exact trivial
    | (extract_lets +onlyGivenNames x; (fail_if_success have y : True → True := x); (first | (refine (fun (hx : Keep s x) => ?_) ?_; rotate_left; (try unfold x); rotate_left) | (refine (fun (hx : Keep s x.2) => ?_) ?_; rotate_left; (try unfold x); rotate_left) | (refine (fun (hx : Keep s x.2.2) => ?_) ?_; rotate_left; (try unfold x); rotate_left) | (refine (fun (hx : KeepOpt s x) => ?_) ?_; rotate_left; (try unfold x); rotate_left) | (refine (fun (hx : ∀ v : State, Keep s v → Keep s (x v)) => ?_) ?_; rotate_left; (try unfold x); (try intro v hv); rotate_left) | (have y : Mem := x) | (have y : ProtSt := x) | (have y : PoolSt := x) | (have y : PairSt := x) | (have y : HostSt := x) | (have y : TestSt := x) | (have y : Tab Cell := x) | (have y : Tab Word := x) | (try clear_value x)); all_goals have x := @id True)
    | with_reducible apply KeepRes.next
    | with_reducible exact KeepRes.fault
    | with_reducible apply KeepRes.ite
    | with_reducible apply Touch.ite
    | with_reducible refine Touch.foldl _ ?_ (fun v a hv => ?_)
    | with_reducible refine State.takeCtl_keepE (by with_reducible assumption) ?_
    | with_reducible apply State.passOn_keep
    | with_reducible apply State.hopLockResult_keep
    | split
    | intro _ _ _
    | intro _ _
    | fail_if_no_progress (with_reducible refine Touch.upd ?_)
    | with_reducible apply_assumption


theorem execMboxWrite_keep {a0 a1 a2} (h : Keep s u) : KeepRes s (execMboxWrite a0 a1 a2 u) := by
  unfold execMboxWrite
  have x := @id True
  repeat' first
    | with_reducible assumption
    | exact fun _ _ => trivial
    | exact fun _ => trivial
    | exact trivial
    | (extract_lets +onlyGivenNames x; (fail_if_success have y : True → True := x); (first | (refine (fun (hx : Keep s x) => ?_) ?_; rotate_left; (try unfold x); rotate_left) | (refine (fun (hx : Keep s x.2) => ?_) ?_; rotate_left; (try unfold x); rotate_left) | (refine (fun (hx : Keep s x.2.2) => ?_) ?_; rotate_left; (try unfold x); rotate_left) | (refine (fun (hx : KeepOpt s x) => ?_) ?_; rotate_left; (try unfold x); rotate_left) | (refine (fun (hx : ∀ v : State, Keep s v → Keep s (x v)) => ?_) ?_; rotate_left; (try unfold x); (try intro v hv); rotate_left) | (have y : Mem := x) | (have y : ProtSt := x) | (have y : PoolSt := x) | (have y : PairSt := x) | (have y : HostSt := x) | (have y : TestSt := x) | (have y : Tab Cell := x) | (have y : Tab Word := x) | (try clear_value x)); all_goals have x := @id True)
    | with_reducible apply KeepRes.next
    | with_reducible exact KeepRes.fault
    | with_reducible apply KeepRes.ite
    | with_reducible apply Touch.ite
    | with_reducible refine Touch.foldl _ ?_ (fun v a hv => ?_)
    | with_reducible apply State.badAccess_keep
    | with_reducible apply State.inc_touch
    | with_reducible apply State.putBytes_touch
    | split
    | intro _ _ _
    | intro _ _
    | fail_if_no_progress (with_reducible refine Touch.upd ?_)
    | with_reducible apply_assumption


theorem execMboxPost_keep {a0 a1} (h : Keep s u) : KeepRes s (execMboxPost a0 a1 u) := by
  unfold execMboxPost
  have x := @id True
  repeat' first
    | with_reducible assumption
    | exact fun _ _ => trivial
    | exact fun _ => trivial
    | exact trivial
    | (extract_lets +onlyGivenNames x; (fail_if_success have y : True → True := x); (first | (refine (fun (hx : Keep s x) => ?_) ?_; rotate_left; (try unfold x); rotate_left) | (refine (fun (hx : Keep s x.2) => ?_) ?_; rotate_left; (try unfold x); rotate_left) | (refine (fun (hx : Keep s x.2.2) => ?_) ?_; rotate_left; (try unfold x); rotate_left) | (refine (fun (hx : KeepOpt s x) => ?_) ?_; rotate_left; (try unfold x); rotate_left) | (refine (fun (hx : ∀ v : State, Keep s v → Keep s (x v)) => ?_) ?_; rotate_left; (try unfold x); (try intro v hv); rotate_left) | (have y : Mem := x) | (have y : ProtSt := x) | (have y : PoolSt := x) | (have y : PairSt := x) | (have y : HostSt := x) | (have y : TestSt := x) | (have y : Tab Cell := x) | (have y : Tab Word := x) | (try clear_value x)); all_goals have x := @id True)
    | with_reducible apply KeepRes.next
    | with_reducible exact KeepRes.fault
    | with_reducible apply KeepRes.ite
    | with_reducible apply Touch.ite
    | with_reducible refine Touch.foldl _ ?_ (fun v a hv => ?_)
    | with_reducible apply State.inc_touch
    | with_reducible apply State.postIn_keep
    | split
    | intro _ _ _
    | intro _ _
    | fail_if_no_progress (with_reducible refine Touch.upd ?_)
    | with_reducible apply_assumption


theorem execMboxAbort_keep {a0} (h : Keep s u) : KeepRes s (execMboxAbort a0 u) := by
  unfold execMboxAbort
  have x := @id True
  repeat' first
    | with_reducible assumption
    | exact fun _ _ => trivial
    | exact fun _ => trivial
    | exact trivial
    | (extract_lets +onlyGivenNames x; (fail_if_success have y : True → True := x); (first | (refine (fun (hx : Keep s x) => ?_) ?_; rotate_left; (try unfold x); rotate_left) | (refine (fun (hx : Keep s x.2) => ?_) ?_; rotate_left; (try unfold x); rotate_left) | (refine (fun (hx : Keep s x.2.2) => ?_) ?_; rotate_left; (try unfold x); rotate_left) | (refine (fun (hx : KeepOpt s x) => ?_) ?_; rotate_left; (try unfold x); rotate_left) | (refine (fun (hx : ∀ v : State, Keep s v → Keep s (x v)) => ?_) ?_; rotate_left; (try unfold x); (try intro v hv); rotate_left) | (have y : Mem := x) | (have y : ProtSt := x) | (have y : PoolSt := x) | (have y : PairSt := x) | (have y : HostSt := x) | (have y : TestSt := x) | (have y : Tab Cell := x) | (have y : Tab Word := x) | (try clear_value x)); all_goals have x := @id True)
    | with_reducible apply KeepRes.next
    | with_reducible exact KeepRes.fault
    | with_reducible apply KeepRes.ite
    | with_reducible apply Touch.ite
    | with_reducible refine Touch.foldl _ ?_ (fun v a hv => ?_)
    | with_reducible apply State.abortBit_keep
    | split
    | intro _ _ _
    | intro _ _
    | fail_if_no_progress (with_reducible refine Touch.upd ?_)
    | with_reducible apply_assumption


theorem execLockRead_keep {a0 a1} (h : Keep s u) : KeepRes s (execLockRead a0 a1 u) := by
  unfold execLockRead
  have x := @id True
  repeat' first
    | with_reducible assumption
    | exact fun _ _ => trivial
    | exact fun _ => trivial
    | exact trivial
    | (extract_lets +onlyGivenNames x; (fail_if_success have y : True → True := x); (first | (refine (fun (hx : Keep s x) => ?_) ?_; rotate_left; (try unfold x); rotate_left) | (refine (fun (hx : Keep s x.2) => ?_) ?_; rotate_left; (try unfold x); rotate_left) | (refine (fun (hx : Keep s x.2.2) => ?_) ?_; rotate_left; (try unfold x); rotate_left) | (refine (fun (hx : KeepOpt s x) => ?_) ?_; rotate_left; (try unfold x); rotate_left) | (refine (fun (hx : ∀ v : State, Keep s v → Keep s (x v)) => ?_) ?_; rotate_left; (try unfold x); (try intro v hv); rotate_left) | (have y : Mem := x) | (have y : ProtSt := x) | (have y : PoolSt := x) | (have y : PairSt := x) | (have y : HostSt := x) | (have y : TestSt := x) | (have y : Tab Cell := x) | (have y : Tab Word := x) | (try clear_value x)); all_goals have x := @id True)
    | with_reducible apply KeepRes.next
    | with_reducible exact KeepRes.fault
    | with_reducible apply KeepRes.ite
    | with_reducible apply Touch.ite
    | with_reducible apply Touch.ite2
    | with_reducible apply Touch.ite22
    | with_reducible refine Touch.foldl _ ?_ (fun v a hv => ?_)
    | with_reducible apply State.lockReadBy_touch
    | with_reducible refine State.lockReadBy_keepE (by with_reducible assumption) ?_
    | with_reducible apply State.emit_touch
    | split
    | intro _ _ _
    | intro _ _
    | fail_if_no_progress (with_reducible refine Touch.upd ?_)
    | with_reducible apply_assumption


theorem execLockWrite_keep {a0 a1} (h : Keep s u) : KeepRes s (execLockWrite a0 a1 u) := by
  unfold execLockWrite
  have x := @id True
  repeat' first
    | with_reducible assumption
    | exact fun _ _ => trivial
    | exact fun _ => trivial
    | exact trivial
    | (extract_lets +onlyGivenNames x; (fail_if_success have y : True → True := x); (first | (refine (fun (hx : Keep s x) => ?_) ?_; rotate_left; (try unfold x); rotate_left) | (refine (fun (hx : Keep s x.2) => ?_) ?_; rotate_left; (try unfold x); rotate_left) | (refine (fun (hx : Keep s x.2.2) => ?_) ?_; rotate_left; (try unfold x); rotate_left) | (refine (fun (hx : KeepOpt s x) => ?_) ?_; rotate_left; (try unfold x); rotate_left) | (refine (fun (hx : ∀ v : State, Keep s v → Keep s (x v)) => ?_) ?_; rotate_left; (try unfold x); (try intro v hv); rotate_left) | (have y : Mem := x) | (have y : ProtSt := x) | (have y : PoolSt := x) | (have y : PairSt := x) | (have y : HostSt := x) | (have y : TestSt := x) | (have y : Tab Cell := x) | (have y : Tab Word := x) | (try clear_value x)); all_goals have x := @id True)
    | with_reducible apply KeepRes.next
    | with_reducible exact KeepRes.fault
    | with_reducible apply KeepRes.ite
    | with_reducible apply Touch.ite
    | with_reducible refine Touch.foldl _ ?_ (fun v a hv => ?_)
    | with_reducible apply State.lockWriteBy_touch
    | split
    | intro _ _ _
    | intro _ _
    | fail_if_no_progress (with_reducible refine Touch.upd ?_)
    | with_reducible apply_assumption


theorem execMailboxRead_keep {a0 a1 a2 a3 a4} (h : Keep s u) : KeepRes s (execMailboxRead a0 a1 a2 a3 a4 u) := by
  unfold execMailboxRead
  have x := @id True
  repeat' first
    | with_reducible assumption
    | exact fun _ _ => trivial
    | exact fun _ => trivial
    | exact trivial
    | (extract_lets +onlyGivenNames x; (fail_if_success have y : True → True := x); (first | (refine (fun (hx : Keep s x) => ?_) ?_; rotate_left; (try unfold x); rotate_left) | (refine (fun (hx : Keep s x.2) => ?_) ?_; rotate_left; (try unfold x); rotate_left) | (refine (fun (hx : Keep s x.2.2) => ?_) ?_; rotate_left; (try unfold x); rotate_left) | (refine (fun (hx : KeepOpt s x) => ?_) ?_; rotate_left; (try unfold x); rotate_left) | (refine (fun (hx : ∀ v : State, Keep s v → Keep s (x v)) => ?_) ?_; rotate_left; (try unfold x); (try intro v hv); rotate_left) | (have y : Mem := x) | (have y : ProtSt := x) | (have y : PoolSt := x) | (have y : PairSt := x) | (have y : HostSt := x) | (have y : TestSt := x) | (have y : Tab Cell := x) | (have y : Tab Word := x) | (try clear_value x)); all_goals have x := @id True)
    | with_reducible apply KeepRes.next
    | with_reducible exact KeepRes.fault
    | with_reducible apply KeepRes.ite
    | with_reducible apply Touch.ite
    | with_reducible apply Touch.ite2
    | with_reducible apply Touch.ite22
    | with_reducible refine Touch.foldl _ ?_ (fun v a hv => ?_)
    | with_reducible apply State.emit_touch
    | with_reducible apply State.badAccess_keep
    | with_reducible apply State.readCws_touch
    | with_reducible refine State.readCws_keepE (by with_reducible assumption) ?_
    | with_reducible apply State.upsets_touch
    | split
    | intro _ _ _
    | intro _ _
    | fail_if_no_progress (with_reducible refine Touch.upd ?_)
    | with_reducible apply_assumption


end Sys2Proof.Machine
end

