-- ==== Sys2Proof/Tests/Slice0.lean ====
section
/-! SUPPORT. Tests: an ill-formed command for each check of Instr.wf, worked examples of the spec, and for every statement with
hypotheses a state and operands that meet them. -/

namespace Sys2Proof.Tests

open Sys2Proof Sys2Proof.Machine

-- One theorem after another, so that the checks of many theorems do not fill the memory at once.
set_option Elab.async false

/-! ## Well-formedness: one ill-formed command for each check -/

theorem test_wf_vote : Instr.wf (.coarseTickVote [(3, 1), (3, 2)]) = false ∧ Instr.wf (.coarseTickVote [(3, 1), (4, 2)]) = true := by decide
theorem test_wf_alignment : Instr.wf (.alignmentMissing 0 [0, 0, 0]) = false ∧ Instr.wf (.alignmentMissing 0 [0, 0]) = true := by decide
theorem test_wf_bar : Instr.wf (.barAccess ⟨false, false, 0xFFFC, 8, false⟩) = false ∧
    Instr.wf (.barAccess ⟨true, false, 0xFFFC, 8, false⟩) = true ∧ Instr.wf (.barAccess ⟨true, false, 0, 4097, false⟩) = false := by decide
theorem test_wf_aperture : Instr.wf (.apertureRead 0 0 []) = false ∧ Instr.wf (.apertureRead 0 129 []) = false ∧
    Instr.wf (.apertureRead 0 1 [0, 0, 0]) = false := by decide
theorem test_wf_completion : Instr.wf (.hostReadCompletion .success ⟨0, List.replicate 4097 0⟩) = false := by decide +kernel
theorem test_wf_packet : Instr.wf (.packetRx 0 ⟨true, 0, 1, true, true, 0, [5], 0, true⟩) = false ∧
    Instr.wf (.packetRx 0 ⟨true, 0, 1, true, true, 0, [5], 0, false⟩) = true ∧
    Instr.wf (.packetRx 0 ⟨true, 0, 0, true, true, 0, List.replicate 65 0, 0, false⟩) = false := by decide +kernel
theorem test_wf_copy : Instr.wf (.resyncDirCopyDone true [(2 ^ 21, 0)]) = false := by decide
theorem test_wf_rewrite : Instr.wf (.memPoisonRewrite 4 512) = false ∧ Instr.wf (.memPoisonRewrite 4 511) = true := by decide
theorem test_wf_tmr : Instr.wf (.tmrRefresh [⟨50, 0, 0⟩]) = false ∧ Instr.wf (.tmrRefresh [⟨49, 0, 0⟩]) = true := by decide
theorem test_wf_retire : Instr.wf (.retireMapRepair ⟨0, true, 12⟩) = false ∧ Instr.wf (.retireMapRepair ⟨0, false, 12287⟩) = true := by
  decide
theorem test_wf_write : Instr.wf (.mboxWrite 0 255 ⟨.host, [1, 2]⟩) = false ∧ Instr.wf (.mboxWrite 0 0 ⟨.host, []⟩) = false := by decide
theorem test_wf_take : Instr.wf (.fwTakeMessage (List.replicate 17 0) []) = false ∧ Instr.wf (.fwTakeMessage [] [(131072, 0)]) = false ∧
    Instr.wf (.fwTakeMessage [] [(131071, 0)]) = true := by decide
theorem test_wf_bist : Instr.wf (.bistMemDone ⟨[(0, 0)]⟩) = false ∧ Instr.wf (.bistMemDone ⟨[(1310720, 1)]⟩) = false ∧
    Instr.wf (.bistIdleDone ⟨[(3, 1), (2, 1)]⟩) = false ∧ Instr.wf (.bistIdleDone ⟨[(2, 1), (3, 1)]⟩) = true := by decide
theorem test_wf_grant : Instr.wf (.chipGrant ⟨0, List.replicate 65 0⟩) = false := by decide
theorem test_wf_send : Instr.wf (.packetTx ⟨0, List.replicate 65 0⟩) = false := by decide
theorem test_wf_image (image : List Byte) (h : image.length = 2 ^ 32) : Instr.wf (.pairImageRx true image) = false := by simp [Instr.wf, h]
theorem test_wf_power : Instr.wf (.pciePowerStateChange false true { timeoutRange := 3 }) = false ∧
    Instr.wf (.pciePowerStateChange false true { timeoutRange := 6 }) = true := by decide
theorem test_wf_read : Instr.wf (.mailboxRead true 0 255 2 []) = false ∧ Instr.wf (.mailboxRead true 0 255 1 []) = true ∧
    Instr.wf (.mailboxRead true 0 0 1 (List.replicate 18 0)) = false := by decide

/-! ## Worked examples of the spec -/

/-- The check value of R162. -/
theorem test_crc32c : crc32c [0x31, 0x32, 0x33, 0x34, 0x35, 0x36, 0x37, 0x38, 0x39] = 0xE3069283 := by decide +kernel
/-- The check value of R260. -/
theorem test_crc8 : crc8 [0x31, 0x32, 0x33, 0x34, 0x35, 0x36, 0x37, 0x38, 0x39] = 0xF4 := by decide +kernel
/-- The marker of frame 0x0001_2C47 (R289). -/
theorem test_marker : markerWord 0x12C470000 = 0x500012C4700000F5 := by decide +kernel
/-- The hit of file 02: its stamp. -/
theorem test_stamp : mkStamp 0x12C47B3A1 0xDE3 = 0x2588F6742DE3 := by decide
/-- The hit word of file 02. -/
theorem test_hit_word : hitWord 1337 3555 45985 200 0 0 0 0 0 0 = 0x1A72DE3B3A10C800 := by decide
/-- The correction of file 07. -/
theorem test_correction : applyEntry 0xA00040A8D8FFFFDD 0x1A72DE3B3A10C800 = 0x1A72DC0B3A10D202 := by decide +kernel
/-- The derivative of the loop of file 16: 2.5 to even. -/
theorem test_rescale_ties : (rescale (valOf 5 39) 40).1 = 2 := by decide +kernel

/-- Loop 10 of file 16 before the evaluation, with a HIGH clamp. -/
def biasLoop (high : Nat) : State :=
  let c (m e : Nat) : Nat := m + e * 2 ^ 18
  let s := (List.range 6).foldl (fun (s : State) k => s.setCfg (C.stageExp 10 k) 40) State.reset
  let s := ((s.setCfg (C.kp 10) (c 1 39)).setCfg (C.ki 10) (c 1 36)).setCfg (C.kd 10) (c 1 38)
  let s := ((s.setCfg (C.tgt 10) (c 20480 40)).setCfg (C.rampStep 10) 64).setTri 12 (BitVec.ofNat 80 (c 0 40 + c high 40 * 2 ^ 24))
  s.setPid 10 { i := 30000, mqPrev := some 20010, sp := 20480, ramp := false, bumpless := false }

/-- The evaluation of file 16: code 0x7640, and with HIGH = 30,000 a clamped output that leaves I. -/
theorem test_bias_loop :
    Tab.get 0 ((biasLoop 40000).evalWith 10 (intVal 20000)).loop.biasCode 2 = 0x7640 ∧
    (((biasLoop 40000).evalWith 10 (intVal 20000)).pid 10).i = 30030 ∧
    Tab.get 0 ((biasLoop 30000).evalWith 10 (intVal 20000)).loop.biasCode 2 = 30000 ∧
    (((biasLoop 30000).evalWith 10 (intVal 20000)).pid 10).i = 30000 ∧
    ((biasLoop 30000).evalWith 10 (intVal 20000)).getF (R.outClamped 10) = 1 := by decide +kernel

/-- The block of file 04 with PRE = 100 and POST = 192 needs six pages. -/
theorem test_pages_needed : ((State.reset.setCfg (C.pre 5) 100).setCfg (C.post 5) 192).pagesNeeded 5 = 6 := by decide +kernel

/-! ## The hypotheses of the statements are met -/

theorem test_met_powerOn : State.reset.node.state = .off := rfl

theorem test_met_railFall : ({ State.reset with node := { state := .boot } } : State).node.state ≠ .off := by decide

theorem test_met_resetNLow : ({ State.reset with node := { state := .running } } : State).node.state ≠ .off ∧
    ({ State.reset with node := { state := .running } } : State).node.state ≠ .reset := by decide

theorem test_met_resetRelease : ({ State.reset with node := { state := .reset } } : State).node.state = .reset := rfl

theorem test_met_bootComplete : ({ State.reset with node := { state := .boot } } : State).node.state = .boot := rfl

theorem test_met_firmwareRestart : ({ State.reset with fw := { restart := some 3 } } : State).fw.restart = some 3 := rfl

/-- A root with its PCI Express link up. -/
def rootUp : State := { (State.reset.setTri 1 2) with node := { state := .running }, host := { linkUp := true, busMaster := true } }

theorem test_met_functionReset : rootUp.isRoot = true ∧ rootUp.host.linkUp = true ∧ rootUp.hostOpen = true ∧ rootUp.vecMasked 0 = true := by decide

/-- A running node whose eight timebases are in a state, with REFCLK present. -/
def timed (st : Nat) : State :=
  ((List.range 8).foldl (fun (s : State) r => s.setF (R.tbState r) st) { State.reset with node := { state := .running } }).setF R.refclkPresent 1

theorem test_met_reference : (timed 2).getF R.refclkPresent = 1 ∧ (timed 2).node.state ≠ .off ∧ (timed 2).degraded = false ∧
    (timed 2).regionState 7 = 2 ∧ ((timed 3).setF R.refclkPresent 0).getF R.refclkPresent = 0 ∧
    ((timed 3).setF R.refclkPresent 0).degraded = false ∧ ((timed 3).setF (R.holdoverBound 0) 3124).getF (R.holdoverBound 0) = 3124 ∧
    ((timed 3).setF (R.holdoverBound 7) 3125).getF (R.holdoverBound 7) = 3125 ∧ (timed 3).getF (R.realign 7) = 0 := by decide +kernel

theorem test_met_retry : ((timed 3).setRegion 7 { retry := true }).regionState 7 = 3 ∧ (((timed 3).setRegion 7 { retry := true }).region 7).retry = true ∧
    (((timed 3).setRegion 7 { retry := true }).setF (R.holdoverBound 7) 3124).getF (R.holdoverBound 7) = 3124 ∧
    (((timed 3).setRegion 7 { retry := true }).setF (R.holdoverBound 7) 3125).getF (R.realign 7) = 0 := by decide +kernel

theorem test_met_lock : (timed 1).regionState 7 = 1 ∧ (timed 1).refPresent = true ∧
    (((timed 4).setRegion 7 { goodRun := 4096 }).region 7).goodRun = 4096 ∧ ((timed 4).setRegion 7 { goodRun := 4096 }).regionState 7 = 4 ∧
    ((timed 2).setRegion 0 { badRun := 16 }).regionState 0 = 2 ∧ (((timed 2).setRegion 0 { badRun := 16 }).region 0).badRun = 16 ∧
    ({ timed 1 with ticks := 1600000 } : State).regionState 0 = 1 := by decide +kernel

theorem test_met_bound : (timed 3).regionState 7 = 3 ∧ ¬ ((timed 3).getF (R.realign 7) = 1 ∧ (timed 3).refPresent = true) := by decide +kernel

theorem test_met_vote : [(5 : BitVec 48), 5, 9].length < 2 * copiesOf 5 [5, 5, 9] ∧
    [(5 : BitVec 48), 9].length = 2 * copiesOf 5 [5, 9] ∧ [(5 : BitVec 48), 9].length = 2 * copiesOf 9 [5, 9] := by decide

theorem test_met_tick : (timed 2).coarseRuns = true ∧ (timed 2).node.acts = [] ∧
    ({ timed 2 with time := { wrapDue := true } } : State).time.wrapDue = true := by decide +kernel

theorem test_met_refMoved : (State.reset.setF R.refclkPresent 1).node.committed = false ∧ (timed 2).node.committed = false ∧
    3 ≤ (timed 2).node.state.code ∧ (timed 2).portEnabled 16 = true ∧ (timed 2).getF (R.lstate 16) ≠ 6 ∧
    (((timed 2).setF R.clkSource 1).degraded) = true ∧ ((timed 2).setF R.clkSource 1).getF R.refclkPresent = 1 := by decide +kernel

theorem test_met_boundHeld : ((timed 3).setF (R.realign 7) 1).regionState 7 = 3 ∧ ((timed 3).setF (R.realign 7) 1).refPresent = true ∧
    (((timed 3).setF (R.realign 7) 1).setF R.refclkPresent 0).refPresent = false ∧ (timed 4).regionState 7 = 4 ∧
    (timed 4).getF (R.realign 7) = 0 ∧ (timed 1).regionState 7 ≠ 3 := by decide +kernel

/-- A running node at the tick before a sampling tick, with an action waiting. -/
def waiting' (a : BoundaryAct) : State := { timed 2 with ticks := 1, node := { (timed 2).node with acts := [a] } }

theorem test_met_acts : (waiting' .stop).coarseRuns = true ∧ ((waiting' .stop).ticks + 1 + boolNat (waiting' .stop).time.parity) % 2 = 0 ∧
    ((waiting' (.thaw 1)).setF (R.acqState 0) 6).getF (R.acqState 0) = 6 ∧ recording ((waiting' .stop).block 127) = [] ∧
    (waiting' (.cellSet 2047 1 15 1023 15 1 2)).node.acts = [.cellSet 2047 1 15 1023 15 1 2] ∧
    ((timed 2).ticks + 1 + boolNat (timed 2).time.parity) % 2 = 1 ∧ (timed 5).coarseRuns = false := by decide +kernel

theorem test_met_epoch : (timed 2).measuring = some 0 ∧ (timed 2).running = true ∧ (timed 2).loaded = false ∧ (timed 2).streamStart = false ∧
    (timed 2).windowMode = false ∧ ((timed 2).setF R.epochLoaded 1).judging = true ∧
    (((timed 2).setF R.epochLoaded 1).setCfg C.timeMode 1).windowMode = true ∧
    (((timed 2).setF R.epochLoaded 1).setCfg C.timeMode 1).judging = true ∧ (timed 5).measuring = none := by decide +kernel

theorem test_met_window : ({ timed 2 with time := { coarse := 300, window := some { s := 0, num := 0, stamp := 0 } } } : State).time.window =
      some { s := 0, num := 0, stamp := 0 } ∧
    reached 300 (0 + BitVec.ofNat 48 ((timed 2).cfgF C.winDelay)) = true := by decide +kernel

/-- A CONFIGURED node with slot 0, its timebases LOCKED, and cell 0 in a CELL_MODE with its discriminator enabled. -/
def celled (mode : Nat) : State :=
  ((((timed 2).setCfg C.slotValid 1).setCfg (C.cellMode 0) mode).setCfg (C.discEn 0) 1).setCfg (C.calSource 0) 2

theorem test_met_cal : (celled 1).cfgF (C.calSource 0) = 2 ∧ (celled 1).cellMode 0 ≠ 0 ∧ (celled 1).regionState 0 = 2 ∧
    2 ^ (celled 1).cfgF (C.calHitsLog 0) ≤ (((celled 1).setCell 0 { calTotal := 2 ^ 24 }).cell 0).calTotal ∧
    ((celled 1).setF (R.calSuspect 0) 1).getF (R.calSuspect 0) = 1 ∧ (celled 1).getF (R.calSuspect 0) = 0 ∧
    ((celled 1).setF (R.calConverged 0) 1).getF (R.calConverged 0) = 1 ∧
    16 * (celled 1).cfgF (C.calRejectLsb 0) <
      (roundAway (16 * (8192 * ((2 ^ 24 : Nat) : Int) - 128 * 1 * (2 ^ 24 : Nat))) (2 ^ 24)).natAbs := by decide +kernel

theorem test_met_disc : (celled 1).cellMode 0 = 1 ∧ ((celled 1).cell 0).settling = none ∧ (celled 1).cfgF (C.discEn 0) = 1 ∧
    (celled 1).getF (R.discHigh 0) = 0 ∧ ((celled 1).cell 0).lastEdge = none ∧
    (((celled 1).setCell 0 { lastEdge := some 1 }).cell 0).lastEdge = some 1 ∧
    0 * 8192 + (8191 : BitVec 13).toNat < 1 + 15728 ∧ 1 + 15729 < 2 * 8192 + (0 : BitVec 13).toNat ∧ ((celled 1).setF (R.discHigh 0) 1).getF (R.discHigh 0) = 1 := by decide +kernel

/-- Cell 0 with one stamped hit in TIMING, due at tick 3, and a derandomiser of `n` words. -/
def hitCell (n : Nat) : Cell :=
  { hits := [{ coarse := 0, raw := 0, stamp := some 0, tot := some (4095, false), live := true, key := some (.frame 0) }],
    derand := List.replicate n ⟨0, 0, .frame 0⟩ }

theorem test_met_stunned : ((({ celled 1 with ticks := 1599 } : State).setCell 0 { struck := some 0 }).cell 0).stunned 1599 = true ∧
    (((celled 1).setCell 0 { struck := some 0 }).cell 0).stunned 1600 = false ∧
    ((((celled 1).setF (R.tbState 0) 1)).regionState 0) = 1 ∧ ((celled 1).setF (R.tbState 0) 5).regionState 0 = 5 := by decide +kernel

/-- Cell 0 with one stamped hit in FULL. -/
def fullCell : Cell :=
  { hits := [{ coarse := 0, raw := 0, stamp := some 0, full := true, live := true, key := some (.frame 0) }] }

theorem test_met_full : (((({ celled 2 with ticks := 200, time := { coarse := 200 } } : State).setCell 0 fullCell).cell 0).hits.head?.map (·.full)) = some true ∧
    ({ celled 2 with ticks := 200, time := { coarse := 200 } } : State).absTick 0 + 3 ≤ 200 ∧
    ({ celled 2 with ticks := 200, time := { coarse := 200 } } : State).hitSample { coarse := 0, raw := 0, stamp := some 0 } +
      ({ celled 2 with ticks := 200, time := { coarse := 200 } } : State).cfgF (C.qLen 0) - 1 + 3 ≤
      ({ celled 2 with ticks := 200, time := { coarse := 200 } } : State).lastSample := by decide +kernel

theorem test_met_hit : ((((celled 1).setCell 0 { hits := [{ coarse := 0, raw := 0 }] }).cell 0).hits = [{ coarse := 0, raw := 0 }]) ∧
    (((celled 1).setCell 0 (hitCell 7)).cell 0).derand.length = 7 ∧ (((celled 1).setCell 0 (hitCell 8)).cell 0).derand.length = 8 ∧
    ({ celled 1 with ticks := 3, time := { coarse := 3 } } : State).absTick 0 + 3 ≤ 3 := by decide +kernel

/-- A block that writes its last page, whose filling begins with sample 5. -/
def page63 : Block := { sampling := true, page := some 63, pages := [(63, { gens := [(5, 0)] })] }

theorem test_met_sample : (celled 2).cellMode 0 = 2 ∧ (celled 2).cfgF (C.rangeMode 0) = 0 ∧ (celled 2).getF (R.curRange 0) = 2 ∧
    ((celled 2).setF (R.curRange 0) 1).getF (R.curRange 0) = 1 ∧ (((celled 2).setCell 0 { downCount := 16 }).cell 0).downCount = 16 ∧
    (((celled 2).setBlock 0 page63).block 0).page = some 63 ∧
    ((Tab.get {} (((celled 2).setBlock 0 page63).block 0).pages 63).gens.headD (0, 0)).1 = 5 ∧
    ({ celled 2 with ticks := 136 } : State).lastSample = 68 ∧ 68 < ({ celled 2 with ticks := 136 } : State).writtenEnd page63 ∧
    (((celled 2).setCell 0 { staging := some ⟨segAddr 0 (64 * 63 + 63), 0x3FFF, 0⟩ }).cell 0).staging =
      some ⟨segAddr 0 (64 * 63 + 63), 0x3FFF, 0⟩ ∧ (64 * 63 + (68 - 5)) % 8 = 7 ∧
    (0x3FFF ||| containerBytes (64 * 63 + 63)) = 0xFFFF ∧
    (((celled 2).setCell 0 { settling := some 7 }).cell 0).settling = some 7 := by decide +kernel

/-- A running, loaded node with slot 0 whose block 0 records in an ACQ_STATE. -/
def armed (st : Nat) : State :=
  (((celled 2).setF R.epochLoaded 1).setCfg (C.recordMode 0) 1).setF (R.acqState 0) st

def aRec : Rec := ⟨0, 0, 1, .event 3 0, 0, 0, 0, 3, false, false, false, 0, []⟩

def fullBlock : Block := { sampling := true, page := some 63, pages := (List.range 64).map (fun p => (p, (⟨[(0, 64)], [1]⟩ : Page))) }

theorem test_met_page : (((armed 1).setBlock 127 { sampling := true, page := some 63 }).block 127).page = some 63 ∧
    69 = ((Tab.get {} (((armed 1).setBlock 127 page63).block 127).pages 63).gens.headD (0, 0)).1 + 64 ∧
    69 ≤ ({ armed 1 with ticks := 136 } : State).writtenEnd page63 ∧
    (({ armed 1 with ticks := 136 } : State).finishPage page63).nextPage 63 = some 0 ∧
    64 = ((Tab.get {} fullBlock.pages 63).gens.headD (0, 0)).1 + 64 ∧
    (({ armed 1 with ticks := 136 } : State).finishPage fullBlock).nextPage 63 = none := by decide +kernel

theorem test_met_trig : (armed 1).measuring = some 0 ∧ (armed 1).judging = true ∧ (armed 1).slotValid = true ∧
    (armed 1).trig.lastExt = none ∧ 0 * 8192 + (1 : BitVec 13).toNat - 0 < (armed 1).cfgF C.extHoldoff * 8192 ∧
    (timed 5).measuring = none ∧ (timed 5).running = true ∧ reached 1 (stampCoarse 0 + 1) = true := by decide +kernel

theorem test_met_judge : (armed 5).getF (R.acqState 0) = 5 ∧ (armed 4).getF (R.acqState 0) = 4 ∧ (armed 1).getF (R.acqState 0) = 1 ∧
    (armed 1).cfgF (C.recordMode 0) = 1 ∧ (armed 1).getF (R.acqState 127) = 0 ∧ (armed 1).lastSample < aRec.last + 4096 ∧
    ((armed 1).setCfg (C.pre 0) 0).cfgF (C.pre 0) = 0 ∧
    (((armed 1).setCfg (C.pre 0) 0).setBlock 0 { sampling := true, page := some 0, pages := [(0, { gens := [(0, 0)] })], runs := [(0, none)] }).allInMemory
      { sampling := true, page := some 0, pages := [(0, { gens := [(0, 0)] })], runs := [(0, none)] } 0 0 = true ∧
    (armed 1).time.loadSample ≤ 0 ∧ aRec.last < 4 ∧ 4 ≤ aRec.last + 64 := by decide +kernel

theorem test_met_judge2 : ((armed 1).setCfg (C.recordMode 0) 2).cfgF (C.recordMode 0) = 2 ∧ (armed 3).getF (R.acqState 0) = 3 ∧
    ({ armed 1 with time := { (armed 1).time with loadSample := 1 } } : State).time.loadSample = 1 ∧
    (armed 1).sampleAt (stampCoarse 0) = 0 ∧ (armed 1).cfgF (C.pre 0) ≠ 0 ∧ (armed 1).enabledBlocks 2 = [] ∧
    ((((armed 1).setCfg (C.trigEn 0) 1).setCfg (C.recordMask 0) 1).cfgF (C.recordMask 0)) = 1 ∧
    stampReached 0 (armed 1).time.loadPoint = true := by decide +kernel

theorem test_met_build : recCells 0 aRec = [0] ∧ (({} : Cell)).allFull 0 3 = false ∧
    (({ full := [(0, none)] } : Cell)).allFull 0 3 = true := by decide +kernel

theorem test_met_older : (olderHead (1, 5) (1, 6) = true ∧ olderHead (1, 6) (1, 5) = false) ∧
    (olderHead (1, 9) (2, 0) = true ∧ olderHead (2, 0) (1, 9) = false) := by decide +kernel

theorem test_met_record : (((armed 2).setBlock 0 { recs := [aRec] }).block 0).recs = [aRec] ∧ aRec.complete = false ∧
    aRec.last ≤ ({ armed 2 with ticks := 6 } : State).lastSample ∧ aRec.long = false ∧ { aRec with last := 4096 }.long = true ∧ (armed 2).node.stopping = false ∧
    (armed 2).getF (R.acqState 0) = 2 ∧ (armed 3).getF (R.acqState 0) = 3 ∧ { aRec with complete := true }.read = false := by decide +kernel

theorem test_met_grant : (((armed 1).setCell 2047 (hitCell 1)).cell (16 * 127 + 15)).derand = [⟨0, 0, .frame 0⟩] ∧
    ((armed 1).block 127).head = none ∧ (armed 1).regionWords 7 < 512 ∧ Tab.get 0 (armed 1).pool.regMore 7 = 0 ∧
    ({ armed 1 with pool := { regFifo := [(7, [⟨.frame 0, 0, 2047, [pw 0], false⟩])], regMore := [(7, 1)] } } : State).regionWords 7 = 0 ∧
    (armed 1).fragShut (.frame 0) = false ∧ (armed 1).fragShut (.event 0 0) = true := by decide +kernel

/-- The stream of one raw block of 8 bytes, with LAST. -/
def oneBlock : List Byte := [116, 0, 0, 0, 0, 0, 0, 0, 0, 0, 0, 0, 138, 178, 40, 140]

/-- A node in a state with a message taken: opcode, length and arguments. -/
def taken (st : NodeState) (op : BitVec 16) (n : Nat) (args : List Byte) : State :=
  { State.reset with node := { state := st },
                     fw := { cur := some ⟨15, 0x10000000, op, 0x1234, n, 0xFFF, false, args⟩ } }

def theMsg (op : BitVec 16) (n : Nat) (args : List Byte) : Msg := ⟨15, 0x10000000, op, 0x1234, n, 0xFFF, false, args⟩

theorem test_met_checks : (taken .running 0x101 0 []).fw.cur = some (theMsg 0x101 0 []) ∧ (theMsg 0x101 0 []).length < 1 ∧
    (taken .running 0x200 16 []).node.state ∉ statesUC ∧ (.nodeReset, 0x101, 1, statesLUCRS) ∈ commandRows := by decide +kernel

theorem test_met_node : Taken (taken .running 0x100 0 []) 0x100 0 statesLUCRS (theMsg 0x100 0 []) ∧
    Taken (taken .safe 0x101 1 [1]) 0x101 1 statesLUCRS (theMsg 0x101 1 [1]) ∧ (theMsg 0x101 1 [1]).byte 0 = 1 ∧
    Taken (taken .linkup 0x102 6 [5, 0, 5, 0, 1, 0]) 0x102 6 statesLUCRS (theMsg 0x102 6 [5, 0, 5, 0, 1, 0]) ∧
    (theMsg 0x102 6 [5, 0, 5, 0, 1, 0]).field 2 2 + (theMsg 0x102 6 [5, 0, 5, 0, 1, 0]).field 4 2 ≤
      scopeUnits ((theMsg 0x102 6 [5, 0, 5, 0, 1, 0]).byte 0) := by
  unfold Taken; decide +kernel

theorem test_met_regs : (theMsg 0x9F0 8 [0, 0xD0, 0, 0, 13, 0, 0, 0]).field 0 4 % 4 = 0 ∧
    (theMsg 0x9F0 8 [0, 0xD0, 0, 0, 13, 0, 0, 0]).field 4 4 = 13 ∧ groupHas 9 (0xD000 + 4 * 12) = true ∧
    (taken .linkup 0x9F0 8 [0, 0xD0, 0, 0, 13, 0, 0, 0]).fw.cur = some (theMsg 0x9F0 8 [0, 0xD0, 0, 0, 13, 0, 0, 0]) := by decide +kernel

/-- An inline FIRST chunk of eight bytes. -/
def chunkArgs : List Byte := [2, 0, 0, 0, 8, 0, 0, 0, 0, 0, 0, 0, 0, 0, 0, 0, 0, 0, 0, 0, 0, 0, 0, 0]

theorem test_met_chunk : (theMsg 0x200 24 chunkArgs).hostForm = false ∧ (theMsg 0x200 24 chunkArgs).isFirst = true ∧
    (theMsg 0x200 24 chunkArgs).isLast = false ∧ (theMsg 0x200 24 chunkArgs).bytesField = 8 ∧
    (theMsg 0x200 24 chunkArgs).addrField = 0 ∧ (theMsg 0x200 24 chunkArgs).args.length = 24 ∧
    (taken .unconfigured 0x200 24 chunkArgs).heldByOther .cfg (theMsg 0x200 24 chunkArgs) = false ∧
    streamBad (decodeStream true ((bytesAt (theMsg 0x200 24 chunkArgs).args 16 8).map fun b => (b, false))) false = false ∧
    (decodeStream true ((bytesAt (theMsg 0x200 24 chunkArgs).args 16 8).map fun b => (b, false))).out.length < 8 := by decide +kernel

/-- A whole patch in one inline chunk, FIRST and LAST. -/
def patchArgs : List Byte := [6, 0, 0, 0, 16, 0, 0, 0, 0, 0, 0, 0, 0, 0, 0, 0] ++ oneBlock

theorem test_met_last_chunk : (theMsg 0xA00 32 patchArgs).isLast = true ∧ (theMsg 0xA00 32 patchArgs).isFirst = true ∧
    (theMsg 0xA00 32 patchArgs).addrField = 0 ∧ (theMsg 0xA00 32 patchArgs).bytesField = 16 ∧
    (theMsg 0xA00 32 patchArgs).args.length = 32 ∧
    streamBad (decodeStream true ((bytesAt (theMsg 0xA00 32 patchArgs).args 16 16).map fun b => (b, false))) true = false ∧
    (taken .safe 0xA00 32 patchArgs).imageBad .patch false true
      ((decodeStream true ((bytesAt (theMsg 0xA00 32 patchArgs).args 16 16).map fun b => (b, false))).out.map Prod.fst) = false := by
  decide +kernel

/-- The host's form, FIRST and LAST, for 8 bytes at address 0. -/
def hostArgs : List Byte := [7, 0, 0, 0, 8, 0, 0, 0, 0, 0, 0, 0, 0, 0, 0, 0]

theorem test_met_host_chunk : (theMsg 0x200 16 hostArgs).hostForm = true ∧ (theMsg 0x200 16 hostArgs).isFirst = true ∧
    (theMsg 0x200 16 hostArgs).bytesField = 8 ∧ (theMsg 0x200 16 hostArgs).args.length = 16 ∧
    stampClass (theMsg 0x200 16 hostArgs).stamp = 1 := by decide +kernel

/-- A later chunk of one byte at offset 9, QUIET, and a configuration transfer of one byte by the same sender. -/
def laterMsg : Msg := ⟨15, 0x10000000, 0x200, 0x1234, 17, 0xFFF, true, [0, 0, 0, 0, 1, 0, 0, 0, 9, 0, 0, 0, 0, 0, 0, 0, 0]⟩
def midTransfer : State :=
  let s := taken .unconfigured 0x200 17 []
  { s with fw := { s.fw with cur := some laterMsg, cfg := some { owner := 0x10000070, stream := [0] } } }

theorem test_met_later : laterMsg.hostForm = false ∧ laterMsg.isFirst = false ∧ laterMsg.byte 0 < 8 ∧ laterMsg.bytesField = 1 ∧
    laterMsg.args.length = 17 ∧ sameSender 0x10000070 laterMsg.stamp = true ∧ laterMsg.addrField ≠ 1 ∧
    (midTransfer.xfer .cfg).map (·.stream) = some [0] ∧ (midTransfer.failXfer .cfg laterMsg 5).hasFailed laterMsg = true ∧
    ((midTransfer.failXfer .cfg laterMsg 5).xfer .cfg).isNone = true := by decide +kernel

/-- A configuration image of no section: every field takes its default. -/
def emptyImage : List Byte := [0x53, 0x59, 0x43, 0x46, 1, 0, 0, 0, 16, 0, 0, 0, 0, 0, 0, 0]

theorem test_met_commit : imageFault emptyImage = none ∧ Taken (taken .unconfigured 0x201 8 []) 0x201 8 statesUC (theMsg 0x201 8 []) ∧
    Taken (taken .configured 0x203 0 []) 0x203 0 statesUC (theMsg 0x203 0 []) ∧
    Taken (taken .safe 0xA01 8 []) 0xA01 8 statesUS (theMsg 0xA01 8 []) := by
  unfold Taken; decide +kernel

/-- The defaults of all blocks are those of block 0. -/
theorem block_default (b : Nat) (h : b < 128) : State.reset.record (512 + b) = State.reset.record 512 := by
  have e : cfgDefault (512 + b) = cfgDefault 512 := by
    unfold cfgDefault
    repeat rw [if_neg (by omega)]
    rw [if_pos (by omega)]
    rfl
  have r : State.reset.cfg = [] := rfl
  rw [State.record, State.record, r, e, Tab.get, Tab.get]

theorem mask_default : ((List.range 256).all fun i => decide (signed 18 (State.reset.cfgF (C.maskLower 0 i)) ≤
    signed 18 (State.reset.cfgF (C.maskUpper 0 i)))) = true := by decide +kernel

theorem block_masks : (List.range 128).all (fun b => (List.range 256).all fun i =>
    decide (signed 18 (State.reset.cfgF (C.maskLower b i)) ≤ signed 18 (State.reset.cfgF (C.maskUpper b i)))) = true := by
  refine List.all_eq_true.2 fun b hb => ?_
  have h := block_default b (List.mem_range.1 hb)
  have f (lo w : Nat) : State.reset.cfgF ⟨512 + b, lo, w⟩ = State.reset.cfgF ⟨512 + 0, lo, w⟩ := by simp only [State.cfgF, h]
  simp only [C.maskLower, C.maskUpper, f]
  exact mask_default

theorem default_ranges : (fieldRanges.all fun e => State.reset.inRange e.1 e.2.1 e.2.2) = true := by decide +kernel

theorem test_met_commit_fields : (State.reset.loadFields emptyImage).fieldsOk = true := by
  have e : State.reset.loadFields emptyImage = State.reset := by decide +kernel
  rw [e, State.fieldsOk, default_ranges, block_masks]
  decide +kernel

theorem test_met_acq : Taken (taken .configured 0x300 0 []) 0x300 0 [.configured] (theMsg 0x300 0 []) ∧
    Taken (taken .running 0x301 0 []) 0x301 0 [.running] (theMsg 0x301 0 []) ∧
    Taken (taken .running 0x302 16 []) 0x302 16 statesCR (theMsg 0x302 16 []) ∧
    Taken (taken .running 0x303 16 [0xFF, 7, 1, 0]) 0x303 16 statesCR (theMsg 0x303 16 [0xFF, 7, 1, 0]) ∧
    (theMsg 0x303 16 [0xFF, 7, 1, 0]).field 0 2 + (theMsg 0x303 16 [0xFF, 7, 1, 0]).field 2 2 = 2048 ∧
    Taken (taken .running 0x305 16 [9]) 0x305 16 [.running] (theMsg 0x305 16 [9]) ∧
    (taken .running 0x301 0 []).node.stopping = false ∧ (taken .running 0x305 16 [9]).trig.pending.length < 16 := by
  unfold Taken; decide +kernel

theorem test_met_masks : (theMsg 0x304 248 [127, 0, 255, 30]).byte 3 = 30 ∧ 8 + 8 * 30 ≤ (theMsg 0x304 248 [127, 0, 255, 30]).length ∧
    (∀ k, k < 30 → signed 18 (nget ((theMsg 0x304 248 [127, 0, 255, 30]).field (8 + 8 * k) 8) 0 18) ≤
      signed 18 (nget ((theMsg 0x304 248 [127, 0, 255, 30]).field (8 + 8 * k) 8) 32 18)) ∧
    ((taken .configured 0 0 []).setF (R.acqState 127) 1).getF (R.acqState 127) = 1 := by decide +kernel

theorem test_met_mask : (theMsg 0x304 16 [127, 0, 255, 1]).field 0 2 = 127 ∧ 8 + 8 * (theMsg 0x304 16 [127, 0, 255, 1]).byte 3 ≤ 16 ∧
    (taken .configured 0x304 16 [127, 0, 255, 1]).getF (R.acqState 127) = 0 := by decide +kernel

/-- A node that stops, with every record delivered. -/
def stopped : State :=
  { State.reset with node := { state := .running, stopping := true }, fw := { waits := [(theMsg 0x301 0 [], .acqStop)] } }

theorem test_met_stopped : stopped.acqDrained = true ∧ stopped.windowShut = true ∧ stopped.fwRuns = true ∧ stopped.running = true ∧
    (stopped.fw.waits.find? fun e => e.2 = .acqStop) = some (theMsg 0x301 0 [], .acqStop) := by decide +kernel

theorem test_met_tb : Taken (taken .configured 0x400 1 [0x80]) 0x400 1 statesCR (theMsg 0x400 1 [0x80]) ∧
    ((taken .configured 0x400 1 [0x80]).setF (R.tbState 7) 5).regionState 7 = 5 ∧ (theMsg 0x400 1 [0x80]).byte 0 / 2 ^ 7 % 2 = 1 ∧
    Taken (taken .running 0x401 4 [0xFF, 7, 1, 0]) 0x401 4 statesCR (theMsg 0x401 4 [0xFF, 7, 1, 0]) ∧
    Taken (taken .running 0x402 2 [0xFF, 7]) 0x402 2 statesCR (theMsg 0x402 2 [0xFF, 7]) ∧
    Taken (taken .running 0x403 136 [0xFF, 7]) 0x403 136 statesCR (theMsg 0x403 136 [0xFF, 7]) ∧
    (theMsg 0x403 136 [0xFF, 7]).field 0 2 = 2047 := by
  unfold Taken; decide +kernel

theorem test_met_dir : Taken (taken .configured 0x500 0 []) 0x500 0 statesCR (theMsg 0x500 0 []) ∧
    ((taken .configured 0x502 0 []).setF R.shadowState 1).getF R.shadowState = 1 ∧
    ((taken .configured 0x503 4 [1]).setF R.shadowState 2).getF R.shadowState = 2 ∧
    BitVec.ofNat 32 ((theMsg 0x503 4 [1]).field 0 4) ≠ frameOf 0 ∧
    ((taken .configured 0x503 4 [1]).setF R.swapPending 1).getF R.swapPending = 1 ∧
    reached 0x20000 ((({ taken .configured 0 0 [] with time := { coarse := 0x20000 } } : State).setF R.swapPending 1).swapTick) = true ∧
    Taken (taken .running 0x504 16 [0xFF, 0xFF, 0x1F, 0, 1]) 0x504 16 statesCR (theMsg 0x504 16 [0xFF, 0xFF, 0x1F, 0, 1]) ∧
    (theMsg 0x504 16 [0xFF, 0xFF, 0x1F, 0, 1]).byte 4 % 4 = 1 ∧
    Taken (taken .running 0x505 8 [0xE2, 0xFF, 0x1F, 0, 1, 30]) 0x505 8 statesCR (theMsg 0x505 8 [0xE2, 0xFF, 0x1F, 0, 1, 30]) ∧
    (theMsg 0x505 8 [0xE2, 0xFF, 0x1F, 0, 1, 30]).field 0 4 + (theMsg 0x505 8 [0xE2, 0xFF, 0x1F, 0, 1, 30]).byte 5 = 2 ^ 21 := by
  unfold Taken; decide +kernel

theorem test_met_entries : (theMsg 0x505 8 [0xFF, 0xFF, 0x1F, 0, 1, 1]).field 0 4 + (theMsg 0x505 8 [0xFF, 0xFF, 0x1F, 0, 1, 1]).byte 5 = 2 ^ 21 ∧
    (theMsg 0x504 16 [0, 0, 0, 0, 3]).byte 4 % 4 = 3 ∧ (theMsg 0x504 16 [0, 0, 0, 0, 4]).byte 4 % 4 = 0 ∧
    reached 0 ((taken .configured 0 0 []).swapTick) = false := by decide +kernel

theorem test_met_sound : (taken .running 0 0 []).soundCw 1 (dirAddr true 0x1FFFFF) ∧ (taken .running 0 0 []).soundCw 2 1048575 := by
  unfold State.soundCw; decide +kernel

/-- A node of a role with a message taken, from a stamp; the pins are sampled already. -/
def takenBy (straps : BitVec 80) (stamp : W32) (st : NodeState) (op : BitVec 16) (n : Nat) (args : List Byte) : State :=
  { (State.reset.setTri 1 straps) with node := { state := st, routed := true }, fw := { cur := some ⟨15, stamp, op, 0x1234, n, 0xFFF, false, args⟩ } }

/-- A child pair on south ports 0 and 15, the arbiter granting A. -/
def withPair (s : State) : State :=
  let a : CfgA := ⟨1, 1, true, false, 8, 0, 0, 3⟩
  let s := ((((s.setPort 0 { farA := some a }).setPort 15 { farA := some { a with pairPos := true, nodeId := 9 } }).setF (R.arbGrant 0) 0).setF (R.arbGrant 15) 0)
  { s with pair := { s.pair with mates := [(0, some 15), (15, some 0)] } }

/-- Enumeration at the root with one more child to ask. -/
def asking : State := { takenBy 2 0 .configured 0 0 [] with
  fw := { enum := { work := [⟨0, 15, 0⟩], ask := some (⟨0, 0, 0⟩, ⟨0, 3, 0⟩), next := 4092 } }, ticks := 16000000 }

theorem test_met_enum : asking.fw.enum.work = [⟨0, 15, 0⟩] ∧ asking.fw.enum.next + 4 ≤ 4096 ∧ asking.fwRuns = true ∧
    asking.fw.enum.ask = some (⟨0, 0, 0⟩, ⟨0, 3, 0⟩) ∧ (3 : BitVec 16).toNat = leAt [0, 0, 3, 0, 0, 0, 0, 0] 2 2 ∧
    jobsOf 0 0x8003 0xC0000002 = [⟨0, 0, 1⟩, ⟨0, 15, 2⟩, ⟨0, 1, 0⟩] := by
  decide +kernel

theorem test_met_tree : (takenBy 2 0x10000000 .configured 0x600 0 []).isRoot = true ∧ stampClass 0x10000000 = 1 ∧
    (takenBy 2 0x10000000 .configured 0x600 0 []).paired = false ∧ (takenBy 2 0x10000000 .configured 0x600 0 []).southMask = 0 ∧
    ({ takenBy 2 0x10000000 .configured 0x600 0 [] with node := { state := .configured, nodeId := 0 } } : State).isRoot = true ∧
    ((takenBy 2 0x10000000 .configured 0x600 0 []).setF (R.lstate 15) 5).southMask = 0x8000 ∧
    stampClass 0x20000000 = 2 ∧ (takenBy 1 0x20000000 .linkup 0x601 6 [8, 0, 4, 0, 9, 0]).pair.ownImage = none ∧
    ((takenBy 1 0x20000000 .linkup 0x602 8 [15]).setF (R.lstate 15) 5).portUp 15 = true ∧
    (withPair (takenBy 1 0 .configured 0x604 16 [1, 15, 0, 0, 0, 0, 0, 0, 2])).pairMate 15 = some 0 ∧
    (withPair (takenBy 1 0 .configured 0x604 16 [1, 15, 0, 0, 0, 0, 0, 0, 2])).getF (R.arbGrant 15) ≠ 2 ∧
    (takenBy 6 0 .configured 0x605 0 []).paired = true ∧
    ((takenBy 1 0 .configured 0x606 4 [0, 0, 1, 0]).setCfg C.portEn 0x10000).portEnabled 16 = true ∧
    ({ takenBy 1 0 .linkup 0 0 [] with fw := { relay := some ⟨15, 7, 0⟩, waits := [(theMsg 0x602 8 [15], .relay)] } } : State).fwRuns = true := by
  decide +kernel

theorem test_met_memcmd : Taken (taken .safe 0x700 4 [2, 1, 3, 0]) 0x700 4 statesUCRS (theMsg 0x700 4 [2, 1, 3, 0]) ∧
    retireNames 2 1 3 = true ∧ retireNames 2 1 4 = false ∧ retireNames 0 0 12287 = true ∧ retireNames 0 0 12288 = false ∧
    (taken .safe 0x700 4 [2, 1, 3, 0]).alreadyRetired 2 1 3 = false ∧ (taken .safe 0x700 4 [2, 1, 3, 0]).prot.pages.length < 256 ∧
    ({ taken .safe 0x700 4 [2, 1, 3, 0] with prot := { banks := [(2, 3)] } } : State).alreadyRetired 2 1 3 = true ∧
    (List.replicate 256 (0, 0)).length = 256 ∧
    Taken (taken .linkup 0x701 2 [255, 15]) 0x701 2 statesLUCRS (theMsg 0x701 2 [255, 15]) ∧
    Taken (taken .linkup 0x702 12 [2, 0, 0, 0, 0, 0, 0, 0, 15]) 0x702 12 statesLUCRS (theMsg 0x702 12 [2, 0, 0, 0, 0, 0, 0, 0, 15]) ∧
    (theMsg 0x702 12 [2, 0, 0, 0, 0, 0, 0, 0, 15]).byte 8 = 15 := by
  unfold Taken; decide +kernel

/-- A node from BOOT on. -/
def booted : State := { State.reset with node := { state := .boot } }

theorem test_met_scrub : booted.memOn = true ∧ booted.scrubFrom 4 (booted.mem 4).scrubAt = some 0 ∧ booted.scrubSkips 4 0 = false ∧
    (booted.mem 4).buffer = [] ∧ classify (booted.raw 4 0 ^^^ 0) = .clean ∧ classify (booted.raw 4 0 ^^^ 1) = .ce 0 1 ∧
    classify (booted.raw 4 0 ^^^ poisonCw) = .poison ∧ classify (booted.raw 4 0 ^^^ (poisonCw ^^^ 1)) = .poisonCe 0 1 ∧
    classify (booted.raw 4 0 ^^^ 0x010101) = .ue ∧ 0 ∉ (booted.mem 4).ueSeen := by decide +kernel

/-- A merge buffer with one entry of four bytes at code word 5 of the mailbox memory. -/
def merging4 : State := booted.setMem 4 { buffer := [⟨5, 0x000F, 0xAABBCCDD⟩], ueSeen := [7], cells := [(7, 0x010101)] }

theorem test_met_merge : (merging4.mem 4).buffer = [⟨5, 0x000F, 0xAABBCCDD⟩] ∧ merging4.unitRetired 4 0 = false ∧
    7 ∈ (merging4.mem 4).ueSeen ∧ classify (merging4.raw 4 7) = .ue := by decide +kernel

theorem test_met_kept : ({ booted with ticks := 1600000 } : State).cfgF (C.leakPeriod 5) * 16000 = 1600000 ∧ (booted.mem 5).leakAt = 0 ∧
    (booted.mem 5).overdue = false ∧ ({ booted with ticks := 160000001 } : State).cfgF (C.scrubLapMax 5) * 160000 < 160000001 - 0 := by
  decide +kernel

theorem test_met_inv_booted : Inv booted := by constructor <;> decide

theorem test_met_loopcmd : Taken (taken .running 0x800 8 [31, 0, 99, 0, 0, 0, 0xFE, 0xFF]) 0x800 8 statesCR
      (theMsg 0x800 8 [31, 0, 99, 0, 0, 0, 0xFE, 0xFF]) ∧
    signed 32 ((theMsg 0x800 8 [31, 0, 99, 0, 0, 0, 0xFE, 0xFF]).field 4 4) = -131072 ∧
    Taken (taken .running 0x801 8 [0, 0, 0, 0x80, 0, 0, 0, 0x80]) 0x801 8 statesCR (theMsg 0x801 8 [0, 0, 0, 0x80, 0, 0, 0, 0x80]) ∧
    Taken (taken .running 0x802 20 [31]) 0x802 20 statesCR (theMsg 0x802 20 [31]) ∧
    Taken (taken .running 0x803 52 [7]) 0x803 52 statesCR (theMsg 0x803 52 [7]) ∧
    Taken (taken .running 0x804 1 [1]) 0x804 1 statesCR (theMsg 0x804 1 [1]) := by
  unfold Taken; decide +kernel

/-- A running node at tick 64 with region 0 in ACQUIRE: timebase loop 0 is due. -/
def paced : State := ({ State.reset with node := { state := .running }, time := { coarse := 64 } } : State).setF (R.tbState 0) 1

theorem test_met_pace : paced.paceDue = true ∧ paced.operating = true ∧ paced.test.logic ≠ some 6 ∧ 0 ∈ paced.dueLoops ∧
    (paced.measure 0).isSome = true ∧ paced.clampLow 0 ≤ paced.clampHigh 0 ∧ 8 ∉ paced.dueLoops ∧
    ({ paced with time := { coarse := 65 } } : State).paceDue = false ∧ booted.paceDue = true ∧ booted.operating = false ∧
    booted.coarseRuns = false := by decide +kernel

/-- A node in a state whose converter 0 runs a pass and takes a step next. -/
def passAt (st : NodeState) (k : Nat) : State :=
  ({ State.reset with node := { state := st } } : State).setConv 0 { started := true, lastStep := k }

theorem test_met_pass : (passAt .linkup 33).nextStep 0 = none ∧ (passAt .linkup 33).diagOwed 0 = false ∧ (passAt .linkup 0).nextStep 0 = some 0 ∧
    ((passAt .linkup 0).setConv 1 { refTaken := true }).nextStep 0 = some 0 ∧
    (((passAt .linkup 0).setConv 1 { refTaken := true }).conv (1 - 0)).refTaken = true ∧
    (passAt .linkup 6).nextStep 0 = some (1 + 5) ∧
    ((((passAt .running 17).setCfg (C.entryEn 0 15) 1).setCfg (C.entrySrc 0 15) 15).nextStep 0) = some (17 + 15) ∧
    (((passAt .running 17).setCfg (C.entryEn 0 15) 1).setCfg (C.entrySrc 0 15) 15).entryAuxin 0 15 = true := by decide +kernel

/-- As `passAt`, with sensor port 7 on entry 15. -/
def portNext : State := ((passAt .running 17).setCfg (C.entryEn 0 15) 1).setCfg (C.entrySrc 0 15) 23

theorem test_met_port : portNext.nextStep 0 = some (17 + 15) ∧ portNext.diagOwed 0 = false ∧ portNext.entryAuxin 0 15 = false ∧
    portNext.cfgF (C.entrySrc 0 15) - 16 = 7 ∧ portNext.portEntries 7 = 1 ∧
    suspectOf (portNext.cfgF (C.senseMin 7)) ⟨0, 1600, 0, 0⟩ = false ∧ suspectOf (portNext.cfgF (C.senseMin 7)) ⟨0, 1599, 0, 0⟩ = true ∧
    ((portNext.setSxp 7 { diagDue := true }).sxp 7).diagDue = true ∧ portNext.stepEnabled 0 (17 + 15) = true ∧
    openLeadsOf ⟨16001, 16000, 0, 0, 0, 0⟩ = 1 ∧ ((portNext.setSxp 7 { next := some (160000, 4000) }).sxp 7).next = some (160000, 4000) := by
  decide +kernel

/-- A root with its link up, firmware running. -/
def rooted : State :=
  { (State.reset.setTri 1 2) with node := { state := .unconfigured, nodeId := 0, incarnation := 0x3C }, host := { linkUp := true } }

/-- A message waits at a port. -/
def withCtl (s : State) (p : Nat) (m : CtlMsg) : State := s.setPort p { ctlIn := [m] }

theorem test_met_locks : rooted.senderOk .host = true ∧ rooted.senderOk .ownFirmware = true ∧ rooted.lock 15 = 0 ∧
    (rooted.setLock 15 7).lock 15 = 7 ∧ rooted.barOpen = true ∧
    ((withCtl rooted 15 (lockMsg 0x04 0xFFF 0x30020710 15 0)).takeCtl 15 0x04).isSome = true ∧
    rooted.isHere (lockMsg 0x04 0xFFF 0x30020710 15 0) = true ∧ rooted.isHere (lockMsg 0x05 0 0x30020710 15 9) = true ∧
    ((withCtl rooted 0 (lockMsg 0x05 0 0x30020710 15 9)).takeCtl 0 0x05).isSome = true := by decide +kernel

theorem test_met_abort : rooted.fwRuns = true ∧ (rooted.setF (R.mboxState 15) 1).getF (R.mboxState 15) = 1 ∧
    (rooted.setF (R.mboxState 15) 2).getF (R.mboxState 15) = 2 ∧ rooted.getF (R.mboxState 15) = 0 ∧
    ({ rooted with fw := { restart := some 3 } } : State).fwRuns = false ∧ ({ rooted with fw := { restart := some 3 } } : State).barOpen = true ∧
    ((withCtl rooted 0 (doorbellMsg 0xFFF 0 31 0)).takeCtl 0 0x03).isSome = true ∧
    wget ((doorbellMsg 0xFFF 0 31 0).payload.headD 0) 0 5 = 16 + 15 ∧ wget ((doorbellMsg 0xFFF 0 31 0).payload.headD 0) 5 2 = 0 := by
  decide +kernel

/-- NODE_IDENTIFY posted in mailbox 15 of the root. -/
def posted : State := ((rooted.putBytes 4 0xF00 [0, 1, 7, 0, 0, 0, 0xFF, 0x0F]).drainFor 4 0xF0).postIn 15 0x100003C0 none

theorem test_met_mail : rooted.accessOk ⟨false, true, 0x100 * 15 + 252, 4, false⟩ = true ∧ rooted.accessOk ⟨false, false, 0x1000 + 0x100 * 15 + 252, 4, false⟩ = true ∧
    posted.getF (R.mboxState 15) ≠ 0 ∧ posted.mbox.inDoorbell.getLsbD 15 = true ∧ rooted.mbox.inDoorbell.getLsbD 15 = false ∧
    ((withCtl rooted 0 ⟨0x01, 0xFFF, 5, [0x8F, 0], []⟩).takeCtl 0 0x01).isSome = true ∧
    rooted.isHere ⟨0x01, 0xFFF, 5, [0x8F, 0], []⟩ = true ∧
    ({ rooted with node := { rooted.node with routes := [(3, [(5, 9)])] } } : State).route 7 = .port 3 ∧ rooted.route 9 = .noRoute ∧
    rooted.accessOk ⟨false, true, 0x100 * 15 + 252, 8, false⟩ = false ∧ rooted.soundCw 4 0x1FF ∧
    rooted.isHere ⟨0x01, 7, 5, [0x8F, 0], []⟩ = false ∧ (rooted.readRam [(131071, poisonCw)]).1 = true := by
  unfold State.soundCw; decide +kernel

theorem test_met_take : posted.fwRuns = true ∧ posted.fw.cur = none ∧ posted.fw.waits = [] ∧ posted.mbox.inDoorbell >>> 16 = 0 ∧
    posted.nextPosted = some 15 ∧
    ((posted.markTaken 15).readMsg 15).1 = some (⟨15, 0x100003C0, 0x100, 7, 0, 0xFFF, false, []⟩, []) ∧
    posted.route 0xFFF = .own ∧ knownOpcode 0x100 = true ∧ knownOpcode 0x103 = false := by decide +kernel

/-- A message of 16 argument bytes for node 7 waits in mailbox 15, the second half of its argument poisoned. -/
def postedFar : State :=
  ((({ rooted with node := { rooted.node with routes := [(3, [(5, 9)])] } }).putBytes 4 0xF00
    ([0x00, 0x06, 7, 0, 16, 0, 7, 0] ++ List.replicate 16 1)).drainFor 4 0xF0).setRaw 4 0xF1 poisonCw |>.postIn 15 0x100003C0 none

theorem test_met_take_far : postedFar.fwRuns = true ∧ postedFar.nextPosted = some 15 ∧
    (((postedFar.markTaken 15).readMsg 15).1.map Prod.snd) = some [4] ∧
    (((postedFar.markTaken 15).readMsg 15).1.map fun e => e.1.target) = some 7 ∧
    ((postedFar.markTaken 15).readMsg 15).2.route 7 = .port 3 ∧
    ((postedFar.markTaken 15).readMsg 15).2.route 12 = .noRoute ∧
    argSize ⟨15, 0x100003C0, 0x603, 7, 192, 12, false, []⟩ = 192 ∧ argSize ⟨15, 0x100003C0, 0x304, 7, 16, 12, false, [0, 0, 0, 30]⟩ = 248 := by
  decide +kernel

def aHop : Hop := { mbox := 3, port := 0, stamp := 0x100003C0, bytes := [1, 2, 3] }
def chunkMsg : Msg := ⟨15, 0x100003C0, 0xA00, 7, 16, 0xFFF, false, leBytes 4 7 ++ leBytes 4 8192 ++ leBytes 8 4000⟩

theorem test_met_hops :
    let a := { withCtl rooted 0 (lockMsg 0x06 0xFFF 0x30020710 3 0) with mbox := { hops := [aHop] } }
    let b := { withCtl rooted 0 ⟨0x02, 0xFFF, 0, [0x000003C0 + 8 * 2 ^ 36, 7 * 2 ^ 16], []⟩ with
      fw := { relay := some ⟨0, 7, 0⟩, waits := [(chunkMsg, .relay)] } }
    (a.takeCtl 0 0x06).isSome = true ∧ a.mbox.hops = [aHop] ∧ aHop.st = .lockWait ∧
    wget ((lockMsg 0x06 0xFFF 0x30020710 3 0).payload.headD 0) 32 32 = 0 ∧
    (b.takeCtl 0 0x02).isSome = true ∧ fget (BitVec.ofNat 32 (wget (0x000003C0 + 8 * 2 ^ 36 : Word) 0 32)) 4 8 = 0x3C ∧
    leAt (bytesAt (wordsBytes [(7 * 2 ^ 16 : Word)]) 0 (wget (0x000003C0 + 8 * 2 ^ 36 : Word) 36 9)) 2 2 = 7 := by decide +kernel

theorem test_met_host_read :
    let a := { rooted with fw := { waits := [(chunkMsg, .hostRead 0 [] [(2, 0)])], patch := some { owner := 0x100003C0 } } }
    a.fwRuns = true ∧ a.route chunkMsg.target.toNat = .own ∧ 0 + [0, 0].length < chunkMsg.bytesField ∧ requestsLeft 2 [(2, 0)] = [] ∧ chunkMsg.mbox = (15 : Fin 16).val ∧
    streamBad (decodeStream true ([0, 0].map fun b => (b, false))) false = false := by decide +kernel

theorem test_met_bist : Taken (taken .safe 0x900 1 [8]) 0x900 1 statesUS (theMsg 0x900 1 [8]) ∧ (theMsg 0x900 1 [8]).byte 0 = 8 ∧
    (takenBy 2 0 .safe 0x900 1 [5]).isRoot = true ∧
    Taken (taken .safe 0x901 2 [2, 3]) 0x901 2 statesUCRS (theMsg 0x901 2 [2, 3]) ∧ (taken .safe 0x901 2 [2, 3]).test.mem = none ∧
    (taken .safe 0x901 2 [2, 3]).bistAccepts 2 3 = true ∧ (taken .safe 0x901 2 [2, 3]).bistAccepts 2 4 = false ∧
    (taken .running 0x901 2 [1, 0]).bistAccepts 1 0 = false ∧ (taken .running 0x901 2 [0, 11]).bistAccepts 0 11 = true := by
  unfold Taken; decide +kernel

/-- A configured member of a pair at a concentrator, not active. -/
def standby : State := { (State.reset.setTri 1 5) with node := { state := .configured, routed := true } }

theorem test_met_idle : standby.operating = true ∧ standby.paired = true ∧ standby.getF R.active = 0 ∧ standby.cfgF C.bistIdleEn = 1 ∧
    standby.test.mem = none ∧ standby.bankEmpty 11 = true ∧ booted.node.state ≠ .off ∧ State.reset.node.state = .off := by decide +kernel

/-- The root with bus mastering and MSI-X on, ring 0 enabled at 2^32 with 64 KiB and room for 2,048 bytes, an item of 16 words begun. -/
def ringed : State :=
  let s := { rooted with host := { rooted.host with busMaster := true, control := { msix := true, ptm := true } } }
  let s := (((s.setBar0 (ringOff 0 0x10) 0x41).setBar0 (ringOff 0 0x14) 0xFFC0).setBar0 (ringOff 0 0x18) 0x800).setBar0 (ringOff 0 4) 1
  (s.setItems [{ id := 5, queue := 0, cls := .streaming, slots := [], complete := true, length := 10 }]).setReader .dma
    { item := some 5, words := List.replicate 16 ⟨3, false⟩ }

theorem test_met_ring : ringed.barOpen = true ∧ ringed.hostOpen = true ∧ ringed.ringEn 0 = true ∧ ringed.ringEn 7 = false ∧
    ringed.tailBad 0 0x7C0 = true ∧ ringed.tailBad 0 0x840 = false ∧ ringed.tailBad 0 0x801 = true ∧ ringed.tailBad 0 0xFFC0 = false ∧
    ringed.ringFree 0 = 0x800 ∧ (ringed.reader .dma).ring = 0 ∧ 8 * (ringed.reader .dma).words.length ≤ 0x800 ∧
    ringed.ringLoose 0 = false ∧ ringed.ringAlone 0 = true ∧ (ringed.item 5).isSome = true ∧
    (∀ x ∈ ringed.pool.items, x.holder ≠ some 5) ∧ ringed.ringBusy 0 = false ∧ (ringed.setBusy 0 true).ringBusy 0 = true ∧
    (ringed.setBar0 (ringOff 0 0x18) 0).ringFree 0 = 0 ∧ (ringed.setBar0 (ringOff 0 0x18) 0).ringLoose 0 = false := by decide +kernel

theorem test_met_signal :
    let s := { ringed with host := { ringed.host with wbDue := [(0, true)], holdPending := [(7, true)] } }
    Tab.get false s.host.wbDue 0 = true ∧ s.ringWild 0 = false ∧ s.ringClash 0 true (s.ringWb 0) = false ∧
    Tab.get false s.host.holdPending 7 = true ∧ Tab.get none s.host.lastSignal 7 = none ∧
    s.isRoot = true ∧ s.vecMasked 7 = true ∧ (s.setBar0 0x807C 0).vecMasked 7 = false := by decide +kernel

theorem test_met_access : ringed.accessOk ⟨false, true, 0x2004, 4, false⟩ = true ∧ ringed.accessOk ⟨false, true, 0x2004, 8, false⟩ = false ∧
    ringed.accessOk ⟨true, false, 0xFFFFFC, 8, false⟩ = false ∧ ringed.accessOk ⟨true, false, 0x7FFFF8, 8, false⟩ = true ∧
    ringed.accessOk ⟨true, false, 0x7FFFF8, 128, false⟩ = true ∧ ringed.accessOk ⟨true, false, 0x7FFFF8, 132, false⟩ = false ∧
    (ringed.barData ⟨true, false, 0x7FFFF8, 8, false⟩).isSome = true ∧ ((0x80DC : BitVec 16)).toNat % 16 = 12 ∧
    (0x7FFFFC : BitVec 23).toNat + 4 * 1 ≤ 0x800000 ∧ 4 * 32 ≤ ringed.maxPayload ∧ ringed.getF R.diagMem < 3 ∧
    (ringed.setF R.diagMem 3).getF R.diagMem = 3 ∧ ringed.host.control.ptm = true ∧
    (ringed.setF R.epochLoaded 1).loaded = true ∧ ringed.loaded = false := by decide +kernel

/-- A port in a step of training with lane locks. -/
def training (p st : Nat) (lock : BitVec 2) : State := ((State.reset.setTri 1 1).setF (R.lstate p) st).setPort p { lock := lock }

theorem test_met_train : (training 18 2 0).getF (R.lstate 18) = 2 ∧ (training 0 6 0).getF (R.lstate 0) = 6 ∧
    ((training 16 5 2).port 16).lock.getLsbD 1 = true ∧ ((training 16 5 2).setF (R.rxLanes 16) 2).getF (R.rxLanes 16) / 2 ^ 1 % 2 = 1 ∧
    ((training 16 5 2).setF (R.rxLanes 16) 1).getF (R.rxLanes 16) / 2 ^ 1 % 2 = 0 ∧ ((training 16 4 2).setF (R.rxLanes 16) 2).getF (R.lstate 16) = 4 ∧
    ((training 16 2 3).setPort 16 { lock := 3, ready := 1, waiting := true }).getF (R.lstate 16) = 2 ∧
    (1 : BitVec 2) ||| (1 <<< 1 : BitVec 2) = 3 ∧
    (training 16 4 0).validPair 16 ⟨0, 1, false, false, 0, 0, 0, 3⟩ = true ∧ (training 16 4 0).validPair 16 ⟨1, 1, false, false, 0, 0, 0, 3⟩ = false ∧
    (training 16 1 0).getF (R.lstate 16) = 1 ∧ ((training 16 1 0).port 16).lock = 0 ∧ ((training 16 1 0).setF (R.rate 16) 3).getF (R.rate 16) = 3 := by
  decide +kernel

/-- An UP north port with a message to send, credit, and one packet unacknowledged. -/
def linked : State :=
  ((State.reset.setTri 1 1).setF (R.lstate 16) 5).setPort 16
    { ctlQueue := [lockMsg 0x04 0xFFF 0 3 0],
      ctl := { credit := some 8, txSeq := 1, unacked := [{ seq := 0, first := true, last := true, words := [⟨1, false⟩], item := none }] } }

def goodPacket (seq : BitVec 16) (load : List Word) : Packet :=
  let head := BitVec.ofNat 64 (2 ^ 60 + 2 ^ 59 + seq.toNat * 2 ^ 43 + (load.length - 1) * 2 ^ 37 + 2 ^ 36 + 2 ^ 35)
  { framed := true, control := true, seq := seq, lenM1 := BitVec.ofNat 6 (load.length - 1), first := true, last := true, poisonMap := 0,
    payload := load, crc := crcWords (head :: load) }

theorem test_met_packet : linked.portUp 16 = true ∧ (linked.port 16).ctl.replay = [] ∧ (linked.port 16).ctl.mayBegin 1 = true ∧
    (linked.port 16).ctl.unacked.length < 16 ∧ linked.portUp 17 = false ∧
    packetIntact (goodPacket 0 [(lockMsg 0x04 0xFFF 0 3 0).header, 3]) = true ∧
    ctlAllowed 16 (parseCtl [(lockMsg 0x04 0xFFF 0 3 0).header, 3]).mtype = true ∧ ctlAllowed 16 0x11 = false ∧
    packetIntact { goodPacket 0 [1] with framed := false } = false ∧ packetIntact (goodPacket 5 [1]) = true ∧ ((0 : BitVec 16) - 5).toNat > 32768 ∧
    (parseCtl [(hopMsg aHop).header, 3]).mtype = 1 ∧ (linked.chan 16 true).rxSeq = 0 ∧
    ((0 : BitVec 16) - 0x8000).toNat ≤ 32768 ∧ (0x8000 : BitVec 16) ≠ 0 := by decide +kernel

/-- The same port with an item in hand, its first word sent. -/
def sending : State :=
  (({ linked with node := { state := .running } } : State).setPort 16 { data := { credit := some 8 } }).setReader .n0
    { item := some 3, pos := 1, words := [⟨0, false⟩, ⟨1, true⟩, ⟨2, false⟩] }

theorem test_met_data : sending.portUp 16 = true ∧ portReader 16 = some .n0 ∧ (sending.port 16).ctl.replay = [] ∧ (sending.port 16).ctlQueue = [] ∧
    (sending.chan 16 false).replay = [] ∧ sending.transfersWait = false ∧ (sending.reader .n0).item = some 3 ∧ (sending.reader .n0).pos ≠ 0 ∧
    (takePacket 64 ((sending.reader .n0).words.drop 1)).length = 2 ∧ (sending.chan 16 false).mayBegin 2 = true ∧
    (linked.setF (R.lstate 18) 5).portUp 18 = true ∧
    ((linked.arrivalDrop 18 ⟨0, false⟩).isSome = true) ∧ ((sending.arrivalDrop 18 ⟨0, false⟩).isSome = false) ∧
    ((linked.port 18).rxDrop || !(linked.port 18).rxOpen) = true := by decide +kernel

theorem test_met_ack : wget (linkCtl 0 true 1 9) 60 4 = 3 ∧ linkCrcOk (linkCtl 0 true 1 9) = true ∧ wget (linkCtl 0 true 1 9) 58 2 = 0 ∧
    wget (linkCtl 1 true 0 9) 58 2 = 1 ∧ linkCrcOk (linkCtl 0 true 1 9 ^^^ 1) = false ∧ wget (linkCtl 0 true 1 9 ^^^ 1) 60 4 = 3 ∧
    (linked.chan 16 true).unacked ≠ [] ∧ (∀ k ∈ (linked.chan 16 true).unacked, k.resent = none) ∧
    0 + linked.cfgF C.replayTimeout * 160 ≤ ({ linked with ticks := 1600 } : State).ticks := by decide +kernel

/-- A running leaf that takes its time from markers, with N0 UP. -/
def marked : State :=
  ({ linked with node := { state := .running }, time := { coarse := 65537 } } : State).setCfg C.streamStart 1

theorem test_met_marker : marked.cfgF C.markerEn = 1 ∧ (marked.setF R.epochLoaded 1).loaded = true ∧ marked.time.coarse.toNat % 65536 < 4 ∧
    wget (markerWord 0x12C470000) 60 4 = 5 ∧ linkCrcOk (markerWord 0x12C470000) = true ∧ marked.isRoot = false ∧ marked.streamStart = true ∧
    marked.loaded = false ∧ marked.running = true ∧ marked.node.stopping = false := by decide +kernel

theorem test_met_joinMarker : (((marked.setF (R.lstate 18) 5).setF R.resync 1).portUp 18 = true) ∧ ((marked.setF R.resync 1).getF R.resync ≠ 0) ∧
    marked.operating = true ∧ ({ marked with pair := { resyncStep := 3 } } : State).pair.resyncStep = 3 := by decide +kernel

theorem test_met_trigger : ((withCtl marked 16 ⟨0x10, 0xFFF, 0, [7, 9], []⟩).takeCtl 16 0x10).isSome = true ∧ marked.operating = true ∧
    linked.operating = false ∧ (⟨7, 9⟩ : TreeTrig) ∉ marked.trig.recent ∧
    (⟨7, 9⟩ : TreeTrig) ∈ ({ marked with trig := { recent := [⟨7, 9⟩] } } : State).trig.recent ∧
    ((withCtl marked 15 ⟨0x11, 0xFFF, 0, [1], []⟩).takeCtl 15 0x11).isSome = true := by decide +kernel

/-- A concentrator whose ports 2 and 3 lead to the members A and B of a child pair, both heard at tick 0. -/
def parent : State :=
  let a (n : BitVec 12) (b : Bool) : CfgA := ⟨0, 1, true, b, n, 0, 0, 3⟩
  let s : State := { withCtl (withCtl State.reset 2 ⟨0x21, 0xFFF, 0, [0x40000, 0], []⟩) 3 ⟨0x22, 0xFFF, 0, [0x410000], []⟩ with
    node := { state := .configured, nodeId := 1, routed := true }, pair := { mates := [(2, some 3), (3, some 2)] } }
  let s := (s.setPort 2 { s.port 2 with farA := some (a 2 false) }).setPort 3 { s.port 3 with farA := some (a 3 true) }
  (s.setArb 2 { lastHb := some 0 }).setArb 3 { lastHb := some 0 }

theorem test_met_arbiter : parent.pairMate 2 = some 3 ∧ parent.pairMate 3 = some 2 ∧ parent.memberPos 2 = 0 ∧ parent.memberPos 3 = 1 - parent.memberPos 2 ∧
    parent.isActive = true ∧ parent.eligible 3 = true ∧ parent.getF (R.arbFailed 2) = 0 ∧ (parent.takeCtl 2 0x21).isSome = true ∧
    (parent.takeCtl 3 0x22).isSome = true ∧ 0 + 56000 ≤ ({ parent with ticks := 56000 } : State).ticks ∧
    (parent.setF (R.arbGrant 2) 0).getF (R.arbGrant 2) = parent.memberPos 2 ∧ parent.getF (R.arbGrant 2) = 2 ∧
    parent.storms 2 = false ∧ 64 < wget 0x410000 16 16 := by decide +kernel

/-- A paired concentrator, member B, with P and N0 UP and a sealed signature of frame 7. -/
def member (st : NodeState) (step : Nat) : State :=
  let s : State := { State.reset.setTri 1 13 with node := { state := st }, pair := { sigs := [(7, 5)], resyncStep := step, hbArmed := true } }
  (((s.setF (R.lstate 18) 5).setF (R.lstate 16) 5).setF R.resync (if step = 0 then 0 else 1)).setF R.refclkPresent 1

theorem test_met_member : (member .configured 0).paired = true ∧ (member .configured 0).pairPos = 1 ∧ (member .configured 0).getF R.active = 0 ∧
    ((withCtl (member .configured 0) 16 ⟨0x20, 0xFFF, 0, [1], []⟩).takeCtl 16 0x20).isSome = true ∧
    ((withCtl (member .configured 0) 18 ⟨0x21, 0xFFF, 0, [0x700000000, 5], []⟩).takeCtl 18 0x21).isSome = true ∧
    (member .configured 0).pair.sigs.find? (fun e => e.1 = BitVec.ofNat 32 (wget 0x700000000 32 32)) = some (7, 5) ∧
    (member .configured 0).isActive = false ∧ (member .configured 0).fwRuns = true ∧ (member .configured 0).getF R.fail = 0 ∧
    ((member .configured 0).setF R.fail 1).getF R.fail = 1 ∧ (member .configured 0).memberPorts = [16, 18] ∧
    (member .configured 0).operating = true ∧
    reached 0x80000 (frameTick (7 + BitVec.ofNat 32 ((member .configured 0).cfgF C.sigDelay))) =
      decide ((member .configured 0).cfgF C.sigDelay ≤ 1) := by decide +kernel

theorem test_met_resync : (member .unconfigured 1).getF R.resync = 1 ∧ (member .unconfigured 1).portUp 18 = true ∧
    (member .linkup 1).node.state = .linkup ∧ (imageFault ([] : List Byte)).isSome = true ∧ imagesWhole emptyImage = true ∧
    ((member .unconfigured 1).setF R.resync 0).getF R.resync = 0 ∧
    (member .configured 2).pair.resyncStep = 2 ∧ (member .configured 0).getF R.resync = 0 ∧
    ({ member .configured 0 with dir := { copying := true } } : State).dir.copying = true ∧
    reached 0x70000 (frameTick 7) = true ∧ (member .configured 4).pair.resyncStep = 4 := by decide +kernel

/-- A root before its host link. -/
def rootWaits (st : NodeState) : State := { (State.reset.setTri 1 2).setF R.refclkPresent 1 with node := { state := st, perstN := true } }

theorem test_met_rootWaits : (rootWaits .linkup).isRoot = true ∧ (rootWaits .linkup).node.perstN = true ∧ (rootWaits .linkup).getF R.refclkPresent = 1 ∧
    (rootWaits .linkup).pair.ownImage = none ∧ (rootWaits .running).node.state.code = 6 := by decide +kernel

/-- A loaded running node with slot 0 in frame 1, its frames counted from frame 0. -/
def streaming (role : Nat) : State :=
  let s : State := { (State.reset.setTri 1 (BitVec.ofNat 80 role)).setF R.epochLoaded 1 with
    node := { state := .running }, time := { coarse := 65536 + 64, firstFrame := some 0 } }
  (((s.setCfg C.slotValid 1).setCfg C.guard 64).setCfg C.outReserve 4).setCfg C.mergeOpenMax 2

theorem test_met_frames : (streaming 0).ownFrame 1 = true ∧ (streaming 0).ownFrame 2 = false ∧ (streaming 0).pool.frameDone = none ∧
    (streaming 0).frag (.frame 0) = none ∧ (streaming 0).merging = false ∧ (streaming 0).canGrow 0 = true ∧
    ((streaming 0).freeInBanks 12 (streaming 0).pool.bankPtr).isSome = true ∧ (streaming 0).item (streaming 0).pool.nextItem = none ∧
    reached (streaming 0).time.coarse (frameTick (0 + 1) + BitVec.ofNat 48 ((streaming 0).cfgF C.guard)) = true ∧
    (streaming 0).time.firstFrame = some 0 ∧ (streaming 0).frag (.event 0 0) = none := by decide +kernel

/-- An own fragment of frame 0 with one slot, and a unit of three words for it in region 7's FIFO. -/
def filled (closed : Bool) : State :=
  let s := (streaming 0).setItems [{ id := 5, queue := 0, cls := .streaming, slots := [9], key := some (.frame 0) }]
  { s with pool := { s.pool with nextItem := 6, regFifo := if closed then [] else [(7, [⟨.frame 0, 0, 0, [⟨1, false⟩, ⟨2, false⟩, ⟨3, false⟩], false⟩])],
                                 frags := [{ key := .frame 0, trigTime := 0, opened := true, item := some 5, closed := closed }] } }

theorem test_met_grantRegion : (filled false).nextRequester = some 24 ∧ (filled false).transfersWait = false ∧
    (filled false).waitingWords 24 = 3 ∧ (filled false).item 5 ≠ none ∧ slotsFor (headWords (.frame 0) + 0 + 3 + 1) ≤ 1 ∧
    ((filled false).setPort 18 { fifo := [⟨⟨0, false⟩, true, true⟩] }).nextRequester = some 16 ∧
    16 * (1 + min 3 (3 / 128)) < (List.replicate 20 (⟨1, false⟩ : PWord)).length - 3 := by decide +kernel

theorem test_met_complete : (filled true).pool.toComplete = [] ∧ (filled true).unitsWait (.frame 0) = false ∧
    slotsFor (sealFragment { (filled true).ownHead { key := .frame 0, trigTime := 0 } with bodyWords := 0 } []).length ≤ 1 := by
  decide +kernel

/-- A concentrator with a context of frame 0 whose one entry, of port 3, holds item 5 in progress. -/
def merging (st : EntryState) : State :=
  let s := (streaming 1).setItems [{ id := 5, queue := 32, cls := .streaming, slots := [9], words := [⟨0, false⟩], key := some (.frame 0), src := some 3 }]
  { s with pool := { s.pool with nextItem := 6, toComplete := [5],
                                 ctxs := [{ key := .frame 0, index := 0, deadline := 65536, entries := [⟨7, .south 3, st, some 5, 0, false⟩] }] } }

theorem test_met_contexts : (merging .storing).merging = true ∧ (merging .storing).transfersWait = false ∧ (merging .storing).merges (.frame 0) = true ∧
    (merging .storing).entryIs 3 ⟨7, .south 3, .storing, some 5, 0, false⟩ = true ∧ slotsFor 1 ≤ 1 ∧
    (merging .storing).frameRuns 1 = true ∧ (merging .storing).isLate (.frame 1) = false ∧ (merging .storing).ctx (.frame 1) = none ∧
    1 < (merging .storing).cfgF C.mergeOpenMax ∧ ((merging .storing).setCfg C.mergeOpenMax 1).cfgF C.mergeOpenMax ≤ 1 ∧
    reached (merging .storing).time.coarse 65536 = true ∧ (merging .storing).isActive = true ∧
    (merging .present).closable { key := .frame 0, index := 0, deadline := 65536, entries := [⟨7, .south 3, .present, some 5, 0, false⟩] } = true ∧
    ((merging .present).freeInBanks 12 (merging .present).pool.bankPtr).isSome = true := by decide +kernel

theorem test_met_retainedNone : (∀ i ∈ (merging .present).pool.items, i.retained = true → i.hidden = true) ∧
    ((merging .present).allocSlot.map (·.1)) = some 0 ∧
    ((merging .present).allocSlot.map fun x => decide (x.2.spliceReads [[9]] = (true, x.2))) = some true ∧
    ((merging .storing).pool.ctxs.map fun c => c.entries.map fun e => decide (e.st ≠ .present)) = [[true]] := by decide +kernel

theorem test_met_reader : ((filled true).reader .n0).item = none ∧ (filled true).portUp 16 = false ∧
    ((filled true).setF (R.lstate 16) 5).portUp 16 = true ∧
    ((((filled true).setF (R.lstate 16) 5).setItems [{ id := 5, queue := 0, cls := .streaming, slots := [9], complete := true }]).chooseItem .n0).isSome = true ∧
    (((filled true).setReader .n0 { item := some 5 }).reader .n0).item = some 5 := by decide +kernel

theorem test_met_reclaim : ({ filled true with pool := { reclaimDue := true, orphans := [3], agg := true }, ticks := 160000 } : State).pool.orphans.length = 1 ∧
    (filled true).isRoot = false := by decide +kernel

theorem test_met_tables_intact : (State.reset.mem 5).cells = [] ∧ (State.reset.mem 5).buffer = [] := by decide

theorem test_met_table_poisoned (a : Nat) : poisonedCw ((State.reset.setRaw 5 a poisonCw).raw 5 a) = true := by
  have h : State.reset.unitRetired 5 (a / 256) = false := by
    have e : (State.reset.mem 5).cells = [] := by decide
    have p : State.reset.prot = {} := by decide
    simp [State.unitRetired, State.mapWithheld, e, p]
  rw [State.setRaw, if_neg (by simp [h]), State.raw, State.setMem_mem_same, Tab.get_set_same]
  decide +kernel

theorem test_met_map_damaged : (State.reset.setRaw 5 (Config.mapWord 0) poisonCw).mapDamaged = true := by
  have h := test_met_table_poisoned (Config.mapWord 0)
  have hc : ((State.reset.setRaw 5 (Config.mapWord 0) poisonCw).mem 5).cells ≠ [] := by
    intro e
    rw [State.raw, e] at h
    exact absurd h (by decide +kernel)
  rw [State.mapDamaged]
  split
  · rename_i e
    exact absurd e hc
  · rw [List.any_eq_true]
    refine ⟨0, by simp, ?_⟩
    rw [State.mapPoisoned]
    split
    · rename_i e
      exact absurd e hc
    · exact h

/-- The map's word of a unit reads poisoned: the unit is withheld. -/
theorem test_met_map_withheld (a : Nat) : (State.reset.setRaw 5 a poisonCw).mapWithheld a = true := by
  have h := test_met_table_poisoned a
  rw [State.raw] at h
  rw [State.mapWithheld]
  split
  · rename_i e
    rw [e] at h
    exact absurd h (show ¬ poisonedCw 0 = true by decide +kernel)
  · exact Bool.or_eq_true _ _ |>.mpr (.inl h)

/-- The ring of file 12: 2,048 bytes are free, the item of ten words takes two blocks, HEAD becomes 0x0040. -/
theorem test_ring_head : ringed.ringFree 0 = 0x800 ∧
    (match execDmaItemWrite ringed with | .next t => t.ringReg 0 0x14 | _ => 0) = 0x40 := by decide +kernel

end Sys2Proof.Tests
end

namespace Sys2Proof.Machine

/-! ## What storing, logging, reading and answering keep inside the parts they change

`Touch` speaks of whole parts of the state. An answer changes the node's notice number, the firmware's newest reply and the error log;
`State.kept` is what those parts hold besides. -/

/-- The node but for its notice number, the firmware but for its newest reply, the configuration, the commit record, retirement, the
answers owed and the laps that are overdue. -/
structure Kept where
  node : NodeSt
  fw : FwSt
  cfg : Tab Nat
  record : Tri
  pages : List (Nat × Nat)
  banks : List (Nat × Nat)
  withheld : List Nat
  owed : List (Nat × W32 × Nat × Nat × Nat)
  overdue : Nat → Bool

def State.kept (s : State) : Kept :=
  ⟨{ s.node with noticeSeq := 0 }, { s.fw with reply := none }, s.cfg, Tab.get {} s.prot.tri 0, s.prot.pages, s.prot.banks,
    s.prot.withheld, s.mbox.owed, fun m => (s.mem m).overdue⟩

section
variable {s t : State}

theorem kept_state (h : t.kept = s.kept) : t.node.state = s.node.state := congrArg (·.node.state) h
theorem kept_incarnation (h : t.kept = s.kept) : t.node.incarnation = s.node.incarnation := congrArg (·.node.incarnation) h
theorem kept_pages (h : t.kept = s.kept) : t.prot.pages = s.prot.pages := congrArg Kept.pages h
theorem kept_banks (h : t.kept = s.kept) : t.prot.banks = s.prot.banks := congrArg Kept.banks h
theorem kept_withheld (h : t.kept = s.kept) : t.prot.withheld = s.prot.withheld := congrArg Kept.withheld h
theorem kept_cfg (h : t.kept = s.kept) : t.cfg = s.cfg := congrArg Kept.cfg h
theorem kept_overdue (h : t.kept = s.kept) (m : Nat) : (t.mem m).overdue = (s.mem m).overdue :=
  congrFun (congrArg Kept.overdue h) m
theorem kept_patch (h : t.kept = s.kept) : t.fw.patchInForce = s.fw.patchInForce := congrArg (·.fw.patchInForce) h

/-- A fold of operations that keep it keeps it. -/
theorem kept_foldl {α : Type} {f : State → α → State} (hf : ∀ v a, (f v a).kept = v.kept) (l : List α) (s : State) :
    (l.foldl f s).kept = s.kept := by
  induction l generalizing s with
  | nil => rfl
  | cons a l ih => exact (ih _).trans (hf s a)

theorem kept_foldl_snd {α β : Type} {f : β × State → α → β × State} (hf : ∀ r a, (f r a).2.kept = r.2.kept) (l : List α)
    (r : β × State) : (l.foldl f r).2.kept = r.2.kept := by
  induction l generalizing r with
  | nil => rfl
  | cons a l ih => exact (ih _).trans (hf r a)

theorem kept_ite {c : Prop} {_ : Decidable c} {a b : State} (ha : a.kept = s.kept) (hb : b.kept = s.kept) :
    (if c then a else b).kept = s.kept := by split <;> assumption

end

section
variable (s : State)

/-! ### Primitive updates -/

@[simp] theorem State.setWord_kept (o : Nat) (v : W32) : (s.setWord o v).kept = s.kept := rfl
@[simp] theorem State.setF_kept (f : RF) (v : Nat) : (s.setF f v).kept = s.kept := rfl
@[simp] theorem State.incBy_kept (f : RF) (n : Nat) : (s.incBy f n).kept = s.kept := rfl
@[simp] theorem State.inc_kept (f : RF) : (s.inc f).kept = s.kept := rfl
@[simp] theorem State.incWrap_kept (f : RF) (n : Nat) : (s.incWrap f n).kept = s.kept := rfl
@[simp] theorem State.setFlag_kept (f : FlagF) : (s.setFlag f).kept = s.kept := rfl
@[simp] theorem State.setRegion_kept (r : Nat) (v : Region) : (s.setRegion r v).kept = s.kept := rfl
@[simp] theorem State.setCell_kept (c : Nat) (v : Cell) : (s.setCell c v).kept = s.kept := rfl
@[simp] theorem State.setBlock_kept (b : Nat) (v : Block) : (s.setBlock b v).kept = s.kept := rfl
@[simp] theorem State.setPort_kept (p : Nat) (v : Port) : (s.setPort p v).kept = s.kept := rfl
@[simp] theorem State.setMem_kept (m : Nat) (v : Mem) (h : v.overdue = (s.mem m).overdue) : (s.setMem m v).kept = s.kept := by
  have ho : ∀ k, ((s.setMem m v).mem k).overdue = (s.mem k).overdue := by
    intro k
    by_cases hk : k = m
    · rw [hk, State.setMem_mem_same, h]
    · rw [State.setMem_mem_other _ _ hk]
  simp only [State.kept, ho]
  rfl
@[simp] theorem State.setPid_kept (i : Nat) (v : Loop) : (s.setPid i v).kept = s.kept := rfl
@[simp] theorem State.setSxp_kept (i : Nat) (v : Sxp) : (s.setSxp i v).kept = s.kept := rfl
@[simp] theorem State.setConv_kept (i : Nat) (v : Conv) : (s.setConv i v).kept = s.kept := rfl
@[simp] theorem State.setItems_kept (l : List Item) : (s.setItems l).kept = s.kept := rfl
@[simp] theorem State.emit_kept (o : Out) : (s.emit o).kept = s.kept := rfl
@[simp] theorem State.drawn_kept : s.drawn.kept = s.kept := rfl
@[simp] theorem State.skip_kept (n : Nat) : (s.skip n).kept = s.kept := rfl
@[simp] theorem State.noticed_kept : s.noticed.kept = s.kept := rfl
@[simp] theorem State.remember_kept (n : Nat) : (s.remember n).kept = s.kept := rfl
@[simp] theorem State.sendMsg_kept (p : Nat) (m : CtlMsg) : (s.sendMsg p m).kept = s.kept := rfl
@[simp] theorem State.setBar0_kept (o : Nat) (v : W32) : (s.setBar0 o v).kept = s.kept := rfl

theorem State.kept_pool (v : PoolSt) : ({ s with pool := v } : State).kept = s.kept := rfl
theorem State.kept_pair (v : PairSt) : ({ s with pair := v } : State).kept = s.kept := rfl

/-- A triplicated word other than the commit record. -/
theorem State.setTri_kept {i : Nat} (v : BitVec 80) (h : i ≠ 0) : (s.setTri i v).kept = s.kept := by
  simp [State.kept, State.setTri, Tab.get_set_other _ _ _ h.symm]
  rfl

@[simp] theorem State.msix_kept (v : Nat) : (s.msix v).kept = s.kept := kept_ite rfl (kept_ite rfl rfl)
@[simp] theorem State.ringOutDoorbell_kept (i : Nat) : (s.ringOutDoorbell i).kept = s.kept := State.msix_kept _ _

/-! ### The pool -/

@[simp] theorem State.modItem_kept (id : Nat) (f : Item → Item) : (s.modItem id f).kept = s.kept := rfl
@[simp] theorem State.freeItem_kept (id : Nat) : (s.freeItem id).kept = s.kept := rfl
@[simp] theorem State.unchoose_kept (l : List Nat) : (s.unchoose l).kept = s.kept := rfl
@[simp] theorem State.loseEntries_kept (l : List Nat) : (s.loseEntries l).kept = s.kept := rfl
@[simp] theorem State.newItem_kept (q : Nat) (c : Cls) : (s.newItem q c).kept = s.kept := rfl
@[simp] theorem State.hold_kept (q : Nat) (c : Cls) (ws : List PWord) : (s.hold q c ws).kept = s.kept := rfl
@[simp] theorem State.writePool_kept (c n : Nat) (l : List (Nat × Nat)) (ws : List PWord) : (s.writePool c n l ws).kept = s.kept :=
  State.setMem_kept _ _ _ rfl
@[simp] theorem State.cutItems_kept (l : List Nat) : (s.cutItems l).kept = s.kept := rfl
@[simp] theorem State.countLost_kept (q n : Nat) : (s.countLost q n).kept = s.kept := kept_ite rfl rfl
@[simp] theorem State.loseItem_kept (i : Item) : (s.loseItem i).kept = s.kept := State.countLost_kept _ _ _

theorem State.allocSlot_kept {n : Nat} {t : State} (h : s.allocSlot = some (n, t)) : t.kept = s.kept := by
  rw [State.allocSlot] at h
  split at h <;> cases h
  rfl

theorem State.overwrite_kept (fuel q : Nat) : (State.overwrite fuel s q).2.kept = s.kept := by
  induction fuel generalizing s with
  | zero => rfl
  | succ k ih =>
    rw [State.overwrite]
    split
    · rfl
    · dsimp only
      split
      · exact s.loseItem_kept _
      · exact (ih _).trans (s.loseItem_kept _)

theorem State.takeSlot_kept (q : Nat) : (s.takeSlot q).2.2.kept = s.kept := by
  rw [State.takeSlot]
  split
  · rename_i r hr
    split at hr
    · exact s.allocSlot_kept hr
    · cases hr
  · split
    · rfl
    · have ho := s.overwrite_kept s.pool.items.length q
      split <;> (rename_i e; rw [e] at ho; exact ho)

theorem State.growItem_kept (fuel id n : Nat) : (State.growItem fuel s id n).2.kept = s.kept := by
  induction fuel generalizing s with
  | zero => rfl
  | succ k ih =>
    rw [State.growItem]
    split
    · rfl
    · rename_i i _
      have ht := s.takeSlot_kept i.queue
      split
      · rfl
      · split <;> (rename_i e; rw [e] at ht)
        · exact (ih _).trans ht
        · exact ht

@[simp] theorem State.sendThrottle_kept (v : Word) : (s.sendThrottle v).kept = s.kept := kept_foldl (fun v p => v.sendMsg_kept p _) _ _

@[simp] theorem State.throttleUpdate_kept : s.throttleUpdate.kept = s.kept := by
  unfold State.throttleUpdate
  extract_lets used own v south agg pool w x
  have hx : x.kept = s.kept := kept_ite rfl rfl
  exact kept_ite rfl (kept_ite ((x.msix_kept _).trans hx) ((x.sendThrottle_kept _).trans hx))

@[simp] theorem State.completeItem_kept (id : Nat) : (s.completeItem id).kept = s.kept := by
  unfold State.completeItem
  split
  · rfl
  · exact State.writePool_kept _ _ _ _ _

@[simp] theorem State.storeRaw_kept (q : Nat) (c : Cls) (ws : List PWord) : (s.storeRaw q c ws).kept = s.kept := by
  have hg := State.growItem_kept ((s.newItem q c).modItem s.pool.nextItem fun i => { i with words := ws })
    (slotsFor ws.length + 1) s.pool.nextItem (slotsFor ws.length)
  unfold State.storeRaw
  dsimp only
  split
  · rfl
  · split <;> (rename_i e; rw [e] at hg)
    · simpa using hg
    · simpa using hg
    · exact hg

@[simp] theorem State.noticeRaw_kept (code : Nat) (l : List Byte) : (s.noticeRaw code l).kept = s.kept :=
  State.storeRaw_kept _ _ _ _

@[simp] theorem State.setFail_kept (cause : Nat) : (s.setFail cause).kept = s.kept := kept_ite rfl rfl

/-! ### The error log and code words -/

@[simp] theorem State.logEntry_kept (a b c d e f g : Nat) : (s.logEntry a b c d e f g).kept = s.kept := State.storeRaw_kept _ _ _ _

@[simp] theorem State.memNotice_kept (m : Nat) : (s.memNotice m).kept = s.kept :=
  kept_ite rfl ((State.noticeRaw_kept _ _ _).trans (State.setMem_kept _ _ _ rfl))

@[simp] theorem State.memEvent_kept (m : Nat) (f : FlagF) (c : BitVec 3) : (s.memEvent m f c).kept = s.kept := by
  simp [State.memEvent]

@[simp] theorem State.correction_kept (m a b c d e : Nat) : (s.correction m a b c d e).kept = s.kept := by
  unfold State.correction
  extract_lets u mac lastAt named supp prot v lv w
  have hv : v.kept = s.kept := kept_ite rfl (by
    rw [State.remember_kept, State.logEntry_kept]
    rfl)
  refine kept_ite ?_ hv
  rw [State.memEvent_kept, w.setMem_kept m { w.mem m with armed := false } rfl]
  exact hv

@[simp] theorem State.ueFound_kept (m a o : Nat) (f : RF) : (s.ueFound m a o f).kept = s.kept := by
  simp [State.ueFound]

@[simp] theorem State.setRaw_kept (m a : Nat) (c : BitVec 152) : (s.setRaw m a c).kept = s.kept :=
  kept_ite rfl (State.setMem_kept _ _ _ rfl)

@[simp] theorem State.drainEntry_kept (m : Nat) (e : MbEntry) : (s.drainEntry m e).kept = s.kept := by
  unfold State.drainEntry
  extract_lets v u bits merge
  have hu : u.kept = s.kept := State.setMem_kept _ _ _ rfl
  refine kept_ite hu (kept_ite ((u.setRaw_kept _ _ _).trans hu) ?_)
  split
  case h_5 => exact kept_ite (by simp [hu]) (by simp [hu])
  all_goals simp [hu]

@[simp] theorem State.writeBytes_kept (m a : Nat) (mask : BitVec 16) (d : BitVec 128) : (s.writeBytes m a mask d).kept = s.kept := by
  unfold State.writeBytes
  split
  · exact kept_ite (by simp) (by simp)
  · extract_lets e l full src v w
    have hv : v.kept = s.kept := State.setMem_kept _ _ _ rfl
    have hm : ∀ l' : List MbEntry, (match l' with | old :: _ => if full then v.drainEntry m old else v | [] => v).kept = s.kept := by
      intro l'
      cases l' with
      | nil => exact hv
      | cons old _ => exact kept_ite ((v.drainEntry_kept m old).trans hv) hv
    have hw : w.kept = s.kept := hm l
    exact kept_ite (by rw [State.drainEntry_kept, hw]) hw

@[simp] theorem State.writeHalf_kept (m a h : Nat) (w : Word) : (s.writeHalf m a h w).kept = s.kept := State.writeBytes_kept _ _ _ _ _

@[simp] theorem State.drainFor_kept (m a : Nat) : (s.drainFor m a).kept = s.kept := by
  unfold State.drainFor
  split <;> simp

@[simp] theorem State.upset_kept (m a : Nat) (u : BitVec 152) : (s.upset m a u).kept = s.kept :=
  kept_ite rfl (State.setMem_kept _ _ _ rfl)

@[simp] theorem State.readCw_kept (m a : Nat) : (s.readCw m a).2.kept = s.kept := by
  unfold State.readCw
  split
  · rfl
  · dsimp only
    split
    case h_5 => split <;> simp
    all_goals simp

@[simp] theorem State.readCws_kept (n m a : Nat) : (State.readCws n s m a).2.kept = s.kept := by
  induction n generalizing s a with
  | zero => rfl
  | succ n ih => exact (ih _ _).trans (s.readCw_kept m a)

@[simp] theorem State.tableCw_kept (a : Nat) : (s.tableCw a).2.kept = s.kept := by
  unfold State.tableCw
  split
  · rfl
  · exact s.readCw_kept 5 a

@[simp] theorem State.tableWrite_kept (l : List Nat) : (s.tableWrite l).kept = s.kept := by
  unfold State.tableWrite
  split
  · rfl
  · exact kept_foldl (fun v a => v.setRaw_kept 5 a 0) _ _

/-! ### Queues, notices and answers -/

@[simp] theorem State.resetQueue_kept (q cause : Nat) : (s.resetQueue q cause).kept = s.kept := by
  unfold State.resetQueue
  extract_lets ids u pool v w x y near pair z
  have hz : z.kept = y.kept := State.kept_pair _ _
  have hy : y.kept = s.kept := by
    simp only [y, x, w, State.noticeRaw_kept, State.setFlag_kept, State.drawn_kept, State.remember_kept, State.logEntry_kept,
      State.countLost_kept, State.loseEntries_kept]
    exact (State.kept_pool _ _).trans (s.cutItems_kept ids)
  rw [State.throttleUpdate_kept]
  exact kept_ite ((State.setFail_kept _ _).trans (hz.trans hy)) (hz.trans hy)

@[simp] theorem State.checkQueue_kept (q : Nat) : (s.checkQueue q).kept = s.kept := by
  unfold State.checkQueue
  split
  · rfl
  · extract_lets r
    have hr : r.2.kept = s.kept := by
      refine kept_foldl_snd ?_ _ _
      intro r a
      exact r.2.tableCw_kept a
    exact kept_ite (by simpa using hr) hr

@[simp] theorem State.storeItem_kept (q : Nat) (c : Cls) (ws : List PWord) : (s.storeItem q c ws).kept = s.kept := by
  simp [State.storeItem]

@[simp] theorem State.controlItem_kept (code arg : Nat) (l : List Word) : (s.controlItem code arg l).kept = s.kept :=
  State.storeItem_kept _ _ _ _

@[simp] theorem State.notice_kept (code : Nat) (l : List Byte) : (s.notice code l).kept = s.kept := by
  simp [State.notice]

@[simp] theorem State.putBytesN_kept (n m a : Nat) (l : List Byte) : (State.putBytesN n s m a l).kept = s.kept := by
  induction n generalizing s a l with
  | zero => rfl
  | succ n ih => exact kept_ite rfl ((ih _ _ _).trans (State.writeBytes_kept _ _ _ _ _))

@[simp] theorem State.putBytes_kept (m a : Nat) (l : List Byte) : (s.putBytes m a l).kept = s.kept := State.putBytesN_kept _ _ _ _ _

@[simp] theorem State.complete_kept (i : Nat) : (s.complete i).kept = s.kept := by
  unfold State.complete
  extract_lets from' bits mbox u v
  cases from' <;> rfl

@[simp] theorem State.sendReply_kept (i : Nat) (st : W32) (l : List Byte) : (s.sendReply i st l).kept = s.kept := by
  unfold State.sendReply
  split
  · exact (State.controlItem_kept _ _ _ _).trans (kept_ite (s.ringOutDoorbell_kept i) rfl)
  · extract_lets target
    split
    · rfl
    · exact kept_ite rfl rfl
    · rfl

@[simp] theorem State.replyTo_kept (i : Nat) (w : W32) (o t st : Nat) (l : List Byte) : (s.replyTo i w o t st l).kept = s.kept := by
  simp [State.replyTo]

@[simp] theorem State.reply_kept (m : Msg) (st : Nat) (l : List Byte) : (s.reply m st l).kept = s.kept :=
  kept_ite rfl (State.replyTo_kept _ _ _ _ _ _ _)

/-- An answer keeps the node's state, the firmware's transfers, the configuration and the retirement. -/
@[simp] theorem State.answer_kept (m : Msg) (st : Nat) (l : List Byte) : (s.answer m st l).kept = s.kept := by
  simp [State.answer]

end

end Sys2Proof.Machine

namespace Sys2Proof.Machine

variable {s t : State} {P : Comp → Prop}

/-! ## What an operation leaves as it was -/

/-- A part that an operation does not change reads as before. -/
theorem Touch.same (h : Touch P s t) {c : Comp} (hc : ¬ P c) : Same c s t := (h.frame c).resolve_left hc

theorem Touch.word (h : Touch P s t) {o : Nat} (hc : ¬ P (.reg o)) : t.word o = s.word o := h.same hc

theorem Touch.getF (h : Touch P s t) {f : RF} (hc : ¬ P (.reg f.off)) : t.getF f = s.getF f := by
  rw [State.getF, h.word hc, State.getF]

/-- The registers that an answer to the message of mailbox `i` does not change. -/
theorem not_answerParts_reg {i o : Nat} (hi : i < 16)
    (ho : o < 0x3000 ∨ 0x8018 ≤ o ∧ o < 0x8100 ∨ o = 0x8200 ∨ 0xA08C ≤ o) : ¬ answerParts i (.reg o) := by
  simp [answerParts, queueParts, memParts, logParts, storeParts]
  omega

/-! ## Commands of the firmware -/

/-- A message of LENGTH and node state as R386 asks reaches its command, which acts on the state without it. -/
theorem State.command_of_cur {opcode : BitVec 16} {size : Nat} {states : List NodeState} {m : Msg} (hstate : s.node.state ∈ states)
    (hcur : s.fw.cur = some m) (hop : m.opcode = opcode) (hsize : size ≤ m.length) (hmax : m.length ≤ 248)
    (f : Msg → State → State) : s.command opcode size states f = f m s.begun := by
  rw [State.command, State.commandL, hcur]
  dsimp only
  rw [if_neg (by simp [hop]), if_neg (by omega), if_neg (not_not.2 hstate)]
  rfl

theorem Taken.command {opcode : BitVec 16} {size : Nat} {states : List NodeState} {m : Msg} (h : Taken s opcode size states m)
    (f : Msg → State → State) : s.command opcode size states f = f m s.begun := by
  obtain ⟨hcur, -, hop, hsize, hmax, hstate⟩ := h
  exact State.command_of_cur hstate hcur hop hsize hmax f

section
variable (s : State) (m : Msg) (st : Nat) (l : List Byte)

theorem State.answer_touches : Touch (answerParts m.mbox) s (s.answer m st l) := State.answer_touch (Touch.refl _ s) fun _ h => h

/-- A message that is complete leaves its mailbox EMPTY (R362). -/
theorem State.complete_mboxState (i : Nat) : (s.complete i).getF (R.mboxState i) = 0 := by
  unfold State.complete
  extract_lets from' bits mbox u v
  have hv : v.getF (R.mboxState i) = 0 := State.getF_setF_same u (R.mboxState i) 0 (by simp [R.mboxState])
  cases from' <;> exact hv

@[simp] theorem State.answer_mboxState : (s.answer m st l).getF (R.mboxState m.mbox) = 0 := State.complete_mboxState _ _

@[simp] theorem State.answer_region (r : Nat) : (s.answer m st l).region r = s.region r :=
  (s.answer_touches m st l).same (c := .region r) (by simp [answerParts, queueParts, memParts, logParts, storeParts])

@[simp] theorem State.answer_cell (c : Nat) : (s.answer m st l).cell c = s.cell c :=
  (s.answer_touches m st l).same (c := .cell c) (by simp [answerParts, queueParts, memParts, logParts, storeParts])

@[simp] theorem State.answer_record (k : Nat) : (s.answer m st l).record k = s.record k :=
  (s.answer_touches m st l).same (c := .cfg k) (by simp [answerParts, queueParts, memParts, logParts, storeParts])

theorem State.answer_mem {i : Nat} (h : i = 1 ∨ i = 2 ∨ i = 3) : (s.answer m st l).mem i = s.mem i :=
  (s.answer_touches m st l).same (c := .mem i) (by simp [answerParts, queueParts, memParts, logParts, storeParts]; omega)

/-- A register that no answer changes. -/
theorem State.answer_getF {f : RF} (hm : m.mbox < 16)
    (hf : f.off < 0x3000 ∨ 0x8018 ≤ f.off ∧ f.off < 0x8100 ∨ f.off = 0x8200 ∨ 0xA08C ≤ f.off) :
    (s.answer m st l).getF f = s.getF f :=
  (s.answer_touches m st l).getF (not_answerParts_reg hm hf)

theorem State.answer_state : (s.answer m st l).node.state = s.node.state := kept_state (s.answer_kept m st l)

end

/-! ## Every command completes -/

/-- Settles O7: every arm of the dispatch answers a next state; HOST_READ_COMPLETION does for each outcome of the read. -/
theorem stepStopsOnlyOutOfRange : Obligations.StepStopsOnlyOutOfRange := by
  have hexec : ∀ (c : Instr) (s : State), ∃ t, exec c s = .next t := by
    intro c s
    cases c
    case hostReadCompletion outcome data =>
      show ∃ t, execHostReadCompletion outcome data s = .next t
      unfold execHostReadCompletion
      split
      · exact ⟨_, rfl⟩
      · cases outcome <;> exact ⟨_, rfl⟩
    case fwTakeMessage upsets ram =>
      show ∃ t, execFwTakeMessage upsets ram s = .next t
      unfold execFwTakeMessage
      dsimp only
      split
      · exact ⟨_, rfl⟩
      · split
        · exact ⟨_, rfl⟩
        · split
          · exact ⟨_, rfl⟩
          · split <;> exact ⟨_, rfl⟩
    all_goals exact ⟨_, rfl⟩
  refine ⟨hexec, fun s => ?_⟩
  rw [step]
  split
  · exact ⟨s, rfl⟩
  · exact hexec _ _

end Sys2Proof.Machine

namespace Sys2Proof.Machine

variable {s : State}

/-! ## Operands as the node takes them (R18) -/

theorem State.legal_of_mem {k lo hi v : Nat} (h : lo ≤ v) (h' : v ≤ hi) : s.legal k lo hi v = v := if_pos ⟨h, h'⟩

/-- An operand is taken within its documented range. -/
theorem State.legal_mem {lo hi : Nat} (k v : Nat) (h : lo ≤ hi) : lo ≤ s.legal k lo hi v ∧ s.legal k lo hi v ≤ hi := by
  unfold State.legal
  split
  · assumption
  · have := Nat.mod_lt (s.nth k) (show 0 < hi + 1 - lo by omega)
    omega

/-! ## The node group (R392-R395) -/

theorem scopeUnits_pos {scope : Nat} (h : scope ≤ 5) : 0 < scopeUnits scope := by
  interval_cases scope <;> decide

/-- A warm reset (R460): BOOT with cause 2, the configuration and the pool lost, retirement and the patch kept. -/
theorem State.warmReset_spec (s : State) :
    s.warmReset.node.state = .boot ∧ s.warmReset.node.bootCause = 2 ∧
      s.warmReset.node.incarnation = s.node.incarnation + 1 ∧ (∀ k, s.warmReset.record k = cfgDefault k) ∧ s.warmReset.pool = {} ∧
      s.warmReset.fw.patchInForce = s.fw.patchInForce ∧ s.warmReset.prot.pages = s.prot.pages ∧
      s.warmReset.prot.banks = s.prot.banks :=
  ⟨rfl, rfl, rfl, fun _ => Nat.zero_xor _, rfl, rfl, rfl, rfl⟩

/-- NODE_RESET (R393, R395): the answer, and what follows it. -/
theorem execNodeReset_taken {m : Msg} (h : Taken s 0x101 1 statesLUCRS m) :
    (m.byte 0 = 0 → exec .nodeReset s =
      .next { s.begun.answer m 0 [] with fw := { (s.begun.answer m 0 []).fw with restart := some 3 } }) ∧
    (m.byte 0 = 1 → exec .nodeReset s = .next (s.begun.answer m 0 []).warmReset) ∧
    (1 < m.byte 0 → exec .nodeReset s = .next (s.begun.answer m 4 [])) := by
  have he : exec .nodeReset s = .next (s.command 0x101 1 statesLUCRS _) := rfl
  rw [he, h.command]
  refine ⟨fun h0 => ?_, fun h1 => ?_, fun h2 => ?_⟩
  · rw [if_pos h0]
  · rw [if_neg (by omega), if_pos h1]
  · rw [if_neg (by omega), if_neg (by omega)]

/-- COUNTER_CLEAR (R392): the scope, and the units of it that the node takes. -/
theorem execCounterClear_taken {m : Msg} (h : Taken s 0x102 6 statesLUCRS m) :
    (m.byte 0 = 0 → exec .counterClear s = .next ((s.begun.clearCountersAt counterWords).answer m 0 [])) ∧
    (5 < m.byte 0 → exec .counterClear s = .next (s.begun.answer m 4 [])) ∧
    (0 < m.byte 0 → m.byte 0 ≤ 5 → ∃ first count : Nat, 0 < count ∧ first + count ≤ scopeUnits (m.byte 0) ∧
      (m.field 2 2 < scopeUnits (m.byte 0) → first = m.field 2 2 ∧
        (0 < m.field 4 2 → first + m.field 4 2 ≤ scopeUnits (m.byte 0) → count = m.field 4 2)) ∧
      exec .counterClear s = .next (((s.begun.skip 2).clearCountersAt
        ((List.range count).flatMap fun i => scopeWords (m.byte 0) (first + i))).answer m 0 [])) := by
  have he : exec .counterClear s = .next (s.command 0x102 6 statesLUCRS _) := rfl
  rw [he, h.command]
  refine ⟨fun h0 => ?_, fun h5 => ?_, fun hpos hle => ?_⟩
  · rw [if_neg (by omega), if_pos h0]
  · rw [if_pos h5]
  · have hu := scopeUnits_pos hle
    have hf := s.begun.legal_mem 0 (m.field 2 2) (Nat.zero_le (scopeUnits (m.byte 0) - 1))
    have hc := s.begun.legal_mem 1 (m.field 4 2)
      (show 1 ≤ scopeUnits (m.byte 0) - s.begun.legal 0 0 (scopeUnits (m.byte 0) - 1) (m.field 2 2) by omega)
    refine ⟨s.begun.legal 0 0 (scopeUnits (m.byte 0) - 1) (m.field 2 2), _, hc.1, by omega,
      fun hin => ⟨State.legal_of_mem (Nat.zero_le _) (by omega), fun hn hs => ?_⟩, ?_⟩
    · exact State.legal_of_mem hn (by omega)
    · rw [if_neg (by omega), if_neg (by omega)]

/-- Settles O31: each command that passes its checks acts on the state without the message. -/
theorem nodeCommandsAnswerAndAct : Obligations.NodeCommandsAnswerAndAct := by
  unfold Obligations.NodeCommandsAnswerAndAct
  refine ⟨fun s m h => ?_, fun s m h => ?_, fun s m h => execCounterClear_taken h, fun s m h hstaged hcfg => ?_,
    fun s m h hstaged hpatch => ?_⟩
  · exact congrArg Host.Outcome.next (h.command _)
  · obtain ⟨h0, h1, h2⟩ := execNodeReset_taken h
    have hk : (s.begun.answer m 0 []).kept = s.begun.kept := s.begun.answer_kept m 0 []
    have hinc' : (s.begun.answer m 0 []).node.incarnation = s.node.incarnation := kept_incarnation (s := s.begun) hk
    have hforce' : (s.begun.answer m 0 []).fw.patchInForce = s.fw.patchInForce := kept_patch (s := s.begun) hk
    have hpages' : (s.begun.answer m 0 []).prot.pages = s.prot.pages := kept_pages (s := s.begun) hk
    have hbanks' : (s.begun.answer m 0 []).prot.banks = s.prot.banks := kept_banks (s := s.begun) hk
    refine ⟨fun hb => ⟨_, h0 hb, rfl, s.begun.answer_state m 0 [], s.begun.answer_mboxState m 0 []⟩,
      fun hb => ⟨_, h1 hb, ?_⟩, h2⟩
    obtain ⟨hstate, hcause, hinc, hrec, hpool, hforce, hpages, hbanks⟩ := (s.begun.answer m 0 []).warmReset_spec
    exact ⟨hstate, hcause, hinc.trans (by rw [hinc']), hrec, hpool, hforce.trans hforce',
      hpages.trans hpages', hbanks.trans hbanks'⟩
  · have hs : s.begun.fw.staged = none := hstaged
    have hc : s.begun.fw.cfg = none := hcfg
    have he : exec .cfgQuery s = .next (s.command 0x202 0 statesLUCRS _) := rfl
    rw [he, h.command]
    simp only [hs, hc]
    rfl
  · have hs : s.begun.fw.stagedPatch = none := hstaged
    have hp : s.begun.fw.patch = none := hpatch
    have he : exec .patchStatus s = .next (s.command 0xA02 0 statesLUCRS _) := rfl
    rw [he, h.command]
    simp only [hs, hp]
    rfl

/-! ## Register reads and flag clears (R390, R391) -/

/-- No group reaches beyond the register space. -/
theorem groupHas_high {g off : Nat} (h : 0x30000 ≤ off) : groupHas g off = false := by
  have h16 : 3 ≤ off / 0x1000 / 16 := by omega
  unfold groupHas
  dsimp only
  split_ifs <;> simp <;> omega

/-- A range leaves a group's pages exactly where one of its words is outside them. -/
theorem leavesGroup_eq_false {g off n : Nat} :
    leavesGroup g off n = false ↔ ∀ i, i < max n 1 → groupHas g (off / 4 * 4 + 4 * i) = true := by
  unfold leavesGroup
  simp only [List.any_eq_false, List.mem_range, Bool.not_eq_true', Bool.not_eq_false]
  refine ⟨fun h i hi => ?_, fun h i hi => h i (by omega)⟩
  by_cases hn : max n 1 ≤ 49153
  · exact h i (by omega)
  · have hlast := h 49152 (by omega)
    rw [groupHas_high (by omega)] at hlast
    cases hlast

section
variable {m : Msg} {g : Nat}

theorem State.regOffset_mod (s : State) (m : Msg) : s.regOffset m % 4 = 0 := by
  unfold State.regOffset
  split <;> omega

variable (hst : s.node.state ∈ statesLUCRS) (hcur : s.fw.cur = some m) (hmin : 8 ≤ m.length) (hmax : m.length ≤ 248)
include hst hcur hmin hmax

/-- A register read: REFUSED, or the words as they read. -/
theorem State.regRead_spec {op : BitVec 16} (hg : BitVec.ofNat 16 (g * 256 + 0xF0) = op) (hop : m.opcode = op) :
    s.regRead g = (
      let off := s.begun.regOffset m
      let n := s.begun.legal 1 1 62 (m.field 4 4)
      let r := State.readRegs n (s.begun.skip 2) off
      if (∀ i, i < max (m.field 4 4) 1 → groupHas g (m.field 0 4 / 4 * 4 + 4 * i) = true) ∧
          ∀ i, i < n → groupHas g (off + 4 * i) = true then
        .next (r.2.answer m 0 (r.1.flatMap fun w => leBytes 4 w.toNat))
      else .next ((s.begun.skip 2).answer m 4 [])) := by
  have hoff : s.begun.regOffset m / 4 * 4 = s.begun.regOffset m := by
    have := s.begun.regOffset_mod m
    omega
  have hn : max (s.begun.legal 1 1 62 (m.field 4 4)) 1 = s.begun.legal 1 1 62 (m.field 4 4) :=
    max_eq_left (s.begun.legal_mem 1 (m.field 4 4) (by omega)).1
  rw [State.regRead, State.command_of_cur hst hcur (hop.trans hg.symm) hmin hmax]
  dsimp only
  by_cases ha : leavesGroup g (m.field 0 4) (m.field 4 4) = false
  · by_cases hb : leavesGroup g (s.begun.regOffset m) (s.begun.legal 1 1 62 (m.field 4 4)) = false
    · rw [if_neg (by simp [ha, hb])]
      rw [leavesGroup_eq_false, hoff, hn] at hb
      rw [if_pos ⟨leavesGroup_eq_false.1 ha, hb⟩]
    · rw [if_pos (.inr (by simpa using hb))]
      rw [leavesGroup_eq_false, hoff, hn] at hb
      rw [if_neg fun h => hb h.2]
  · rw [if_pos (.inl (by simpa using ha)), if_neg fun h => ha (leavesGroup_eq_false.2 h.1)]

/-- A flag clear: REFUSED, or the W1C bits cleared and the word as it then reads. -/
theorem State.regClear_spec {op : BitVec 16} (hg : BitVec.ofNat 16 (g * 256 + 0xF1) = op) (hop : m.opcode = op) :
    s.regClear g = (
      let at' := m.field 0 4 / 4 * 4
      let u := s.begun.clearFlags at' (BitVec.ofNat 32 (m.field 4 4))
      if groupHas g at' then .next ((u.readClear at').answer m 0 (leBytes 4 (u.readWord at').toNat))
      else .next (s.begun.answer m 4 [])) := by
  rw [State.regClear, State.command_of_cur hst hcur (hop.trans hg.symm) hmin hmax]
  dsimp only
  by_cases h : groupHas g (m.field 0 4 / 4 * 4) = true
  · rw [if_neg (by simp [h]), if_pos h]
    simp [State.readRegs]
  · rw [if_pos h, if_neg h]

end

/-- Settles O33: the sixteen commands are two operations, each of a group; OFFSET and COUNT are what the node takes them as. -/
theorem registerGroupsReadAndClear : Obligations.RegisterGroupsReadAndClear := by
  intro s m hst hcur hmin hmax
  have hn := s.begun.legal_mem 1 (m.field 4 4) (show 1 ≤ 62 by omega)
  have hread {op : BitVec 16} (g : Nat) (hg : BitVec.ofNat 16 (g * 256 + 0xF0) = op) (hop : m.opcode = op) :=
    State.regRead_spec hst hcur hmin hmax hg hop
  have hclear {op : BitVec 16} (g : Nat) (hg : BitVec.ofNat 16 (g * 256 + 0xF1) = op) (hop : m.opcode = op) :=
    State.regClear_spec hst hcur hmin hmax hg hop
  refine ⟨s.begun.regOffset m, s.begun.legal 1 1 62 (m.field 4 4), s.begun.regOffset_mod m, hn.1, hn.2, fun h => if_pos h,
    fun h h' => State.legal_of_mem h h', ?_⟩
  exact ⟨⟨hread 1 rfl, hread 3 rfl, hread 4 rfl, hread 5 rfl, hread 6 rfl, hread 7 rfl, hread 8 rfl, hread 9 rfl⟩,
    hclear 1 rfl, hclear 3 rfl, hclear 4 rfl, hclear 5 rfl, hclear 6 rfl, hclear 7 rfl, hclear 8 rfl, hclear 9 rfl⟩

end Sys2Proof.Machine

namespace Sys2Proof.Machine

variable {s u : State} {P : Comp → Prop} {m a : Nat}

/-! ## Code words as the memory commands and the aperture read them (R319, R358) -/

theorem State.segRead_touch (h : Touch P s u) (hs : ∀ c, memParts 2 c → P c) : Touch P s (u.segRead a).2 := by
  have hr : Touch P s (u.readCw 2 a).2 := State.readCw_touch h hs
  unfold State.segRead
  dsimp only
  split
  · exact hr
  · split
    · split
      · exact hr
      · split <;> exact hr
    · exact hr

theorem State.readWords_touch {n : Nat} (h : Touch P s u) (hs : ∀ c, memParts m c → P c) :
    Touch P s (State.readWords n u m a).2 := by
  induction n generalizing u a with
  | zero => exact h
  | succ n ih =>
    refine ih ?_
    split
    · rename_i hm
      exact State.segRead_touch h (hm ▸ hs)
    · exact State.readCw_touch h hs

theorem State.readWords_length (n : Nat) (s : State) (m a : Nat) : (State.readWords n s m a).1.length = n := by
  induction n generalizing s a with
  | zero => rfl
  | succ n ih => simp [State.readWords, ih]

/-- No merge buffer entry for a code word: nothing drains before a read of it. -/
theorem State.drainFor_of_not_buffered (h : ∀ e ∈ (s.mem m).buffer, e.addr ≠ a) : s.drainFor m a = s := by
  rw [State.drainFor, List.find?_eq_none.2 (by simpa using h)]

/-- A sound code word reads as its data, and the read leaves the state as it is. -/
theorem State.readCw_of_sound (h : s.soundCw m a) : s.readCw m a = (some (cwData (s.raw m a)), s) := by
  obtain ⟨hunit, hbuf, -, hclean⟩ := h
  have hret : ¬ (m ≠ 0 ∧ s.unitRetired m (a / 256) = true) := fun ⟨hm, hr⟩ => by simp [hunit.resolve_left hm] at hr
  rw [State.readCw, if_neg hret, State.drainFor_of_not_buffered hbuf]
  dsimp only
  rw [hclean]

theorem State.segRead_of_sound (h : s.soundCw 2 a) : s.segRead a = (some (cwData (s.raw 2 a)), s) := by
  have hstage := h.2.2.1 rfl
  have hret : ¬ s.unitRetired 2 (a / 256) = true := by simp [h.1.resolve_left (by omega)]
  rw [State.segRead, State.readCw_of_sound h]
  dsimp only
  rw [if_neg hret]
  split
  · rename_i g hg
    rw [hg] at hstage
    rw [if_pos (by simpa using hstage)]
  · rfl

/-- Successive sound code words. -/
theorem State.readWords_of_sound (n : Nat) (h : ∀ k, k < n → s.soundCw m (a + k)) :
    State.readWords n s m a = ((List.range n).map fun k => some (cwData (s.raw m (a + k))), s) := by
  induction n generalizing a with
  | zero => rfl
  | succ n ih =>
    have h0 : s.soundCw m a := h 0 (by omega)
    have hone : (if m = 2 then s.segRead a else s.readCw m a) = (some (cwData (s.raw m a)), s) := by
      split
      · rename_i hm
        subst hm
        exact State.segRead_of_sound h0
      · exact State.readCw_of_sound h0
    have hrest := ih (a := a + 1) fun k hk => by
      have := h (k + 1) (by omega)
      rwa [show a + (k + 1) = a + 1 + k by omega] at this
    rw [State.readWords]
    rw [hone, hrest, List.range_succ_eq_map]
    simp [Function.comp_def, Nat.add_comm, Nat.add_left_comm]

/-! ## MEM_RETIRE, MEM_LOG_READ and MEM_READ (R334, R336, R358, R409) -/

theorem retireNames_lt {unit index : Nat} (h : retireNames m unit index = true) : m < 3 := by
  simp [retireNames] at h
  exact h.1

/-- A page that is retired joins the retired ones, and its memory's total goes up. -/
theorem State.retireUnit_page (s : State) (m index : Nat) :
    (s.retireUnit m 0 index).prot.pages = s.prot.pages ++ [(m, index)] ∧ (s.retireUnit m 0 index).prot.banks = s.prot.banks ∧
      (s.retireUnit m 0 index).getF (R.retiredPages m) = (s.getF (R.retiredPages m) + 1) % 512 :=
  ⟨rfl, rfl, State.getF_setF_same _ (R.retiredPages m) _ (by simp [R.retiredPages])⟩

/-- A bank that is retired joins the retired ones, and its memory's total goes up. -/
theorem State.retireUnit_bank (s : State) (m index : Nat) :
    (s.retireUnit m 1 index).prot.banks = s.prot.banks ++ [(m, index)] ∧ (s.retireUnit m 1 index).prot.pages = s.prot.pages ∧
      (s.retireUnit m 1 index).getF (R.retiredBanks m) = (s.getF (R.retiredBanks m) + 1) % 8 :=
  ⟨rfl, rfl, State.getF_setF_same _ (R.retiredBanks m) _ (by simp [R.retiredBanks])⟩

/-- The reply of MEM_RETIRE: the node's totals. -/
def State.retireReply (s : State) (g : Msg) : State :=
  s.answer g 0 (leBytes 2 s.prot.pages.length ++ leBytes 1 s.prot.banks.length)

/-- MEM_RETIRE: REFUSED, or the totals, after the unit is retired where it was not. -/
theorem execMemRetire_taken {g : Msg} (h : Taken s 0x700 4 statesUCRS g) :
    exec .memRetire s = .next (
      let m := g.byte 0
      let unit := g.byte 1
      let index := g.field 2 2
      if retireNames m unit index = false then s.begun.answer g 4 []
      else if s.alreadyRetired m unit index then s.begun.retireReply g
      else if (unit = 0 ∧ 256 ≤ s.prot.pages.length) ∨ (unit = 1 ∧ 4 ≤ s.prot.banks.length) then s.begun.answer g 4 []
      else (s.begun.retireUnit m unit index).retireReply g) := by
  have he : exec .memRetire s = .next (s.command 0x700 4 statesUCRS _) := rfl
  rw [he, h.command]
  by_cases hn : retireNames (g.byte 0) (g.byte 1) (g.field 2 2) = false
  · simp only [hn]
    rfl
  · simp only [Bool.not_eq_false] at hn
    simp only [hn]
    rfl

/-- A retired unit shows after the reply. -/
theorem State.retireReply_shows {g : Msg} (hm : g.mbox < 16) (h : m < 3) :
    (u.retireReply g).prot.pages = u.prot.pages ∧ (u.retireReply g).prot.banks = u.prot.banks ∧
      (u.retireReply g).getF (R.retiredPages m) = u.getF (R.retiredPages m) ∧
      (u.retireReply g).getF (R.retiredBanks m) = u.getF (R.retiredBanks m) ∧
      (u.retireReply g).getF (R.mboxState g.mbox) = 0 := by
  have hk : (u.retireReply g).kept = u.kept := State.answer_kept _ _ _ _
  refine ⟨kept_pages hk, kept_banks hk, State.answer_getF _ _ _ _ hm ?_, State.answer_getF _ _ _ _ hm ?_,
    State.answer_mboxState _ _ _ _⟩ <;> simp [R.retiredPages, R.retiredBanks] <;> omega

/-- Code words that are answered: the data of those inside the memory, zeros beyond it. -/
theorem readWords_padded (n w : Nat) (f : Nat → BitVec 128) :
    (((List.range (min n (w - a))).map fun k => some (f k)) ++ List.replicate (n - min n (w - a)) (some 0)) =
      (List.range n).map fun k => some (if a + k < w then f k else 0) := by
  apply List.ext_getElem
  · simp
  · intro i h1 h2
    rw [List.getElem_append]
    simp only [List.length_map, List.length_range] at h2 ⊢
    by_cases hi : a + i < w
    · rw [dif_pos (by omega)]
      simp [hi]
    · rw [dif_neg (by omega)]
      simp [hi]

/-- The map of poisoned words of a list that has none. -/
theorem poisonMap_eq_zero (l : List Nat) (f : Nat → BitVec 128) :
    ((((l.map fun k => some (f k)).zipIdx).map fun (e : Option (BitVec 128) × Nat) =>
      if e.1.isNone then 2 ^ e.2 else 0).sum) = 0 := by
  refine List.sum_eq_zero fun x hx => ?_
  obtain ⟨⟨d, i⟩, hd, rfl⟩ := List.mem_map.1 hx
  obtain ⟨k, -, rfl⟩ := List.mem_map.1 (List.fst_mem_of_mem_zipIdx hd)
  rfl

/-- What MEM_READ does: the memory it names, or a free one, is read, and the message answered. -/
def State.memReadReply (s : State) (g : Msg) (m n : Nat) : State :=
  let a := g.field 4 4
  let inside := min n (memWords m - a)
  let r := State.readWords inside s m a
  let l : List (Option (BitVec 128)) := r.1 ++ List.replicate (n - inside) (some 0)
  let map := ((l.zipIdx).map fun (e : Option (BitVec 128) × Nat) => if e.1.isNone then 2 ^ e.2 else 0).sum
  r.2.answer g 0 (leBytes 2 map ++ leBytes 6 0 ++ l.flatMap fun (d : Option (BitVec 128)) =>
    match d with | some v => leBytes 16 v.toNat | none => List.replicate 16 0xEE)

theorem execMemRead_taken {g : Msg} (h : Taken s 0x702 12 statesLUCRS g) :
    exec .memRead s = .next ((s.begun.skip 2).memReadReply g (s.begun.legal 0 0 2 (g.byte 0)) (s.begun.legal 1 1 15 (g.byte 8))) :=
  congrArg Host.Outcome.next (h.command _)

theorem State.memReadReply_touch (g : Msg) (m n : Nat) :
    Touch (fun c => answerParts g.mbox c ∨ memParts m c) s (s.memReadReply g m n) :=
  State.answer_touch (State.readWords_touch (Touch.refl _ s) fun _ h => .inr h) fun _ h => .inl h

theorem State.memReadReply_of_sound {g : Msg} {n : Nat}
    (h : ∀ k, k < n → g.field 4 4 + k < memWords m → s.soundCw m (g.field 4 4 + k)) :
    s.memReadReply g m n = s.answer g 0 (leBytes 8 0 ++ (List.range n).flatMap fun k =>
      leBytes 16 (if g.field 4 4 + k < memWords m then (cwData (s.raw m (g.field 4 4 + k))).toNat else 0)) := by
  have hr := State.readWords_of_sound (s := s) (m := m) (a := g.field 4 4) (min n (memWords m - g.field 4 4))
    fun k hk => h k (by omega) (by omega)
  unfold State.memReadReply
  dsimp only
  rw [hr]
  dsimp only
  rw [readWords_padded n (memWords m) (fun k => cwData (s.raw m (g.field 4 4 + k))), poisonMap_eq_zero, List.flatMap_map]
  congr 2
  refine congrArg List.flatten (List.map_congr_left fun k _ => ?_)
  show leBytes 16 (if g.field 4 4 + k < memWords m then cwData (s.raw m (g.field 4 4 + k)) else 0).toNat = _
  split <;> rfl

/-- Settles O39. -/
theorem memoryCommandsRetireAndRead : Obligations.MemoryCommandsRetireAndRead := by
  refine ⟨fun s g h => ?_, fun s m h => ?_, fun s g h hm hpos hmax hsound => ?_, fun s g h => ?_⟩
  · have he := execMemRetire_taken h
    have hbox : g.mbox < 16 := h.2.1
    dsimp only at he ⊢
    rw [he]
    refine ⟨fun hn => by rw [if_pos hn], fun hn hr => ?_, fun hn hr hu hp => ?_, fun hn hr hu hb => ?_, fun hn hr hu hp => ?_,
      fun hn hr hu hb => ?_⟩
    · rw [if_neg (by simp [hn]), if_pos hr]
      rfl
    · rw [if_neg (by simp [hn]), if_neg (by simp [hr]), if_pos (.inl ⟨hu, hp.ge⟩)]
    · rw [if_neg (by simp [hn]), if_neg (by simp [hr]), if_pos (.inr ⟨hu, hb.ge⟩)]
    · rw [if_neg (by simp [hn]), if_neg (by simp [hr]), if_neg (by omega), hu]
      obtain ⟨hpages, hbanks, htotal⟩ := s.begun.retireUnit_page (g.byte 0) (g.field 2 2)
      obtain ⟨hpages', hbanks', htotal', -, hbox'⟩ := State.retireReply_shows
        (u := s.begun.retireUnit (g.byte 0) 0 (g.field 2 2)) hbox (retireNames_lt hn)
      exact ⟨_, rfl, hpages'.trans hpages, hbanks'.trans hbanks, htotal'.trans htotal, hbox'⟩
    · rw [if_neg (by simp [hn]), if_neg (by simp [hr]), if_neg (by omega), hu]
      obtain ⟨hbanks, hpages, htotal⟩ := s.begun.retireUnit_bank (g.byte 0) (g.field 2 2)
      obtain ⟨hpages', hbanks', -, htotal', hbox'⟩ := State.retireReply_shows
        (u := s.begun.retireUnit (g.byte 0) 1 (g.field 2 2)) hbox (retireNames_lt hn)
      exact ⟨_, rfl, hbanks'.trans hbanks, hpages'.trans hpages, htotal'.trans htotal, hbox'⟩
  · have hn := s.begun.legal_mem 0 (m.byte 1) (show 1 ≤ 15 by omega)
    exact ⟨s.begun.legal 0 1 15 (m.byte 1), hn.1, hn.2, fun h1 h2 => State.legal_of_mem h1 h2,
      congrArg Host.Outcome.next (h.command _)⟩
  · rw [execMemRead_taken h, State.legal_of_mem (Nat.zero_le _) hm, State.legal_of_mem hpos hmax]
    exact congrArg Host.Outcome.next (State.memReadReply_of_sound hsound)
  · have hm := s.begun.legal_mem 0 (g.byte 0) (Nat.zero_le 2)
    refine ⟨s.begun.legal 0 0 2 (g.byte 0), hm.2, fun h2 => State.legal_of_mem (Nat.zero_le _) h2, _, execMemRead_taken h,
      State.answer_mboxState _ _ _ _, ?_⟩
    have hbegun : Touch (fun c => answerParts g.mbox c ∨ memParts (s.begun.legal 0 0 2 (g.byte 0)) c ∨ c = .fw ∨ c = .free) s
        (s.begun.skip 2) :=
      State.skip_touch ((Touch.refl _ s).upd (hfw := .inl (by simp))) (by simp)
    exact (hbegun.trans ((State.memReadReply_touch _ _ _).mono fun c hc => hc.imp_right .inl)).frame

end Sys2Proof.Machine

namespace Sys2Proof.Machine

variable {s : State}

/-! ## TB_RESTART (R53, R405) -/

theorem State.setTb_regionState (s : State) (r st q : Nat) :
    (s.setTb r st).regionState q = if q = r then st % 8 else s.regionState q := by
  have hfrozen : ∀ (u : State) (v : Nat), (u.setF (R.calFrozen r) v).getF (R.tbState q) = u.getF (R.tbState q) := fun u v =>
    State.getF_setF_other u v (.inr (.inl (by simp [R.tbState, R.calFrozen]))) (by simp [R.tbState])
  unfold State.setTb State.regionState
  rw [hfrozen]
  split
  · rename_i h
    subst h
    exact State.getF_setF_same s (R.tbState q) st (by simp [R.tbState])
  · exact State.getF_setF_other s st (.inl (by simp [R.tbState]; omega)) (by simp [R.tbState])

/-- A region that begins ACQUIRE is in ACQUIRE; the others stay. -/
theorem State.tbAcquire_regionState (s : State) (r q : Nat) :
    (s.tbAcquire r).regionState q = if q = r then 1 else s.regionState q := State.setTb_regionState _ _ _ _

theorem State.foldl_tbAcquire_regionState (l : List Nat) (s : State) (q : Nat) :
    (l.foldl (fun (s : State) (r : Nat) => s.tbAcquire r) s).regionState q = if q ∈ l then 1 else s.regionState q := by
  induction l generalizing s with
  | nil => simp
  | cons r l ih =>
    rw [List.foldl_cons, ih, State.tbAcquire_regionState]
    by_cases h : q ∈ l <;> by_cases hr : q = r <;> simp [h, hr]

theorem mem_bitsOf {n v i : Nat} : i ∈ bitsOf n v ↔ i < n ∧ v / 2 ^ i % 2 = 1 := by simp [bitsOf]

theorem State.answer_regionState (s : State) {m : Msg} {st r : Nat} {l : List Byte} (hm : m.mbox < 16) (hr : r < 8) :
    (s.answer m st l).regionState r = s.regionState r :=
  State.answer_getF s m st l hm (.inl (by simp [R.tbState]; omega))

/-! ## CAL_RESTART (R77-R79, R405) -/

/-- The calibration of a cell starts anew. -/
def State.restartCal (s : State) (c : Nat) : State :=
  (((s.setCell c { s.cell c with calTotal := 0, calSeg := [], rejectRun := 0 }).setF (R.calSuspect c) 0).setF
    (R.calUpdates c) 0).setF (R.calConverged c) 0

/-- The calibration of cell `c` has started anew in `t`, its table kept from `s`. -/
structure CalFresh (s t : State) (c : Nat) : Prop where
  total : (t.cell c).calTotal = 0
  seg : (t.cell c).calSeg = []
  run : (t.cell c).rejectRun = 0
  updates : t.getF (R.calUpdates c) = 0
  suspect : t.getF (R.calSuspect c) = 0
  converged : t.getF (R.calConverged c) = 0
  table : (t.cell c).table = (s.cell c).table

theorem State.restartCal_cell_other (s : State) {c d : Nat} (h : d ≠ c) : (s.restartCal c).cell d = s.cell d :=
  State.setCell_cell_other s _ h

theorem State.restartCal_word_other (s : State) {c d : Nat} (h : d ≠ c) :
    (s.restartCal c).word (0x20000 + 0x20 * d) = s.word (0x20000 + 0x20 * d) := by
  have ho : 0x20000 + 0x20 * d ≠ 0x20000 + 0x20 * c := by omega
  unfold State.restartCal
  rw [State.setF_word_other _ _ ho, State.setF_word_other _ _ ho, State.setF_word_other _ _ ho]
  rfl

theorem State.restartCal_fresh (s : State) (c : Nat) : CalFresh s (s.restartCal c) c := by
  have hcell : (s.restartCal c).cell c = { s.cell c with calTotal := 0, calSeg := [], rejectRun := 0 } :=
    State.setCell_cell_same _ _ _
  refine ⟨by rw [hcell], by rw [hcell], by rw [hcell], ?_, ?_, ?_, by rw [hcell]; rfl⟩ <;> unfold State.restartCal
  · rw [State.getF_setF_other _ _ (by simp [R.calUpdates, R.calConverged]) (by simp [R.calUpdates]),
      State.getF_setF_same _ _ _ (by simp [R.calUpdates])]
    rfl
  · rw [State.getF_setF_other _ _ (by simp [R.calSuspect, R.calConverged]) (by simp [R.calSuspect]),
      State.getF_setF_other _ _ (by simp [R.calSuspect, R.calUpdates]) (by simp [R.calSuspect]),
      State.getF_setF_same _ _ _ (by simp [R.calSuspect])]
    rfl
  · rw [State.getF_setF_same _ _ _ (by simp [R.calConverged])]
    rfl

/-- What a cell's calibration reads is its part of the state and one register word. -/
theorem CalFresh.congr {s s' t t' : State} {c : Nat} (h : CalFresh s t c) (hs : s'.cell c = s.cell c) (hc : t'.cell c = t.cell c)
    (hw : t'.word (0x20000 + 0x20 * c) = t.word (0x20000 + 0x20 * c)) : CalFresh s' t' c := by
  have hreg : ∀ f : RF, f.off = 0x20000 + 0x20 * c → t'.getF f = t.getF f := fun f hf => by
    rw [State.getF, State.getF, hf, hw]
  exact ⟨by rw [hc, h.total], by rw [hc, h.seg], by rw [hc, h.run], (hreg _ rfl).trans h.updates, (hreg _ rfl).trans h.suspect,
    (hreg _ rfl).trans h.converged, by rw [hc, hs, h.table]⟩

/-- The calibration of a range of cells starts anew; every other cell stays. -/
theorem State.foldl_restartCal (s : State) (first n : Nat) :
    let t := (List.range n).foldl (fun (s : State) (i : Nat) => s.restartCal (first + i)) s
    (∀ c, first ≤ c → c < first + n → CalFresh s t c) ∧ ∀ c, c < first ∨ first + n ≤ c → t.cell c = s.cell c := by
  induction n with
  | zero => exact ⟨fun c h h' => absurd h' (by omega), fun c _ => rfl⟩
  | succ n ih =>
    obtain ⟨hin, hout⟩ := ih
    rw [List.range_succ, List.foldl_append]
    refine ⟨fun c h h' => ?_, fun c h => ?_⟩
    · by_cases hc : c = first + n
      · subst hc
        exact (State.restartCal_fresh _ (first + n)).congr (hout _ (.inr (Nat.le_refl _))).symm rfl rfl
      · exact (hin c h (by omega)).congr rfl (State.restartCal_cell_other _ hc) (State.restartCal_word_other _ hc)
    · exact (State.restartCal_cell_other _ (show c ≠ first + n by omega)).trans (hout c (by omega))

/-! ## CAL_TABLE_READ and CAL_TABLE_WRITE (R76, R405) -/

/-- With no table word damaged a table reads as it stands, and nothing changes. -/
theorem State.inlTable_intact (c : Nat) (h : (s.mem 5).cells = []) : s.inlTable c = (((s.cell c).table, 0), s) := by
  unfold State.inlTable
  refine List.foldl_fixed' (fun g => ?_) _
  rw [State.tableCw_intact h]
  rfl

theorem Tab.get_update {α : Type} [DecidableEq α] (d : α) (t : Tab α) (lo n : Nat) (f : Nat → α → α) (k : Nat) :
    Tab.get d (Tab.update d t lo n f) k = if lo ≤ k ∧ k < lo + n then f k (Tab.get d t k) else Tab.get d t k := by
  induction n with
  | zero => rw [if_neg (by omega)]; rfl
  | succ n ih =>
    rw [Tab.update]
    by_cases hk : k = lo + n
    · subst hk
      rw [Tab.get_set_same, if_pos (by omega), ih, if_neg (by omega)]
    · rw [Tab.get_set_other _ _ _ hk, ih]
      by_cases h : lo ≤ k ∧ k < lo + n
      · rw [if_pos h, if_pos (by omega)]
      · rw [if_neg h, if_neg (by omega)]

theorem State.tableWrite_cell (s : State) (l : List Nat) (c : Nat) : (s.tableWrite l).cell c = s.cell c :=
  (State.tableWrite_touch (P := (· = .mem 5)) (Touch.refl _ s) rfl).same (c := .cell c) (by simp)

/-- A table that is loaded is the active one, and no other cell changes. -/
theorem State.calLoad_spec (s : State) (c : Nat) (tab : Tab Int) :
    ((s.calLoad c tab).cell c).activeB = !(s.cell c).activeB ∧ ((s.calLoad c tab).cell c).table = tab ∧
      ∀ d, d ≠ c → (s.calLoad c tab).cell d = s.cell d := by
  have hcell : (s.calLoad c tab).cell c = if (s.cell c).activeB then { s.cell c with tableA := tab, activeB := false }
      else { s.cell c with tableB := tab, activeB := true } := State.setCell_cell_same _ _ _
  rw [hcell]
  refine ⟨?_, ?_, fun d hd => (State.setCell_cell_other _ _ hd).trans (s.tableWrite_cell _ d)⟩
  · split <;> simp_all
  · split <;> rfl

/-- FIRST_CELL and COUNT are taken within the 2,048 cells. -/
theorem State.cellRange_spec (s : State) (m : Msg) :
    0 < (s.cellRange m).2 ∧ (s.cellRange m).1 + (s.cellRange m).2 ≤ 2048 ∧
      (m.field 0 2 ≤ 2047 → (s.cellRange m).1 = m.field 0 2 ∧
        (0 < m.field 2 2 → (s.cellRange m).1 + m.field 2 2 ≤ 2048 → (s.cellRange m).2 = m.field 2 2)) := by
  have hf := s.legal_mem 0 (m.field 0 2) (Nat.zero_le 2047)
  have hc := s.legal_mem 1 (m.field 2 2) (show 1 ≤ 2048 - s.legal 0 0 2047 (m.field 0 2) by omega)
  refine ⟨hc.1, ?_, fun h => ⟨State.legal_of_mem (Nat.zero_le _) h, fun hn hs => State.legal_of_mem hn ?_⟩⟩
  · show s.legal 0 0 2047 (m.field 0 2) + s.legal 1 1 (2048 - s.legal 0 0 2047 (m.field 0 2)) (m.field 2 2) ≤ 2048
    omega
  · have : s.legal 0 0 2047 (m.field 0 2) + m.field 2 2 ≤ 2048 := hs
    omega

/-- Settles O36. -/
theorem timebaseAndCalibrationCommandsAct : Obligations.TimebaseAndCalibrationCommandsAct := by
  refine ⟨fun s m h => ?_, fun s m h => ?_, fun s m h => ?_, fun s m h => ?_⟩
  · have hm : m.mbox < 16 := h.2.1
    refine ⟨_, congrArg Host.Outcome.next (h.command _), fun r hr hfail hnamed => ?_, fun r hr hnot => ?_,
      State.answer_mboxState _ _ _ _⟩
    · rw [State.answer_regionState _ hm hr, State.foldl_tbAcquire_regionState, if_pos]
      exact List.mem_filter.2 ⟨mem_bitsOf.2 ⟨hr, hnamed⟩, decide_eq_true hfail⟩
    · rw [State.answer_regionState _ hm hr, State.foldl_tbAcquire_regionState, if_neg]
      · rfl
      · intro hmem
        obtain ⟨hbit, hst⟩ := List.mem_filter.1 hmem
        have hfail : s.regionState r = 5 := of_decide_eq_true hst
        have hnamed := (mem_bitsOf.1 hbit).2
        omega
  · have hm : m.mbox < 16 := h.2.1
    obtain ⟨hpos, hle, hnamed⟩ := s.begun.cellRange_spec m
    obtain ⟨hin, hout⟩ := (s.begun.skip 2).foldl_restartCal (s.begun.cellRange m).1 (s.begun.cellRange m).2
    refine ⟨_, _, hpos, hle, hnamed, _, congrArg Host.Outcome.next (h.command _), fun c h1 h2 => ?_, fun c hc => ?_⟩
    · have hword : ¬ answerParts m.mbox (.reg (0x20000 + 0x20 * c)) := not_answerParts_reg hm (by omega)
      obtain ⟨htotal, hseg, hrun, hupd, hsus, hconv, htab⟩ := (hin c h1 h2).congr (s' := s) rfl (State.answer_cell _ m 0 [] c)
        ((State.answer_touches _ m 0 []).word hword)
      exact ⟨htotal, hseg, hrun, hupd, hsus, hconv, htab⟩
    · exact (State.answer_cell _ m 0 [] c).trans (hout c hc)
  · refine ⟨s.begun.legal 0 0 2047 (m.field 0 2), (s.begun.legal_mem 0 _ (Nat.zero_le 2047)).2,
      fun hle => State.legal_of_mem (Nat.zero_le _) hle, congrArg Host.Outcome.next (h.command _), fun h5 => ?_⟩
    exact State.inlTable_intact _ h5
  · obtain ⟨hactive, htable, hother⟩ := (s.begun.skip 1).calLoad_spec (s.begun.legal 0 0 2047 (m.field 0 2))
      (Tab.update 0 [] 1 63 fun i _ => signed 16 (m.field (8 + 2 * i) 2))
    refine ⟨s.begun.legal 0 0 2047 (m.field 0 2), (s.begun.legal_mem 0 _ (Nat.zero_le 2047)).2,
      fun hle => State.legal_of_mem (Nat.zero_le _) hle, _, congrArg Host.Outcome.next (h.command _), ?_, ?_, fun i hi hi' => ?_,
      fun d hd => ?_, State.answer_mboxState _ _ _ _⟩
    · rw [State.answer_cell]
      exact hactive
    · rw [State.answer_cell, htable, Tab.get_update, if_neg (by omega)]
      rfl
    · rw [State.answer_cell, htable, Tab.get_update, if_pos (by omega)]
    · rw [State.answer_cell]
      exact hother d hd

end Sys2Proof.Machine

namespace Sys2Proof.Machine

/-! ## The straps and the boot -/

/-- The word of role and pair state as the straps leave it (R1, R294). -/
def strapWord (role : BitVec 2) (en pos : Bool) : BitVec 80 := BitVec.ofNat 80 (role.toNat + boolNat en * 4 + boolNat pos * 8)

theorem strapWord_toNat (role : BitVec 2) (en pos : Bool) :
    (strapWord role en pos).toNat = role.toNat + boolNat en * 4 + boolNat pos * 8 := by
  have hrole := role.isLt
  refine Nat.mod_eq_of_lt ?_
  cases en <;> cases pos <;> simp [boolNat] <;> omega

section
variable {s : State} {role : BitVec 2} {en pos : Bool} (h : s.triWord 1 = strapWord role en pos)
include h

theorem State.role_of_straps : s.role = role.toNat := by
  have hrole := role.isLt
  simp only [State.role, State.triBits, h, strapWord_toNat, nget, Nat.shiftRight_zero]
  cases en <;> cases pos <;> simp [boolNat] <;> omega

theorem State.pairPos_of_straps : s.pairPos = boolNat pos := by
  have hrole := role.isLt
  simp only [State.pairPos, State.triBits, h, strapWord_toNat, nget, Nat.shiftRight_eq_div_pow]
  cases en <;> cases pos <;> simp [boolNat] <;> omega

theorem State.pairEn_of_straps : s.triBits 1 2 1 = boolNat en := by
  have hrole := role.isLt
  simp only [State.triBits, h, strapWord_toNat, nget, Nat.shiftRight_eq_div_pow]
  cases en <;> cases pos <;> simp [boolNat] <;> omega

theorem State.merging_of_straps : s.merging = (role = 1 || role = 2) := by
  simp [State.merging, State.role_of_straps h, ← BitVec.toNat_inj]

theorem State.paired_of_straps : s.paired = (en && (role = 1 || role = 2)) := by
  rw [State.paired, State.merging_of_straps h, State.pairEn_of_straps h]
  cases en <;> simp [boolNat]

end

section
variable (s : State)

/-- What firmware reads as it boots changes nothing that is kept but its record of the retirement map. -/
theorem State.bootReads_kept :
    s.bootReads.2.kept = { s.kept with fw := { s.kept.fw with noRecord := s.bootReads.2.fw.noRecord } } := by
  have hread : ∀ (m : Nat) (l : List (Nat × BitVec 152)) (r : Bool × State),
      (l.foldl (fun (r : Bool × State) (e : Nat × BitVec 152) => let x := r.2.readCw m e.1; (r.1 || x.1.isNone, x.2)) r).2.kept
        = r.2.kept := fun m => kept_foldl_snd fun r e => r.2.readCw_kept m e.1
  have hmap : ∀ (l : List (Nat × BitVec 152)) (r : List Nat × State),
      (l.foldl (fun (r : List Nat × State) (e : Nat × BitVec 152) =>
        let x := r.2.readCw 5 e.1; (if x.1.isNone then e.1 :: r.1 else r.1, x.2)) r).2.kept = r.2.kept :=
    kept_foldl_snd fun r e => r.2.readCw_kept 5 e.1
  unfold State.bootReads
  extract_lets p q
  have hq : q.2.kept = s.kept := (hmap _ _).trans (hread 3 _ _)
  exact congrArg (fun k : Kept => { k with fw := { k.fw with noRecord := q.1 } }) hq

@[simp] theorem State.startTraining_kept (p : Nat) : (s.startTraining p).kept = s.kept := rfl

/-- Entry to LINKUP changes the node's state and, of what is kept, nothing else. -/
theorem State.enterLinkup_kept : s.enterLinkup.kept = { s.kept with node := { s.kept.node with state := .linkup } } := by
  unfold State.enterLinkup
  rw [kept_foldl fun v p => kept_ite (v.startTraining_kept p) rfl, State.msix_kept, State.noticeRaw_kept, State.bootNotice,
    State.noticeRaw_kept]
  rfl

theorem State.msix_node (v : Nat) : (s.msix v).node = s.node := by
  unfold State.msix
  split
  · rfl
  · split <;> rfl

theorem State.storeRaw_node (q : Nat) (c : Cls) (ws : List PWord) : (s.storeRaw q c ws).node = s.node :=
  (State.storeRaw_touch (Touch.refl storeParts s) fun _ h => h).same (c := .node) id

theorem State.noticeRaw_node (code : Nat) (l : List Byte) : (s.noticeRaw code l).node = s.noticed.node :=
  State.storeRaw_node _ _ _ _

/-- The boot notice and the state notice are the first two (R415). -/
theorem State.enterLinkup_noticeSeq : s.enterLinkup.node.noticeSeq = 2 := by
  have htrain : ∀ (l : List Nat) (v : State),
      (l.foldl (fun v p => if v.portEnabled p then v.startTraining p else v) v).node = v.node := by
    intro l
    induction l with
    | nil => intro v; rfl
    | cons p l ih =>
      intro v
      refine (ih _).trans ?_
      dsimp only
      split <;> rfl
  unfold State.enterLinkup State.bootNotice
  dsimp only
  rw [htrain, State.msix_node, State.noticeRaw_node, State.noticed, State.noticeRaw_node]
  rfl

theorem State.answerOwed_kept : s.answerOwed.kept = { s.kept with owed := [] } :=
  kept_foldl (fun v _ => v.replyTo_kept _ _ _ _ _ _) _ _

theorem State.answerOwed_of_none (h : s.mbox.owed = []) : s.answerOwed = { s with mbox := { s.mbox with owed := [] } } := by
  rw [State.answerOwed, h]
  rfl

/-- The patch in force discarded or not, with PATCH_DISCARDED (R327). -/
def State.patchDropped (s : State) (drop : Bool) : State :=
  { s with fw := if drop then { s.fw with patchInForce := none } else s.fw, node := { s.node with patchDiscarded := drop } }

theorem State.patchDropped_kept (drop : Bool) : (s.patchDropped drop).kept = { s.kept with
    node := { s.kept.node with patchDiscarded := drop }
    fw := { s.kept.fw with patchInForce := if drop then none else s.fw.patchInForce } } := by
  cases drop <;> rfl

theorem State.bootComplete_next (h : s.node.state = .boot) : exec .bootComplete s =
    .next (s.bootReads.2.patchDropped (s.bootReads.1 && s.fw.patchInForce.isSome)).enterLinkup.answerOwed := by
  have hpatch : s.bootReads.2.fw.patchInForce = s.fw.patchInForce := congrArg (·.fw.patchInForce) s.bootReads_kept
  have hdrop : (s.bootReads.1 && s.fw.patchInForce.isSome)
      = decide (s.bootReads.1 = true ∧ s.bootReads.2.fw.patchInForce.isSome = true) := by simp [hpatch]
  rw [hdrop]
  exact congrArg Host.Outcome.next (if_neg (not_not.2 h))

/-- BOOT_COMPLETE at a node in BOOT, with what is kept after it (R327, R415). -/
theorem State.bootComplete_spec (h : s.node.state = .boot) :
    ∃ t, exec .bootComplete s = .next t ∧ (s.mbox.owed = [] → t.node.noticeSeq = 2) ∧
      t.kept = { s.kept with
        node := { s.kept.node with state := .linkup, patchDiscarded := s.bootReads.1 && s.fw.patchInForce.isSome }
        fw := { s.kept.fw with
          noRecord := s.bootReads.2.fw.noRecord
          patchInForce := if s.bootReads.1 && s.fw.patchInForce.isSome then none else s.fw.patchInForce }
        owed := [] } := by
  have hboot := s.bootReads_kept
  have hpatch : s.bootReads.2.fw.patchInForce = s.fw.patchInForce := congrArg (·.fw.patchInForce) hboot
  refine ⟨_, s.bootComplete_next h, fun hnone => ?_, ?_⟩
  · generalize hv : s.bootReads.2.patchDropped _ = v
    have howed : v.mbox.owed = [] := by
      rw [← hv]
      exact (congrArg Kept.owed hboot).trans hnone
    rw [State.answerOwed_of_none _ ((congrArg Kept.owed v.enterLinkup_kept).trans howed)]
    exact v.enterLinkup_noticeSeq
  · rw [State.answerOwed_kept, State.enterLinkup_kept, State.patchDropped_kept, hpatch, hboot]

end

/-- The straps in the pair's register word. -/
def State.showStraps (s : State) (paired pos ignored : Nat) : State :=
  ((s.setF R.paired paired).setF R.pairPos pos).setF R.pairIgnored ignored

theorem State.showStraps_paired (s : State) (a b c : Nat) : (s.showStraps a b c).getF R.paired = a % 2 := by
  have hignored : ∀ v : State, (v.setF R.pairIgnored c).getF R.paired = v.getF R.paired := fun v =>
    State.getF_setF_other v (f := R.pairIgnored) (g := R.paired) c (by decide) (by decide)
  have hpos : ∀ v : State, (v.setF R.pairPos b).getF R.paired = v.getF R.paired := fun v =>
    State.getF_setF_other v (f := R.pairPos) (g := R.paired) b (by decide) (by decide)
  rw [State.showStraps, hignored, hpos, State.getF_setF_same _ _ _ (by decide)]
  rfl

theorem State.showStraps_pairIgnored (s : State) (a b c : Nat) : (s.showStraps a b c).getF R.pairIgnored = c % 2 := by
  rw [State.showStraps, State.getF_setF_same _ _ _ (by decide)]
  rfl

theorem boolNat_mod_two (b : Bool) : boolNat b % 2 = boolNat b := by cases b <;> rfl

/-- Settles O9: the sampled straps are one triplicated word, whose bits the role and the pairing are; at the end of the boot the reads of
firmware RAM and the retirement map, the two notices and the answers keep all that the statement names. -/
theorem bootSamplesStrapsAndReachesLinkup : Obligations.BootSamplesStrapsAndReachesLinkup := by
  unfold Obligations.BootSamplesStrapsAndReachesLinkup
  refine ⟨?_, ?_, ?_⟩
  · intro s straps en pos hstate
    let v := s.setTri 1 (strapWord straps.role en pos)
    let w := v.showStraps (boolNat v.paired) (boolNat pos) (boolNat (en && !v.merging))
    let x : State := { w with node := { w.node with state := .boot, vddx := straps.vddx } }
    have hv : v.triWord 1 = strapWord straps.role en pos := s.setTri_triWord_same 1 _
    have hx : x.triWord 1 = strapWord straps.role en pos := hv
    have hnext : exec (.resetRelease straps en pos) s = .next x := congrArg Host.Outcome.next (if_neg (not_not.2 hstate))
    refine ⟨x, hnext, rfl, State.role_of_straps hx, State.pairPos_of_straps hx, State.paired_of_straps hx, ?_, ?_, rfl⟩
    · exact (v.showStraps_paired _ _ _).trans (boolNat_mod_two _)
    · rw [← State.merging_of_straps hv]
      exact (v.showStraps_pairIgnored _ _ _).trans (boolNat_mod_two _)
  · intro s straps en pos hstate
    exact congrArg Host.Outcome.next (if_pos hstate)
  · intro s hstate
    obtain ⟨t, ht, hseq, hk⟩ := s.bootComplete_spec hstate
    refine ⟨t, ht, congrArg (·.node.state) hk, hseq, congrArg Kept.owed hk, ?_, congrArg (·.node.patchDiscarded) hk⟩
    refine (congrArg (·.fw.patchInForce) hk).trans ?_
    cases hp : s.fw.patchInForce <;> simp

end Sys2Proof.Machine

namespace Sys2Proof.Machine

/-! ## Buckets and laps -/

section
variable (s : State) (m : Nat)

/-- A memory notice leaves every register but those of storing an item. -/
theorem State.memNotice_word {o : Nat} (ho : 0x8000 ≤ o) : (s.memNotice m).word o = s.word o := by
  have hn : ¬ (fun c => c = .node ∨ c = .mem m ∨ storeParts c) (.reg o) := by
    simp [storeParts]
    omega
  refine Touch.word (P := fun c => c = .node ∨ c = .mem m ∨ storeParts c) ?_ hn
  refine Touch.ite (Touch.refl _ s) (State.noticeRaw_touch (State.setMem_touch (Touch.refl _ s) (.inr (.inl rfl)) fun h => h) (.inl rfl) ?_)
  exact fun _ h => .inr (.inr h)

theorem State.msix_word (v o : Nat) : (s.msix v).word o = s.word o := by
  unfold State.msix
  split
  · rfl
  · split <;> rfl

/-- An event of a memory that reports itself sets its flag and counts (R16). -/
theorem State.memEvent_getF {f : FlagF} (c : BitVec 3) {g : RF} (hg : 0x8000 ≤ g.off) :
    (s.memEvent m f c).getF g = (s.setFlag f).getF g := by
  simp only [State.getF, State.memEvent]
  rw [State.memNotice_word _ _ hg]
  exact congrArg (fget · g.lo g.w) (State.msix_word _ _ _)

theorem State.setFlag_lapOverdue :
    (s.setFlag (R.lapOverdue m)).getF (R.lapOverdue m).flag = 1 ∧
      (s.setFlag (R.lapOverdue m)).getF (R.lapOverdue m).occ = (s.getF (R.lapOverdue m).occ + 1) % 256 := by
  have hocc : (s.setF (R.lapOverdue m).flag 1).getF (R.lapOverdue m).occ = s.getF (R.lapOverdue m).occ :=
    State.getF_setF_other s (f := (R.lapOverdue m).flag) (g := (R.lapOverdue m).occ) 1 (by simp [R.lapOverdue]) (by simp [R.lapOverdue])
  rw [State.setFlag, State.incWrap, hocc]
  constructor
  · rw [State.getF_setF_other _ (f := (R.lapOverdue m).occ) (g := (R.lapOverdue m).flag) _ (by simp [R.lapOverdue])
      (by simp [R.lapOverdue]), State.getF_setF_same _ _ _ (by simp [R.lapOverdue])]
    rfl
  · rw [State.getF_setF_same _ _ _ (by simp [R.lapOverdue])]
    exact Nat.mod_mod _ _

end

/-! ## Triplicated words -/



/-- The three copies agree. -/
def Tri.Agrees (t : Tri) : Prop := t.a = t.b ∧ t.b = t.c

theorem Tri.eq_of_agrees {t : Tri} (h : t.Agrees) : t = ⟨t.vote, t.vote, t.vote⟩ := by
  obtain ⟨a, b, c⟩ := t
  obtain ⟨hab, hbc⟩ := h
  dsimp only at hab hbc
  rw [← hbc, ← hab, Tri.vote_same]

theorem Tab.get_eq_or_mem {α : Type} (d : α) (t : Tab α) (k : Nat) : Tab.get d t k = d ∨ (k, Tab.get d t k) ∈ t := by
  induction t with
  | nil => exact .inl rfl
  | cons e t ih =>
    obtain ⟨j, v⟩ := e
    simp only [Tab.get]
    split_ifs with hlt heq
    · exact .inl rfl
    · exact .inr (heq ▸ List.mem_cons_self)
    · exact ih.imp_right (List.mem_cons_of_mem _)

/-- The parts that an operation other than a triplicated word's rewrite reaches. -/
def besidesTri (c : Comp) : Prop := (∀ i, c ≠ .tri i) ∧ c ≠ .reg 0x8200

theorem besidesTri_of_reg {o : Nat} (h : o ≠ 0x8200) : besidesTri (.reg o) := ⟨by simp, by simpa using h⟩

theorem besidesTri_of_store {c : Comp} (h : storeParts c) : besidesTri c := by
  cases c with
  | reg o =>
    simp only [storeParts] at h
    exact besidesTri_of_reg (by omega)
  | _ => simp_all [storeParts, besidesTri]

theorem besidesTri_of_log {c : Comp} (h : logParts c) : besidesTri c := by
  obtain rfl | rfl | h := h
  · simp [besidesTri]
  · exact besidesTri_of_reg (by decide)
  · exact besidesTri_of_store h

theorem besidesTri_of_mem {m : Nat} {c : Comp} (hm : m < 6) (h : memParts m c) : besidesTri c := by
  obtain rfl | rfl | ⟨o, rfl, ho⟩ | h := h
  · simp [besidesTri]
  · simp [besidesTri]
  · exact besidesTri_of_reg (by omega)
  · exact besidesTri_of_log h

theorem besidesTri_of_queue {c : Comp} (h : queueParts c) : besidesTri c := by
  obtain rfl | rfl | rfl | rfl | h := h
  · simp [besidesTri]
  · simp [besidesTri]
  · exact besidesTri_of_reg (by decide)
  · exact besidesTri_of_reg (by decide)
  · exact besidesTri_of_mem (by decide) h

section
variable {s u : State} {P : Comp → Prop}

theorem State.setIlk_touch {n code : Nat} (h : Touch P s u) (hk : P .hk) (hr : P (.reg (0xB114 + 4 * n))) :
    Touch P s (u.setIlk n code) :=
  State.setF_touch (State.setSxp_touch h hk) hr

theorem State.flushStaging_touch {c : Nat} (h : Touch P s u) (hc : P (.cell c)) (hm : ∀ c, memParts 2 c → P c) :
    Touch P s (u.flushStaging c) := by
  unfold State.flushStaging
  split
  · exact h
  · dsimp only
    split
    · exact State.drainEntry_touch (State.setCell_touch h hc) hm
    · exact State.setRaw_touch (State.setCell_touch h hc) (hm _ (.inr (.inl rfl)))

theorem State.modeChange_touch {c old new : Nat} (h : Touch P s u) (hc : P (.cell c)) (hr : P (.reg (0x20004 + 0x20 * c)))
    (hm : ∀ c, memParts 2 c → P c) : Touch P s (u.modeChange c old new) := by
  unfold State.modeChange
  extract_lets v n full w lost auto range x y
  have hx : Touch P s x := State.setF_touch (State.incBy_touch (State.setCell_touch h hc) hr) hr
  have hy : Touch P s y := Touch.ite (State.flushStaging_touch hx hc hm) hx
  exact Touch.ite h (Touch.ite (State.setF_touch hy hr) hy)

theorem Touch.tri (h : Touch P s u) {i : Nat} (hc : ¬ P (.tri i)) : Tab.get {} u.prot.tri i = Tab.get {} s.prot.tri i := h.same hc

/-- Entry to SAFE rewrites no triplicated word and counts no repair. -/
theorem State.enterSafe_besidesTri (cause : Nat) : Touch besidesTri u (u.enterSafe cause) := by
  have hpair : besidesTri .pair := by simp [besidesTri]
  have hnode : besidesTri .node := by simp [besidesTri]
  unfold State.enterSafe
  extract_lets wasRunning modes v w src x src' y z
  have hv : Touch besidesTri u v :=
    State.enterState_touch (State.setF_touch (Touch.refl _ u) (besidesTri_of_reg (by decide))) fun _ => besidesTri_of_queue
  have hw : Touch besidesTri u w := Touch.foldl _ hv fun a e ha =>
    State.modeChange_touch ha (by simp [besidesTri]) (besidesTri_of_reg (by omega)) fun _ => besidesTri_of_mem (by decide)
  have hx : Touch besidesTri u x := Touch.ite (hw.upd (hnode := .inl hnode)) hw
  have hy : Touch besidesTri u y := hx.upd (hpair := .inl hpair)
  have hz : Touch besidesTri u z := Touch.foldl _ hy fun a n ha =>
    Touch.ite (State.setIlk_touch ha (by simp [besidesTri]) (besidesTri_of_reg (by omega))) ha
  exact Touch.ite (Touch.refl _ u) (State.setFail_touch hz hpair (besidesTri_of_reg (by decide)))

end

section
variable (s : State)

/-- A repair sets the three copies to the majority, leaves every other word, and counts. -/
theorem State.tmrFix_spec (i : Nat) :
    (∀ j, Tab.get {} (s.tmrFix i).prot.tri j = if j = i then ⟨s.triWord i, s.triWord i, s.triWord i⟩ else Tab.get {} s.prot.tri j) ∧
      (s.tmrFix i).getF R.tmrFix = min (s.getF R.tmrFix + 1) 65535 := by
  have ht : Touch besidesTri ((s.setTri i (s.triWord i)).inc R.tmrFix) (s.tmrFix i) :=
    State.drawn_touch (State.remember_touch (State.logEntry_touch (Touch.refl _ _) fun _ => besidesTri_of_log) (by simp [besidesTri]))
      (by simp [besidesTri])
  constructor
  · intro j
    rw [ht.tri (by simp [besidesTri])]
    show Tab.get {} (Tab.set {} s.prot.tri i _) j = _
    split_ifs with hj
    · rw [hj, Tab.get_set_same]
    · exact Tab.get_set_other _ _ _ hj
  · rw [ht.getF (by simp [besidesTri, R.tmrFix]), State.inc, State.incBy, State.getF_setF_same _ _ _ (by decide)]
    exact Nat.mod_eq_of_lt (Nat.lt_of_le_of_lt (Nat.min_le_right _ _) (by decide))

/-- The repairs of a list of words. -/
theorem State.tmrFixes_spec (l : List (Nat × Tri)) :
    (∀ j, Tab.get {} (l.foldl (fun v e => v.tmrFix e.1) s).prot.tri j =
      if j ∈ l.map Prod.fst then ⟨s.triWord j, s.triWord j, s.triWord j⟩ else Tab.get {} s.prot.tri j) ∧
      (l.foldl (fun v e => v.tmrFix e.1) s).getF R.tmrFix = min (s.getF R.tmrFix + l.length) 65535 := by
  induction l generalizing s with
  | nil =>
    have hlt := s.getF_lt R.tmrFix
    simp only [R.tmrFix] at hlt
    simp [R.tmrFix]
    omega
  | cons e l ih =>
    obtain ⟨htri, hcount⟩ := ih (s.tmrFix e.1)
    obtain ⟨htri1, hcount1⟩ := s.tmrFix_spec e.1
    constructor
    · intro j
      rw [List.foldl_cons, htri, State.triWord, htri1]
      by_cases hj : j = e.1
      · simp [hj]
      · have hmem : j ∈ (e :: l).map Prod.fst ↔ j ∈ l.map Prod.fst := by
          rw [List.map_cons, List.mem_cons, or_iff_right hj]
        simp only [hj, hmem, State.triWord, if_false]
    · rw [List.foldl_cons, hcount, hcount1, List.length_cons]
      omega

/-- TMR_REFRESH: every word becomes three copies of its majority (R333). -/
theorem State.tmrRefresh_spec (l : List TmrUpset) :
    ∃ t, exec (.tmrRefresh l) s = .next t ∧
      (∀ i, Tab.get {} t.prot.tri i = ⟨(s.triUpsets l).triWord i, (s.triUpsets l).triWord i, (s.triUpsets l).triWord i⟩) ∧
      t.getF R.tmrFix = min ((s.triUpsets l).getF R.tmrFix +
        ((s.triUpsets l).prot.tri.filter fun e => ¬ (e.2.a = e.2.b ∧ e.2.b = e.2.c)).length) 65535 := by
  generalize hu : s.triUpsets l = u
  generalize hbad : (u.prot.tri.filter fun e => ¬ (e.2.a = e.2.b ∧ e.2.b = e.2.c)) = bad
  obtain ⟨htri, hcount⟩ := u.tmrFixes_spec bad
  have hsafe : ∀ v : State, Touch besidesTri v v.checkRecord := fun v =>
    Touch.ite (State.enterSafe_besidesTri 2) (Touch.refl _ v)
  have hnext : exec (.tmrRefresh l) s = .next (bad.foldl (fun v e => v.tmrFix e.1) u).checkRecord := by
    rw [← hbad, ← hu]
    rfl
  refine ⟨_, hnext, fun i => ?_, ((hsafe _).getF (by simp [besidesTri, R.tmrFix])).trans hcount⟩
  rw [(hsafe _).tri (by simp [besidesTri]), htri]
  split_ifs with hi
  · rfl
  · apply Tri.eq_of_agrees
    obtain hget | hget := Tab.get_eq_or_mem ({} : Tri) u.prot.tri i
    · rw [hget]
      exact ⟨rfl, rfl⟩
    · by_contra hn
      refine hi (List.mem_map.2 ⟨(i, Tab.get {} u.prot.tri i), ?_, rfl⟩)
      rw [← hbad]
      exact List.mem_filter.2 ⟨hget, by simpa [Tri.Agrees, imp_iff_not_or] using hn⟩

theorem State.triUpsets_regs (l : List TmrUpset) : (s.triUpsets l).regs = s.regs := by
  induction l generalizing s with
  | nil => rfl
  | cons u l ih => exact ih _

end

/-! ## The retirement map -/

section
variable {s : State} {a : Nat}

theorem poisonedCw_zero : poisonedCw 0 = false := by decide +kernel

theorem classify_of_poisoned {c : BitVec 152} (h : poisonedCw c = true) : classify c ≠ .clean ∧ ∀ j v, classify c ≠ .ce j v := by
  unfold poisonedCw at h
  constructor
  · intro hc
    simp [hc] at h
  · intro j v hc
    simp [hc] at h

/-- A word of the tables is never in a retired unit: units are pages of the pool, the directory and segment memory (R336). -/
theorem State.unitRetired_tables (p : Nat) : s.unitRetired 5 p = false := by simp [State.unitRetired]

/-- A word of the tables that reads as poisoned does so for firmware. -/
theorem State.tableCw_of_poisoned (hb : (s.mem 5).buffer = []) (hc : (s.mem 5).cells ≠ []) (h : poisonedCw (s.raw 5 a) = true) :
    (s.tableCw a).1 = true := by
  have hclass := classify_of_poisoned h
  have hcw : (s.readCw 5 a).1 = none := by
    rw [State.readCw, if_neg (by simp [State.unitRetired_tables]), State.drainFor_of_not_buffered (by simp [hb])]
    dsimp only
    split
    case h_1 e => exact absurd e hclass.1
    case h_2 j v e => exact absurd e (hclass.2 j v)
    case h_5 => split <;> rfl
    all_goals rfl
  rw [State.tableCw]
  split
  · contradiction
  · simp [hcw]

/-- A word of the tables that has been written is withheld only where it was given up. -/
theorem State.mapWithheld_tableWrite : (s.tableWrite [a]).mapWithheld a = s.prot.withheld.contains a := by
  have hcells : (match ((s.tableWrite [a]).mem 5).cells with | [] => false | l => poisonedCw (Tab.get 0 l a)) = false := by
    cases hl : ((s.tableWrite [a]).mem 5).cells with
    | nil => rfl
    | cons e l =>
      have hraw : (s.tableWrite [a]).raw 5 a = 0 := by
        rw [State.tableWrite] at hl ⊢
        split at hl
        · rename_i hnil
          rw [hnil] at hl
          cases hl
        · simp [State.setRaw, State.unitRetired_tables, State.raw]
      rw [State.raw, hl] at hraw
      exact (congrArg poisonedCw hraw).trans poisonedCw_zero
  rw [State.mapWithheld, kept_withheld (s.tableWrite_kept [a])]
  exact congrArg (· || s.prot.withheld.contains a) hcells

/-- A word that reads as poisoned, and was not given up, lies among the damaged ones. -/
theorem State.poisoned_of_mapWithheld (h : s.mapWithheld a = true) (hw : s.prot.withheld.contains a = false) :
    (s.mem 5).cells ≠ [] ∧ poisonedCw (s.raw 5 a) = true := by
  rw [State.mapWithheld, hw, Bool.or_false] at h
  split at h
  · cases h
  · rename_i hne
    exact ⟨fun hnil => hne hnil, h⟩

end

/-- A word of the map given up until the next power-on, with its notice (R326). -/
def State.giveUp (s : State) (a : Nat) : State :=
  let v : State := { s with prot := { s.prot with withheld := a :: s.prot.withheld } }
  (v.setMem 5 { v.mem 5 with noticeCauses := (v.mem 5).noticeCauses ||| 2 }).memNotice 5

theorem State.giveUp_kept (s : State) (a : Nat) : (s.giveUp a).kept = { s.kept with withheld := a :: s.prot.withheld } := by
  refine (State.memNotice_kept _ _).trans ((State.setMem_kept _ 5 _ ?_).trans ?_) <;> rfl

theorem State.mem_giveUp (s : State) (a : Nat) : a ∈ (s.giveUp a).prot.withheld := by
  have hwith : (s.giveUp a).prot.withheld = a :: s.prot.withheld := congrArg Kept.withheld (s.giveUp_kept a)
  rw [hwith]
  exact List.mem_cons_self

theorem State.giveUp_mapWithheld (s : State) (a : Nat) : (s.giveUp a).mapWithheld a = true := by
  simp [State.mapWithheld, s.mem_giveUp a]

section
variable {s : State} {u : RetireUnit} {a : Nat} (ha : Config.retireWord u.mem u.bank u.index = a) (hrun : s.fwRuns = true)
  (hw : s.prot.withheld.contains a = false) (hpois : (s.tableCw a).1 = true)
include ha hrun hw hpois

/-- The branches of RETIRE_MAP_REPAIR for a word that reads as poisoned (R326). -/
theorem State.retireMapRepair_of_poisoned : exec (.retireMapRepair u) s =
    .next (if s.fw.noRecord.contains a then (s.tableCw a).2.giveUp a else (s.tableCw a).2.tableWrite [a]) := by
  subst ha
  refine congrArg Host.Outcome.next ?_
  dsimp only
  rw [if_neg (by simp only [hrun, hw]; decide), if_neg (by simp [hpois]), ite_not]
  rfl

/-- The map's word is rewritten where firmware has a valid record of it. -/
theorem State.retireMapRepair_of_record (hrec : s.fw.noRecord.contains a = false) :
    exec (.retireMapRepair u) s = .next ((s.tableCw a).2.tableWrite [a]) := by
  rw [State.retireMapRepair_of_poisoned ha hrun hw hpois, hrec]
  rfl

/-- Without a valid record its units are given up. -/
theorem State.retireMapRepair_of_noRecord (hrec : s.fw.noRecord.contains a = true) :
    exec (.retireMapRepair u) s = .next ((s.tableCw a).2.giveUp a) := by
  rw [State.retireMapRepair_of_poisoned ha hrun hw hpois, hrec]
  rfl

end

/-- Settles O41: LEVEL, the lap and the map are read off the commands; the walk over the triplicated words is an induction over those that
disagree, and entry to SAFE after it rewrites none. -/
theorem bucketsLapsAndCopiesAreKept : Obligations.BucketsLapsAndCopiesAreKept := by
  unfold Obligations.BucketsLapsAndCopiesAreKept
  refine ⟨?_, ?_, ?_, ?_, ?_⟩
  · intro s m hon hdue
    have hnext : exec (.leakPeriod m) s =
        .next ((s.setF (R.level m) (s.getF (R.level m) - 1)).setMem m { s.mem m with
          leakAt := (s.mem m).leakAt + s.cfgF (C.leakPeriod m) * 16000
          armed := (s.mem m).armed || decide ((s.setF (R.level m) (s.getF (R.level m) - 1)).getF (R.level m)
            ≤ s.cfgF (C.bucketThreshold m) / 2) }) := congrArg Host.Outcome.next (if_pos ⟨hon, hdue⟩)
    have hlevel : (s.setF (R.level m) (s.getF (R.level m) - 1)).getF (R.level m) = s.getF (R.level m) - 1 := by
      rw [State.getF_setF_same _ _ _ (by simp [R.level])]
      exact Nat.mod_eq_of_lt (Nat.lt_of_le_of_lt (Nat.sub_le _ _) (s.getF_lt _))
    rw [hlevel] at hnext
    refine ⟨_, hnext, hlevel, ?_, ?_, ?_, ?_⟩
    · rw [State.setMem_mem_same]
    · rw [State.setMem_mem_same]
    · rw [State.setMem_mem_same]
    · exact Touch.frame (P := fun k => k = .mem m ∨ k = .reg (0x8004 + 0x40 * m))
        (State.setMem_touch (State.setF_touch (Touch.refl _ s) (.inr rfl)) (.inl rfl) fun h => h)
  · intro s m hdue
    exact congrArg Host.Outcome.next (if_neg (by omega))
  · intro s m hon hover hlap
    have hnext : exec (.lapOverdue m) s =
        .next ((s.setMem m { s.mem m with overdue := true }).memEvent m (R.lapOverdue m) 4) :=
      congrArg Host.Outcome.next (if_pos ⟨hon, by simp [hover], hlap⟩)
    obtain ⟨hflag, hocc⟩ := (s.setMem m { s.mem m with overdue := true }).setFlag_lapOverdue m
    refine ⟨_, hnext, ?_, (State.memEvent_getF _ _ _ (by simp [R.lapOverdue])).trans hflag,
      (State.memEvent_getF _ _ _ (by simp [R.lapOverdue])).trans hocc⟩
    rw [kept_overdue (State.memEvent_kept _ _ _ _), State.setMem_mem_same]
  · intro s l _
    obtain ⟨t, hnext, htri, hcount⟩ := s.tmrRefresh_spec l
    have hvote : ∀ i, t.triWord i = (s.triUpsets l).triWord i := fun i => by rw [State.triWord, htri, Tri.vote_same]
    have hfix : (s.triUpsets l).getF R.tmrFix = s.getF R.tmrFix := by
      simp only [State.getF, State.word, State.triUpsets_regs]
    refine ⟨t, hnext, fun i => ⟨hvote i, ?_⟩, hfix ▸ hcount⟩
    rw [htri, hvote]
    exact ⟨rfl, rfl, rfl⟩
  · intro s u hrun a
    refine ⟨fun h => ?_, fun h hbuf hw => ⟨fun hrec _ => ?_, fun hrec => ?_⟩, fun h hcells => ?_⟩
    · refine ⟨fun hbank => ?_, fun hbank page hpage => ?_⟩
      · simp only [a, hbank] at h
        simp [State.unitRetired, h, u.mem.isLt]
      · simp only [a, hbank, ← hpage] at h
        simp [State.unitRetired, h, u.mem.isLt]
    · obtain ⟨hcells, hpois⟩ := State.poisoned_of_mapWithheld h hw
      have hk := s.tableCw_kept a
      have hk' := (s.tableCw a).2.tableWrite_kept [a]
      refine ⟨_, State.retireMapRepair_of_record rfl hrun hw (State.tableCw_of_poisoned hbuf hcells hpois) hrec, ?_,
        kept_pages (hk'.trans hk), kept_banks (hk'.trans hk)⟩
      rw [State.mapWithheld_tableWrite, kept_withheld hk, hw]
    · obtain ⟨hcells, hpois⟩ := State.poisoned_of_mapWithheld h hw
      have hk := s.tableCw_kept a
      have hk' := (s.tableCw a).2.giveUp_kept a
      refine ⟨_, State.retireMapRepair_of_noRecord rfl hrun hw (State.tableCw_of_poisoned hbuf hcells hpois) hrec,
        State.mem_giveUp _ _, State.giveUp_mapWithheld _ _, ?_, ?_⟩
      · exact (congrArg Kept.pages hk').trans (kept_pages hk)
      · exact (congrArg Kept.banks hk').trans (kept_banks hk)
    · have hread : s.tableCw a = (false, s) := by simp [State.tableCw, hcells]
      refine congrArg Host.Outcome.next ?_
      dsimp only
      rw [hread]
      simp

end Sys2Proof.Machine

namespace Sys2Proof.Machine

/-! ## Lists of bytes -/

theorem leBytes_eq_map (n v : Nat) : leBytes n v = (List.range n).map fun i => BitVec.ofNat 8 (v / 2 ^ (8 * i)) := by
  induction n generalizing v with
  | zero => rfl
  | succ n ih =>
    rw [leBytes, ih, List.range_succ_eq_map, List.map_cons, List.map_map]
    congr 1
    · simp
    · refine List.map_congr_left fun i _ => ?_
      rw [Function.comp_apply, Nat.div_div_eq_div_mul, Nat.mul_succ, pow_add, Nat.mul_comm]
      rfl

@[simp] theorem leBytes_length (n v : Nat) : (leBytes n v).length = n := by simp [leBytes_eq_map]

theorem length_flatMap_of_const {α β : Type} (f : α → List β) (k : Nat) (hf : ∀ a, (f a).length = k) (l : List α) :
    (l.flatMap f).length = k * l.length := by
  induction l with
  | nil => rfl
  | cons a l ih => rw [List.flatMap_cons, List.length_append, ih, hf, List.length_cons, Nat.mul_succ, Nat.add_comm]

/-- Consecutive pieces of equal length are one list. -/
theorem range_flatMap_range {α : Type} (g : Nat → α) (n k : Nat) :
    ((List.range n).flatMap fun i => (List.range k).map fun j => g (k * i + j)) = (List.range (k * n)).map g := by
  induction n with
  | zero => rfl
  | succ n ih =>
    rw [List.range_succ, List.flatMap_append, ih, Nat.mul_succ, List.range_add, List.map_append]
    simp

/-- A stretch of a list that is given by its indices. -/
theorem range_map_drop_take {α : Type} (g : Nat → α) {a b n : Nat} (h : a + b ≤ n) :
    (((List.range n).map g).drop a).take b = (List.range b).map fun k => g (a + k) := by
  apply List.ext_getElem
  · simp
    omega
  · intro i _ _
    simp

/-! ## The aperture -/

theorem apertureBytes_length (d : Option (BitVec 128)) : (apertureBytes d).length = 16 := by
  cases d <;> simp [apertureBytes]

theorem State.upsets_none (s : State) (m a n : Nat) : s.upsets m a (([] : List (BitVec 152)).take n) = s := by
  rw [List.take_nil]
  rfl

/-- The first code word of a read of the aperture, and how many it takes (R358). -/
def State.apertureWord (s : State) (off : Nat) : Nat := s.getF R.diagWin * 524288 + off / 16

def apertureWords (off n : Nat) : Nat := (off + n + 15) / 16 - off / 16

/-- A window of 8 MB holds 524,288 code words. -/
theorem window_base {w off base : Nat} (h : w * 0x800000 + off = base) : base = off + 16 * (w * 524288) := by
  rw [← h]
  ring

theorem window_word {w off base : Nat} (h : w * 0x800000 + off = base) : w * 524288 + off / 16 = base / 16 := by
  rw [window_base h, Nat.add_mul_div_left _ _ (by norm_num), Nat.add_comm]

theorem window_byte {w off base : Nat} (h : w * 0x800000 + off = base) : off % 16 = base % 16 := by
  rw [window_base h, Nat.add_mul_mod_self_left]

theorem window_words {w off base : Nat} (n : Nat) (h : w * 0x800000 + off = base) :
    apertureWords off n = (base + n + 15) / 16 - base / 16 := by
  rw [apertureWords, window_base h]
  generalize w * 524288 = k
  omega

section
variable (s : State) (off n : Nat)

theorem State.apertureData_eq : s.apertureData off n [] =
    if s.getF R.diagMem = 3 ∨ memWords (s.getF R.diagMem) < s.apertureWord off + apertureWords off n then
      (List.replicate n (0, false), s)
    else
      let r := State.readWords (apertureWords off n) s (s.getF R.diagMem) (s.apertureWord off)
      (((r.1.flatMap apertureBytes).drop (off % 16)).take n, r.2) := by
  rw [State.apertureData, State.upsets_none]
  rfl

/-- As many bytes as asked. -/
theorem State.apertureData_length : (s.apertureData off n []).1.length = n := by
  rw [State.apertureData_eq]
  split
  · simp
  · simp only [List.length_take, List.length_drop, length_flatMap_of_const _ 16 apertureBytes_length, State.readWords_length,
      apertureWords]
    omega

theorem State.apertureData_touch {P : Comp → Prop} (hs : ∀ c, memParts (s.getF R.diagMem) c → P c) :
    Touch P s (s.apertureData off n []).2 := by
  rw [State.apertureData_eq]
  split
  · exact Touch.refl _ s
  · exact State.readWords_touch (Touch.refl _ s) hs

/-- The reserved memory, and a read that reaches beyond a memory's end, give zeros. -/
theorem State.apertureData_zero
    (h : s.getF R.diagMem = 3 ∨ memWords (s.getF R.diagMem) < s.apertureWord off + apertureWords off n) :
    s.apertureData off n [] = (List.replicate n (0, false), s) := by
  rw [State.apertureData_eq, if_pos h]

/-- Undamaged code words give their bytes, and the read leaves the state as it is. -/
theorem State.apertureData_of_sound {m base : Nat} (hm : s.getF R.diagMem = m) (hbase : s.getF R.diagWin * 0x800000 + off = base)
    (hn : 0 < n) (h3 : m < 3) (hend : (base + n + 15) / 16 ≤ memWords m)
    (hsound : ∀ k, k < n → s.soundCw m ((base + k) / 16)) :
    s.apertureData off n [] = ((List.range n).map fun k =>
      (BitVec.ofNat 8 ((cwData (s.raw m ((base + k) / 16))).toNat / 2 ^ (8 * ((base + k) % 16))), false), s) := by
  have ha : s.apertureWord off = base / 16 := window_word hbase
  rw [State.apertureData_eq, hm, ha, window_byte hbase, window_words n hbase]
  clear hm hbase ha
  generalize hcount : (base + n + 15) / 16 - base / 16 = k
  have hr : State.readWords k s m (base / 16) = ((List.range k).map fun i => some (cwData (s.raw m (base / 16 + i))), s) := by
    refine State.readWords_of_sound k fun i hi => ?_
    have h := hsound (16 * i - base % 16) (by omega)
    rwa [show (base + (16 * i - base % 16)) / 16 = base / 16 + i by omega] at h
  rw [if_neg (by omega), hr]
  refine Prod.ext ?_ rfl
  let g : Nat → Byte × Bool := fun j =>
    (BitVec.ofNat 8 ((cwData (s.raw m (base / 16 + j / 16))).toNat / 2 ^ (8 * (j % 16))), false)
  have hbytes : ((List.range k).map fun i => some (cwData (s.raw m (base / 16 + i)))).flatMap apertureBytes
      = (List.range (16 * k)).map g := by
    rw [List.flatMap_map, ← range_flatMap_range g k 16]
    refine List.flatMap_congr fun i _ => ?_
    simp only [apertureBytes, leBytes_eq_map, List.map_map]
    refine List.map_congr_left fun j hj => ?_
    have hj := List.mem_range.1 hj
    simp only [g, Function.comp_apply]
    rw [show (16 * i + j) / 16 = i by omega, show (16 * i + j) % 16 = j by omega]
  dsimp only
  rw [hbytes, range_map_drop_take g (by omega)]
  refine List.map_congr_left fun j _ => ?_
  simp only [g]
  rw [show base / 16 + (base % 16 + j) / 16 = (base + j) / 16 by omega, show (base % 16 + j) % 16 = (base + j) % 16 by omega]

end

/-! ## BAR_ACCESS and APERTURE_READ (R346, R357, R358) -/

/-- The bytes of whole registers, none of them poisoned. -/
def registerBytes (ws : List W32) : List (Byte × Bool) := ws.flatMap fun w => (leBytes 4 w.toNat).map fun b => (b, false)

theorem registerBytes_length (ws : List W32) : (registerBytes ws).length = 4 * ws.length :=
  length_flatMap_of_const _ 4 (by simp) ws

theorem registerBytes_fst (ws : List W32) : (registerBytes ws).map Prod.fst = ws.flatMap fun w => leBytes 4 w.toNat := by
  simp [registerBytes, List.map_flatMap, Function.comp_def]

theorem registerBytes_snd (ws : List W32) : ∀ b ∈ (registerBytes ws).map Prod.snd, b = false := by
  simp only [registerBytes, List.map_flatMap, List.map_map, List.mem_flatMap, List.mem_map]
  rintro b ⟨w, -, x, -, rfl⟩
  rfl

section
variable {s : State} {a : BarAccess}

theorem State.bar2Read_eq : s.bar2Read a =
    let below := min a.length (0x800000 - a.offset)
    let r := if below = a.length then ([], s) else s.apertureData (a.offset + below - 0x800000) (a.length - below) []
    (registerBytes ((s.barData { a with length := below }).getD []) ++ r.1, r.2) := rfl

/-- A read below the aperture is one of registers. -/
theorem State.bar2Read_registers (h : a.offset + a.length ≤ 0x800000) :
    s.bar2Read a = (registerBytes ((s.barData a).getD []), s) := by
  have hmin : min a.length (0x800000 - a.offset) = a.length := by omega
  rw [State.bar2Read_eq, hmin]
  simp

/-- A read of BAR2 gives as many bytes as asked. -/
theorem State.bar2Read_length (hb : a.bar2 = true) (ho : a.offset % 4 = 0) (hl : a.length % 4 = 0) :
    (s.bar2Read a).1.length = a.length := by
  rw [State.bar2Read_eq]
  generalize hbelow : min a.length (0x800000 - a.offset) = below
  have hws : ((s.barData { a with length := below }).getD []).length = below / 4 := by simp [State.barData, hb]
  dsimp only
  rw [List.length_append, registerBytes_length, hws]
  split
  · rw [List.length_nil]
    omega
  · rw [State.apertureData_length]
    omega

theorem State.bar2Read_touch {P : Comp → Prop} (hs : ∀ c, memParts (s.getF R.diagMem) c → P c) : Touch P s (s.bar2Read a).2 := by
  rw [State.bar2Read_eq]
  dsimp only
  split
  · exact Touch.refl _ s
  · exact State.apertureData_touch _ _ _ hs

theorem State.badAccess_touch : Touch (· = .reg 0x0) s s.badAccess := State.inc_touch (Touch.refl _ s) rfl

/-- A bad access counts, up to the counter's end. -/
theorem State.badAccess_count : s.badAccess.getF R.barAccessErr = min (s.getF R.barAccessErr + 1) 65535 := by
  rw [State.badAccess, State.inc, State.incBy, State.getF_setF_same _ _ _ (by decide)]
  exact Nat.mod_eq_of_lt (Nat.lt_of_le_of_lt (Nat.min_le_right _ _) (by decide))

/-- A read that completes with Unsupported Request counts as a bad access. -/
theorem State.unsupported_spec : (s.badAccess.emit .unsupported).out = .unsupported :: s.out ∧
    (s.badAccess.emit .unsupported).getF R.barAccessErr = min (s.getF R.barAccessErr + 1) 65535 ∧
    Frame (fun c => c = .reg 0x0 ∨ c = .out) s (s.badAccess.emit .unsupported) :=
  ⟨rfl, State.badAccess_count, (State.emit_touch (State.badAccess_touch.mono fun _ h => .inl h) (.inr rfl)).frame⟩

theorem State.accessOk_bar2 (hb : a.bar2 = true) (h : s.accessOk a = true) : a.offset % 4 = 0 ∧ a.length % 4 = 0 := by
  simp [State.accessOk, hb] at h
  omega

/-- A read's completion changes what reading the memory changes. -/
theorem State.barRead_frame {t : State} {d : List Byte} {q : List Bool} {m : Nat} (h : Touch (memParts m) s t) :
    Frame (memParts m) s (t.emit (.barRead d q)) :=
  (State.emit_touch h (by simp [memParts, logParts, storeParts])).frame

/-- Accesses with the BAR open. -/
theorem barAccess_open (hopen : s.barOpen = true) :
    (a.write = true → a.poisoned = true → exec (.barAccess a) s = .next { s with out := .poisonedTlp :: s.out }) ∧
    (a.write = true → a.poisoned = false → a.bar2 = true ∨ s.accessOk a = false → exec (.barAccess a) s = .next s.badAccess) ∧
    (a.write = true → a.poisoned = false → a.bar2 = false → s.accessOk a = true → exec (.barAccess a) s = .next s) ∧
    (a.write = false → s.accessOk a = false → exec (.barAccess a) s = .next (s.badAccess.emit .unsupported)) ∧
    (a.write = false → s.accessOk a = true → a.bar2 = true → exec (.barAccess a) s =
      .next ((s.bar2Read a).2.emit (.barRead ((s.bar2Read a).1.map Prod.fst) ((s.bar2Read a).1.map Prod.snd)))) ∧
    (a.write = false → s.accessOk a = true → a.bar2 = false → ∀ ws, s.barData a = some ws → exec (.barAccess a) s =
      .next (s.emit (.barRead (ws.flatMap fun w => leBytes 4 w.toNat) (ws.flatMap fun _ => List.replicate 4 false)))) := by
  have he : exec (.barAccess a) s = execBarAccess a s := rfl
  rw [he, execBarAccess]
  refine ⟨fun hw hp => ?_, fun hw hp hbad => ?_, fun hw hp hb hok => ?_, fun hw hok => ?_, fun hw hok hb => ?_,
    fun hw hok hb ws hws => ?_⟩
  · simp [hopen, hw, hp, State.emit]
  · simp [hopen, hw, hp, hbad]
  · simp [hopen, hw, hp, hb, hok]
  · simp [hopen, hw, hok]
  · simp [hopen, hw, hok, hb]
  · simp [hopen, hw, hok, hb, hws]

variable {off : BitVec 23} {n : Nat}

theorem apertureRead_bad (hopen : s.barOpen = true)
    (h : off.toNat % 4 ≠ 0 ∨ n = 0 ∨ s.maxPayload < 4 * n ∨ 0x800000 < off.toNat + 4 * n) :
    exec (.apertureRead off n []) s = .next (s.badAccess.emit .unsupported) := by
  have he : exec (.apertureRead off n []) s = execApertureRead off n [] s := rfl
  rw [he, execApertureRead]
  dsimp only
  rw [if_neg (by simp [hopen]), if_pos h]

theorem apertureRead_good (hopen : s.barOpen = true) (halign : off.toNat % 4 = 0) (hn : 0 < n) (hmax : 4 * n ≤ s.maxPayload)
    (hend : off.toNat + 4 * n ≤ 0x800000) : exec (.apertureRead off n []) s =
      .next ((s.apertureData off.toNat (4 * n) []).2.emit (.barRead ((s.apertureData off.toNat (4 * n) []).1.map Prod.fst)
        ((s.apertureData off.toNat (4 * n) []).1.map Prod.snd))) := by
  have he : exec (.apertureRead off n []) s = execApertureRead off n [] s := rfl
  rw [he, execApertureRead]
  dsimp only
  rw [if_neg (by simp [hopen]), if_neg (by omega)]

/-- A read of the reserved memory or beyond a memory's end gives zeros (R358). -/
theorem apertureRead_zeros (hopen : s.barOpen = true) (halign : off.toNat % 4 = 0) (hn : 0 < n) (hmax : 4 * n ≤ s.maxPayload)
    (hend : off.toNat + 4 * n ≤ 0x800000)
    (h : s.getF R.diagMem = 3 ∨ memWords (s.getF R.diagMem) < s.apertureWord off.toNat + apertureWords off.toNat (4 * n)) :
    exec (.apertureRead off n []) s =
      .next { s with out := .barRead (List.replicate (4 * n) 0) (List.replicate (4 * n) false) :: s.out } := by
  rw [apertureRead_good hopen halign hn hmax hend, State.apertureData_zero _ _ _ h]
  simp only [List.map_replicate]
  rfl

end

/-! ## REGISTER_WRITE (R16, R346) and PTM_DIALOG (R355) -/

section
variable {s : State} {off : BitVec 16} {v : BitVec 64}

theorem registerWrite_narrow (hopen : s.barOpen = true) (hlow : 0x2000 ≤ off.toNat) : exec (.registerWrite off false v) s =
    .next (if off.toNat % 4 ≠ 0 then s.badAccess else s.writeReg off.toNat (BitVec.ofNat 32 v.toNat)) := by
  refine congrArg Host.Outcome.next ?_
  dsimp only
  rw [if_neg (by simp [hopen]; omega)]
  rfl

theorem registerWrite_aligned (hopen : s.barOpen = true) (hlow : 0x2000 ≤ off.toNat) (halign : off.toNat % 4 = 0) :
    exec (.registerWrite off false v) s = .next (s.writeReg off.toNat (BitVec.ofNat 32 v.toNat)) := by
  rw [registerWrite_narrow hopen hlow, if_neg (by simp [halign])]

end

section
variable (s : State) (v : W32)

theorem State.writeReg_ptmInterval : (s.writeReg 0x4024 v).getF R.ptmInterval = fget v 0 8 ∧
    Frame (fun c => c = .reg 0x24) s (s.writeReg 0x4024 v) := by
  have he : s.writeReg 0x4024 v = s.setF R.ptmInterval (fget v 0 8) := rfl
  rw [he]
  exact ⟨(State.getF_setF_same _ _ _ (by decide)).trans (Nat.mod_eq_of_lt (fget_lt _ _ _)),
    (State.setF_touch (P := fun c => c = .reg 0x24) (Touch.refl _ s) rfl).frame⟩

theorem State.writeReg_window : (s.writeReg 0x4040 v).getF R.diagMem = fget v 0 2 ∧
    (s.writeReg 0x4040 v).getF R.diagWin = fget v 2 3 ∧ Frame (fun c => c = .reg 0x40) s (s.writeReg 0x4040 v) := by
  have he : s.writeReg 0x4040 v = (s.setF R.diagMem (fget v 0 2)).setF R.diagWin (fget v 2 3) := rfl
  rw [he]
  refine ⟨?_, ?_, ?_⟩
  · rw [State.getF_setF_other _ (f := R.diagWin) (g := R.diagMem) _ (by decide) (by decide), State.getF_setF_same _ _ _ (by decide)]
    exact Nat.mod_eq_of_lt (fget_lt _ _ _)
  · rw [State.getF_setF_same _ _ _ (by decide)]
    exact Nat.mod_eq_of_lt (fget_lt _ _ _)
  · exact (State.setF_touch (P := fun c => c = .reg 0x40) (State.setF_touch (Touch.refl _ s) rfl) rfl).frame

variable {off : Nat}

/-- The status area takes no writes but of PTM_INTERVAL and the aperture (R346). -/
theorem State.writeReg_status (hlo : 0x4000 ≤ off) (hhi : off < 0x4100) (hptm : off ≠ 0x4024) (hwin : off ≠ 0x4040) :
    s.writeReg off v = s := by
  rw [State.writeReg, if_neg (by omega), if_neg (by omega), if_neg (by omega), if_neg hptm, if_neg hwin, if_neg (by omega)]

/-- The upper halves of BASE and WB_ADDR take every bit (R347). -/
theorem State.writeReg_upper (hlo : 0x3000 ≤ off) (hhi : off < 0x3200) (hr : off % 0x40 = 4 ∨ off % 0x40 = 0xC) :
    (s.writeReg off v).bar0 off = v ∧ Frame (fun c => c = .bar0 off ∨ c = .host) s (s.writeReg off v) := by
  have hoff : ringOff ((off - 0x3000) / 0x40) (off % 0x40) = off := by
    rw [ringOff]
    omega
  have hmask : (if off % 0x40 = 0 then v &&& 0xFFFFF000 else if off % 0x40 = 8 then v &&& 0xFFFFFFF8 else v) = v := by
    rw [if_neg (by omega), if_neg (by omega)]
  have he : ∃ u, Touch (fun c => c = .bar0 off ∨ c = .host) s u ∧ s.writeReg off v = u.setBar0 off v := by
    rw [State.writeReg, if_neg (by omega), if_pos ⟨hlo, hhi⟩]
    dsimp only
    rw [if_pos (by omega), State.writeBase, hoff, hmask]
    exact ⟨_, (Touch.refl _ s).upd (hhost := .inl (.inr rfl)), rfl⟩
  obtain ⟨u, hu, he⟩ := he
  rw [he]
  exact ⟨State.setBar0_bar0_same _ _ _, (State.setBar0_touch hu (.inl rfl)).frame⟩

/-- A vector's mask takes its bit (R356). -/
theorem State.writeReg_vectorMask (hlo : 0x8000 ≤ off) (hhi : off < 0x8400) (hr : off % 16 = 12) :
    (s.writeReg off v).bar0 off = v &&& 1 ∧ Frame (fun c => c = .bar0 off ∨ c = .host ∨ c = .out) s (s.writeReg off v) := by
  have he : s.writeReg off v = (s.setBar0 off (v &&& 1)).msixFlush ((off - 0x8000) / 16) := by
    rw [State.writeReg, if_neg (by omega), if_neg (by omega), if_neg (by omega), if_neg (by omega), if_neg (by omega),
      if_pos ⟨hlo, hhi⟩]
    exact if_pos hr
  have hflush : Touch (fun c => c = .host ∨ c = .out) (s.setBar0 off (v &&& 1)) (s.writeReg off v) := by
    rw [he]
    exact State.msixFlush_touch (Touch.refl _ _) (.inl rfl) (.inr rfl)
  have hbar : (s.writeReg off v).bar0 off = (s.setBar0 off (v &&& 1)).bar0 off := hflush.same (c := .bar0 off) (by simp)
  refine ⟨hbar.trans (State.setBar0_bar0_same _ _ _), ?_⟩
  exact ((State.setBar0_touch (Touch.refl _ s) (.inl rfl)).trans (hflush.mono fun _ h => .inr h)).frame

end

/-- A dialog forms the next pair (R355). -/
theorem ptmDialog_forms {s : State} (m : PtmResponse) (f : BitVec 13) (hopen : s.barOpen = true) (hptm : s.host.control.ptm = true)
    (hloaded : s.loaded = true) : ∃ t, exec (.ptmDialog m f) s = .next t ∧ t.host.ptmMaster = ptmMasterTime m ∧
      t.host.ptmStamp = mkStamp s.time.coarse f ∧ t.getF R.ptmSeq = (s.getF R.ptmSeq + 1) % 2 ^ 32 ∧
      Frame (fun c => c = .host ∨ c = .reg 0x20 ∨ c = .out) s t := by
  let u : State := { s with host := { s.host with ptmMaster := ptmMasterTime m, ptmStamp := mkStamp s.time.coarse f } }
  have hu : Touch (fun c => c = .host ∨ c = .reg 0x20 ∨ c = .out) s (u.incWrap R.ptmSeq 1) :=
    State.incWrap_touch ((Touch.refl _ s).upd (hhost := .inl (.inl rfl))) (.inr (.inl rfl))
  have hseq : (u.incWrap R.ptmSeq 1).getF R.ptmSeq = (s.getF R.ptmSeq + 1) % 2 ^ 32 := by
    rw [State.incWrap, State.getF_setF_same _ _ _ (by decide)]
    exact Nat.mod_mod _ _
  have hpair : ∀ v : State, (v.msix 13).host.ptmMaster = v.host.ptmMaster ∧ (v.msix 13).host.ptmStamp = v.host.ptmStamp := by
    intro v
    unfold State.msix
    split
    · exact ⟨rfl, rfl⟩
    · split <;> exact ⟨rfl, rfl⟩
  refine ⟨(u.incWrap R.ptmSeq 1).msix 13, congrArg Host.Outcome.next (if_pos ⟨hopen, hptm, hloaded⟩), (hpair _).1,
    (hpair _).2, ?_, ?_⟩
  · exact (congrArg (fget · _ _) (State.msix_word _ _ _)).trans hseq
  · exact (State.msix_touch hu (.inl rfl) (.inr (.inr rfl))).frame

/-- Settles O53: each access is one branch of its command; the aperture's bytes are those of the code words it reads. -/
theorem hostAccessesActByAreaAndCode : Obligations.HostAccessesActByAreaAndCode := by
  unfold Obligations.HostAccessesActByAreaAndCode
  refine ⟨?_, ?_, ?_, ?_, ?_, ?_, ?_, ?_⟩
  · intro s a hopen
    obtain ⟨hpoison, hbad, hgood, hunsup, hbar2, hregs⟩ := barAccess_open (a := a) hopen
    refine ⟨hpoison, fun hw hp h => ⟨_, hbad hw hp h, State.badAccess_count, State.badAccess_touch.frame⟩, hgood,
      fun hw hok => ⟨_, hunsup hw hok, State.unsupported_spec⟩, fun hw hok h ws hws => ?_, fun hw hok hb => ?_⟩
    · cases hb : a.bar2 with
      | false =>
        refine ⟨_, _, hregs hw hok hb ws hws, rfl, fun b hmem => ?_⟩
        obtain ⟨w, -, hb⟩ := List.mem_flatMap.1 hmem
        exact List.eq_of_mem_replicate hb
      | true =>
        have hread := State.bar2Read_registers (s := s) (h.resolve_left (by simp [hb]))
        rw [hws, Option.getD_some] at hread
        refine ⟨_, (registerBytes ws).map Prod.snd, hbar2 hw hok hb, ?_, registerBytes_snd ws⟩
        rw [hread, registerBytes_fst]
        rfl
    · obtain ⟨ho, hl⟩ := State.accessOk_bar2 hb hok
      have hlen := State.bar2Read_length (s := s) hb ho hl
      exact ⟨_, _, _, hbar2 hw hok hb, rfl, by simpa using hlen, by simpa using hlen,
        State.barRead_frame (State.bar2Read_touch fun _ h => h)⟩
  · intro s a hclosed
    exact congrArg Host.Outcome.next (if_pos (by simp [hclosed]))
  · intro s o w v hclosed
    exact congrArg Host.Outcome.next (if_pos (.inl (by simp [hclosed])))
  · intro s o n l hclosed
    exact congrArg Host.Outcome.next (if_pos (by simp [hclosed]))
  · intro s off n hopen halign hn hmax hend hmem m base
    constructor
    · intro hbeyond
      refine apertureRead_zeros hopen halign hn hmax hend (.inr ?_)
      have hword : s.apertureWord off.toNat = base / 16 := window_word rfl
      rw [hword, window_words (w := s.getF R.diagWin) (base := base) (4 * n) rfl]
      exact Nat.lt_of_lt_of_le hbeyond (by omega)
    · intro hinside hsound
      have hread := State.apertureData_of_sound s off.toNat (4 * n) (m := m) (base := base) rfl rfl (by omega) hmem hinside hsound
      rw [apertureRead_good hopen halign hn hmax hend, hread]
      simp only [List.map_map, Function.comp_def, List.map_const', List.length_range]
      rfl
  · intro s off v hopen hlow lo
    refine ⟨fun h => ?_, fun h => ?_, fun h => ?_, fun h => ?_, fun hlo hhi halign hptm hwin => ?_,
      fun hlo hhi hr => ?_, fun hlo hhi hr => ?_⟩
    · have he := registerWrite_narrow (v := v) hopen hlow
      rw [if_pos h] at he
      exact ⟨_, he, State.badAccess_count, State.badAccess_touch.frame⟩
    · subst h
      exact registerWrite_aligned hopen hlow (by decide)
    · subst h
      exact ⟨_, registerWrite_aligned hopen hlow (by decide), s.writeReg_ptmInterval lo⟩
    · subst h
      exact ⟨_, registerWrite_aligned hopen hlow (by decide), s.writeReg_window lo⟩
    · rw [registerWrite_aligned hopen hlow halign, s.writeReg_status _ hlo hhi (by bv_omega) (by bv_omega)]
    · exact ⟨_, registerWrite_aligned hopen hlow (by omega), s.writeReg_upper lo hlo hhi hr⟩
    · exact ⟨_, registerWrite_aligned hopen hlow (by omega), s.writeReg_vectorMask lo hlo hhi hr⟩
  · intro s off n hopen
    refine ⟨fun h => ⟨_, apertureRead_bad hopen h, State.unsupported_spec⟩,
      fun halign hn hmax hend => ⟨fun h3 => ?_, fun hm => ?_⟩⟩
    · exact apertureRead_zeros hopen halign hn hmax hend (.inl h3)
    · have hlen := s.apertureData_length off.toNat (4 * n)
      exact ⟨_, _, _, apertureRead_good hopen halign hn hmax hend, rfl, by simpa using hlen, by simpa using hlen,
        State.barRead_frame (State.apertureData_touch _ _ _ fun _ h => h)⟩
  · intro s m f
    refine ⟨fun h => ?_, fun hopen hptm hloaded => ?_⟩
    · refine congrArg Host.Outcome.next (if_neg ?_)
      rintro ⟨hopen, hptm, hloaded⟩
      simp [hopen, hptm, hloaded] at h
    · have hmaster : ptmMasterTime m = m.time + BitVec.ofNat 64 m.delay.toNat := by
        simp [ptmMasterTime]
      rw [← hmaster]
      exact ptmDialog_forms m f hopen hptm hloaded

end Sys2Proof.Machine

namespace Sys2Proof.Machine

/-! ## Bytes and the fields of an argument (R14, R18) -/

theorem leVal_lt (l : List Byte) : leVal l < 256 ^ l.length := by
  induction l with
  | nil => simp [leVal]
  | cons b l ih =>
    have hb := b.isLt
    rw [leVal, List.length_cons, pow_succ]
    omega

theorem leBytes_leVal (l : List Byte) : leBytes l.length (leVal l) = l := by
  induction l with
  | nil => rfl
  | cons b l ih =>
    have hb := b.isLt
    rw [List.length_cons, leVal, leBytes, show (b.toNat + 256 * leVal l) / 256 = leVal l by omega, ih]
    congr 1
    apply BitVec.eq_of_toNat_eq
    rw [BitVec.toNat_ofNat]
    omega

theorem bytesAt_length (l : List Byte) (off n : Nat) : (bytesAt l off n).length = n := by
  simp [bytesAt]

theorem bytesAt_of_le {l : List Byte} {off n : Nat} (h : off + n ≤ l.length) : bytesAt l off n = (l.drop off).take n := by
  have hlen : ((l.drop off).take n).length = n := by simp; omega
  simp [bytesAt, hlen]

theorem leAt_lt (l : List Byte) (off n : Nat) : leAt l off n < 256 ^ n := by
  have h := leVal_lt (bytesAt l off n)
  rwa [bytesAt_length] at h

theorem leBytes_leAt {l : List Byte} {off n : Nat} (h : off + n ≤ l.length) : leBytes n (leAt l off n) = (l.drop off).take n := by
  have hb := leBytes_leVal (bytesAt l off n)
  rw [bytesAt_length, bytesAt_of_le h] at hb
  rw [leAt, bytesAt_of_le h, hb]

/-! ## Chunks of images (R386, R396-R399) -/

/-- A chunk of an image that firmware carries out, whose operands lie in their documented ranges (R18). -/
structure ChunkTaken (s : State) (op : BitVec 16) (m : Msg) : Prop where
  cur : s.fw.cur = some m
  opcode : m.opcode = op
  ctl : m.byte 0 < 8
  args : m.args.length = m.length
  max : m.length ≤ 248
  pos : 0 < m.bytesField
  most : m.hostForm = false → m.bytesField ≤ 224
  size : (if m.hostForm then 16 else 16 + m.bytesField) ≤ m.length

/-- The state in which a chunk is carried out. -/
def State.chunkBegun (s : State) : State := s.begun.drawn

/-- The node and the image's own rule accept its chunks. -/
def State.chunkReady (s : State) (k : ImageKind) : Prop := s.node.state ∈ imageStates k ∧ s.imageRule k = true

/-- What the command does with a chunk whose BYTES it has taken. -/
def State.chunkStep (s : State) (k : ImageKind) (m : Msg) : State :=
  if m.length < (if m.hostForm then 16 else 16 + m.bytesField) then s.answer m 5 []
  else if 8 ≤ m.byte 0 ∨ s.offsetWrong k m then s.chunkFails k m
  else s.takeChunk k m

section
variable {s u : State} {op : BitVec 16} {k : ImageKind} {m : Msg}

/-- A BYTES in its range is taken as it stands. -/
theorem State.legalChunk_of_legal (hlen : 8 ≤ m.args.length) (hpos : 0 < m.bytesField)
    (hmost : m.hostForm = false → m.bytesField ≤ 224) :
    s.legalChunk m = m := by
  have hlt : m.bytesField < 256 ^ 4 := leAt_lt _ _ _
  have hbytes : s.legalBytes m = m.bytesField := by
    refine State.legal_of_mem hpos ?_
    split
    · omega
    · rename_i hf
      exact hmost (by simpa using hf)
  have hargs : m.args.take 4 ++ leBytes 4 m.bytesField ++ m.args.drop 8 = m.args := by
    rw [Msg.bytesField, Msg.field, leBytes_leAt (by omega), List.append_assoc]
    have htail : (m.args.drop 4).take 4 ++ m.args.drop 8 = m.args.drop 4 := by
      have h := List.take_append_drop 4 (m.args.drop 4)
      rwa [List.drop_drop] at h
    rw [htail, List.take_append_drop]
  rw [State.legalChunk, hbytes, hargs]

/-- The command of an image: a wrong OFFSET fails the transfer, and else the chunk is taken. -/
theorem State.imageCommand_taken (h : ChunkTaken s op m) : s.imageCommand op =
    if s.chunkBegun.offsetWrong (imageKind op) m then s.chunkBegun.chunkFails (imageKind op) m
    else s.chunkBegun.takeChunk (imageKind op) m := by
  have h16 : 16 ≤ m.length := by
    have := h.size
    split at this <;> omega
  have hargs := h.args
  have hchunk : s.begun.legalChunk m = m := State.legalChunk_of_legal (by omega) h.pos h.most
  have hctl : ¬ 8 ≤ m.byte 0 := by have := h.ctl; omega
  have hstep : s.imageCommand op = if m.opcode ≠ op then s else if 248 < m.length ∨ m.length < 16 then s.begun.answer m 5 []
      else s.chunkBegun.chunkStep (imageKind op) (s.begun.legalChunk m) := by
    rw [State.imageCommand, h.cur]
    rfl
  rw [hstep, if_neg (by simp [h.opcode]), if_neg (by have := h.max; omega), hchunk, State.chunkStep,
    if_neg (by have := h.size; omega), if_congr (or_iff_right hctl) rfl rfl]

@[simp] theorem State.chunkBegun_xfer (s : State) (k : ImageKind) : s.chunkBegun.xfer k = s.xfer k := by cases k <;> rfl

@[simp] theorem State.chunkBegun_heldByOther (s : State) (k : ImageKind) (m : Msg) : s.chunkBegun.heldByOther k m = s.heldByOther k m := by
  rw [State.heldByOther, State.chunkBegun_xfer]
  rfl

theorem State.chunkBegun_ready (h : s.chunkReady k) : s.chunkBegun.chunkReady k := h

@[simp] theorem State.setXfer_xfer (s : State) (k : ImageKind) (x : Option Xfer) : (s.setXfer k x).xfer k = x := by cases k <;> rfl

theorem kept_xfer (h : u.kept = s.kept) (k : ImageKind) : u.xfer k = s.xfer k := by
  cases k
  · exact congrArg (·.fw.cfg) h
  · exact congrArg (·.fw.dir) h
  · exact congrArg (·.fw.patch) h

@[simp] theorem State.answer_xfer (s : State) (m : Msg) (st : Nat) (l : List Byte) (k : ImageKind) : (s.answer m st l).xfer k = s.xfer k :=
  kept_xfer (s.answer_kept m st l) k

theorem State.answer_hasFailed (s : State) (m' : Msg) (st : Nat) (l : List Byte) (m : Msg) :
    (s.answer m' st l).hasFailed m = s.hasFailed m :=
  congrArg (fun k : Kept => k.fw.failed.any m.sameTransfer) (s.answer_kept m' st l)

theorem Msg.sameTransfer_self (m : Msg) : m.sameTransfer (m.opcode, m.stamp) = true := by simp [Msg.sameTransfer, sameSender]

/-- A transfer that fails is gone and remembered as failed (R399). -/
theorem State.failXfer_spec (s : State) (k : ImageKind) (m : Msg) (st : Nat) : (s.failXfer k m st).xfer k = none ∧
    (s.failXfer k m st).hasFailed m = true ∧ (s.failXfer k m st).getF (R.mboxState m.mbox) = 0 := by
  unfold State.failXfer
  extract_lets u
  refine ⟨?_, ?_, State.answer_mboxState _ _ _ _⟩
  · rw [State.answer_xfer]
    cases k <;> rfl
  · rw [State.answer_hasFailed, State.hasFailed]
    simp [Msg.sameTransfer_self]

/-- The transfer that FIRST opens (R397). -/
def State.freshXfer (s : State) (m : Msg) : Xfer := { owner := m.stamp, fromUnconfigured := s.node.state = .unconfigured }

@[simp] theorem State.openXfer_xfer (s : State) (k : ImageKind) (m : Msg) : (s.openXfer k m).xfer k = some (s.freshXfer m) := by
  cases k
  case cfg =>
    unfold State.openXfer
    dsimp only
    rw [if_pos rfl]
    split <;> rfl
  all_goals rfl

/-- What opening a transfer keeps: all but the transfers, the staged image and bank A. -/
theorem State.openXfer_keeps (s : State) (k : ImageKind) (m : Msg) : (s.openXfer k m).node = s.node ∧ (s.openXfer k m).regs = s.regs ∧
    (s.openXfer k m).cfg = s.cfg ∧ (s.openXfer k m).ticks = s.ticks ∧ (s.openXfer k m).host = s.host := by
  cases k
  case cfg =>
    unfold State.openXfer
    dsimp only
    rw [if_pos rfl]
    split <;> exact ⟨rfl, rfl, rfl, rfl, rfl⟩
  all_goals exact ⟨rfl, rfl, rfl, rfl, rfl⟩

/-- The state in which the chunk's bytes are absorbed. -/
def State.opened (s : State) (k : ImageKind) (m : Msg) : State := if m.isFirst then s.openXfer k m else s

/-- A chunk that nothing stops is carried out. -/
theorem State.takeChunk_carried (hready : s.chunkReady k) (hheld : s.heldByOther k m = false)
    (hform : m.hostForm = true → s.isRoot = true ∧ stampClass m.stamp = 1) (hopen : m.isFirst = false → (s.xfer k).isSome = true) :
    s.takeChunk k m = if m.hostForm then (s.opened k m).startHostRead m else (s.opened k m).absorb k m (m.chunkData []) false 5 := by
  obtain ⟨hstate, hrule⟩ := hready
  have hstop : s.chunkStop k m = none := by
    rw [State.chunkStop, if_neg (by simp [hstate, hrule]), if_neg (by simp [hheld]), if_neg]
    rintro (⟨hf, hn⟩ | ⟨hf, hn⟩)
    · exact hn (hform hf)
    · have := hopen (by simpa using hf)
      simp_all
  rw [State.takeChunk, hstop]
  rfl

/-- A chunk that is stopped, and belongs to no transfer, is answered so. -/
theorem State.takeChunk_stopped {n : Nat} (hstop : s.chunkStop k m = some n) (hnone : s.chunkXfer k m = none) :
    s.takeChunk k m = if n = 4 ∧ ¬ m.hostForm ∧ m.quiet ∧ s.hasFailed m then s.complete m.mbox else s.answer m n [] := by
  have hbad : s.chunkBad k m = none := by rw [State.chunkBad, hnone]; rfl
  rw [State.takeChunk, hstop]
  dsimp only
  rw [hbad]

theorem Msg.chunkData_nil (m : Msg) : m.chunkData [] = (bytesAt m.args 16 m.bytesField).map fun b => (b, false) := by
  rw [Msg.chunkData]
  apply List.ext_getElem
  · simp
  · intro i _ _
    simp

/-! ### The bytes of a stream -/

/-- A configuration image of less than a word holds no section 7: none is found before byte 16. -/
theorem section7_of_short {b : List Byte} (h : b.length < 8) : section7 b = none := by
  have hfuel : b.length / 12 + 1 = 1 := by omega
  rw [section7, hfuel]
  split
  · rename_i x hx
    have hpos : x.pos = 16 := by
      have hmem := List.mem_of_find?_eq_some hx
      simp only [walkSections] at hmem
      split_ifs at hmem <;> simp_all
    rw [if_pos (by omega)]
  · rfl

theorem section7Images_of_short {b : List Byte} (h : b.length < 8) : section7Images b = none := by
  rw [section7Images, section7_of_short h]
  rfl

theorem stagedBytes_of_short {b : List Byte} (h : b.length < 8) : stagedBytes b = b.length := by
  rw [stagedBytes, section7_of_short h]

/-- Less than a word holds no directory image. -/
theorem scanBytes_of_short {b : List Byte} (limit : Nat) (h : b.length < 8) :
    (scanBytes limit b).entries = [] ∧ (scanBytes limit b).good = [] ∧ (scanBytes limit b).bad = false ∧
      (scanBytes limit b).odd = false := by
  have hfuel : b.length / 8 = 0 := by omega
  have hwords : wholeWords b = [] := by
    simp [wholeWords, hfuel, bytesWords, bytesWordsN]
  simp [scanBytes, hwords, scanDir]

theorem State.skip_zero (s : State) : s.skip 0 = s := rfl

@[simp] theorem State.writeEntries_kept (s : State) (bankB : Bool) (n : Nat) (l : List (Nat × Word)) :
    (s.writeEntries bankB n l).kept = s.kept := kept_foldl (fun v _ => v.writeHalf_kept _ _ _ _) _ _

/-- The directory images of a configuration image that have come so far. -/
def imagesScan (bytes : List Byte) : DirScan := ((section7Images bytes).map Prod.fst).getD {}

/-- The state in which the entries of a configuration image's directory images stand in bank A (R477). -/
def State.imagesWritten (s : State) (x : Xfer) (bytes : List Byte) : State :=
  if x.fromUnconfigured then s.writeEntries false x.taken (imagesScan bytes).entries else s

/-- The scan of directory images for a node's directory. -/
def State.dirScan (s : State) (bytes : List Byte) : DirScan := scanBytes (s.cfgF C.dirSlotCount * 2048) bytes

/-- The state in which the entries of directory images stand in the shadow, and their ranges are recorded (R226). -/
def State.shadowWritten (s : State) (x : Xfer) (bytes : List Byte) : State :=
  let u := s.writeEntries s.shadowB x.taken (s.dirScan bytes).entries
  { u with dir := { u.dir with good := u.dir.good ++ (s.dirScan bytes).good.drop x.images } }

section
variable {x : Xfer} {d : Decoded} {last : Bool} (hbad : streamBad d last = false)
include hbad

/-- Bytes of a configuration image without a fault. -/
theorem State.absorbCfg_good (hodd : (imagesScan (d.out.map Prod.fst)).odd = false)
    (himage : s.imageBad .cfg x.fromUnconfigured last (d.out.map Prod.fst) = false) :
    s.absorbCfg m x d last false 5 =
      let u := s.imagesWritten x (d.out.map Prod.fst)
      if last then ({ u with fw := { u.fw with cfg := none, staged := some (d.out.map Prod.fst) } } : State).answer m 0 []
      else (u.setXfer .cfg (some { x with taken := (imagesScan (d.out.map Prod.fst)).entries.length })).answer m 0 [] := by
  unfold State.absorbCfg
  extract_lets bytes scan u odd v
  have hscan : scan.odd = false := hodd
  have hv : v = s.imagesWritten x bytes := by simp [v, hscan, boolNat, State.skip_zero] <;> rfl
  have hbadv : v.imageBad .cfg x.fromUnconfigured last bytes = false := himage
  rw [if_neg (by simp [hbad]), if_neg (by simp [odd, hscan, hbadv]), hv]
  rfl

/-- Bytes of directory images without a fault. -/
theorem State.absorbDir_good (hodd : (s.dirScan (d.out.map Prod.fst)).odd = false)
    (himage : s.imageBad .dir false last (d.out.map Prod.fst) = false) :
    s.absorbDir m x d last false 5 =
      let scan := s.dirScan (d.out.map Prod.fst)
      let u := s.shadowWritten x (d.out.map Prod.fst)
      if last then (u.setXfer .dir none).answer m 0
        (leBytes 4 scan.good.length ++ leBytes 4 scan.entries.length ++ leBytes 2 u.pagesRecorded ++ leBytes 6 0)
      else (u.setXfer .dir (some { x with taken := scan.entries.length, images := scan.good.length })).answer m 0 [] := by
  unfold State.absorbDir
  extract_lets bytes scan u src v odd w
  have hscan : scan.odd = false := hodd
  have hw : w = s.shadowWritten x bytes := by simp [w, hscan, boolNat, State.skip_zero] <;> rfl
  have hcfg : w.cfg = s.cfg := by
    rw [hw]
    exact kept_cfg (s.writeEntries_kept _ _ _)
  have hbadw : w.imageBad .dir false last bytes = false := by
    rw [← himage]
    simp only [State.imageBad, State.cfgF, State.record, hcfg]
    rfl
  rw [if_neg (by simp [hbad]), if_neg (by simp [odd, hscan, hbadw]), hw]
  rfl

end

/-- The last bytes of a patch without a fault. -/
theorem State.absorbPatch_last {x : Xfer} {d : Decoded} (hbad : streamBad d true = false) : s.absorbPatch m x d true false 5 =
    (State.ramWrite { s with fw := { s.fw with patch := none, stagedPatch := some (d.out.map Prod.fst) } } Config.patchArea).answer
      m 0 [] := by
  rw [State.absorbPatch, if_neg (by simp [hbad]), if_pos rfl]

/-- A stream that is good so far, and has brought less than a word, waits for more (R398, R399). -/
theorem State.absorb_short {x : Xfer} {data : List PByte} (hx : s.xfer k = some x) (hlast : m.isLast = false)
    (hbad : streamBad (x.decoded data) false = false) (hlen : (x.decoded data).out.length < 8) :
    ∃ (v : State) (y : Xfer), s.absorb k m data false 5 = (v.setXfer k (some y)).answer m 0 [] ∧ y.owner = x.owner ∧
      y.stream = x.stream ++ data.map Prod.fst := by
  have hshort : ((x.decoded data).out.map Prod.fst).length < 8 := by simpa using hlen
  rw [State.absorb, hx]
  dsimp only
  rw [hlast]
  cases k
  case cfg =>
    have hscan : imagesScan ((x.decoded data).out.map Prod.fst) = {} := by rw [imagesScan, section7Images_of_short hshort]; rfl
    have himage : s.imageBad .cfg x.fromUnconfigured false ((x.decoded data).out.map Prod.fst) = false := by
      simp only [State.imageBad, section7Images_of_short hshort, stagedBytes_of_short hshort, Bool.false_or, decide_eq_false_iff_not]
      omega
    exact ⟨_, _, State.absorbCfg_good hbad (by rw [hscan]) himage, rfl, rfl⟩
  case dir =>
    obtain ⟨-, -, hdirBad, hodd⟩ := scanBytes_of_short (s.cfgF C.dirSlotCount * 2048) hshort
    have himage : s.imageBad .dir false false ((x.decoded data).out.map Prod.fst) = false := by
      rw [State.imageBad]
      simp [hdirBad]
    exact ⟨_, _, State.absorbDir_good hbad hodd himage, rfl, rfl⟩
  case patch => exact ⟨s, _, if_neg (by simp [hbad]), rfl, rfl⟩

/-! ### Host buffers (R344, R398) -/

/-- Read requests change what has left and nothing else, and go behind those that are out. -/
theorem State.requestHost_spec (n : Nat) (s : State) (m : Msg) (i : Nat) (reqs : List (Nat × Nat)) :
    (State.requestHost n s m i reqs).2.fw = s.fw ∧ (State.requestHost n s m i reqs).2.regs = s.regs ∧
      (∀ o ∈ s.out, o ∈ (State.requestHost n s m i reqs).2.out) ∧ ∃ l, (State.requestHost n s m i reqs).1 = reqs ++ l := by
  induction n generalizing s i reqs with
  | zero => exact ⟨rfl, rfl, fun _ h => h, [], (List.append_nil _).symm⟩
  | succ n ih =>
    rw [State.requestHost]
    split
    · exact ⟨rfl, rfl, fun _ h => h, [], (List.append_nil _).symm⟩
    · obtain ⟨hfw, hregs, hout, l, hl⟩ := ih (s.emit (.hostRead (m.addrField + i)
        (min (min (m.bytesField - i) s.maxReadRequest) (4096 - (m.addrField + i) % 4096)))) (i +
        min (min (m.bytesField - i) s.maxReadRequest) (4096 - (m.addrField + i) % 4096)) (reqs ++
        [(min (min (m.bytesField - i) s.maxReadRequest) (4096 - (m.addrField + i) % 4096), s.ticks)])
      exact ⟨hfw, hregs, fun o ho => hout o (List.mem_cons_of_mem _ ho), _, hl.trans (List.append_assoc _ _ _)⟩

/-- The length of the first read request of a buffer. -/
def State.firstRead (s : State) (m : Msg) : Nat := min (min m.bytesField s.maxReadRequest) (4096 - m.addrField % 4096)

theorem State.firstRead_pos (s : State) (hpos : 0 < m.bytesField) : 0 < s.firstRead m := by
  have hmax : 0 < s.maxReadRequest := Nat.lt_min.2 ⟨by decide, by positivity⟩
  have hpage : m.addrField % 4096 < 4096 := Nat.mod_lt _ (by decide)
  rw [State.firstRead]
  omega

/-- The first request of a buffer leaves. -/
theorem State.requestHost_first (n : Nat) (s : State) (hpos : 0 < m.bytesField) :
    Out.hostRead m.addrField (s.firstRead m) ∈ (State.requestHost (n + 1) s m 0 []).2.out ∧
      ∃ l, (State.requestHost (n + 1) s m 0 []).1 = (s.firstRead m, s.ticks) :: l := by
  have hfirst := s.firstRead_pos hpos
  have hstep : State.requestHost (n + 1) s m 0 [] =
      State.requestHost n (s.emit (.hostRead m.addrField (s.firstRead m))) m (0 + s.firstRead m) [(s.firstRead m, s.ticks)] := by
    rw [State.requestHost]
    exact if_neg (by change ¬ s.firstRead m = 0; omega)
  rw [hstep]
  obtain ⟨-, -, hout, l, hl⟩ := State.requestHost_spec n (s.emit (.hostRead m.addrField (s.firstRead m))) m (0 + s.firstRead m)
    [(s.firstRead m, s.ticks)]
  exact ⟨hout _ List.mem_cons_self, l, hl⟩

theorem State.putWait_spec (s : State) (m : Msg) (w : FwWait) : (m, w) ∈ (s.putWait m w).fw.waits ∧ (s.putWait m w).out = s.out ∧
    (s.putWait m w).regs = s.regs ∧ ∀ k, (s.putWait m w).xfer k = s.xfer k := by
  unfold State.putWait
  split
  · rename_i hany
    obtain ⟨e, he, hm⟩ := List.any_eq_true.1 hany
    refine ⟨List.mem_map.2 ⟨e, he, if_pos (by simpa using hm)⟩, rfl, rfl, fun k => by cases k <;> rfl⟩
  · exact ⟨List.mem_append_right _ (List.mem_singleton.2 rfl), rfl, rfl, fun k => by cases k <;> rfl⟩

/-- A message waits for its host buffer, of which the first request has left. -/
theorem State.startHostRead_spec (s : State) (k : ImageKind) (hpos : 0 < m.bytesField) : ∃ l,
    (m, FwWait.hostRead 0 [] ((s.firstRead m, s.ticks) :: l)) ∈ (s.startHostRead m).fw.waits ∧
      Out.hostRead m.addrField (s.firstRead m) ∈ (s.startHostRead m).out ∧ (s.startHostRead m).regs = s.regs ∧
      (s.startHostRead m).xfer k = s.xfer k := by
  have hmost : ∃ n, s.startHostRead m =
      (State.requestHost (n + 1) s m 0 []).2.putWait m (.hostRead 0 [] (State.requestHost (n + 1) s m 0 []).1) := by
    rw [State.startHostRead, State.awaitHost]
    split
    · exact ⟨255, rfl⟩
    · exact ⟨0, rfl⟩
  obtain ⟨n, he⟩ := hmost
  obtain ⟨hfw, hregs, -, -⟩ := State.requestHost_spec (n + 1) s m 0 []
  obtain ⟨hout, l, hl⟩ := State.requestHost_first n s hpos
  obtain ⟨hwait, hput, hputRegs, hputXfer⟩ := State.putWait_spec (State.requestHost (n + 1) s m 0 []).2 m
    (.hostRead 0 [] (State.requestHost (n + 1) s m 0 []).1)
  rw [← he] at hwait hput hputRegs hputXfer
  refine ⟨l, hl ▸ hwait, hput ▸ hout, hputRegs.trans hregs, (hputXfer k).trans ?_⟩
  cases k
  · exact congrArg FwSt.cfg hfw
  · exact congrArg FwSt.dir hfw
  · exact congrArg FwSt.patch hfw

end

end Sys2Proof.Machine

namespace Sys2Proof.Machine

/-! ## CFG_DATA, PATCH_DATA and DIR_IMAGE -/

section
variable {s u : State} {op : BitVec 16} {k : ImageKind} {m : Msg}

/-- What a chunk of an image finds of the node and its registers once its transfer is open. -/
theorem State.opened_keeps (s : State) (k : ImageKind) (m : Msg) : (s.opened k m).node = s.node ∧ (s.opened k m).regs = s.regs ∧
    (s.opened k m).cfg = s.cfg ∧ (s.opened k m).ticks = s.ticks ∧ (s.opened k m).host = s.host := by
  unfold State.opened
  split
  · exact s.openXfer_keeps k m
  · exact ⟨rfl, rfl, rfl, rfl, rfl⟩

theorem State.opened_xfer_first (h : m.isFirst = true) : (s.opened k m).xfer k = some (s.freshXfer m) := by
  rw [State.opened, if_pos h, State.openXfer_xfer]

theorem State.opened_later (h : m.isFirst = false) : s.opened k m = s := if_neg (by simp [h])

/-- What the stream of a transfer decodes to with an inline chunk (R396). -/
theorem Xfer.decoded_chunk (x : Xfer) (m : Msg) : x.decoded (m.chunkData []) =
    decodeStream true ((x.stream ++ bytesAt m.args 16 m.bytesField).map fun b => (b, false)) := by
  rw [Xfer.decoded, Msg.chunkData_nil, List.map_append]

theorem Msg.chunkData_fst (m : Msg) : (m.chunkData []).map Prod.fst = bytesAt m.args 16 m.bytesField := by
  simp [Msg.chunkData_nil, Function.comp_def]

/-- A transfer with the bytes of one more chunk. -/
def Xfer.grown (x : Xfer) (m : Msg) : Xfer := { x with stream := x.stream ++ (m.chunkData []).map Prod.fst }

/-- The last bytes of an image as its kind has them. -/
def State.absorbWhole (s : State) (k : ImageKind) (m : Msg) (x : Xfer) (whole : Decoded) : State :=
  match k with
  | .cfg => s.absorbCfg m (x.grown m) whole true false 5
  | .dir => s.absorbDir m (x.grown m) whole true false 5
  | .patch => s.absorbPatch m (x.grown m) whole true false 5

theorem State.absorb_last {x : Xfer} {whole : Decoded} (hx : u.xfer k = some x) (hlast : m.isLast = true)
    (hwhole : decodeStream true ((x.stream ++ bytesAt m.args 16 m.bytesField).map fun b => (b, false)) = whole) :
    u.absorb k m (m.chunkData []) false 5 = u.absorbWhole k m x whole := by
  rw [State.absorb, hx]
  dsimp only
  rw [Xfer.decoded_chunk, hwhole, hlast]
  cases k <;> rfl

section
variable (h : ChunkTaken s op m) (hform : m.hostForm = false)
include h hform

/-- An inline chunk at its place in the stream, which nothing stops, is absorbed. -/
theorem imageCommand_inline {x : Xfer} (hready : s.chunkReady (imageKind op)) (hheld : s.heldByOther (imageKind op) m = false)
    (hx : (s.chunkBegun.opened (imageKind op) m).xfer (imageKind op) = some x) (haddr : m.addrField = x.stream.length) :
    s.imageCommand op = (s.chunkBegun.opened (imageKind op) m).absorb (imageKind op) m (m.chunkData []) false 5 := by
  have hoffset : s.chunkBegun.offsetWrong (imageKind op) m = false := by
    rw [State.offsetWrong, hform]
    cases hf : m.isFirst with
    | true =>
      rw [State.opened_xfer_first hf] at hx
      cases hx
      simp [haddr, State.freshXfer]
    | false =>
      rw [State.opened_later hf] at hx
      simp [hx, haddr]
  have hopen : m.isFirst = false → (s.chunkBegun.xfer (imageKind op)).isSome = true := fun hf => by
    rw [State.opened_later hf] at hx
    rw [hx]
    rfl
  rw [State.imageCommand_taken h, if_neg (by simp [hoffset]), State.takeChunk_carried (s := s.chunkBegun) hready
    (by rw [State.chunkBegun_heldByOther, hheld]) (by simp [hform]) hopen, if_neg (by simp [hform])]

/-- FIRST opens the transfer of its sender, which waits for more (R397). -/
theorem imageCommand_first (hfirst : m.isFirst = true) (hlast : m.isLast = false) (haddr : m.addrField = 0)
    (hready : s.chunkReady (imageKind op)) (hheld : s.heldByOther (imageKind op) m = false)
    (hbad : streamBad (decodeStream true ((bytesAt m.args 16 m.bytesField).map fun b => (b, false))) false = false)
    (hlen : (decodeStream true ((bytesAt m.args 16 m.bytesField).map fun b => (b, false))).out.length < 8) :
    ((s.imageCommand op).xfer (imageKind op)).map (·.owner) = some m.stamp ∧
      ((s.imageCommand op).xfer (imageKind op)).map (·.stream) = some (bytesAt m.args 16 m.bytesField) ∧
      (s.imageCommand op).getF (R.mboxState m.mbox) = 0 := by
  have hx := State.opened_xfer_first (s := s.chunkBegun) (k := imageKind op) hfirst
  have hd : (s.chunkBegun.freshXfer m).decoded (m.chunkData [])
      = decodeStream true ((bytesAt m.args 16 m.bytesField).map fun b => (b, false)) := Xfer.decoded_chunk _ _
  obtain ⟨v, y, habsorb, howner, hstream⟩ := State.absorb_short hx hlast (by rw [hd, hbad]) (by rw [hd]; exact hlen)
  rw [imageCommand_inline h hform hready hheld hx haddr, habsorb, State.answer_xfer, State.setXfer_xfer]
  exact ⟨congrArg some howner, congrArg some (hstream.trans m.chunkData_fst), State.answer_mboxState _ _ _ _⟩

/-- A chunk at another OFFSET fails the transfer of its sender (R399). -/
theorem imageCommand_offset {y : Xfer} (hlater : m.isFirst = false) (hy : s.xfer (imageKind op) = some y)
    (hsame : sameSender y.owner m.stamp = true) (haddr : m.addrField ≠ y.stream.length) :
    (s.imageCommand op).xfer (imageKind op) = none ∧ (s.imageCommand op).hasFailed m = true ∧
      (s.imageCommand op).getF (R.mboxState m.mbox) = 0 := by
  have hoffset : s.chunkBegun.offsetWrong (imageKind op) m = true := by
    rw [State.offsetWrong, State.chunkBegun_xfer, hy]
    simp [hform, hlater, hsame, haddr]
  have hheld : s.chunkBegun.heldByOther (imageKind op) m = false := by
    rw [State.heldByOther, State.chunkBegun_xfer, hy]
    simp [hsame]
  rw [State.imageCommand_taken h, if_pos hoffset, State.chunkFails, if_neg (by simp [hheld])]
  exact State.failXfer_spec _ _ _ _

/-- A later chunk without a transfer (R397, R399). -/
theorem imageCommand_none (hlater : m.isFirst = false) (hready : s.chunkReady (imageKind op)) (hx : s.xfer (imageKind op) = none) :
    s.imageCommand op = if m.quiet = true ∧ s.hasFailed m = true then s.chunkBegun.complete m.mbox else s.chunkBegun.answer m 4 [] := by
  obtain ⟨hstate, hrule⟩ := State.chunkBegun_ready hready
  have hxb : s.chunkBegun.xfer (imageKind op) = none := by rw [State.chunkBegun_xfer, hx]
  have hheld : s.chunkBegun.heldByOther (imageKind op) m = false := by rw [State.heldByOther, hxb]
  have hoffset : s.chunkBegun.offsetWrong (imageKind op) m = false := by
    rw [State.offsetWrong, hxb]
    simp [hlater]
  have hstop : s.chunkBegun.chunkStop (imageKind op) m = some 4 := by
    rw [State.chunkStop, if_neg (by simp [hstate, hrule]), if_neg (by simp [hheld]), if_pos (by simp [hlater, hxb])]
  have hnone : s.chunkBegun.chunkXfer (imageKind op) m = none := by
    rw [State.chunkXfer, if_neg (by simp [hform]), if_neg (by simp [hlater]), hxb]
    rfl
  rw [State.imageCommand_taken h, if_neg (by simp [hoffset]), State.takeChunk_stopped hstop hnone]
  refine if_congr ?_ rfl rfl
  simp only [hform, true_and, Bool.false_eq_true, not_false_eq_true]
  rfl

/-- A later chunk of another sender's transfer is BUSY (R397). -/
theorem imageCommand_busy (hlater : m.isFirst = false) (hready : s.chunkReady (imageKind op))
    (hheld : s.heldByOther (imageKind op) m = true) : s.imageCommand op = s.chunkBegun.answer m 1 [] := by
  obtain ⟨hstate, hrule⟩ := State.chunkBegun_ready hready
  have hheldB : s.chunkBegun.heldByOther (imageKind op) m = true := by rw [State.chunkBegun_heldByOther, hheld]
  obtain ⟨y, hy, hother⟩ : ∃ y, s.chunkBegun.xfer (imageKind op) = some y ∧ sameSender y.owner m.stamp = false := by
    rw [State.heldByOther] at hheldB
    split at hheldB
    · rename_i y hy
      exact ⟨y, hy, by simpa using hheldB⟩
    · cases hheldB
  have hoffset : s.chunkBegun.offsetWrong (imageKind op) m = false := by
    rw [State.offsetWrong, hy]
    simp [hlater, hother]
  have hstop : s.chunkBegun.chunkStop (imageKind op) m = some 1 := by
    rw [State.chunkStop, if_neg (by simp [hstate, hrule]), if_pos hheldB]
  have hnone : s.chunkBegun.chunkXfer (imageKind op) m = none := by
    rw [State.chunkXfer, if_neg (by simp [hform]), if_neg (by simp [hlater]), hy]
    simp [Option.filter, hother]
  rw [State.imageCommand_taken h, if_neg (by simp [hoffset]), State.takeChunk_stopped hstop hnone, if_neg (by simp)]

section
variable {x : Xfer} {whole : Decoded} (hlast : m.isLast = true) (hready : s.chunkReady (imageKind op))
  (hheld : s.heldByOther (imageKind op) m = false)
  (hx : (s.chunkBegun.opened (imageKind op) m).xfer (imageKind op) = some x) (haddr : m.addrField = x.stream.length)
  (hwhole : decodeStream true ((x.stream ++ bytesAt m.args 16 m.bytesField).map fun b => (b, false)) = whole)
  (hbad : streamBad whole true = false)
include hlast hready hheld hx haddr hwhole hbad

/-- The last chunk of a patch stages it (R412). -/
theorem imageCommand_patch (hk : imageKind op = .patch) : (s.imageCommand op).fw.patch = none ∧
    (s.imageCommand op).fw.stagedPatch = some (whole.out.map Prod.fst) ∧ (s.imageCommand op).getF (R.mboxState m.mbox) = 0 := by
  rw [imageCommand_inline h hform hready hheld hx haddr, State.absorb_last hx hlast hwhole, hk]
  dsimp only [State.absorbWhole]
  rw [State.absorbPatch_last hbad]
  generalize s.chunkBegun.opened .patch m = v
  have hkept : ∀ w : State, ((w.ramWrite Config.patchArea).answer m 0 []).kept = w.kept := fun w =>
    (State.answer_kept _ _ _ _).trans (State.setMem_kept _ _ _ rfl)
  exact ⟨congrArg (·.fw.patch) (hkept _), congrArg (·.fw.stagedPatch) (hkept _), State.answer_mboxState _ _ _ _⟩

/-- The last chunk of a configuration image stages it; the entries of its directory images stand in bank A (R400, R477). -/
theorem imageCommand_cfg (hk : imageKind op = .cfg) (hodd : (imagesScan (whole.out.map Prod.fst)).odd = false)
    (himage : s.imageBad .cfg x.fromUnconfigured true (whole.out.map Prod.fst) = false) :
    (s.imageCommand op).fw.cfg = none ∧ (s.imageCommand op).fw.staged = some (whole.out.map Prod.fst) ∧
      (s.imageCommand op).getF (R.mboxState m.mbox) = 0 ∧
      (s.imageCommand op).mem 1 = ((s.chunkBegun.opened .cfg m).imagesWritten x (whole.out.map Prod.fst)).mem 1 := by
  rw [imageCommand_inline h hform hready hheld hx haddr, State.absorb_last hx hlast hwhole, hk]
  dsimp only [State.absorbWhole]
  rw [State.absorbCfg_good (s := s.chunkBegun.opened .cfg m) (x := x.grown m) hbad hodd himage, if_pos rfl]
  generalize hu : State.imagesWritten _ _ _ = v
  have hkept := State.answer_kept ({ v with fw := { v.fw with cfg := none, staged := some (whole.out.map Prod.fst) } } : State) m 0 []
  refine ⟨congrArg (·.fw.cfg) hkept, congrArg (·.fw.staged) hkept, State.answer_mboxState _ _ _ _, ?_⟩
  rw [State.answer_mem _ _ _ _ (.inl rfl)]
  have hmem : v.mem 1 = ((s.chunkBegun.opened .cfg m).imagesWritten x (whole.out.map Prod.fst)).mem 1 := congrArg (State.mem · 1) hu.symm
  exact hmem

/-- The last chunk of directory images answers what they have brought (R226, R406). -/
theorem imageCommand_dir (hk : imageKind op = .dir) (hodd : (s.dirScan (whole.out.map Prod.fst)).odd = false)
    (himage : s.imageBad .dir x.fromUnconfigured true (whole.out.map Prod.fst) = false) :
    s.imageCommand op = (((s.chunkBegun.opened .dir m).shadowWritten x (whole.out.map Prod.fst)).setXfer .dir none).answer m 0
      (leBytes 4 (s.dirScan (whole.out.map Prod.fst)).good.length ++ leBytes 4 (s.dirScan (whole.out.map Prod.fst)).entries.length ++
        leBytes 2 ((s.chunkBegun.opened .dir m).shadowWritten x (whole.out.map Prod.fst)).pagesRecorded ++ leBytes 6 0) := by
  obtain ⟨-, -, hcfg, -, -⟩ := s.chunkBegun.opened_keeps .dir m
  have hlimit : (s.chunkBegun.opened .dir m).cfgF C.dirSlotCount = s.cfgF C.dirSlotCount := by
    rw [State.cfgF, State.record, hcfg]
    rfl
  have hscan : (s.chunkBegun.opened .dir m).dirScan (whole.out.map Prod.fst) = s.dirScan (whole.out.map Prod.fst) := by
    rw [State.dirScan, hlimit, State.dirScan]
  have himageO : (s.chunkBegun.opened .dir m).imageBad .dir false true (whole.out.map Prod.fst) = false := by
    rw [← himage]
    simp only [State.imageBad, hlimit]
  rw [imageCommand_inline h hform hready hheld hx haddr, State.absorb_last hx hlast hwhole, hk]
  dsimp only [State.absorbWhole]
  rw [State.absorbDir_good (x := x.grown m) hbad (by rw [hscan, hodd]) himageO, if_pos rfl, hscan]
  rfl

end

end

/-! ### The host's form (R398) -/

section
variable (h : ChunkTaken s op m) (hform : m.hostForm = true) (hready : s.chunkReady (imageKind op))
  (hheld : s.heldByOther (imageKind op) m = false)
include h hform hready hheld

/-- FIRST at the root for a host opens the transfer, and the first request for the buffer leaves. -/
theorem imageCommand_host (hroot : s.isRoot = true) (hclass : stampClass m.stamp = 1) (hfirst : m.isFirst = true) :
    ((s.imageCommand op).xfer (imageKind op)).map (·.owner) = some m.stamp ∧
      (∃ l, (m, FwWait.hostRead 0 [] ((s.firstRead m, s.ticks) :: l)) ∈ (s.imageCommand op).fw.waits) ∧
      Out.hostRead m.addrField (s.firstRead m) ∈ (s.imageCommand op).out ∧
      (s.imageCommand op).getF (R.mboxState m.mbox) = s.getF (R.mboxState m.mbox) := by
  have hoffset : s.chunkBegun.offsetWrong (imageKind op) m = false := by simp [State.offsetWrong, hform]
  obtain ⟨-, hregs, -, hticks, hhost⟩ := s.chunkBegun.opened_keeps (imageKind op) m
  have hread : (s.chunkBegun.opened (imageKind op) m).firstRead m = s.firstRead m := by
    simp only [State.firstRead, State.maxReadRequest, hhost]
    rfl
  obtain ⟨l, hwait, hout, hregs', hxfer⟩ := (s.chunkBegun.opened (imageKind op) m).startHostRead_spec (m := m) (imageKind op) h.pos
  rw [hread] at hwait hout
  rw [State.imageCommand_taken h, if_neg (by simp [hoffset]), State.takeChunk_carried (s := s.chunkBegun) hready
    (by rw [State.chunkBegun_heldByOther, hheld]) (fun _ => ⟨hroot, hclass⟩) (by simp [hfirst]), if_pos hform]
  refine ⟨?_, ⟨l, ?_⟩, hout, ?_⟩
  · rw [hxfer, State.opened_xfer_first hfirst]
    rfl
  · rw [hticks] at hwait
    exact hwait
  · simp only [State.getF, State.word, hregs', hregs]
    rfl

/-- Elsewhere, or for another sender, it is REFUSED. -/
theorem imageCommand_host_refused (hno : ¬ (s.isRoot = true ∧ stampClass m.stamp = 1)) :
    s.imageCommand op = s.chunkBegun.answer m 4 [] := by
  obtain ⟨hstate, hrule⟩ := State.chunkBegun_ready hready
  have hoffset : s.chunkBegun.offsetWrong (imageKind op) m = false := by simp [State.offsetWrong, hform]
  have hstop : s.chunkBegun.chunkStop (imageKind op) m = some 4 := by
    rw [State.chunkStop, if_neg (by simp [hstate, hrule]), if_neg (by simp [hheld]), if_pos (.inl ⟨hform, hno⟩)]
  have hnone : s.chunkBegun.chunkXfer (imageKind op) m = none := if_pos hform
  rw [State.imageCommand_taken h, if_neg (by simp [hoffset]), State.takeChunk_stopped hstop hnone, if_neg (by simp [hform])]

end

end

end Sys2Proof.Machine

namespace Sys2Proof.Machine

/-! ## What the operations of a commit keep (R72, R76, R280, R309, R401, R463) -/

section
variable (s : State)

theorem State.kept_loop (v : LoopSt) : ({ s with loop := v } : State).kept = s.kept := rfl

theorem State.kept_copy (v : PairSt) (d : DirSt) : ({ s with pair := v, dir := d } : State).kept = s.kept := rfl

/-! ### Items, readers and ports -/

@[simp] theorem State.viewsKeep_kept (id : Nat) (l : List Nat) : (s.viewsKeep id l).kept = s.kept := rfl

@[simp] theorem State.releaseItem_kept (id : Nat) : (s.releaseItem id).kept = s.kept := by
  unfold State.releaseItem
  extract_lets u
  have hu : u.kept = s.kept := s.checkQueue_kept 0
  split
  · exact hu
  · simpa using hu

theorem State.releaseItems_kept (l : List Item) : (l.foldl (fun (v : State) (i : Item) => v.releaseItem i.id) s).kept = s.kept :=
  kept_foldl (fun v i => v.releaseItem_kept i.id) l s

@[simp] theorem State.trimRetained_kept : s.trimRetained.kept = s.kept := kept_ite rfl (State.releaseItems_kept _ _)

@[simp] theorem State.giveBack_kept (r : Reader) : (s.giveBack r).kept = s.kept := by
  unfold State.giveBack
  extract_lets v
  split
  · rfl
  · exact kept_ite rfl rfl

@[simp] theorem State.frameOut_kept (i : Item) : (s.frameOut i).kept = s.kept := by
  unfold State.frameOut
  split
  · exact kept_ite rfl rfl
  · rfl

@[simp] theorem State.noteOut_kept : s.noteOut.kept = s.kept := kept_foldl (fun v i => v.frameOut_kept i) _ _

@[simp] theorem State.freeAcked_kept (need : List Reader) (i : Item) : (s.freeAcked need i).kept = s.kept := by
  unfold State.freeAcked
  refine kept_ite (s.releaseItem_kept _) (kept_ite rfl ?_)
  extract_lets w rest gone words
  refine kept_ite rfl ?_
  rw [State.throttleUpdate_kept, State.modItem_kept, State.viewsKeep_kept]

@[simp] theorem State.freeDelivered_kept : s.freeDelivered.kept = s.kept :=
  kept_ite rfl (kept_foldl (fun v i => v.freeAcked_kept _ i) _ _)

/-! ### Timebases -/

@[simp] theorem State.setTb_kept (r st : Nat) : (s.setTb r st).kept = s.kept := rfl
@[simp] theorem State.freezeTrim_kept (r : Nat) : (s.freezeTrim r).kept = s.kept := rfl
@[simp] theorem State.tbAcquire_kept (r : Nat) : (s.tbAcquire r).kept = s.kept := rfl
@[simp] theorem State.heldLost_kept (r : Nat) : (s.heldLost r).kept = s.kept := rfl
@[simp] theorem State.tbNotice_kept (r : Nat) : (s.tbNotice r).kept = s.kept := State.notice_kept _ _ _
@[simp] theorem State.slewLost_kept (r : Nat) : (s.slewLost r).kept = s.kept := State.tbNotice_kept _ _
@[simp] theorem State.enterHoldover_kept (r : Nat) : (s.enterHoldover r).kept = s.kept := by
  simp [State.enterHoldover]

@[simp] theorem State.referenceLost_kept : s.referenceLost.kept = s.kept := by
  refine kept_foldl (fun v r => ?_) _ _
  dsimp only
  split
  · exact v.enterHoldover_kept r
  · exact v.slewLost_kept r
  · exact kept_ite rfl rfl
  · rfl

/-! ### Ports -/

@[simp] theorem State.seek_kept (p : Nat) : (s.seek p).kept = s.kept := rfl

/-- The reader of a port that leaves UP gives its item back. -/
theorem State.readerBack_kept (r : Option Reader) :
    (match r with | some r => if r = Reader.p then s else s.giveBack r | none => s).kept = s.kept := by
  cases r with
  | none => rfl
  | some r => exact kept_ite rfl (s.giveBack_kept r)

@[simp] theorem State.leaveUp_kept (p : Nat) : (s.leaveUp p).kept = s.kept := by
  unfold State.leaveUp
  extract_lets u v w x
  have hu : u.kept = s.kept := (State.seek_kept _ _).trans (s.setFlag_kept _)
  have hv : v.kept = s.kept := kept_ite ((State.throttleUpdate_kept _).trans ((u.setF_kept _ _).trans hu))
    ((State.freeDelivered_kept _).trans (u.noteOut_kept.trans hu))
  have hw : w.kept = s.kept := (v.readerBack_kept (portReader p)).trans hv
  have hx : x.kept = s.kept := kept_ite (w.referenceLost_kept.trans hw) hw
  exact kept_ite ((x.kept_copy _ _).trans hx) hx

@[simp] theorem State.retrainPort_kept (p : Nat) : (s.retrainPort p).kept = s.kept :=
  kept_ite rfl (kept_ite (s.leaveUp_kept p) rfl)

@[simp] theorem State.commitPort_kept (p : Nat) (wasOn : Bool) (oldRate oldTaps : Nat) (moved : Bool) :
    (s.commitPort p wasOn oldRate oldTaps moved).kept = s.kept :=
  kept_ite (kept_ite (kept_ite (s.leaveUp_kept p) rfl) rfl)
    (kept_ite rfl (kept_ite (State.retrainPort_kept _ _) (kept_ite (s.retrainPort_kept p) rfl)))

/-! ### The grant -/

@[simp] theorem State.setGrantPos_kept (g : Nat) : (s.setGrantPos g).kept = s.kept := s.setTri_kept _ (by decide)

@[simp] theorem State.switchover_kept (ack : Option (BitVec 32)) : (s.switchover ack).kept = s.kept := by
  unfold State.switchover
  extract_lets u oldest gap first v w
  have hu : u.kept = s.kept := by
    cases ack with
    | none => rfl
    | some a => exact State.releaseItems_kept _ _
  rw [State.notice_kept]
  exact hu

@[simp] theorem State.standDown_kept : s.standDown.kept = s.kept := by
  unfold State.standDown
  extract_lets u unsent v sent mine late w
  have hv : v.kept = s.kept := by simp [v, u]
  have hw : w.kept = s.kept := (State.releaseItems_kept _ _).trans hv
  rw [State.trimRetained_kept]
  exact hw

@[simp] theorem State.applyGrant_kept (pos : Nat) (ack : Option (BitVec 32)) : (s.applyGrant pos ack).kept = s.kept := by
  have hg := s.setGrantPos_kept pos
  exact kept_ite rfl (kept_ite (kept_ite hg ((State.switchover_kept _ _).trans hg)) (kept_ite ((State.standDown_kept _).trans hg) hg))

@[simp] theorem State.pinGrant_kept : s.pinGrant.kept = s.kept :=
  kept_ite rfl (kept_ite (s.applyGrant_kept _ _) (s.applyGrant_kept _ _))

/-! ### Cells, loops and sensors -/

@[simp] theorem State.fallCell_kept (c period : Nat) (b : Bool) : (s.fallCell c period b).kept = s.kept := rfl

@[simp] theorem State.flushStaging_kept (c : Nat) : (s.flushStaging c).kept = s.kept := by
  unfold State.flushStaging
  split
  · rfl
  · dsimp only
    split <;> simp

@[simp] theorem State.modeChange_kept (c old new : Nat) : (s.modeChange c old new).kept = s.kept := by
  unfold State.modeChange
  extract_lets v n full w lost auto range x y
  have hx : x.kept = s.kept := rfl
  have hy : y.kept = s.kept := kept_ite ((x.flushStaging_kept c).trans hx) hx
  exact kept_ite rfl (kept_ite hy hy)

@[simp] theorem State.commitCell_kept (c old : Nat) : (s.commitCell c old).kept = s.kept := by
  unfold State.commitCell
  extract_lets u new
  have hu : u.kept = s.kept := kept_ite rfl rfl
  exact kept_ite ((u.modeChange_kept _ _ _).trans hu) (kept_ite hu hu)

@[simp] theorem State.noteSat_kept (i n : Nat) : (s.noteSat i n).kept = s.kept :=
  kept_ite rfl ((State.setF_kept _ _ _).trans (kept_foldl (fun v _ => v.setFlag_kept _) _ _))

@[simp] theorem State.showLoop_kept (i : Nat) (out sp : Int) : (s.showLoop i out sp).kept = s.kept := rfl
@[simp] theorem State.startLoop_kept (i : Nat) : (s.startLoop i).kept = s.kept := rfl

@[simp] theorem State.commitShow_kept (i sats : Nat) : (s.commitShow i sats).kept = s.kept := by simp [State.commitShow]

@[simp] theorem State.commitLoops_kept (old : Nat → Nat → Nat) : (s.commitLoops old).kept = s.kept := by
  unfold State.commitLoops
  extract_lets u v w codes
  have hu : u.kept = s.kept := kept_foldl (fun a i => a.setTri_kept _ (by omega)) _ _
  have hv : v.kept = s.kept :=
    (kept_foldl (fun _ _ => (State.commitShow_kept _ _ _).trans (State.setPid_kept _ _ _)) _ _).trans hu
  have hw : w.kept = s.kept := by
    refine (kept_foldl (fun a j => ?_) _ _).trans hv
    extract_lets i bias out x
    have hx : x.kept = a.kept := (State.commitShow_kept _ _ _).trans (State.setPid_kept _ _ _)
    exact kept_ite ((x.startLoop_kept i).trans hx) ((x.setF_kept _ _).trans hx)
  exact (w.kept_loop _).trans hw

@[simp] theorem State.setIlk_kept (n code : Nat) : (s.setIlk n code).kept = s.kept := rfl

@[simp] theorem State.commitSensors_kept (first : Bool) : (s.commitSensors first).kept = s.kept := by
  unfold State.commitSensors
  extract_lets restart u src v w
  have hv : v.kept = s.kept := rfl
  have hw : w.kept = s.kept := by
    refine (kept_foldl (fun a e => ?_) _ _).trans hv
    exact kept_ite rfl rfl
  refine (kept_foldl (fun a n => ?_) _ _).trans hw
  exact kept_ite rfl rfl

@[simp] theorem State.chooseClock_kept : s.chooseClock.kept = s.kept := rfl

@[simp] theorem State.loadTables_kept (b : List Byte) : (s.loadTables b).kept = s.kept := by
  unfold State.loadTables
  extract_lets recs u
  have hu : u.kept = s.kept := s.tableWrite_kept _
  refine (kept_foldl (fun a c => ?_) _ _).trans hu
  simp

end

end Sys2Proof.Machine

namespace Sys2Proof.Machine

/-! ## The commit record (R475) -/

theorem recordCheck_lt (v : Nat) : recordCheck v < 256 := BitVec.isLt _

theorem commitRecord_toNat {g crc : Nat} (hg : g < 2 ^ 32) (hc : crc < 2 ^ 32) : (commitRecord g crc).toNat =
    1 + g * 2 ^ 8 + crc * 2 ^ 40 + recordCheck (1 + g * 2 ^ 8 + crc * 2 ^ 40) * 2 ^ 72 := by
  have hcheck := recordCheck_lt (1 + g * 2 ^ 8 + crc * 2 ^ 40)
  rw [commitRecord, BitVec.toNat_ofNat]
  generalize recordCheck (1 + g * 2 ^ 8 + crc * 2 ^ 40) = c at *
  exact Nat.mod_eq_of_lt (by omega)

section
variable {s t : State}

/-- A node whose commit record is that of a generation and an image is committed under that generation. -/
theorem State.committed_of_record {g crc : Nat} (hg : g < 2 ^ 32) (hc : crc < 2 ^ 32) (h : t.triWord 0 = commitRecord g crc) :
    t.commitOk = true ∧ t.generation = g := by
  have hw := commitRecord_toNat hg hc
  have hcheck := recordCheck_lt (1 + g * 2 ^ 8 + crc * 2 ^ 40)
  have hbits : ∀ lo n, t.triBits 0 lo n = (commitRecord g crc).toNat / 2 ^ lo % 2 ^ n := fun lo n => by
    rw [State.triBits, h, nget, Nat.shiftRight_eq_div_pow]
  have hvalid : t.triBits 0 0 1 = 1 := by
    rw [hbits, hw]
    omega
  have hvalue : t.triBits 0 0 72 = 1 + g * 2 ^ 8 + crc * 2 ^ 40 := by
    rw [hbits, hw]
    omega
  have hsum : t.triBits 0 72 8 = recordCheck (1 + g * 2 ^ 8 + crc * 2 ^ 40) := by
    rw [hbits, hw]
    omega
  have hgen : t.triBits 0 8 32 = g := by
    rw [hbits, hw]
    omega
  have hok : t.commitOk = true := by simp [State.commitOk, hvalid, hvalue, hsum]
  exact ⟨hok, by rw [State.generation, if_pos hok, hgen]⟩

/-! ## The fields of an image (R472) -/

/-- Records change the configuration alone, and what they leave depends on it alone. -/
theorem State.setRecords_eq (body : List Byte) (l : List (Nat × Nat)) (off : Nat) (h : t.cfg = s.cfg) :
    t.setRecords body l off = { t with cfg := (s.setRecords body l off).cfg } := by
  induction l generalizing s t off with
  | nil =>
    rw [State.setRecords, State.setRecords, ← h]
  | cons e l ih =>
    obtain ⟨key, n⟩ := e
    have hset : (t.setRecord key (leAt body off n)).cfg = (s.setRecord key (leAt body off n)).cfg := by
      rw [State.setRecord, State.setRecord, h]
    rw [State.setRecords, State.setRecords, ih _ hset]
    rfl

/-- The fields of an image, whatever the node held before. -/
theorem State.loadFields_eq (s t : State) (b : List Byte) : t.loadFields b = { t with cfg := (s.loadFields b).cfg } := by
  have hfold : ∀ (l : List Sect) (s t : State), t.cfg = s.cfg →
      l.foldl (fun (s : State) (x : Sect) => s.setRecords (sectBody b x) (sectionRecords x.id) 0) t =
        { t with cfg := (l.foldl (fun (s : State) (x : Sect) => s.setRecords (sectBody b x) (sectionRecords x.id) 0) s).cfg } := by
    intro l
    induction l with
    | nil =>
      intro s t h
      rw [List.foldl_nil, List.foldl_nil, ← h]
    | cons x l ih =>
      intro s t h
      have hset := State.setRecords_eq (sectBody b x) (sectionRecords x.id) 0 h
      have hcfg : (t.setRecords (sectBody b x) (sectionRecords x.id) 0).cfg =
          (s.setRecords (sectBody b x) (sectionRecords x.id) 0).cfg := by
        rw [hset]
      rw [List.foldl_cons, List.foldl_cons, ih _ _ hcfg, hset]
  exact hfold _ { s with cfg := [] } { t with cfg := [] } rfl

/-- Whether the fields lie in their ranges is a matter of the configuration. -/
theorem State.fieldsOk_of_cfg (h : t.cfg = s.cfg) : t.fieldsOk = s.fieldsOk := by
  have hF : ∀ f, t.cfgF f = s.cfgF f := fun f => by rw [State.cfgF, State.record, h, State.cfgF, State.record]
  simp only [State.fieldsOk, State.inRange, hF]

/-- What is kept but for the configuration. -/
def State.keptButCfg (s : State) : Kept := { s.kept with cfg := [] }

theorem keptButCfg_foldl {α : Type} {f : State → α → State} (hf : ∀ v a, (f v a).keptButCfg = v.keptButCfg)
    (l : List α) (s : State) :
    (l.foldl f s).keptButCfg = s.keptButCfg := by
  induction l generalizing s with
  | nil => rfl
  | cons a l ih => exact (ih _).trans (hf s a)

theorem keptButCfg_ite {c : Prop} {_ : Decidable c} {u : State} (hs : s.keptButCfg = u.keptButCfg) (ht : t.keptButCfg = u.keptButCfg) :
    (if c then s else t).keptButCfg = u.keptButCfg := by split <;> assumption

theorem State.drawnCfg_keptButCfg (s : State) (f : CF) (v : Nat) : ((s.setCfg f v).drawn).keptButCfg = s.keptButCfg := rfl

/-- Free values for fields outside their ranges change the configuration alone (R18). -/
theorem State.legalFields_keptButCfg (s : State) : s.legalFields.keptButCfg = s.keptButCfg := by
  have hfield : ∀ (v : State) (e : CF × Nat × Nat), (v.legalField e).keptButCfg = v.keptButCfg := fun v e =>
    keptButCfg_ite rfl (v.drawnCfg_keptButCfg _ _)
  have hpairs : ∀ v : State, v.legalPairs.keptButCfg = v.keptButCfg := by
    intro v
    unfold State.legalPairs
    extract_lets u
    have hu : u.keptButCfg = v.keptButCfg := keptButCfg_ite rfl (v.drawnCfg_keptButCfg _ _)
    exact keptButCfg_ite hu ((u.drawnCfg_keptButCfg _ _).trans hu)
  have hpoint : ∀ (v : State) (b i : Nat), (v.legalPoint b i).keptButCfg = v.keptButCfg := fun v b i =>
    keptButCfg_ite rfl (v.drawnCfg_keptButCfg _ _)
  unfold State.legalFields
  extract_lets u
  have hu : u.keptButCfg = s.keptButCfg := (hpairs _).trans (keptButCfg_foldl hfield _ _)
  exact keptButCfg_ite rfl ((keptButCfg_foldl (fun v b => keptButCfg_foldl (fun w i => hpoint w b i) _ _) _ _).trans hu)

theorem State.legalFields_kept (s : State) : s.legalFields.kept = { s.kept with cfg := s.legalFields.cfg } :=
  congrArg (fun k : Kept => { k with cfg := s.legalFields.cfg }) s.legalFields_keptButCfg

theorem State.legalFields_of_ok (h : s.fieldsOk = true) : s.legalFields = s := if_pos h

/-! ## The application of an image (R401, R476) -/

theorem State.enterState_kept (s : State) (n : NodeState) :
    (s.enterState n).kept = { s.kept with node := { s.kept.node with state := n } } := by
  unfold State.enterState
  extract_lets old src u v
  have hu : u.kept = { s.kept with node := { s.kept.node with state := n } } := rfl
  split
  · rename_i h
    rw [← h]
    rfl
  · rw [State.msix_kept]
    exact (kept_ite (State.notice_kept _ _ _) rfl).trans hu

/-- The triplicated record and the configuration that an image brings. -/
theorem State.imageLoaded_kept (s : State) (b : List Byte) (w : BitVec 80) :
    (((s.setTri 0 w).loadFields b).legalFields.loadTables b).kept =
      { s.kept with record := ⟨w, w, w⟩, cfg := ((s.setTri 0 w).loadFields b).legalFields.cfg } := by
  have hrecord : (s.setTri 0 w).kept = { s.kept with record := ⟨w, w, w⟩ } := by simp [State.kept, State.setTri] <;> rfl
  rw [State.loadTables_kept, State.legalFields_kept]
  have hload : ((s.setTri 0 w).loadFields b).keptButCfg = (s.setTri 0 w).keptButCfg := by
    rw [State.loadFields_eq (s.setTri 0 w)]
    rfl
  have hc : ∀ c, ({ ((s.setTri 0 w).loadFields b).kept with cfg := c } : Kept) = { (s.setTri 0 w).kept with cfg := c } :=
    fun c => congrArg (fun k : Kept => { k with cfg := c }) hload
  rw [hc, hrecord]

/-- The fields of an image that lie in their ranges are in force as they stand. -/
theorem State.imageLoaded_cfg (s : State) (b : List Byte) (w : BitVec 80) (h : (s.loadFields b).fieldsOk = true) :
    ((s.setTri 0 w).loadFields b).legalFields.cfg = (s.loadFields b).cfg := by
  have hcfg : ((s.setTri 0 w).loadFields b).cfg = (s.loadFields b).cfg := by rw [State.loadFields_eq s (s.setTri 0 w)]
  rw [State.legalFields_of_ok (by rw [State.fieldsOk_of_cfg hcfg, h]), hcfg]

/-- A first commit chooses the reference, empties the directory and acquires every region (R61, R72, R225). -/
theorem State.acquireRegions_kept (s : State) : ((List.range 8).foldl (fun (s : State) (r : Nat) => s.tbAcquire r) s).kept = s.kept :=
  kept_foldl (fun v r => v.tbAcquire_kept r) _ _

theorem State.kept_dirTime (s : State) (d : DirSt) (v : TimeSt) : ({ s with dir := d, time := v } : State).kept = s.kept := rfl

theorem State.kept_nodeState (s : State) : s.kept.node.state = s.node.state := rfl

/-- A first commit enters CONFIGURED; a later one finds it (R401). -/
theorem State.commitState_kept (v : State) (first : Bool) (h : first = false → v.node.state = .configured) : ∃ n : NodeSt,
    n.state = .configured ∧
      (if first then ({ v with node := { v.node with committed := true } } : State).enterState .configured else v).kept =
        { v.kept with node := n } := by
  cases first with
  | true => exact ⟨{ v.kept.node with committed := true, state := .configured }, rfl, State.enterState_kept _ _⟩
  | false => exact ⟨v.kept.node, h rfl, rfl⟩

/-- An image applied: the record, the image's fields, the state CONFIGURED, and of what is kept nothing else (R401, R476). -/
theorem State.applyImage_kept (s : State) (b : List Byte) (g crc : Nat) (hstate : s.node.state ∈ statesUC) : ∃ n : NodeSt,
    n.state = .configured ∧ (s.applyImage b g crc).kept = { s.kept with
      node := n
      record := ⟨commitRecord g crc, commitRecord g crc, commitRecord g crc⟩
      cfg := ((s.setTri 0 (commitRecord g crc)).loadFields b).legalFields.cfg } := by
  unfold State.applyImage
  extract_lets first modes ports exps reference a l c d timeSrc e f nodeSrc h i j moved k x y z pairSrc z'
  have hl : l.kept = { s.kept with
      record := ⟨commitRecord g crc, commitRecord g crc, commitRecord g crc⟩
      cfg := ((s.setTri 0 (commitRecord g crc)).loadFields b).legalFields.cfg } := s.imageLoaded_kept b _
  have he : e.kept = l.kept :=
    (d.kept_dirTime {} _).trans ((State.setF_kept _ _ _).trans ((State.setF_kept _ _ _).trans ((c.setF_kept _ _).trans l.chooseClock_kept)))
  have hf : f.kept = l.kept := kept_ite ((State.acquireRegions_kept _).trans (e.drawn_kept.trans he)) rfl
  have hi : i.kept = h.kept := kept_foldl (fun v _ => v.commitCell_kept _ _) _ _
  have hj : j.kept = h.kept := (State.commitSensors_kept _ _).trans ((i.commitLoops_kept exps).trans hi)
  have hk : k.kept = h.kept := (kept_foldl (fun v _ => v.commitPort_kept _ _ _ _ _) _ _).trans hj
  have hx : x.kept = h.kept := k.throttleUpdate_kept.trans hk
  have hy : y.kept = h.kept :=
    kept_ite ((State.giveBack_kept _ _).trans ((State.giveBack_kept _ _).trans ((x.giveBack_kept _).trans hx))) hx
  have hz' : z'.kept = h.kept := kept_ite ((z.kept_pair _).trans hy) hy
  have hall : (if ¬ y.paired then y else z'.pinGrant).kept = h.kept := kept_ite hy (z'.pinGrant_kept.trans hz')
  have hconf : first = false → f.node.state = .configured := by
    intro hfirst
    have hno : s.node.state ≠ .unconfigured := by simpa [first] using hfirst
    have hnode : f.kept.node = s.kept.node := by rw [hf, hl]
    rw [← f.kept_nodeState, hnode]
    exact (show s.node.state = .unconfigured ∨ s.node.state = .configured by simpa [statesUC] using hstate).resolve_left hno
  obtain ⟨n, hn, hnode⟩ := f.commitState_kept first hconf
  refine ⟨n, hn, hall.trans (hnode.trans ?_)⟩
  exact congrArg (fun q : Kept => { q with node := n }) (hf.trans hl)

end

end Sys2Proof.Machine

namespace Sys2Proof.Machine

/-! ## The commit, the discard and the patch (R400, R401, R413) -/

/-- The staged image released (R401). -/
def State.unstaged (s : State) : State := { s with fw := { s.fw with staged := none } }

theorem State.unstaged_kept (s : State) : s.unstaged.kept = { s.kept with fw := { s.kept.fw with staged := none } } := rfl

section
variable {s : State} {m : Msg}

/-- CFG_COMMIT of the staged image, with its CRC and no section at fault. -/
theorem execCfgCommit_taken {b : List Byte} (h : Taken s 0x201 8 statesUC m) (hcfg : s.fw.cfg = none) (hstaged : s.fw.staged = some b)
    (hcrc : m.field 4 4 = (crc32c b).toNat) (hfault : imageFault b = none) : ∃ l,
    exec .cfgCommit s = .next ((s.begun.applyImage b (m.field 0 4) (crc32c b).toNat).unstaged.answer m 0 l) := by
  have he : exec .cfgCommit s = .next (s.command 0x201 8 statesUC _) := rfl
  have hcfg' : s.begun.fw.cfg = none := hcfg
  have hstaged' : s.begun.fw.staged = some b := hstaged
  rw [he, h.command, if_neg (by simp [hcfg']), hstaged']
  dsimp only
  rw [if_neg (by simp [hcrc]), hfault]
  exact ⟨_, rfl⟩

/-- A committed image: CONFIGURED, nothing staged, the record's generation, and the image's fields. -/
theorem State.commit_spec {b : List Byte} {g : Nat} (l : List Byte) (hstate : s.node.state ∈ statesUC) (hg : g < 2 ^ 32) :
    let t := (s.applyImage b g (crc32c b).toNat).unstaged.answer m 0 l
    t.node.state = .configured ∧ t.fw.staged = none ∧ t.generation = g ∧ t.commitOk = true ∧ t.getF (R.mboxState m.mbox) = 0 ∧
      ((s.loadFields b).fieldsOk = true → ∀ k, t.record k = (s.loadFields b).record k) := by
  intro t
  obtain ⟨n, hn, hkept⟩ := s.applyImage_kept b g (crc32c b).toNat hstate
  have ht := (State.answer_kept _ m 0 l).trans (s.applyImage b g (crc32c b).toNat).unstaged_kept
  rw [hkept] at ht
  have hword : t.triWord 0 = commitRecord g (crc32c b).toNat := by
    have hrecord := congrArg (fun k : Kept => k.record.vote) ht
    exact hrecord.trans (Tri.vote_same _)
  obtain ⟨hok, hgen⟩ := State.committed_of_record hg (crc32c b).isLt hword
  refine ⟨(congrArg (·.node.state) ht).trans hn, congrArg (·.fw.staged) ht, hgen, hok,
    State.answer_mboxState _ _ _ _, fun hfields k => ?_⟩
  have hcfg : t.cfg = (s.loadFields b).cfg := (congrArg Kept.cfg ht).trans (s.imageLoaded_cfg b _ hfields)
  rw [State.record, hcfg, State.record]

/-- PATCH_APPLY of an authentic staged patch of this stepping (R413). -/
theorem execPatchApply_taken {p : List Byte} (h : Taken s 0xA01 8 statesUS m) (hp : s.fw.stagedPatch = some p)
    (hstep : Config.patchStepping p = 0xB0) (hid : m.field 0 4 = (Config.patchId p).toNat) (hcrc : m.field 4 4 = (Config.patchCrc p).toNat)
    (hauth : Config.patchAuthentic p = true) : exec .patchApply s =
      .next { s.begun.answer m 0 [] with fw := { (s.begun.answer m 0 []).fw with restart := some 5 } } := by
  have he : exec .patchApply s = .next (s.command 0xA01 8 statesUS _) := rfl
  have hp' : s.begun.fw.stagedPatch = some p := hp
  rw [he, h.command, hp']
  dsimp only
  rw [if_neg (by simp [hstep]), if_neg (by simp [hid, hcrc, hauth])]

/-! ## The commands of images -/

/-- The three commands: what each does, and the states that accept its chunks. -/
theorem imageCommands {x : BitVec 16 × List NodeState × Instr}
    (h : x ∈ ([(0x200, statesUC, .cfgData), (0xA00, statesUS, .patchData), (0x501, statesCR, .dirImage)] :
      List (BitVec 16 × List NodeState × Instr))) :
    (∀ s, exec x.2.2 s = .next (s.imageCommand x.1)) ∧ x.2.1 = imageStates (imageKind x.1) ∧
      (x.1 = 0x501 ∨ imageKind x.1 ≠ .dir) := by
  simp only [List.mem_cons, List.not_mem_nil, or_false] at h
  obtain rfl | rfl | rfl := h
  · exact ⟨fun _ => rfl, rfl, .inr (by decide)⟩
  · exact ⟨fun _ => rfl, rfl, .inr (by decide)⟩
  · exact ⟨fun _ => rfl, rfl, .inl rfl⟩

/-- The shadow written, by a node of the same registers and configuration. -/
theorem State.shadowWritten_of_same {u : State} {y : Xfer} {bytes : List Byte} (hregs : u.regs = s.regs) (hcfg : u.cfg = s.cfg) :
    u.shadowWritten y bytes =
      let v := u.writeEntries s.shadowB y.taken (s.dirScan bytes).entries
      { v with dir := { v.dir with good := v.dir.good ++ (s.dirScan bytes).good.drop y.images } } := by
  have hactive : u.getF R.dirActive = s.getF R.dirActive := by simp only [State.getF, State.word, hregs]
  have hshadow : u.shadowB = s.shadowB := by rw [State.shadowB, hactive, State.shadowB]
  have hscan : u.dirScan bytes = s.dirScan bytes := by simp only [State.dirScan, State.cfgF, State.record, hcfg]
  rw [State.shadowWritten, hshadow, hscan]

/-- What the statement asks of a chunk's operands makes it one that firmware carries out. -/
theorem chunkTaken_of_inline {op : BitVec 16} (hcur : s.fw.cur = some m) (hop : m.opcode = op) (hctl : m.byte 0 < 8)
    (hargs : m.args.length = m.length) (hmax : m.length ≤ 248) (hform : m.hostForm = false) (hsize : 16 + m.bytesField ≤ m.length)
    (hpos : 0 < m.bytesField) (hmost : m.bytesField ≤ 224) : ChunkTaken s op m :=
  ⟨hcur, hop, hctl, hargs, hmax, hpos, fun _ => hmost, by simpa [hform] using hsize⟩

theorem chunkTaken_of_host {op : BitVec 16} (hcur : s.fw.cur = some m) (hop : m.opcode = op) (hctl : m.byte 0 < 8)
    (hargs : m.args.length = m.length) (hmax : m.length ≤ 248) (hform : m.hostForm = true) (hsize : 16 ≤ m.length)
    (hpos : 0 < m.bytesField) : ChunkTaken s op m :=
  ⟨hcur, hop, hctl, hargs, hmax, hpos, by simp [hform], by simpa [hform] using hsize⟩

/-- The transfer that the last chunk ends: the one it opens, or the one that is open. -/
theorem State.opened_xfer_last {k : ImageKind} {y : Xfer}
    (h : if m.isFirst then y = { owner := m.stamp, fromUnconfigured := s.node.state = .unconfigured } ∧ s.heldByOther k m = false
      else s.xfer k = some y ∧ sameSender y.owner m.stamp = true) :
    (s.chunkBegun.opened k m).xfer k = some y ∧ s.heldByOther k m = false := by
  split at h
  · rename_i hfirst
    obtain ⟨rfl, hheld⟩ := h
    exact ⟨State.opened_xfer_first hfirst, hheld⟩
  · rename_i hlater
    obtain ⟨hy, hsame⟩ := h
    rw [State.opened_later (by simpa using hlater), State.chunkBegun_xfer]
    refine ⟨hy, ?_⟩
    rw [State.heldByOther, hy]
    simp [hsame]

end

/-- Settles O34: each chunk is one branch of its command; a commit's operations keep the record that it writes, its fields and the state
that it enters. -/
theorem imagesAreStagedCommittedAndDiscarded : Obligations.ImagesAreStagedCommittedAndDiscarded := by
  unfold Obligations.ImagesAreStagedCommittedAndDiscarded
  refine ⟨?_, ?_, ?_, ?_⟩
  · intro s m x hx hcur hmbox hop hctl hargs hmax k s1 ready
    obtain ⟨hexec, hstates, hdir⟩ := imageCommands hx
    have hready : ready → s.chunkReady k := by
      rintro ⟨hstate, hshadow⟩
      refine ⟨hstates ▸ hstate, ?_⟩
      obtain hop | hkind := hdir
      · simp [State.imageRule, hshadow hop]
      · simp [State.imageRule, k, hkind]
    constructor
    · intro hform hsize hpos hmost data d
      have h : ChunkTaken s x.1 m := chunkTaken_of_inline hcur hop hctl hargs hmax hform hsize hpos hmost
      refine ⟨?_, ?_, ?_, ?_, ?_⟩
      · intro hfirst hlast haddr hr hheld hbad hlen
        exact ⟨_, hexec s, imageCommand_first h hform hfirst hlast haddr (hready hr) hheld hbad hlen⟩
      · intro y hlast haddr hr hy whole out s2 hbad himage
        obtain ⟨hxfer, hheld⟩ := State.opened_xfer_last hy
        refine ⟨fun hpatch => ?_, fun hcfg hodd => ?_, fun hdirOp => ?_⟩
        · have hk : imageKind x.1 = .patch := by rw [hpatch]; rfl
          exact ⟨_, hexec s, imageCommand_patch h hform hlast (hready hr) hheld hxfer haddr rfl hbad hk⟩
        · have hk : imageKind x.1 = .cfg := by rw [hcfg]; rfl
          have hs2 : s2 = s.chunkBegun.opened .cfg m := by
            rw [← hk]
            rfl
          obtain ⟨hnone, hstaged, hbox, hbank⟩ :=
            imageCommand_cfg h hform hlast (hready hr) hheld hxfer haddr rfl hbad hk hodd (hk ▸ himage)
          refine ⟨_, hexec s, hnone, hstaged, hbox, fun hunconf => ?_⟩
          rw [hbank, State.imagesWritten, if_pos hunconf, hs2, imagesScan]
        · intro scan s3 s4 hodd
          have hk : imageKind x.1 = .dir := by rw [hdirOp]; rfl
          have hs2 : s2 = s.chunkBegun.opened .dir m := by
            rw [← hk]
            rfl
          obtain ⟨-, hregs, hcfg, -, -⟩ := s.chunkBegun.opened_keeps .dir m
          have hs4 : (s.chunkBegun.opened .dir m).shadowWritten y out = s4 := by
            rw [State.shadowWritten_of_same (s := s) hregs hcfg, ← hs2]
            rfl
          rw [hexec, imageCommand_dir h hform hlast (hready hr) hheld hxfer haddr rfl hbad hk hodd (hk ▸ himage), hs4]
          rfl
      · intro y hlater hy hsame haddr
        exact ⟨_, hexec s, imageCommand_offset h hform hlater hy hsame haddr⟩
      · intro hlater hr hnone
        rw [hexec, imageCommand_none h hform hlater (hready hr) hnone]
        rfl
      · intro hlater hr hheld
        rw [hexec, imageCommand_busy h hform hlater (hready hr) hheld]
        rfl
    · intro hform hsize hpos hr hheld
      have h : ChunkTaken s x.1 m := chunkTaken_of_host hcur hop hctl hargs hmax hform hsize hpos
      constructor
      · intro hroot hclass hfirst n
        obtain ⟨howner, ⟨l, hwait⟩, hout, hbox⟩ := imageCommand_host h hform (hready hr) hheld hroot hclass hfirst
        exact ⟨_, l, hexec s, howner, hwait, hout, hbox⟩
      · intro hno
        rw [hexec, imageCommand_host_refused h hform (hready hr) hheld hno]
        rfl
  · intro s m b h hcfg hstaged hcrc hfault
    obtain ⟨hcur, hmbox, hop, hsize, hmax, hstate⟩ := id h
    obtain ⟨l, hexec⟩ := execCfgCommit_taken h hcfg hstaged hcrc hfault
    obtain ⟨hconf, hnone, hgen, hok, hbox, hfields⟩ := State.commit_spec (s := s.begun) (m := m) (b := b) l hstate
      (leAt_lt m.args 0 4 : m.field 0 4 < 2 ^ 32)
    exact ⟨_, hexec, hconf, hnone, hgen, hok, hbox, hfields⟩
  · intro s m h
    have he : exec .cfgDiscard s = .next (s.command 0x203 0 statesUC _) := rfl
    rw [he, h.command]
    rfl
  · intro s m p h hp hstep hid hcrc hauth
    refine ⟨_, execPatchApply_taken h hp hstep hid hcrc hauth, rfl, ?_, s.begun.answer_mboxState m 0 []⟩
    exact (congrArg (·.fw.stagedPatch) (s.begun.answer_kept m 0 [])).trans hp

end Sys2Proof.Machine

namespace Sys2Proof.Machine

variable {s : State}

/-! ## The arbiters of a block and a region (R30, R32, R136, R194) -/

/-- One head goes strictly before another (R30). -/
def Precedes (x y : BitVec 61 × Nat) : Prop := olderHead x y = true ∧ olderHead y x = false

theorem olderHead_self (x : BitVec 61 × Nat) : olderHead x x = true := by simp [olderHead]

theorem Precedes.ne {x y : BitVec 61 × Nat} (h : Precedes x y) : x ≠ y := by
  rintro rfl
  exact absurd h.2 (by simp [olderHead_self])

theorem oldest_mem {α : Type} {f : α → BitVec 61 × Nat} {l : List α} {a : α} (h : oldest f l = some a) : a ∈ l := by
  induction l generalizing a with
  | nil => cases h
  | cons b l ih =>
    rw [oldest] at h
    split at h
    · simp_all
    · next c hc =>
      have hm := ih hc
      split at h <;> cases h <;> simp [hm]

/-- A candidate that goes strictly before every other is granted. -/
theorem oldest_of_precedes {α : Type} {f : α → BitVec 61 × Nat} {l : List α} {a : α} (hmem : a ∈ l)
    (h : ∀ b ∈ l, b ≠ a → Precedes (f a) (f b)) : oldest f l = some a := by
  classical
  induction l with
  | nil => cases hmem
  | cons b l ih =>
    rw [oldest]
    by_cases hb : b = a
    · subst hb
      cases ho : oldest f l with
      | none => rfl
      | some c =>
        by_cases hc : c = b
        · simp [hc]
        · simp [(h c (List.mem_cons_of_mem _ (oldest_mem ho)) hc).1]
    · have ha : a ∈ l := (List.mem_cons.1 hmem).resolve_left fun e => hb e.symm
      rw [ih ha fun c hc => h c (List.mem_cons_of_mem _ hc)]
      simp [(h b (List.mem_cons_self ..) hb).2]

/-- A saturating counter after a count of one (R488). -/
theorem State.getF_inc_same (s : State) (f : RF) (h : f.lo + f.w ≤ 32) : (s.inc f).getF f = min (s.getF f + 1) (2 ^ f.w - 1) := by
  have hpos := Nat.two_pow_pos f.w
  rw [State.inc, State.incBy, State.getF_setF_same _ _ _ h]
  exact Nat.mod_eq_of_lt (by omega)

/-! ### BLOCK_GRANT -/

/-- The first words of a block's cells, by stamp and cell. -/
def State.cellHeads (s : State) (b : Nat) : List (BitVec 61 × Nat) :=
  (List.range 16).filterMap fun i => (s.cell (16 * b + i)).derand.head?.map fun w => (w.stamp, 16 * b + i)

/-- The record that the block's arbiter compares. -/
def State.recordHead (s : State) (b : Nat) : Option Unit' := oldest (fun (u : Unit') => (u.stamp, u.cell)) (s.block b).records

theorem State.mem_cellHeads {b : Nat} {x : BitVec 61 × Nat} :
    x ∈ s.cellHeads b ↔ ∃ i w, i < 16 ∧ (s.cell (16 * b + i)).derand.head? = some w ∧ x = (w.stamp, 16 * b + i) := by
  simp only [State.cellHeads, List.mem_filterMap, List.mem_range, Option.map_eq_some_iff]
  exact ⟨fun ⟨i, hi, w, hw, e⟩ => ⟨i, w, hi, hw, e.symm⟩, fun ⟨i, w, hi, hw, e⟩ => ⟨i, hi, w, hw, e.symm⟩⟩

/-- The first word of a cell goes to the free output of its block. -/
def State.outputWord (s : State) (b c : Nat) (w : HitWord) (l : List HitWord) : State :=
  (s.setCell c { s.cell c with derand := l }).setBlock b { s.block b with head := some ⟨w.key, w.stamp, c, [pw w.word], false⟩ }

/-- A record goes to the free output of its block. -/
def State.outputRecord (s : State) (b : Nat) (u : Unit') : State :=
  s.setBlock b { s.block b with head := some u, records := (s.block b).records.erase u }

section
variable {b : Fin 128} (hfree : (s.block b).head = none)
include hfree

/-- A word that goes before the oldest record is granted. -/
theorem execBlockGrant_word {c : Nat} {w : HitWord} {l : List HitWord} (hc : (s.cell c).derand = w :: l)
    (hw : oldest id (s.cellHeads b) = some (w.stamp, c))
    (hr : ∀ u, s.recordHead b = some u → Precedes (w.stamp, c) (u.stamp, u.cell)) :
    exec (.blockGrant b) s = .next (s.drawn.outputWord b c w l) := by
  have hc' : (s.drawn.cell c).derand = w :: l := hc
  show execBlockGrant b s = _
  unfold execBlockGrant
  unfold State.cellHeads at hw
  unfold State.recordHead at hr
  simp only [hfree, hw]
  cases ho : oldest (fun (u : Unit') => (u.stamp, u.cell)) (s.block b).records with
  | none => simp [hc', State.outputWord]; rfl
  | some u =>
    have hu := hr u ho
    simp [hc', hu.ne, hu.1, State.outputWord]; rfl

/-- A record that goes before the oldest word is granted. -/
theorem execBlockGrant_record {u : Unit'} (hu : s.recordHead b = some u)
    (hw : ∀ x, oldest id (s.cellHeads b) = some x → Precedes (u.stamp, u.cell) x) :
    exec (.blockGrant b) s = .next (s.drawn.outputRecord b u) := by
  show execBlockGrant b s = _
  unfold execBlockGrant
  unfold State.cellHeads at hw
  unfold State.recordHead at hu
  simp only [hfree, hu]
  cases ho : oldest id ((List.range 16).filterMap fun i =>
        (s.cell (16 * b.val + i)).derand.head?.map fun w => (w.stamp, 16 * b.val + i)) with
  | none => simp [State.outputRecord]; rfl
  | some x =>
    have hx := hw x ho
    simp [hx.ne.symm, hx.2, State.outputRecord]; rfl

end

/-! ### REGION_GRANT -/

/-- The outputs of a region's blocks, each with its block. -/
def State.blockHeads (s : State) (r : Nat) : List (Nat × Unit') :=
  (List.range 16).filterMap fun i => (s.block (16 * r + i)).head.map fun u => (16 * r + i, u)

/-- A unit joins a region's FIFO, all its words still to come in. -/
def State.joinRegion (s : State) (r : Nat) (u : Unit') : State :=
  { s with pool := { s.pool with regFifo := Tab.set [] s.pool.regFifo r (Tab.get [] s.pool.regFifo r ++ [u]),
                                 regMore := Tab.set 0 s.pool.regMore r u.words.length } }

theorem State.modFrag_touch {P : Comp → Prop} {u : State} {k : MergeKey} {f : Frag → Frag} (h : Touch P s u) (hp : P .pool) :
    Touch P s (u.modFrag k f) := h.pool hp rfl

theorem State.enterRegion_touch (s : State) (r b : Nat) (u : Unit') :
    Touch (fun x => x = .pool ∨ x = .block b) s (s.enterRegion r b u) := by
  have h0 := Touch.refl (fun x => x = .pool ∨ x = .block b) s
  unfold State.enterRegion
  extract_lets more p v x w
  have hv : Touch (fun x => x = .pool ∨ x = .block b) s v := h0.pool (.inl rfl) rfl
  have hw : Touch (fun x => x = .pool ∨ x = .block b) s w := State.setBlock_touch hv (.inr rfl)
  exact Touch.ite hv (Touch.ite (State.modFrag_touch hw (.inl rfl)) hw)

/-- Words enter a region's FIFO as far as there is room; with the last of them the block's output is free. -/
theorem State.enterRegion_spec (s : State) (r b : Nat) (u : Unit') :
    let more := Tab.get 0 s.pool.regMore r - (512 - s.regionWords r)
    (s.enterRegion r b u).pool.regFifo = s.pool.regFifo ∧ Tab.get 0 (s.enterRegion r b u).pool.regMore r = more ∧
      ((s.enterRegion r b u).block b).head = if more = 0 then none else (s.block b).head := by
  intro more
  unfold State.enterRegion
  extract_lets p v x w
  have hv : Tab.get 0 v.pool.regMore r = more := Tab.get_set_same _ _ _ _
  have hw : (w.block b).head = none := by rw [State.setBlock_block_same]
  by_cases h : more = 0
  · rw [if_neg (not_not.2 h), if_pos h]
    cases u.isRecord
    · exact ⟨rfl, hv, hw⟩
    · exact ⟨rfl, hv, hw⟩
  · rw [if_pos h, if_neg h]
    exact ⟨rfl, hv, rfl⟩

theorem State.joinRegion_regionWords (s : State) (r : Nat) (u : Unit') (h : Tab.get 0 s.pool.regMore r = 0) :
    (s.joinRegion r u).regionWords r = s.regionWords r := by
  simp only [State.regionWords, State.joinRegion, Tab.get_set_same, h, List.map_append, List.sum_append, List.map_cons,
    List.map_nil, List.sum_singleton]
  omega

theorem execRegionGrant_full {r : Fin 8} (h : 512 ≤ s.regionWords r) : exec (.regionGrant r) s = .next s := by
  show execRegionGrant r s = _
  simp [execRegionGrant, h]

section
variable {r : Fin 8} (hroom : s.regionWords r < 512)
include hroom

/-- The rest of a unit that did not fit comes in before any other. -/
theorem execRegionGrant_rest {u : Unit'} (hmore : Tab.get 0 s.pool.regMore r ≠ 0)
    (hu : (Tab.get [] s.pool.regFifo r).getLast? = some u) :
    exec (.regionGrant r) s = .next (s.enterRegion r (u.cell / 16) u) := by
  show execRegionGrant r s = _
  simp [execRegionGrant, Nat.not_le.2 hroom, hmore, hu]

/-- The oldest output enters the FIFO, or is dropped where its fragment has closed. -/
theorem execRegionGrant_oldest {b : Nat} {u : Unit'} (hmore : Tab.get 0 s.pool.regMore r = 0)
    (hu : oldest (fun (h : Nat × Unit') => (h.2.stamp, h.2.cell)) (s.blockHeads r) = some (b, u)) :
    exec (.regionGrant r) s = .next (if s.fragShut u.key then (s.setBlock b { s.block b with head := none }).inc R.hitAfterClose
      else (s.joinRegion r u).enterRegion r b u) := by
  unfold State.blockHeads at hu
  show execRegionGrant r s = _
  simp only [execRegionGrant, Nat.not_le.2 hroom, hmore, hu, if_false, ne_eq, not_true_eq_false]
  rfl

end

theorem State.oldest_blockHeads {r : Fin 8} {i : Fin 16} {u : Unit'} (hu : (s.block (16 * r + i)).head = some u)
    (h : ∀ k, k < 16 → k ≠ i.val → ∀ x ∈ (s.block (16 * r + k)).head, Precedes (u.stamp, u.cell) (x.stamp, x.cell)) :
    oldest (fun (h : Nat × Unit') => (h.2.stamp, h.2.cell)) (s.blockHeads r) = some (16 * r.val + i, u) := by
  refine oldest_of_precedes (List.mem_filterMap.2 ⟨i, by simp, by simp [hu]⟩) fun x hx hne => ?_
  obtain ⟨k, hk, hx⟩ := List.mem_filterMap.1 hx
  obtain ⟨v, hv, rfl⟩ := Option.map_eq_some_iff.1 hx
  refine h k (List.mem_range.1 hk) (fun e => hne ?_) v hv
  subst e
  rw [hu] at hv
  cases hv
  rfl

theorem State.oldest_cellHeads {b : Fin 128} {i : Fin 16} {w : HitWord} {l : List HitWord} (hw : (s.cell (16 * b + i)).derand = w :: l)
    (h : ∀ k, k < 16 → k ≠ i.val → ∀ x ∈ (s.cell (16 * b + k)).derand.head?, Precedes (w.stamp, 16 * b + i) (x.stamp, 16 * b + k)) :
    oldest id (s.cellHeads b) = some (w.stamp, 16 * b.val + i) := by
  refine oldest_of_precedes (State.mem_cellHeads.2 ⟨i, w, i.isLt, by simp [hw], rfl⟩) fun x hx hne => ?_
  obtain ⟨k, v, hk, hv, rfl⟩ := State.mem_cellHeads.1 hx
  refine h k hk (fun e => hne ?_) v hv
  subst e
  rw [hw] at hv
  cases hv
  rfl

/-- Settles O28: the candidate that goes before every other is the one `oldest` finds, and what is granted moves by one update. -/
theorem arbitersMoveTheOldestHead : Obligations.ArbitersMoveTheOldestHead := by
  refine ⟨fun x y => rfl, fun s b i w l hfree hw hcells hrecs => ?_, fun s b u hfree hu hrecs hcells => ?_, fun s b h => ?_,
    fun s r i u hu hold hroom hmore => ?_, fun s r u hroom hmore hu => ?_, fun s r h => execRegionGrant_full h⟩
  · refine ⟨_, execBlockGrant_word hfree hw (State.oldest_cellHeads hw hcells) fun u hu => hrecs u (oldest_mem hu), ?_, ?_, ?_, ?_⟩
    · rw [State.outputWord, State.setBlock_block_same]
    · rw [State.outputWord, State.setBlock_block_same]; rfl
    · show ((s.drawn.setCell _ _).cell _).derand = l
      rw [State.setCell_cell_same]
    · exact (State.setBlock_touch (State.setCell_touch (State.drawn_touch (Touch.refl _ s) (.inl rfl)) (.inr (.inr rfl)))
        (.inr (.inl rfl))).frame
  · have hrec : s.recordHead b = some u := oldest_of_precedes hu hrecs
    refine ⟨_, execBlockGrant_record hfree hrec fun x hx => ?_, ?_, ?_, ?_⟩
    · obtain ⟨k, w, hk, hw, rfl⟩ := State.mem_cellHeads.1 (oldest_mem hx)
      exact hcells k hk w hw
    · rw [State.outputRecord, State.setBlock_block_same]
    · rw [State.outputRecord, State.setBlock_block_same]; rfl
    · exact (State.setBlock_touch (State.drawn_touch (Touch.refl _ s) (.inl rfl)) (.inr rfl)).frame
  · show execBlockGrant b s = _
    simp [execBlockGrant, Option.isSome_iff_ne_none, h]
  · have he := execRegionGrant_oldest hroom hmore (State.oldest_blockHeads hu hold)
    refine ⟨fun hshut => ?_, fun hshut => ?_⟩
    · obtain ⟨hfifo, hrest, hhead⟩ := (s.joinRegion r u).enterRegion_spec r (16 * r + i) u
      have hjoin : Tab.get 0 (s.joinRegion r u).pool.regMore r = u.words.length := Tab.get_set_same _ _ _ _
      rw [s.joinRegion_regionWords r u hmore, hjoin] at hrest hhead
      rw [if_neg (by simp [hshut])] at he
      refine ⟨_, he, ?_, hrest, hhead.trans ?_, ?_⟩
      · rw [hfifo]
        exact Tab.get_set_same _ _ _ _
      · rw [show ((s.joinRegion r u).block (16 * r + i)).head = some u from hu]
        exact if_congr (by omega) rfl rfl
      · exact (((Touch.refl _ s).pool (v := (s.joinRegion r u).pool) (.inl rfl) rfl).trans (State.enterRegion_touch _ _ _ _)).frame
    · rw [if_pos hshut] at he
      refine ⟨_, he, ?_, rfl, State.getF_inc_same _ R.hitAfterClose (by decide)⟩
      show ((s.setBlock _ _).block _).head = none
      rw [State.setBlock_block_same]
  · obtain ⟨hfifo, hrest, -⟩ := s.enterRegion_spec r (u.cell / 16) u
    exact ⟨_, execRegionGrant_rest hroom hmore hu, by rw [hfifo], hrest, (State.enterRegion_touch _ _ _ _).frame⟩

end Sys2Proof.Machine

namespace Sys2Proof.Machine

/-! ## What the pool, the merge and the write stage keep (R32, R158, R190-R203)

Storing, reading and merging change items, contexts, memories and registers; `State.stage` is what they leave as it was. -/

/-- The input FIFOs of the ports, the own fragments, the arbiter's place, the bank under test and what else is under test. -/
structure Stage where
  fifo : Nat → List FifoWord
  frags : List Frag
  arbPos : Nat
  excluded : Option Nat
  test : TestSt

def State.stage (s : State) : Stage :=
  ⟨fun p => (s.port p).fifo, s.pool.frags, s.pool.arbPos, s.pool.excludedBank, s.test⟩

/-- The same but for the own fragments. -/
def State.fabric (s : State) : Stage := { s.stage with frags := [] }

section
variable {s t : State}

theorem stage_fifo (h : t.stage = s.stage) (p : Nat) : (t.port p).fifo = (s.port p).fifo := congrFun (congrArg Stage.fifo h) p
theorem stage_frags (h : t.stage = s.stage) : t.pool.frags = s.pool.frags := congrArg Stage.frags h
theorem stage_frag (h : t.stage = s.stage) (k : MergeKey) : t.frag k = s.frag k := by rw [State.frag, stage_frags h, State.frag]
theorem stage_arbPos (h : t.stage = s.stage) : t.pool.arbPos = s.pool.arbPos := congrArg Stage.arbPos h
theorem stage_excluded (h : t.stage = s.stage) : t.pool.excludedBank = s.pool.excludedBank := congrArg Stage.excluded h
theorem stage_test (h : t.stage = s.stage) : t.test = s.test := congrArg Stage.test h
theorem stage_fabric (h : t.stage = s.stage) : t.fabric = s.fabric := congrArg (fun x : Stage => { x with frags := [] }) h
theorem fabric_arbPos (h : t.fabric = s.fabric) : t.pool.arbPos = s.pool.arbPos := congrArg Stage.arbPos h
theorem fabric_excluded (h : t.fabric = s.fabric) : t.pool.excludedBank = s.pool.excludedBank := congrArg Stage.excluded h
theorem fabric_test (h : t.fabric = s.fabric) : t.test = s.test := congrArg Stage.test h

theorem stage_ite {c : Prop} {_ : Decidable c} {a b : State} (ha : a.stage = s.stage) (hb : b.stage = s.stage) :
    (if c then a else b).stage = s.stage := by split <;> assumption

theorem stage_ite_snd {α : Type} {c : Prop} {_ : Decidable c} {a b : α × State} (ha : a.2.stage = s.stage)
    (hb : b.2.stage = s.stage) : (if c then a else b).2.stage = s.stage := by split <;> assumption

/-- A fold of operations that keep it keeps it. -/
theorem stage_foldl {α : Type} {f : State → α → State} (hf : ∀ v a, (f v a).stage = v.stage) (l : List α) (s : State) :
    (l.foldl f s).stage = s.stage := by
  induction l generalizing s with
  | nil => rfl
  | cons a l ih => exact (ih _).trans (hf s a)

theorem stage_foldl_snd {α β : Type} {f : β × State → α → β × State} (hf : ∀ r a, (f r a).2.stage = r.2.stage) (l : List α)
    (r : β × State) : (l.foldl f r).2.stage = r.2.stage := by
  induction l generalizing r with
  | nil => rfl
  | cons a l ih => exact (ih _).trans (hf r a)

end

section
variable (s : State)

/-! ### Primitive updates -/

@[simp] theorem State.setWord_stage (o : Nat) (v : W32) : (s.setWord o v).stage = s.stage := rfl
@[simp] theorem State.setF_stage (f : RF) (v : Nat) : (s.setF f v).stage = s.stage := rfl
@[simp] theorem State.incBy_stage (f : RF) (n : Nat) : (s.incBy f n).stage = s.stage := rfl
@[simp] theorem State.inc_stage (f : RF) : (s.inc f).stage = s.stage := rfl
@[simp] theorem State.incWrap_stage (f : RF) (n : Nat) : (s.incWrap f n).stage = s.stage := rfl
@[simp] theorem State.setFlag_stage (f : FlagF) : (s.setFlag f).stage = s.stage := rfl
@[simp] theorem State.setMem_stage (m : Nat) (v : Mem) : (s.setMem m v).stage = s.stage := rfl
@[simp] theorem State.setItems_stage (l : List Item) : (s.setItems l).stage = s.stage := rfl
@[simp] theorem State.emit_stage (o : Out) : (s.emit o).stage = s.stage := rfl
@[simp] theorem State.drawn_stage : s.drawn.stage = s.stage := rfl
@[simp] theorem State.skip_stage (n : Nat) : (s.skip n).stage = s.stage := rfl
@[simp] theorem State.noticed_stage : s.noticed.stage = s.stage := rfl
@[simp] theorem State.remember_stage (n : Nat) : (s.remember n).stage = s.stage := rfl

theorem State.stage_pair (v : PairSt) : ({ s with pair := v } : State).stage = s.stage := rfl

/-- A port whose input FIFO stays. -/
theorem State.setPort_stage {p : Nat} {v : Port} (h : v.fifo = (s.port p).fifo) : (s.setPort p v).stage = s.stage := by
  have hf : (fun q => ((s.setPort p v).port q).fifo) = fun q => (s.port q).fifo := by
    funext q
    by_cases hq : q = p
    · rw [hq, State.setPort_port_same, h]
    · rw [State.setPort_port_other _ _ hq]
  exact congrArg (fun f => ({ s.stage with fifo := f } : Stage)) hf

@[simp] theorem State.sendMsg_stage (p : Nat) (m : CtlMsg) : (s.sendMsg p m).stage = s.stage := s.setPort_stage rfl

@[simp] theorem State.msix_stage (v : Nat) : (s.msix v).stage = s.stage := stage_ite rfl (stage_ite rfl rfl)

/-! ### The pool -/

@[simp] theorem State.modItem_stage (id : Nat) (f : Item → Item) : (s.modItem id f).stage = s.stage := rfl
@[simp] theorem State.freeItem_stage (id : Nat) : (s.freeItem id).stage = s.stage := rfl
@[simp] theorem State.unchoose_stage (l : List Nat) : (s.unchoose l).stage = s.stage := rfl
@[simp] theorem State.loseEntries_stage (l : List Nat) : (s.loseEntries l).stage = s.stage := rfl
@[simp] theorem State.newItem_stage (q : Nat) (c : Cls) : (s.newItem q c).stage = s.stage := rfl
@[simp] theorem State.hold_stage (q : Nat) (c : Cls) (ws : List PWord) : (s.hold q c ws).stage = s.stage := rfl
@[simp] theorem State.writePool_stage (c n : Nat) (l : List (Nat × Nat)) (ws : List PWord) : (s.writePool c n l ws).stage = s.stage := rfl
@[simp] theorem State.writeSlots_stage (i : Item) (ws : List PWord) (n : Nat) : (s.writeSlots i ws n).stage = s.stage := rfl
@[simp] theorem State.cutItems_stage (l : List Nat) : (s.cutItems l).stage = s.stage := rfl
@[simp] theorem State.countLost_stage (q n : Nat) : (s.countLost q n).stage = s.stage := stage_ite rfl rfl
@[simp] theorem State.loseItem_stage (i : Item) : (s.loseItem i).stage = s.stage := State.countLost_stage _ _ _
@[simp] theorem State.viewsKeep_stage (id : Nat) (l : List Nat) : (s.viewsKeep id l).stage = s.stage := rfl
@[simp] theorem State.modCtx_stage (k : MergeKey) (f : Ctx → Ctx) : (s.modCtx k f).stage = s.stage := rfl
@[simp] theorem State.setAsm_stage (p : Nat) (a : Asm) : (s.setAsm p a).stage = s.stage := rfl

theorem State.allocSlot_stage {n : Nat} {t : State} (h : s.allocSlot = some (n, t)) : t.stage = s.stage := by
  rw [State.allocSlot] at h
  split at h <;> cases h
  rfl

theorem State.overwrite_stage (fuel q : Nat) : (State.overwrite fuel s q).2.stage = s.stage := by
  induction fuel generalizing s with
  | zero => rfl
  | succ k ih =>
    rw [State.overwrite]
    split
    · rfl
    · dsimp only
      split
      · exact s.loseItem_stage _
      · exact (ih _).trans (s.loseItem_stage _)

theorem State.takeSlot_stage (q : Nat) : (s.takeSlot q).2.2.stage = s.stage := by
  rw [State.takeSlot]
  split
  · rename_i r hr
    split at hr
    · exact s.allocSlot_stage hr
    · cases hr
  · split
    · rfl
    · have ho := s.overwrite_stage s.pool.items.length q
      split <;> (rename_i e; rw [e] at ho; exact ho)

@[simp] theorem State.growItem_stage (fuel id n : Nat) : (State.growItem fuel s id n).2.stage = s.stage := by
  induction fuel generalizing s with
  | zero => rfl
  | succ k ih =>
    rw [State.growItem]
    split
    · rfl
    · rename_i i _
      have ht := s.takeSlot_stage i.queue
      split
      · rfl
      · split <;> (rename_i e; rw [e] at ht)
        · exact (ih _).trans ht
        · exact ht

@[simp] theorem State.sendThrottle_stage (v : Word) : (s.sendThrottle v).stage = s.stage :=
  stage_foldl (fun v p => v.sendMsg_stage p _) _ _

@[simp] theorem State.throttleUpdate_stage : s.throttleUpdate.stage = s.stage := by
  unfold State.throttleUpdate
  extract_lets used own v south agg pool w x
  have hx : x.stage = s.stage := stage_ite rfl rfl
  exact stage_ite rfl (stage_ite ((x.msix_stage _).trans hx) ((x.sendThrottle_stage _).trans hx))

@[simp] theorem State.completeItem_stage (id : Nat) : (s.completeItem id).stage = s.stage := by
  unfold State.completeItem
  split <;> rfl

@[simp] theorem State.storeRaw_stage (q : Nat) (c : Cls) (ws : List PWord) : (s.storeRaw q c ws).stage = s.stage := by
  have hg := State.growItem_stage ((s.newItem q c).modItem s.pool.nextItem fun i => { i with words := ws })
    (slotsFor ws.length + 1) s.pool.nextItem (slotsFor ws.length)
  unfold State.storeRaw
  dsimp only
  split
  · rfl
  · split <;> (rename_i e; rw [e] at hg)
    · simpa using hg
    · simpa using hg
    · exact hg

@[simp] theorem State.noticeRaw_stage (code : Nat) (l : List Byte) : (s.noticeRaw code l).stage = s.stage :=
  State.storeRaw_stage _ _ _ _

@[simp] theorem State.setFail_stage (cause : Nat) : (s.setFail cause).stage = s.stage := stage_ite rfl rfl

/-! ### The error log and code words -/

@[simp] theorem State.logEntry_stage (a b c d e f g : Nat) : (s.logEntry a b c d e f g).stage = s.stage :=
  State.storeRaw_stage _ _ _ _

@[simp] theorem State.memNotice_stage (m : Nat) : (s.memNotice m).stage = s.stage := stage_ite rfl (State.noticeRaw_stage _ _ _)

@[simp] theorem State.memEvent_stage (m : Nat) (f : FlagF) (c : BitVec 3) : (s.memEvent m f c).stage = s.stage := by
  simp [State.memEvent]

@[simp] theorem State.correction_stage (m a b c d e : Nat) : (s.correction m a b c d e).stage = s.stage := by
  unfold State.correction
  extract_lets u mac lastAt named supp prot v lv w
  have hv : v.stage = s.stage := stage_ite rfl ((State.remember_stage _ _).trans (State.logEntry_stage _ _ _ _ _ _ _ _))
  exact stage_ite ((State.memEvent_stage _ _ _ _).trans hv) hv

@[simp] theorem State.ueFound_stage (m a o : Nat) (f : RF) : (s.ueFound m a o f).stage = s.stage := by
  simp [State.ueFound]

@[simp] theorem State.setRaw_stage (m a : Nat) (c : BitVec 152) : (s.setRaw m a c).stage = s.stage := stage_ite rfl rfl

@[simp] theorem State.drainEntry_stage (m : Nat) (e : MbEntry) : (s.drainEntry m e).stage = s.stage := by
  unfold State.drainEntry
  extract_lets v u bits merge
  have hu : u.stage = s.stage := rfl
  refine stage_ite hu (stage_ite ((u.setRaw_stage _ _ _).trans hu) ?_)
  split
  case h_5 => exact stage_ite (by simp [hu]) (by simp [hu])
  all_goals simp [hu]

@[simp] theorem State.drainFor_stage (m a : Nat) : (s.drainFor m a).stage = s.stage := by
  unfold State.drainFor
  split <;> simp

@[simp] theorem State.readCw_stage (m a : Nat) : (s.readCw m a).2.stage = s.stage := by
  unfold State.readCw
  split
  · rfl
  · dsimp only
    split
    case h_5 => split <;> simp
    all_goals simp

@[simp] theorem State.tableCw_stage (a : Nat) : (s.tableCw a).2.stage = s.stage := by
  unfold State.tableCw
  split
  · rfl
  · exact s.readCw_stage 5 a

@[simp] theorem State.tableWrite_stage (l : List Nat) : (s.tableWrite l).stage = s.stage := by
  unfold State.tableWrite
  split
  · rfl
  · exact stage_foldl (fun v a => v.setRaw_stage 5 a 0) _ _

@[simp] theorem State.readMap_stage : s.readMap.stage = s.stage := by
  unfold State.readMap
  split
  · rfl
  · exact stage_foldl (fun v a => stage_ite rfl (v.tableCw_stage a)) _ s

@[simp] theorem State.resetQueue_stage (q cause : Nat) : (s.resetQueue q cause).stage = s.stage := by
  unfold State.resetQueue
  extract_lets ids u pool v w x y near pair z
  have hz : z.stage = y.stage := y.stage_pair _
  have hv : v.stage = s.stage := s.cutItems_stage ids
  have hy : y.stage = s.stage := by
    simp only [y, x, w, State.noticeRaw_stage, State.setFlag_stage, State.drawn_stage, State.remember_stage, State.logEntry_stage,
      State.countLost_stage, State.loseEntries_stage]
    exact hv
  rw [State.throttleUpdate_stage]
  exact stage_ite ((State.setFail_stage _ _).trans (hz.trans hy)) (hz.trans hy)

@[simp] theorem State.checkQueue_stage (q : Nat) : (s.checkQueue q).stage = s.stage := by
  unfold State.checkQueue
  split
  · rfl
  · extract_lets r
    have hr : r.2.stage = s.stage := by
      refine stage_foldl_snd ?_ _ _
      intro r a
      exact r.2.tableCw_stage a
    exact stage_ite (by simpa using hr) hr

/-- The pointers are compared before an overwrite alone. -/
theorem State.checkedFor_stage (q : Nat) : (if s.canGrow q = true then s else s.checkQueue q).stage = s.stage :=
  stage_ite rfl (s.checkQueue_stage q)

/-! ### The merge (R196-R203) -/

@[simp] theorem State.releaseItem_stage (id : Nat) : (s.releaseItem id).stage = s.stage := by
  unfold State.releaseItem
  extract_lets u
  have hu : u.stage = s.stage := s.checkQueue_stage 0
  split
  · exact hu
  · simp [hu]

theorem State.releaseItems_stage (l : List Item) :
    (l.foldl (fun (v : State) (i : Item) => v.releaseItem i.id) s).stage = s.stage :=
  stage_foldl (fun v i => v.releaseItem_stage i.id) l s

@[simp] theorem State.trimRetained_stage : s.trimRetained.stage = s.stage := stage_ite rfl (s.releaseItems_stage _)

@[simp] theorem State.setNext_stage (n next : Nat) : (s.setNext n next).stage = s.stage := by
  unfold State.setNext
  split
  · exact s.setRaw_stage _ _ _
  · rfl

@[simp] theorem State.joinChains_stage (l : List (List Nat)) : (s.joinChains l).stage = s.stage := by
  induction l generalizing s with
  | nil => rfl
  | cons a l ih =>
    cases l with
    | nil => rfl
    | cons b l => exact (ih _).trans (s.setNext_stage _ _)

@[simp] theorem State.spliceMerged_stage (k : MergeKey) (late : Bool) (rows : List Row) (slot : Nat) :
    (s.spliceMerged k late rows slot).stage = s.stage := by
  unfold State.spliceMerged
  extract_lets h table words items chains ids id cls merged u rest pool v w f crc had sigs pair x
  have hv : v.stage = s.stage := (State.joinChains_stage _ _).trans rfl
  have hw : w.stage = s.stage := stage_ite ((State.releaseItem_stage _ _).trans hv) ((State.trimRetained_stage _).trans hv)
  exact (State.throttleUpdate_stage _).trans (stage_ite hw hw)

@[simp] theorem State.spliceReads_stage (l : List (List Nat)) : (s.spliceReads l).2.stage = s.stage := by
  induction l generalizing s with
  | nil => rfl
  | cons a l ih =>
    cases l with
    | nil => rfl
    | cons b l => exact (ih _).trans (s.readCw_stage _ _)

@[simp] theorem State.spliceCtx_stage (c : Ctx) (slot : Nat) : (s.spliceCtx c slot).stage = s.stage := by
  unfold State.spliceCtx
  extract_lets status rows pool u pool' v w
  have hv : v.stage = s.stage := by
    simp only [v]
    split <;> rfl
  have hw : w.stage = s.stage := (State.spliceMerged_stage _ _ _ _ _).trans hv
  split <;> exact hw

@[simp] theorem State.closeNow_stage (k : MergeKey) : (s.closeNow k).stage = s.stage := by
  unfold State.closeNow
  split
  · rfl
  · extract_lets open' ids u v asms
    refine stage_foldl ?_ _ _
    intro v e
    split <;> rfl

@[simp] theorem State.closeCtx_stage (k : MergeKey) : (s.closeCtx k).stage = s.stage := by
  unfold State.closeCtx
  split
  · rfl
  · refine stage_ite rfl ?_
    extract_lets u
    have hu : u.stage = s.stage := by simp [u]
    split
    · exact hu
    · split
      · exact hu
      · rename_i ha
        have ht := (u.allocSlot_stage ha).trans hu
        extract_lets r
        have hr : r.2.stage = s.stage := (State.spliceReads_stage _ _).trans ht
        exact stage_ite ((State.spliceCtx_stage _ _ _).trans hr) ((State.resetQueue_stage _ _ _).trans hr)

@[simp] theorem State.forceOldest_stage : s.forceOldest.stage = s.stage := by
  unfold State.forceOldest
  refine stage_ite rfl ?_
  split
  · rfl
  · exact (State.closeCtx_stage _ _).trans (stage_ite rfl (State.closeNow_stage _ _))

@[simp] theorem State.openCtx_stage (k : MergeKey) : (s.openCtx k).2.stage = s.stage := by
  unfold State.openCtx
  refine stage_ite_snd rfl ?_
  extract_lets u used index own entries v c
  have hu : u.stage = s.stage := s.forceOldest_stage
  have hv : v.stage = s.stage := by
    simp only [v]
    split <;> exact hu
  exact stage_ite_snd hu hv

/-! ### Items under construction (R190, R191) -/

@[simp] theorem State.dropItem_stage (id : Nat) : (s.dropItem id).stage = s.stage := by
  unfold State.dropItem
  split
  · exact s.loseItem_stage _
  · rfl

@[simp] theorem State.grow_stage (fuel id n : Nat) : (State.grow fuel s id n).2.stage = s.stage := by
  induction fuel generalizing s with
  | zero => rfl
  | succ k ih =>
    rw [State.grow]
    split
    · rfl
    · rename_i i _
      refine stage_ite_snd rfl ?_
      extract_lets u
      have hu : u.stage = s.stage := s.checkedFor_stage i.queue
      have hg := (State.growItem_stage u 1 id (i.slots.length + 1)).trans hu
      split
      · rename_i e
        rw [e] at hg
        exact (ih _).trans hg
      · exact hg

@[simp] theorem State.countDup_stage (p : Nat) : (s.countDup p).stage = s.stage := stage_ite rfl rfl

@[simp] theorem State.beginArrival_stage (p q : Nat) (cls : Cls) (key : Option MergeKey) (hidden late : Bool) :
    (s.beginArrival p q cls key hidden late).2.stage = s.stage := by
  unfold State.beginArrival
  extract_lets u id mine
  have hu : u.stage = s.stage := s.checkedFor_stage q
  have hm : ∀ (v : State) st item, (mine v st item).stage = v.stage := by
    intro v st item
    simp only [mine]
    split
    · exact stage_ite rfl rfl
    · rfl
  have hg := (State.growItem_stage ((u.newItem q cls).modItem id fun i =>
    { i with key := key, hidden := hidden, src := some p }) 2 id 1).trans hu
  split <;> (rename_i e; rw [e] at hg)
  · exact (State.throttleUpdate_stage _).trans ((hm _ _ _).trans hg)
  · exact (hm _ _ _).trans ((State.setAsm_stage _ _ _).trans ((State.countLost_stage _ _ _).trans hg))
  · exact hg

@[simp] theorem State.firstWord_stage (p : Nat) (w : PWord) : (s.firstWord p w).2.stage = s.stage := by
  unfold State.firstWord
  split
  · simp
  · extract_lets cls shut r o u
    have hr : r.2.stage = s.stage := State.beginArrival_stage _ _ _ _ _ _ _
    have hu : u.stage = s.stage := s.openCtx_stage _
    refine stage_ite_snd (by simp) (stage_ite_snd (by simp) (stage_ite_snd (stage_ite_snd hr hr) (stage_ite_snd hu ?_)))
    split
    · exact hu
    · split
      · exact hu
      · exact stage_ite_snd hu ((State.beginArrival_stage _ _ _ _ _ _ _).trans hu)

@[simp] theorem State.appendWord_stage (p : Nat) (w : PWord) : (s.appendWord p w).2.stage = s.stage := by
  unfold State.appendWord
  extract_lets a
  split
  · rfl
  · rename_i i _
    have hg := State.grow_stage s 2 i.id (slotsFor (i.words.length + 1))
    split <;> (rename_i e; rw [e] at hg)
    · exact (State.throttleUpdate_stage _).trans hg
    · exact (State.throttleUpdate_stage _).trans ((State.dropItem_stage _ _).trans hg)
    · exact hg

/-! ### The directory and the compressor (R216-R224, R234) -/

@[simp] theorem State.correctHit_stage (bankB : Bool) (slot : Nat) (w : Word) : (s.correctHit bankB slot w).2.stage = s.stage := by
  unfold State.correctHit
  refine stage_ite_snd rfl ?_
  extract_lets r
  have hr : r.2.stage = s.stage := s.readCw_stage 1 _
  split
  · exact hr
  · exact stage_ite_snd hr (stage_ite_snd hr (stage_ite_snd hr hr))

@[simp] theorem State.correctWords_stage (again bankB : Bool) (slot : Nat) (l : List PWord) :
    (s.correctWords again bankB slot l).2.stage = s.stage := by
  induction l generalizing s with
  | nil => rfl
  | cons p l ih =>
    rw [State.correctWords]
    refine stage_ite_snd (ih s) ?_
    extract_lets c r
    have hr : r.2.stage = s.stage := (ih _).trans (s.correctHit_stage _ _ _)
    split <;> exact hr

@[simp] theorem State.compress_stage (body : List PWord) : (s.compress body).2.stage = s.stage := by
  unfold State.compress
  extract_lets r raw out u v pool w
  have hv : v.stage = s.stage := (stage_foldl (fun v _ => v.setFlag_stage _) _ _).trans rfl
  exact hv

@[simp] theorem State.finishFragment_stage (h : Head) (body : List PWord) (may : Bool) :
    (s.finishFragment h body may).2.stage = s.stage := by
  unfold State.finishFragment
  exact stage_ite_snd (s.compress_stage body) rfl

@[simp] theorem State.treatOrigin_stage (h : Head) (ws : List PWord) : (s.treatOrigin h ws).2.stage = s.stage := by
  unfold State.treatOrigin
  extract_lets body bank r poison t
  have hr : r.2.stage = s.stage := s.correctWords_stage _ _ _ _
  have ht : t.2.stage = s.stage := (State.finishFragment_stage _ _ _ _).trans hr
  exact stage_ite_snd (stage_ite_snd ht hr) rfl

section
variable {f : State → List PWord → Treated × State} (hf : ∀ v ws, (f v ws).2.stage = v.stage)
include hf

theorem treatLoose_stage (k : Nat) (rest : List PWord) : (treatLoose f k rest s).2.stage = s.stage := by
  induction k generalizing s rest with
  | zero => rfl
  | succ k ih =>
    rw [treatLoose]
    split
    · rfl
    · exact stage_ite_snd rfl ((ih _ _).trans (hf _ _))

theorem treatChildren_stage (table rest : List PWord) : (treatChildren f table rest s).2.stage = s.stage := by
  induction table generalizing s rest with
  | nil => rfl
  | cons e table ih =>
    rw [treatChildren]
    exact stage_ite_snd (treatLoose_stage s hf _ _) (stage_ite_snd (ih _ _) ((ih _ _).trans (hf _ _)))

end

@[simp] theorem State.treat_stage (n : Nat) (ws : List PWord) : (State.treat n s ws).2.stage = s.stage := by
  induction n generalizing s ws with
  | zero => rfl
  | succ n ih =>
    rw [State.treat]
    split
    · rfl
    · refine stage_ite_snd rfl (stage_ite_snd (s.treatOrigin_stage _ _) ?_)
      have hc := treatChildren_stage s ih
      exact stage_ite_snd (hc _ _) (hc _ _)

@[simp] theorem State.lastWord_stage (p : Nat) : (s.lastWord p).stage = s.stage := by
  unfold State.lastWord
  extract_lets a u
  have hu : u.stage = s.stage := rfl
  split
  · exact hu
  · rename_i i _
    extract_lets r v pool w
    have hr : r.2.stage = s.stage := (State.treat_stage _ _ _).trans hu
    have hw : w.stage = s.stage := by simp [w, hu]
    exact stage_ite hr (stage_ite ((State.throttleUpdate_stage _).trans hw) ((State.throttleUpdate_stage _).trans hw))

@[simp] theorem State.portWord_stage (p : Nat) (f : FifoWord) : (s.portWord p f).2.stage = s.stage := by
  unfold State.portWord
  extract_lets r t
  have hr : r.2.stage = s.stage := stage_ite_snd (s.firstWord_stage p f.word) rfl
  have ht : t.2.stage = s.stage := (State.appendWord_stage _ _ _).trans hr
  exact stage_ite_snd hr (stage_ite_snd ((State.lastWord_stage _ _).trans ht) ht)

end

end Sys2Proof.Machine

namespace Sys2Proof.Machine

variable {s t : State} {P : Comp → Prop}

/-! ## Own fragments, items and contexts looked up after an update -/

theorem find?_map_same {α : Type} {l : List α} {p : α → Bool} {f : α → α} (hf : ∀ x, p (f x) = p x) :
    (l.map f).find? p = (l.find? p).map f := by
  rw [List.find?_map]
  congr 2
  exact funext hf

theorem State.frag_modFrag_same (s : State) (k : MergeKey) {f : Frag → Frag} (hf : ∀ x, (f x).key = x.key) :
    (s.modFrag k f).frag k = (s.frag k).map f := by
  refine (find?_map_same fun x => ?_).trans (Option.map_congr fun x hx => ?_)
  · split <;> simp [hf]
  · rw [if_pos (by simpa using List.find?_some hx)]

theorem State.item_modItem_same (s : State) (id : Nat) {f : Item → Item} (hf : ∀ x, x.id = id → (f x).id = id) :
    (s.modItem id f).item id = (s.item id).map f := by
  refine (find?_map_same fun x => ?_).trans (Option.map_congr fun x hx => ?_)
  · split
    · next h => simp [hf x h, h]
    · rfl
  · rw [if_pos (by simpa using List.find?_some hx)]

theorem State.ctx_modCtx_same (s : State) (k : MergeKey) {f : Ctx → Ctx} (hf : ∀ x, (f x).key = x.key) :
    (s.modCtx k f).ctx k = (s.ctx k).map f := by
  refine (find?_map_same fun x => ?_).trans (Option.map_congr fun x hx => ?_)
  · split <;> simp [hf]
  · rw [if_pos (by simpa using List.find?_some hx)]

theorem State.id_of_item {id : Nat} {i : Item} (h : s.item id = some i) : i.id = id := by simpa using List.find?_some h

/-- A change of THROTTLE_AGG is all that the pool shows of it (R208-R211). -/
theorem State.throttleUpdate_pool (s : State) : ∃ (a : Bool) (n : Nat),
    s.throttleUpdate.pool = { s.pool with agg := a, lastThrottle := n } := by
  have hsend : ∀ (m : State → Nat → CtlMsg) (l : List Nat) (v : State),
      (l.foldl (fun (u : State) (p : Nat) => u.sendMsg p (m u p)) v).pool = v.pool := by
    intro m l
    induction l with
    | nil => exact fun _ => rfl
    | cons p l ih => exact fun v => ih _
  unfold State.throttleUpdate
  extract_lets used own v south agg pool w x
  have hx : x.pool = { s.pool with agg := agg, lastThrottle := v.ticks } := by
    simp only [x]
    split <;> rfl
  by_cases h : agg = v.pool.agg
  · rw [if_pos h]
    exact ⟨s.pool.agg, s.pool.lastThrottle, rfl⟩
  · rw [if_neg h]
    refine ⟨agg, v.ticks, ?_⟩
    split
    · rw [← hx]
      unfold State.msix
      split_ifs <;> rfl
    · rw [← hx]
      exact hsend (fun u p => .of 0x11 0xFFF (u.portStamp p) [_]) _ _

@[simp] theorem State.throttleUpdate_items (s : State) : s.throttleUpdate.pool.items = s.pool.items := by
  obtain ⟨a, n, h⟩ := s.throttleUpdate_pool
  rw [h]

@[simp] theorem State.throttleUpdate_item (s : State) (id : Nat) : s.throttleUpdate.item id = s.item id := by
  rw [State.item, State.throttleUpdate_items, State.item]

@[simp] theorem State.throttleUpdate_frag (s : State) (k : MergeKey) : s.throttleUpdate.frag k = s.frag k :=
  stage_frag s.throttleUpdate_stage k

@[simp] theorem State.throttleUpdate_orphans (s : State) : s.throttleUpdate.pool.orphans = s.pool.orphans := by
  obtain ⟨a, n, h⟩ := s.throttleUpdate_pool
  rw [h]

@[simp] theorem State.throttleUpdate_poolUsed (s : State) : s.throttleUpdate.poolUsed = s.poolUsed := by
  simp [State.poolUsed]

/-! ## Slots (R188, R312) -/

/-- A queue waits for a slot only while a bank is under test. -/
theorem State.takeSlot_waits {q : Nat} (h : (s.takeSlot q).1 = .waits) : s.pool.excludedBank.isSome = true := by
  rw [State.takeSlot] at h
  split at h
  · cases h
  · split at h
    · next hw => exact hw.2
    · split at h <;> cases h

theorem State.growItem_waits {fuel id n : Nat} (h : (State.growItem fuel s id n).1 = .waits) :
    s.pool.excludedBank.isSome = true := by
  induction fuel generalizing s with
  | zero => cases h
  | succ k ih =>
    rw [State.growItem] at h
    split at h
    · cases h
    · next i _ =>
      have hst := s.takeSlot_stage i.queue
      split at h
      · cases h
      · split at h
        · next e =>
          rw [e] at hst
          exact (congrArg Option.isSome (stage_excluded ((State.modItem_stage _ _ _).trans hst))).symm.trans (ih h)
        · next e => exact State.takeSlot_waits (congrArg Prod.fst e |>.trans h)

theorem State.grow_waits {fuel id n : Nat} (h : (State.grow fuel s id n).1 = .waits) : s.pool.excludedBank.isSome = true := by
  induction fuel generalizing s with
  | zero => cases h
  | succ k ih =>
    rw [State.grow] at h
    split at h
    · cases h
    · next i _ =>
      have hst := s.checkedFor_stage i.queue
      split at h
      · cases h
      · generalize hu : (if s.canGrow i.queue = true then s else s.checkQueue i.queue) = u at h hst
        have hg := (u.growItem_stage 1 id (i.slots.length + 1))
        dsimp only at h
        split at h
        · next e =>
          rw [e] at hg
          exact (congrArg Option.isSome (stage_excluded (hg.trans hst))).symm.trans (ih h)
        · exact (congrArg Option.isSome (stage_excluded hst)).symm.trans (State.growItem_waits h)

/-! ## Words of a port (R32, R190, R481) -/

theorem State.beginArrival_accepts (hx : s.pool.excludedBank = none) (p q : Nat) (cls : Cls) (key : Option MergeKey)
    (hidden late : Bool) : (s.beginArrival p q cls key hidden late).1 = true := by
  have hst := s.checkedFor_stage q
  unfold State.beginArrival
  extract_lets u id mine
  split
  · rfl
  · rfl
  · next e =>
    have hu : u.pool.excludedBank = none := (stage_excluded hst).trans hx
    have hw := State.growItem_waits (congrArg Prod.fst e)
    have hw' : u.pool.excludedBank.isSome = true := hw
    simp [hu] at hw'

theorem State.appendWord_accepts (hx : s.pool.excludedBank = none) (p : Nat) (w : PWord) : (s.appendWord p w).1 = true := by
  unfold State.appendWord
  extract_lets a
  split
  · rfl
  · split
    · rfl
    · rfl
    · next e =>
      have hw := State.grow_waits (congrArg Prod.fst e)
      rw [hx] at hw
      cases hw

/-- A word that begins no fragment for merging waits for nothing but a bank's or the directory's test. -/
theorem State.portWord_accepts {p : Nat} {f : FifoWord} (hx : s.pool.excludedBank = none) (hl : s.test.logic ≠ some 1)
    (hf : f.first = true → mergeKeyOf f.word = none) : (s.portWord p f).1 = true := by
  unfold State.portWord
  extract_lets r t
  have hr : r.1 = true := by
    simp only [r]
    split
    · next h =>
      rw [State.firstWord, hf h]
      exact State.beginArrival_accepts hx _ _ _ _ _ _
    · rw [State.stageHeld, decide_eq_false hl, Bool.and_false, Bool.false_and, Bool.not_false]
  have hst : r.2.stage = s.stage := stage_ite_snd (s.firstWord_stage p f.word) rfl
  have hx' : r.2.pool.excludedBank = none := (stage_excluded hst).trans hx
  rw [if_neg (not_not.2 hr)]
  split
  · rfl
  · exact State.appendWord_accepts hx' p f.word

theorem mergeKeyOf_markWord {w : PWord} (h : mergeKeyOf w = none) (bad : Bool) : mergeKeyOf (markWord w bad) = none := by
  unfold markWord
  split
  · rfl
  · exact h

/-- Words are taken from the front of a port's FIFO, all that are granted where none must wait. -/
theorem State.takePort_spec (n : Nat) (s : State) (p : Nat) : ∃ k, k ≤ n ∧
    ((State.takePort n s p).port p).fifo = (s.port p).fifo.drop k ∧ (State.takePort n s p).pool.arbPos = s.pool.arbPos ∧
    (n ≤ (s.port p).fifo.length → s.pool.excludedBank = none → s.test.logic ≠ some 1 →
      (∀ f ∈ (s.port p).fifo.take n, f.first = true → mergeKeyOf f.word = none) → k = n) := by
  induction n generalizing s with
  | zero => exact ⟨0, Nat.le_refl _, rfl, rfl, fun _ _ _ _ => rfl⟩
  | succ n ih =>
    rw [State.takePort]
    cases hv : (s.port p).fifo with
    | nil => exact ⟨0, Nat.zero_le _, by simp [hv], rfl, fun h => by simp at h⟩
    | cons f l =>
      dsimp only
      generalize hx : s.tableCw (Config.fifoWord p (s.port p).fifoAt) = x
      generalize hw : x.2.portWord p { f with word := markWord f.word x.1 } = w
      have hxs : x.2.stage = s.stage := hx ▸ s.tableCw_stage _
      have hws : w.2.stage = s.stage := hw ▸ (x.2.portWord_stage p _).trans hxs
      have hfifo : (w.2.port p).fifo = f :: l := (stage_fifo hws p).trans hv
      by_cases ht : w.1 = true
      · rw [if_pos ht]
        obtain ⟨k, hk, hdrop, harb, hall⟩ := ih
          (w.2.setPort p { w.2.port p with fifo := (w.2.port p).fifo.drop 1, fifoAt := ((w.2.port p).fifoAt + 1) % 512 })
        rw [State.setPort_port_same] at hdrop hall
        simp only [hfifo, List.drop_one, List.tail_cons] at hdrop hall harb ⊢
        refine ⟨k + 1, by omega, hdrop, harb.trans (show w.2.pool.arbPos = _ from stage_arbPos hws), fun hn he hl hf => ?_⟩
        rw [hall (by simpa using hn) ((stage_excluded hws).trans he)
          (by rwa [State.setPort_test, stage_test hws]) fun g hg => hf g (by simp [hg])]
      · rw [if_neg ht]
        refine ⟨0, Nat.zero_le _, hfifo, stage_arbPos hws, fun hn he hl hf => absurd ?_ ht⟩
        rw [← hw]
        exact State.portWord_accepts ((stage_excluded hxs).trans he)
          (by rwa [stage_test hxs]) fun h => mergeKeyOf_markWord (hf f (by simp) h) _

/-- Credit given back changes no FIFO and nothing of the pool. -/
@[simp] theorem State.freeCredit_stage (s : State) (p : Nat) (control : Bool) (n : Nat) :
    (s.freeCredit p control n).stage = s.stage := by
  unfold State.freeCredit
  refine stage_ite rfl ?_
  extract_lets c
  have hc : (s.setChan p control { c with limit := c.limit + BitVec.ofNat 16 n }).stage = s.stage :=
    s.setPort_stage (by split <;> rfl)
  exact stage_ite hc hc

theorem State.strikePort_spec (s : State) (p : Nat) (ups : List (Nat × BitVec 64)) :
    (s.strikePort p ups).pool = s.pool ∧ (s.strikePort p ups).test = s.test ∧
      ((s.strikePort p ups).port p).fifo.length = (s.port p).fifo.length := by
  unfold State.strikePort
  split
  · exact ⟨rfl, rfl, rfl⟩
  · refine ⟨rfl, rfl, ?_⟩
    rw [State.setPort_port_same]
    simp

/-! ## Own fragments (R193, R195, R530) -/

theorem State.ownLoss_stage (s : State) : s.ownLoss.stage = s.stage := stage_ite rfl rfl

theorem State.newFrag_fabric (s : State) (k : MergeKey) (tm : BitVec 61) (n : Nat) (c : Bool) :
    (s.newFrag k tm n c).fabric = s.fabric := by
  unfold State.newFrag
  split_ifs <;> rfl

/-- The own fragment of a key is there, or a new one that has not opened. -/
theorem State.newFrag_frag (k : MergeKey) (hs : s.slotValid = true) :
    (s.newFrag k 0 0 false).frag k = some ((s.frag k).getD { key := k, trigTime := 0 }) := by
  unfold State.newFrag
  rw [if_neg (by simp [hs])]
  cases h : s.frag k with
  | some g => simp [h]
  | none =>
    show List.find? _ (s.pool.frags ++ _) = _
    rw [List.find?_append, show s.pool.frags.find? (fun f => f.key = k) = none from h]
    simp

theorem State.newFrag_of_some {k : MergeKey} {g : Frag} (h : s.frag k = some g) (tm : BitVec 61) (c : Bool) :
    s.newFrag k tm 0 c = s := by
  unfold State.newFrag
  simp [h]

theorem State.newFrag_touch {u : State} {k : MergeKey} {tm : BitVec 61} {n : Nat} {c : Bool} (h : Touch P s u) (hp : P .pool) :
    Touch P s (u.newFrag k tm n c) := by
  unfold State.newFrag
  exact Touch.ite h (Touch.ite (Touch.ite h (State.modFrag_touch h hp)) (h.pool hp rfl))

/-! ### An own fragment opens -/

/-- The class of an own fragment's item. -/
def ownClass (k : MergeKey) : Cls := if keyIsEvent k then .triggered else .streaming

/-- The state in which an own fragment's item has been made, its queue's pointers compared where it cannot grow. -/
def State.fragItem (s : State) (k : MergeKey) : State :=
  let q := s.ownQueue k
  let u := if s.canGrow q then s else s.checkQueue q
  (u.newItem q (ownClass k)).modItem u.pool.nextItem fun i => { i with key := some k }

/-- The number of that item. -/
def State.fragId (s : State) (k : MergeKey) : Nat := (if s.canGrow (s.ownQueue k) then s else s.checkQueue (s.ownQueue k)).pool.nextItem

/-- The fragment holds its first slot, with placeholders for its header (R530). -/
def State.fragOpened (s : State) (k : MergeKey) (id : Nat) : State :=
  let u := match s.item id with
    | some i => (s.writeSlots i (s.placeholders k) 0).skip (headWords k)
    | none => s
  ((u.modFrag k fun g => { g with opened := true, item := some id }).modCtx k fun c => if c.closing then c else
    c.modEntries (fun e => e.child = .own && e.st = .waiting) fun e => { e with st := .storing, item := some id }).throttleUpdate

/-- The fragment is dropped whole (R530). -/
def State.fragDropped (s : State) (k : MergeKey) (id : Nat) : State :=
  ((s.freeItem id).modFrag k fun g => { g with opened := true, dropped := true }).ownLoss.modCtx k fun c =>
    c.modEntries (fun e => e.child = .own) fun e => { e with st := .lost, item := none }

section
variable {k : MergeKey} {g : Frag} (hg : s.frag k = some g)
include hg

theorem State.openFrag_opened (ho : g.opened = true) : s.openFrag k = (true, s) := by simp [State.openFrag, hg, ho]

variable (ho : g.opened = false)
include ho

theorem State.openFrag_testing (hw : s.transfersWait = true) : s.openFrag k = (false, s) := by
  simp [State.openFrag, hg, ho, hw]

variable (hw : s.transfersWait = false)
include hw

theorem State.openFrag_done (h : State.growItem 2 (s.fragItem k) (s.fragId k) 1 = (.done, t)) :
    s.openFrag k = (true, t.fragOpened k (s.fragId k)) := by
  unfold State.fragItem State.fragId ownClass at h
  unfold State.openFrag State.fragId
  simp only [hg, ho, hw, Bool.false_eq_true, if_false]
  dsimp only at h
  rw [h]
  rfl

theorem State.openFrag_full (h : State.growItem 2 (s.fragItem k) (s.fragId k) 1 = (.full, t)) :
    s.openFrag k = (true, t.fragDropped k (s.fragId k)) := by
  unfold State.fragItem State.fragId ownClass at h
  unfold State.openFrag State.fragId
  simp only [hg, ho, hw, Bool.false_eq_true, if_false]
  dsimp only at h
  rw [h]
  rfl

theorem State.openFrag_waits (h : State.growItem 2 (s.fragItem k) (s.fragId k) 1 = (.waits, t)) :
    s.openFrag k = (false, t.freeItem (s.fragId k)) := by
  unfold State.fragItem State.fragId ownClass at h
  unfold State.openFrag State.fragId
  simp only [hg, ho, hw, Bool.false_eq_true, if_false]
  dsimp only at h
  rw [h]

end

theorem State.fragItem_stage (s : State) (k : MergeKey) : (s.fragItem k).stage = s.stage :=
  (State.modItem_stage _ _ _).trans ((State.newItem_stage _ _ _).trans (s.checkedFor_stage _))

theorem State.fragGrown_stage {k : MergeKey} {r : Grow} (h : State.growItem 2 (s.fragItem k) (s.fragId k) 1 = (r, t)) :
    t.stage = s.stage := by
  have hg := State.growItem_stage (s.fragItem k) 2 (s.fragId k) 1
  rw [h] at hg
  exact hg.trans (s.fragItem_stage k)

/-- What becomes of an own fragment that there is: it is open already, it must wait, or it opens with its first slot or is dropped. -/
theorem State.openFrag_cases {k : MergeKey} {g : Frag} (hg : s.frag k = some g) :
    (g.opened = true ∧ s.openFrag k = (true, s)) ∨
    (g.opened = false ∧ s.transfersWait = true ∧ s.openFrag k = (false, s)) ∨
    (g.opened = false ∧ s.transfersWait = false ∧ ∃ u : State, u.stage = s.stage ∧
      ((State.growItem 2 (s.fragItem k) (s.fragId k) 1 = (.done, u) ∧ s.openFrag k = (true, u.fragOpened k (s.fragId k))) ∨
       (State.growItem 2 (s.fragItem k) (s.fragId k) 1 = (.full, u) ∧ s.openFrag k = (true, u.fragDropped k (s.fragId k))) ∨
       (State.growItem 2 (s.fragItem k) (s.fragId k) 1 = (.waits, u) ∧ s.pool.excludedBank.isSome = true ∧
        s.openFrag k = (false, u.freeItem (s.fragId k))))) := by
  cases ho : g.opened with
  | true => exact .inl ⟨rfl, State.openFrag_opened hg ho⟩
  | false =>
    cases hw : s.transfersWait with
    | true => exact .inr (.inl ⟨rfl, rfl, State.openFrag_testing hg ho hw⟩)
    | false =>
      refine .inr (.inr ⟨rfl, rfl, ?_⟩)
      rcases hr : State.growItem 2 (s.fragItem k) (s.fragId k) 1 with ⟨r, u⟩
      refine ⟨u, State.fragGrown_stage hr, ?_⟩
      cases r with
      | done => exact .inl ⟨rfl, State.openFrag_done hg ho hw hr⟩
      | full => exact .inr (.inl ⟨rfl, State.openFrag_full hg ho hw hr⟩)
      | waits =>
        refine .inr (.inr ⟨rfl, ?_, State.openFrag_waits hg ho hw hr⟩)
        exact (congrArg Option.isSome (stage_excluded (s.fragItem_stage k))).symm.trans (State.growItem_waits (congrArg Prod.fst hr))

theorem State.fragOpened_fabric (s : State) (k : MergeKey) (id : Nat) : (s.fragOpened k id).fabric = s.fabric := by
  refine (stage_fabric (State.throttleUpdate_stage _)).trans ?_
  cases s.item id <;> rfl

theorem State.fragOpened_frag (k : MergeKey) (id : Nat) :
    (s.fragOpened k id).frag k = (s.frag k).map fun g => { g with opened := true, item := some id } := by
  unfold State.fragOpened
  extract_lets u
  have hu : u.frag k = s.frag k := by
    simp only [u]
    split <;> rfl
  rw [State.throttleUpdate_frag, ← hu]
  exact u.frag_modFrag_same k fun _ => rfl

theorem State.fragDropped_fabric (s : State) (k : MergeKey) (id : Nat) : (s.fragDropped k id).fabric = s.fabric :=
  (stage_fabric ((State.modCtx_stage _ _ _).trans (State.ownLoss_stage _))).trans rfl

theorem State.fragDropped_frag (k : MergeKey) (id : Nat) :
    (s.fragDropped k id).frag k = (s.frag k).map fun g => { g with opened := true, dropped := true } := by
  refine (stage_frag ((State.modCtx_stage _ _ _).trans (State.ownLoss_stage _)) k).trans ?_
  exact (s.freeItem id).frag_modFrag_same k fun _ => rfl

theorem State.openFrag_fabric (s : State) (k : MergeKey) : (s.openFrag k).2.fabric = s.fabric := by
  cases hg : s.frag k with
  | none => simp [State.openFrag, hg]
  | some g =>
    rcases State.openFrag_cases hg with ⟨-, h⟩ | ⟨-, -, h⟩ | ⟨-, -, u, hu, ⟨-, h⟩ | ⟨-, h⟩ | ⟨-, -, h⟩⟩ <;> rw [h]
    · exact (u.fragOpened_fabric _ _).trans (stage_fabric hu)
    · exact (u.fragDropped_fabric _ _).trans (stage_fabric hu)
    · exact stage_fabric hu

/-- The fragment is still there, and has opened where nothing is under test. -/
theorem State.openFrag_frag {k : MergeKey} {g : Frag} (hg : s.frag k = some g) : ∃ x, (s.openFrag k).2.frag k = some x ∧
    (s.pool.excludedBank = none → s.transfersWait = false → x.opened = true) := by
  rcases State.openFrag_cases hg with ⟨ho, h⟩ | ⟨-, hw, h⟩ | ⟨-, -, u, hu, ⟨-, h⟩ | ⟨-, h⟩ | ⟨-, hx, h⟩⟩ <;> rw [h]
  · exact ⟨g, hg, fun _ _ => ho⟩
  · exact ⟨g, hg, fun _ h => by simp [hw] at h⟩
  · exact ⟨_, by rw [State.fragOpened_frag, stage_frag hu, hg]; rfl, fun _ _ => rfl⟩
  · exact ⟨_, by rw [State.fragDropped_frag, stage_frag hu, hg]; rfl, fun _ _ => rfl⟩
  · exact ⟨g, (stage_frag hu k).trans hg, fun hn => by simp [hn] at hx⟩

/-- An own fragment opens whatever is under test but a bank or partition 0. -/
theorem State.openFrag_accepts (k : MergeKey) (hx : s.pool.excludedBank = none) (hw : s.transfersWait = false) :
    (s.openFrag k).1 = true := by
  cases hg : s.frag k with
  | none => simp [State.openFrag, hg]
  | some g =>
    rcases State.openFrag_cases hg with ⟨-, h⟩ | ⟨-, hw', h⟩ | ⟨-, -, u, -, ⟨-, h⟩ | ⟨-, h⟩ | ⟨-, hx', h⟩⟩ <;> rw [h]
    · simp [hw] at hw'
    · simp [hx] at hx'

end Sys2Proof.Machine

namespace Sys2Proof.Machine

variable {s t : State} {P : Comp → Prop}

/-! ## Units of the regions (R32, R195, R481) -/

theorem State.beginFrag_fabric (s : State) (k : MergeKey) : (s.beginFrag k).fabric = s.fabric := by
  unfold State.beginFrag
  cases k with
  | frame f =>
    dsimp only
    split
    · exact s.newFrag_fabric _ _ _ _
    · rfl
  | event ns n => rfl

/-- What a stored unit leaves as it was; it waits for nothing but a bank's or the directory's test, or that of partition 0. -/
theorem State.storeUnit_spec (s : State) (u : Unit') : (s.storeUnit u).2.fabric = s.fabric ∧
    (s.pool.excludedBank = none → s.transfersWait = false → s.test.logic ≠ some 1 → (s.storeUnit u).1 = true) := by
  have hb := s.beginFrag_fabric u.key
  have ho := ((s.beginFrag u.key).openFrag_fabric u.key).trans hb
  have haccept : s.pool.excludedBank = none → s.transfersWait = false → ((s.beginFrag u.key).openFrag u.key).1 = true :=
    fun hx hw => State.openFrag_accepts _ ((fabric_excluded hb).trans hx) (by rw [State.transfersWait, fabric_test hb]; exact hw)
  unfold State.storeUnit
  extract_lets o v slot treat
  have hv : v.fabric = s.fabric := ho
  split
  · next hn => exact ⟨hv, fun hx hw _ => absurd (haccept hx hw) hn⟩
  · split
    · exact ⟨hv, fun _ _ _ => rfl⟩
    · next g hg =>
      split
      · rename_i i _ _
        extract_lets frame bank r w first n
        have hr : r.2.fabric = s.fabric := by
          simp only [r]
          split
          · exact (stage_fabric (v.correctWords_stage _ _ _ _)).trans hv
          · exact hv
        have hw : w.fabric = s.fabric := by
          simp only [w]
          split
          · exact hr
          · exact hr
        split
        · next hl => exact ⟨hv, fun _ _ hn => absurd (by rw [← fabric_test hv]; exact hl.2) hn⟩
        · split
          · exact ⟨hw, fun _ _ _ => rfl⟩
          · have hgrow := stage_fabric (w.grow_stage 64 i.id (slotsFor (headWords u.key + g.body.length + r.1.words.length + 1)))
            split <;> (rename_i e; rw [e] at hgrow)
            · exact ⟨(stage_fabric (State.throttleUpdate_stage _)).trans (hgrow.trans hw), fun _ _ _ => rfl⟩
            · refine ⟨?_, fun _ _ _ => by split <;> rfl⟩
              split
              · exact hgrow.trans hw
              · exact (stage_fabric ((State.throttleUpdate_stage _).trans (State.ownLoss_stage _))).trans (hgrow.trans hw)
            · refine ⟨hv, fun hx _ _ => ?_⟩
              have hwait := State.grow_waits (congrArg Prod.fst e)
              rw [fabric_excluded hw, hx] at hwait
              cases hwait
      · exact ⟨hv, fun _ _ _ => rfl⟩

theorem State.grantRegion_arbPos (n : Nat) (s : State) (r m : Nat) : (State.grantRegion n s r m).pool.arbPos = s.pool.arbPos := by
  induction n generalizing s m with
  | zero => rfl
  | succ n ih =>
    rw [State.grantRegion]
    split
    · rfl
    · next u l _ =>
      have harb := fabric_arbPos (s.storeUnit_spec u).1
      dsimp only
      split
      · rfl
      · split
        · exact (ih _ _).trans harb
        · exact harb

/-- A unit of which the last word is granted leaves the region's FIFO. -/
theorem State.grantRegion_lone {n r m : Nat} {u : Unit'} (hu : Tab.get [] s.pool.regFifo r = [u])
    (hm : u.words.length - Tab.get 0 s.pool.regDone r ≤ m) (hs : (s.storeUnit u).1 = true) :
    State.grantRegion (n + 1) s r m = { (s.storeUnit u).2 with pool := { (s.storeUnit u).2.pool with
      regFifo := Tab.set [] (s.storeUnit u).2.pool.regFifo r [], regDone := Tab.set 0 (s.storeUnit u).2.pool.regDone r 0 } } := by
  rw [State.grantRegion, hu]
  dsimp only
  rw [if_neg (by omega), if_pos hs]
  cases n with
  | zero => rfl
  | succ n =>
    rw [State.grantRegion]
    simp

/-! ### Units at a leaf -/

theorem State.covers_leaf (h : s.merging = false) (slot : Nat) : s.covers slot = false := by simp [State.covers, h]

/-- An item that holds slots enough need not grow. -/
theorem State.grow_enough {fuel id n : Nat} {i : Item} (hi : s.item id = some i) (hn : n ≤ i.slots.length) :
    State.grow (fuel + 1) s id n = (.done, s) := by
  rw [State.grow, hi]
  exact if_pos hn

theorem State.bind_item_self {o : Option Nat} {i : Item} (h : o.bind s.item = some i) : s.item i.id = some i := by
  obtain ⟨id, -, hid⟩ := Option.bind_eq_some_iff.1 h
  rwa [State.id_of_item hid]

/-- A unit joins the body of its own fragment, which is open and has room for it. -/
theorem State.storeUnit_leaf {u : Unit'} {x : Frag} {i : Item} (hm : s.merging = false) (hx : s.frag u.key = some x)
    (ho : x.opened = true) (hd : x.dropped = false) (hi : x.item.bind s.item = some i)
    (hroom : slotsFor (headWords u.key + x.body.length + u.words.length + 1) ≤ i.slots.length) :
    ∃ y, (s.storeUnit u).2.frag u.key = some y ∧ y.body = x.body ++ u.words ∧ y.lost = x.lost := by
  have hbegin : s.beginFrag u.key = s := by
    unfold State.beginFrag
    cases hk : u.key with
    | frame f =>
      dsimp only
      rw [State.newFrag_of_some (hk ▸ hx), ite_self]
    | event ns n => rfl
  have htreat : s.ownTreat u = false := by simp [State.ownTreat, State.covers_leaf hm]
  have hgrow := State.grow_enough (fuel := 63) (State.bind_item_self hi) hroom
  unfold State.storeUnit
  rw [hbegin, State.openFrag_opened hx ho]
  simp only [hx, hd, hi, htreat, Bool.false_eq_true, false_and, if_false, not_true_eq_false]
  split
  · next he => exact ⟨x, hx, by simp [List.isEmpty_iff.1 he], rfl⟩
  · rw [hgrow]
    dsimp only
    rw [State.throttleUpdate_frag, State.frag_modFrag_same _ _ (by exact fun _ => rfl), hx]
    exact ⟨_, rfl, rfl, rfl⟩

/-! ## CHIP_GRANT -/

theorem chipGrant_due {r : Fin 25} {ups : List (Nat × BitVec 64)} (hr : s.nextRequester = some r.val) (hw : s.transfersWait = false)
    (hc : (s.mem 5).cells = []) : exec (.chipGrant ⟨r, ups⟩) s = .next (
      let n := min (16 * (1 + min 3 (s.waitingWords r / 128))) (s.waitingWords r)
      let u : State := { s with pool := { s.pool with arbPos := (r + 1) % 25 } }
      if r.val ≤ 16 then (u.strikePort (reqPort r) (ups.filter fun e => e.1 < n)).grantPort (reqPort r) n
      else State.grantRegion (n + 1) u (r - 17) n) := by
  show execChipGrant _ s = _
  unfold execChipGrant
  dsimp only
  rw [if_neg (by simp [hr, hw]), State.readMap_intact (by exact hc)]

/-- What a port is granted leaves its FIFO, as far as no word of it must wait (R32, R278, R528). -/
theorem State.grantPort_spec (s : State) (p n : Nat) : ∃ k, k ≤ n ∧ ((s.grantPort p n).port p).fifo = (s.port p).fifo.drop k ∧
    (s.grantPort p n).pool.arbPos = s.pool.arbPos ∧
    (n ≤ (s.port p).fifo.length → s.pool.excludedBank = none → s.test.logic ≠ some 1 →
      (∀ f ∈ (s.port p).fifo.take n, f.first = true → mergeKeyOf f.word = none) → k = n) := by
  obtain ⟨k, hk, hdrop, harb, hall⟩ := State.takePort_spec n s p
  have hc := (State.takePort n s p).freeCredit_stage p false ((s.port p).fifo.length - ((State.takePort n s p).port p).fifo.length)
  exact ⟨k, hk, (stage_fifo hc p).trans hdrop, (stage_arbPos hc).trans harb, hall⟩

theorem State.waitingWords_port {r : Nat} (h : r ≤ 16) : s.waitingWords r = (s.port (reqPort r)).fifo.length := if_pos h

/-! ## What an own fragment's opening changes (R188-R190, R530) -/

theorem State.ownLoss_touch {u : State} (h : Touch P s u) (hs : ∀ c, storeParts c → P c) : Touch P s u.ownLoss := by
  unfold State.ownLoss
  exact Touch.ite (State.incWrap_touch h (hs _ (by simp [storeParts, R.mergeLost])))
    (State.incWrap_touch h (hs _ (by simp [storeParts, R.queueLost])))

theorem State.modCtx_touch {u : State} {k : MergeKey} {f : Ctx → Ctx} (h : Touch P s u) (hp : P .pool) : Touch P s (u.modCtx k f) :=
  h.pool hp rfl

theorem State.fragOpened_touch {u : State} {k : MergeKey} {id : Nat} (h : Touch P s u) (hs : ∀ c, storeParts c → P c)
    (hf : P .free) : Touch P s (u.fragOpened k id) := by
  have hp : P .pool := hs _ trivial
  unfold State.fragOpened
  extract_lets v
  have hv : Touch P s v := by
    simp only [v]
    split
    · exact State.skip_touch (State.writeSlots_touch h (hs _ rfl)) hf
    · exact h
  exact State.throttleUpdate_touch (State.modCtx_touch (State.modFrag_touch hv hp) hp) hs

theorem State.fragDropped_touch {u : State} {k : MergeKey} {id : Nat} (h : Touch P s u) (hs : ∀ c, storeParts c → P c) :
    Touch P s (u.fragDropped k id) :=
  State.modCtx_touch (State.ownLoss_touch (State.modFrag_touch (State.freeItem_touch h (hs _ trivial)) (hs _ trivial)) hs)
    (hs _ trivial)

/-- An own fragment that opens changes what storing changes, and what the comparison of its queue's pointers does. -/
theorem State.openFrag_touch {u : State} (k : MergeKey) (h : Touch P s u) (hc : Touch P s (u.checkQueue (u.ownQueue k)))
    (hs : ∀ c, storeParts c → P c) (hf : P .free) : Touch P s (u.openFrag k).2 := by
  have hp : P .pool := hs _ trivial
  have hitem : Touch P s (u.fragItem k) := State.modItem_touch (State.newItem_touch (Touch.ite h hc) hp) hp
  have hgrown := State.growItem_touch (fuel := 2) (id := u.fragId k) (n := 1) hitem hs
  cases hg : u.frag k with
  | none => simpa [State.openFrag, hg] using h
  | some g =>
    cases ho : g.opened with
    | true => rw [State.openFrag_opened hg ho]; exact h
    | false =>
      cases hw : u.transfersWait with
      | true => rw [State.openFrag_testing hg ho hw]; exact h
      | false =>
        rcases hr : State.growItem 2 (u.fragItem k) (u.fragId k) 1 with ⟨r, v⟩
        rw [hr] at hgrown
        cases r with
        | done => rw [State.openFrag_done hg ho hw hr]; exact State.fragOpened_touch hgrown hs hf
        | full => rw [State.openFrag_full hg ho hw hr]; exact State.fragDropped_touch hgrown hs
        | waits => rw [State.openFrag_waits hg ho hw hr]; exact State.freeItem_touch hgrown hp

/-! ## The count of a dropped fragment (R189, R195) -/

theorem State.getF_incWrap_same (s : State) (f : RF) (n : Nat) (h : f.lo + f.w ≤ 32) :
    (s.incWrap f n).getF f = (s.getF f + n) % 2 ^ f.w := by
  rw [State.incWrap, State.getF_setF_same _ _ _ h, Nat.mod_mod]

/-- A choice by folding is one of the list, where there is any. -/
theorem foldl_choice {α : Type} {f : Option α → α → Option α} (hf : ∀ b i, f b i = some i ∨ (f b i = b ∧ b ≠ none))
    (l : List α) (b : Option α) : (l.foldl f b = none → b = none ∧ l = []) ∧ (∀ i, l.foldl f b = some i → i ∈ l ∨ b = some i) := by
  induction l generalizing b with
  | nil => exact ⟨fun h => ⟨h, rfl⟩, fun i h => .inr h⟩
  | cons a l ih =>
    obtain ⟨hnone, hsome⟩ := ih (f b a)
    refine ⟨fun h => ?_, fun i h => ?_⟩
    · have hfa := (hnone h).1
      rcases hf b a with e | ⟨e, hb⟩
      · rw [e] at hfa; cases hfa
      · exact absurd (e.symm.trans hfa) hb
    · rcases hsome i h with hi | hi
      · exact .inl (List.mem_cons_of_mem _ hi)
      · rcases hf b a with e | ⟨e, -⟩
        · rw [e] at hi
          cases hi
          exact .inl (List.mem_cons_self ..)
        · exact .inr (e ▸ hi)

/-- An item that the overwrite of R189 may take from queue `q`. -/
def State.candidate (s : State) (q : Nat) (i : Item) : Bool := i.queue = q ∧ i.complete ∧ ¬ s.begunAny i ∧ ¬ i.hidden

theorem State.victim_spec (s : State) (q : Nat) : (s.victim q = none ↔ ∀ i ∈ s.pool.items, s.candidate q i = false) ∧
    (∀ i, s.victim q = some i → i.queue = q) := by
  have hchoice := foldl_choice (α := Item) (f := fun b i => match b with
    | none => some i
    | some j => if j.cls.code < i.cls.code ∨ (i.cls.code = j.cls.code ∧ i.age < j.age) then some i else some j) (by
      intro b i
      cases b with
      | none => exact .inl rfl
      | some j =>
        dsimp only
        split
        · exact .inl rfl
        · exact .inr ⟨rfl, by simp⟩) (s.pool.items.filter (s.candidate q)) none
  refine ⟨⟨fun h => ?_, fun h => ?_⟩, fun i h => ?_⟩
  · simpa [List.filter_eq_nil_iff] using (hchoice.1 h).2
  · have hnil : s.pool.items.filter (s.candidate q) = [] := by simpa [List.filter_eq_nil_iff] using h
    show List.foldl _ none (s.pool.items.filter (s.candidate q)) = none
    rw [hnil]
    rfl
  · rcases hchoice.2 i h with hm | hm
    · have := (List.mem_filter.1 hm).2
      simp only [State.candidate, decide_eq_true_eq] at this
      exact this.1
    · cases hm

/-- A loss in another queue leaves the counter of OUTPUT's losses as it is. -/
theorem State.loseItem_outputLost {i : Item} (h : i.queue ≠ 0) : (s.loseItem i).word 0x3018 = s.word 0x3018 := by
  have hc : ∀ (v : State), (v.countLost i.queue 1).word 0x3018 = v.word 0x3018 := by
    intro v
    unfold State.countLost
    split
    · next hq =>
      rw [hq.resolve_left h]
      exact State.setF_word_other v _ (by decide)
    · exact State.setF_word_other v _ (by decide)
  exact hc _

theorem State.overwrite_outputLost (fuel : Nat) {s : State} {q : Nat} (h : q ≠ 0 ∨ s.victim 0 = none) :
    (State.overwrite fuel s q).2.word 0x3018 = s.word 0x3018 := by
  induction fuel generalizing s with
  | zero => rfl
  | succ k ih =>
    rw [State.overwrite]
    split
    · rfl
    · next i hi =>
      have hq : q ≠ 0 := fun e => by
        subst e
        rcases h with h | h
        · exact h rfl
        · rw [hi] at h; cases h
      have hl : (s.loseItem i).word 0x3018 = s.word 0x3018 :=
        State.loseItem_outputLost fun e => hq (((s.victim_spec q).2 i hi).symm.trans e)
      dsimp only
      split
      · exact hl
      · exact (ih (.inl hq)).trans hl

theorem State.takeSlot_outputLost {q : Nat} (h : s.victim 0 = none) : (s.takeSlot q).2.2.word 0x3018 = s.word 0x3018 := by
  rw [State.takeSlot]
  split
  · next r hr =>
    split at hr
    · rw [State.allocSlot] at hr
      split at hr <;> cases hr
      rfl
    · cases hr
  · split
    · rfl
    · have ho := State.overwrite_outputLost s.pool.items.length (q := q) (.inr h)
      split <;> (next e => rw [e] at ho; exact ho)

/-- The first slot of an item takes no more than one from its queue. -/
theorem State.growItem_first_outputLost {fuel id : Nat} (h : s.victim 0 = none) :
    (State.growItem (fuel + 1) s id 1).2.word 0x3018 = s.word 0x3018 := by
  have hsame : ∀ (f : Nat) (u : State) (k : Nat),
      (State.growItem f (u.modItem id fun i => { i with slots := i.slots ++ [k], homes := i.homes ++ [i.queue] }) id 1).2 =
        u.modItem id fun i => { i with slots := i.slots ++ [k], homes := i.homes ++ [i.queue] } := by
    intro f u k
    cases f with
    | zero => rfl
    | succ f =>
      rw [State.growItem, State.item_modItem_same _ _ (by exact fun _ h => h)]
      cases u.item id with
      | none => rfl
      | some i => simp
  rw [State.growItem]
  split
  · rfl
  · next i _ =>
    have ht := State.takeSlot_outputLost (q := i.queue) h
    split
    · rfl
    · split <;> (rename_i e; rw [e] at ht)
      · rw [hsame]; exact ht
      · exact ht

end Sys2Proof.Machine

namespace Sys2Proof.Machine

variable {s t : State} {P : Comp → Prop}

/-! ## An own fragment opens at a leaf (R158, R530) -/

theorem State.merging_of_tri (h : Tab.get {} t.prot.tri 1 = Tab.get {} s.prot.tri 1) : t.merging = s.merging := by
  rw [State.merging, State.role, State.triBits, State.triWord, h]
  rfl

/-- The state with a further item that holds no slot. -/
def State.withItem (s : State) (x : Item) : State :=
  { s with pool := { s.pool with items := s.pool.items ++ [x], nextItem := s.pool.nextItem + 1 } }

/-- The allocator's search goes on with the bank behind slot `n` (R181). -/
def State.bankPast (s : State) (n : Nat) : State := { s with pool := { s.pool with bankPtr := (n / 16384 + 1) % 12 } }

theorem State.allocSlot_of_free {n : Nat} (h : s.freeInBanks 12 s.pool.bankPtr = some n) : s.allocSlot = some (n, s.bankPast n) := by
  rw [State.allocSlot, h]
  rfl

section
variable {x : Item} (hx : x.slots = [])
include hx

theorem State.withItem_usedBy (q : Nat) : (s.withItem x).usedBy q = s.usedBy q := by
  unfold State.usedBy State.withItem
  dsimp only
  rw [List.filter_append, List.map_append, List.sum_append, List.filter_singleton]
  cases decide (x.queue = q ∨ q = 0 ∧ x.queue = noQueue) <;> simp [hx]

theorem State.withItem_canGrow (q : Nat) : (s.withItem x).canGrow q = s.canGrow q := by
  have hu : ∀ q, (s.withItem x).usedBy q = s.usedBy q := State.withItem_usedBy hx
  have hc : (s.withItem x).committedSlots = s.committedSlots := by
    unfold State.committedSlots
    simp only [hu]
    rfl
  have hf : (s.withItem x).freeShared = s.freeShared := by
    rw [State.freeShared, hc]
    rfl
  rw [State.canGrow, hu, hf]
  rfl

theorem State.withItem_freeFrom (fuel n : Nat) : (s.withItem x).freeFrom fuel n = s.freeFrom fuel n := by
  have ht : ∀ n, (s.withItem x).slotTaken n = s.slotTaken n := by
    intro n
    unfold State.slotTaken
    show (_ || (s.pool.items ++ [x]).any _ || _) = _
    rw [List.any_append]
    simp only [List.any_cons, hx, List.contains_nil, List.any_nil, Bool.or_false]
    rfl
  induction fuel generalizing n with
  | zero => rfl
  | succ k ih => rw [State.freeFrom, ht, ih, State.freeFrom]

theorem State.withItem_freeInBanks (fuel b : Nat) : (s.withItem x).freeInBanks fuel b = s.freeInBanks fuel b := by
  induction fuel generalizing b with
  | zero => rfl
  | succ k ih =>
    rw [State.freeInBanks, State.freeInBanks, State.withItem_freeFrom hx, ih]
    rfl

theorem State.withItem_takeSlot {n : Nat} (hg : s.canGrow x.queue = true) (hn : s.freeInBanks 12 s.pool.bankPtr = some n) :
    (s.withItem x).takeSlot x.queue = (.done, n, (s.withItem x).bankPast n) := by
  have hfree : (s.withItem x).freeInBanks 12 (s.withItem x).pool.bankPtr = some n := (State.withItem_freeInBanks hx _ _).trans hn
  rw [State.takeSlot, State.withItem_canGrow hx, if_pos hg, State.allocSlot_of_free hfree]

omit hx in
theorem State.withItem_item (hid : s.item x.id = none) : (s.withItem x).item x.id = some x := by
  show List.find? _ (s.pool.items ++ [x]) = _
  rw [List.find?_append, show s.pool.items.find? (fun i => i.id = x.id) = none from hid]
  simp

omit hx in
theorem State.modItem_append {l : List Item} {f : Item → Item} (hid : l.find? (fun i => i.id = x.id) = none) :
    (l ++ [x]).map (fun i => if i.id = x.id then f i else i) = l ++ [f x] := by
  rw [List.map_append, List.map_singleton, if_pos rfl]
  congr 1
  refine (List.map_congr_left fun i hi => if_neg ?_).trans (List.map_id _)
  simpa using List.find?_eq_none.1 hid i hi

/-- An item whose number no other bears takes its first slot from the free map. -/
theorem State.withItem_growItem {n : Nat} (hid : s.item x.id = none) (hg : s.canGrow x.queue = true)
    (hn : s.freeInBanks 12 s.pool.bankPtr = some n) : ∃ t, State.growItem 2 (s.withItem x) x.id 1 = (.done, t) ∧
      t.poolUsed = s.poolUsed + 1 := by
  have hitem : ((s.withItem x).bankPast n).item x.id = some x := State.withItem_item hid
  rw [State.growItem, State.withItem_item hid]
  dsimp only
  rw [if_neg (by simp [hx]), State.withItem_takeSlot hx hg hn]
  dsimp only
  rw [State.growItem, State.item_modItem_same _ _ (by exact fun _ h => h), hitem]
  refine ⟨_, if_pos (by simp), ?_⟩
  unfold State.poolUsed State.modItem
  rw [State.setItems_items, show ((s.withItem x).bankPast n).pool.items = s.pool.items ++ [x] from rfl, State.modItem_append hid]
  show _ + s.pool.orphans.length = _
  simp only [hx, List.map_append, List.sum_append, List.map_cons, List.map_nil, List.nil_append, List.length_singleton,
    List.sum_singleton]
  omega

end

/-! ### The leaf's own frames -/

/-- The item of an own fragment at a leaf. -/
def ownItem (s : State) (k : MergeKey) : Item := { id := s.pool.nextItem, queue := 0, cls := ownClass k, slots := [], key := some k }

section
variable (hm : s.merging = false) (hc : (s.mem 5).cells = []) (k : MergeKey)

include hc in
theorem State.fragId_leaf : s.fragId k = s.pool.nextItem := by
  rw [State.fragId, State.checkQueue_intact hc, ite_self]

include hm

theorem State.ownQueue_leaf : s.ownQueue k = 0 := if_pos (.inl (by simp [hm]))

include hc

theorem State.fragItem_leaf : s.fragItem k =
    (s.newItem 0 (ownClass k)).modItem s.pool.nextItem fun i => { i with key := some k } := by
  unfold State.fragItem
  dsimp only
  rw [State.checkQueue_intact hc, ite_self, State.ownQueue_leaf hm]

theorem State.fragItem_leaf_fresh (hid : s.item s.pool.nextItem = none) : s.fragItem k = s.withItem (ownItem s k) := by
  rw [State.fragItem_leaf hm hc]
  unfold State.newItem State.modItem State.setItems State.withItem
  dsimp only
  rw [State.modItem_append (x := { id := s.pool.nextItem, queue := 0, cls := ownClass k, slots := [] }) hid]
  rfl

theorem State.fragGrown_leaf_fresh (hid : s.item s.pool.nextItem = none) (hg : s.canGrow 0 = true)
    (hfree : (s.freeInBanks 12 s.pool.bankPtr).isSome = true) : ∃ u, State.growItem 2 (s.fragItem k) (s.fragId k) 1 = (.done, u) ∧
      u.poolUsed = s.poolUsed + 1 := by
  obtain ⟨n, hn⟩ := Option.isSome_iff_exists.1 hfree
  rw [State.fragItem_leaf_fresh hm hc k hid, State.fragId_leaf hc]
  exact State.withItem_growItem (x := ownItem s k) rfl hid hg hn

/-- A new own fragment leaves the overwrite no candidate that there was not. -/
theorem State.fragItem_leaf_victim (h : s.victim 0 = none) : (s.fragItem k).victim 0 = none := by
  have hbegun : ∀ i, (s.fragItem k).begunAny i = s.begunAny i := by
    intro i
    rw [State.fragItem_leaf hm hc]
    simp only [State.begunAny, State.modItem, State.setItems, State.newItem, List.any_map, List.any_append, List.any_cons,
      List.any_nil, Function.comp_def]
    simp only [apply_ite Item.holder, apply_ite Item.begun, ite_self]
    simp
  refine ((State.victim_spec _ 0).1).2 fun i hi => ?_
  have hnone := ((s.victim_spec 0).1).1 h
  rw [State.fragItem_leaf hm hc] at hi
  obtain ⟨j, hj, rfl⟩ := List.mem_map.1 hi
  have hcand : (s.fragItem k).candidate 0 (if j.id = s.pool.nextItem then { j with key := some k } else j) = s.candidate 0 j := by
    unfold State.candidate
    simp only [hbegun]
    split <;> rfl
  rw [hcand]
  rcases List.mem_append.1 hj with hj | hj
  · exact hnone j hj
  · rw [List.mem_singleton.1 hj]
    simp [State.candidate]

end

theorem State.ownLoss_leaf (h : s.merging = false) : s.ownLoss = s.incWrap (R.queueLost 0) 1 := if_neg (by simp [h])

/-- A fragment that a leaf drops counts one in OUTPUT's losses, where the overwrite finds no candidate there. -/
theorem State.fragDropped_leaf_count {k : MergeKey} {u : State} (hm : s.merging = false) (hc : (s.mem 5).cells = [])
    (hv : s.victim 0 = none) (hr : State.growItem 2 (s.fragItem k) (s.fragId k) 1 = (.full, u)) :
    (u.fragDropped k (s.fragId k)).getF (R.queueLost 0) = (s.getF (R.queueLost 0) + 1) % 2 ^ 32 := by
  have hitem : Touch storeParts s (s.fragItem k) := by
    rw [State.fragItem_leaf hm hc]
    exact State.modItem_touch (State.newItem_touch (Touch.refl _ s) trivial) trivial
  have htouch : Touch storeParts s u := by
    have hgrown := State.growItem_touch (fuel := 2) (id := s.fragId k) (n := 1) hitem fun _ h => h
    rwa [hr] at hgrown
  have hmu : u.merging = false := (State.merging_of_tri (htouch.tri (i := 1) (by simp [storeParts]))).trans hm
  have hword : u.word 0x3018 = s.word 0x3018 := by
    have hgrown := State.growItem_first_outputLost (fuel := 1) (id := s.fragId k) (State.fragItem_leaf_victim hm hc k hv)
    rw [hr, State.fragItem_leaf hm hc] at hgrown
    exact hgrown
  show State.getF (State.ownLoss _) (R.queueLost 0) = _
  rw [State.ownLoss_leaf (by exact hmu), State.getF_incWrap_same _ _ _ (by decide)]
  show (u.getF (R.queueLost 0) + 1) % 2 ^ 32 = _
  rw [State.getF, show u.word (R.queueLost 0).off = s.word (R.queueLost 0).off from hword, State.getF]

/-- What the opening of a leaf's own fragment makes of it (R158, R530). -/
structure OwnOpening (s : State) (k : MergeKey) (t : State) (g : Frag) : Prop where
  frag : t.frag k = some g
  opened : s.pool.excludedBank = none → s.transfersWait = false → g.opened = true
  closed : g.closed = false
  body : g.body = []
  lost : g.dropped = true → g.item = none ∧ (s.victim 0 = none → t.getF (R.queueLost 0) = (s.getF (R.queueLost 0) + 1) % 2 ^ 32)
  testing : s.transfersWait = true → g.opened = false ∧ t.poolUsed = s.poolUsed
  slot : s.canGrow 0 = true → (s.freeInBanks 12 s.pool.bankPtr).isSome = true → s.item s.pool.nextItem = none →
    s.transfersWait = false → g.opened = true ∧ g.dropped = false ∧ g.item = some s.pool.nextItem ∧ t.poolUsed = s.poolUsed + 1
  frame : Frame (fun c => storeParts c ∨ c = .free) s t

theorem State.fragOpened_poolUsed (s : State) (k : MergeKey) (id : Nat) : (s.fragOpened k id).poolUsed = s.poolUsed := by
  refine (State.throttleUpdate_poolUsed _).trans ?_
  cases s.item id <;> rfl

/-- An own fragment that is there and has not opened. -/
theorem openFrag_leaf {k : MergeKey} {g : Frag} (hm : s.merging = false) (hc : (s.mem 5).cells = []) (hg : s.frag k = some g)
    (ho : g.opened = false) (hcl : g.closed = false) (hb : g.body = []) (hd : g.dropped = false) (hi : g.item = none) :
    ∃ x, OwnOpening s k (s.openFrag k).2 x := by
  have hchk : ∀ q, s.checkQueue q = s := fun q => State.checkQueue_intact hc
  have hframe : Frame (fun c => storeParts c ∨ c = .free) s (s.openFrag k).2 :=
    (State.openFrag_touch k (Touch.refl _ s) (by rw [hchk]; exact Touch.refl _ s) (fun _ h => .inl h) (.inr rfl)).frame
  rcases State.openFrag_cases hg with ⟨h, -⟩ | ⟨-, hw, h⟩ | ⟨-, hw, u, hu, ⟨hr, h⟩ | ⟨hr, h⟩ | ⟨hr, hx, h⟩⟩
  · rw [ho] at h
    cases h
  · rw [h] at hframe ⊢
    exact ⟨g, hg, fun _ h => by simp [hw] at h, hcl, hb, fun h => by simp [hd] at h, fun _ => ⟨ho, rfl⟩,
      fun _ _ _ h => by simp [hw] at h, hframe⟩
  · rw [h] at hframe ⊢
    have hfrag : (u.fragOpened k (s.fragId k)).frag k = some { g with opened := true, item := some (s.fragId k) } := by
      rw [State.fragOpened_frag, stage_frag hu, hg, Option.map_some]
    refine ⟨_, hfrag, fun _ _ => rfl, hcl, hb, fun h => by simp [hd] at h,
      fun h => by simp [hw] at h, fun hgrow hfree hnone _ => ⟨rfl, hd, congrArg some (State.fragId_leaf hc k), ?_⟩, hframe⟩
    obtain ⟨v, hv, hused⟩ := State.fragGrown_leaf_fresh hm hc k hnone hgrow hfree
    cases hr.symm.trans hv
    exact (u.fragOpened_poolUsed k _).trans hused
  · rw [h] at hframe ⊢
    have hfrag : (u.fragDropped k (s.fragId k)).frag k = some { g with opened := true, dropped := true } := by
      rw [State.fragDropped_frag, stage_frag hu, hg, Option.map_some]
    refine ⟨_, hfrag, fun _ _ => rfl, hcl, hb, fun _ => ⟨hi, fun hv => ?_⟩,
      fun h => by simp [hw] at h, fun hgrow hfree hnone _ => ?_, hframe⟩
    · exact State.fragDropped_leaf_count hm hc hv hr
    · obtain ⟨v, hv, -⟩ := State.fragGrown_leaf_fresh hm hc k hnone hgrow hfree
      cases hr.symm.trans hv
  · rw [h] at hframe ⊢
    refine ⟨g, (stage_frag hu k).trans hg, fun hn => by simp [hn] at hx, hcl, hb, fun h => by simp [hd] at h,
      fun h => by simp [hw] at h, fun hgrow hfree hnone _ => ?_, hframe⟩
    obtain ⟨v, hv, -⟩ := State.fragGrown_leaf_fresh hm hc k hnone hgrow hfree
    cases hr.symm.trans hv

end Sys2Proof.Machine

namespace Sys2Proof.Machine

variable {s t : State} {P : Comp → Prop}

/-! ## WRITE_STAGE_COMPLETE (R185, R191, R193) -/

theorem State.storeHeld_of_none (h : s.pool.held = []) : s.storeHeld = s := by
  rw [State.storeHeld, h]
  show ({ s with pool := { s.pool with held := [] } } : State) = s
  rw [← h]

theorem writeStageComplete_due (hw : s.transfersWait = false) (hc : (s.mem 5).cells = []) (hheld : s.pool.held = []) :
    exec .writeStageComplete s = .next s.stageStep := by
  show execWriteStageComplete s = _
  rw [execWriteStageComplete, if_neg (by simp [hw]), State.readMap_intact hc, State.storeHeld_of_none hheld]

/-- No fragment awaits its rewrite, and no own fragment has closed. -/
theorem State.stageStep_of_none (h : s.pool.toComplete = []) (hg : ∀ g ∈ s.pool.frags, g.closed = false) : s.stageStep = s := by
  unfold State.stageStep
  rw [h]
  dsimp only [List.findSome?_nil]
  rw [List.findSome?_eq_none_iff.2]
  · rfl
  · intro g hm
    simp [hg g hm]

/-! ### A fragment takes its final form -/

theorem State.completeItem_item {id : Nat} {i : Item} (hi : s.item id = some i) : (s.completeItem id).item id =
    some { i with words := [], length := i.words.length, complete := true, age := s.pool.nextAge,
                  slots := i.slots.take (slotsFor i.words.length), homes := i.homes.take (slotsFor i.words.length) } := by
  have hid := State.id_of_item hi
  unfold State.completeItem
  rw [hi]
  dsimp only
  rw [State.writeSlots, State.writePool]
  show State.item (State.modItem _ id _) id = _
  rw [State.item_modItem_same _ _ (by exact fun _ _ => hid)]
  show Option.map _ (s.item id) = _
  rw [hi, Option.map_some]

/-- An item of which the words are complete: what its header says is kept (R159-R161). -/
theorem State.completeFragment_spec {id : Nat} {i : Item} (hi : s.item id = some i) (key : MergeKey) (bank : Option Bool) :
    ∃ x, (s.completeFragment id key bank).item id = some x ∧ x.id = id ∧ x.complete = true ∧ x.length = i.words.length ∧
      x.age = s.pool.nextAge ∧ x.key = some key := by
  have hid := State.id_of_item hi
  unfold State.completeFragment
  rw [hi]
  dsimp only
  rw [State.item_modItem_same _ _ (by exact fun _ h => h), State.completeItem_item hi]
  exact ⟨_, rfl, hid, rfl, rfl, rfl, rfl⟩

theorem State.completeFragment_touch {u : State} {id : Nat} {key : MergeKey} {bank : Option Bool} (h : Touch P s u)
    (hs : ∀ c, storeParts c → P c) : Touch P s (u.completeFragment id key bank) := by
  unfold State.completeFragment
  split
  · exact h
  · exact State.modItem_touch (State.completeItem_touch h hs) (hs _ trivial)

/-- Only the pool's items and memory and the count of ages change as a fragment takes its final form. -/
theorem State.completeFragment_keeps (s : State) (id : Nat) (key : MergeKey) (bank : Option Bool) :
    let t := s.completeFragment id key bank
    t.stage = s.stage ∧ t.prot = s.prot ∧ t.cfg = s.cfg ∧ t.pair = s.pair ∧ t.pool.ctxs = s.pool.ctxs ∧
      t.pool.toComplete = s.pool.toComplete := by
  have hc : (s.completeItem id).stage = s.stage ∧ (s.completeItem id).prot = s.prot ∧ (s.completeItem id).cfg = s.cfg ∧
      (s.completeItem id).pair = s.pair ∧ (s.completeItem id).pool.ctxs = s.pool.ctxs ∧ (s.completeItem id).pool.toComplete = s.pool.toComplete := by
    unfold State.completeItem
    split <;> exact ⟨rfl, rfl, rfl, rfl, rfl, rfl⟩
  unfold State.completeFragment
  split
  · exact ⟨rfl, rfl, rfl, rfl, rfl, rfl⟩
  · exact hc

/-! ### An own fragment at a leaf -/

/-- The words of an own fragment that closes uncompressed. -/
def State.ownWords (s : State) (g : Frag) : List PWord := sealFragment { s.ownHead g with bodyWords := g.body.length } g.body

/-- An own fragment is done with. -/
def State.fragDone (s : State) (k : MergeKey) : State :=
  { s with pool := { s.pool with frags := s.pool.frags.filter fun x => x.key ≠ k } }

/-- An item of which the words are given anew. -/
def State.giveWords (s : State) (id : Nat) (ws : List PWord) : State := s.modItem id fun x => { x with words := ws }

theorem State.fragDone_frag (s : State) (k : MergeKey) : (s.fragDone k).frag k = none := by
  refine List.find?_eq_none.2 fun x hx => ?_
  have := (List.mem_filter.1 hx).2
  simpa using this

section
variable {g : Frag} {i : Item} (hm : s.merging = false) (hc : (s.mem 5).cells = []) (hd : g.dropped = false)
  (hi : g.item.bind s.item = some i) (hroom : slotsFor (s.ownWords g).length ≤ i.slots.length)
include hm hc hd hi hroom

/-- At a leaf an own fragment that has room completes in OUTPUT. -/
theorem State.ownComplete_leaf : s.ownComplete g =
    some ((((s.giveWords i.id (s.ownWords g)).completeFragment i.id g.key g.bank).fragDone g.key).throttleUpdate) := by
  have hitem := State.bind_item_self hi
  have hgiven : (s.giveWords i.id (s.ownWords g)).item i.id = some { i with words := s.ownWords g } := by
    rw [State.giveWords, State.item_modItem_same _ _ (by exact fun _ h => h), hitem, Option.map_some]
  have hgrow := State.grow_enough (fuel := slotsFor (s.ownWords g).length) hgiven hroom
  have hkeeps := (s.giveWords i.id (s.ownWords g)).completeFragment_keeps i.id g.key g.bank
  have hm' : ((s.giveWords i.id (s.ownWords g)).completeFragment i.id g.key g.bank).merging = false :=
    (State.merging_of_tri (by rw [hkeeps.2.1]; rfl)).trans hm
  have hview : ∀ x, ((s.giveWords i.id (s.ownWords g)).completeFragment i.id g.key g.bank).addView x =
      (s.giveWords i.id (s.ownWords g)).completeFragment i.id g.key g.bank := fun x => if_pos (by simp [State.paired, hm'])
  obtain ⟨x, hx, -⟩ := State.completeFragment_spec hgiven g.key g.bank
  have hfinish : s.finishFragment (s.ownHead g) g.body (s.covers (s.cfgF C.nodeSlot)) = (s.ownWords g, s) :=
    if_neg (by simp [State.covers_leaf hm])
  unfold State.ownComplete
  simp only [hi, State.checkQueue_intact hc, hd, hfinish]
  rw [show State.grow _ (s.modItem i.id fun x => { x with words := s.ownWords g }) i.id _ = _ from hgrow]
  dsimp only
  simp only [hx, hview, hm', Bool.false_eq_true, not_false_eq_true, if_true]
  rfl

theorem State.stageStep_leaf {l : List Frag} (hnone : s.pool.toComplete = []) (hfrags : s.pool.frags = g :: l)
    (hcl : g.closed = true) (ho : g.opened = true) (hwait : s.unitsWait g.key = false) : s.stageStep =
      (((s.giveWords i.id (s.ownWords g)).completeFragment i.id g.key g.bank).fragDone g.key).throttleUpdate := by
  have hg : s.frag g.key = some g := by simp [State.frag, hfrags]
  unfold State.stageStep
  rw [hnone, hfrags]
  dsimp only [List.findSome?_nil]
  rw [List.findSome?_cons]
  simp only [hcl, hwait, Bool.not_false, Bool.and_self, if_true, State.openFrag_opened hg ho, hg,
    State.ownComplete_leaf hm hc hd hi hroom, Option.getD_some]

end

/-! ### A child's fragment in its context -/

/-- An entry takes its fragment (R199). -/
def Entry.take (id : Nat) (e : Entry) : Entry := { e with st := .present, item := some id, lostByLink := false }

/-- A complete fragment stands in its context. -/
def State.inContext (s : State) (id : Nat) (k : MergeKey) (index : Nat) (mine : Entry → Bool) : State :=
  (s.modItem id fun i => { i with queue := 32 + index, hidden := false }).modCtx k fun c => c.modEntries mine (Entry.take id)

theorem State.ackFrame_pool (s : State) (p : Nat) (k : MergeKey) : (s.ackFrame p k).pool = s.pool := by
  unfold State.ackFrame
  split <;> rfl

section
variable {id p : Nat} {i : Item} {k : MergeKey} {c : Ctx} (hc : (s.mem 5).cells = []) (hi : s.item id = some i) (hk : i.key = some k)
  (hp : i.src = some p) (hq : i.queue ≠ 1) (hm : s.merges k = true) (hctx : s.ctx k = some c)
  (hroom : slotsFor i.words.length ≤ i.slots.length)
include hc hi hk hp hq hm hctx hroom

/-- A child's fragment that has room completes in its context. -/
theorem State.portComplete_context : s.portComplete i =
    some ((((s.completeFragment id k i.bank).inContext id k c.index (s.entryIs p)).ackFrame p k).throttleUpdate) := by
  have hid : i.id = id := State.id_of_item hi
  have hgrow := State.grow_enough (fuel := slotsFor i.words.length) hi hroom
  obtain ⟨-, -, hcfg, hpair, hctxs, -⟩ := s.completeFragment_keeps id k i.bank
  obtain ⟨x, hx, -⟩ := State.completeFragment_spec hi k i.bank
  have hm' : (s.completeFragment id k i.bank).merges k = true := by
    cases k with
    | frame f => rfl
    | event ns n =>
      rw [State.merges, State.cfgF, State.record, hcfg]
      exact hm
  have hctx' : (s.completeFragment id k i.bank).ctx k = some c := by rw [State.ctx, hctxs]; exact hctx
  have hmine : (s.completeFragment id k i.bank).entryIs p = s.entryIs p := by
    have hmate : ∀ q, (s.completeFragment id k i.bank).pairMate q = s.pairMate q := fun q =>
      congrArg (fun v : PairSt => Tab.get none v.mates q) hpair
    funext e
    unfold State.entryIs
    simp only [hmate]
  unfold State.portComplete
  rw [State.checkQueue_intact hc, hid, hgrow]
  simp only [hk, hp, State.placeFragment, hx, hq, decide_false, Bool.false_eq_true, if_false, hm', not_true_eq_false, hctx',
    hmine, Option.map_some, State.inContext]
  rfl

end

/-- What the context and the item of a child's fragment are then. -/
theorem State.inContext_spec {id index : Nat} {i : Item} {k : MergeKey} {c : Ctx} (mine : Entry → Bool) (hi : s.item id = some i)
    (hctx : s.ctx k = some c) : (s.inContext id k index mine).item id = some { i with queue := 32 + index, hidden := false } ∧
      (s.inContext id k index mine).ctx k = some (c.modEntries mine (Entry.take id)) := by
  refine ⟨?_, ?_⟩
  · show (s.modItem id _).item id = _
    rw [State.item_modItem_same _ _ (by exact fun _ h => h), hi, Option.map_some]
  · rw [State.inContext, State.ctx_modCtx_same _ _ (by exact fun _ => rfl)]
    show Option.map _ (s.ctx k) = _
    rw [hctx, Option.map_some]

/-! ## RECLAIM_PASS (R186, R326) -/

theorem State.setRaw_tables_raw (s : State) (a b : Nat) : (s.setRaw 5 a 0).raw 5 b = if b = a then 0 else s.raw 5 b := by
  have h : s.setRaw 5 a 0 = s.setMem 5 { s.mem 5 with cells := Tab.set 0 (s.mem 5).cells a 0,
                                                      ueSeen := (s.mem 5).ueSeen.filter (· ≠ a) } := by
    rw [State.setRaw, if_neg (by simp [State.unitRetired_tables])]
  rw [h, State.raw, State.setMem_mem_same]
  split
  · next hb => rw [hb, Tab.get_set_same]
  · next hb => rw [Tab.get_set_other _ _ _ hb, State.raw]

/-- Table words that are written anew read zero, and the others as before. -/
theorem State.tableWrite_raw (s : State) (l : List Nat) (b : Nat) :
    (s.tableWrite l).raw 5 b = if b ∈ l then 0 else s.raw 5 b := by
  have hfold : ∀ (l : List Nat) (v : State), (l.foldl (fun (v : State) (a : Nat) => v.setRaw 5 a 0) v).raw 5 b =
      if b ∈ l then 0 else v.raw 5 b := by
    intro l
    induction l with
    | nil => exact fun v => by simp
    | cons a l ih =>
      intro v
      rw [List.foldl_cons, ih, State.setRaw_tables_raw]
      by_cases hb : b = a <;> by_cases hl : b ∈ l <;> simp [hb, hl]
  unfold State.tableWrite
  split
  · next h => simp [State.raw, h, Tab.get]
  · exact hfold l s

theorem State.mapPoisoned_eq (s : State) (k : Nat) : s.mapPoisoned k = poisonedCw (s.raw 5 (Config.mapWord k)) := by
  unfold State.mapPoisoned State.raw
  split
  · next h => rw [h]; exact poisonedCw_zero.symm
  · rfl

theorem State.mapDamaged_eq_false (h : ∀ k, k < 1536 → s.mapPoisoned k = false) : s.mapDamaged = false := by
  unfold State.mapDamaged
  split
  · rfl
  · simpa [List.any_eq_false] using h

/-- The words of the free-slot map that read as poisoned are written anew. -/
def State.mapRewritten (s : State) : State := s.tableWrite (((List.range 1536).filter s.mapPoisoned).map Config.mapWord)

theorem State.mapRewritten_intact (s : State) : ∀ k, k < 1536 → s.mapRewritten.mapPoisoned k = false := by
  intro k hk
  rw [State.mapPoisoned_eq, State.mapRewritten, State.tableWrite_raw]
  split
  · exact poisonedCw_zero
  · next hn =>
    rw [← State.mapPoisoned_eq]
    by_contra hp
    exact hn (List.mem_map.2 ⟨k, List.mem_filter.2 ⟨List.mem_range.2 hk, by simpa using hp⟩, rfl⟩)

theorem State.tableWrite_pool (s : State) (l : List Nat) : (s.tableWrite l).pool = s.pool := by
  have hfold : ∀ (l : List Nat) (v : State), (l.foldl (fun (v : State) (a : Nat) => v.setRaw 5 a 0) v).pool = v.pool := by
    intro l
    induction l with
    | nil => exact fun v => rfl
    | cons a l ih => exact fun v => (ih _).trans (by
        show (v.setRaw 5 a 0).pool = v.pool
        rw [State.setRaw, if_neg (by simp [State.unitRetired_tables])]
        rfl)
  unfold State.tableWrite
  split
  · rfl
  · exact hfold l s

/-- The slots that no queue reaches are free, and no pass is due. -/
def State.reclaimed (s : State) : State := { s with pool := { s.pool with orphans := [], reclaimDue := false } }

theorem reclaimPass_due (h : s.pool.reclaimDue = true ∨ s.mapDamaged = true) (hw : s.transfersWait = false) :
    exec .reclaimPass s = .next s.mapRewritten.reclaimed.throttleUpdate := by
  show execReclaimPass s = _
  rw [execReclaimPass, if_pos ⟨h, by simp [hw]⟩]
  rfl

theorem State.reclaimed_spec (s : State) :
    let t := s.mapRewritten.reclaimed.throttleUpdate
    t.pool.orphans = [] ∧ t.pool.reclaimDue = false ∧ t.poolUsed + s.pool.orphans.length = s.poolUsed ∧ t.pool.items = s.pool.items ∧
      t.mapDamaged = false ∧ Frame (fun c => storeParts c ∨ c = .mem 5) s t := by
  intro t
  have hpool : s.mapRewritten.pool = s.pool := s.tableWrite_pool _
  have hitems : t.pool.items = s.pool.items := by
    rw [State.throttleUpdate_items]
    exact (congrArg PoolSt.items hpool : s.mapRewritten.pool.items = s.pool.items)
  have horph : t.pool.orphans = [] := State.throttleUpdate_orphans _
  obtain ⟨a, n, hagg⟩ := s.mapRewritten.reclaimed.throttleUpdate_pool
  have hmem : t.mem 5 = s.mapRewritten.mem 5 :=
    (State.throttleUpdate_touch (P := storeParts) (Touch.refl _ s.mapRewritten.reclaimed) fun _ h => h).same (c := .mem 5)
      (by simp [storeParts])
  refine ⟨horph, by show t.pool.reclaimDue = _; rw [hagg]; rfl, ?_, hitems, State.mapDamaged_eq_false fun k hk => ?_, ?_⟩
  · rw [State.poolUsed, horph, hitems, State.poolUsed]
    rfl
  · rw [State.mapPoisoned_eq, State.raw, hmem, ← State.raw, ← State.mapPoisoned_eq]
    exact s.mapRewritten_intact k hk
  · have hw : Touch (fun c => storeParts c ∨ c = .mem 5) s s.mapRewritten := State.tableWrite_touch (Touch.refl _ s) (.inr rfl)
    exact (State.throttleUpdate_touch (hw.pool (v := s.mapRewritten.reclaimed.pool) (.inl trivial) rfl) fun _ h => .inl h).frame

end Sys2Proof.Machine

namespace Sys2Proof.Machine

variable {s t : State} {P : Comp → Prop}

theorem Frame.trans {u : State} (h : Frame P s u) (h' : Frame P u t) : Frame P s t := fun c =>
  (h c).elim .inl fun hc => (h' c).imp_right hc.trans

/-! ## ORIGIN_FRAGMENT_OPEN and FRAME_CLOSE (R158, R193, R530) -/

theorem State.freeFrom_congr (ht : ∀ n, t.slotTaken n = s.slotTaken n) (fuel n : Nat) : t.freeFrom fuel n = s.freeFrom fuel n := by
  induction fuel generalizing n with
  | zero => rfl
  | succ k ih => rw [State.freeFrom, State.freeFrom, ht, ih]

/-- The allocator's search looks at the slots taken and at the bank under test. -/
theorem State.freeInBanks_congr (ht : ∀ n, t.slotTaken n = s.slotTaken n) (hx : t.pool.excludedBank = s.pool.excludedBank)
    (fuel b : Nat) : t.freeInBanks fuel b = s.freeInBanks fuel b := by
  induction fuel generalizing b with
  | zero => rfl
  | succ k ih => rw [State.freeInBanks, State.freeInBanks, State.freeFrom_congr ht, hx, ih]

/-- The state with a further own fragment. -/
def State.withFrag (s : State) (g : Frag) : State := { s with pool := { s.pool with frags := s.pool.frags ++ [g] } }

theorem State.newFrag_of_none {k : MergeKey} (hs : s.slotValid = true) (h : s.frag k = none) :
    s.newFrag k 0 0 false = s.withFrag { key := k, trigTime := 0 } := by
  unfold State.newFrag
  rw [if_neg (by simp [hs]), h]
  rfl

/-- At a leaf a frame's own fragment that was not there opens. -/
theorem State.newFrag_opens {k : MergeKey} (hs : s.slotValid = true) (hm : s.merging = false) (hc : (s.mem 5).cells = [])
    (hnone : s.frag k = none) : ∃ x, OwnOpening s k ((s.newFrag k 0 0 false).openFrag k).2 x := by
  have hfrag := State.newFrag_frag k hs
  rw [State.newFrag_of_none hs hnone, hnone, Option.getD_none] at hfrag
  rw [State.newFrag_of_none hs hnone]
  generalize hv : s.withFrag { key := k, trigTime := 0 } = v at hfrag
  have hbanks : v.freeInBanks 12 v.pool.bankPtr = s.freeInBanks 12 s.pool.bankPtr := by
    have hptr : v.pool.bankPtr = s.pool.bankPtr := by subst hv; rfl
    rw [hptr]
    refine State.freeInBanks_congr (fun n => ?_) ?_ _ _
    · subst hv
      unfold State.slotTaken
      rfl
    · subst hv
      rfl
  obtain ⟨x, hx⟩ := openFrag_leaf (by subst hv; exact hm) (by subst hv; exact hc) hfrag rfl rfl rfl rfl rfl
  have hnew : Touch (fun c => storeParts c ∨ c = .free) s v := by
    subst hv
    exact (Touch.refl _ s).pool (.inl trivial) rfl
  refine ⟨x, hx.frag, ?_, hx.closed, hx.body, ?_, ?_, ?_, Frame.trans hnew.frame hx.frame⟩
  · subst hv; exact hx.opened
  · subst hv; exact hx.lost
  · subst hv; exact hx.testing
  · rw [← hbanks]; subst hv; exact hx.slot

theorem originFragmentOpen_event (ns : BitVec 2) (n : BitVec 32) (h : s.frag (.event ns n) = none) :
    exec (.originFragmentOpen (.event ns n)) s = .next s := by
  show Host.Outcome.next (s.openFrag (.event ns n)).2 = _
  simp [State.openFrag, h]

theorem originFragmentOpen_frame (f : BitVec 32) : exec (.originFragmentOpen (.frame f)) s =
    .next (if s.ownFrame f ∧ s.freshFrame f then ((s.newFrag (.frame f) 0 0 false).openFrag (.frame f)).2 else s) := rfl

theorem originFragmentOpen_opened {k : MergeKey} {g : Frag} (hg : s.frag k = some g) (ho : g.opened = true) :
    exec (.originFragmentOpen k) s = .next s := by
  cases k with
  | frame f => rw [originFragmentOpen_frame, State.newFrag_of_some hg, State.openFrag_opened hg ho, ite_self]
  | event ns n =>
    show Host.Outcome.next (s.openFrag (.event ns n)).2 = _
    rw [State.openFrag_opened hg ho]

theorem State.freshFrame_iff (f : BitVec 32) : s.freshFrame f = true ↔ ∀ d, s.pool.frameDone = some d → olderFrame d f = true := by
  unfold State.freshFrame
  cases s.pool.frameDone <;> simp

/-- A frame closes in its turn, GUARD after its end. -/
def State.closeDue (s : State) (f : BitVec 32) : Bool :=
  s.ownFrame f && reached s.time.coarse (frameTick (f + 1) + BitVec.ofNat 48 (s.cfgF C.guard)) &&
    (match s.pool.frameDone with | some d => f = d + 1 | none => s.time.firstFrame = some f)

theorem State.slotValid_of_ownFrame {f : BitVec 32} (h : s.ownFrame f = true) : s.slotValid = true := by
  simp only [State.ownFrame, Bool.and_eq_true] at h
  obtain ⟨⟨⟨hslot, -⟩, -⟩, -⟩ := h
  exact hslot

theorem State.ownFrame_of_closeDue {f : BitVec 32} (h : s.closeDue f = true) : s.ownFrame f = true := by
  simp only [State.closeDue, Bool.and_eq_true] at h
  obtain ⟨⟨hown, -⟩, -⟩ := h
  exact hown

/-- The state in which frame `f` is the last one that has closed. -/
def State.frameClosed (s : State) (f : BitVec 32) : State :=
  let u := ((s.newFrag (.frame f) 0 0 false).openFrag (.frame f)).2.modFrag (.frame f) fun g => { g with closed := true }
  { u with pool := { u.pool with frameDone := some f } }

theorem frameClose_eq (f : BitVec 32) : exec (.frameClose f) s = .next (if s.closeDue f then s.frameClosed f else s) := by
  have hdue : s.closeDue f = true ↔ s.ownFrame f = true ∧ (match s.pool.frameDone with
      | some d => some (d + 1) | none => s.time.firstFrame) = some f ∧
        reached s.time.coarse (frameTick (f + 1) + BitVec.ofNat 48 (s.cfgF C.guard)) = true := by
    unfold State.closeDue
    generalize reached s.time.coarse _ = late
    cases s.pool.frameDone with
    | none =>
      simp only [Bool.and_eq_true, decide_eq_true_eq]
      tauto
    | some d =>
      simp only [Bool.and_eq_true, decide_eq_true_eq, Option.some.injEq, eq_comm (a := d + 1)]
      tauto
  show Host.Outcome.next _ = _
  simp only [hdue]
  rfl

theorem State.frameClosed_spec {f : BitVec 32} (h : s.slotValid = true) : ∃ g, (s.frameClosed f).frag (.frame f) = some g ∧
    g.closed = true ∧ (s.pool.excludedBank = none → s.transfersWait = false → g.opened = true) ∧
    Frame (fun c => queueParts c ∨ c = .free) s (s.frameClosed f) := by
  have hfab := s.newFrag_fabric (.frame f) 0 0 false
  obtain ⟨x, hx, ho⟩ := State.openFrag_frag (State.newFrag_frag (.frame f) h)
  have hq : ∀ c, queueParts c → queueParts c ∨ c = .free := fun _ => .inl
  have hs : ∀ c, storeParts c → queueParts c ∨ c = .free := fun c hc => hq c (by unfold queueParts memParts logParts; tauto)
  have hnew : Touch (fun c => queueParts c ∨ c = .free) s (s.newFrag (.frame f) 0 0 false) :=
    State.newFrag_touch (Touch.refl _ s) (hs _ trivial)
  have hopen := State.openFrag_touch (.frame f) hnew (State.checkQueue_touch hnew hq) hs (.inr rfl)
  refine ⟨{ x with closed := true }, ?_, rfl, fun hn hw => ho ((fabric_excluded hfab).trans hn)
    (by rw [State.transfersWait, fabric_test hfab]; exact hw),
    ((State.modFrag_touch hopen (hs _ trivial)).pool (v := (s.frameClosed f).pool) (hs _ trivial) rfl).frame⟩
  show State.frag (State.modFrag _ _ _) _ = _
  rw [State.frag_modFrag_same _ _ (by exact fun _ => rfl), hx, Option.map_some]

end Sys2Proof.Machine

namespace Sys2Proof.Machine

variable {s t : State} {P : Comp → Prop}

/-! ## What the chip arbiter grants (R32, R195) -/

/-- The cycle goes on behind requester `r`. -/
def State.cycleTo (s : State) (r : Nat) : State := { s with pool := { s.pool with arbPos := (r + 1) % 25 } }

/-- The words of one grant. -/
def State.grantWords (s : State) (r : Nat) : Nat := min (16 * (1 + min 3 (s.waitingWords r / 128))) (s.waitingWords r)

theorem State.strikePort_cycleTo (p r : Nat) (ups : List (Nat × BitVec 64)) :
    ((s.cycleTo r).strikePort p ups).port p = (s.strikePort p ups).port p := by
  unfold State.strikePort
  split
  · rfl
  · rw [State.setPort_port_same, State.setPort_port_same]
    rfl

section
variable {r : Fin 25} {ups : List (Nat × BitVec 64)} (hr : s.nextRequester = some r.val) (hw : s.transfersWait = false)
  (hc : (s.mem 5).cells = [])
include hr hw hc

theorem chipGrant_port (hport : r.val ≤ 16) : let fifo := ((s.strikePort (reqPort r) (ups.filter fun u => u.1 < s.grantWords r)).port
      (reqPort r)).fifo
    ∃ t k, exec (.chipGrant ⟨r, ups⟩) s = .next t ∧ t.pool.arbPos = (r.val + 1) % 25 ∧ k ≤ s.grantWords r ∧
      (t.port (reqPort r)).fifo = fifo.drop k ∧ (s.pool.excludedBank = none → s.test.logic ≠ some 1 →
        (∀ f ∈ fifo.take (s.grantWords r), f.first = true → mergeKeyOf f.word = none) → k = s.grantWords r) := by
  intro fifo
  obtain ⟨hpool, htest, hlen⟩ := (s.cycleTo r).strikePort_spec (reqPort r) (ups.filter fun u => u.1 < s.grantWords r)
  have hstruck := State.strikePort_cycleTo (s := s) (reqPort r) r (ups.filter fun u => u.1 < s.grantWords r)
  obtain ⟨k, hk, hdrop, harb, hall⟩ := State.grantPort_spec
    ((s.cycleTo r).strikePort (reqPort r) (ups.filter fun u => u.1 < s.grantWords r)) (reqPort r) (s.grantWords r)
  have hle : s.grantWords r ≤ ((s.cycleTo r).port (reqPort r)).fifo.length :=
    (Nat.min_le_right _ _).trans_eq (State.waitingWords_port hport)
  refine ⟨_, k, (chipGrant_due hr hw hc).trans (congrArg _ (if_pos hport)), ?_, hk, ?_, fun hx hl hf => ?_⟩
  · exact harb.trans (congrArg PoolSt.arbPos hpool)
  · rw [hstruck] at hdrop
    exact hdrop
  · rw [hlen, hpool, htest, hstruck] at hall
    exact hall hle hx hl hf

theorem chipGrant_region (hregion : 17 ≤ r.val) :
    exec (.chipGrant ⟨r, ups⟩) s = .next (State.grantRegion (s.grantWords r + 1) (s.cycleTo r) (r - 17) (s.grantWords r)) :=
  (chipGrant_due hr hw hc).trans (congrArg _ (if_neg (by omega)))

end

theorem State.grantRegion_part {n r m : Nat} {u : Unit'} {l : List Unit'} (hu : Tab.get [] s.pool.regFifo r = u :: l)
    (hm : m < u.words.length - Tab.get 0 s.pool.regDone r) : State.grantRegion (n + 1) s r m =
      { s with pool := { s.pool with regDone := Tab.set 0 s.pool.regDone r (Tab.get 0 s.pool.regDone r + m) } } := by
  rw [State.grantRegion, hu]
  exact if_pos hm

section
variable {n r m : Nat} {u : Unit'} (hu : Tab.get [] s.pool.regFifo r = [u]) (hm : u.words.length - Tab.get 0 s.pool.regDone r ≤ m)
  (hs : (s.storeUnit u).1 = true)
include hu hm hs

theorem State.grantRegion_lone_fifo : Tab.get [] (State.grantRegion (n + 1) s r m).pool.regFifo r = [] := by
  rw [State.grantRegion_lone hu hm hs]
  exact Tab.get_set_same ..

theorem State.grantRegion_lone_frag (k : MergeKey) : (State.grantRegion (n + 1) s r m).frag k = (s.storeUnit u).2.frag k := by
  rw [State.grantRegion_lone hu hm hs]
  rfl

end

/-! ## WRITE_STAGE_COMPLETE, whole -/

theorem writeStageComplete_idle (h : s.transfersWait = true ∨ ((s.mem 5).cells = [] ∧ s.pool.held = [] ∧ s.pool.toComplete = [] ∧
    ∀ g ∈ s.pool.frags, g.closed = false)) : exec .writeStageComplete s = .next s := by
  rcases h with hw | ⟨hc, hheld, hnone, hopen⟩
  · exact congrArg Host.Outcome.next (if_pos hw)
  · cases hw : s.transfersWait with
    | true => exact congrArg Host.Outcome.next (if_pos hw)
    | false => rw [writeStageComplete_due hw hc hheld, State.stageStep_of_none hnone hopen]

/-- The state in which an own fragment has completed in OUTPUT. -/
def State.ownCompleted (s : State) (g : Frag) (i : Item) : State :=
  (((s.giveWords i.id (s.ownWords g)).completeFragment i.id g.key g.bank).fragDone g.key).throttleUpdate

theorem State.ownCompleted_spec {g : Frag} {i : Item} (hi : s.item i.id = some i) : (s.ownCompleted g i).frag g.key = none ∧
    (∃ x, (s.ownCompleted g i).item i.id = some x ∧ x.complete = true ∧ x.length = (s.ownWords g).length ∧
      x.age = s.pool.nextAge ∧ x.key = some g.key) ∧ Frame storeParts s (s.ownCompleted g i) := by
  have hgiven : (s.giveWords i.id (s.ownWords g)).item i.id = some { i with words := s.ownWords g } := by
    rw [State.giveWords, State.item_modItem_same _ _ (by exact fun _ h => h), hi, Option.map_some]
  obtain ⟨x, hx, -, hcomplete, hlength, hage, hkey⟩ := State.completeFragment_spec hgiven g.key g.bank
  refine ⟨?_, ⟨x, ?_, hcomplete, hlength, hage, hkey⟩, ?_⟩
  · rw [State.ownCompleted, State.throttleUpdate_frag, State.fragDone_frag]
  · rw [State.ownCompleted, State.throttleUpdate_item]
    exact hx
  · have hgive : Touch storeParts s (s.giveWords i.id (s.ownWords g)) := State.modItem_touch (Touch.refl _ s) trivial
    have hdone := State.completeFragment_touch (id := i.id) (key := g.key) (bank := g.bank) hgive fun _ h => h
    exact (State.throttleUpdate_touch (hdone.pool (v := (State.fragDone _ g.key).pool) trivial rfl) fun _ h => h).frame

/-- Item `id` is no longer among those that wait for their rewrite. -/
def State.rewritten (s : State) (id : Nat) : State :=
  { s with pool := { s.pool with toComplete := s.pool.toComplete.filter (· ≠ id) } }

theorem State.stageStep_port {id : Nat} {l : List Nat} {i : Item} (h : s.pool.toComplete = id :: l) (hi : s.item id = some i)
    (ht : (s.rewritten id).portComplete i = some t) : s.stageStep = t := by
  unfold State.rewritten at ht
  unfold State.stageStep
  rw [h] at ht ⊢
  dsimp only at ht ⊢
  rw [List.findSome?_cons, hi]
  dsimp only
  rw [ht]

section
variable {id p : Nat} {i : Item} {k : MergeKey} {c : Ctx} (hi : s.item id = some i) (hctx : s.ctx k = some c)
include hi hctx

/-- What a child's fragment in its context is. -/
theorem State.contextCompleted_spec : let t := (((s.completeFragment id k i.bank).inContext id k c.index (s.entryIs p)).ackFrame p k).throttleUpdate
    ∃ x, t.pool.toComplete = s.pool.toComplete ∧ t.item id = some x ∧ x.complete = true ∧ x.queue = 32 + c.index ∧
      x.length = i.words.length ∧ t.ctx k = some (c.modEntries (s.entryIs p) (Entry.take id)) := by
  intro t
  obtain ⟨x, hx, -, hcomplete, hlength, -, -⟩ := State.completeFragment_spec hi k i.bank
  obtain ⟨-, -, -, -, hctxs, htoComplete⟩ := s.completeFragment_keeps id k i.bank
  have hctx' : (s.completeFragment id k i.bank).ctx k = some c := by rw [State.ctx, hctxs]; exact hctx
  obtain ⟨hitem, hctxIn⟩ := State.inContext_spec (s.entryIs p) hx hctx' (index := c.index)
  obtain ⟨a, n, hpool⟩ := (((s.completeFragment id k i.bank).inContext id k c.index (s.entryIs p)).ackFrame p k).throttleUpdate_pool
  rw [State.ackFrame_pool] at hpool
  refine ⟨{ x with queue := 32 + c.index, hidden := false }, ?_, ?_, hcomplete, rfl, hlength, ?_⟩
  · rw [show t.pool = _ from hpool]
    exact htoComplete
  · rw [State.item, show t.pool = _ from hpool]
    exact hitem
  · rw [State.ctx, show t.pool = _ from hpool]
    exact hctxIn

end

/-! ## RECLAIM_PASS, whole -/

theorem reclaimPass_idle (h : (s.pool.reclaimDue = false ∧ s.mapDamaged = false) ∨ s.transfersWait = true) :
    exec .reclaimPass s = .next s := by
  refine congrArg Host.Outcome.next (if_neg ?_)
  rcases h with ⟨hd, hm⟩ | hw
  · simp [hd, hm]
  · simp [hw]

end Sys2Proof.Machine

namespace Sys2Proof.Machine

variable {s t : State}

/-- What a region is granted: of a unit that is longer the words are counted, and a lone one leaves the FIFO for its fragment's body. -/
theorem chipGrant_region_spec {r : Fin 25} {u : Unit'} {l : List Unit'}
    (hu : Tab.get [] s.pool.regFifo (r.val - 17) = u :: l) :
    let g := s.grantWords r
    let t := State.grantRegion (g + 1) (s.cycleTo r) (r - 17) g
    (g < u.words.length - Tab.get 0 s.pool.regDone (r.val - 17) → t = { s with pool := { s.pool with
      arbPos := (r.val + 1) % 25, regDone := Tab.set 0 s.pool.regDone (r.val - 17) (Tab.get 0 s.pool.regDone (r.val - 17) + g) } }) ∧
    (u.words.length - Tab.get 0 s.pool.regDone (r.val - 17) ≤ g → l = [] → s.transfersWait = false → s.pool.excludedBank = none →
      s.test.logic ≠ some 1 → Tab.get [] t.pool.regFifo (r.val - 17) = [] ∧
      (∀ x i, s.merging = false → s.frag u.key = some x → x.opened = true → x.dropped = false → x.item.bind s.item = some i →
        slotsFor (headWords u.key + x.body.length + u.words.length + 1) ≤ i.slots.length →
        ∃ y, t.frag u.key = some y ∧ y.body = x.body ++ u.words ∧ y.lost = x.lost)) := by
  intro g t
  refine ⟨fun hlt => State.grantRegion_part (s := s.cycleTo r) hu hlt, fun hle hl hw hx htest => ?_⟩
  subst hl
  have hs := ((s.cycleTo r).storeUnit_spec u).2 hx hw htest
  refine ⟨State.grantRegion_lone_fifo (s := s.cycleTo r) hu hle hs, fun x i hm hfrag ho hd hi hroom => ?_⟩
  obtain ⟨y, hy, hbody, hlost⟩ := State.storeUnit_leaf (s := s.cycleTo r) hm hfrag ho hd hi hroom
  exact ⟨y, (State.grantRegion_lone_frag (s := s.cycleTo r) hu hle hs _).trans hy, hbody, hlost⟩

/-- Settles O59, clause by clause; what opens, is granted or completes is said above by the operation that does it. -/
theorem fragmentsOpenFillAndComplete : Obligations.FragmentsOpenFillAndComplete := by
  unfold Obligations.FragmentsOpenFillAndComplete
  refine ⟨fun s k g hg ho => originFragmentOpen_opened hg ho, fun s ns n h => originFragmentOpen_event ns n h, ?_, ?_, ?_, ?_, ?_,
    fun s h => writeStageComplete_idle h, ?_, ?_, fun s => ⟨reclaimPass_idle, ?_⟩⟩
  · intro s f h
    rw [originFragmentOpen_frame, if_neg]
    rintro ⟨hown, hfresh⟩
    rcases h with h | ⟨d, hd, h⟩
    · simp [h] at hown
    · have := (State.freshFrame_iff f).1 hfresh d hd
      simp [h] at this
  · intro s f hown hfresh hnone hm hc
    obtain ⟨x, hx⟩ := State.newFrag_opens (State.slotValid_of_ownFrame hown) hm hc hnone
    exact ⟨_, x, (originFragmentOpen_frame f).trans (congrArg _ (if_pos ⟨hown, (State.freshFrame_iff f).2 hfresh⟩)),
      hx.frag, hx.opened, hx.closed, hx.body, hx.lost, hx.testing, hx.slot, hx.frame⟩
  · intro s f due
    refine ⟨fun h => ?_, fun h => ?_⟩
    · rw [frameClose_eq, show s.closeDue f = false from h, if_neg (by simp)]
    · have hslot : s.slotValid = true := State.slotValid_of_ownFrame (State.ownFrame_of_closeDue h)
      obtain ⟨g, hg, hclosed, hopened, hframe⟩ := State.frameClosed_spec (f := f) hslot
      exact ⟨s.frameClosed f, g, (frameClose_eq f).trans (congrArg _ (if_pos h)), rfl, hg, hclosed, hopened, hframe⟩
  · exact fun s r ups h => congrArg Host.Outcome.next (if_pos h)
  · intro s r ups hr hw g fifo hc
    by_cases hport : r.val ≤ 16
    · obtain ⟨t, k, ht, harb, hk, hdrop, hall⟩ := chipGrant_port (ups := ups) hr hw hc hport
      exact ⟨t, ht, harb, fun _ => ⟨k, hk, hdrop, hall⟩, fun _ _ h => absurd h (by omega)⟩
    · refine ⟨_, chipGrant_region hr hw hc (by omega), State.grantRegion_arbPos _ _ _ _, fun h => absurd h hport, fun u l _ hu => ?_⟩
      obtain ⟨hpart, hlast⟩ := chipGrant_region_spec hu
      exact ⟨hpart, fun hle hl => hlast hle hl hw⟩
  · intro s g l i hw hc hheld hm hnone hfrags hcl ho hd hwait hi ws hroom
    obtain ⟨hfrag, ⟨x, hitem, hx⟩, hframe⟩ := State.ownCompleted_spec (g := g) (State.bind_item_self hi)
    obtain ⟨hcomplete, hlength, hage, hkey⟩ := hx
    exact ⟨s.ownCompleted g i, x, (writeStageComplete_due hw hc hheld).trans (congrArg _
      (State.stageStep_leaf hm hc hd hi hroom hnone hfrags hcl ho hwait)), hfrag, hitem, hcomplete, hlength, hage, hkey, hframe⟩
  · intro s id p l i k c hw hc hheld hto hi hk hp hq hm hctx hroom
    obtain ⟨x, hdone, hitem, hcomplete, hqueue, hlength, hentries⟩ :=
      State.contextCompleted_spec (s := s.rewritten id) (p := p) hi hctx
    refine ⟨_, x, _, (writeStageComplete_due hw hc hheld).trans (congrArg _ (State.stageStep_port hto hi
      (State.portComplete_context (s := s.rewritten id) hc hi hk hp hq hm hctx hroom))), ?_, hitem, hcomplete, hqueue, hlength,
      hentries, rfl⟩
    rw [hdone]
    simp [State.rewritten]
  · intro hdue hw
    exact ⟨_, reclaimPass_due hdue hw, s.reclaimed_spec⟩

end Sys2Proof.Machine

namespace Sys2Proof.Machine

/-! ## The assignments of one node's children (R466, R467) -/

/-- The assignments that port `p` stands for, with the ports of the members A and of the members B. -/
def portJobs (parent : Nat) (as' bs : List Nat) (pair : Nat → Nat) (p : Nat) : List EnumJob :=
  if pair p = 2 then
    (match bs[as'.findIdx (· = p)]? with
    | some q => [⟨parent, p, 1⟩, ⟨parent, q, 2⟩]
    | none => [⟨parent, p, 3⟩])
  else if pair p = 3 then (if bs.findIdx (· = p) < as'.length then [] else [⟨parent, p, 3⟩])
  else [⟨parent, p, 0⟩]

/-- The two bits of SOUTH_PAIR of a port. -/
def pairBits (pairs p : Nat) : Nat := pairs / 4 ^ p % 4

/-- The UP ports whose bits of SOUTH_PAIR are `v`, in ascending order. -/
def pairPorts (up pairs v : Nat) : List Nat := (bitsOf 16 up).filter fun p => pairBits pairs p = v

theorem jobsOf_eq (x up pairs : Nat) : jobsOf x up pairs =
    (bitsOf 16 up).flatMap (portJobs x (pairPorts up pairs 2) (pairPorts up pairs 3) (pairBits pairs)) := rfl

theorem bitsOf_ascending (n m : Nat) : (bitsOf n m).Pairwise (· < ·) := List.pairwise_lt_range.filter _

theorem pairPorts_nodup (up pairs v : Nat) : (pairPorts up pairs v).Nodup :=
  ((bitsOf_ascending 16 up).filter _).imp Nat.ne_of_lt

theorem findIdx_eq_idxOf (l : List Nat) (p : Nat) : l.findIdx (fun x => decide (x = p)) = l.idxOf p :=
  congrArg l.findIdx (funext fun _ => rfl)

section
variable {x p : Nat} {as' bs : List Nat} {pair : Nat → Nat}

/-- What a port stands for: nothing, the port alone, or the port with its mate behind it. -/
theorem portJobs_cases : portJobs x as' bs pair p = [] ∨ (∃ k, k ≠ 1 ∧ k ≠ 2 ∧ portJobs x as' bs pair p = [⟨x, p, k⟩]) ∨
    ∃ q ∈ bs, portJobs x as' bs pair p = [⟨x, p, 1⟩, ⟨x, q, 2⟩] := by
  unfold portJobs
  split
  · split
    · next q hq => exact .inr (.inr ⟨q, List.mem_of_getElem? hq, rfl⟩)
    · exact .inr (.inl ⟨3, by decide, by decide, rfl⟩)
  · split
    · split
      · exact .inl rfl
      · exact .inr (.inl ⟨3, by decide, by decide, rfl⟩)
    · exact .inr (.inl ⟨0, by decide, by decide, rfl⟩)

/-- A port stands for itself, but where it is that of a member B which stands behind its member A. -/
theorem portJobs_own (h : pair p ≠ 3 ∨ ¬ bs.findIdx (· = p) < as'.length) : p ∈ (portJobs x as' bs pair p).map (·.port) := by
  unfold portJobs
  split
  · split <;> simp
  · split
    · next h3 => rw [if_neg (h.resolve_left (not_not.2 h3))]; simp
    · simp

/-- The k-th member B stands behind the k-th member A. -/
theorem portJobs_mate {k : Nat} (ha : as'.Nodup) (hk : k < as'.length) (hb : bs[k]? = some p) (hpair : pair as'[k] = 2) :
    p ∈ (portJobs x as' bs pair as'[k]).map (·.port) := by
  unfold portJobs
  rw [if_pos hpair, findIdx_eq_idxOf, ha.idxOf_getElem k hk, hb]
  simp

end

section
variable (x up pairs : Nat)

theorem mem_pairPorts {v p : Nat} : p ∈ pairPorts up pairs v ↔ p ∈ bitsOf 16 up ∧ pairBits pairs p = v := by simp [pairPorts]

/-- Members alone and members A stand in the order of their ports. -/
theorem jobsOf_ascending : (((jobsOf x up pairs).filter (·.member ≠ 2)).map (·.port)).Pairwise (· < ·) := by
  have hsub : ∀ (f : Nat → List EnumJob) (hf : ∀ p, (((f p).filter (·.member ≠ 2)).map (·.port)).Sublist [p]) (l : List Nat),
      (((l.flatMap f).filter (·.member ≠ 2)).map (·.port)).Sublist l := by
    intro f hf l
    induction l with
    | nil => exact .slnil
    | cons p l ih =>
      rw [List.flatMap_cons, List.filter_append, List.map_append]
      exact (hf p).append ih
  rw [jobsOf_eq]
  refine (bitsOf_ascending 16 up).sublist (hsub _ (fun p => ?_) _)
  rcases portJobs_cases (x := x) (p := p) (as' := pairPorts up pairs 2) (bs := pairPorts up pairs 3) (pair := pairBits pairs) with
    h | ⟨k, -, hk, h⟩ | ⟨q, -, h⟩ <;> rw [h]
  · simp
  · simp [hk]
  · simp

/-- Each UP port has an assignment. -/
theorem jobsOf_ports (p : Nat) : p ∈ (jobsOf x up pairs).map (·.port) ↔ p < 16 ∧ up / 2 ^ p % 2 = 1 := by
  rw [← mem_bitsOf, jobsOf_eq, List.map_flatMap, List.mem_flatMap]
  refine ⟨fun ⟨r, hr, hp⟩ => ?_, fun hp => ?_⟩
  · rcases portJobs_cases (x := x) (p := r) (as' := pairPorts up pairs 2) (bs := pairPorts up pairs 3) (pair := pairBits pairs) with
      h | ⟨k, -, -, h⟩ | ⟨q, hq, h⟩ <;> rw [h] at hp
    · simp at hp
    · simp only [List.map_cons, List.map_nil, List.mem_singleton] at hp
      exact hp ▸ hr
    · simp only [List.map_cons, List.map_nil, List.mem_cons, List.not_mem_nil, or_false] at hp
      rcases hp with rfl | rfl
      · exact hr
      · exact ((mem_pairPorts up pairs).1 hq).1
  · by_cases hb : pairBits pairs p ≠ 3 ∨ ¬ (pairPorts up pairs 3).findIdx (· = p) < (pairPorts up pairs 2).length
    · exact ⟨p, hp, portJobs_own hb⟩
    · obtain ⟨h3, hk⟩ := not_or.1 hb
      rw [not_not] at h3 hk
      rw [findIdx_eq_idxOf] at hk
      obtain ⟨ha, h2⟩ := (mem_pairPorts up pairs).1 (List.getElem_mem hk)
      have hmem : (pairPorts up pairs 3).idxOf p < (pairPorts up pairs 3).length :=
        List.idxOf_lt_length_iff.2 ((mem_pairPorts up pairs).2 ⟨hp, h3⟩)
      exact ⟨_, ha, portJobs_mate (pairPorts_nodup up pairs 2) hk
        (by rw [List.getElem?_eq_getElem hmem, List.getElem_idxOf hmem]) h2⟩

/-- Behind a member A stands a member B. -/
def Followed (L : List EnumJob) : Prop := ∀ l a l', L = l ++ a :: l' → a.member = 1 → ∃ b l'', l' = b :: l'' ∧ b.member = 2

theorem Followed.append {L M : List EnumJob} (h : Followed L) (h' : Followed M) : Followed (L ++ M) := by
  intro l a l' he ha
  rcases List.append_eq_append_iff.1 he with ⟨c, -, hM⟩ | ⟨c, hL, hM⟩
  · exact h' c a l' hM ha
  · cases c with
    | nil => exact h' [] a l' hM.symm ha
    | cons d c =>
      obtain ⟨rfl, rfl⟩ := List.cons.inj hM
      obtain ⟨b, l'', rfl, hb⟩ := h l a c hL ha
      exact ⟨b, l'' ++ M, rfl, hb⟩

theorem jobsOf_followed : Followed (jobsOf x up pairs) := by
  rw [jobsOf_eq]
  induction bitsOf 16 up with
  | nil => intro l a l' h; simp at h
  | cons p ports ih =>
    rw [List.flatMap_cons]
    refine Followed.append (fun l a l' h ha => ?_) ih
    rcases portJobs_cases (x := x) (p := p) (as' := pairPorts up pairs 2) (bs := pairPorts up pairs 3) (pair := pairBits pairs) with
      e | ⟨k, hk, -, e⟩ | ⟨q, -, e⟩ <;> rw [e] at h
    · simp at h
    · have hmem : a ∈ [(⟨x, p, k⟩ : EnumJob)] := by rw [h]; simp
      rw [List.mem_singleton.1 hmem] at ha
      exact absurd ha hk
    · cases l with
      | nil =>
        obtain ⟨-, rfl⟩ := List.cons.inj h
        exact ⟨_, [], rfl, rfl⟩
      | cons b l =>
        have hmem : a ∈ [(⟨x, q, 2⟩ : EnumJob)] := by rw [(List.cons.inj h).2]; simp
        rw [List.mem_singleton.1 hmem] at ha
        exact absurd ha (by simp)

/-- The first assignment is that of a child alone or of a member A, and every one is the parent's. -/
theorem jobsOf_head {j : EnumJob} {rest : List EnumJob} (h : jobsOf x up pairs = j :: rest) : j.member ≠ 2 ∧ j.parent = x := by
  rw [jobsOf_eq] at h
  revert h
  induction bitsOf 16 up with
  | nil => simp
  | cons p ports ih =>
    intro h
    rw [List.flatMap_cons] at h
    rcases portJobs_cases (x := x) (p := p) (as' := pairPorts up pairs 2) (bs := pairPorts up pairs 3) (pair := pairBits pairs) with
      e | ⟨k, -, hk, e⟩ | ⟨q, -, e⟩ <;> rw [e] at h
    · exact ih h
    · obtain ⟨rfl, -⟩ := List.cons.inj h
      exact ⟨hk, rfl⟩
    · obtain ⟨rfl, -⟩ := List.cons.inj h
      exact ⟨by simp, rfl⟩

/-- A node with an UP port has a child to be numbered. -/
theorem jobsOf_ne_nil {up : Nat} (h : up ≠ 0) (hlt : up < 2 ^ 16) : jobsOf x up pairs ≠ [] := by
  obtain ⟨p, hp⟩ := Nat.exists_testBit_of_ne_zero h
  have hp16 : p < 16 := by
    by_contra hge
    rw [Nat.testBit_lt_two_pow (lt_of_lt_of_le hlt (Nat.pow_le_pow_right (by decide) (not_lt.1 hge)))] at hp
    cases hp
  have hport := (jobsOf_ports x up pairs p).2 ⟨hp16, by simpa [Nat.testBit_eq_decide_div_mod_eq] using hp⟩
  intro he
  simp [he] at hport

end

theorem jobsOf_none (x pairs : Nat) : jobsOf x 0 pairs = [] := by
  rw [jobsOf_eq, show bitsOf 16 0 = [] from by decide, List.flatMap_nil]

theorem bitList_lt (l : List Bool) : bitList l < 2 ^ l.length := by
  induction l with
  | nil => decide
  | cons b l ih =>
    have hb : boolNat b ≤ 1 := by cases b <;> decide
    show boolNat b + 2 * bitList l < _
    rw [List.length_cons, Nat.pow_succ]
    omega

theorem State.southMask_lt (s : State) : s.southMask < 2 ^ 16 :=
  (bitList_lt _).trans_eq (by rw [List.length_map, List.length_range])

end Sys2Proof.Machine

namespace Sys2Proof.Machine

variable {s t : State}

/-! ## What grants and hops leave as it is -/

theorem kept_enum (h : t.kept = s.kept) : t.fw.enum = s.fw.enum := congrArg (fun k : Kept => k.fw.enum) h
theorem kept_waits (h : t.kept = s.kept) : t.fw.waits = s.fw.waits := congrArg (fun k : Kept => k.fw.waits) h
theorem kept_relay (h : t.kept = s.kept) : t.fw.relay = s.fw.relay := congrArg (fun k : Kept => k.fw.relay) h
theorem kept_routed (h : t.kept = s.kept) : t.node.routed = s.node.routed := congrArg (·.node.routed) h
theorem kept_routes (h : t.kept = s.kept) : t.node.routes = s.node.routes := congrArg (·.node.routes) h

theorem State.modCtx_kept (s : State) (k : MergeKey) (f : Ctx → Ctx) : (s.modCtx k f).kept = s.kept := rfl

theorem State.dropItem_kept (s : State) (id : Nat) : (s.dropItem id).kept = s.kept := by
  unfold State.dropItem
  split
  · exact s.loseItem_kept _
  · rfl

theorem State.dropPartial_kept (s : State) (p : Nat) : (s.dropPartial p).kept = s.kept := by
  unfold State.dropPartial
  extract_lets v tail w byLink a y
  have hw : w.kept = s.kept := rfl
  refine kept_ite rfl (kept_ite hw ?_)
  split
  · split
    · exact kept_ite ((State.countLost_kept _ _ _).trans hw) (kept_ite ((State.countLost_kept _ _ _).trans hw)
        ((State.modCtx_kept _ _ _).trans ((State.countLost_kept _ _ _).trans hw)))
    · exact (State.countLost_kept _ _ _).trans hw
  · have hy : y.kept = s.kept := rfl
    split
    · exact hy
    · have hz := ((State.throttleUpdate_kept _).trans (y.dropItem_kept ‹_›)).trans hy
      dsimp only
      split
      · exact (State.modCtx_kept _ _ _).trans hz
      · exact hz

theorem State.sendGrant_kept (s : State) (p : Nat) : (s.sendGrant p).kept = s.kept := by
  unfold State.sendGrant
  split
  · rfl
  · exact kept_ite rfl rfl

theorem State.setGrant_kept (s : State) (p pos : Nat) : (s.setGrant p pos).kept = s.kept := by
  unfold State.setGrant
  split
  · rfl
  · next q _ =>
    extract_lets old u e
    have hu : u.kept = s.kept := kept_ite (s.dropPartial_kept _) rfl
    clear_value u
    exact kept_ite rfl ((State.sendGrant_kept _ _).trans hu)

theorem State.pairMarks_kept (s : State) : s.pairMarks.kept = s.kept := by
  have hmates : s.recognise.kept = s.kept := by
    unfold State.recognise
    extract_lets mate
    exact kept_ite rfl (s.kept_pair _)
  unfold State.pairMarks
  exact (kept_foldl (fun v p => v.setF_kept _ _) _ _).trans hmates

theorem State.grantAll_kept (s : State) : s.grantAll.kept = s.kept := by
  refine (kept_foldl (fun v p => ?_) _ _).trans s.pairMarks_kept
  split
  · exact kept_ite (v.setGrant_kept _ _) rfl
  · rfl

theorem State.startHop_fw (s : State) (h : Hop) : (s.startHop h).fw = s.fw := by
  unfold State.startHop
  extract_lets behind u
  split <;> rfl

theorem State.startHop_hops (s : State) (h : Hop) : (s.startHop h).mbox.hops = s.mbox.hops ++ [h] := by
  unfold State.startHop
  extract_lets behind u
  split <;> rfl

/-! ## Requests (R466) -/

theorem State.fwSend_fw (s : State) (p mbox opcode tag target : Nat) (quiet : Bool) (args : List Byte) :
    (s.fwSend p mbox opcode tag target quiet args).fw = s.fw := State.startHop_fw _ _

/-- A message of the firmware's own makes its hop on its port, its arguments behind eight bytes. -/
theorem State.fwSend_hop (s : State) (p mbox opcode tag target : Nat) (quiet : Bool) (args : List Byte) :
    ∃ h ∈ (s.fwSend p mbox opcode tag target quiet args).mbox.hops, h.port = p ∧ h.mbox = mbox ∧ h.bytes.drop 8 = args := by
  refine ⟨_, by rw [State.fwSend, State.startHop_hops]; exact List.mem_append_right _ (List.mem_singleton_self _), rfl, rfl, ?_⟩
  exact List.drop_left' (leBytes_length 8 _)

theorem State.askJob_fw (s : State) (j : EnumJob) : ∃ p : Nat, (j.parent = s.node.nodeId.toNat → p = j.port) ∧
    (s.askJob j).fw = { s.fw with nextTag := s.fw.nextTag + 1,
                                  enum := { s.fw.enum with ask := some (j, ⟨p, s.fw.nextTag, s.ticks⟩) } } := by
  refine ⟨if j.parent = s.node.nodeId.toNat then j.port else (s.enumPort j.parent).getD 0, fun h => if_pos h, ?_⟩
  unfold State.askJob
  extract_lets e tag id partner args p u v
  show _ = v.fw
  split
  · exact State.fwSend_fw ..
  · exact State.fwSend_fw ..

/-- The child of the node itself is asked on its port. -/
theorem State.askJob_hop (s : State) {j : EnumJob} (h : j.parent = s.node.nodeId.toNat) (h2 : j.member ≠ 2) :
    ∃ x ∈ (s.askJob j).mbox.hops, x.port = j.port ∧ x.bytes.drop 8 =
      assignArgs s.fw.enum.next (s.fw.enum.level + 1) (if j.member = 1 then s.fw.enum.next + 1 else 0xFFF) := by
  unfold State.askJob
  simp only [h, if_true, if_neg h2]
  obtain ⟨x, hx, hport, -, hbytes⟩ := State.fwSend_hop
    ({ s with fw := { s.fw with nextTag := s.fw.nextTag + 1, enum := { s.fw.enum with ask := some (j, ⟨j.port, s.fw.nextTag, s.ticks⟩) } } } : State)
    j.port s.enumMbox 0x601 s.fw.nextTag.toNat 0xFFF false
    (assignArgs s.fw.enum.next (s.fw.enum.level + 1) (if j.member = 1 then s.fw.enum.next + 1 else 0xFFF))
  exact ⟨x, hx, hport, hbytes⟩

/-! ## The plan goes on (R466, R469) -/

/-- The enumeration whose next assignment is `j`, the others left being `rest`. -/
def EnumSt.begin (e : EnumSt) (j : EnumJob) (rest : List EnumJob) : EnumSt :=
  { (if j.member = 3 then e.noteFault 3 e.next else e) with work := rest }

theorem EnumSt.noteFault_keeps (e : EnumSt) (code node : Nat) : ∃ c n, e.noteFault code node = { e with fault := c, faultNode := n } := by
  unfold EnumSt.noteFault
  split
  · exact ⟨code, node, rfl⟩
  · exact ⟨e.fault, e.faultNode, rfl⟩

/-- As an assignment begins only the list of those left and the fault change, and no fault that there is. -/
theorem EnumSt.begin_keeps (e : EnumSt) (j : EnumJob) (rest : List EnumJob) : ∃ c n,
    e.begin j rest = { e with work := rest, fault := c, faultNode := n } ∧ (e.fault ≠ 0 → c = e.fault ∧ n = e.faultNode) := by
  unfold EnumSt.begin
  split
  · unfold EnumSt.noteFault
    split
    · next h => exact ⟨3, e.next, rfl, fun hn => absurd h hn⟩
    · exact ⟨e.fault, e.faultNode, rfl, fun _ => ⟨rfl, rfl⟩⟩
  · exact ⟨e.fault, e.faultNode, rfl, fun _ => ⟨rfl, rfl⟩⟩

theorem State.stepEnum_work {n : Nat} {j : EnumJob} {rest : List EnumJob} (h : s.fw.enum.work = j :: rest)
    (hn : j.member = 2 ∨ s.fw.enum.next + 1 ≤ 4095) :
    State.stepEnum (n + 1) s = (s.setEnum (s.fw.enum.begin j rest)).askJob j := by
  rw [State.stepEnum]
  dsimp only
  rw [h]
  dsimp only
  rw [if_neg]
  · rfl
  · rintro ⟨h2, hlast⟩
    have := hn.resolve_left h2
    split at hlast <;> omega

end Sys2Proof.Machine

namespace Sys2Proof.Machine

variable {s t : State}

/-! ## An assignment is answered (R466, R467, R469) -/

/-- The enumeration with the answer to assignment `j`. -/
def EnumSt.answered (e : EnumSt) (j : EnumJob) (answer : Option (Nat × Nat)) : EnumSt :=
  let id := if j.member = 2 then e.next + 1 else e.next
  let e := match answer with
    | some r =>
      let x : EnumNode := { id := id, level := e.level + 1, parent := j.parent, port := j.port, pairB := j.member = 2,
                            southUp := r.1, southPair := r.2 }
      { e with nodes := e.nodes ++ [x] }
    | none => e.noteFault 4 j.parent
  if j.member = 1 then { e with mateOk := answer.isSome }
  else if j.member = 2 then
    let any : Bool := e.mateOk || answer.isSome
    { e with next := if any then e.next + 2 else e.next, pairs := if any then e.pairs + 1 else e.pairs, mateOk := false }
  else { e with next := if answer.isSome then e.next + 1 else e.next }

theorem State.jobDone_eq (s : State) (j : EnumJob) (answer : Option (Nat × Nat)) :
    s.jobDone j answer = State.stepEnum 6 (s.setEnum { s.fw.enum.answered j answer with ask := none }) := rfl

section
variable (e : EnumSt) (j : EnumJob) (r : Nat × Nat)

/-- The child that has answered has the number that it was asked to take. -/
theorem EnumSt.answered_some : e.answered j (some r) = { e with
    nodes := e.nodes ++ [{ id := if j.member = 2 then e.next + 1 else e.next, level := e.level + 1, parent := j.parent,
                           port := j.port, pairB := j.member = 2, southUp := r.1, southPair := r.2 }],
    next := if j.member = 1 then e.next else if j.member = 2 then e.next + 2 else e.next + 1,
    pairs := if j.member = 2 then e.pairs + 1 else e.pairs,
    mateOk := if j.member = 1 then true else if j.member = 2 then false else e.mateOk } := by
  unfold EnumSt.answered
  by_cases h1 : j.member = 1
  · simp [h1]
  · by_cases h2 : j.member = 2
    · simp [h2]
    · simp [h1, h2]

/-- One that has not answered has none. -/
theorem EnumSt.answered_none : (e.answered j none).nodes = e.nodes ∧ (j.member ≠ 2 → (e.answered j none).next = e.next) ∧
    (e.answered j none).next ≤ e.next + 2 ∧ (e.answered j none).work = e.work ∧
    (e.fault = 0 → (e.answered j none).fault = 4 ∧ (e.answered j none).faultNode = j.parent) := by
  obtain ⟨c, n, h⟩ := e.noteFault_keeps 4 j.parent
  have hf : e.fault = 0 → c = 4 ∧ n = j.parent := by
    intro h0
    rw [EnumSt.noteFault, if_pos h0] at h
    exact ⟨(congrArg EnumSt.fault h).symm, (congrArg EnumSt.faultNode h).symm⟩
  unfold EnumSt.answered
  dsimp only
  rw [h]
  by_cases h1 : j.member = 1
  · rw [if_pos h1]
    exact ⟨rfl, fun _ => rfl, Nat.le_add_right _ _, rfl, hf⟩
  · rw [if_neg h1]
    by_cases h2 : j.member = 2
    · rw [if_pos h2]
      exact ⟨rfl, fun h => absurd h2 h, by dsimp only; split <;> omega, rfl, hf⟩
    · rw [if_neg h2]
      exact ⟨rfl, fun _ => rfl, Nat.le_add_right _ _, rfl, hf⟩

theorem EnumSt.answered_next (answer : Option (Nat × Nat)) : (e.answered j answer).next ≤ e.next + 2 := by
  cases answer with
  | none =>
    obtain ⟨-, -, hnext, -, -⟩ := e.answered_none j
    exact hnext
  | some r =>
    rw [e.answered_some]
    dsimp only
    split_ifs <;> omega

theorem EnumSt.answered_work (answer : Option (Nat × Nat)) : (e.answered j answer).work = e.work := by
  cases answer with
  | none =>
    obtain ⟨-, -, -, hwork, -⟩ := e.answered_none j
    exact hwork
  | some r => rw [e.answered_some]

end

/-- The next assignment is asked for. -/
theorem State.jobDone_enum {j j' : EnumJob} {rest : List EnumJob} {answer : Option (Nat × Nat)} (hw : s.fw.enum.work = j' :: rest)
    (hn : j'.member = 2 ∨ s.fw.enum.next + 4 ≤ 4096) : ∃ b c n,
      (s.jobDone j answer).fw.enum = { s.fw.enum.answered j answer with work := rest, ask := some (j', b), fault := c, faultNode := n } ∧
      ((s.fw.enum.answered j answer).fault ≠ 0 →
        c = (s.fw.enum.answered j answer).fault ∧ n = (s.fw.enum.answered j answer).faultNode) := by
  have hnext := s.fw.enum.answered_next j answer
  have hstep : s.jobDone j answer = ((s.setEnum { s.fw.enum.answered j answer with ask := none }).setEnum
      (EnumSt.begin { s.fw.enum.answered j answer with ask := none } j' rest)).askJob j' :=
    (s.jobDone_eq j answer).trans (State.stepEnum_work ((s.fw.enum.answered_work j answer).trans hw)
      (hn.imp_right fun h => by show (s.fw.enum.answered j answer).next + 1 ≤ 4095; omega))
  obtain ⟨c, n, hbegin, hfault⟩ := EnumSt.begin_keeps { s.fw.enum.answered j answer with ask := none } j' rest
  rw [hbegin] at hstep
  obtain ⟨p, -, hfw⟩ := State.askJob_fw (State.setEnum (s.setEnum { s.fw.enum.answered j answer with ask := none })
    { s.fw.enum.answered j answer with ask := none, work := rest, fault := c, faultNode := n }) j'
  rw [hstep, hfw]
  exact ⟨_, c, n, rfl, hfault⟩

/-! ## Enumeration begins at an unpaired root (R466) -/

/-- The root is the only node of level 0. -/
def EnumSt.lone (up pairs : Nat) : EnumSt :=
  { nodes := [{ id := 0, level := 0, parent := 0, port := 0, southUp := up, southPair := pairs }], work := jobsOf 0 up pairs, next := 1 }

theorem EnumSt.lone_reply (up pairs : Nat) : (EnumSt.lone up pairs).reply = leBytes 2 1 ++ leBytes 6 0 := rfl

theorem State.beginEnum_unpaired (h : s.paired = false) (m : Msg) :
    s.beginEnum m = State.stepEnum 6 ((s.addWait m .enumReply).setEnum (EnumSt.lone s.southMask s.southPairs)) := by
  unfold State.beginEnum EnumSt.lone levelJobs
  simp [h]

theorem State.beginEnum_asks (h : s.paired = false) (h0 : s.node.nodeId = 0) (m : Msg) {j : EnumJob} {rest : List EnumJob}
    (hj : jobsOf 0 s.southMask s.southPairs = j :: rest) :
    let t := s.beginEnum m
    t.fw.enum.work = rest ∧ t.fw.enum.next = 1 ∧ t.fw.enum.nodes.map (·.id) = [0] ∧
      t.fw.enum.ask = some (j, ⟨j.port, s.fw.nextTag, s.ticks⟩) ∧ (m, FwWait.enumReply) ∈ t.fw.waits ∧
      ∃ h ∈ t.mbox.hops, h.port = j.port ∧ h.bytes.drop 8 = leBytes 2 1 ++ leBytes 2 1 ++ leBytes 2 (if j.member = 1 then 2 else 0xFFF) := by
  obtain ⟨h2, hparent⟩ := jobsOf_head 0 _ _ hj
  intro t
  obtain ⟨c, n, hbegin, -⟩ := EnumSt.begin_keeps (EnumSt.lone s.southMask s.southPairs) j rest
  have ht : t = (((s.addWait m .enumReply).setEnum (EnumSt.lone s.southMask s.southPairs)).setEnum
      { EnumSt.lone s.southMask s.southPairs with work := rest, fault := c, faultNode := n }).askJob j := by
    rw [← hbegin]
    exact (State.beginEnum_unpaired h m).trans (State.stepEnum_work hj (.inr (by show (1 : Nat) + 1 ≤ 4095; decide)))
  generalize hv : ((s.addWait m .enumReply).setEnum (EnumSt.lone s.southMask s.southPairs)).setEnum
      { EnumSt.lone s.southMask s.southPairs with work := rest, fault := c, faultNode := n } = v at ht
  have hown : j.parent = v.node.nodeId.toNat := by
    subst hv
    show j.parent = s.node.nodeId.toNat
    rw [hparent, h0]
    rfl
  obtain ⟨p, hp, hfw⟩ := v.askJob_fw j
  obtain ⟨x, hx, hport, hbytes⟩ := v.askJob_hop hown h2
  rw [hp hown] at hfw
  subst hv
  rw [ht, hfw]
  exact ⟨rfl, rfl, rfl, rfl, List.mem_append_right _ (List.mem_singleton_self _), x, hx, hport, hbytes.trans rfl⟩

/-! ### A root without children -/

/-- The ranges that a port record of ENUM_ROUTE gives; an unused one has FIRST above LAST (R407). -/
def portRoutes (args : List Byte) (p : Nat) : List (Nat × Nat) :=
  ((List.range 4).map fun k => (leAt args (12 * p + 3 * k) 3 % 4096, leAt args (12 * p + 3 * k) 3 / 4096)).filter fun e => e.1 ≤ e.2

/-- A table that takes the entries of a list of keys. -/
theorem Tab.get_foldl_set {α : Type} [DecidableEq α] {d : α} (f : Nat → α) (l : List Nat) (t : Tab α) (p : Nat) :
    Tab.get d (l.foldl (fun t q => Tab.set d t q (f q)) t) p = if p ∈ l then f p else Tab.get d t p := by
  induction l generalizing t with
  | nil => simp
  | cons q l ih =>
    rw [List.foldl_cons, ih]
    by_cases hl : p ∈ l
    · simp [hl]
    · by_cases hq : p = q
      · subst hq; simp [hl]
      · simp [hl, hq, Tab.get_set_other]

/-- The routes of the 16 port records. -/
@[irreducible] def routesOf (args : List Byte) : Tab (List (Nat × Nat)) :=
  (List.range 16).foldl (fun t q => Tab.set [] t q (portRoutes args q)) []

theorem State.takeRoutes_eq (s : State) (args : List Byte) :
    s.takeRoutes args = { s with node := { s.node with routes := routesOf args } } := by
  simp only [State.takeRoutes, routesOf, portRoutes]

theorem routesOf_get (args : List Byte) (p : Nat) : Tab.get [] (routesOf args) p = if p < 16 then portRoutes args p else [] := by
  rw [routesOf, Tab.get_foldl_set]
  simp only [List.mem_range]
  rfl

/-- The port records of a node without children. -/
def noRoutes : List Byte :=
  (List.range 16).flatMap fun _ => (List.replicate 4 ((0xFFF, 0) : Nat × Nat)).flatMap fun e => leBytes 3 (e.1 + e.2 * 2 ^ 12)

theorem portRoutes_noRoutes : ∀ p < 16, portRoutes noRoutes p = [] := by decide +kernel

theorem routeArgs_lone {x : EnumNode} (h : x.level = 0) (id : Nat) : routeArgs [x] id = noRoutes := by
  unfold routeArgs noRoutes
  congr 1
  funext p
  have : portRanges [x] id p = [] := by simp [portRanges, h]
  rw [this]
  rfl

/-- The state in which enumeration has ended at the node with the routes of some port records. -/
def State.endRoutes (s : State) (args : List Byte) : State :=
  { s with node := { s.node with routes := routesOf args, routed := true } }

/-- The last step of R466 where the root has no child: it takes its empty routes. -/
theorem State.finishEnum_lone {x : EnumNode} (hl : s.fw.enum.nodes = [x]) (h : x.level = 0) (h0 : x.id = s.node.nodeId.toNat) :
    s.finishEnum = (s.endRoutes noRoutes).grantAll.endEnum := by
  unfold State.finishEnum State.endRoutes
  simp [hl, h, State.sendRoute, h0, routeArgs_lone h, State.takeRoutes_eq]

theorem State.endEnum_answers {m : Msg} (hw : s.fw.waits.find? (fun e => e.2 = .enumReply) = some (m, .enumReply)) :
    s.endEnum = ((s.setWaits (s.fw.waits.erase (m, .enumReply))).setEnum {}).answer m 0 s.fw.enum.reply := by
  unfold State.endEnum State.takeWait
  simp [hw]

theorem State.beginEnum_lone (h : s.paired = false) (h0 : s.node.nodeId = 0) (m : Msg) (hup : s.southMask = 0)
    (hw : ∀ e ∈ s.fw.waits, e.2 ≠ .enumReply) : ∃ v : State, s.beginEnum m = v.answer m 0 (leBytes 2 1 ++ leBytes 6 0) ∧
      v.node.routed = true ∧ v.fw.enum = {} ∧ ∀ p, Tab.get [] v.node.routes p = [] := by
  have hstep : s.beginEnum m = ((s.addWait m .enumReply).setEnum (EnumSt.lone 0 s.southPairs)).finishEnum := by
    rw [State.beginEnum_unpaired h m, hup, State.stepEnum]
    simp [State.setEnum, EnumSt.lone, jobsOf_none]
  rw [hstep, State.finishEnum_lone (x := { id := 0, level := 0, parent := 0, port := 0, southUp := 0, southPair := s.southPairs })
    rfl rfl (by show 0 = s.node.nodeId.toNat; rw [h0]; rfl)]
  have hroutes := portRoutes_noRoutes
  generalize noRoutes = args at hroutes ⊢
  have hk := (((s.addWait m .enumReply).setEnum (EnumSt.lone 0 s.southPairs)).endRoutes args).grantAll_kept
  generalize (((s.addWait m .enumReply).setEnum (EnumSt.lone 0 s.southPairs)).endRoutes args).grantAll = u at hk ⊢
  have hwaits : u.fw.waits = s.fw.waits ++ [(m, .enumReply)] := kept_waits hk
  have hfind : u.fw.waits.find? (fun e => e.2 = .enumReply) = some (m, .enumReply) := by
    rw [hwaits, List.find?_append, List.find?_eq_none.2 fun e he => by simpa using hw e he]
    simp
  have henum : u.fw.enum = EnumSt.lone 0 s.southPairs := kept_enum hk
  rw [State.endEnum_answers hfind, henum, EnumSt.lone_reply]
  refine ⟨_, rfl, kept_routed hk, rfl, fun p => ?_⟩
  show Tab.get [] u.node.routes p = []
  rw [kept_routes hk, show (State.endRoutes _ args).node.routes = routesOf args from rfl, routesOf_get]
  split
  · next hp => exact hroutes p hp
  · rfl

end Sys2Proof.Machine

namespace Sys2Proof.Machine

variable {s t : State}

/-! ## What answers and notices never undo

A queue whose pointer words differ is reset, and that counts towards FAIL (R186, R301): so an answer may change the pair's state. It
changes no image that awaits its commit, no cause of a FAIL that is set, and no message that waits at a south port. -/

/-- What the state `t` that comes of `s` still has. -/
structure Steady (s t : State) : Prop where
  ownImage : t.pair.ownImage = s.pair.ownImage
  failed : s.getF R.fail = 1 →
    t.getF R.fail = 1 ∧ t.pair.failCause = s.pair.failCause ∧ t.pair.healthOut = s.pair.healthOut
  sent : ∀ x < 16, ∀ c ∈ (s.port x).ctlQueue, c ∈ (t.port x).ctlQueue

theorem Steady.refl (s : State) : Steady s s := ⟨rfl, fun h => ⟨h, rfl, rfl⟩, fun _ _ _ h => h⟩

theorem Steady.trans {u : State} (h : Steady s t) (h' : Steady t u) : Steady s u where
  ownImage := h'.ownImage.trans h.ownImage
  failed hf := by
    obtain ⟨ht, hc, hh⟩ := h.failed hf
    obtain ⟨hu, hc', hh'⟩ := h'.failed ht
    exact ⟨hu, hc'.trans hc, hh'.trans hh⟩
  sent x hx c hc := h'.sent x hx c (h.sent x hx c hc)

theorem Steady.ite {c : Prop} {_ : Decidable c} {a b : State} (ha : Steady s a) (hb : Steady s b) : Steady s (if c then a else b) := by
  split <;> assumption

/-- Parts among which are neither the pair, its FAIL bit nor a south port. -/
def aside : Comp → Prop
  | .pair => False
  | .reg o => o ≠ 0x7000
  | .port p => 16 ≤ p
  | _ => True

theorem Steady.of_touch (h : Touch aside s t) : Steady s t where
  ownImage := congrArg PairSt.ownImage (h.same (c := .pair) id)
  failed hf := ⟨(h.getF (f := R.fail) fun hn => hn rfl).trans hf, congrArg PairSt.failCause (h.same (c := .pair) id),
    congrArg PairSt.healthOut (h.same (c := .pair) id)⟩
  sent x hx c hc := by
    rw [show t.port x = s.port x from h.same (c := .port x) (not_le.2 hx)]
    exact hc

theorem aside_mem {m : Nat} {c : Comp} (h : memParts m c) : aside c := by
  unfold memParts logParts at h
  cases c <;> simp_all [aside, storeParts] <;> omega

theorem aside_store {c : Comp} (h : storeParts c) : aside c := aside_mem (memParts_log (m := 0) (.inr (.inr h)))

theorem Steady.queueResets (s : State) (l : List Nat) : Steady s { s with pair := { s.pair with queueResets := l } } :=
  ⟨rfl, fun hf => ⟨hf, rfl, rfl⟩, fun _ _ _ hc => hc⟩

theorem Steady.setFail (s : State) (cause : Nat) : Steady s (s.setFail cause) := by
  unfold State.setFail
  split
  · next h =>
    refine ⟨rfl, fun hf => ?_, fun _ _ _ hc => hc⟩
    rw [h.2] at hf
    cases hf
  · exact Steady.refl s

/-- What a queue reset does before it counts towards FAIL. -/
theorem Steady.resetQueue (s : State) (q cause : Nat) : Steady s (s.resetQueue q cause) := by
  have hpool : aside .pool := trivial
  unfold State.resetQueue
  extract_lets ids cut pool v lost logged z near pair r
  clear_value near
  have hlost : Touch aside s lost :=
    State.countLost_touch (State.loseEntries_touch (Touch.pool (State.cutItems_touch (Touch.refl _ s) hpool) hpool rfl) hpool)
      fun _ => aside_store
  have hlogged : Touch aside s logged :=
    State.setFlag_touch (State.drawn_touch (State.remember_touch (State.logEntry_touch hlost fun _ hc =>
      aside_mem (m := 0) (memParts_log hc)) trivial) trivial) (show (0x3000 : Nat) ≠ 0x7000 by decide)
      (show (0x3004 : Nat) ≠ 0x7000 by decide)
  clear_value logged
  have hz : Touch aside s z := State.noticeRaw_touch hlogged trivial fun _ => aside_store
  have hr : Steady s r := (Steady.of_touch hz).trans (Steady.queueResets z near)
  clear_value r
  have hfail : Steady s (if 4 < near.length then r.setFail 3 else r) := Steady.ite (hr.trans (Steady.setFail _ _)) hr
  exact hfail.trans (Steady.of_touch (State.throttleUpdate_touch (Touch.refl _ _) fun _ => aside_store))

theorem Steady.checkQueue (s : State) (q : Nat) : Steady s (s.checkQueue q) := by
  unfold State.checkQueue
  split
  · exact Steady.refl s
  · extract_lets r
    have hr : Touch aside s r.2 := Touch.foldl2 _ (Touch.refl _ s) fun _ _ h => State.tableCw_touch h fun _ => aside_mem
    exact Steady.ite ((Steady.of_touch (State.tableWrite_touch hr trivial)).trans (Steady.resetQueue _ _ _)) (Steady.of_touch hr)

theorem Steady.storeItem (s : State) (q : Nat) (cls : Cls) (ws : List PWord) : Steady s (s.storeItem q cls ws) :=
  (Steady.checkQueue s q).trans (Steady.of_touch (State.storeRaw_touch (Touch.refl _ _) fun _ => aside_store))

theorem Steady.notice (s : State) (code : Nat) (l : List Byte) : Steady s (s.notice code l) :=
  (Steady.checkQueue s 0).trans (Steady.of_touch (State.noticeRaw_touch (Touch.refl _ _) trivial fun _ => aside_store))

theorem Steady.enterState (s : State) (n : NodeState) : Steady s (s.enterState n) := by
  unfold State.enterState
  extract_lets old node v w
  refine Steady.ite (Steady.refl s) ?_
  have hv : Steady s v := Steady.of_touch ((Touch.refl aside s).upd (hnode := .inl trivial))
  have hw : Steady s w := Steady.ite (hv.trans (Steady.notice _ _ _)) hv
  exact hw.trans (Steady.of_touch (State.msix_touch (Touch.refl _ _) trivial trivial))

theorem mem_placeMsg {m c : CtlMsg} {l : List CtlMsg} : c ∈ placeMsg m l ↔ c = m ∨ c ∈ l := by
  induction l with
  | nil => simp [placeMsg]
  | cons x l ih =>
    rw [placeMsg]
    split
    · rw [List.mem_cons, ih, List.mem_cons]
      tauto
    · rw [List.mem_cons]

theorem State.sendMsg_sent (s : State) (p : Nat) (m : CtlMsg) : m ∈ ((s.sendMsg p m).port p).ctlQueue := by
  rw [State.sendMsg, State.setPort_port_same]
  exact mem_placeMsg.2 (.inl rfl)

theorem Steady.sendMsg (s : State) (p : Nat) (m : CtlMsg) : Steady s (s.sendMsg p m) := by
  refine ⟨rfl, fun hf => ⟨hf, rfl, rfl⟩, fun x _ c hc => ?_⟩
  rw [State.sendMsg]
  by_cases hx : x = p
  · subst hx
    rw [State.setPort_port_same]
    exact mem_placeMsg.2 (.inr hc)
  · rwa [State.setPort_port_other _ _ hx]

theorem Steady.complete (s : State) {i : Nat} (hi : i < 16) : Steady s (s.complete i) := by
  unfold State.complete
  extract_lets from' bits mbox v w
  clear_value from'
  have hv : Touch aside s v := (Touch.refl aside s).upd (hmbox := .inl trivial)
  have hw : Steady s w := Steady.of_touch (State.setF_touch hv (by show 0xA000 + 4 * i ≠ 0x7000; omega))
  cases from'
  · exact hw
  · exact hw.trans (Steady.sendMsg _ _ _)

theorem Steady.sendReply (s : State) (i : Nat) (stamp : W32) (bytes : List Byte) : Steady s (s.sendReply i stamp bytes) := by
  unfold State.sendReply
  split
  · extract_lets v
    have hv : Touch aside s v :=
      Touch.ite (State.ringOutDoorbell_touch (Touch.refl _ s) trivial trivial trivial trivial) (Touch.refl _ s)
    exact (Steady.of_touch hv).trans (Steady.storeItem _ _ _ _)
  · extract_lets target
    split
    · exact Steady.sendMsg _ _ _
    · exact Steady.of_touch (State.ownReply_touch (Touch.refl _ s) trivial (show (0xA088 : Nat) ≠ 0x7000 by decide))
    · exact Steady.refl s

/-- An answer undoes none of these. -/
theorem Steady.answer (s : State) {m : Msg} (hm : m.mbox < 16) (st : Nat) (l : List Byte) : Steady s (s.answer m st l) := by
  have hreply : Steady s (s.reply m st l) := by
    unfold State.reply State.replyTo
    exact Steady.ite (Steady.refl s) ((Steady.of_touch (State.putBytes_touch (Touch.refl _ s) fun _ => aside_mem)).trans
      (Steady.sendReply _ _ _ _))
  exact hreply.trans (Steady.complete _ hm)

end Sys2Proof.Machine

namespace Sys2Proof.Machine

variable {s t u : State} {P : Comp → Prop}

theorem Touch.foldl_mem {α : Type} {f : State → α → State} (l : List α) (h : Touch P s u)
    (hf : ∀ v, ∀ a ∈ l, Touch P s v → Touch P s (f v a)) : Touch P s (l.foldl f u) := by
  induction l generalizing u with
  | nil => exact h
  | cons a l ih => exact ih (hf u a (List.mem_cons_self ..) h) fun v b hb => hf v b (List.mem_cons_of_mem _ hb)

/-! ## Items leave OUTPUT (R182, R185, R205, R206) -/

theorem State.viewsKeep_touch {id : Nat} {l : List Nat} (h : Touch P s u) (hp : P .pool) : Touch P s (u.viewsKeep id l) :=
  State.setItems_touch h hp

section
variable (hq : ∀ c, queueParts c → P c) (h6 : P (.reg 0x306C))
include hq h6

theorem State.releaseItem_touch {id : Nat} (h : Touch P s u) : Touch P s (u.releaseItem id) := by
  have hp : P .pool := hq _ (queueParts_store trivial)
  unfold State.releaseItem
  extract_lets v
  have hv : Touch P s v := State.checkQueue_touch h hq
  split
  · exact hv
  · exact State.throttleUpdate_touch (State.freeItem_touch (State.incBy_touch (State.unchoose_touch (State.setItems_touch
      (State.viewsKeep_touch hv hp) hp) hp) h6) hp) fun c hc => hq c (queueParts_store hc)

theorem State.freeAcked_touch {need : List Reader} {i : Item} (h : Touch P s u) : Touch P s (u.freeAcked need i) := by
  have hp : P .pool := hq _ (queueParts_store trivial)
  unfold State.freeAcked
  extract_lets w rest gone words
  exact Touch.ite (State.releaseItem_touch hq h6 h) (Touch.ite h (Touch.ite h (State.throttleUpdate_touch
    (State.modItem_touch (State.viewsKeep_touch h hp) hp) fun c hc => hq c (queueParts_store hc))))

theorem State.freeDelivered_touch (h : Touch P s u) : Touch P s u.freeDelivered := by
  unfold State.freeDelivered
  extract_lets need out
  exact Touch.ite h (Touch.foldl _ h fun _ _ hv => State.freeAcked_touch hq h6 hv)

end

theorem State.frameOut_touch {i : Item} (h : Touch P s u) (hp : P .pair) : Touch P s (u.frameOut i) := by
  unfold State.frameOut
  split
  · extract_lets o
    exact Touch.ite (h.upd (hpair := .inl hp)) h
  · exact h

theorem State.noteOut_touch (h : Touch P s u) (hp : P .pair) : Touch P s u.noteOut := by
  unfold State.noteOut
  exact Touch.foldl _ h fun _ _ hv => State.frameOut_touch hv hp

theorem State.giveBack_touch {r : Reader} (h : Touch P s u) (hp : P .pool) : Touch P s (u.giveBack r) := by
  unfold State.giveBack
  extract_lets v
  split
  · exact h
  · have hr : Touch P s (u.setReader r {}) := h.pool hp rfl
    exact Touch.ite h (hr.pool hp rfl)

/-! ## A reference that is lost (R52, R71) -/

section
variable (hq : ∀ c, queueParts c → P c) (hreg : ∀ o, o < 0x2000 → P (.reg o)) (hregion : ∀ r, P (.region r)) (hloop : P .loop)
  {r : Nat} (hr : r < 8)
include hq hreg hregion hloop hr

omit hq hregion hloop in
theorem State.setTb_touch {st : Nat} (h : Touch P s u) : Touch P s (u.setTb r st) :=
  State.setF_touch (State.setF_touch h (hreg _ (by simp only [R.tbState]; omega))) (hreg _ (by simp only [R.calFrozen]; omega))

theorem State.enterHoldover_touch (h : Touch P s u) : Touch P s (u.enterHoldover r) := by
  unfold State.enterHoldover
  extract_lets g g' v
  have hv : Touch P s v := State.setPid_touch h hloop
  exact State.tbNotice_touch (State.setF_touch (State.setFlag_touch (State.setTb_touch hreg hr
    (State.setRegion_touch hv (hregion r))) (hreg _ (by simp only [R.lockLost]; omega)) (hreg _ (by simp only [R.lockLost]; omega)))
    (hreg _ (by simp only [R.holdoverBound]; omega))) hq

theorem State.slewLost_touch (h : Touch P s u) : Touch P s (u.slewLost r) :=
  State.tbNotice_touch (State.setTb_touch hreg hr (State.setPid_touch (State.setRegion_touch h (hregion r)) hloop)) hq

omit hr in
theorem State.referenceLost_touch (h : Touch P s u) : Touch P s u.referenceLost := by
  refine Touch.foldl_mem _ h fun v r hr hv => ?_
  have hr8 : r < 8 := List.mem_range.1 hr
  dsimp only
  split
  · exact State.setRegion_touch (State.enterHoldover_touch hq hreg hregion hloop hr8 hv) (hregion r)
  · exact State.slewLost_touch hq hreg hregion hloop hr8 hv
  · exact Touch.ite (State.setPid_touch (State.setRegion_touch hv (hregion r)) hloop) (State.setRegion_touch hv (hregion r))
  · exact hv

end

/-! ## A port trains anew (R264, R267, R280, R407) -/

/-- What a port that trains anew changes beside its own register: no other port's, no mailbox, no configuration, and not the role. -/
def beyondLinks : Comp → Prop
  | .tri _ => False
  | .cfg _ => False
  | .reg o => o < 0x6000 ∨ o = 0x7000 ∨ 0x8000 ≤ o ∧ o < 0xA000
  | _ => True

theorem beyondLinks_queue {c : Comp} (h : queueParts c) : beyondLinks c := by
  unfold queueParts memParts logParts at h
  cases c <;> simp_all [beyondLinks, storeParts]
  omega

theorem beyondLinks_store {c : Comp} (h : storeParts c) : beyondLinks c := beyondLinks_queue (queueParts_store h)

/-- The port begins to train. -/
def State.dropped (s : State) (p : Nat) : State := (s.setFlag (R.retrain p)).seek p

theorem State.leaveUp_touch (s : State) (p : Nat) : Touch beyondLinks (s.dropped p) (s.leaveUp p) := by
  have h6 : beyondLinks (.reg 0x306C) := .inl (by decide)
  unfold State.leaveUp
  extract_lets u v w x dir pair
  have hu : Touch beyondLinks (s.dropped p) u := Touch.refl _ _
  have hv : Touch beyondLinks (s.dropped p) v :=
    Touch.ite (State.throttleUpdate_touch (State.setF_touch hu (.inl (show (0x3070 : Nat) < 0x6000 by decide)))
      fun _ => beyondLinks_store) (State.freeDelivered_touch (fun _ => beyondLinks_queue) h6 (State.noteOut_touch hu trivial))
  have hw : Touch beyondLinks (s.dropped p) w := by
    simp only [w]
    split
    · exact Touch.ite hv (State.giveBack_touch hv trivial)
    · exact hv
  have hx : Touch beyondLinks (s.dropped p) x :=
    Touch.ite (State.referenceLost_touch (fun _ => beyondLinks_queue) (fun o ho => .inl (by omega)) (fun _ => trivial) trivial hw) hw
  exact Touch.ite (hx.upd (hpair := .inl trivial) (hdir := .inl trivial)) hx

end Sys2Proof.Machine

namespace Sys2Proof.Machine

variable {s t u : State} {P : Comp → Prop}

/-! ## LINK_RETRAIN and what trains with it (R279, R407) -/

theorem State.seek_touch {p : Nat} (h : Touch P s u) (hp : P (.port p)) (hr : P (.reg (0x6000 + 0x10 * p))) (ho : P .out) :
    Touch P s (u.seek p) := by
  unfold State.seek
  extract_lets v w
  exact Touch.foldl _ (State.setF_touch (State.setF_touch (State.setPort_touch h hp) hr) hr) fun _ _ hv => State.emit_touch hv ho

/-- What a port that trains anew may change. -/
def trainParts (p : Nat) (c : Comp) : Prop := beyondLinks c ∨ c = .reg (0x6000 + 0x10 * p)

theorem State.retrainPort_touch (s : State) (p : Nat) : Touch (trainParts p) s (s.retrainPort p) := by
  have hseek : ∀ v : State, Touch (trainParts p) s v → Touch (trainParts p) s (v.seek p) := fun v hv =>
    State.seek_touch hv (.inl trivial) (.inr rfl) (.inl trivial)
  have hleave : Touch (trainParts p) s (s.leaveUp p) :=
    (hseek _ (State.setFlag_touch (Touch.refl _ s) (.inr rfl) (.inr rfl))).trans ((s.leaveUp_touch p).mono fun _ => .inl)
  unfold State.retrainPort
  exact Touch.ite (Touch.refl _ s) (Touch.ite hleave (hseek s (Touch.refl _ s)))

theorem State.seek_lstate (s : State) (p : Nat) : (s.seek p).getF (R.lstate p) = 1 := by
  show ((State.setF _ (R.lstate p) 1).setF (R.rxLanes p) 0).getF (R.lstate p) = 1
  rw [State.getF_setF_other _ _ (.inr (.inl (by decide : 0 + 3 ≤ 7))) (by decide : 0 + 3 ≤ 32),
    State.getF_setF_same _ _ _ (by decide : 0 + 3 ≤ 32)]
  rfl

theorem State.retrainPort_lstate_same (s : State) {p : Nat} (hp : p < 19) : (s.retrainPort p).getF (R.lstate p) =
    if s.portEnabled p = true ∧ s.getF (R.lstate p) ≠ 6 then 1 else s.getF (R.lstate p) := by
  have hleave : (s.leaveUp p).getF (R.lstate p) = 1 :=
    ((s.leaveUp_touch p).getF (f := R.lstate p) (by simp [beyondLinks, R.lstate]; omega)).trans (State.seek_lstate _ p)
  unfold State.retrainPort
  by_cases h : s.portEnabled p = true ∧ s.getF (R.lstate p) ≠ 6
  · rw [if_pos h, if_neg (by tauto)]
    split
    · exact hleave
    · exact s.seek_lstate p
  · rw [if_neg h, if_pos (by tauto)]

theorem State.retrainPort_lstate_other (s : State) {p q : Nat} (hq : q < 19) (h : q ≠ p) :
    (s.retrainPort p).getF (R.lstate q) = s.getF (R.lstate q) :=
  (s.retrainPort_touch p).getF (by simp [trainParts, beyondLinks, R.lstate]; omega)

theorem State.portEnabled_of (hrole : Tab.get {} t.prot.tri 1 = Tab.get {} s.prot.tri 1) (hcfg : t.cfg = s.cfg) (p : Nat) :
    t.portEnabled p = s.portEnabled p := by
  have htri : ∀ lo n, t.triBits 1 lo n = s.triBits 1 lo n := fun lo n => by rw [State.triBits, State.triWord, hrole]; rfl
  have hrole' : t.role = s.role := htri 0 2
  unfold State.portEnabled State.roleHasPort State.paired State.merging State.cfgF State.record
  rw [htri, hrole', hcfg]

theorem State.retrainPort_portEnabled (s : State) (p q : Nat) : (s.retrainPort p).portEnabled q = s.portEnabled q :=
  State.portEnabled_of ((s.retrainPort_touch p).tri (by simp [trainParts, beyondLinks])) (kept_cfg (s.retrainPort_kept p)) q

/-- The ports of a list that are enabled and not in MISMATCH train, and no others. -/
theorem State.retrainPorts_lstate {l : List Nat} (hl : ∀ p ∈ l, p < 19) (s : State) {q : Nat} (hq : q < 19) :
    (l.foldl (fun s p => s.retrainPort p) s).getF (R.lstate q) =
      if q ∈ l ∧ s.portEnabled q = true ∧ s.getF (R.lstate q) ≠ 6 then 1 else s.getF (R.lstate q) := by
  induction l generalizing s with
  | nil => simp
  | cons p l ih =>
    rw [List.foldl_cons, ih (fun q hq => hl q (List.mem_cons_of_mem _ hq)), State.retrainPort_portEnabled]
    by_cases hqp : q = p
    · subst hqp
      rw [s.retrainPort_lstate_same hq]
      by_cases h : s.portEnabled q = true ∧ s.getF (R.lstate q) ≠ 6
      · simp [h]
      · simp [h]
    · rw [s.retrainPort_lstate_other hq hqp]
      simp [hqp]

theorem State.retrainPorts_kept (l : List Nat) (s : State) : (l.foldl (fun s p => s.retrainPort p) s).kept = s.kept :=
  kept_foldl (fun v p => v.retrainPort_kept p) l s

theorem State.retrainPorts_mboxState {l : List Nat} (hl : ∀ p ∈ l, p < 19) (s : State) (i : Nat) :
    (l.foldl (fun s p => s.retrainPort p) s).getF (R.mboxState i) = s.getF (R.mboxState i) := by
  refine Touch.getF (P := fun c => c ≠ .reg (0xA000 + 4 * i)) ?_ fun h => h rfl
  refine Touch.foldl_mem l (Touch.refl _ s) fun v p hp hv => hv.trans ((v.retrainPort_touch p).mono fun c hc => ?_)
  rintro rfl
  have := hl p hp
  simp [trainParts, beyondLinks] at hc
  omega

/-- An answer changes no port's state. -/
theorem State.answer_lstate (s : State) {m : Msg} (hm : m.mbox < 16) (st : Nat) (l : List Byte) {q : Nat} (hq : q < 19) :
    (s.answer m st l).getF (R.lstate q) = s.getF (R.lstate q) :=
  (s.answer_touches m st l).getF (by
    simp [answerParts, queueParts, memParts, logParts, storeParts, R.lstate]
    omega)

theorem State.answer_portEnabled (s : State) (m : Msg) (st : Nat) (l : List Byte) (q : Nat) :
    (s.answer m st l).portEnabled q = s.portEnabled q :=
  State.portEnabled_of ((s.answer_touches m st l).tri (by simp [answerParts, queueParts, memParts, logParts, storeParts]))
    (kept_cfg (s.answer_kept m st l)) q

/-- The ports of a mask train anew behind the answer. -/
theorem linkRetrain_trains {m : Msg} (h : Taken s 0x606 4 [.unconfigured, .configured, .running] m) :
    ∃ t, exec .linkRetrain s = .next t ∧ t.getF (R.mboxState m.mbox) = 0 ∧ ∀ p, p < 19 → t.getF (R.lstate p) =
      (if m.field 0 4 / 2 ^ p % 2 = 1 ∧ s.portEnabled p = true ∧ s.getF (R.lstate p) ≠ 6 then 1 else s.getF (R.lstate p)) := by
  have hl : ∀ p ∈ bitsOf 19 (m.field 0 4), p < 19 := fun p hp => (mem_bitsOf.1 hp).1
  refine ⟨_, congrArg Host.Outcome.next (h.command _), ?_, fun p hp => ?_⟩
  · rw [State.retrainPorts_mboxState hl]
    exact State.answer_mboxState ..
  · rw [State.retrainPorts_lstate hl _ hp, State.answer_lstate _ h.2.1 _ _ hp, State.answer_portEnabled]
    simp only [mem_bitsOf, hp, true_and]
    rfl

end Sys2Proof.Machine

namespace Sys2Proof.Machine

variable {s t u : State}

/-! ## ENUM_ASSIGN (R407, R468) -/

theorem State.enterUnconfigured_of_none (h : s.pair.ownImage = none) : s.enterUnconfigured = s.enterState .unconfigured := by
  unfold State.enterUnconfigured
  extract_lets v
  rw [show v.pair.ownImage = none from (Steady.enterState s .unconfigured).ownImage.trans h]

/-- The node has the numbers of its assignment. -/
def State.numbered (s : State) (id level partner : Nat) : State :=
  { s with node := { s.node with nodeId := BitVec.ofNat 12 id, level := BitVec.ofNat 8 level, partnerId := BitVec.ofNat 12 partner } }

/-- A node in LINKUP leaves it. -/
def State.pastLinkup (s : State) : State := if s.node.state = .linkup then s.enterState .unconfigured else s

theorem State.pastLinkup_kept (s : State) : s.pastLinkup.kept =
    { s.kept with node := { s.kept.node with state := if s.node.state = .linkup then .unconfigured else s.node.state } } := by
  unfold State.pastLinkup
  split
  · exact s.enterState_kept _
  · rfl

theorem State.pastLinkup_touch (s : State) : Touch queueParts s s.pastLinkup :=
  Touch.ite (State.enterState_touch (Touch.refl _ s) fun _ h => h) (Touch.refl _ s)

theorem not_queueParts_lstate {p : Nat} (hp : p < 19) : ¬ queueParts (.reg (R.lstate p).off) := by
  simp [queueParts, memParts, logParts, storeParts, R.lstate]
  omega

theorem State.pastLinkup_portEnabled (s : State) (p : Nat) : s.pastLinkup.portEnabled p = s.portEnabled p :=
  State.portEnabled_of (s.pastLinkup_touch.tri (by simp [queueParts, memParts, logParts, storeParts]))
    (congrArg Kept.cfg s.pastLinkup_kept) p

theorem enumAssign_eq {m : Msg} (h : Taken s 0x601 6 statesLUC m) (hparent : stampClass m.stamp = 2) (himage : s.pair.ownImage = none) :
    let u := ((s.begun.skip 3).numbered (s.begun.legal 0 0 0xFFF (m.field 0 2)) (s.begun.legal 2 0 4 (m.byte 2))
      (s.begun.legal 1 0 0xFFF (m.field 4 2))).pastLinkup
    exec .enumAssign s = .next ([16, 17, 18].foldl (fun s p => s.retrainPort p) (u.answer m 0 u.assignReply)) := by
  refine congrArg Host.Outcome.next ((h.command _).trans ?_)
  rw [if_neg (not_not.2 hparent)]
  unfold State.pastLinkup
  dsimp only
  rw [State.enterUnconfigured_of_none (by exact himage)]
  rfl

/-- An assignment from the parent: what the node becomes, and what trains anew. -/
theorem enumAssign_assigns {m : Msg} (h : Taken s 0x601 6 statesLUC m) (hparent : stampClass m.stamp = 2)
    (himage : s.pair.ownImage = none) :
    ∃ t, exec .enumAssign s = .next t ∧ (m.field 0 2 ≤ 0xFFF → t.node.nodeId = BitVec.ofNat 12 (m.field 0 2)) ∧
      (m.byte 2 ≤ 4 → t.node.level = BitVec.ofNat 8 (m.byte 2)) ∧
      (m.field 4 2 ≤ 0xFFF → t.node.partnerId = BitVec.ofNat 12 (m.field 4 2)) ∧
      t.node.state = (if s.node.state = .linkup then .unconfigured else s.node.state) ∧ t.getF (R.mboxState m.mbox) = 0 ∧
      (∀ p, p = 16 ∨ p = 17 ∨ p = 18 → s.portEnabled p = true → s.getF (R.lstate p) ≠ 6 → t.getF (R.lstate p) = 1) ∧
      (∀ p, p < 19 → p < 16 ∨ s.portEnabled p = false ∨ s.getF (R.lstate p) = 6 → t.getF (R.lstate p) = s.getF (R.lstate p)) := by
  have hexec := enumAssign_eq h hparent himage
  generalize hid : s.begun.legal 0 0 0xFFF (m.field 0 2) = id at hexec
  generalize hlevel : s.begun.legal 2 0 4 (m.byte 2) = level at hexec
  generalize hpartner : s.begun.legal 1 0 0xFFF (m.field 4 2) = partner at hexec
  generalize hv : (s.begun.skip 3).numbered id level partner = v at hexec
  have hl : ∀ p ∈ [16, 17, 18], p < 19 := by decide
  have hkept := ((State.retrainPorts_kept [16, 17, 18] _).trans (State.answer_kept v.pastLinkup m 0 v.pastLinkup.assignReply)).trans
    v.pastLinkup_kept
  have hlstate : ∀ p < 19, (v.pastLinkup.answer m 0 v.pastLinkup.assignReply).getF (R.lstate p) = s.getF (R.lstate p) := by
    intro p hp
    rw [State.answer_lstate _ h.2.1 _ _ hp, v.pastLinkup_touch.getF (not_queueParts_lstate hp), ← hv]
    rfl
  have henabled : ∀ p, (v.pastLinkup.answer m 0 v.pastLinkup.assignReply).portEnabled p = s.portEnabled p := by
    intro p
    rw [State.answer_portEnabled, State.pastLinkup_portEnabled, ← hv]
    rfl
  have hmbox := (State.retrainPorts_mboxState hl _ m.mbox).trans (State.answer_mboxState v.pastLinkup m 0 v.pastLinkup.assignReply)
  have htrain := fun p hp => State.retrainPorts_lstate hl (v.pastLinkup.answer m 0 v.pastLinkup.assignReply) (q := p) hp
  simp only [henabled] at htrain
  refine ⟨_, hexec, fun hr => ?_, fun hr => ?_, fun hr => ?_, ?_, hmbox, fun p hp he hm => ?_, fun p hp hno => ?_⟩
  · refine (congrArg (fun k : Kept => k.node.nodeId) hkept).trans ?_
    rw [← State.legal_of_mem (s := s.begun) (k := 0) (Nat.zero_le _) hr, hid, ← hv]
    rfl
  · refine (congrArg (fun k : Kept => k.node.level) hkept).trans ?_
    rw [← State.legal_of_mem (s := s.begun) (k := 2) (Nat.zero_le _) hr, hlevel, ← hv]
    rfl
  · refine (congrArg (fun k : Kept => k.node.partnerId) hkept).trans ?_
    rw [← State.legal_of_mem (s := s.begun) (k := 1) (Nat.zero_le _) hr, hpartner, ← hv]
    rfl
  · refine (congrArg (fun k : Kept => k.node.state) hkept).trans ?_
    rw [← hv]
    rfl
  · rw [htrain p (by omega), hlstate p (by omega), if_pos ⟨by simp; omega, he, hm⟩]
  · rw [htrain p hp, hlstate p hp, if_neg]
    rintro ⟨hmem, he, hm⟩
    rcases hno with hlt | hno | hno
    · simp at hmem
      omega
    · simp [he] at hno
    · exact hm hno

/-! ## ENUM_RELAY and its reply that does not come (R407, R469) -/

/-- The node waits for the reply to an assignment that it relays. -/
def State.relays (s : State) (a : Ask) (m : Msg) : State :=
  ({ s with fw := { s.fw with nextTag := s.fw.nextTag + 1, relay := some a } } : State).addWait m .relay

theorem enumRelay_relays {m : Msg} (h : Taken s 0x602 8 statesLUC m) : ∃ p : Nat, p ≤ 15 ∧ (m.byte 0 ≤ 15 → p = m.byte 0) ∧
    (s.portUp p = false → exec .enumRelay s = .next ((s.begun.skip 1).answer m 4 [])) ∧
    (s.portUp p = true →
      ∃ t, exec .enumRelay s = .next t ∧ t.fw.relay = some ⟨p, s.fw.nextTag, s.ticks⟩ ∧ t.fw.nextTag = s.fw.nextTag + 1 ∧
        (m, .relay) ∈ t.fw.waits ∧ (∃ h ∈ t.mbox.hops, h.port = p ∧ h.mbox = m.mbox)) := by
  let p := s.begun.legal 0 0 15 (m.byte 0)
  have hexec : exec .enumRelay s = .next (if ¬ (s.begun.skip 1).portUp p then (s.begun.skip 1).answer m 4 [] else
      ((s.begun.skip 1).relays ⟨p, s.fw.nextTag, s.ticks⟩ m).fwSend p m.mbox 0x601 s.fw.nextTag.toNat 0xFFF false (bytesAt m.args 2 6)) :=
    congrArg Host.Outcome.next (h.command _)
  refine ⟨p, (State.legal_mem 0 _ (by decide)).2,
    fun hr => State.legal_of_mem (Nat.zero_le _) hr, fun hup => ?_, fun hup => ?_⟩
  · rw [if_pos (by show ¬ s.portUp _ = true; rw [hup]; simp)] at hexec
    exact hexec
  · rw [if_neg (by show ¬ ¬ s.portUp _ = true; rw [hup]; simp)] at hexec
    refine ⟨_, hexec, ?_, ?_, ?_, ?_⟩
    · rw [State.fwSend_fw]; rfl
    · rw [State.fwSend_fw]; rfl
    · rw [State.fwSend_fw]; exact List.mem_append_right _ (List.mem_singleton_self _)
    · obtain ⟨x, hx, hport, hmbox, -⟩ := State.fwSend_hop ((s.begun.skip 1).relays ⟨p, s.fw.nextTag, s.ticks⟩ m) p m.mbox
        0x601 s.fw.nextTag.toNat 0xFFF false (bytesAt m.args 2 6)
      exact ⟨x, hx, hport, hmbox⟩

theorem enumReplyTimeout_relay {m : Msg} {a : Ask} {port : Fin 16} (hf : s.fwRuns = true) (hnone : s.fw.enum.ask = none)
    (ha : s.fw.relay = some a) (hport : a.port = port) (hlate : a.sentAt + 1600000 ≤ s.ticks)
    (hw : (s.fw.waits.find? fun e => e.2 = .relay) = some (m, .relay)) :
    ∃ t, exec (.enumReplyTimeout port) s = .next t ∧ t.fw.relay = none ∧ t.getF (R.mboxState m.mbox) = 0 := by
  have hexec : exec (.enumReplyTimeout port) s = .next ((({ s with fw := { s.fw with relay := none } } : State).setWaits
      (s.fw.waits.erase (m, .relay))).answer m 4 []) := by
    show execEnumReplyTimeout port s = _
    unfold execEnumReplyTimeout State.takeWait
    simp [hf, hnone, ha, hport, hlate, hw]
  exact ⟨_, hexec, kept_relay (State.answer_kept _ m 4 []), State.answer_mboxState ..⟩

theorem enumReplyTimeout_ask {j : EnumJob} {a : Ask} {port : Fin 16} (hf : s.fwRuns = true) (ha : s.fw.enum.ask = some (j, a)) :
    exec (.enumReplyTimeout port) s = .next (if a.port = port ∧ a.sentAt + 16000000 ≤ s.ticks then s.jobDone j none else s) := by
  show execEnumReplyTimeout port s = _
  unfold execEnumReplyTimeout
  rw [if_neg (by simp [hf]), ha]

theorem State.takeReply_ask {j : EnumJob} {a : Ask} {bytes : List Byte} (ha : s.fw.enum.ask = some (j, a))
    (htag : leAt bytes 2 2 = a.tag.toNat) :
    s.takeReply bytes = s.jobDone j (if leAt bytes 6 2 = 0 then some (leAt bytes 8 2, leAt bytes 10 4) else none) := by
  unfold State.takeReply
  rw [ha]
  exact if_neg (not_not.2 htag.symm)

/-! ## ENUM_ROUTE (R375, R407, R468) -/

theorem enumRoute_routes {m : Msg} (final : Bool) (h : Taken s 0x603 192 statesLUC m) :
    ∃ t, exec (.enumRoute final) s = .next t ∧ t.node.routed = (s.node.routed || final) ∧
      (∀ p, p < 16 → Tab.get [] t.node.routes p = portRoutes m.args p) ∧ t.getF (R.mboxState m.mbox) = 0 := by
  have hexec : exec (.enumRoute final) s = .next (
      if ¬ final then (s.begun.takeRoutes m.args).answer m 0 []
      else (({ s.begun.takeRoutes m.args with node := { (s.begun.takeRoutes m.args).node with routed := true } } : State).grantAll.answer
        m 0 [])) := congrArg Host.Outcome.next (h.command _)
  rw [State.takeRoutes_eq] at hexec
  have hget : ∀ p, p < 16 → Tab.get [] (routesOf m.args) p = portRoutes m.args p := fun p hp => by rw [routesOf_get, if_pos hp]
  cases final with
  | false =>
    refine ⟨_, hexec, ?_, fun p hp => ?_, State.answer_mboxState ..⟩
    · exact (kept_routed (State.answer_kept ..)).trans (Bool.or_false _).symm
    · exact (congrArg (Tab.get [] · p) (kept_routes (State.answer_kept ..))).trans (hget p hp)
  | true =>
    refine ⟨_, hexec, ?_, fun p hp => ?_, State.answer_mboxState ..⟩
    · exact (kept_routed ((State.answer_kept ..).trans (State.grantAll_kept _))).trans (Bool.or_true _).symm
    · exact (congrArg (Tab.get [] · p) (kept_routes ((State.answer_kept ..).trans (State.grantAll_kept _)))).trans (hget p hp)

theorem mem_portRoutes {args : List Byte} {p k : Nat} (hk : k < 4)
    (h : leAt args (12 * p + 3 * k) 3 % 4096 ≤ leAt args (12 * p + 3 * k) 3 / 4096) :
    (leAt args (12 * p + 3 * k) 3 % 4096, leAt args (12 * p + 3 * k) 3 / 4096) ∈ portRoutes args p :=
  List.mem_filter.2 ⟨List.mem_map.2 ⟨k, List.mem_range.2 hk, rfl⟩, by simpa using h⟩

/-! ## PAIR_FORCE_FAIL (R301, R407) -/

theorem pairForceFail_fails {m : Msg} (h : Taken s 0x605 0 statesCR m) (hp : s.paired = true) (hf : s.getF R.fail = 0) :
    ∃ t, exec .pairForceFail s = .next t ∧ t.getF R.fail = 1 ∧ t.pair.failCause = 5 ∧ t.pair.healthOut = false ∧
      t.getF (R.mboxState m.mbox) = 0 := by
  have hexec : exec .pairForceFail s = .next (if s.begun.paired then (s.begun.setFail 5).answer m 0 [] else s.begun.answer m 4 []) :=
    congrArg Host.Outcome.next (h.command _)
  have hset : s.begun.setFail 5 =
      (({ s.begun with pair := { s.pair with failCause := 5, healthOut := false } } : State).setF R.fail 1) := if_pos ⟨hp, hf⟩
  have hbit : (s.begun.setFail 5).getF R.fail = 1 := by rw [hset, State.getF_setF_same _ _ _ (by decide)]; rfl
  rw [if_pos (by exact hp)] at hexec
  obtain ⟨hfail, hcause, hout⟩ := (Steady.answer (s.begun.setFail 5) h.2.1 0 []).failed hbit
  exact ⟨_, hexec, hfail, hcause.trans (by rw [hset]; rfl), hout.trans (by rw [hset]; rfl), State.answer_mboxState ..⟩

end Sys2Proof.Machine

namespace Sys2Proof.Machine

variable {s t u : State} {P : Comp → Prop}

/-! ## The arbiter's grant (R303, R304) -/

theorem State.dropItem_touch {id : Nat} (h : Touch P s u) (hs : ∀ c, storeParts c → P c) : Touch P s (u.dropItem id) := by
  unfold State.dropItem
  split
  · exact State.loseItem_touch h hs
  · exact h

/-- What a port has received only in part changes, as it is dropped, that port and the pool. -/
theorem State.dropPartial_touch {p : Nat} (h : Touch P s u) (hs : ∀ c, storeParts c → P c) (hp : P (.port p)) :
    Touch P s (u.dropPartial p) := by
  have hpool : P .pool := hs _ trivial
  unfold State.dropPartial
  extract_lets v tail w byLink a y
  have hw : Touch P s w := State.setPort_touch h hp
  refine Touch.ite h (Touch.ite hw ?_)
  split
  · split
    · exact Touch.ite (State.countLost_touch hw hs) (Touch.ite (State.countLost_touch hw hs)
        (State.modCtx_touch (State.countLost_touch hw hs) hpool))
    · exact State.countLost_touch hw hs
  · have hy : Touch P s y := hw.pool hpool rfl
    split
    · exact hy
    · have hz := State.throttleUpdate_touch (State.dropItem_touch (id := ‹_›) hy hs) hs
      dsimp only
      split
      · exact State.modCtx_touch hz hpool
      · exact hz

theorem State.getF_setF_arbGrant (s : State) (a b v : Nat) :
    (s.setF (R.arbGrant a) v).getF (R.arbGrant b) = if b = a then v % 4 else s.getF (R.arbGrant b) := by
  split
  · next h => rw [h, State.getF_setF_same _ _ _ (by decide : 0 + 2 ≤ 32)]; rfl
  · exact State.getF_setF_other _ _ (.inl (by simp only [R.arbGrant]; omega)) (by decide : 0 + 2 ≤ 32)

theorem State.getF_setF_grantEpoch (s : State) (a b v : Nat) :
    (s.setF (R.grantEpoch a) v).getF (R.grantEpoch b) = if b = a then v % 65536 else s.getF (R.grantEpoch b) := by
  split
  · next h => rw [h, State.getF_setF_same _ _ _ (by decide : 16 + 16 ≤ 32)]; rfl
  · exact State.getF_setF_other _ _ (.inl (by simp only [R.grantEpoch]; omega)) (by decide : 16 + 16 ≤ 32)

theorem State.getF_arbGrant_of_epoch (s : State) {a b : Nat} (ha : a ≤ 15) (hb : b ≤ 15) (v : Nat) :
    (s.setF (R.grantEpoch a) v).getF (R.arbGrant b) = s.getF (R.arbGrant b) :=
  State.getF_setF_other _ _ (.inl (by simp only [R.grantEpoch, R.arbGrant]; omega)) (by decide : 0 + 2 ≤ 32)

/-- The grant and its epoch stand at both ports of the pair. -/
def State.recordGrant (s : State) (p q pos e : Nat) : State :=
  (((s.setF (R.arbGrant p) pos).setF (R.arbGrant q) pos).setF (R.grantEpoch p) e).setF (R.grantEpoch q) e

theorem State.recordGrant_spec (s : State) {p q pos : Nat} (e : Nat) (hp : p ≤ 15) (hq : q ≤ 15) (hpos : pos ≤ 2) {x : Nat}
    (hx : x = p ∨ x = q) : (s.recordGrant p q pos e).getF (R.arbGrant x) = pos ∧
      (s.recordGrant p q pos e).getF (R.grantEpoch x) = e % 65536 := by
  have hx15 : x ≤ 15 := by omega
  have hmod : pos % 4 = pos := by omega
  unfold State.recordGrant
  refine ⟨?_, ?_⟩
  · rw [State.getF_arbGrant_of_epoch _ hq hx15, State.getF_arbGrant_of_epoch _ hp hx15, State.getF_setF_arbGrant,
      State.getF_setF_arbGrant, hmod]
    rcases hx with rfl | rfl <;> simp
  · rw [State.getF_setF_grantEpoch, State.getF_setF_grantEpoch]
    rcases hx with rfl | rfl <;> simp

theorem State.grantWord_fields (s : State) (p : Nat) : wget (s.grantWord p) 0 2 = s.getF (R.arbGrant p) ∧
    wget (s.grantWord p) 16 16 = s.getF (R.grantEpoch p) := by
  have hg : s.getF (R.arbGrant p) < 2 ^ 2 := Nat.mod_lt _ (Nat.two_pow_pos _)
  have he : s.getF (R.grantEpoch p) < 2 ^ 16 := Nat.mod_lt _ (Nat.two_pow_pos _)
  have hb : boolNat (s.arb p).ackFrame.isSome ≤ 1 := by cases (s.arb p).ackFrame <;> simp [boolNat]
  have ha := (((s.arb p).ackFrame).getD 0).isLt
  unfold State.grantWord wget nget
  rw [BitVec.toNat_ofNat, Nat.shiftRight_eq_div_pow, Nat.shiftRight_eq_div_pow]
  omega

theorem State.sendGrant_sent (s : State) {p q x : Nat} (hq : s.pairMate p = some q) (ha : s.isActive = true) (hx : x = p ∨ x = q)
    (hx16 : x < 16) : ∃ c ∈ ((s.sendGrant p).port x).ctlQueue, c.mtype = 0x20 ∧ c.target = 0xFFF ∧ c.payload = [s.grantWord p] := by
  unfold State.sendGrant
  simp only [hq, ha, not_true_eq_false, if_false]
  by_cases h : x = q
  · subst h
    exact ⟨_, State.sendMsg_sent _ _ _, rfl, rfl, rfl⟩
  · obtain rfl := hx.resolve_right h
    exact ⟨_, (Steady.sendMsg _ _ _).sent _ hx16 _ (State.sendMsg_sent s _ (.of 0x20 0xFFF (s.portStamp x) [s.grantWord x])),
      rfl, rfl, rfl⟩

theorem State.sendGrant_getF (s : State) (p : Nat) (f : RF) : (s.sendGrant p).getF f = s.getF f := by
  unfold State.sendGrant
  split
  · rfl
  · dsimp only
    split <;> rfl

/-- What the member that loses the grant has sent only in part is dropped where its port is not UP. -/
def State.lapsed (s : State) (p q : Nat) : State :=
  let old := if s.memberPos p = s.getF (R.arbGrant p) then p else q
  if s.getF (R.arbGrant p) < 2 ∧ ¬ s.portUp old then s.dropPartial old else s

/-- What the arbiter's grant changes before it is sent. -/
def grantParts (c : Comp) : Prop := storeParts c ∨ (∃ x, c = .port x) ∨ ∃ o, c = .reg o ∧ 0x7010 ≤ o

theorem State.lapsed_touch (s : State) (p q : Nat) : Touch (fun c => storeParts c ∨ ∃ x, c = .port x) s (s.lapsed p q) :=
  Touch.ite (State.dropPartial_touch (Touch.refl _ s) (fun _ h => .inl h) (.inr ⟨_, rfl⟩)) (Touch.refl _ s)

theorem State.recordGrant_touch {p q pos e : Nat} (h : Touch grantParts s u) : Touch grantParts s (u.recordGrant p q pos e) := by
  have hreg : ∀ o, 0x7010 ≤ o → grantParts (.reg o) := fun o ho => .inr (.inr ⟨o, rfl, ho⟩)
  exact State.setF_touch (State.setF_touch (State.setF_touch (State.setF_touch h (hreg _ (by simp [R.arbGrant])))
    (hreg _ (by simp [R.arbGrant]))) (hreg _ (by simp only [R.grantEpoch]; omega))) (hreg _ (by simp only [R.grantEpoch]; omega))

theorem State.isActive_of_touch (h : Touch P s t) (htri : ¬ P (.tri 1)) (hreg : ¬ P (.reg 0x7000)) : t.isActive = s.isActive := by
  have hbits : ∀ lo n, t.triBits 1 lo n = s.triBits 1 lo n := fun lo n => by
    rw [State.triBits, State.triWord, h.tri htri]; rfl
  have hrole : t.role = s.role := hbits 0 2
  unfold State.isActive State.paired State.merging
  rw [hbits, hrole, h.getF (f := R.active) hreg]

theorem State.setGrant_eq {p q pos : Nat} (hq : s.pairMate p = some q) (h : s.getF (R.arbGrant p) ≠ pos) :
    s.setGrant p pos = ((s.lapsed p q).recordGrant p q pos ((s.lapsed p q).getF (R.grantEpoch p) + 1)).sendGrant p := by
  unfold State.setGrant
  rw [hq]
  exact if_neg h

theorem State.setGrant_spec {p q pos : Nat} (hp : p ≤ 15) (hq15 : q ≤ 15) (hpos : pos ≤ 2) (hq : s.pairMate p = some q)
    (h : s.getF (R.arbGrant p) ≠ pos) {x : Nat} (hx : x = p ∨ x = q) :
    let t := s.setGrant p pos
    t.getF (R.arbGrant x) = pos ∧ t.getF (R.grantEpoch x) = (s.getF (R.grantEpoch p) + 1) % 65536 ∧
      (s.isActive = true → ∃ c ∈ (t.port x).ctlQueue, c.mtype = 0x20 ∧ c.target = 0xFFF ∧ wget (c.payload.headD 0) 0 2 = pos ∧
        wget (c.payload.headD 0) 16 16 = (s.getF (R.grantEpoch p) + 1) % 65536) := by
  have htouch := s.lapsed_touch p q
  have hepoch : (s.lapsed p q).getF (R.grantEpoch p) = s.getF (R.grantEpoch p) :=
    htouch.getF (by simp [storeParts, R.grantEpoch]; omega)
  have hwhole : Touch grantParts s ((s.lapsed p q).recordGrant p q pos ((s.lapsed p q).getF (R.grantEpoch p) + 1)) :=
    State.recordGrant_touch (htouch.mono fun c hc => hc.imp_right .inl)
  have hrecord := fun x hx => (s.lapsed p q).recordGrant_spec ((s.lapsed p q).getF (R.grantEpoch p) + 1) hp hq15 hpos (x := x) hx
  have hmate : ((s.lapsed p q).recordGrant p q pos ((s.lapsed p q).getF (R.grantEpoch p) + 1)).pairMate p = some q :=
    (congrArg (fun v : PairSt => Tab.get none v.mates p) (hwhole.same (c := .pair) (by simp [grantParts, storeParts]))).trans hq
  have hactive : ((s.lapsed p q).recordGrant p q pos ((s.lapsed p q).getF (R.grantEpoch p) + 1)).isActive = s.isActive :=
    State.isActive_of_touch hwhole (by simp [grantParts, storeParts]) (by simp [grantParts, storeParts])
  intro t
  rw [show t = _ from State.setGrant_eq hq h, hepoch] at *
  generalize (s.lapsed p q).recordGrant p q pos (s.getF (R.grantEpoch p) + 1) = v at *
  refine ⟨(v.sendGrant_getF p _).trans (hrecord x hx).1, (v.sendGrant_getF p _).trans (hrecord x hx).2, fun ha => ?_⟩
  obtain ⟨c, hc, htype, htarget, hpayload⟩ := v.sendGrant_sent hmate (hactive.trans ha) hx (by omega)
  obtain ⟨hg, he⟩ := v.grantWord_fields p
  refine ⟨c, hc, htype, htarget, ?_, ?_⟩
  · rw [hpayload]
    exact hg.trans (hrecord p (.inl rfl)).1
  · rw [hpayload]
    exact he.trans (hrecord p (.inl rfl)).2

end Sys2Proof.Machine

namespace Sys2Proof.Machine

variable {s t u : State}

/-! ## PAIR_GRANT (R303, R304, R408) -/

/-- The grant of a child pair, or that of a root pair. -/
def State.grants (s : State) (m : Msg) (w : Word) (pos scope p : Nat) : State :=
  if scope = 0 then
    (if ¬ (s.isRoot ∧ s.paired ∧ s.cfgF C.rootGrantSrc = 0) then s.answer m 4 []
     else (s.applyGrantWord (wset w 0 2 pos)).answer m 0 [])
  else match s.pairMate p with
    | none => s.answer m 4 []
    | some q =>
      let named := if s.memberPos p = pos then p else q
      if pos < 2 ∧ ¬ s.eligible named then s.answer m 4 []
      else (s.setGrant p pos).answer m 0 []

theorem pairGrant_eq {m : Msg} (h : Taken s 0x604 16 statesCR m) : exec .pairGrant s = .next ((s.begun.skip 3).grants m
    (BitVec.ofNat 64 (m.field 8 8)) (s.begun.legal 0 0 2 (wget (BitVec.ofNat 64 (m.field 8 8)) 0 2)) (s.begun.legal 1 0 1 (m.byte 0))
    (s.begun.legal 2 0 15 (m.byte 1))) := congrArg Host.Outcome.next (h.command _)

theorem pairGrant_child {m : Msg} (h : Taken s 0x604 16 statesCR m) (hscope : m.byte 0 = 1) (hp : m.byte 1 ≤ 15) :
    exec .pairGrant s = .next (match s.pairMate (m.byte 1) with
      | none => (s.begun.skip 3).answer m 4 []
      | some q =>
        let pos := s.begun.legal 0 0 2 (wget (BitVec.ofNat 64 (m.field 8 8)) 0 2)
        if pos < 2 ∧ ¬ s.eligible (if s.memberPos (m.byte 1) = pos then m.byte 1 else q) then (s.begun.skip 3).answer m 4 []
        else ((s.begun.skip 3).setGrant (m.byte 1) pos).answer m 0 []) := by
  rw [pairGrant_eq h, State.legal_of_mem (v := m.byte 0) (Nat.zero_le _) (by omega),
    State.legal_of_mem (v := m.byte 1) (Nat.zero_le _) hp, hscope]
  rfl

theorem wset_wget (w : Word) (lo n : Nat) : wset w lo n (wget w lo n) = w := by
  have hmod : nget w.toNat lo n % 2 ^ n = nget w.toNat lo n := Nat.mod_mod _ _
  rw [wset, wget, nset, hmod, Nat.xor_self, Nat.zero_shiftLeft, Nat.xor_zero, BitVec.ofNat_toNat, BitVec.setWidth_eq]

theorem pairGrant_own {m : Msg} (h : Taken s 0x604 16 statesCR m) (hscope : m.byte 0 = 0) :
    let w := BitVec.ofNat 64 (m.field 8 8)
    (¬ (s.isRoot = true ∧ s.paired = true ∧ s.cfgF C.rootGrantSrc = 0) → exec .pairGrant s = .next ((s.begun.skip 3).answer m 4 [])) ∧
    (s.isRoot = true → s.paired = true → s.cfgF C.rootGrantSrc = 0 → wget w 0 2 ≤ 2 →
      exec .pairGrant s = .next (((s.begun.skip 3).applyGrantWord w).answer m 0 [])) := by
  intro w
  have hexec := pairGrant_eq h
  rw [State.legal_of_mem (v := m.byte 0) (Nat.zero_le _) (by omega), hscope] at hexec
  refine ⟨fun hno => hexec.trans (congrArg _ ?_), fun hroot hpaired hsrc hpos => ?_⟩
  · exact (if_pos rfl).trans (if_pos hno)
  · rw [State.legal_of_mem (Nat.zero_le _) hpos, show BitVec.ofNat 64 (m.field 8 8) = w from rfl] at hexec
    refine hexec.trans (congrArg _ ((if_pos rfl).trans ((if_neg (not_not.2 ⟨hroot, hpaired, hsrc⟩)).trans ?_)))
    rw [wset_wget]

/-- An answer changes neither a grant nor its epoch. -/
theorem State.answer_grant (s : State) {m : Msg} (hm : m.mbox < 16) (st : Nat) (l : List Byte) {f : RF} (hf : 0x7010 ≤ f.off)
    (hf' : f.off < 0x7090) : (s.answer m st l).getF f = s.getF f :=
  (s.answer_touches m st l).getF (by
    simp [answerParts, queueParts, memParts, logParts, storeParts]
    omega)

theorem pairGrant_grants {m : Msg} {p q pos : Nat} (h : Taken s 0x604 16 statesCR m) (hscope : m.byte 0 = 1) (hbyte : m.byte 1 = p)
    (hp : p ≤ 15) (hq15 : q ≤ 15) (hq : s.pairMate p = some q) (hw : wget (BitVec.ofNat 64 (m.field 8 8)) 0 2 = pos) (hpos : pos ≤ 2) :
    let named := if s.memberPos p = pos then p else q
    (pos < 2 → s.eligible named = false → exec .pairGrant s = .next ((s.begun.skip 3).answer m 4 [])) ∧
    (pos = 2 ∨ s.eligible named = true → s.getF (R.arbGrant p) ≠ pos →
      ∃ t, exec .pairGrant s = .next t ∧ t.getF (R.mboxState m.mbox) = 0 ∧
        ∀ x, x = p ∨ x = q → t.getF (R.arbGrant x) = pos ∧ t.getF (R.grantEpoch x) = (s.getF (R.grantEpoch p) + 1) % 65536 ∧
          (s.isActive = true → ∃ c ∈ (t.port x).ctlQueue, c.mtype = 0x20 ∧ c.target = 0xFFF ∧ wget (c.payload.headD 0) 0 2 = pos ∧
            wget (c.payload.headD 0) 16 16 = (s.getF (R.grantEpoch p) + 1) % 65536)) := by
  intro named
  have hexec := pairGrant_child h hscope (hbyte ▸ hp)
  rw [hbyte, hw, hq, State.legal_of_mem (Nat.zero_le _) hpos] at hexec
  dsimp only at hexec
  refine ⟨fun hlt hno => ?_, fun hmay hne => ?_⟩
  · rw [hexec, if_pos ⟨hlt, by rw [show s.eligible _ = false from hno]; simp⟩]
  · rw [if_neg (by rintro ⟨hlt, hno⟩; exact hmay.elim (fun h => by omega) hno)] at hexec
    refine ⟨_, hexec, State.answer_mboxState .., fun x hx => ?_⟩
    obtain ⟨hgrant, hepoch, hsent⟩ := State.setGrant_spec (s := s.begun.skip 3) hp hq15 hpos hq hne hx
    refine ⟨?_, ?_, fun ha => ?_⟩
    · rw [State.answer_grant _ h.2.1 _ _ (by simp [R.arbGrant]) (by simp only [R.arbGrant]; omega)]
      exact hgrant
    · rw [State.answer_grant _ h.2.1 _ _ (by simp only [R.grantEpoch]; omega) (by simp only [R.grantEpoch]; omega)]
      exact hepoch
    · obtain ⟨c, hc, hrest⟩ := hsent ha
      exact ⟨c, (Steady.answer _ h.2.1 0 []).sent x (by omega) c hc, hrest⟩

/-! ## ENUM_START (R407, R466) -/

theorem enumStart_eq {m : Msg} (h : Taken s 0x600 0 statesUC m) : exec .enumStart s = .next (
    if ¬ s.isRoot ∨ stampClass m.stamp ≠ 1 ∨ (s.paired ∧ s.pairPos = 1) then s.begun.answer m 4 [] else s.begun.beginEnum m) :=
  congrArg Host.Outcome.next (h.command _)

/-- Settles O38, each command by what it does to the tree, the routes or the grant, said above. -/
theorem treeCommandsAssignRouteAndGrant : Obligations.TreeCommandsAssignRouteAndGrant := by
  unfold Obligations.TreeCommandsAssignRouteAndGrant
  refine ⟨?_, ?_, fun x up pairs => ⟨jobsOf_ascending x up pairs, jobsOf_ports x up pairs, jobsOf_followed x up pairs⟩,
    fun s j a bytes ha htag => State.takeReply_ask ha htag, ?_, fun s j a port hf ha => enumReplyTimeout_ask hf ha,
    fun s m h hparent himage => enumAssign_assigns h hparent himage, ?_, fun s m h => enumRelay_relays h,
    fun s m a port hf hnone ha hport hlate hw _ => enumReplyTimeout_relay hf hnone ha hport hlate hw, ?_,
    fun s m p q pos h hscope hbyte hp hq15 hq hw hpos => pairGrant_grants h hscope hbyte hp hq15 hq hw hpos, ?_,
    fun s m h hscope => pairGrant_own h hscope, fun s m h hp hf => pairForceFail_fails h hp hf, ?_, fun s m h => linkRetrain_trains h⟩
  · intro s m h hroot hhost hunpaired h0 hwaits
    have hexec : exec .enumStart s = .next (s.begun.beginEnum m) := by
      rw [enumStart_eq h, if_neg (by simp [hroot, hhost, hunpaired])]
    refine ⟨fun hup => ?_, fun hup => ?_⟩
    · obtain ⟨v, hv, hrest⟩ := State.beginEnum_lone (s := s.begun) hunpaired h0 m hup hwaits
      exact ⟨v, hexec.trans (congrArg _ hv), hrest⟩
    · obtain ⟨j, rest, hj⟩ := List.exists_cons_of_ne_nil (jobsOf_ne_nil 0 s.southPairs hup s.southMask_lt)
      obtain ⟨hwork, hnext, hnodes, hask, hrest⟩ := State.beginEnum_asks (s := s.begun) hunpaired h0 m hj
      exact ⟨_, j, rest, hexec, hj, hwork, hnext, hnodes, hask, hrest⟩
  · intro s m h hno
    rw [enumStart_eq h, if_pos]
    rcases hno with hno | hno
    · exact .inl (by simp [hno])
    · exact .inr (.inl hno)
  · intro s j j' rest r hw hn e t u
    obtain ⟨b, c, n, ht, -⟩ := State.jobDone_enum (j := j) (answer := some r) hw hn
    obtain ⟨b', c', n', hu, hfault⟩ := State.jobDone_enum (j := j) (answer := none) hw hn
    obtain ⟨hnodes, hnext, -, -, hfour⟩ := s.fw.enum.answered_none j
    rw [show t.fw.enum = _ from ht, show u.fw.enum = _ from hu, s.fw.enum.answered_some j r]
    refine ⟨rfl, rfl, rfl, rfl, ⟨b, rfl⟩, hnodes, rfl, hnext, fun h0 => ?_⟩
    obtain ⟨h4, hnode⟩ := hfour h0
    obtain ⟨hc, hn'⟩ := hfault (by rw [h4]; decide)
    exact ⟨hc.trans h4, hn'.trans hnode⟩
  · intro s m h hno
    exact congrArg Host.Outcome.next ((h.command _).trans (if_pos hno))
  · intro s m final h
    obtain ⟨t, ht, hrouted, hroutes, hmbox⟩ := enumRoute_routes final h
    exact ⟨t, ht, hrouted, fun p hp k hk hle => hroutes p hp ▸ mem_portRoutes hk hle, hmbox⟩
  · intro s m h hscope hp hnone
    rw [pairGrant_child h hscope hp, hnone]
  · intro s m h hp
    exact congrArg Host.Outcome.next ((h.command _).trans (if_neg (by show ¬ s.paired = true; simp [hp])))

end Sys2Proof.Machine

namespace Sys2Proof.Machine

variable {s t u : State} {P : Comp → Prop}

/-! ## Flags that are set and parts that an operation reaches once (R486) -/

/-- A flag stands below its occurrence counter of 8 bits. -/
def FlagF.Apart (f : FlagF) : Prop := f.flag.w = 1 ∧ f.occ.w = 8 ∧ f.flag.lo + 1 ≤ f.occ.lo ∧ f.occ.lo + 8 ≤ 32

theorem State.setFlag_spec (s : State) {f : FlagF} (h : f.Apart) :
    (s.setFlag f).getF f.flag = 1 ∧ (s.setFlag f).getF f.occ = (s.getF f.occ + 1) % 256 := by
  obtain ⟨hw, ho, hlo, hhi⟩ := h
  have hocc : (s.setF f.flag 1).getF f.occ = s.getF f.occ :=
    State.getF_setF_other s 1 (.inr (.inr (by omega))) (by omega)
  refine ⟨?_, ?_⟩
  · rw [State.setFlag, State.incWrap, State.getF_setF_other _ _ (.inr (.inl (by omega))) (by omega),
      State.getF_setF_same _ _ _ (by omega), hw]
    rfl
  · rw [State.setFlag, State.getF_incWrap_same _ _ _ (by omega), hocc, ho]
    rfl

theorem State.setFlag_getF_other (s : State) {f : FlagF} {g : RF}
    (hf : g.off ≠ f.flag.off ∨ g.lo + g.w ≤ f.flag.lo ∨ f.flag.lo + f.flag.w ≤ g.lo)
    (ho : g.off ≠ f.occ.off ∨ g.lo + g.w ≤ f.occ.lo ∨ f.occ.lo + f.occ.w ≤ g.lo) (hg : g.lo + g.w ≤ 32) :
    (s.setFlag f).getF g = s.getF g := by
  rw [State.setFlag, State.incWrap, State.getF_setF_other _ _ ho hg, State.getF_setF_other _ _ hf hg]

/-- A fold reaches each member of a list without repetition once, between changes of the others' parts. -/
theorem Touch.foldl_once {Q : Nat → Comp → Prop} {f : State → Nat → State} {l : List Nat} (hl : l.Nodup)
    (hf : ∀ v, ∀ q ∈ l, Touch (Q q) v (f v q)) {r : Nat} (hr : r ∈ l) (s : State) :
    ∃ v, Touch (fun c => ∃ q ∈ l, q ≠ r ∧ Q q c) s v ∧ Touch (fun c => ∃ q ∈ l, q ≠ r ∧ Q q c) (f v r) (l.foldl f s) := by
  obtain ⟨a, b, rfl⟩ := List.append_of_mem hr
  have hnot : ∀ q ∈ a ++ b, q ≠ r := by
    rintro q hq rfl
    have hperm := (List.nodup_middle.1 hl)
    exact (List.nodup_cons.1 hperm).1 hq
  have hpart : ∀ (m : List Nat), (∀ q ∈ m, q ∈ a ++ b) → ∀ w,
      Touch (fun c => ∃ q ∈ a ++ r :: b, q ≠ r ∧ Q q c) w (m.foldl f w) := fun m hm w =>
    Touch.foldl_mem m (Touch.refl _ w) fun v q hq hv => by
      have hmem : q ∈ a ++ r :: b := by
        have := hm q hq
        simp only [List.mem_append, List.mem_cons] at this ⊢
        tauto
      exact hv.trans ((hf v q hmem).mono fun c hc => ⟨q, hmem, hnot q (hm q hq), hc⟩)
  refine ⟨a.foldl f s, hpart a (fun q hq => List.mem_append_left _ hq) s, ?_⟩
  rw [List.foldl_append, List.foldl_cons]
  exact hpart b (fun q hq => List.mem_append_right _ hq) _

/-- The registers that no item or notice that enters a queue changes. -/
theorem not_queueParts_reg {o : Nat} (h : o < 0x3000 ∨ 0x9000 ≤ o) : ¬ queueParts (.reg o) := by
  simp [queueParts, memParts, logParts, storeParts]
  omega

/-! ## The vote over the coarse counter copies (R55) -/

theorem copiesOf_cons (v x : BitVec 48) (l : List (BitVec 48)) :
    copiesOf v (x :: l) = (if x = v then 1 else 0) + copiesOf v l := by
  unfold copiesOf
  rw [List.filter_cons]
  split <;> simp_all [Nat.add_comm]

theorem mem_of_copiesOf_pos {v : BitVec 48} {l : List (BitVec 48)} (h : 0 < copiesOf v l) : v ∈ l := by
  obtain ⟨x, hx⟩ := List.exists_mem_of_length_pos h
  obtain ⟨hmem, heq⟩ := List.mem_filter.1 hx
  exact of_decide_eq_true heq ▸ hmem

theorem copiesOf_pos_of_mem {v : BitVec 48} {l : List (BitVec 48)} (h : v ∈ l) : 0 < copiesOf v l :=
  List.length_pos_of_mem (List.mem_filter.2 ⟨h, decide_eq_true rfl⟩)

/-- Different values have different copies. -/
theorem copiesOf_two_le {a b : BitVec 48} (hab : a ≠ b) (l : List (BitVec 48)) : copiesOf a l + copiesOf b l ≤ l.length := by
  induction l with
  | nil => simp [copiesOf]
  | cons x l ih =>
    rw [copiesOf_cons, copiesOf_cons, List.length_cons]
    split_ifs with ha hb
    · exact absurd (ha.symm.trans hb) hab
    all_goals omega

theorem copiesOf_three_le {a b c : BitVec 48} (hab : a ≠ b) (hca : c ≠ a) (hcb : c ≠ b) (l : List (BitVec 48)) :
    copiesOf a l + copiesOf b l + copiesOf c l ≤ l.length := by
  induction l with
  | nil => simp [copiesOf]
  | cons x l ih =>
    rw [copiesOf_cons, copiesOf_cons, copiesOf_cons, List.length_cons]
    by_cases hxa : x = a
    · simp [hxa, hab, hca.symm]; omega
    · by_cases hxb : x = b
      · simp [hxb, hab.symm, hcb.symm]; omega
      · simp [hxa, hxb]; split <;> omega

/-- A majority is taken, whatever is expected. -/
theorem voteTake_majority {l : List (BitVec 48)} {v : BitVec 48} (h : l.length < 2 * copiesOf v l) (e : BitVec 48) (k : Nat) :
    voteTake l e k = v := by
  have hfind : l.find? (fun w => decide (l.length < 2 * copiesOf w l)) = some v := by
    cases hw : l.find? (fun w => decide (l.length < 2 * copiesOf w l)) with
    | none => exact absurd (decide_eq_true h) (List.find?_eq_none.1 hw v (mem_of_copiesOf_pos (by omega)))
    | some w =>
      have hmaj : l.length < 2 * copiesOf w l := by simpa using List.find?_some hw
      by_contra hne
      have := copiesOf_two_le (fun heq : w = v => hne (congrArg some heq)) l
      omega
  unfold voteTake
  dsimp only
  rw [hfind]

/-- On an even split the expected value is taken where the other side holds it, else the first copy. -/
theorem voteTake_split {l : List (BitVec 48)} {a b : BitVec 48} (hab : a ≠ b) (hhead : l.head? = some a)
    (ha : l.length = 2 * copiesOf a l) (hb : l.length = 2 * copiesOf b l) (e : BitVec 48) (k : Nat) :
    voteTake l e k = if b = e then b else a := by
  have hpos : 0 < copiesOf a l := copiesOf_pos_of_mem (List.mem_of_mem_head? hhead)
  have hsides : ∀ x, x ∈ l → x = a ∨ x = b := by
    intro x hx
    by_contra hne
    have := copiesOf_three_le hab (fun h => hne (.inl h)) (fun h => hne (.inr h)) l
    have := copiesOf_pos_of_mem hx
    omega
  have hnone : l.find? (fun w => decide (l.length < 2 * copiesOf w l)) = none := by
    refine List.find?_eq_none.2 fun x hx hmaj => ?_
    have hlt : l.length < 2 * copiesOf x l := of_decide_eq_true hmaj
    rcases hsides x hx with rfl | rfl <;> omega
  have hfirst : l.headD e = a := by rw [List.headD_eq_head?_getD, hhead]; rfl
  have hother : l.find? (fun v => decide (v ≠ a)) = some b := by
    cases hx : l.find? (fun v => decide (v ≠ a)) with
    | none => exact absurd (decide_eq_true hab.symm) (List.find?_eq_none.1 hx b (mem_of_copiesOf_pos (by omega)))
    | some x => exact congrArg some ((hsides x (List.mem_of_find?_eq_some hx)).resolve_left (by simpa using List.find?_some hx))
  unfold voteTake
  dsimp only
  rw [hnone, hfirst, hother]
  exact if_pos ⟨ha, hb⟩

/-- Settles O15. -/
theorem voteTakesMajorityOrExpected : Obligations.VoteTakesMajorityOrExpected :=
  ⟨fun _ _ e k h => voteTake_majority h e k, fun _ _ _ e k hab hhead ha hb => voteTake_split hab hhead ha hb e k⟩

/-! ## Windows (R61, R64) -/

/-- Settles O18: each command is one branch of its definition. -/
theorem windowOpensClosesAndHoldsOff : Obligations.WindowOpensClosesAndHoldsOff := by
  intro s w hw
  refine ⟨fun hreached hgoes => ?_, fun hreached => ?_, fun hreached => ?_, fun u hu => ?_⟩
  · show execWindowOpen s = _
    unfold execWindowOpen
    rw [hw]
    exact congrArg _ (if_pos ⟨hreached, by simp [hgoes]⟩)
  · show execWindowClose s = _
    unfold execWindowClose
    rw [hw]
    exact congrArg _ (if_pos hreached)
  · show execStartHoldoffEnd s = _
    unfold execStartHoldoffEnd
    rw [hw]
    exact congrArg _ (if_pos hreached)
  · show execWindowOpen u = _ ∧ execWindowClose u = _ ∧ execStartHoldoffEnd u = _
    unfold execWindowOpen execWindowClose execStartHoldoffEnd
    rw [hu]
    exact ⟨rfl, rfl, rfl⟩

/-! ## The bound of a hold-over (R69, R71) -/

/-- The published bound is what was held and the drift since; a fraction of a picosecond counts or not (assumption 4). -/
theorem State.publishBound_grows (s : State) (r : Nat) (h : ¬ (s.getF (R.realign r) = 1 ∧ s.refPresent = true)) :
    let n := (s.ticks - (s.region r).holdSince) * 625 * (256 + 4 * (s.region r).dtMax)
    let b := (s.region r).boundHeld + n / 128000000
    (n % 128000000 = 0 → (s.publishBound r).getF (R.holdoverBound r) = min 0xFFFFFFFF b) ∧
    ((s.publishBound r).getF (R.holdoverBound r) = min 0xFFFFFFFF b ∨
      (s.publishBound r).getF (R.holdoverBound r) = min 0xFFFFFFFF (b + 1)) ∧
    Frame (fun c => c = .free ∨ c = .reg (0x1024 + 4 * r)) s (s.publishBound r) := by
  intro n b
  have heq : s.publishBound r = (s.setF (R.holdoverBound r) (s.boundNow r)).drawn := if_neg h
  have hnow : s.boundNow r = min 0xFFFFFFFF (b + if n % 128000000 = 0 then 0 else boolNat s.freshBit) := rfl
  have hread : (s.publishBound r).getF (R.holdoverBound r) = s.boundNow r := by
    rw [heq]
    refine (State.getF_setF_same s (R.holdoverBound r) _ (by simp only [R.holdoverBound]; omega)).trans (Nat.mod_eq_of_lt ?_)
    have : s.boundNow r ≤ 0xFFFFFFFF := Nat.min_le_left _ _
    show s.boundNow r < 2 ^ 32
    omega
  refine ⟨fun h0 => ?_, ?_, ?_⟩
  · rw [hread, hnow, if_pos h0]
    rfl
  · rw [hread, hnow]
    split
    · exact .inl rfl
    · cases s.freshBit
      · exact .inl rfl
      · exact .inr rfl
  · rw [heq]
    exact (State.drawn_touch (State.setF_touch (Touch.refl _ s) (.inr rfl)) (.inl rfl)).frame

/-- Settles O14: in HOLDOVER and SLEW the bound is published, unless REALIGN_NEEDED holds it with the reference present. -/
theorem holdoverBoundGrowsByDrift : Obligations.HoldoverBoundGrowsByDrift := by
  unfold Obligations.HoldoverBoundGrowsByDrift
  intro grows s r
  have hexec : ∀ s : State, exec (.holdoverBoundUpdate r) s =
      .next (if s.regionState r = 3 ∨ s.regionState r = 4 then s.publishBound r else s) := fun _ => rfl
  have hgrows : (s.regionState r = 3 ∨ s.regionState r = 4) → ¬ (s.getF (R.realign r) = 1 ∧ s.refPresent = true) → grows s r := by
    intro hst hfree
    obtain ⟨hwhole, hround, hframe⟩ := s.publishBound_grows r hfree
    exact ⟨s.publishBound r, by rw [hexec, if_pos hst], ⟨hwhole, hround⟩, hframe⟩
  refine ⟨fun h3 hr => hgrows (.inl h3) (by simp [hr]), fun h3 _ hp => hgrows (.inl h3) (by simp [hp]), fun h3 hr hp => ?_,
    fun h4 hr => hgrows (.inr h4) (by simp [hr]), fun h3 h4 => ?_⟩
  · rw [hexec, if_pos (.inl h3)]
    exact congrArg _ (if_pos ⟨hr, hp⟩)
  · rw [hexec, if_neg (by simp [h3, h4])]

end Sys2Proof.Machine

namespace Sys2Proof.Machine

variable {s t u : State} {P : Comp → Prop} {r : Nat}

/-! ## What a timebase's change of state changes (R52, R67-R71) -/

/-- The region, its two registers and its loop, and the queues, for its notice. -/
def tbParts (r : Nat) (c : Comp) : Prop :=
  queueParts c ∨ c = .region r ∨ c = .loop ∨ c = .reg (0x1000 + 4 * r) ∨ c = .reg (0x1024 + 4 * r)

theorem not_tbParts_reg {o : Nat} (h : o < 0x3000 ∨ 0x9000 ≤ o) (h0 : o ≠ 0x1000 + 4 * r) (h1 : o ≠ 0x1024 + 4 * r) :
    ¬ tbParts r (.reg o) := by
  rintro (hq | hq | hq | hq | hq)
  · exact not_queueParts_reg h hq
  all_goals simp_all

theorem tbParts_state : tbParts r (.reg (R.tbState r).off) := .inr (.inr (.inr (.inl rfl)))
theorem tbParts_bound : tbParts r (.reg (R.holdoverBound r).off) := .inr (.inr (.inr (.inr rfl)))

theorem State.setTb_tbParts {st : Nat} (h : Touch (tbParts r) s u) : Touch (tbParts r) s (u.setTb r st) :=
  State.setF_touch (State.setF_touch h tbParts_state) tbParts_state

theorem State.setRegion_tbParts {v : Region} (h : Touch (tbParts r) s u) : Touch (tbParts r) s (u.setRegion r v) :=
  State.setRegion_touch h (.inr (.inl rfl))

theorem State.freezeTrim_tbParts (h : Touch (tbParts r) s u) : Touch (tbParts r) s (u.freezeTrim r) :=
  State.setPid_touch h (.inr (.inr (.inl rfl)))

theorem State.tbNotice_tbParts (h : Touch (tbParts r) s u) : Touch (tbParts r) s (u.tbNotice r) :=
  State.tbNotice_touch h fun _ => .inl

theorem State.tbNotice_getF (s : State) (r : Nat) {f : RF} (h : f.off < 0x3000 ∨ 0x9000 ≤ f.off) : (s.tbNotice r).getF f = s.getF f :=
  (State.tbNotice_touch (Touch.refl queueParts s) fun _ => id).getF (not_queueParts_reg h)

theorem State.tbNotice_region (s : State) (r q : Nat) : (s.tbNotice r).region q = s.region q :=
  (State.tbNotice_touch (Touch.refl queueParts s) fun _ => id).same (c := .region q)
    (by simp [queueParts, memParts, logParts, storeParts])

theorem State.tbNotice_regionState (s : State) (r : Nat) {q : Nat} (hq : q < 8) : (s.tbNotice r).regionState q = s.regionState q :=
  s.tbNotice_getF r (.inl (by simp only [R.tbState]; omega))

theorem lockLost_apart (r : Nat) : (R.lockLost r).Apart := ⟨rfl, rfl, by simp [R.lockLost], by simp [R.lockLost]⟩

theorem State.setTb_calFrozen (s : State) (r st : Nat) : (s.setTb r st).getF (R.calFrozen r) = if st = 2 then 0 else 1 := by
  unfold State.setTb
  rw [State.getF_setF_same _ _ _ (by simp [R.calFrozen])]
  split <;> rfl

/-- A timebase's state and CAL_FROZEN are all that a change of its state shows. -/
theorem State.setTb_getF (s : State) (r st : Nat) {f : RF} (h : f.off ≠ 0x1000 + 4 * r ∨ f = R.realign r ∨ 5 ≤ f.lo)
    (hf : f.lo + f.w ≤ 32) :
    (s.setTb r st).getF f = s.getF f := by
  have hfrozen : f.off ≠ (R.calFrozen r).off ∨ f.lo + f.w ≤ (R.calFrozen r).lo ∨ (R.calFrozen r).lo + (R.calFrozen r).w ≤ f.lo := by
    rcases h with h | rfl | h
    · exact .inl h
    · exact .inr (.inl (by simp [R.realign, R.calFrozen]))
    · exact .inr (.inr h)
  have hstate : f.off ≠ (R.tbState r).off ∨ f.lo + f.w ≤ (R.tbState r).lo ∨ (R.tbState r).lo + (R.tbState r).w ≤ f.lo := by
    rcases h with h | rfl | h
    · exact .inl h
    · exact .inr (.inr (by simp [R.realign, R.tbState]))
    · exact .inr (.inr (by simp only [R.tbState]; omega))
  unfold State.setTb
  rw [State.getF_setF_other _ _ hfrozen hf, State.getF_setF_other _ _ hstate hf]

/-- HOLDOVER_BOUNDn is a word of its own. -/
theorem State.setBound_getF (s : State) (r v : Nat) {f : RF} (h : f.off ≠ 0x1024 + 4 * r) (hf : f.lo + f.w ≤ 32) :
    (s.setF (R.holdoverBound r) v).getF f = s.getF f := State.getF_setF_other _ _ (.inl h) hf

theorem State.setBound_bound (s : State) (r v : Nat) : (s.setF (R.holdoverBound r) v).getF (R.holdoverBound r) = v % 2 ^ 32 :=
  State.getF_setF_same _ _ _ (by simp [R.holdoverBound])

theorem State.enterHoldover_tbParts (h : Touch (tbParts r) s u) : Touch (tbParts r) s (u.enterHoldover r) :=
  State.tbNotice_tbParts (State.setF_touch (State.setFlag_touch (State.setTb_tbParts (State.setRegion_tbParts
    (State.freezeTrim_tbParts h))) tbParts_state tbParts_state) tbParts_bound)

/-- A region that enters HOLDOVER (R52, R67, R69). -/
theorem State.enterHoldover_spec (s : State) (hr : r < 8) :
    (s.enterHoldover r).regionState r = 3 ∧ (s.enterHoldover r).getF (R.lockLost r).flag = 1 ∧
      (s.enterHoldover r).getF (R.lockLost r).occ = (s.getF (R.lockLost r).occ + 1) % 256 ∧
      (s.enterHoldover r).getF (R.calFrozen r) = 1 ∧ (s.enterHoldover r).getF (R.holdoverBound r) = 50 := by
  obtain ⟨v, hv, hs⟩ : ∃ v : State, s.enterHoldover r =
      (((v.setTb r 3).setFlag (R.lockLost r)).setF (R.holdoverBound r) 50).tbNotice r ∧ ∀ f, v.getF f = s.getF f :=
    ⟨_, rfl, fun _ => rfl⟩
  have hword : ∀ f : RF, f.off = 0x1000 + 4 * r → f.lo + f.w ≤ 32 →
      (s.enterHoldover r).getF f = ((v.setTb r 3).setFlag (R.lockLost r)).getF f := fun f ho hf => by
    rw [hv, State.tbNotice_getF _ _ (.inl (by omega)), State.setBound_getF _ _ _ (by omega) hf]
  obtain ⟨hflag, hocc⟩ := State.setFlag_spec (v.setTb r 3) (lockLost_apart r)
  refine ⟨?_, ?_, ?_, ?_, ?_⟩
  · rw [State.regionState, hword _ rfl (by simp [R.tbState]), State.setFlag_getF_other _ (.inr (.inl (by simp [R.tbState, R.lockLost])))
      (.inr (.inl (by simp [R.tbState, R.lockLost]))) (by simp [R.tbState])]
    exact (State.setTb_regionState v r 3 r).trans (if_pos rfl)
  · rw [hword _ rfl (by simp [R.lockLost]), hflag]
  · rw [hword _ rfl (by simp [R.lockLost]), hocc, State.setTb_getF _ _ _ (.inr (.inr (by simp [R.lockLost]))) (by simp [R.lockLost]), hs]
  · rw [hword _ rfl (by simp [R.calFrozen]), State.setFlag_getF_other _ (.inr (.inl (by simp [R.calFrozen, R.lockLost])))
      (.inr (.inl (by simp [R.calFrozen, R.lockLost]))) (by simp [R.calFrozen])]
    exact v.setTb_calFrozen r 3
  · rw [hv, State.tbNotice_getF _ _ (.inl (by simp only [R.holdoverBound]; omega)), State.setBound_bound]
    rfl

/-! ### A region whose reference goes or returns -/

theorem timebases_once {f : State → Nat → State} (hf : ∀ v q, Touch (tbParts q) v (f v q)) (hr : r < 8) (s : State) :
    ∃ v, ∀ g : RF, g.off = 0x1000 + 4 * r ∨ g.off = 0x1024 + 4 * r →
      v.getF g = s.getF g ∧ ((List.range 8).foldl f s).getF g = (f v r).getF g := by
  obtain ⟨v, hs, ht⟩ := Touch.foldl_once List.nodup_range (fun v q _ => hf v q) (List.mem_range.2 hr) s
  refine ⟨v, fun g hg => ?_⟩
  have haway : ¬ ∃ q ∈ List.range 8, q ≠ r ∧ tbParts q (.reg g.off) := by
    rintro ⟨q, hq, hne, hc⟩
    have := List.mem_range.1 hq
    exact not_tbParts_reg (.inl (by omega)) (by omega) (by omega) hc
  exact ⟨hs.getF haway, ht.getF haway⟩

/-- All timebases' parts. -/
theorem timebases_touch {f : State → Nat → State} (hf : ∀ v q, Touch (tbParts q) v (f v q)) (s : State) :
    Touch (fun c => ∃ q < 8, tbParts q c) s ((List.range 8).foldl f s) :=
  Touch.foldl_mem _ (Touch.refl _ s) fun v q hq hv => hv.trans ((hf v q).mono fun _ hc => ⟨q, List.mem_range.1 hq, hc⟩)

/-- What the loss of the reference does to one region. -/
def State.regionLost (s : State) (r : Nat) : State :=
  match s.regionState r with
  | 2 => (s.enterHoldover r).setRegion r { (s.enterHoldover r).region r with retry := false }
  | 4 => s.slewLost r
  | 3 => if s.getF (R.realign r) = 1 then s.heldLost r else s.setRegion r { s.region r with retry := false }
  | _ => s

theorem State.referenceLost_eq (s : State) : s.referenceLost = (List.range 8).foldl State.regionLost s := rfl

theorem State.regionLost_tbParts (s : State) (r : Nat) : Touch (tbParts r) s (s.regionLost r) := by
  have h0 := Touch.refl (tbParts r) s
  unfold State.regionLost
  split
  · exact State.setRegion_tbParts (State.enterHoldover_tbParts h0)
  · exact State.tbNotice_tbParts (State.setTb_tbParts (State.freezeTrim_tbParts (State.setRegion_tbParts h0)))
  · exact Touch.ite (State.freezeTrim_tbParts (State.setRegion_tbParts h0)) (State.setRegion_tbParts h0)
  · exact h0

theorem State.regionLost_locked (s : State) (hr : r < 8) (h : s.regionState r = 2) :
    (s.regionLost r).regionState r = 3 ∧ (s.regionLost r).getF (R.lockLost r).flag = 1 ∧
      (s.regionLost r).getF (R.calFrozen r) = 1 ∧ (s.regionLost r).getF (R.holdoverBound r) = 50 := by
  obtain ⟨hst, hflag, -, hfrozen, hbound⟩ := s.enterHoldover_spec hr
  unfold State.regionLost
  rw [h]
  exact ⟨hst, hflag, hfrozen, hbound⟩

theorem State.regionLost_slews (s : State) (hr : r < 8) (h : s.regionState r = 4) : (s.regionLost r).regionState r = 3 := by
  unfold State.regionLost
  rw [h]
  refine (State.tbNotice_regionState _ r hr).trans ?_
  rw [State.setTb_regionState, if_pos rfl]

theorem State.regionLost_other (s : State) (h2 : s.regionState r ≠ 2) (h4 : s.regionState r ≠ 4) :
    (s.regionLost r).regionState r = s.regionState r := by
  unfold State.regionLost
  split
  · exact absurd ‹_› h2
  · exact absurd ‹_› h4
  · split <;> rfl
  · rfl

/-! ### A loop that closes again (R70, R71) -/

/-- A region's loop may close again: it no longer waits for a comparison, and keeps no offset. -/
def State.retried (s : State) (r : Nat) : State := s.setRegion r { s.region r with retry := false, keptOffset := none }

theorem State.reclose_held (h : s.regionState r ≠ 3 ∨ s.getF (R.realign r) = 1) : s.reclose r = s.retried r := by
  unfold State.reclose
  by_cases h3 : s.regionState r = 3
  · exact (if_neg (not_not.2 h3)).trans (if_pos (h.resolve_left (not_not.2 h3)))
  · exact if_pos h3

theorem State.reclose_slews (h : s.regionState r = 3) (hr : s.getF (R.realign r) = 0) (hb : s.getF (R.holdoverBound r) < 3125) :
    s.reclose r = ((s.retried r).setRegion r { (s.retried r).region r with goodRun := 0 }).setTb r 4 := by
  unfold State.reclose
  exact (if_neg (not_not.2 h)).trans ((if_neg (by show ¬ s.getF (R.realign r) = 1; omega)).trans (if_pos hb))

theorem State.reclose_waits (h : s.regionState r = 3) (hr : s.getF (R.realign r) = 0) (hb : 3125 ≤ s.getF (R.holdoverBound r)) :
    s.reclose r = (((s.retried r).setRegion r { (s.retried r).region r with realignFrom := s.time.starts + 1 }).setF
      (R.realign r) 1).tbNotice r := by
  unfold State.reclose
  exact (if_neg (not_not.2 h)).trans ((if_neg (by show ¬ s.getF (R.realign r) = 1; omega)).trans
    (if_neg (by show ¬ s.getF (R.holdoverBound r) < 3125; omega)))

theorem State.realign_zero_or_one (s : State) (r : Nat) : s.getF (R.realign r) = 0 ∨ s.getF (R.realign r) = 1 := by
  have := s.getF_lt (R.realign r)
  have hw : 2 ^ (R.realign r).w = 2 := rfl
  omega

theorem State.reclose_tbParts (s : State) (r : Nat) : Touch (tbParts r) s (s.reclose r) := by
  have h0 : Touch (tbParts r) s (s.retried r) := State.setRegion_tbParts (Touch.refl _ s)
  by_cases h3 : s.regionState r = 3
  · rcases s.realign_zero_or_one r with h | h
    · by_cases hb : s.getF (R.holdoverBound r) < 3125
      · rw [State.reclose_slews h3 h hb]
        exact State.setTb_tbParts (State.setRegion_tbParts h0)
      · rw [State.reclose_waits h3 h (not_lt.1 hb)]
        exact State.tbNotice_tbParts (State.setF_touch (State.setRegion_tbParts h0) tbParts_state)
    · rw [State.reclose_held (.inr h)]
      exact h0
  · rw [State.reclose_held (.inl h3)]
    exact h0

theorem State.reclose_slews_state (h : s.regionState r = 3) (hr : s.getF (R.realign r) = 0) (hb : s.getF (R.holdoverBound r) < 3125) :
    (s.reclose r).regionState r = 4 := by
  rw [State.reclose_slews h hr hb, State.setTb_regionState, if_pos rfl]

theorem State.reclose_waits_state (hr8 : r < 8) (h : s.regionState r = 3) (hr : s.getF (R.realign r) = 0)
    (hb : 3125 ≤ s.getF (R.holdoverBound r)) : (s.reclose r).regionState r = 3 ∧ (s.reclose r).getF (R.realign r) = 1 := by
  rw [State.reclose_waits h hr hb]
  refine ⟨?_, ?_⟩
  · rw [State.tbNotice_regionState _ _ hr8, State.regionState,
      State.getF_setF_other _ _ (.inr (.inl (by simp [R.tbState, R.realign]))) (by simp [R.tbState])]
    exact h
  · rw [State.tbNotice_getF _ _ (.inl (by simp only [R.realign]; omega)), State.getF_setF_same _ _ _ (by simp [R.realign])]
    rfl

theorem State.reclose_other_state (h : s.regionState r ≠ 3) : (s.reclose r).regionState r = s.regionState r := by
  rw [State.reclose_held (.inl h)]
  rfl

@[simp] theorem State.reclose_kept (s : State) (r : Nat) : (s.reclose r).kept = s.kept := by
  unfold State.reclose
  exact kept_ite rfl (kept_ite rfl (kept_ite rfl (State.tbNotice_kept _ _)))

theorem State.referenceBack_kept (s : State) : s.referenceBack.kept = s.kept := kept_foldl (fun v r => v.reclose_kept r) _ s

/-! ## The transmitters' reference moves (R463) -/

theorem State.degraded_of_touch (h : Touch P s t) (hc : ¬ P (.reg 0x1020)) : t.degraded = s.degraded := by
  rw [State.degraded, h.getF hc, State.degraded]

/-- What a port that trains anew changes where the reference is not a recovered clock: no timebase, no configuration, and not the role. -/
def movedParts : Comp → Prop
  | .tri _ => False
  | .cfg _ => False
  | .reg o => 0x2000 ≤ o
  | _ => True

theorem movedParts_queue {c : Comp} (h : queueParts c) : movedParts c := by
  unfold queueParts memParts logParts at h
  cases c <;> simp_all [movedParts, storeParts]
  omega

theorem State.seek_moved {p : Nat} (h : Touch movedParts s u) : Touch movedParts s (u.seek p) :=
  State.seek_touch h trivial (show 0x2000 ≤ 0x6000 + 0x10 * p by omega) trivial

theorem State.leaveUp_moved (s : State) (p : Nat) (hdeg : s.degraded = false) : Touch movedParts s (s.leaveUp p) := by
  have hreg : ∀ o, 0x2000 ≤ o → movedParts (.reg o) := fun _ h => h
  unfold State.leaveUp
  extract_lets u v w x dir pair
  have hu : Touch movedParts s u := State.seek_moved (State.setFlag_touch (Touch.refl _ s) (hreg _ (by simp only [R.retrain]; omega))
    (hreg _ (by simp only [R.retrain]; omega)))
  have hv : Touch movedParts s v :=
    Touch.ite (State.throttleUpdate_touch (State.setF_touch hu (hreg _ (by simp [R.southState])))
      fun c hc => movedParts_queue (queueParts_store hc)) (State.freeDelivered_touch (fun _ => movedParts_queue) (hreg _ (by decide))
      (State.noteOut_touch hu trivial))
  have hw : Touch movedParts s w := by
    simp only [w]
    split
    · exact Touch.ite hv (State.giveBack_touch hv trivial)
    · exact hv
  have hx : Touch movedParts s x := by
    have hsame : w.degraded = false := (State.degraded_of_touch hw (by simp [movedParts])).trans hdeg
    show Touch movedParts s (if w.degraded = true ∧ _ then _ else w)
    rw [if_neg (by simp [hsame])]
    exact hw
  exact Touch.ite (hx.upd (hpair := .inl trivial) (hdir := .inl trivial)) hx

theorem State.retrainPort_moved (s : State) (p : Nat) (hdeg : s.degraded = false) : Touch movedParts s (s.retrainPort p) :=
  Touch.ite (Touch.refl _ s) (Touch.ite (s.leaveUp_moved p hdeg) (State.seek_moved (Touch.refl _ s)))

theorem State.retrainPorts_moved (l : List Nat) (s : State) (hdeg : s.degraded = false) :
    Touch movedParts s (l.foldl (fun s p => s.retrainPort p) s) := by
  induction l generalizing s with
  | nil => exact Touch.refl _ s
  | cons p l ih =>
    have hp := s.retrainPort_moved p hdeg
    exact hp.trans (ih _ ((State.degraded_of_touch hp (by simp [movedParts])).trans hdeg))

theorem State.referenceMoved_touch (s : State) (old : TxReference) (hdeg : s.degraded = false) :
    Touch movedParts s (s.referenceMoved old) := Touch.ite (Touch.refl _ s) (State.retrainPorts_moved _ s hdeg)

theorem State.referenceMoved_kept (s : State) (old : TxReference) : (s.referenceMoved old).kept = s.kept :=
  kept_ite rfl (State.retrainPorts_kept _ s)

/-- A reference that has not moved trains no port. -/
theorem State.referenceMoved_same (s : State) : s.referenceMoved s.txReference = s := if_pos (.inr rfl)

theorem kept_committed (h : t.kept = s.kept) : t.node.committed = s.node.committed := congrArg (·.node.committed) h

theorem State.txReference_of (hk : t.kept = s.kept) (hd : t.degraded = s.degraded)
    (hp : t.getF R.refclkPresent = s.getF R.refclkPresent) : t.txReference = s.txReference := by
  have hclk : t.getF R.clkSource = 1 ↔ s.getF R.clkSource = 1 := by
    simpa only [State.degraded, decide_eq_decide] using hd
  unfold State.txReference
  simp only [hclk, kept_committed hk, hp]

theorem State.txReference_plain (h : s.degraded = false) :
    s.txReference = if s.node.committed = true ∨ s.getF R.refclkPresent = 1 then .refclk else .onChip := by
  have hclk : ¬ s.getF R.clkSource = 1 := by simpa [State.degraded] using h
  unfold State.txReference
  rw [if_neg hclk]

/-- `w` comes of `s` by a change of REFCLK that has reached the timebases alone. -/
structure RefChanged (s w : State) (present : Nat) : Prop where
  plain : w.degraded = false
  present : w.getF R.refclkPresent = present
  kept : w.kept = s.kept
  lstate : ∀ p < 19, w.getF (R.lstate p) = s.getF (R.lstate p)
  enabled : ∀ p, w.portEnabled p = s.portEnabled p

theorem RefChanged.of_touch {present : Nat} (h : Touch (fun c => c = .reg 0x1020 ∨ ∃ q < 8, tbParts q c) s t)
    (hp : t.getF R.refclkPresent = present) (hd : t.degraded = false) (hk : t.kept = s.kept) : RefChanged s t present where
  plain := hd
  present := hp
  kept := hk
  lstate p hp19 := h.getF (by
    rintro (h0 | ⟨q, hq, hc⟩)
    · simp only [R.lstate, Comp.reg.injEq] at h0
      omega
    · rcases hc with hc | hc | hc | hc | hc
      · exact not_queueParts_lstate hp19 hc
      all_goals simp only [R.lstate, Comp.reg.injEq, reduceCtorEq] at hc
      all_goals omega)
  enabled p := State.portEnabled_of (h.tri (by simp [tbParts, queueParts, memParts, logParts, storeParts])) (kept_cfg hk) p

/-- Where the transmitters' reference has moved and training has begun, every enabled port that is not in MISMATCH trains. -/
theorem RefChanged.moved_lstate {present : Nat} {w : State} (h : RefChanged s w present) {old : TxReference} {p : Nat} (hp : p < 19) :
    (w.referenceMoved old).getF (R.lstate p) =
      if (3 ≤ s.node.state.code ∧ w.txReference ≠ old) ∧ s.portEnabled p = true ∧ s.getF (R.lstate p) ≠ 6 then 1
      else s.getF (R.lstate p) := by
  have hcode : w.node.state.code = s.node.state.code := congrArg NodeState.code (kept_state h.kept)
  unfold State.referenceMoved
  by_cases hmove : 3 ≤ s.node.state.code ∧ w.txReference ≠ old
  · rw [if_neg (by rw [hcode]; rintro (hc | hc) <;> [omega; exact hmove.2 hc]), State.retrainPorts_lstate (fun p hp => List.mem_range.1 hp) _ hp,
      h.enabled, h.lstate p hp]
    simp [hp, hmove]
  · rw [if_pos (by rw [hcode]; by_contra hn; exact hmove ⟨by omega, fun hc => hn (.inr hc)⟩), h.lstate p hp, if_neg (by tauto)]

theorem RefChanged.moved_txReference {present : Nat} {w : State} (h : RefChanged s w present) (old : TxReference) :
    (w.referenceMoved old).txReference = w.txReference :=
  State.txReference_of (w.referenceMoved_kept old)
    (State.degraded_of_touch (w.referenceMoved_touch old h.plain) (by simp [movedParts]))
    ((w.referenceMoved_touch old h.plain).getF (by simp [movedParts, R.refclkPresent]))

/-- No timebase register changes as ports train. -/
theorem RefChanged.moved_getF {present : Nat} {w : State} (h : RefChanged s w present) (old : TxReference) {f : RF} (hf : f.off < 0x2000) :
    (w.referenceMoved old).getF f = w.getF f :=
  (w.referenceMoved_touch old h.plain).getF (by simp [movedParts]; omega)

theorem RefChanged.txReference {present : Nat} {w : State} (h : RefChanged s w present) :
    w.txReference = if s.node.committed = true ∨ present = 1 then .refclk else .onChip := by
  rw [State.txReference_plain h.plain, kept_committed h.kept, h.present]

/-! ## REFCLK_ABSENT and REFCLK_PRESENT (R47, R52, R70, R71, R463) -/

/-- REFCLK is declared absent. -/
def State.refGone (s : State) : State := (s.setF R.refclkPresent 0).setFlag R.refclkLost

theorem State.refGone_spec (s : State) : s.refGone.getF R.refclkPresent = 0 ∧ s.refGone.getF R.refclkLost.flag = 1 ∧
    s.refGone.getF R.refclkLost.occ = (s.getF R.refclkLost.occ + 1) % 256 ∧ s.refGone.degraded = s.degraded := by
  obtain ⟨hflag, hocc⟩ := (s.setF R.refclkPresent 0).setFlag_spec (f := R.refclkLost) ⟨rfl, rfl, by decide, by decide⟩
  refine ⟨?_, hflag, hocc.trans ?_, ?_⟩
  · exact (State.setFlag_getF_other _ (.inr (.inl (by decide))) (.inr (.inl (by decide))) (by decide)).trans
      (State.getF_setF_same _ _ _ (by decide))
  · rw [State.getF_setF_other _ _ (.inr (.inr (by decide))) (by decide)]
  · unfold State.degraded State.refGone
    rw [State.setFlag_getF_other _ (.inr (.inr (by decide))) (.inr (.inl (by decide))) (by decide),
      State.getF_setF_other _ _ (.inr (.inr (by decide))) (by decide)]

/-- REFCLK is declared present. -/
def State.refBack (s : State) : State := s.setF R.refclkPresent 1

theorem State.refBack_spec (s : State) : s.refBack.getF R.refclkPresent = 1 ∧ s.refBack.degraded = s.degraded := by
  refine ⟨State.getF_setF_same _ _ _ (by decide), ?_⟩
  unfold State.degraded State.refBack
  rw [State.getF_setF_other _ _ (.inr (.inr (by decide))) (by decide)]

theorem refclkAbsent_eq (hp : s.getF R.refclkPresent = 1) (hoff : s.node.state ≠ .off) : exec .refclkAbsent s =
    .next ((if s.refGone.degraded then s.refGone else s.refGone.referenceLost).referenceMoved s.txReference) :=
  congrArg Host.Outcome.next (if_neg (by simp [hp, hoff]))

theorem refclkPresent_eq (hp : s.getF R.refclkPresent = 0) (hoff : s.node.state ≠ .off) : exec .refclkPresent s =
    .next ((if s.refBack.degraded then s.refBack else s.refBack.referenceBack).referenceMoved s.txReference) :=
  congrArg Host.Outcome.next (if_neg (by simp [hp, hoff]))

theorem refclkAbsent_plain (hp : s.getF R.refclkPresent = 1) (hoff : s.node.state ≠ .off) (hd : s.degraded = false) :
    exec .refclkAbsent s = .next (s.refGone.referenceLost.referenceMoved s.txReference) := by
  obtain ⟨-, -, -, hsame⟩ := s.refGone_spec
  rw [refclkAbsent_eq hp hoff, if_neg (by simp [hsame, hd])]

theorem refclkPresent_plain (hp : s.getF R.refclkPresent = 0) (hoff : s.node.state ≠ .off) (hd : s.degraded = false) :
    exec .refclkPresent s = .next (s.refBack.referenceBack.referenceMoved s.txReference) := by
  obtain ⟨-, hsame⟩ := s.refBack_spec
  rw [refclkPresent_eq hp hoff, if_neg (by simp [hsame, hd])]

theorem not_tbParts_refclk : ¬ ∃ q < 8, tbParts q (.reg 0x1020) := by
  rintro ⟨q, hq, hc⟩
  exact not_tbParts_reg (.inl (by omega)) (by omega) (by omega) hc

theorem State.referenceLost_word (s : State) {f : RF} (hf : f.off = 0x1020) : s.referenceLost.getF f = s.getF f := by
  rw [State.referenceLost_eq]
  exact (timebases_touch (fun v q => v.regionLost_tbParts q) s).getF (hf ▸ not_tbParts_refclk)

theorem State.referenceBack_word (s : State) {f : RF} (hf : f.off = 0x1020) : s.referenceBack.getF f = s.getF f :=
  (timebases_touch (fun v q => v.reclose_tbParts q) s).getF (hf ▸ not_tbParts_refclk)

theorem State.refGone_changed (hd : s.degraded = false) : RefChanged s s.refGone.referenceLost 0 := by
  obtain ⟨h0, -, -, hsame⟩ := s.refGone_spec
  have h1 : Touch (fun c => c = .reg 0x1020 ∨ ∃ q < 8, tbParts q c) s s.refGone :=
    State.setFlag_touch (State.setF_touch (Touch.refl _ s) (.inl rfl)) (.inl rfl) (.inl rfl)
  have h2 := timebases_touch (fun v q => v.regionLost_tbParts q) s.refGone
  exact RefChanged.of_touch (h1.trans (h2.mono fun _ => .inr)) ((State.referenceLost_word _ rfl).trans h0)
    ((State.degraded_of_touch h2 not_tbParts_refclk).trans (hsame.trans hd)) s.refGone.referenceLost_kept

theorem State.refBack_changed (hd : s.degraded = false) : RefChanged s s.refBack.referenceBack 1 := by
  obtain ⟨h0, hsame⟩ := s.refBack_spec
  have h1 : Touch (fun c => c = .reg 0x1020 ∨ ∃ q < 8, tbParts q c) s s.refBack := State.setF_touch (Touch.refl _ s) (.inl rfl)
  have h2 := timebases_touch (fun v q => v.reclose_tbParts q) s.refBack
  exact RefChanged.of_touch (h1.trans (h2.mono fun _ => .inr)) ((State.referenceBack_word _ rfl).trans h0)
    ((State.degraded_of_touch h2 not_tbParts_refclk).trans (hsame.trans hd)) s.refBack.referenceBack_kept

theorem State.refGone_tb (s : State) {f : RF} (hf : f.off ≠ 0x1020) : s.refGone.getF f = s.getF f :=
  (State.setFlag_touch (P := (· = .reg 0x1020)) (State.setF_touch (Touch.refl _ s) rfl) rfl rfl).getF (by simpa using hf)

theorem State.refBack_tb (s : State) {f : RF} (hf : f.off ≠ 0x1020) : s.refBack.getF f = s.getF f :=
  (State.setF_touch (P := (· = .reg 0x1020)) (Touch.refl _ s) rfl).getF (by simpa using hf)

end Sys2Proof.Machine

namespace Sys2Proof.Machine

variable {s t u : State} {P : Comp → Prop} {r : Nat}

/-! ## REFCLK at a node that runs on it, region by region -/

/-- The word of a timebase register shows what the loss of the reference does to its region alone. -/
theorem State.refGone_region (s : State) (hd : s.degraded = false) (hr : r < 8) : ∃ v : State, ∀ g : RF,
    g.off = 0x1000 + 4 * r ∨ g.off = 0x1024 + 4 * r →
      v.getF g = s.getF g ∧ (s.refGone.referenceLost.referenceMoved s.txReference).getF g = (v.regionLost r).getF g := by
  obtain ⟨v, hv⟩ := timebases_once (fun v q => v.regionLost_tbParts q) hr s.refGone
  refine ⟨v, fun g hg => ⟨(hv g hg).1.trans (s.refGone_tb (by omega)), ?_⟩⟩
  exact ((State.refGone_changed hd).moved_getF _ (by omega)).trans (hv g hg).2

theorem State.refBack_region (s : State) (hd : s.degraded = false) (hr : r < 8) : ∃ v : State, ∀ g : RF,
    g.off = 0x1000 + 4 * r ∨ g.off = 0x1024 + 4 * r →
      v.getF g = s.getF g ∧ (s.refBack.referenceBack.referenceMoved s.txReference).getF g = (v.reclose r).getF g := by
  obtain ⟨v, hv⟩ := timebases_once (fun v q => v.reclose_tbParts q) hr s.refBack
  refine ⟨v, fun g hg => ⟨(hv g hg).1.trans (s.refBack_tb (by omega)), ?_⟩⟩
  exact ((State.refBack_changed hd).moved_getF _ (by omega)).trans (hv g hg).2

/-- A node's reference goes: the flag is set and counted, and LOCKED and slewing regions are in HOLDOVER. -/
theorem refclkAbsent_regions (hp : s.getF R.refclkPresent = 1) (hoff : s.node.state ≠ .off) (hd : s.degraded = false) :
    ∃ t, exec .refclkAbsent s = .next t ∧ t.getF R.refclkPresent = 0 ∧ t.getF R.refclkLost.flag = 1 ∧
      t.getF R.refclkLost.occ = (s.getF R.refclkLost.occ + 1) % 256 ∧
      (∀ r, r < 8 → s.regionState r = 2 → t.regionState r = 3 ∧ t.getF (R.holdoverBound r) = 50 ∧ t.getF (R.lockLost r).flag = 1 ∧
        t.getF (R.calFrozen r) = 1) ∧
      (∀ r, r < 8 → s.regionState r = 4 → t.regionState r = 3) ∧
      (∀ r, r < 8 → s.regionState r ≠ 2 → s.regionState r ≠ 4 → t.regionState r = s.regionState r) := by
  obtain ⟨h0, hflag, hocc, -⟩ := s.refGone_spec
  have hword : ∀ g : RF, g.off = 0x1020 → (s.refGone.referenceLost.referenceMoved s.txReference).getF g = s.refGone.getF g :=
    fun g hg => ((State.refGone_changed hd).moved_getF _ (by omega)).trans (State.referenceLost_word _ hg)
  refine ⟨_, refclkAbsent_plain hp hoff hd, (hword _ rfl).trans h0, (hword _ rfl).trans hflag, (hword _ rfl).trans hocc,
    fun r hr h2 => ?_, fun r hr h4 => ?_, fun r hr h2 h4 => ?_⟩
  · obtain ⟨v, hv⟩ := s.refGone_region hd hr
    obtain ⟨hst, hlost, hfrozen, hbound⟩ := v.regionLost_locked hr ((hv (R.tbState r) (.inl rfl)).1.trans h2)
    exact ⟨(hv _ (.inl rfl)).2.trans hst, (hv _ (.inr rfl)).2.trans hbound, (hv _ (.inl rfl)).2.trans hlost, (hv _ (.inl rfl)).2.trans hfrozen⟩
  · obtain ⟨v, hv⟩ := s.refGone_region hd hr
    exact (hv _ (.inl rfl)).2.trans (v.regionLost_slews hr ((hv (R.tbState r) (.inl rfl)).1.trans h4))
  · obtain ⟨v, hv⟩ := s.refGone_region hd hr
    have hst : v.regionState r = s.regionState r := (hv (R.tbState r) (.inl rfl)).1
    exact (hv _ (.inl rfl)).2.trans ((v.regionLost_other (hst ▸ h2) (hst ▸ h4)).trans hst)

/-- A node's reference returns: a region in HOLDOVER slews, or waits with REALIGN_NEEDED, by its bound. -/
theorem refclkPresent_regions (hp : s.getF R.refclkPresent = 0) (hoff : s.node.state ≠ .off) (hd : s.degraded = false) :
    ∃ t, exec .refclkPresent s = .next t ∧ t.getF R.refclkPresent = 1 ∧
      (∀ r, r < 8 → s.regionState r = 3 → s.getF (R.realign r) = 0 → s.getF (R.holdoverBound r) < 3125 → t.regionState r = 4) ∧
      (∀ r, r < 8 → s.regionState r = 3 → s.getF (R.realign r) = 0 → 3125 ≤ s.getF (R.holdoverBound r) →
        t.regionState r = 3 ∧ t.getF (R.realign r) = 1) ∧
      (∀ r, r < 8 → s.regionState r ≠ 3 → t.regionState r = s.regionState r) := by
  have hmoved := State.refBack_changed hd
  refine ⟨_, refclkPresent_plain hp hoff hd, (hmoved.moved_getF _ (by decide)).trans hmoved.present,
    fun r hr h3 h0 hb => ?_, fun r hr h3 h0 hb => ?_, fun r hr h3 => ?_⟩
  · obtain ⟨v, hv⟩ := s.refBack_region hd hr
    exact (hv _ (.inl rfl)).2.trans (State.reclose_slews_state ((hv (R.tbState r) (.inl rfl)).1.trans h3) ((hv (R.realign r) (.inl rfl)).1.trans h0)
      ((hv (R.holdoverBound r) (.inr rfl)).1.symm ▸ hb))
  · obtain ⟨v, hv⟩ := s.refBack_region hd hr
    obtain ⟨hst, hrealign⟩ := State.reclose_waits_state hr ((hv (R.tbState r) (.inl rfl)).1.trans h3)
      ((hv (R.realign r) (.inl rfl)).1.trans h0) ((hv (R.holdoverBound r) (.inr rfl)).1.symm ▸ hb)
    exact ⟨(hv _ (.inl rfl)).2.trans hst, (hv _ (.inl rfl)).2.trans hrealign⟩
  · obtain ⟨v, hv⟩ := s.refBack_region hd hr
    have hst : v.regionState r = s.regionState r := (hv (R.tbState r) (.inl rfl)).1
    exact (hv _ (.inl rfl)).2.trans ((State.reclose_other_state (hst ▸ h3)).trans hst)

/-! ## REFCLK at a node on its recovered reference, and at the ports -/

/-- The transmitters of a node on its recovered reference stay on it. -/
theorem State.txReference_recovered (hd : s.degraded = true) : s.txReference = .recovered :=
  if_pos (by simpa [State.degraded] using hd)

/-- On the recovered reference a report of REFCLK moves no port. -/
theorem State.referenceMoved_recovered (hs : s.degraded = true) (ht : t.degraded = true) : t.referenceMoved s.txReference = t := by
  rw [State.txReference_recovered hs, ← State.txReference_recovered ht, State.referenceMoved_same]

theorem refclkAbsent_recovered (hp : s.getF R.refclkPresent = 1) (hoff : s.node.state ≠ .off) (hd : s.degraded = true) :
    exec .refclkAbsent s = .next s.refGone := by
  obtain ⟨-, -, -, hsame⟩ := s.refGone_spec
  rw [refclkAbsent_eq hp hoff, if_pos (hsame.trans hd), State.referenceMoved_recovered hd (hsame.trans hd)]

theorem refclkPresent_recovered (hp : s.getF R.refclkPresent = 0) (hoff : s.node.state ≠ .off) (hd : s.degraded = true) :
    exec .refclkPresent s = .next s.refBack := by
  obtain ⟨-, hsame⟩ := s.refBack_spec
  rw [refclkPresent_eq hp hoff, if_pos (hsame.trans hd), State.referenceMoved_recovered hd (hsame.trans hd)]

/-- Before the first commit every enabled port trains on the other reference. -/
theorem RefChanged.trains {present : Nat} {w : State} {old : TxReference} (h : RefChanged s w present) (hc : 3 ≤ s.node.state.code)
    (hne : w.txReference ≠ old) {p : Nat} (hp : p < 19) (hen : s.portEnabled p = true) (h6 : s.getF (R.lstate p) ≠ 6) :
    (w.referenceMoved old).getF (R.lstate p) = 1 := by
  rw [h.moved_lstate hp, if_pos ⟨⟨hc, hne⟩, hen, h6⟩]

/-- After the first commit the transmitters stay on REFCLK, and before LINKUP no port trains. -/
theorem RefChanged.ports_kept {present : Nat} {w : State} (h : RefChanged s w present) (hd : s.degraded = false)
    (hc : s.node.committed = true ∨ s.node.state.code < 3) {p : Nat} (hp : p < 19) :
    (w.referenceMoved s.txReference).getF (R.lstate p) = s.getF (R.lstate p) := by
  rw [h.moved_lstate hp, if_neg]
  rintro ⟨⟨hcode, hne⟩, -⟩
  have hcommitted := hc.resolve_right (by omega)
  exact hne (by rw [h.txReference, State.txReference_plain hd, if_pos (.inl hcommitted), if_pos (.inl hcommitted)])

/-- Settles O12. -/
theorem referenceLossAndReturn : Obligations.ReferenceLossAndReturn := by
  refine ⟨fun s hp hoff hd => refclkAbsent_regions hp hoff hd, fun s hp hoff hd => refclkPresent_regions hp hoff hd,
    fun s hp hoff hd => refclkAbsent_recovered hp hoff hd, fun s hp hoff hd => refclkPresent_recovered hp hoff hd,
    fun s hcom hd hc => ⟨fun hp => ?_, fun hp => ?_⟩,
    fun s hc hd hoff p hp19 => ⟨fun hp => ?_, fun hp => ?_⟩, fun s => ⟨fun hp => ?_, fun hp => ?_⟩⟩
  · have hoff : s.node.state ≠ .off := fun ho => by simp [ho, NodeState.code] at hc
    have hnew := State.refGone_changed hd
    have hs : s.txReference = .refclk := by rw [State.txReference_plain hd, if_pos (.inr hp)]
    have ht : s.refGone.referenceLost.txReference = .onChip := by rw [hnew.txReference, if_neg (by simp [hcom])]
    exact ⟨_, refclkAbsent_plain hp hoff hd, hs, (hnew.moved_txReference _).trans ht,
      fun p hp19 hen h6 => hnew.trains hc (by rw [hs, ht]; decide) hp19 hen h6⟩
  · have hoff : s.node.state ≠ .off := fun ho => by simp [ho, NodeState.code] at hc
    have hnew := State.refBack_changed hd
    have hs : s.txReference = .onChip := by rw [State.txReference_plain hd, if_neg (by simp [hcom, hp])]
    have ht : s.refBack.referenceBack.txReference = .refclk := by rw [hnew.txReference, if_pos (.inr rfl)]
    exact ⟨_, refclkPresent_plain hp hoff hd, hs, (hnew.moved_txReference _).trans ht,
      fun p hp19 hen h6 => hnew.trains hc (by rw [hs, ht]; decide) hp19 hen h6⟩
  · exact ⟨_, refclkAbsent_plain hp hoff hd, (State.refGone_changed hd).ports_kept hd hc hp19⟩
  · exact ⟨_, refclkPresent_plain hp hoff hd, (State.refBack_changed hd).ports_kept hd hc hp19⟩
  · exact congrArg Host.Outcome.next (if_pos (.inl hp))
  · exact congrArg Host.Outcome.next (if_pos (.inl hp))

end Sys2Proof.Machine

namespace Sys2Proof.Machine

/-! ## A thaw that answers a mailbox the node does not have (R142)

The model's `Msg` holds a mailbox number of any size. The register of mailbox 6144 would stand where ACQ_STATE of block 0 stands
(0xA000 + 4 * 6144 = 0x10000), and the completion of its message clears that field. -/

/-- An ACQ_THAW of no block, from mailbox 6144. -/
def strayThawMsg : Msg :=
  { mbox := 6144, stamp := 0, opcode := 0, tag := 0, length := 0, target := 0, quiet := true, args := [] }

/-- A running node before a sampling tick, with region 0 LOCKED and block 0 RECORDING, where the thaw of no block waits. -/
def strayThaw : State :=
  let s : State := { ticks := 1, node := { state := .running, acts := [.thaw 0] }, fw := { waits := [(strayThawMsg, .thaw)] } }
  (s.setF (R.tbState 0) 2).setF (R.acqState 0) 1

/-- The state of block 0 after a command, or 8 where it has no next state. -/
def acqStateAfter : Res → Nat
  | .next t => t.getF (R.acqState 0)
  | _ => 8

theorem strayThaw_clears_acqState : acqStateAfter (exec (.coarseTickVote []) strayThaw) = 0 := by decide +kernel

/-- Refutes O16: its thaw clause bounds no mailbox, and the answer of `strayThaw` takes block 0, which the mask does not name, to IDLE. -/
theorem not_coarseTimeTakesTheVote : ¬ Obligations.CoarseTimeTakesTheVote := by
  rintro ⟨-, -, hsampling, -⟩
  obtain ⟨-, hthaw, -⟩ := hsampling strayThaw [] (by decide +kernel) (by decide +kernel)
  obtain ⟨t, hexec, -, hnamed, -⟩ := hthaw 0 (by decide +kernel)
  have hafter : t.getF (R.acqState 0) = 0 := by
    have h := strayThaw_clears_acqState
    rwa [hexec] at h
  have hbefore : strayThaw.getF (R.acqState 0) = 1 := by decide +kernel
  obtain ⟨hbit, -⟩ := hnamed 0 (by decide) (by omega)
  exact absurd hbit (by decide)

end Sys2Proof.Machine

namespace Sys2Proof.Machine

variable {s t u : State} {P : Comp → Prop} {r : Nat}

/-! ## The lock of a region (R48-R53, R448, R449) -/

/-- What changes one timebase's parts changes the state of no other. -/
theorem regionState_of_tbParts (h : Touch (tbParts r) s t) (hr : r < 8) {q : Nat} (hq : q < 8) (hne : q ≠ r) :
    t.regionState q = s.regionState q :=
  h.getF (not_tbParts_reg (.inl (by simp only [R.tbState]; omega)) (by simp only [R.tbState]; omega) (by simp only [R.tbState]; omega))

theorem State.endHold_tbParts {locked : Bool} (h : Touch (tbParts r) s u) : Touch (tbParts r) s (u.endHold r locked) := by
  unfold State.endHold
  dsimp only
  split
  · exact State.setRegion_tbParts h
  · exact h

/-- The end of a hold-over changes no register. -/
theorem State.endHold_getF (s : State) (r : Nat) (locked : Bool) (f : RF) : (s.endHold r locked).getF f = s.getF f := by
  unfold State.endHold
  dsimp only
  split <;> rfl

/-! ### TB_PHASE_COMPARE -/

/-- PHASE_ERR after a comparison that measures `p` (R48). -/
def State.filtered (s : State) (r : Nat) (p : BitVec 13) : Int :=
  signed 16 (s.getF (R.phaseErr r)) + (p.toInt - signed 16 (s.getF (R.phaseErr r)) + 4) / 8

/-- The offset that a comparison in HOLDOVER under REALIGN_NEEDED keeps (R71). -/
def State.offsetKept (s : State) (r : Nat) (e : Int) : Option Int :=
  if s.regionState r = 3 ∧ s.getF (R.realign r) = 1 ∧ (s.region r).keptOffset.isNone ∧ s.refPresent then some e
  else (s.region r).keptOffset

/-- A comparison is measured: PHASE_ERR and the counts of the lock tests. -/
def State.compared (s : State) (r : Nat) (e : Int) : State :=
  (s.setF (R.phaseErr r) (unsigned 16 e)).setRegion r { s.region r with
    goodRun := if e.natAbs ≤ 8 then (s.region r).goodRun + 1 else 0
    badRun := if 64 < e.natAbs then (s.region r).badRun + 1 else 0
    keptOffset := s.offsetKept r e }

theorem State.setPhaseErr_getF (s : State) (r v : Nat) {f : RF} (h : f.off ≠ 0x1000 + 4 * r ∨ f.lo + f.w ≤ 16) (hf : f.lo + f.w ≤ 32) :
    (s.setF (R.phaseErr r) v).getF f = s.getF f :=
  State.getF_setF_other _ _ (h.imp_right .inl) hf

/-- A region's own register says nothing of the reference. -/
theorem State.setPhaseErr_refPresent (s : State) (hr : r < 8) (v : Nat) : (s.setF (R.phaseErr r) v).refPresent = s.refPresent := by
  unfold State.refPresent State.degraded State.portUp
  rw [s.setPhaseErr_getF r v (f := R.clkSource) (.inl (by simp only [R.clkSource]; omega)) (by decide),
    s.setPhaseErr_getF r v (f := R.refclkPresent) (.inl (by simp only [R.refclkPresent]; omega)) (by decide),
    s.setPhaseErr_getF r v (f := R.recoveredPort) (.inl (by simp only [R.recoveredPort]; omega)) (by decide),
    s.setPhaseErr_getF r v (f := R.lstate _) (.inl (by simp only [R.lstate]; omega)) (by simp [R.lstate])]

theorem tbPhaseCompare_eq (r : Fin 8) (p : BitVec 13) (h0 : s.regionState r ≠ 0) (h5 : s.regionState r ≠ 5) :
    exec (.tbPhaseCompare r (some p)) s = .next (if s.regionState r = 3 ∧ (s.region r).retry = true
      then (s.compared r (s.filtered r p)).reclose r else s.compared r (s.filtered r p)) := by
  have hr := r.isLt
  refine (congrArg Host.Outcome.next (if_neg (by simp [h0, h5]))).trans ?_
  have hrealign : (s.setF (R.phaseErr r) (unsigned 16 (s.filtered r p))).getF (R.realign r) = s.getF (R.realign r) :=
    s.setPhaseErr_getF _ _ (.inr (by simp [R.realign])) (by simp [R.realign])
  have hpresent : (s.setF (R.phaseErr r) (unsigned 16 (s.filtered r p))).refPresent = s.refPresent :=
    s.setPhaseErr_refPresent hr _
  unfold State.compared State.offsetKept
  rw [← hrealign, ← hpresent]
  rfl

/-- What a comparison shows of its region. -/
theorem State.compared_spec (s : State) (r : Nat) (e : Int) :
    (s.compared r e).getF (R.phaseErr r) = unsigned 16 e % 65536 ∧ (s.compared r e).regionState r = s.regionState r ∧
      (s.compared r e).getF (R.realign r) = s.getF (R.realign r) ∧ (s.compared r e).getF (R.holdoverBound r) = s.getF (R.holdoverBound r) ∧
      ((s.compared r e).region r).goodRun = (if e.natAbs ≤ 8 then (s.region r).goodRun + 1 else 0) ∧
      ((s.compared r e).region r).badRun = (if 64 < e.natAbs then (s.region r).badRun + 1 else 0) ∧
      Frame (fun c => c = .region r ∨ c = .reg (0x1000 + 4 * r)) s (s.compared r e) := by
  have hregion : (s.compared r e).region r = { s.region r with
      goodRun := if e.natAbs ≤ 8 then (s.region r).goodRun + 1 else 0
      badRun := if 64 < e.natAbs then (s.region r).badRun + 1 else 0
      keptOffset := s.offsetKept r e } := State.setRegion_region_same _ _ _
  refine ⟨State.getF_setF_same _ _ _ (by simp [R.phaseErr]), s.setPhaseErr_getF r _ (.inr (by simp [R.tbState])) (by simp [R.tbState]),
    s.setPhaseErr_getF r _ (.inr (by simp [R.realign])) (by simp [R.realign]),
    s.setPhaseErr_getF r _ (.inl (by simp only [R.holdoverBound]; omega)) (by simp [R.holdoverBound]), by rw [hregion], by rw [hregion], ?_⟩
  exact (State.setRegion_touch (State.setF_touch (Touch.refl _ s) (.inr rfl)) (.inl rfl)).frame

theorem State.reclose_phaseErr (s : State) (r : Nat) (hr : r < 8) : (s.reclose r).getF (R.phaseErr r) = s.getF (R.phaseErr r) := by
  by_cases h3 : s.regionState r = 3
  · rcases s.realign_zero_or_one r with h | h
    · by_cases hb : s.getF (R.holdoverBound r) < 3125
      · rw [State.reclose_slews h3 h hb, State.setTb_getF _ _ _ (.inr (.inr (by simp [R.phaseErr]))) (by simp [R.phaseErr])]
        rfl
      · rw [State.reclose_waits h3 h (not_lt.1 hb), State.tbNotice_getF _ _ (.inl (by simp only [R.phaseErr]; omega)),
          State.getF_setF_other _ _ (.inr (.inr (by simp [R.realign, R.phaseErr]))) (by simp [R.phaseErr])]
        rfl
    · rw [State.reclose_held (.inr h)]
      rfl
  · rw [State.reclose_held (.inl h3)]
    rfl

/-- A region that waits, with REALIGN_NEEDED, keeps its counts of comparisons. -/
theorem State.reclose_waits_region (h : s.regionState r = 3) (hr : s.getF (R.realign r) = 0) (hb : 3125 ≤ s.getF (R.holdoverBound r)) :
    (s.reclose r).region r = { s.region r with retry := false, keptOffset := none, realignFrom := s.time.starts + 1 } := by
  rw [State.reclose_waits h hr hb, State.tbNotice_region]
  refine (State.setRegion_region_same _ _ _).trans ?_
  rw [State.retried, State.setRegion_region_same]

theorem State.reclose_slews_region (h : s.regionState r = 3) (hr : s.getF (R.realign r) = 0) (hb : s.getF (R.holdoverBound r) < 3125) :
    (s.reclose r).region r = { s.region r with retry := false, keptOffset := none, goodRun := 0 } := by
  rw [State.reclose_slews h hr hb]
  refine (State.setRegion_region_same _ _ _).trans ?_
  rw [State.retried, State.setRegion_region_same]

theorem State.reclose_held_region (h : s.getF (R.realign r) = 1) :
    (s.reclose r).region r = { s.region r with retry := false, keptOffset := none } := by
  rw [State.reclose_held (.inr h)]
  exact State.setRegion_region_same _ _ _

theorem State.reclose_slews_realign (h : s.regionState r = 3) (hr : s.getF (R.realign r) = 0) (hb : s.getF (R.holdoverBound r) < 3125) :
    (s.reclose r).getF (R.realign r) = 0 := by
  rw [State.reclose_slews h hr hb, State.setTb_getF _ _ _ (.inr (.inl rfl)) (by simp [R.realign])]
  exact hr

/-- A comparison with an edge filters PHASE_ERR and counts; the first after a loss of lock by comparisons closes the loop again. -/
theorem tbPhaseCompare_measures (s : State) (r : Fin 8) (p : BitVec 13) (h0 : s.regionState r ≠ 0) (h5 : s.regionState r ≠ 5) :
    ∃ t, exec (.tbPhaseCompare r (some p)) s = .next t ∧
      (let old := signed 16 (s.getF (R.phaseErr r)); let e := old + (p.toInt - old + 4) / 8
       let again : Bool := s.regionState r = 3 ∧ (s.region r).retry
       let slews : Bool := again && decide (s.getF (R.realign r) = 0) && decide (s.getF (R.holdoverBound r) < 3125)
       t.getF (R.phaseErr r) = unsigned 16 e % 65536 ∧
       t.regionState r = (if slews then 4 else s.regionState r) ∧
       (t.region r).goodRun = (if slews then 0 else if e.natAbs ≤ 8 then (s.region r).goodRun + 1 else 0) ∧
       (t.region r).badRun = (if 64 < e.natAbs then (s.region r).badRun + 1 else 0) ∧
       (again = true → (t.region r).retry = false ∧
         (s.getF (R.realign r) = 0 → t.getF (R.realign r) = if slews then 0 else 1)) ∧
       (again = false → Frame (fun c => c = .region r ∨ c = .reg (0x1000 + 4 * r)) s t)) := by
  have hr := r.isLt
  refine ⟨_, tbPhaseCompare_eq r p h0 h5, ?_⟩
  intro old e again slews
  have he : s.filtered r p = e := rfl
  clear_value e
  rw [he]
  obtain ⟨hphase, hstate, hrealign, hbound, hgood, hbad, hframe⟩ := s.compared_spec r e
  generalize s.compared r e = v at *
  by_cases hagain : s.regionState r = 3 ∧ (s.region r).retry = true
  · have ha : again = true := decide_eq_true hagain
    have h3 := hstate.trans hagain.1
    rw [if_pos hagain]
    refine ⟨(v.reclose_phaseErr r hr).trans hphase, ?_⟩
    rcases s.realign_zero_or_one r with hz | hone
    · by_cases hb : s.getF (R.holdoverBound r) < 3125
      · have hs : slews = true := by simp [slews, ha, hz, hb]
        have hz' := hrealign.trans hz
        have hb' := hbound.symm ▸ hb
        rw [hs]
        exact ⟨State.reclose_slews_state h3 hz' hb', by rw [State.reclose_slews_region h3 hz' hb']; rfl,
          by rw [State.reclose_slews_region h3 hz' hb']; exact hbad,
          fun _ => ⟨by rw [State.reclose_slews_region h3 hz' hb'], fun _ => State.reclose_slews_realign h3 hz' hb'⟩,
          fun hn => absurd (ha.symm.trans hn) (by decide)⟩
      · have hs : slews = false := by simp [slews, hb]
        have hz' := hrealign.trans hz
        have hb' := hbound.symm ▸ not_lt.1 hb
        obtain ⟨hst, hone⟩ := State.reclose_waits_state hr h3 hz' hb'
        rw [hs]
        exact ⟨hst.trans hagain.1.symm, by rw [State.reclose_waits_region h3 hz' hb']; exact hgood,
          by rw [State.reclose_waits_region h3 hz' hb']; exact hbad,
          fun _ => ⟨by rw [State.reclose_waits_region h3 hz' hb'], fun _ => hone⟩,
          fun hn => absurd (ha.symm.trans hn) (by decide)⟩
    · have hs : slews = false := by simp [slews, hone]
      have hone' := hrealign.trans hone
      rw [hs]
      exact ⟨by rw [State.reclose_held (.inr hone')]; exact hstate, by rw [State.reclose_held_region hone']; exact hgood,
        by rw [State.reclose_held_region hone']; exact hbad,
        fun _ => ⟨by rw [State.reclose_held_region hone'], fun hz => absurd (hone.symm.trans hz) (by decide)⟩,
        fun hn => absurd (ha.symm.trans hn) (by decide)⟩
  · have ha : again = false := decide_eq_false hagain
    have hs : slews = false := by simp [slews, ha]
    rw [if_neg hagain, hs]
    exact ⟨hphase, hstate, hgood, hbad, fun hy => absurd (ha.symm.trans hy) (by decide), fun _ => hframe⟩

/-! ### LOCKED and FAILED -/

/-- A region that locks (R52, R68, R69), before its notice. -/
def State.locked (s : State) (r : Nat) : State :=
  let v := ((s.endHold r true).setTb r 2).setF (R.holdoverBound r) 0
  v.setRegion r { v.region r with wasLocked := true, badRun := 0, goodRun := 0 }

theorem tbLocked_eq (r : Fin 8) (hst : s.regionState r = 1 ∨ s.regionState r = 4) (hrun : 4096 ≤ (s.region r).goodRun) :
    exec (.tbLocked r) s = .next (if (s.region r).wasLocked then (s.locked r).tbNotice r else s.locked r) :=
  congrArg Host.Outcome.next (if_pos ⟨hst, hrun⟩)

theorem State.setRegion_getF (s : State) (r : Nat) (v : Region) (f : RF) : (s.setRegion r v).getF f = s.getF f := rfl

theorem State.locked_touch (s : State) (r : Nat) : Touch (tbParts r) s (s.locked r) :=
  State.setRegion_tbParts (State.setF_touch (State.setTb_tbParts (State.endHold_tbParts (Touch.refl _ s))) tbParts_bound)

theorem State.locked_getF (s : State) (r : Nat) (f : RF) :
    (s.locked r).getF f = (((s.endHold r true).setTb r 2).setF (R.holdoverBound r) 0).getF f := State.setRegion_getF _ _ _ _

theorem State.locked_region (s : State) (r : Nat) : ((s.locked r).region r).goodRun = 0 ∧ ((s.locked r).region r).wasLocked = true := by
  unfold State.locked
  rw [State.setRegion_region_same]
  exact ⟨rfl, rfl⟩

theorem State.locked_spec (s : State) (r : Nat) :
    (s.locked r).regionState r = 2 ∧ (s.locked r).getF (R.calFrozen r) = 0 ∧ (s.locked r).getF (R.holdoverBound r) = 0 := by
  unfold State.regionState
  simp only [State.locked_getF]
  generalize s.endHold r true = v
  refine ⟨?_, ?_, State.setBound_bound _ r 0⟩
  · rw [State.setBound_getF _ r 0 (by simp only [R.tbState]; omega) (by simp [R.tbState])]
    exact (State.setTb_regionState v r 2 r).trans (if_pos rfl)
  · rw [State.setBound_getF _ r 0 (by simp only [R.calFrozen]; omega) (by simp [R.calFrozen])]
    exact State.setTb_calFrozen v r 2

theorem tbLocked_locks (s : State) (r : Fin 8) (hst : s.regionState r = 1 ∨ s.regionState r = 4) (hrun : 4096 ≤ (s.region r).goodRun) :
    ∃ t, exec (.tbLocked r) s = .next t ∧ t.regionState r = 2 ∧ t.getF (R.calFrozen r) = 0 ∧ t.getF (R.holdoverBound r) = 0 ∧
      (t.region r).goodRun = 0 ∧ (t.region r).wasLocked = true ∧
      ∀ q : Nat, q < 8 → q ≠ r.val → t.regionState q = s.regionState q := by
  obtain ⟨hlocked, hfrozen, hbound⟩ := s.locked_spec r
  obtain ⟨hgood, hwas⟩ := s.locked_region r
  have htouch := s.locked_touch r
  have hr := r.isLt
  refine ⟨_, tbLocked_eq r hst hrun, ?_⟩
  split
  · exact ⟨(State.tbNotice_regionState _ _ hr).trans hlocked,
      (State.tbNotice_getF _ _ (.inl (by simp only [R.calFrozen]; omega))).trans hfrozen,
      (State.tbNotice_getF _ _ (.inl (by simp only [R.holdoverBound]; omega))).trans hbound,
      by rw [State.tbNotice_region, hgood], by rw [State.tbNotice_region, hwas],
      fun q hq hne => regionState_of_tbParts (State.tbNotice_tbParts htouch) hr hq hne⟩
  · exact ⟨hlocked, hfrozen, hbound, hgood, hwas, fun q hq hne => regionState_of_tbParts htouch hr hq hne⟩

end Sys2Proof.Machine

namespace Sys2Proof.Machine

variable {s t u : State} {P : Comp → Prop} {r : Nat}

/-- The cells and their registers, the queues for notices, and FAIL: what a stopped ring changes beside its timebase. -/
def gateParts (c : Comp) : Prop := queueParts c ∨ (∃ n, c = .cell n) ∨ ∃ o, 0x20000 ≤ o ∧ c = .reg o

theorem not_gateParts_reg {o : Nat} (h : o < 0x3000) : ¬ gateParts (.reg o) := by
  rintro (hq | ⟨n, hn⟩ | ⟨x, hx, hc⟩)
  · exact not_queueParts_reg (.inl h) hq
  · cases hn
  · cases hc
    omega

theorem not_gateParts_region (r : Nat) : ¬ gateParts (.region r) := by
  simp [gateParts, queueParts, memParts, logParts, storeParts]

theorem State.fallCell_touch {c period : Nat} {saturated : Bool} (h : Touch P s u) (hc : P (.cell c)) (hr : P (.reg (0x20004 + 0x20 * c))) :
    Touch P s (u.fallCell c period saturated) := State.setF_touch (State.setCell_touch h hc) hr

theorem State.gateOff_touch (h : Touch gateParts s u) : Touch gateParts s (u.gateOff r) :=
  Touch.foldl _ h fun _ c hv => Touch.ite (State.drawn_touch (State.fallCell_touch hv (.inr (.inl ⟨c, rfl⟩))
    (.inr (.inr ⟨_, by omega, rfl⟩))) (.inl (.inl rfl))) hv

/-- A timebase that has failed, before its cells are gated off. -/
def State.failedTb (s : State) (r : Nat) : State :=
  let v := (if s.regionState r = 2 then s.setFlag (R.lockLost r) else s).setPid r {}
  ((((v.endHold r false).zeroTrim r).setF (R.realign r) 0).setF (R.holdoverBound r) 0).setTb r 5

theorem State.tbFail_eq (h0 : s.regionState r ≠ 0) (h5 : s.regionState r ≠ 5) : s.tbFail r =
    if (((s.failedTb r).gateOff r).tbNotice r).regionConfigured r then (((s.failedTb r).gateOff r).tbNotice r).setFail 1
    else ((s.failedTb r).gateOff r).tbNotice r := by
  unfold State.tbFail
  exact if_neg (by simp [h0, h5])

theorem State.tbFail_touch (h0 : s.regionState r ≠ 0) (h5 : s.regionState r ≠ 5) : Touch gateParts (s.failedTb r) (s.tbFail r) := by
  have h : Touch gateParts (s.failedTb r) (((s.failedTb r).gateOff r).tbNotice r) :=
    State.tbNotice_touch (State.gateOff_touch (Touch.refl _ _)) fun _ => .inl
  rw [State.tbFail_eq h0 h5]
  exact Touch.ite (State.setFail_touch h (.inl (.inr (.inl rfl))) (.inl (.inr (.inr (.inr (.inl rfl)))))) h

theorem State.failedTb_touch (s : State) (r : Nat) : Touch (tbParts r) s (s.failedTb r) := by
  have hflag : Touch (tbParts r) s (if s.regionState r = 2 then s.setFlag (R.lockLost r) else s) :=
    Touch.ite (State.setFlag_touch (Touch.refl _ s) tbParts_state tbParts_state) (Touch.refl _ s)
  exact State.setTb_tbParts (State.setF_touch (State.setF_touch (State.setRegion_tbParts (State.endHold_tbParts
    (State.setPid_touch hflag (.inr (.inr (.inl rfl)))))) tbParts_state) tbParts_bound)

theorem State.zeroTrim_getF (s : State) (r : Nat) (f : RF) : (s.zeroTrim r).getF f = s.getF f := rfl

theorem State.zeroTrim_lastTrim (s : State) (r : Nat) : ((s.zeroTrim r).region r).lastTrim = 0 := by
  unfold State.zeroTrim
  rw [State.setRegion_region_same]

theorem State.setTb_region (s : State) (r st q : Nat) : (s.setTb r st).region q = s.region q := rfl
theorem State.setF_region (s : State) (f : RF) (v q : Nat) : (s.setF f v).region q = s.region q := rfl
theorem State.setPid_getF (s : State) (i : Nat) (v : Loop) (f : RF) : (s.setPid i v).getF f = s.getF f := rfl

theorem State.failedTb_spec (s : State) (r : Nat) :
    (s.failedTb r).regionState r = 5 ∧ (s.failedTb r).getF (R.calFrozen r) = 1 ∧ (s.failedTb r).getF (R.realign r) = 0 ∧
      (s.failedTb r).getF (R.holdoverBound r) = 0 ∧ ((s.failedTb r).region r).lastTrim = 0 ∧
      (s.regionState r = 2 → (s.failedTb r).getF (R.lockLost r).flag = 1) := by
  unfold State.failedTb
  generalize hv : ((if s.regionState r = 2 then s.setFlag (R.lockLost r) else s).setPid r {}) = v
  dsimp only
  refine ⟨(State.setTb_regionState _ r 5 r).trans (if_pos rfl), State.setTb_calFrozen _ r 5, ?_, ?_, ?_, fun h2 => ?_⟩
  · rw [State.setTb_getF _ _ _ (.inr (.inl rfl)) (by simp [R.realign]),
      State.setBound_getF _ _ _ (by simp only [R.realign]; omega) (by simp [R.realign])]
    exact State.getF_setF_same _ _ _ (by simp [R.realign])
  · rw [State.setTb_getF _ _ _ (.inl (by simp only [R.holdoverBound]; omega)) (by simp [R.holdoverBound])]
    exact State.setBound_bound _ r 0
  · rw [State.setTb_region, State.setF_region, State.setF_region, State.zeroTrim_lastTrim]
  · rw [State.setTb_getF _ _ _ (.inr (.inr (by simp [R.lockLost]))) (by simp [R.lockLost]),
      State.setBound_getF _ _ _ (by simp only [R.lockLost]; omega) (by simp [R.lockLost]),
      State.getF_setF_other _ _ (.inr (.inr (by simp [R.realign, R.lockLost]))) (by simp [R.lockLost]),
      State.zeroTrim_getF, State.endHold_getF, ← hv, State.setPid_getF, if_pos h2]
    exact (s.setFlag_spec (lockLost_apart r)).1

/-- A timebase that fails (R53, R449). -/
theorem State.tbFail_spec (hr : r < 8) (h0 : s.regionState r ≠ 0) (h5 : s.regionState r ≠ 5) :
    (s.tbFail r).regionState r = 5 ∧ (s.tbFail r).getF (R.calFrozen r) = 1 ∧ (s.tbFail r).getF (R.realign r) = 0 ∧
      (s.tbFail r).getF (R.holdoverBound r) = 0 ∧ (s.tbFail r).ringTrim r = 0 ∧
      (s.regionState r = 2 → (s.tbFail r).getF (R.lockLost r).flag = 1) ∧
      ∀ q, q < 8 → q ≠ r → (s.tbFail r).regionState q = s.regionState q := by
  obtain ⟨hstate, hfrozen, hrealign, hbound, htrim, hlost⟩ := s.failedTb_spec r
  have htail := State.tbFail_touch h0 h5
  have hkeep : ∀ f : RF, f.off < 0x3000 → (s.tbFail r).getF f = (s.failedTb r).getF f := fun f hf => htail.getF (not_gateParts_reg hf)
  refine ⟨(hkeep _ (by simp only [R.tbState]; omega)).trans hstate, (hkeep _ (by simp only [R.calFrozen]; omega)).trans hfrozen,
    (hkeep _ (by simp only [R.realign]; omega)).trans hrealign, (hkeep _ (by simp only [R.holdoverBound]; omega)).trans hbound, ?_,
    fun h2 => (hkeep _ (by simp only [R.lockLost]; omega)).trans (hlost h2), fun q hq hne => ?_⟩
  · have hregion : (s.tbFail r).region r = (s.failedTb r).region r := htail.same (not_gateParts_region r)
    unfold State.ringTrim
    rw [hregion, htrim, roundEven]
    simp
  · exact (hkeep _ (by simp only [R.tbState]; omega)).trans (regionState_of_tbParts (s.failedTb_touch r) hr hq hne)

/-- Settles O13. -/
theorem regionLockFollowsComparisons : Obligations.RegionLockFollowsComparisons := by
  intro s r
  have hr := r.isLt
  refine ⟨tbPhaseCompare_measures s r, fun h0 h5 => congrArg Host.Outcome.next (if_neg (by simp [h0, h5])),
    fun hst edge => congrArg Host.Outcome.next (if_pos hst), fun hst hrun => ?_, fun h2 hrun => ?_, fun h1 ht => ?_, fun h0 h5 => ?_,
    fun h0 h5 => ?_, fun hn => congrArg Host.Outcome.next (if_neg hn), fun hn => congrArg Host.Outcome.next (if_neg hn)⟩
  · obtain ⟨t, hexec, hlocked, hfrozen, hbound, hgood, hwas, hother⟩ := tbLocked_locks s r hst hrun
    exact ⟨t, hexec, hlocked, hfrozen, hbound, hgood, hwas, fun q _ hne => hother q q.isLt (Fin.val_ne_of_ne hne)⟩
  · obtain ⟨hst, hflag, hocc, hfrozen, hbound⟩ := s.enterHoldover_spec hr
    exact ⟨_, congrArg Host.Outcome.next (if_pos ⟨h2, hrun⟩), hst, hflag, hocc, hfrozen, hbound,
      fun q _ hne => regionState_of_tbParts (State.enterHoldover_tbParts (Touch.refl _ s)) hr q.isLt (Fin.val_ne_of_ne hne)⟩
  · obtain ⟨hst, hfrozen, -, -, -, -, hother⟩ := State.tbFail_spec (s := s) hr (by omega) (by omega)
    exact ⟨_, congrArg Host.Outcome.next (if_pos ⟨h1, ht⟩), hst, hfrozen, fun q _ hne => hother q q.isLt (Fin.val_ne_of_ne hne)⟩
  · obtain ⟨hst, -, -, -, htrim, hflag, hother⟩ := State.tbFail_spec hr h0 h5
    exact ⟨_, rfl, hst, htrim, hflag, fun q _ hne => hother q q.isLt (Fin.val_ne_of_ne hne)⟩
  · obtain ⟨-, -, hrealign, hbound, -⟩ := State.tbFail_spec hr h0 h5
    exact ⟨_, rfl, hrealign, hbound⟩

end Sys2Proof.Machine

namespace Sys2Proof.Machine

variable {s t u : State} {P : Comp → Prop} {r : Nat}

/-! ## The load of the coarse time (R65) -/

theorem Touch.cfgF (h : Touch P s t) {f : CF} (hc : ¬ P (.cfg f.key)) : t.cfgF f = s.cfgF f := by
  rw [State.cfgF, h.same (c := .cfg f.key) hc, State.cfgF]

/-- What a load changes beside the coarse time, EPOCH_LOADED and the cells' hits. -/
def loadParts : Comp → Prop
  | .region _ | .block _ | .loop => True
  | .reg o => o < 0x1020 ∨ 0x10000 ≤ o
  | _ => False

/-- The cells' hits move by `d` ticks. -/
def State.shifted (s : State) (d : BitVec 48) : State :=
  { s with cells := (s.cells.map fun (e : Nat × Cell) => (e.1, e.2.shift d) : Tab Cell).filter fun e => e.2 ≠ ({} : Cell) }

/-- A region held by REALIGN_NEEDED slews after a load (R71). -/
def State.realigned (s : State) (r : Nat) : State :=
  if s.regionState r = 3 ∧ s.getF (R.realign r) = 1 ∧ s.refPresent ∧ (s.region r).realignFrom ≤ s.time.starts then
    (((s.setRegion r { s.region r with goodRun := 0 }).freezeTrim r).setF (R.realign r) 0).setTb r 4
  else s

theorem State.realigned_touch (s : State) (hr : r < 8) : Touch loadParts s (s.realigned r) := by
  have hreg : ∀ f : RF, f.off = 0x1000 + 4 * r → loadParts (.reg f.off) := fun f h => .inl (by omega)
  have h1 : Touch loadParts s (((s.setRegion r { s.region r with goodRun := 0 }).freezeTrim r).setF (R.realign r) 0) :=
    State.setF_touch (State.setPid_touch (State.setRegion_touch (Touch.refl _ s) trivial) trivial) (hreg _ rfl)
  exact Touch.ite (State.setF_touch (State.setF_touch h1 (hreg _ rfl)) (hreg _ rfl)) (Touch.refl _ s)

/-- The compared copies take the value, and regions realign. -/
def State.copiesLoaded (s : State) (v : BitVec 48) : State :=
  (List.range 8).foldl State.realigned (s.voters.foldl (fun s r => s.setRegion r { s.region r with copy := v }) s)

theorem State.copiesLoaded_touch (s : State) (v : BitVec 48) : Touch loadParts s (s.copiesLoaded v) :=
  Touch.foldl_mem _ (Touch.foldl _ (Touch.refl _ s) fun _ _ h => State.setRegion_touch h trivial)
    fun _ _ hq h => h.trans (State.realigned_touch _ (List.mem_range.1 hq))

/-- The time as a load leaves it. -/
def TimeSt.loadedAt (x : TimeSt) (v : BitVec 48) (point : BitVec 61) : TimeSt :=
  { x with coarse := v, expected := none, wrapDue := false, wrapped := false, loadPoint := point }

theorem State.loadTime_eq (s : State) (v : BitVec 48) (point : BitVec 61) : s.loadTime v point =
    State.setF { (s.shifted (v - s.time.coarse)).copiesLoaded v with
      time := ((s.shifted (v - s.time.coarse)).copiesLoaded v).time.loadedAt v point } R.epochLoaded 1 := rfl

theorem State.startSamplers_touch {b p n : Nat} (h : Touch P s u) (hb : P (.block b)) : Touch P s (u.startSamplers b p n) :=
  State.setBlock_touch h hb

theorem State.settlePages_touch {b : Nat} (h : Touch P s u) (hr : P (.reg (0x10000 + 0x40 * b))) : Touch P s (u.settlePages b) :=
  Touch.ite (State.setF_touch h hr) (Touch.ite (State.setF_touch h hr) h)

theorem State.beginBlock_touch (s : State) (b n : Nat) : Touch loadParts s (s.beginBlock b n) := by
  have hreg : loadParts (.reg (0x10000 + 0x40 * b)) := .inr (by omega)
  have h0 := Touch.refl loadParts s
  unfold State.beginBlock
  refine Touch.ite (State.setBlock_touch h0 trivial) ?_
  extract_lets v fresh w x
  have hx : Touch loadParts s x := State.startSamplers_touch (State.setBlock_touch h0 trivial) trivial
  exact Touch.ite (State.settlePages_touch (State.setF_touch hx hreg) hreg) hx

/-- The time as the run begins with frame `f`, from sample `n` on. -/
def TimeSt.begunAt (x : TimeSt) (f : BitVec 32) (n : Nat) : TimeSt := { x with firstFrame := some f, lastFrame := none, loadSample := n }

theorem State.beginRun_touch (s : State) (f : BitVec 32) :
    Touch loadParts { s with time := s.time.begunAt f (s.lastSample + 1), pool := { s.pool with frameDone := none } } (s.beginRun f) :=
  Touch.foldl _ (Touch.refl _ _) fun _ b h => h.trans (State.beginBlock_touch _ b _)

/-- What a load leaves as it was, or sets. -/
structure Loads (s t : State) (v : BitVec 48) (point : BitVec 61) : Prop where
  loaded : t.getF R.epochLoaded = 1
  degraded : t.degraded = s.degraded
  node : t.node = s.node
  ticks : t.ticks = s.ticks
  cfg : ∀ f, t.cfgF f = s.cfgF f

theorem State.loadTime_time (s : State) (v : BitVec 48) (point : BitVec 61) : (s.loadTime v point).time = s.time.loadedAt v point := by
  have h := ((s.shifted (v - s.time.coarse)).copiesLoaded_touch v).same (c := .time) id
  rw [State.loadTime_eq]
  exact congrArg (·.loadedAt v point) h

theorem State.loadTime_loads (s : State) (v : BitVec 48) (point : BitVec 61) : Loads s (s.loadTime v point) v point := by
  have h := (s.shifted (v - s.time.coarse)).copiesLoaded_touch v
  rw [State.loadTime_eq]
  refine ⟨State.getF_setF_same _ _ _ (by decide), ?_, h.same (c := .node) id, h.same (c := .ticks) id, fun f => h.cfgF id⟩
  unfold State.degraded
  rw [State.getF_setF_other _ _ (.inr (.inl (by decide))) (by decide)]
  have hsame : ((s.shifted (v - s.time.coarse)).copiesLoaded v).getF R.clkSource = s.getF R.clkSource :=
    h.getF (by simp [loadParts, R.clkSource])
  exact congrArg (fun x => decide (x = 1)) hsame

theorem State.load_time (s : State) (v : BitVec 48) (point : BitVec 61) :
    (s.load v point).time = (s.time.loadedAt v point).begunAt (frameOf v) ((s.loadTime v point).lastSample + 1) := by
  have h : (s.load v point).time = (s.loadTime v point).time.begunAt (frameOf v) ((s.loadTime v point).lastSample + 1) :=
    ((s.loadTime v point).beginRun_touch (frameOf v)).same (c := .time) id
  rw [h, State.loadTime_time]

theorem State.load_loads (s : State) (v : BitVec 48) (point : BitVec 61) : Loads s (s.load v point) v point := by
  obtain ⟨hloaded, hdegraded, hnode, hticks, hcfg⟩ := s.loadTime_loads v point
  have h := (s.loadTime v point).beginRun_touch (frameOf v)
  have hreg : ∀ f : RF, f.off = 0x1020 → (s.load v point).getF f = (s.loadTime v point).getF f := fun f hf =>
    h.getF (by simp [loadParts, hf])
  have hnode' : (s.load v point).node = (s.loadTime v point).node := h.same (c := .node) id
  have hticks' : (s.load v point).ticks = (s.loadTime v point).ticks := h.same (c := .ticks) id
  refine ⟨(hreg _ rfl).trans hloaded, ?_, hnode'.trans hnode, hticks'.trans hticks,
    fun f => (h.cfgF id).trans (hcfg f)⟩
  rw [← hdegraded]
  unfold State.degraded
  rw [hreg _ rfl]

/-! ## Starts (R61, R64) -/

theorem mkStamp_toNat (v : BitVec 48) (f : BitVec 13) : (mkStamp v f).toNat = v.toNat * 8192 + f.toNat := by
  have hv := v.isLt
  have hf := f.isLt
  rw [mkStamp, BitVec.toNat_ofNat]
  omega

@[simp] theorem stampCoarse_mkStamp (v : BitVec 48) (f : BitVec 13) : stampCoarse (mkStamp v f) = v := by
  have hv := v.isLt
  have hf := f.isLt
  refine BitVec.eq_of_toNat_eq ?_
  rw [stampCoarse, mkStamp_toNat, BitVec.toNat_ofNat]
  omega

/-- The window that a start at stamp `x` opens. -/
def State.startWindow (s : State) (x : BitVec 61) : Window :=
  { s := stampCoarse x, num := s.time.nextStart, stamp := x, at_ := (s.absTick (stampCoarse x)).toNat }

/-- An accepted start takes its number and window record; its fragment changes no time and no register. -/
theorem State.start_none (h : s.time.window = none) (x : BitVec 61) :
    (s.start x).time = { s.time with window := some (s.startWindow x), nextStart := s.time.nextStart + 1 } ∧
      ∀ f, (s.start x).getF f = s.getF f := by
  unfold State.start
  rw [h]
  have htouch := State.modFrag_touch (f := fun f => { f with closeAt := some (stampCoarse x +
      BitVec.ofNat 48 (s.cfgF C.winDelay + s.cfgF C.winWidth + s.cfgF C.guard)) }) (k := .event 0 s.time.nextStart)
    (State.newFrag_touch (k := .event 0 s.time.nextStart) (tm := x) (n := 0) (c := false)
      (Touch.refl (· = .pool) { s with time := { s.time with window := some (s.startWindow x), nextStart := s.time.nextStart + 1 } }) rfl) rfl
  exact ⟨htouch.same (c := .time) (by simp), fun f => htouch.getF (by simp)⟩

theorem State.start_held (h : s.time.window ≠ none) (x : BitVec 61) : s.start x = s.inc R.startIgnored := by
  obtain ⟨w, hw⟩ := Option.ne_none_iff_exists'.1 h
  unfold State.start
  rw [hw]

/-! ## EPOCH_EDGE (R60, R65, R66) -/

/-- EPOCH_LAST takes the stamp of an edge. -/
def State.edgeStamped (s : State) (x : BitVec 61) : State :=
  (s.setF R.epochLastLo (x.toNat % 2 ^ 32)).setF R.epochLastHi (x.toNat / 2 ^ 32)

theorem State.edgeStamped_touch (s : State) (x : BitVec 61) : Touch (fun c => c = .reg 0x1048 ∨ c = .reg 0x104C) s (s.edgeStamped x) :=
  State.setF_touch (State.setF_touch (Touch.refl _ s) (.inl rfl)) (.inr rfl)

theorem State.edgeStamped_reads (s : State) (x : BitVec 61) :
    (s.edgeStamped x).getF R.epochLastLo + (s.edgeStamped x).getF R.epochLastHi * 2 ^ 32 = x.toNat := by
  have hx := x.isLt
  unfold State.edgeStamped
  rw [State.getF_setF_other _ _ (.inl (by decide)) (by decide), State.getF_setF_same _ _ _ (by decide),
    State.getF_setF_same _ _ _ (by decide)]
  simp only [R.epochLastLo, R.epochLastHi]
  omega

/-- The edge loads the coarse time (R65). -/
def State.edgeLoads (s : State) : Bool := s.running && !s.node.stopping && !s.loaded && !s.streamStart

/-- What an edge does at a node whose time is as the edge leaves it: EPOCH_LAST, and a start in window mode. -/
def State.edgeTaken (s : State) (x : BitVec 61) : State :=
  if (s.edgeStamped x).judging ∧ (s.edgeStamped x).windowMode then (s.edgeStamped x).start x else s.edgeStamped x

theorem epochEdge_eq (hm : s.measuring ≠ none) (f : BitVec 13) : exec (.epochEdge f) s =
    .next (if s.edgeLoads = true then (s.load (BitVec.ofNat 48 (s.cfgF C.epochPreset)) (mkStamp (BitVec.ofNat 48 (s.cfgF C.epochPreset)) f)).edgeTaken
        (mkStamp (s.load (BitVec.ofNat 48 (s.cfgF C.epochPreset)) (mkStamp (BitVec.ofNat 48 (s.cfgF C.epochPreset)) f)).time.coarse f)
      else s.edgeTaken (mkStamp s.time.coarse f)) := by
  obtain ⟨r, hr⟩ := Option.ne_none_iff_exists'.1 hm
  have hloads : decide (s.running = true ∧ ¬ s.node.stopping = true ∧ ¬ s.loaded = true ∧ ¬ s.streamStart = true) = s.edgeLoads := by
    unfold State.edgeLoads
    cases s.running <;> cases s.node.stopping <;> cases s.loaded <;> cases s.streamStart <;> rfl
  show execEpochEdge f s = _
  unfold execEpochEdge
  rw [hr]
  dsimp only
  rw [hloads]
  cases s.edgeLoads <;> rfl

end Sys2Proof.Machine

namespace Sys2Proof.Machine

variable {s t u : State} {P : Comp → Prop} {r : Nat}

theorem State.edgeStamped_getF (s : State) (x : BitVec 61) {f : RF} (hf : f.off ≠ 0x1048 ∧ f.off ≠ 0x104C) :
    (s.edgeStamped x).getF f = s.getF f := (s.edgeStamped_touch x).getF (by simpa using hf)

theorem State.edgeStamped_judging (s : State) (x : BitVec 61) : (s.edgeStamped x).judging = s.judging := by
  have hloaded : (s.edgeStamped x).loaded = s.loaded := by
    unfold State.loaded
    rw [s.edgeStamped_getF x (by decide)]
  unfold State.judging
  rw [hloaded]
  rfl

theorem State.edgeStamped_windowMode (s : State) (x : BitVec 61) : (s.edgeStamped x).windowMode = s.windowMode := rfl
theorem State.edgeStamped_time (s : State) (x : BitVec 61) : (s.edgeStamped x).time = s.time := rfl

theorem State.edgeTaken_quiet (x : BitVec 61) (h : (s.judging && s.windowMode) = false) : s.edgeTaken x = s.edgeStamped x := by
  unfold State.edgeTaken
  rw [State.edgeStamped_judging, State.edgeStamped_windowMode]
  exact if_neg (by simpa using h)

theorem State.edgeTaken_starts (x : BitVec 61) (hj : s.judging = true) (hw : s.windowMode = true) :
    s.edgeTaken x = (s.edgeStamped x).start x := by
  unfold State.edgeTaken
  rw [State.edgeStamped_judging, State.edgeStamped_windowMode]
  exact if_pos ⟨hj, hw⟩

@[simp] theorem State.absTick_coarse (s : State) : (s.absTick s.time.coarse).toNat = s.ticks := by
  simp [State.absTick]

theorem edgeLoads_of_not_judging (h1 : s.running = true) (h2 : s.node.stopping = false) (h3 : s.loaded = false) (h4 : s.streamStart = false) :
    s.edgeLoads = true := by simp [State.edgeLoads, h1, h2, h3, h4]

/-- A node that judges has a loaded time. -/
theorem edgeLoads_of_judging (h : s.judging = true) : s.edgeLoads = false := by
  have hl : s.loaded = true := by
    have h' := of_decide_eq_true h
    exact h'.2.1
  simp [State.edgeLoads, hl]

/-- The value that an EPOCH edge loads. -/
def State.preset (s : State) : BitVec 48 := BitVec.ofNat 48 (s.cfgF C.epochPreset)

/-- The node as an EPOCH edge has loaded it. -/
def State.epochLoads (s : State) (f : BitVec 13) : State := s.load s.preset (mkStamp s.preset f)

theorem State.epochLoads_coarse (s : State) (f : BitVec 13) : (s.epochLoads f).time.coarse = s.preset :=
  congrArg (·.coarse) (s.load_time s.preset (mkStamp s.preset f))

theorem epochEdge_loads (hm : s.measuring ≠ none) (h : s.edgeLoads = true) (f : BitVec 13) :
    exec (.epochEdge f) s = .next ((s.epochLoads f).edgeTaken (mkStamp s.preset f)) := by
  rw [epochEdge_eq hm, if_pos h]
  show Host.Outcome.next ((s.epochLoads f).edgeTaken (mkStamp (s.epochLoads f).time.coarse f)) = _
  rw [State.epochLoads_coarse]

theorem epochEdge_keeps (hm : s.measuring ≠ none) (h : s.edgeLoads = false) (f : BitVec 13) :
    exec (.epochEdge f) s = .next (s.edgeTaken (mkStamp s.time.coarse f)) := by
  rw [epochEdge_eq hm, if_neg (by simp [h])]

theorem State.epochLoads_windowMode (s : State) (f : BitVec 13) : (s.epochLoads f).windowMode = s.windowMode := by
  unfold State.windowMode
  rw [State.epochLoads, (s.load_loads _ _).cfg]

/-- A node that an edge has loaded judges. -/
theorem State.epochLoads_judging (h1 : s.running = true) (h2 : s.node.stopping = false) (f : BitVec 13) : (s.epochLoads f).judging = true := by
  have h := s.load_loads s.preset (mkStamp s.preset f)
  have hrun : (s.epochLoads f).running = true := by
    rw [State.running, State.epochLoads, h.node, ← h1, State.running]
  have hload : (s.epochLoads f).loaded = true := by
    rw [State.loaded, State.epochLoads, h.loaded]
    rfl
  have hstop : (s.epochLoads f).node.stopping = false := by rw [State.epochLoads, h.node, h2]
  simp [State.judging, hrun, hload, hstop]

/-- Settles O17. -/
theorem epochEdgeLoadsStartsOrIsRecorded : Obligations.EpochEdgeLoadsStartsOrIsRecorded := by
  refine ⟨fun s f hm hrun hstop hload hstream hmode => ?_, fun s f hm hrun hstop hload hstream hmode hnone => ?_,
    fun s f hm hj hmode hnone => ?_, fun s f hm hj hmode hheld hmax => ?_, fun s f hm hquiet hloads => ?_, fun s f hm hrun => ?_,
    fun s f hm hrun => ?_⟩
  · have htime := s.load_time s.preset (mkStamp s.preset f)
    refine ⟨_, epochEdge_loads hm (edgeLoads_of_not_judging hrun hstop hload hstream) f, ?_⟩
    rw [State.edgeTaken_quiet _ (by rw [State.epochLoads_windowMode, hmode, Bool.and_false]), State.edgeStamped_time,
      State.edgeStamped_getF _ _ (by decide)]
    exact ⟨(s.load_loads _ _).loaded, congrArg (·.coarse) htime, congrArg (·.loadPoint) htime, congrArg (·.firstFrame) htime,
      congrArg (·.wrapped) htime⟩
  · have htime := s.load_time s.preset (mkStamp s.preset f)
    have hwindow : ((s.epochLoads f).edgeStamped (mkStamp s.preset f)).time.window = none := (congrArg (·.window) htime).trans hnone
    have hnext : ((s.epochLoads f).edgeStamped (mkStamp s.preset f)).time.nextStart = s.time.nextStart := congrArg (·.nextStart) htime
    obtain ⟨hstart, hkeep⟩ := State.start_none hwindow (mkStamp s.preset f)
    refine ⟨_, ((s.epochLoads f).edgeStamped (mkStamp s.preset f)).startWindow (mkStamp s.preset f),
      epochEdge_loads hm (edgeLoads_of_not_judging hrun hstop hload hstream) f, ?_⟩
    rw [State.edgeTaken_starts _ (State.epochLoads_judging hrun hstop f) ((s.epochLoads_windowMode f).trans hmode), hstart, hkeep,
      State.edgeStamped_getF _ _ (by decide)]
    exact ⟨(s.load_loads _ _).loaded, congrArg (·.coarse) htime, congrArg (·.loadPoint) htime, rfl, stampCoarse_mkStamp _ _, hnext,
      rfl, rfl, congrArg (· + 1) hnext⟩
  · obtain ⟨hstart, -⟩ := State.start_none (s := s.edgeStamped (mkStamp s.time.coarse f)) hnone (mkStamp s.time.coarse f)
    refine ⟨_, epochEdge_keeps hm (edgeLoads_of_judging hj) f, ?_⟩
    rw [State.edgeTaken_starts _ hj hmode, hstart]
    refine ⟨?_, rfl, rfl⟩
    unfold State.startWindow
    rw [stampCoarse_mkStamp]
    exact congrArg (fun n => some (Window.mk _ _ _ n _ _)) s.absTick_coarse
  · refine ⟨_, epochEdge_keeps hm (edgeLoads_of_judging hj) f, ?_⟩
    rw [State.edgeTaken_starts _ hj hmode, State.start_held (s := s.edgeStamped _) hheld]
    refine ⟨rfl, ?_⟩
    rw [State.getF_inc_same _ _ (by decide), State.edgeStamped_getF _ _ (by decide)]
    exact Nat.min_eq_left (Nat.le_trans hmax (by decide))
  · refine ⟨_, epochEdge_keeps hm hloads f, ?_⟩
    rw [State.edgeTaken_quiet _ hquiet]
    exact ⟨s.edgeStamped_reads _, (s.edgeStamped_touch _).frame⟩
  · show execEpochEdge f s = _
    unfold execEpochEdge
    rw [hm]
    exact congrArg Host.Outcome.next (if_pos hrun)
  · show execEpochEdge f s = _
    unfold execEpochEdge
    rw [hm]
    exact congrArg Host.Outcome.next (if_neg (by simp [hrun]))

end Sys2Proof.Machine

namespace Sys2Proof.Machine

variable {s t u : State} {P : Comp → Prop} {r : Nat}

/-! ## What a read of a table word depends on (R321, R326)

The tables' memory and its merge buffer determine what its words read as: neither the error log nor the notices of a read say anything of
it, and no cell does. -/

/-- The code words of the tables and the merge buffer before them. -/
abbrev TableWords := Tab (BitVec 152) × List MbEntry

def State.tableWords (s : State) : TableWords := ((s.mem 5).cells, (s.mem 5).buffer)

theorem State.raw_tables (s : State) (a : Nat) : s.raw 5 a = Tab.get 0 s.tableWords.1 a := rfl

theorem tableWords_of_touch (h : Touch P s t) (hm : ¬ P (.mem 5)) : t.tableWords = s.tableWords := by
  have hmem : t.mem 5 = s.mem 5 := h.same (c := .mem 5) hm
  rw [State.tableWords, hmem, State.tableWords]

@[simp] theorem State.setMem_tableWords (s : State) (v : Mem) : (s.setMem 5 v).tableWords = (v.cells, v.buffer) := by
  rw [State.tableWords, State.setMem_mem_same]

theorem not_storeParts_tables : ¬ storeParts (.mem 5) := by simp [storeParts]

theorem not_logParts_tables : ¬ logParts (.mem 5) := by simp [logParts, storeParts]

@[simp] theorem State.inc_tableWords (s : State) (f : RF) : (s.inc f).tableWords = s.tableWords := rfl

@[simp] theorem State.memNotice_tableWords (s : State) : (s.memNotice 5).tableWords = s.tableWords := by
  unfold State.memNotice
  extract_lets v due
  split
  · rfl
  · have h := tableWords_of_touch (State.noticeRaw_touch (P := fun c => c = .node ∨ storeParts c)
      (u := s.setMem 5 { v with noticeCauses := 0, noticeAt := some s.ticks }) (code := 0x8006)
      (l := leBytes 1 5 ++ leBytes 1 v.noticeCauses.toNat ++ leBytes 2 (s.getF R.logSeq + 65535)) (Touch.refl _ _) (.inl rfl)
      fun _ => .inr) (by simp [not_storeParts_tables])
    exact h.trans (State.setMem_tableWords _ _)

@[simp] theorem State.msix_tableWords (s : State) (v : Nat) : (s.msix v).tableWords = s.tableWords :=
  tableWords_of_touch (State.msix_touch (P := fun c => c = .host ∨ c = .out) (Touch.refl _ s) (.inl rfl) (.inr rfl)) (by simp)

@[simp] theorem State.memEvent_tableWords (s : State) (f : FlagF) (c : BitVec 3) : (s.memEvent 5 f c).tableWords = s.tableWords := by
  unfold State.memEvent
  rw [State.memNotice_tableWords, State.setMem_tableWords]
  exact State.msix_tableWords (s.setFlag f) 9

@[simp] theorem State.logEntry_tableWords (s : State) (a b c d e f g : Nat) : (s.logEntry a b c d e f g).tableWords = s.tableWords :=
  tableWords_of_touch (State.logEntry_touch (Touch.refl logParts s) fun _ => id) not_logParts_tables

@[simp] theorem State.remember_tableWords (s : State) (a : Nat) : (s.remember a).tableWords = s.tableWords := rfl

@[simp] theorem State.ueFound_tableWords (s : State) (a o : Nat) (f : RF) : (s.ueFound 5 a o f).tableWords = s.tableWords := by
  unfold State.ueFound
  rw [State.memEvent_tableWords, State.inc_tableWords, State.remember_tableWords, State.logEntry_tableWords]

@[simp] theorem State.correction_tableWords (s : State) (a b c d e : Nat) : (s.correction 5 a b c d e).tableWords = s.tableWords := by
  unfold State.correction
  extract_lets u mac lastAt named supp prot v lv w
  have hv : v.tableWords = s.tableWords := by
    simp only [v]
    split
    · rfl
    · rw [State.remember_tableWords, State.logEntry_tableWords]
      rfl
  split
  · rw [State.memEvent_tableWords, State.setMem_tableWords]
    exact hv
  · exact hv

theorem State.setRaw_tableWords (s : State) (a : Nat) (c : BitVec 152) :
    (s.setRaw 5 a c).tableWords = (Tab.set 0 s.tableWords.1 a c, s.tableWords.2) := by
  rw [State.setRaw, if_neg (by simp [State.unitRetired_tables]), State.setMem_tableWords]
  rfl

/-- The tables after an entry of the merge buffer has drained. -/
def TableWords.drained (x : TableWords) (e : MbEntry) : TableWords :=
  let bits := byteBits e.mask
  let merge (d : BitVec 128) := encodeCw ((d &&& ~~~bits) ||| (e.data &&& bits))
  let c := Tab.get 0 x.1 e.addr
  let w := if e.mask = 0xFFFF then encodeCw e.data else match classify c with
    | .clean => merge (cwData c)
    | .ce j v => merge (cwData (flipSymbol c j v))
    | _ => poisonCw
  (Tab.set 0 x.1 e.addr w, x.2.filter fun y => y.addr ≠ e.addr)

theorem State.drainEntry_tableWords (s : State) (e : MbEntry) : (s.drainEntry 5 e).tableWords = s.tableWords.drained e := by
  unfold State.drainEntry
  extract_lets v u bits merge
  have hu : u.tableWords = (s.tableWords.1, s.tableWords.2.filter fun y => y.addr ≠ e.addr) := State.setMem_tableWords _ _
  have hset : ∀ c, (u.setRaw 5 e.addr c).tableWords = (Tab.set 0 s.tableWords.1 e.addr c, s.tableWords.2.filter fun y => y.addr ≠ e.addr) :=
    fun c => by rw [State.setRaw_tableWords, hu]
  have hraw : u.raw 5 e.addr = Tab.get 0 s.tableWords.1 e.addr := by rw [State.raw_tables, hu]
  rw [if_neg (by simp [State.unitRetired_tables]), hraw]
  unfold TableWords.drained
  dsimp only
  split
  · exact hset _
  · generalize classify (Tab.get 0 s.tableWords.1 e.addr) = k
    cases k with
    | clean => exact hset _
    | ce j v => exact (State.correction_tableWords _ _ _ _ _ _).trans (hset _)
    | poison => exact hset _
    | poisonCe j v => exact (State.correction_tableWords _ _ _ _ _ _).trans (hset _)
    | ue =>
      dsimp only
      split
      · exact hset _
      · exact (State.ueFound_tableWords _ _ _ _).trans (hset _)

/-- The tables before a word of them is read. -/
def TableWords.drainedFor (x : TableWords) (a : Nat) : TableWords :=
  match x.2.find? fun e => e.addr = a with
  | some e => x.drained e
  | none => x

theorem State.drainFor_tableWords (s : State) (a : Nat) : (s.drainFor 5 a).tableWords = s.tableWords.drainedFor a := by
  unfold State.drainFor TableWords.drainedFor
  show _ = match (s.mem 5).buffer.find? fun e => e.addr = a with | some e => s.tableWords.drained e | none => s.tableWords
  cases (s.mem 5).buffer.find? fun e => decide (e.addr = a) with
  | none => rfl
  | some e => exact s.drainEntry_tableWords e

/-- A word of the tables reads as poisoned. -/
def TableWords.lost (x : TableWords) (a : Nat) : Bool :=
  match classify (Tab.get 0 (x.drainedFor a).1 a) with
  | .clean => false
  | .ce _ _ => false
  | _ => true

theorem State.readCw_tableWords (s : State) (a : Nat) :
    (s.readCw 5 a).1.isNone = s.tableWords.lost a ∧ (s.readCw 5 a).2.tableWords = s.tableWords.drainedFor a := by
  have hd := s.drainFor_tableWords a
  unfold State.readCw TableWords.lost
  rw [if_neg (by simp [State.unitRetired_tables]), ← hd, ← State.raw_tables]
  dsimp only
  cases classify ((s.drainFor 5 a).raw 5 a) with
  | clean => exact ⟨rfl, rfl⟩
  | ce j v => exact ⟨rfl, State.correction_tableWords _ _ _ _ _ _⟩
  | poison => exact ⟨rfl, rfl⟩
  | poisonCe j v => exact ⟨rfl, State.correction_tableWords _ _ _ _ _ _⟩
  | ue =>
    dsimp only
    split
    · exact ⟨rfl, rfl⟩
    · exact ⟨rfl, (State.ueFound_tableWords _ _ _ _).trans (State.setMem_tableWords _ _)⟩

/-- Equal tables read alike, and stay equal. -/
theorem State.tableCw_congr (h : s.tableWords = t.tableWords) (a : Nat) :
    (s.tableCw a).1 = (t.tableCw a).1 ∧ (s.tableCw a).2.tableWords = (t.tableCw a).2.tableWords := by
  obtain ⟨hs1, hs2⟩ := s.readCw_tableWords a
  obtain ⟨ht1, ht2⟩ := t.readCw_tableWords a
  have hcells : (s.mem 5).cells = (t.mem 5).cells := congrArg Prod.fst h
  unfold State.tableCw
  rw [hcells]
  dsimp only
  split
  · exact ⟨rfl, h⟩
  · exact ⟨by rw [hs1, ht1, h], by rw [hs2, ht2, h]⟩

/-- A cell's table reads alike wherever the tables and what the cell holds of its table are equal. -/
theorem State.inlTable_congr {c : Nat} (h : s.tableWords = t.tableWords) (hb : (s.cell c).activeB = (t.cell c).activeB)
    (ht : (s.cell c).table = (t.cell c).table) : (s.inlTable c).1 = (t.inlTable c).1 := by
  have hfold : ∀ (l : List Nat) (x : Tab Int × Nat) (u v : State), u.tableWords = v.tableWords →
      (l.foldl (fun (r : (Tab Int × Nat) × State) (g : Nat) =>
        (dropEntries r.1 g (r.2.tableCw (Config.inlWord c (t.cell c).activeB g)).1, (r.2.tableCw (Config.inlWord c (t.cell c).activeB g)).2))
        (x, u)).1 =
      (l.foldl (fun (r : (Tab Int × Nat) × State) (g : Nat) =>
        (dropEntries r.1 g (r.2.tableCw (Config.inlWord c (t.cell c).activeB g)).1, (r.2.tableCw (Config.inlWord c (t.cell c).activeB g)).2))
        (x, v)).1 := by
    intro l
    induction l with
    | nil => intro x u v _; rfl
    | cons g l ih =>
      intro x u v huv
      obtain ⟨h1, h2⟩ := State.tableCw_congr huv (Config.inlWord c (t.cell c).activeB g)
      rw [List.foldl_cons, List.foldl_cons]
      dsimp only
      rw [h1]
      exact ih _ _ _ h2
  unfold State.inlTable
  dsimp only
  rw [hb, ht]
  exact hfold _ _ _ _ h

theorem State.inlTable_touch (s : State) (c : Nat) : Touch (memParts 5) s (s.inlTable c).2 :=
  Touch.foldl2 _ (Touch.refl _ s) fun _ _ h => State.tableCw_touch h fun _ => id

end Sys2Proof.Machine

namespace Sys2Proof.Machine

variable {s t u : State} {P : Comp → Prop} {r : Nat}

/-! ## Calibration (R76-R81) -/

/-- Sixteen times what a cell's counts give for entry `i` of its table (R78). -/
def Cell.measured (v : Cell) (i : Nat) : Int :=
  if i = 0 then 0 else
    roundAway (16 * (8192 * (((List.range i).map fun j => Tab.get 0 v.calSeg j).sum : Int) - 128 * i * v.calTotal)) v.calTotal

/-- A cell's counts are cleared. -/
def State.calCleared (s : State) (c : Nat) : State := s.setCell c { s.cell c with calTotal := 0, calSeg := [] }

/-- The farthest that a measurement lies from a table (R79). -/
def farthest (m old : Nat → Int) : Nat := ((List.range 64).map fun i => (m i - old i).natAbs).foldl max 0

/-- The value an entry moves to, where 16 bits hold it (R79). -/
def movedEntry (m old : Nat → Int) (k full i : Nat) : Int := old i + roundAway (m i - old i) (min k full)

/-- The entries of the new table: one that leaves 16 bits is free (assumption 4). -/
def State.newEntry (s : State) (x : Nat → Int) (i : Nat) : Int :=
  if -32768 ≤ x i ∧ x i ≤ 32767 then x i else signed 16 (Config.freeValue (s.free + i)).toNat

/-- A cell whose measurement is rejected (R79). -/
def State.calRejected (s : State) (c run : Nat) : State :=
  if 16 ≤ run then ((s.setRun c run).inc (R.calReject c)).setF (R.calSuspect c) 1 else (s.setRun c run).inc (R.calReject c)

/-- A cell's new table goes into service (R79). -/
def State.calInService (s : State) (c : Nat) (tab : Tab Int) : State := ((s.drawTable.calLoad c tab).setRun c 0).inc (R.calUpdates c)

def State.calMoved (s : State) (c : Nat) (tab : Tab Int) (converged : Prop) [Decidable converged] : State :=
  if converged then (s.calInService c tab).setF (R.calConverged c) 1 else s.calInService c tab

theorem State.calCleared_inlTable (s : State) (c : Nat) : ((s.calCleared c).inlTable c).1 = (s.inlTable c).1 := by
  have hcell : (s.calCleared c).cell c = { s.cell c with calTotal := 0, calSeg := [] } := State.setCell_cell_same _ _ _
  exact State.inlTable_congr rfl (by rw [hcell]) (by rw [hcell]; rfl)

/-- The node after a cell's counts are cleared and its table read. -/
def State.calRead (s : State) (c : Nat) : State := ((s.calCleared c).inlTable c).2

theorem not_memParts_cal {m c : Nat} (hm : m < 6) : ¬ memParts m (.reg (0x20000 + 0x20 * c)) := by
  simp [memParts, logParts, storeParts]
  omega

theorem State.calRead_getF (s : State) (c : Nat) {f : RF} (hf : f.off = 0x20000 + 0x20 * c) : (s.calRead c).getF f = s.getF f :=
  ((s.calCleared c).inlTable_touch c).getF (hf ▸ not_memParts_cal (by decide))

theorem State.calRead_cfgF (s : State) (c : Nat) (f : CF) : (s.calRead c).cfgF f = s.cfgF f :=
  ((s.calCleared c).inlTable_touch c).cfgF (by simp [memParts, logParts, storeParts])

theorem State.calRead_cell (s : State) (c : Nat) : (s.calRead c).cell c = { s.cell c with calTotal := 0, calSeg := [] } := by
  have h : (s.calRead c).cell c = (s.calCleared c).cell c :=
    ((s.calCleared c).inlTable_touch c).same (c := .cell c) (by simp [memParts, logParts, storeParts])
  rw [h]
  exact State.setCell_cell_same _ _ _

/-- A measurement `m` against a table `old`, with the converged bit, the count of updates, the rejection limit, 2^CAL_SHIFT and the
rejections in a row that it would make: it is rejected, or the table moves. -/
def State.calUpdated (s : State) (c : Nat) (m old : Nat → Int) (converged k limit full run : Nat) : State :=
  if converged = 1 ∧ 16 * limit < farthest m old then s.calRejected c run
  else s.calMoved c (Tab.update 0 [] 1 63 fun i _ => s.newEntry (movedEntry m old (k + 1) full) i) (full ≤ k + 1)

/-- CAL_UPDATE at a cell with enough counts that is not suspect. -/
theorem calUpdate_eq (c : Fin 2048)
    (hn : ¬ ((s.cell c).calTotal < 2 ^ s.cfgF (C.calHitsLog (c.val / 256)) ∨ s.cfgF (C.calSource (c.val / 256)) = 3))
    (hs : s.getF (R.calSuspect c) ≠ 1) : exec (.calUpdate c) s = .next
      ((s.calRead c).calUpdated c (s.cell c).measured (Tab.get 0 (s.inlTable c).1.1) (s.getF (R.calConverged c)) (s.getF (R.calUpdates c))
        (s.cfgF (C.calRejectLsb (c.val / 256))) (2 ^ s.cfgF (C.calShift (c.val / 256))) ((s.cell c).rejectRun + 1)) := by
  refine congrArg Host.Outcome.next ((if_neg hn).trans ((if_neg hs).trans ?_))
  suffices h : (s.calRead c).calUpdated c (s.cell c).measured (Tab.get 0 ((s.calCleared c).inlTable c).1.1) ((s.calRead c).getF (R.calConverged c))
    ((s.calRead c).getF (R.calUpdates c)) ((s.calRead c).cfgF (C.calRejectLsb (c.val / 256)))
    (2 ^ (s.calRead c).cfgF (C.calShift (c.val / 256))) ((s.cell c).rejectRun + 1) = _ by
    refine Eq.trans ?_ h
    unfold State.calUpdated State.calRejected State.calMoved State.calInService State.newEntry movedEntry farthest Cell.measured State.calRead
    rfl
  rw [State.calCleared_inlTable, State.calRead_getF _ _ rfl, State.calRead_getF _ _ rfl, State.calRead_cfgF, State.calRead_cfgF]

theorem State.setRun_cell (s : State) (c n : Nat) : (s.setRun c n).cell c = { s.cell c with rejectRun := n } := State.setCell_cell_same _ _ _

theorem State.setRun_getF (s : State) (c n : Nat) (f : RF) : (s.setRun c n).getF f = s.getF f := rfl

theorem State.setF_cell (s : State) (f : RF) (v c : Nat) : (s.setF f v).cell c = s.cell c := rfl
theorem State.inc_cell (s : State) (f : RF) (c : Nat) : (s.inc f).cell c = s.cell c := rfl

theorem State.inc_getF_other (s : State) {f g : RF} (h : g.off ≠ f.off ∨ g.lo + g.w ≤ f.lo ∨ f.lo + f.w ≤ g.lo) (hg : g.lo + g.w ≤ 32) :
    (s.inc f).getF g = s.getF g := State.getF_setF_other _ _ h hg

theorem State.calRejected_spec (s : State) (c run : Nat) :
    (s.calRejected c run).cell c = { s.cell c with rejectRun := run } ∧
      (s.calRejected c run).getF (R.calReject c) = min (s.getF (R.calReject c) + 1) 255 ∧
      (s.calRejected c run).getF (R.calSuspect c) = if 16 ≤ run then 1 else s.getF (R.calSuspect c) := by
  have hcount : ((s.setRun c run).inc (R.calReject c)).getF (R.calReject c) = min (s.getF (R.calReject c) + 1) 255 :=
    State.getF_inc_same _ _ (by simp [R.calReject])
  have hkeep : ((s.setRun c run).inc (R.calReject c)).getF (R.calSuspect c) = s.getF (R.calSuspect c) :=
    State.inc_getF_other _ (.inr (.inr (by simp [R.calSuspect, R.calReject]))) (by simp [R.calSuspect])
  unfold State.calRejected
  split
  · refine ⟨s.setRun_cell c run, ?_, State.getF_setF_same _ _ _ (by simp [R.calSuspect])⟩
    rw [State.getF_setF_other _ _ (.inr (.inl (by simp [R.calSuspect, R.calReject]))) (by simp [R.calReject]), hcount]
  · exact ⟨s.setRun_cell c run, hcount, hkeep⟩

theorem State.tableWrite_getF (s : State) (l : List Nat) (f : RF) : (s.tableWrite l).getF f = s.getF f :=
  (State.tableWrite_touch (P := (· = .mem 5)) (Touch.refl _ s) rfl).getF (by simp)

theorem State.calLoad_getF (s : State) (c : Nat) (tab : Tab Int) (f : RF) : (s.calLoad c tab).getF f = s.getF f :=
  s.tableWrite_getF (inlWords c (!(s.cell c).activeB)) f

/-- A table that is loaded clears no count. -/
theorem State.calLoad_counts (s : State) (c : Nat) (tab : Tab Int) : ((s.calLoad c tab).cell c).calTotal = (s.cell c).calTotal ∧
    ((s.calLoad c tab).cell c).calSeg = (s.cell c).calSeg := by
  have hcell : (s.calLoad c tab).cell c = if (s.cell c).activeB then { s.cell c with tableA := tab, activeB := false }
      else { s.cell c with tableB := tab, activeB := true } := State.setCell_cell_same _ _ _
  rw [hcell]
  split <;> exact ⟨rfl, rfl⟩

theorem State.calInService_cell (s : State) (c : Nat) (tab : Tab Int) :
    ((s.calInService c tab).cell c).calTotal = (s.cell c).calTotal ∧ ((s.calInService c tab).cell c).calSeg = (s.cell c).calSeg ∧
      ((s.calInService c tab).cell c).rejectRun = 0 ∧ ((s.calInService c tab).cell c).activeB = !(s.cell c).activeB ∧
      ((s.calInService c tab).cell c).table = tab := by
  obtain ⟨hactive, htable, -⟩ := s.drawTable.calLoad_spec c tab
  obtain ⟨htotal, hseg⟩ := s.drawTable.calLoad_counts c tab
  unfold State.calInService
  rw [State.inc_cell, State.setRun_cell]
  exact ⟨htotal, hseg, rfl, hactive, htable⟩

theorem State.calInService_calUpdates (s : State) (c : Nat) (tab : Tab Int) :
    (s.calInService c tab).getF (R.calUpdates c) = min (s.getF (R.calUpdates c) + 1) 65535 := by
  unfold State.calInService
  rw [State.getF_inc_same _ _ (by simp [R.calUpdates]), State.setRun_getF, State.calLoad_getF]
  rfl

theorem State.calMoved_spec (s : State) (c : Nat) (tab : Tab Int) (p : Prop) [Decidable p] :
    (s.calMoved c tab p).cell c = (s.calInService c tab).cell c ∧
      (s.calMoved c tab p).getF (R.calUpdates c) = min (s.getF (R.calUpdates c) + 1) 65535 ∧
      (p → (s.calMoved c tab p).getF (R.calConverged c) = 1) := by
  have hcount := s.calInService_calUpdates c tab
  unfold State.calMoved
  split
  · refine ⟨State.setF_cell _ _ _ _, ?_, fun _ => State.getF_setF_same _ _ _ (by simp [R.calConverged])⟩
    rw [State.getF_setF_other _ _ (.inr (.inr (by simp [R.calUpdates, R.calConverged]))) (by simp [R.calUpdates]), hcount]
  · next hp => exact ⟨rfl, hcount, fun h => absurd h hp⟩

/-- A new table's entry 0 is 0, and entries 1 to 63 are the moved ones, where 16 bits hold them. -/
theorem newTable_spec (s : State) (x : Nat → Int) :
    Tab.get 0 (Tab.update 0 [] 1 63 fun i _ => s.newEntry x i) 0 = 0 ∧
      ∀ i, 0 < i → i < 64 → -32768 ≤ x i → x i ≤ 32767 → Tab.get 0 (Tab.update 0 [] 1 63 fun i _ => s.newEntry x i) i = x i := by
  refine ⟨?_, fun i h0 h64 hlo hhi => ?_⟩
  · rw [Tab.get_update, if_neg (by omega)]
    rfl
  · rw [Tab.get_update, if_pos (by omega)]
    exact if_pos ⟨hlo, hhi⟩

/-- A pulse that finds the interpolator free counts (R77, R81). -/
theorem calPulse_eq (c : Fin 2048) (raw : BitVec 13) (hsrc : s.cfgF (C.calSource (c.val / 256)) = 1 ∨ s.cfgF (C.calSource (c.val / 256)) = 2)
    (hfree : ∀ h ∈ (s.cell c).hits, h.stamp ≠ none) (hmode : s.cellMode c ≠ 0) : exec (.calPulse c raw) s = .next (s.calCount c raw) := by
  have hbusy : ((s.cell c).hits.any fun h => h.stamp.isNone) = false := by
    rw [List.any_eq_false]
    exact fun h hm => by simpa using hfree h hm
  exact congrArg Host.Outcome.next (if_pos ⟨hsrc, by simp [hbusy], hmode⟩)

/-- Enough pulses have been counted, and calibration is on. -/
def State.calDue (s : State) (c : Fin 2048) : Prop :=
  2 ^ s.cfgF (C.calHitsLog (c.val / 256)) ≤ (s.cell c).calTotal ∧ s.cfgF (C.calSource (c.val / 256)) ≠ 3

theorem State.calDue.not_idle {c : Fin 2048} (h : s.calDue c) :
    ¬ ((s.cell c).calTotal < 2 ^ s.cfgF (C.calHitsLog (c.val / 256)) ∨ s.cfgF (C.calSource (c.val / 256)) = 3) := by
  rintro (hlow | hoff)
  · exact absurd h.1 (Nat.not_le.2 hlow)
  · exact h.2 hoff

/-- A measurement lies too far from the table of a cell (R79). -/
def State.calFar (s : State) (c : Fin 2048) : Prop :=
  16 * s.cfgF (C.calRejectLsb (c.val / 256)) < farthest (s.cell c).measured (Tab.get 0 (s.inlTable c).1.1)

/-- The value that entry `i` of a cell's table moves to. -/
def State.calTarget (s : State) (c : Fin 2048) (i : Nat) : Int :=
  movedEntry (s.cell c).measured (Tab.get 0 (s.inlTable c).1.1) (s.getF (R.calUpdates c) + 1) (2 ^ s.cfgF (C.calShift (c.val / 256))) i

theorem calUpdate_moves (c : Fin 2048) (hdue : s.calDue c) (hclean : s.getF (R.calSuspect c) = 0)
    (hfar : ¬ (s.getF (R.calConverged c) = 1 ∧ s.calFar c)) :
    ∃ t, exec (.calUpdate c) s = .next t ∧ (t.cell c).calTotal = 0 ∧ (t.cell c).calSeg = [] ∧ (t.cell c).rejectRun = 0 ∧
      (t.cell c).activeB = !(s.cell c).activeB ∧ Tab.get 0 (t.cell c).table 0 = 0 ∧
      (∀ i, 0 < i → i < 64 → -32768 ≤ s.calTarget c i → s.calTarget c i ≤ 32767 → Tab.get 0 (t.cell c).table i = s.calTarget c i) ∧
      t.getF (R.calUpdates c) = min (s.getF (R.calUpdates c) + 1) 65535 ∧
      (2 ^ s.cfgF (C.calShift (c.val / 256)) ≤ s.getF (R.calUpdates c) + 1 → t.getF (R.calConverged c) = 1) := by
  have hcell := s.calRead_cell c
  obtain ⟨hsame, hupdates, hconv⟩ := (s.calRead c).calMoved_spec c (Tab.update 0 [] 1 63 fun i _ => (s.calRead c).newEntry (s.calTarget c) i)
    (2 ^ s.cfgF (C.calShift (c.val / 256)) ≤ s.getF (R.calUpdates c) + 1)
  obtain ⟨htotal, hseg, hrun, hactive, htable⟩ := (s.calRead c).calInService_cell c
    (Tab.update 0 [] 1 63 fun i _ => (s.calRead c).newEntry (s.calTarget c) i)
  obtain ⟨hzero, hentry⟩ := newTable_spec (s.calRead c) (s.calTarget c)
  refine ⟨(s.calRead c).calMoved c (Tab.update 0 [] 1 63 fun i _ => (s.calRead c).newEntry (s.calTarget c) i)
      (2 ^ s.cfgF (C.calShift (c.val / 256)) ≤ s.getF (R.calUpdates c) + 1),
    (calUpdate_eq c hdue.not_idle (by omega)).trans (congrArg Host.Outcome.next (if_neg hfar)), ?_⟩
  rw [hsame, htotal, hseg, hactive, htable, hcell]
  exact ⟨rfl, rfl, hrun, rfl, hzero, hentry, by rw [hupdates, State.calRead_getF _ _ rfl], hconv⟩

theorem calUpdate_rejects (c : Fin 2048) (hdue : s.calDue c) (hclean : s.getF (R.calSuspect c) = 0)
    (hconv : s.getF (R.calConverged c) = 1) (hfar : s.calFar c) :
    ∃ t, exec (.calUpdate c) s = .next t ∧ (t.cell c).calTotal = 0 ∧ (t.cell c).rejectRun = (s.cell c).rejectRun + 1 ∧
      (t.cell c).table = (s.cell c).table ∧ t.getF (R.calReject c) = min (s.getF (R.calReject c) + 1) 255 ∧
      t.getF (R.calSuspect c) = (if 16 ≤ (s.cell c).rejectRun + 1 then 1 else 0) := by
  obtain ⟨hcell, hcount, hsuspect⟩ := (s.calRead c).calRejected_spec c ((s.cell c).rejectRun + 1)
  refine ⟨_, (calUpdate_eq c hdue.not_idle (by omega)).trans (congrArg Host.Outcome.next (if_pos ⟨hconv, hfar⟩)), ?_⟩
  rw [hcell, hcount, hsuspect, s.calRead_cell, State.calRead_getF _ _ rfl, State.calRead_getF _ _ rfl, hclean]
  exact ⟨rfl, rfl, rfl, rfl, rfl⟩

theorem calPulse_counts (c : Fin 2048) (raw : BitVec 13) (hsrc : s.cfgF (C.calSource (c.val / 256)) = 1 ∨ s.cfgF (C.calSource (c.val / 256)) = 2)
    (hfree : ∀ h ∈ (s.cell c).hits, h.stamp ≠ none) (hmode : s.cellMode c ≠ 0) (hlocked : s.regionState (c.val / 256) = 2) :
    ∃ t, exec (.calPulse c raw) s = .next t ∧ (t.cell c).calTotal = (s.cell c).calTotal + 1 ∧
      Tab.get 0 (t.cell c).calSeg (raw.toNat / 128) = Tab.get 0 (s.cell c).calSeg (raw.toNat / 128) + 1 ∧
      Frame (fun p => p = .cell c) s t := by
  have hcount : s.calCount c raw = s.setCell c { s.cell c with
      calTotal := (s.cell c).calTotal + 1,
      calSeg := Tab.set 0 (s.cell c).calSeg (raw.toNat / 128) (Tab.get 0 (s.cell c).calSeg (raw.toNat / 128) + 1) } :=
    if_neg (not_not.2 hlocked)
  refine ⟨_, calPulse_eq c raw hsrc hfree hmode, ?_⟩
  rw [hcount, State.setCell_cell_same]
  exact ⟨rfl, Tab.get_set_same _ _ _ _, (State.setCell_touch (P := fun p => p = .cell c) (Touch.refl _ s) rfl).frame⟩

/-- Settles O19. -/
theorem calibrationCountsMovesOrRejects : Obligations.CalibrationCountsMovesOrRejects := by
  unfold Obligations.CalibrationCountsMovesOrRejects
  intro s c r v n below m old k full far
  refine ⟨fun raw hsrc hfree hmode hlocked => calPulse_counts c raw hsrc hfree hmode hlocked,
    fun hn hsrc hclean hfar => calUpdate_moves c ⟨hn, hsrc⟩ hclean hfar,
    fun hn hsrc hclean hconv hfar => calUpdate_rejects c ⟨hn, hsrc⟩ hclean hconv hfar, fun h => ?_,
    fun hn hsrc hsus => ?_, fun h => congrArg Host.Outcome.next (if_pos h)⟩
  · rw [State.inlTable_intact _ h]
  · exact congrArg Host.Outcome.next ((if_neg (State.calDue.not_idle ⟨hn, hsrc⟩)).trans (if_pos hsus))

end Sys2Proof.Machine

namespace Sys2Proof.Machine

variable {s t u : State} {P : Comp → Prop} {r : Nat}

/-! ## The discriminator (R53, R101, R104, R109, R112, R519) -/

/-- The discriminator of a cell is high, after an edge that a discharge may have made. -/
def State.risen (s : State) (c : Nat) (discharge : Bool) : State := (s.strike c discharge).setF (R.discHigh c) 1

theorem State.risen_touch (s : State) (c : Nat) (discharge : Bool) :
    Touch (fun x => x = .cell c ∨ x = .reg (0x20004 + 0x20 * c)) s (s.risen c discharge) :=
  State.setF_touch (Touch.ite (State.setCell_touch (Touch.refl _ s) (.inl rfl)) (Touch.refl _ s)) (.inr rfl)

theorem State.risen_getF (s : State) (c : Nat) (discharge : Bool) {f : RF} (hf : f.off ≠ 0x20004 + 0x20 * c) :
    (s.risen c discharge).getF f = s.getF f := (s.risen_touch c discharge).getF (by simpa using hf)

theorem State.risen_discHigh (s : State) (c : Nat) (discharge : Bool) : (s.risen c discharge).getF (R.discHigh c) = 1 :=
  State.getF_setF_same _ _ _ (by simp [R.discHigh])

theorem State.risen_dprLost (s : State) (c : Nat) (discharge : Bool) : (s.risen c discharge).getF (R.dprLost c) = s.getF (R.dprLost c) := by
  unfold State.risen
  rw [State.getF_setF_other _ _ (.inr (.inr (by simp [R.discHigh, R.dprLost]))) (by simp [R.dprLost]), State.strike]
  split <;> rfl

/-- A discharge is remembered; an edge says nothing else of its cell. -/
theorem State.risen_cell (s : State) (c : Nat) (discharge : Bool) :
    (s.risen c discharge).cell c = { s.cell c with struck := if discharge then some s.ticks else (s.cell c).struck } := by
  show (s.strike c discharge).cell c = _
  cases discharge
  · rfl
  · exact State.setCell_cell_same _ _ _

/-- What else a rising edge keeps. -/
theorem State.risen_kept (s : State) (c : Nat) (discharge : Bool) : (s.risen c discharge).node = s.node ∧
    (s.risen c discharge).time = s.time ∧ (s.risen c discharge).ticks = s.ticks ∧ (s.risen c discharge).cfg = s.cfg := by
  unfold State.risen State.strike
  split <;> exact ⟨rfl, rfl, rfl, rfl⟩

theorem State.risen_loaded (s : State) {c : Nat} (discharge : Bool) : (s.risen c discharge).loaded = s.loaded := by
  rw [State.loaded, s.risen_getF c discharge (by simp only [R.epochLoaded]; omega), State.loaded]

theorem State.risen_recordsStops (s : State) {c : Nat} (discharge : Bool) : (s.risen c discharge).recordsStops = s.recordsStops := by
  unfold State.recordsStops State.judging
  rw [State.risen_loaded]
  cases discharge <;> rfl

/-- The tick and fine code of an edge, as edges of a cell are compared (R104). -/
def State.edgeAt (s : State) (edge : DiscEdge) : Nat := s.ticks * 8192 + edge.raw.toNat

/-- The LSB since the last edge that counted. -/
def State.edgeGap (s : State) (c : Nat) (edge : DiscEdge) : Nat :=
  match (s.cell c).lastEdge with
  | some e => s.edgeAt edge - e
  | none => 2 ^ 60

/-- An edge begins a hit (R104); exactly 12 ns after the last it does so by a free bit (assumption 24). -/
def State.edgeBegins (s : State) (gap : Nat) : Bool := if gap = 15728 ∨ gap = 15729 then s.freshBit else decide (15729 < gap)

/-- The hit that an edge begins. -/
def State.begunHit (s : State) (c : Nat) (edge : DiscEdge) : Hit :=
  { coarse := s.time.coarse, raw := edge.raw, struck := edge.discharge, full := s.cellMode c = 2
    live := (s.recordsStops || s.awaitsLoad) && !decide (s.getF (R.acqState (c / 16)) = 6)
    frost := s.recordsStops && decide (s.getF (R.acqState (c / 16)) = 6), early := s.awaitsLoad }

/-- A hit begins. -/
def State.hitBegun (s : State) (c : Nat) (edge : DiscEdge) : State :=
  s.drawn.setCell c { s.cell c with
    hits := (s.cell c).hits.map (s.markPileup c) ++ [s.begunHit c edge], lastEdge := some (s.edgeAt edge) }

/-- An edge too near the last: the newest hit takes PILEUP, and DPR_LOST counts. -/
def State.edgeLost (s : State) (c : Nat) : State :=
  (s.drawn.setCell c { s.cell c with
    hits := updLast (fun h => { h with pileup := true }) ((s.cell c).hits.map (s.markPileup c)) }).inc (R.dprLost c)

/-- The discriminator of a powered cell is enabled, not gated off, and low. -/
def State.discArmed (s : State) (c : Nat) : Prop :=
  s.cellMode c ≠ 0 ∧ s.cfgF (C.discEn c) ≠ 0 ∧ s.getF (R.discHigh c) ≠ 1 ∧ s.regionState (c / 256) ≠ 0 ∧ s.regionState (c / 256) ≠ 5

/-- A cell whose region stamps its hits has settled and recovered from the last discharge. -/
def State.discReady (s : State) (c : Nat) : Prop :=
  (s.cell c).settling = none ∧ (s.cell c).stunned s.ticks = false ∧
    (s.regionState (c / 256) = 2 ∨ s.regionState (c / 256) = 3 ∨ s.regionState (c / 256) = 4)

theorem State.discArmed.not_idle {c : Nat} (h : s.discArmed c) : ¬ (s.cellMode c = 0 ∨ s.cfgF (C.discEn c) = 0 ∨ s.getF (R.discHigh c) = 1 ∨
    s.regionState (c / 256) = 0 ∨ s.regionState (c / 256) = 5) := by
  obtain ⟨hmode, hen, hhigh, h0, h5⟩ := h
  rintro (h | h | h | h | h)
  · exact hmode h
  · exact hen h
  · exact hhigh h
  · exact h0 h
  · exact h5 h

theorem discRise_eq (c : Fin 2048) (edge : DiscEdge) (ha : s.discArmed c) (hr : s.discReady c) : exec (.discRise c edge) s = .next
    (if (s.risen c edge.discharge).edgeBegins ((s.risen c edge.discharge).edgeGap c edge) = true
      then (s.risen c edge.discharge).hitBegun c edge else (s.risen c edge.discharge).edgeLost c) := by
  obtain ⟨hsettled, hsteady, hst⟩ := hr
  refine congrArg Host.Outcome.next ((if_neg ha.not_idle).trans ((if_neg ?_).trans rfl))
  rintro (h | h | h)
  · simp [hsettled] at h
  · simp [hsteady] at h
  · exact h hst

theorem State.risen_edgeGap (s : State) (c : Nat) (d : Bool) (edge : DiscEdge) : (s.risen c d).edgeGap c edge = s.edgeGap c edge := by
  have hticks : (s.risen c d).edgeAt edge = s.edgeAt edge := by rw [State.edgeAt, (s.risen_kept c d).2.2.1, State.edgeAt]
  unfold State.edgeGap
  rw [State.risen_cell, hticks]

/-- An edge more than 15,729 LSB after the last one begins a hit. -/
theorem State.edgeBegins_of_far {c : Nat} {edge : DiscEdge} (w : State) (h : ∀ e, (s.cell c).lastEdge = some e → e + 15729 < s.edgeAt edge) :
    w.edgeBegins (s.edgeGap c edge) = true := by
  have hgap : 15729 < s.edgeGap c edge := by
    unfold State.edgeGap
    split
    · next e he =>
      have := h e he
      omega
    · decide
  unfold State.edgeBegins
  rw [if_neg (by omega)]
  exact decide_eq_true hgap

/-- One less than 15,728 LSB after the last one begins none. -/
theorem State.not_edgeBegins_of_near {c e : Nat} {edge : DiscEdge} (w : State) (he : (s.cell c).lastEdge = some e) (h : s.edgeAt edge < e + 15728) :
    w.edgeBegins (s.edgeGap c edge) = false := by
  have hgap : s.edgeGap c edge < 15728 := by
    unfold State.edgeGap
    rw [he]
    dsimp only
    omega
  unfold State.edgeBegins
  rw [if_neg (by omega)]
  exact decide_eq_false (by omega)

theorem State.hitBegun_cell (s : State) (c : Nat) (edge : DiscEdge) : (s.hitBegun c edge).cell c = { s.cell c with
    hits := (s.cell c).hits.map (s.markPileup c) ++ [s.begunHit c edge], lastEdge := some (s.edgeAt edge) } := State.setCell_cell_same _ _ _

theorem State.edgeLost_cell (s : State) (c : Nat) : (s.edgeLost c).cell c = { s.cell c with
    hits := updLast (fun h => { h with pileup := true }) ((s.cell c).hits.map (s.markPileup c)) } := State.setCell_cell_same _ _ _

theorem length_updLast {α : Type} (f : α → α) (l : List α) : (updLast f l).length = l.length := by
  induction l with
  | nil => rfl
  | cons a l ih =>
    cases l with
    | nil => rfl
    | cons b l => exact congrArg (· + 1) ih

/-- The last of a list after `updLast` is `f` of some member. -/
theorem getLast?_updLast {α : Type} (f : α → α) (l : List α) {x : α} (h : (updLast f l).getLast? = some x) : ∃ a, x = f a := by
  induction l with
  | nil => simp [updLast] at h
  | cons a l ih =>
    cases l with
    | nil => exact ⟨a, by simpa [updLast] using h.symm⟩
    | cons b l =>
      rw [updLast, List.getLast?_cons] at h
      · refine ih ?_
        have hne : updLast f (b :: l) ≠ [] := fun hn => by simpa [hn] using length_updLast f (b :: l)
        rw [List.getLast?_eq_getLast_of_ne_nil hne] at h ⊢
        simpa using h
      · simp

/-- A cell that is settled, in a region that stamps hits, with its discriminator enabled and low. -/
theorem State.discArmed_of {c : Nat} (hm : s.cellMode c ≠ 0) (hen : s.cfgF (C.discEn c) = 1) (hlow : s.getF (R.discHigh c) = 0)
    (h0 : s.regionState (c / 256) ≠ 0) (h5 : s.regionState (c / 256) ≠ 5) : s.discArmed c :=
  ⟨hm, by omega, by omega, h0, h5⟩

theorem discRise_begins (c : Fin 2048) (edge : DiscEdge) (ha : s.discArmed c) (hr : s.discReady c)
    (hfar : ∀ e, (s.cell c).lastEdge = some e → e + 15729 < s.edgeAt edge) :
    ∃ t, exec (.discRise c edge) s = .next t ∧ t.getF (R.discHigh c) = 1 ∧ (t.cell c).lastEdge = some (s.edgeAt edge) ∧
      (t.cell c).hits.length = (s.cell c).hits.length + 1 ∧
      (t.cell c).struck = (if edge.discharge then some s.ticks else (s.cell c).struck) ∧
      ∃ h, (t.cell c).hits.getLast? = some h ∧ h.coarse = s.time.coarse ∧ h.raw = edge.raw ∧ h.stamp = none ∧ h.pileup = false ∧
        h.struck = edge.discharge ∧ h.full = decide (s.cellMode c = 2) ∧
        h.frost = (s.recordsStops && decide (s.getF (R.acqState (c / 16)) = 6)) := by
  obtain ⟨hnode, htime, hticks, hcfg⟩ := s.risen_kept c edge.discharge
  have hmode : (s.risen c edge.discharge).cellMode c = s.cellMode c := by
    unfold State.risen State.strike
    split <;> rfl
  refine ⟨_, discRise_eq c edge ha hr, ?_⟩
  rw [State.risen_edgeGap, if_pos (State.edgeBegins_of_far _ hfar), State.hitBegun_cell, State.risen_cell]
  refine ⟨s.risen_discHigh c edge.discharge, ?_, by simp, rfl, (s.risen c edge.discharge).begunHit c edge, by simp, ?_,
    rfl, rfl, rfl, rfl, ?_, ?_⟩
  · rw [State.edgeAt, hticks, State.edgeAt]
  · exact congrArg TimeSt.coarse htime
  · exact congrArg (fun n => decide (n = 2)) hmode
  · show ((s.risen c edge.discharge).recordsStops && decide ((s.risen c edge.discharge).getF (R.acqState (c.val / 16)) = 6)) = _
    rw [State.risen_recordsStops, State.risen_getF _ _ _ (by simp only [R.acqState]; omega)]

theorem discRise_loses (c : Fin 2048) (edge : DiscEdge) {e : Nat} (ha : s.discArmed c) (hr : s.discReady c)
    (he : (s.cell c).lastEdge = some e) (hnear : s.edgeAt edge < e + 15728) :
    ∃ t, exec (.discRise c edge) s = .next t ∧ t.getF (R.discHigh c) = 1 ∧ (t.cell c).lastEdge = some e ∧
      (t.cell c).hits.length = (s.cell c).hits.length ∧ (∀ h, (t.cell c).hits.getLast? = some h → h.pileup = true) ∧
      t.getF (R.dprLost c) = min (s.getF (R.dprLost c) + 1) 65535 := by
  refine ⟨_, discRise_eq c edge ha hr, ?_⟩
  rw [State.risen_edgeGap, if_neg (by simp [State.not_edgeBegins_of_near _ he hnear]), State.edgeLost_cell, State.risen_cell]
  refine ⟨?_, he, by simp [length_updLast], fun h hlast => ?_, ?_⟩
  · unfold State.edgeLost
    rw [State.inc_getF_other _ (.inr (.inl (by simp [R.discHigh, R.dprLost]))) (by simp [R.discHigh])]
    exact s.risen_discHigh c edge.discharge
  · obtain ⟨x, rfl⟩ := getLast?_updLast _ _ hlast
    rfl
  · unfold State.edgeLost
    rw [State.getF_inc_same _ _ (by simp [R.dprLost])]
    exact congrArg (fun n => min (n + 1) 65535) (s.risen_dprLost c edge.discharge)

/-- While the cell settles or is stunned, or its region acquires, an edge only raises DISC_HIGH. -/
theorem discRise_raises (c : Fin 2048) (edge : DiscEdge) (ha : s.discArmed c)
    (h : (s.cell c).settling ≠ none ∨ (s.cell c).stunned s.ticks = true ∨ s.regionState (c.val / 256) = 1) :
    exec (.discRise c edge) s = .next (s.risen c edge.discharge) := by
  refine congrArg Host.Outcome.next ((if_neg ha.not_idle).trans (if_pos ?_))
  rcases h with h | h | h
  · exact .inl (Option.isSome_iff_ne_none.2 h)
  · exact .inr (.inl h)
  · exact .inr (.inr (by simp [h]))

/-- A fall completes the times over threshold of a cell's hits in TIMING. -/
theorem discFall_falls (c : Fin 2048) (p : BitVec 3) (sat : Bool) (hhigh : s.getF (R.discHigh c) = 1) :
    ∃ t, exec (.discFall c p sat) s = .next t ∧ t.getF (R.discHigh c) = 0 ∧
      (t.cell c).hits = (s.cell c).hits.map (fun h => if h.full ∨ h.tot.isSome then h else
        { h with tot := some (min 4095 ((s.time.coarse - h.coarse).toNat * 8 + p.toNat - h.raw.toNat / 1024), sat) }) ∧
      Frame (fun x => x = .cell c ∨ x = .reg (0x20004 + 0x20 * c)) s t := by
  refine ⟨s.fallCell c p.toNat sat, congrArg Host.Outcome.next (if_pos hhigh), State.getF_setF_same _ _ _ (by simp [R.discHigh]), ?_,
    (State.fallCell_touch (P := fun x => x = .cell c ∨ x = .reg (0x20004 + 0x20 * c)) (Touch.refl _ s) (.inl rfl) (.inr rfl)).frame⟩
  exact congrArg Cell.hits (State.setCell_cell_same s c.val _)

/-- The count of a hit in TIMING has reached its limit (R112). -/
def State.totDue (s : State) (h : Hit) : Bool :=
  !h.full && h.tot.isNone && 4095 ≤ (s.time.coarse - h.coarse).toNat * 8 + 7 - h.raw.toNat / 1024

def State.totLimited (s : State) (c : Nat) (sat : Bool) : State := s.setCell c { s.cell c with
  hits := (s.cell c).hits.map fun h => if s.totDue h then { h with tot := some (4095, sat) } else h }

theorem State.totLimited_hits (s : State) (c : Nat) (sat : Bool) : ((s.totLimited c sat).cell c).hits =
    (s.cell c).hits.map fun h => if s.totDue h then { h with tot := some (4095, sat) } else h := by
  unfold State.totLimited
  rw [State.setCell_cell_same]

theorem State.mem_totLimited_due {c : Nat} {h : Hit} (sat : Bool) (hm : h ∈ (s.cell c).hits) (hd : s.totDue h = true) :
    { h with tot := some (4095, sat) } ∈ ((s.totLimited c sat).cell c).hits := by
  rw [State.totLimited_hits]
  exact List.mem_map.2 ⟨h, hm, if_pos hd⟩

theorem State.mem_totLimited_other {c : Nat} {h : Hit} (sat : Bool) (hm : h ∈ (s.cell c).hits) (hd : s.totDue h = false) :
    h ∈ ((s.totLimited c sat).cell c).hits := by
  rw [State.totLimited_hits]
  exact List.mem_map.2 ⟨h, hm, if_neg (by simp [hd])⟩

/-- Settles O20. -/
theorem discriminatorEdgesBeginAndEndHits : Obligations.DiscriminatorEdgesBeginAndEndHits := by
  unfold Obligations.DiscriminatorEdgesBeginAndEndHits
  intro s c v st
  refine ⟨fun edge hm hset hstun hen hlow hst hfar => ?_, fun edge hm hen hlow h0 h5 h => ?_, fun edge h => ?_,
    fun edge e hm hset hstun hen hlow hst he hnear => ?_, fun p sat hhigh => discFall_falls c p sat hhigh, fun sat => ?_⟩
  · exact discRise_begins c edge (State.discArmed_of hm hen hlow (by show st ≠ 0; omega) (by show st ≠ 5; omega)) ⟨hset, hstun, hst⟩ hfar
  · exact discRise_raises c edge (State.discArmed_of hm hen hlow h0 h5) h
  · exact congrArg Host.Outcome.next (if_pos h)
  · exact discRise_loses c edge (State.discArmed_of hm hen hlow (by show st ≠ 0; omega) (by show st ≠ 5; omega)) ⟨hset, hstun, hst⟩ he hnear
  · refine ⟨s.totLimited c sat, rfl, fun h hmem hfull htot hlim => ?_, fun h hmem hkeep => ?_,
      (State.setCell_touch (P := fun x => x = .cell c) (Touch.refl _ s) rfl).frame⟩
    · exact State.mem_totLimited_due sat hmem (by
        rw [State.totDue, hfull, htot, decide_eq_true hlim]
        rfl)
    · exact State.mem_totLimited_other sat hmem (by rcases hkeep with hk | hk <;> simp [State.totDue, hk])

end Sys2Proof.Machine

namespace Sys2Proof.Machine

variable {s t u : State} {P : Comp → Prop} {r : Nat}

/-! ## What triggers change (R119-R125, R131) -/

/-- The blocks with their registers, and the number of the next record. -/
def judgeParts : Comp → Prop
  | .block _ | .trig => True
  | .reg o => 0x10000 ≤ o
  | _ => False

/-- What a trigger changes: besides, the fragments and the number of the next SELF event. -/
def triggerParts : Comp → Prop
  | .block _ | .trig | .pool | .free => True
  | .reg o => o = 0x2008 ∨ 0x10000 ≤ o
  | _ => False

theorem judgeParts_trigger {c : Comp} (h : judgeParts c) : triggerParts c := by
  cases c <;> simp_all [judgeParts, triggerParts]

theorem State.inc_judge {f : RF} (h : Touch judgeParts s u) (hf : 0x10000 ≤ f.off) : Touch judgeParts s (u.inc f) := State.inc_touch h hf

theorem State.judge_touch (s : State) (b : Nat) (src : BitVec 3) (cells : BitVec 16) (key : MergeKey) (x : BitVec 61) :
    Touch judgeParts s (s.judge b src cells key x).2 := by
  have h0 := Touch.refl judgeParts s
  unfold State.judge
  extract_lets v st mode pre0 post t0 near upTo start e pre base units late holds held v' yet w next w' w1 w2
  have hlate : Touch judgeParts s late.2 := State.inc_judge (State.setBlock_touch h0 trivial) (by simp only [R.tooLate]; omega)
  have hinc : ∀ f : RF, 0x10000 ≤ f.off → Touch judgeParts s (s.inc f) := fun f hf => State.inc_judge h0 hf
  have h' : Touch judgeParts s w' := (State.setBlock_touch h0 trivial).upd (htrig := .inl trivial)
  have h1 : Touch judgeParts s w1 := State.setF_touch (State.incWrap_touch h' (show 0x10000 ≤ _ by simp only [R.trigAccepted]; omega))
    (show 0x10000 ≤ _ by simp only [R.acqState]; omega)
  have h2 : Touch judgeParts s w2 := Touch.ite (State.inc_judge h1 (by simp only [R.preShortCnt]; omega)) h1
  refine Touch.ite2 h0 (Touch.ite2 (hinc _ (by simp only [R.frostLost]; omega)) (Touch.ite2 (hinc _ (by simp only [R.pageWaitLost]; omega))
    (Touch.ite2 (hinc _ (by simp only [R.overlapLost]; omega)) (Touch.ite2 (hinc _ (by simp only [R.rearmLost]; omega)) (Touch.ite2 hlate
    (Touch.ite2 (hinc _ (by simp only [R.ignoredEarly]; omega)) (Touch.ite2 hlate
    (Touch.ite2 (hinc _ (by simp only [R.pageWaitLost]; omega)) ?_))))))))
  exact Touch.ite (State.inc_judge h2 (by simp only [R.wrappedCnt]; omega)) h2

theorem State.judge_trigger (h : Touch triggerParts s u) {b : Nat} {src : BitVec 3} {cells : BitVec 16} {key : MergeKey} {x : BitVec 61} :
    Touch triggerParts s (u.judge b src cells key x).2 := h.trans ((u.judge_touch b src cells key x).mono fun _ => judgeParts_trigger)

theorem State.selfTrigger_touch {src : BitVec 3} {b : Nat} {cells : BitVec 16} {x : BitVec 61} (h : Touch triggerParts s u) :
    Touch triggerParts s (u.selfTrigger src b cells x) := by
  unfold State.selfTrigger
  dsimp only
  split
  · exact State.judge_trigger h
  · exact State.newFrag_touch (State.incWrap_touch (State.judge_trigger h) (.inl rfl)) trivial

theorem State.cellTrigger_touch {c : Nat} {x : BitVec 61} (h : Touch triggerParts s u) : Touch triggerParts s (u.cellTrigger c x) :=
  Touch.ite (State.selfTrigger_touch h) h

theorem State.coincidence_touch {c : Nat} {x : BitVec 61} (h : Touch triggerParts s u) : Touch triggerParts s (u.coincidence c x) := by
  unfold State.coincidence
  refine Touch.ite h ?_
  extract_lets v edges late
  split
  · exact State.selfTrigger_touch (State.setBlock_touch h trivial)
  · exact State.setBlock_touch h trivial

theorem State.edgeTriggers_touch {c : Nat} {x : BitVec 61} (h : Touch triggerParts s u) : Touch triggerParts s (u.edgeTriggers c x) :=
  Touch.ite (State.coincidence_touch (State.cellTrigger_touch (State.drawn_touch h trivial)))
    (State.cellTrigger_touch (State.coincidence_touch (State.drawn_touch h trivial)))

/-! ## INTERPOLATION_DONE (R61, R65, R74, R77) -/

/-- With no table word damaged a stop reads its cell's table as it stands. -/
theorem State.inlRead_intact (c : Nat) (x : BitVec 13) (h : (s.mem 5).cells = []) : s.inlRead c x = ((s.cell c).table, s) := by
  unfold State.inlRead
  simp only [State.tableCw_intact h, ite_self, Bool.false_eq_true, if_false]

/-- The entry of a table word that reads as poisoned is 0. -/
theorem State.inlRead_poisoned (c : Nat) (x : BitVec 13) (hb : (s.mem 5).buffer = [])
    (hp : poisonedCw (s.raw 5 (Config.inlWord c (s.cell c).activeB (x.toNat / 1024))) = true) :
    Tab.get 0 (s.inlRead c x).1 (x.toNat / 128) = 0 := by
  have hcells : (s.mem 5).cells ≠ [] := by
    intro hnil
    rw [State.raw, hnil] at hp
    exact absurd hp (by rw [show Tab.get (0 : BitVec 152) [] _ = 0 from rfl, poisonedCw_zero]; decide)
  have hword : x.toNat / 1024 = x.toNat / 128 / 8 := by omega
  have hlost : (s.tableCw (Config.inlWord c (s.cell c).activeB (x.toNat / 128 / 8))).1 = true :=
    State.tableCw_of_poisoned hb hcells (hword ▸ hp)
  unfold State.inlRead
  dsimp only
  rw [hlost, if_pos rfl, Tab.get_set_same]

theorem State.inlRead_touch (s : State) (c : Nat) (x : BitVec 13) : Touch (memParts 5) s (s.inlRead c x).2 := by
  have h0 := State.tableCw_touch (P := memParts 5) (a := Config.inlWord c (s.cell c).activeB (x.toNat / 128 / 8)) (Touch.refl _ s) fun _ => id
  unfold State.inlRead
  dsimp only
  split
  · exact h0
  · exact State.tableCw_touch h0 fun _ => id

theorem not_memParts_cell {m c : Nat} : ¬ memParts m (.cell c) := by simp [memParts, logParts, storeParts]

theorem State.inlRead_cell (s : State) (c : Nat) (x : BitVec 13) : (s.inlRead c x).2.cell c = s.cell c :=
  (s.inlRead_touch c x).same (c := .cell c) not_memParts_cell

theorem State.calCount_hits (s : State) (c : Nat) (x : BitVec 13) : ((s.calCount c x).cell c).hits = (s.cell c).hits := by
  unfold State.calCount
  split
  · rfl
  · rw [State.setCell_cell_same]

theorem State.acceptStop_hits (s : State) (c : Nat) (x : BitVec 61) : ((s.acceptStop c x).2.cell c).hits = (s.cell c).hits := by
  unfold State.acceptStop
  extract_lets coarse
  split
  · rfl
  · split
    · rfl
    · split
      · extract_lets n u
        have hu : (u.cell c).hits = (s.cell c).hits := (congrArg Cell.hits (State.setCell_cell_same s c _)).trans rfl
        split <;> exact hu
      · rfl

/-- The hit as a judgement leaves it: its stamp and its own marks stay. -/
theorem State.judgeStop_hit (s : State) (c : Nat) (h : Hit) : (s.judgeStop c h).1.stamp = h.stamp ∧ (s.judgeStop c h).1.coarse = h.coarse ∧
    (s.judgeStop c h).1.raw = h.raw := by
  unfold State.judgeStop
  split
  · exact ⟨rfl, rfl, rfl⟩
  · split
    · exact ⟨rfl, rfl, rfl⟩
    · exact ⟨rfl, rfl, rfl⟩

theorem State.judgeStop_hits (s : State) (c : Nat) (h : Hit) : ((s.judgeStop c h).2.cell c).hits = (s.cell c).hits := by
  unfold State.judgeStop
  split
  · rfl
  · split
    · rfl
    · dsimp only
      split
      · exact s.acceptStop_hits c _
      · rfl

end Sys2Proof.Machine

namespace Sys2Proof.Machine

variable {s t u : State} {P : Comp → Prop} {r : Nat}

/-- The corrected stamp of a stop (R74). -/
def State.stampOf (s : State) (c : Nat) (h : Hit) : BitVec 61 := inlCorrect (s.inlRead c h.raw).1 h.coarse h.raw

/-- The node when a stop's table has been read and the stop counted for calibration. -/
def State.interpolated (s : State) (c : Nat) (h : Hit) : State :=
  let u := (s.inlRead c h.raw).2
  if u.cfgF (C.calSource (c / 256)) = 0 ∨ u.cfgF (C.calSource (c / 256)) = 2 then u.calCount c h.raw else u

theorem State.calCount_kept (s : State) (c : Nat) (x : BitVec 13) : (s.calCount c x).time = s.time ∧ (s.calCount c x).cfg = s.cfg := by
  unfold State.calCount
  split <;> exact ⟨rfl, rfl⟩

theorem State.interpolated_hits (s : State) (c : Nat) (h : Hit) : ((s.interpolated c h).cell c).hits = (s.cell c).hits := by
  unfold State.interpolated
  dsimp only
  split
  · rw [State.calCount_hits, State.inlRead_cell]
  · rw [State.inlRead_cell]

theorem State.interpolated_time (s : State) (c : Nat) (h : Hit) : (s.interpolated c h).time = s.time := by
  have hread : (s.inlRead c h.raw).2.time = s.time := (s.inlRead_touch c h.raw).same (c := .time) (by simp [memParts, logParts, storeParts])
  unfold State.interpolated
  dsimp only
  split
  · rw [(State.calCount_kept _ _ _).1, hread]
  · exact hread

theorem State.interpolated_windowMode (s : State) (c : Nat) (h : Hit) : (s.interpolated c h).windowMode = s.windowMode := by
  have hread : (s.inlRead c h.raw).2.windowMode = s.windowMode := by
    rw [State.windowMode, (s.inlRead_touch c h.raw).cfgF (by simp [memParts, logParts, storeParts]), State.windowMode]
  unfold State.interpolated
  dsimp only
  split
  · rw [← hread]
    unfold State.windowMode State.cfgF State.record
    rw [(State.calCount_kept _ _ _).2]
  · exact hread

/-- The node when the first stop has its stamp, and its window is judged. -/
def State.stamped (s : State) (c : Nat) (h : Hit) : Hit × State := (s.interpolated c h).judgeStop c { h with stamp := some (s.stampOf c h) }

/-- The first hit without a stamp takes the judged one's place. -/
def State.hitPut (s : State) (c : Nat) (done : Hit) : State :=
  s.setCell c { s.cell c with hits := execInterpolationDone.put done (s.cell c).hits }

theorem put_first {h done : Hit} {rest : List Hit} (hs : h.stamp = none) :
    execInterpolationDone.put done (h :: rest) = { done with pileup := h.pileup, tot := h.tot } :: rest := by
  rw [execInterpolationDone.put, hs]
  rfl

theorem interpolationDone_eq (c : Fin 2048) {h : Hit} {rest : List Hit} (hh : (s.cell c).hits = h :: rest) (hs : h.stamp = none) :
    exec (.interpolationDone c) s = .next
      (if ((s.stamped c h).2.hitPut c (s.stamped c h).1).judging = true ∧
          stampReached (s.stampOf c h) ((s.stamped c h).2.hitPut c (s.stamped c h).1).time.loadPoint = true
        then ((s.stamped c h).2.hitPut c (s.stamped c h).1).edgeTriggers c (s.stampOf c h)
        else (s.stamped c h).2.hitPut c (s.stamped c h).1) := by
  have hfind : ((s.cell c).hits.find? fun h => h.stamp.isNone) = some h := by
    rw [hh, List.find?_cons_of_pos]
    simp [hs]
  show execInterpolationDone c s = _
  unfold execInterpolationDone
  dsimp only
  rw [hfind]
  rfl

/-- The hits after INTERPOLATION_DONE. -/
theorem interpolationDone_hits (c : Fin 2048) {h : Hit} {rest : List Hit} (hh : (s.cell c).hits = h :: rest) (hs : h.stamp = none) :
    ∃ t, exec (.interpolationDone c) s = .next t ∧
      (t.cell c).hits = { (s.stamped c h).1 with pileup := h.pileup, tot := h.tot } :: rest := by
  have hput : (((s.stamped c h).2.hitPut c (s.stamped c h).1).cell c).hits =
      { (s.stamped c h).1 with pileup := h.pileup, tot := h.tot } :: rest := by
    unfold State.hitPut
    rw [State.setCell_cell_same, State.stamped, State.judgeStop_hits, State.interpolated_hits, hh, put_first hs]
  refine ⟨_, interpolationDone_eq c hh hs, ?_⟩
  split
  · have hcell := (State.edgeTriggers_touch (c := c) (x := s.stampOf c h)
      (Touch.refl triggerParts ((s.stamped c h).2.hitPut c (s.stamped c h).1))).same (c := .cell c) id
    exact (congrArg Cell.hits hcell).trans hput
  · exact hput

/-- Outside window mode a stop at or after the load point belongs to the frame of its corrected time (R65, R75). -/
theorem State.stamped_frame {c : Nat} {h : Hit} (hw : s.windowMode = false) (hl : h.live = true) (hk : h.key = none) (he : h.early = false)
    (hp : stampReached (s.stampOf c h) s.time.loadPoint = true) :
    (s.stamped c h).1.key = some (.frame (frameOf (stampCoarse (s.stampOf c h)))) ∧ (s.stamped c h).1.base = 0 := by
  unfold State.stamped State.judgeStop
  dsimp only
  rw [if_neg (by simp [hl, hk, he]), State.interpolated_time, if_pos (by simp [he, hp])]
  unfold State.acceptStop
  dsimp only
  rw [if_pos (by simp [State.interpolated_windowMode, hw])]
  exact ⟨rfl, rfl⟩

/-! ## HIT_WORD_FORMED (R108-R113, R144, R154) -/

/-- A stop whose window is judged is not judged again. -/
theorem State.judgeStop_judged {c : Nat} {h : Hit} {k : MergeKey} (hk : h.key = some k) : s.judgeStop c h = (h, s) := by
  unfold State.judgeStop
  split
  · rfl
  · exact if_pos (.inr (.inl (by simp [hk])))

/-- A stop that is not to be recorded is not judged. -/
theorem State.judgeStop_dead {c : Nat} {h : Hit} (hl : h.live = false) : s.judgeStop c h = (h, s) := by
  unfold State.judgeStop
  split
  · rfl
  · exact if_pos (.inl (by simp [hl]))

/-- A hit leaves its cell, and its word has been formed from what its window gathered. -/
def State.wordFormed (s : State) (c : Nat) (h : Hit) (stamp : BitVec 61) (key : MergeKey) (w : QSum) (q : Nat) (pileup : Bool) : State :=
  (if w.sat || h.struck then s.setFlag (R.satSeen c) else s).derandomise c
    ⟨hitWord c (stampFine stamp).toNat (stampCoarse stamp - h.base).toNat q w.range (boolNat pileup) (boolNat w.settle)
      (boolNat (w.sat || h.struck)) (boolNat (s.inHoldover (c / 256) (stampCoarse stamp))) (boolNat w.poison), stamp, key⟩

theorem hitWordFormed_timing (c : Fin 2048) {h : Hit} {rest : List Hit} {stamp : BitVec 61} {tot : Nat} {sat : Bool} {key : MergeKey}
    (hh : (s.cell c).hits = h :: rest) (hs : h.stamp = some stamp) (hf : h.full = false) (ht : h.tot = some (tot, sat)) (hl : h.live = true)
    (hk : h.key = some key) (hdue : s.absTick h.coarse + 3 ≤ s.ticks) : exec (.hitWordFormed c) s = .next
      ((s.setCell c { s.cell c with hits := rest }).wordFormed c h stamp key { sat := sat } tot h.pileup) := by
  show execHitWordFormed c s = _
  unfold execHitWordFormed State.wordFormed
  simp only [hh, hs, hf, ht, hl, hk, State.judgeStop_judged hk, decide_eq_true hdue, Option.isSome_some, Bool.false_eq_true, if_false,
    Bool.and_true, not_true, Bool.false_and, Bool.or_false]

/-- A word enters a derandomiser that holds fewer than 8 (R144). -/
theorem State.derandomise_room {c : Nat} (x : HitWord) (hroom : (s.cell c).derand.length < 8) :
    (s.derandomise c x).cell c = { s.cell c with derand := (s.cell c).derand ++ [x] } ∧
      (∀ f : RF, f.off ≠ 0x2000C + 0x20 * c → (s.derandomise c x).getF f = s.getF f) ∧
      (s.derandomise c x).getF (R.derandPeak c) = max ((s.cell c).derand.length + 1) (s.getF (R.derandPeak c)) := by
  have heq : s.derandomise c x = (s.setCell c { s.cell c with derand := (s.cell c).derand ++ [x] }).setF (R.derandPeak c)
      (max ((s.cell c).derand.length + 1) (s.getF (R.derandPeak c))) := if_neg (Nat.not_le.2 hroom)
  rw [heq]
  refine ⟨State.setCell_cell_same _ _ _, fun f hf => ?_, ?_⟩
  · exact (State.setF_touch (P := (· = .reg (0x2000C + 0x20 * c))) (Touch.refl _ _) rfl).getF (by simpa using hf)
  · rw [State.getF_setF_same _ _ _ (by simp [R.derandPeak])]
    have hpeak : s.getF (R.derandPeak c) < 2 ^ 4 := s.getF_lt (R.derandPeak c)
    exact Nat.mod_eq_of_lt (show _ < 2 ^ 4 by omega)

/-- A full derandomiser loses the word. -/
theorem State.derandomise_full {c : Nat} (x : HitWord) (hfull : 8 ≤ (s.cell c).derand.length) : s.derandomise c x = s.inc (R.derandLost c) :=
  if_pos hfull

theorem satSeen_apart (c : Nat) : (R.satSeen c).Apart := ⟨rfl, rfl, by simp [R.satSeen], by simp [R.satSeen]⟩

/-- SAT_SEEN of a word whose SAT is 1. -/
def State.satMarked (s : State) (c : Nat) (sat : Bool) : State := if sat then s.setFlag (R.satSeen c) else s

theorem State.satMarked_cell (s : State) (c : Nat) (sat : Bool) : (s.satMarked c sat).cell c = s.cell c := by
  unfold State.satMarked
  split <;> rfl

theorem State.satMarked_derandPeak (s : State) (c : Nat) (sat : Bool) : (s.satMarked c sat).getF (R.derandPeak c) = s.getF (R.derandPeak c) := by
  unfold State.satMarked
  split
  · exact State.setFlag_getF_other _ (.inl (by simp [R.derandPeak, R.satSeen])) (.inl (by simp [R.derandPeak, R.satSeen]))
      (by simp [R.derandPeak])
  · rfl

/-- The word of a hit. -/
def State.hitWordOf (s : State) (c : Nat) (h : Hit) (stamp : BitVec 61) (key : MergeKey) (w : QSum) (q : Nat) (pileup : Bool) : HitWord :=
  ⟨hitWord c (stampFine stamp).toNat (stampCoarse stamp - h.base).toNat q w.range (boolNat pileup) (boolNat w.settle)
    (boolNat (w.sat || h.struck)) (boolNat (s.inHoldover (c / 256) (stampCoarse stamp))) (boolNat w.poison), stamp, key⟩

theorem State.wordFormed_eq (s : State) (c : Nat) (h : Hit) (stamp : BitVec 61) (key : MergeKey) (w : QSum) (q : Nat) (pileup : Bool) :
    s.wordFormed c h stamp key w q pileup = (s.satMarked c (w.sat || h.struck)).derandomise c (s.hitWordOf c h stamp key w q pileup) := rfl

theorem State.wordFormed_room {c : Nat} (h : Hit) (stamp : BitVec 61) (key : MergeKey) (w : QSum) (q : Nat) (pileup : Bool)
    (hroom : (s.cell c).derand.length < 8) :
    (s.wordFormed c h stamp key w q pileup).cell c = { s.cell c with derand := (s.cell c).derand ++ [s.hitWordOf c h stamp key w q pileup] } ∧
      ((w.sat || h.struck) = true → (s.wordFormed c h stamp key w q pileup).getF (R.satSeen c).flag = 1) ∧
      (s.wordFormed c h stamp key w q pileup).getF (R.derandPeak c) = max ((s.cell c).derand.length + 1) (s.getF (R.derandPeak c)) := by
  obtain ⟨hcell, hkeep, hpeak⟩ := State.derandomise_room (s := s.satMarked c (w.sat || h.struck)) (s.hitWordOf c h stamp key w q pileup)
    ((s.satMarked_cell c (w.sat || h.struck)).symm ▸ hroom)
  rw [State.wordFormed_eq]
  refine ⟨by rw [hcell, State.satMarked_cell], fun hsat => ?_, by rw [hpeak, State.satMarked_cell, State.satMarked_derandPeak]⟩
  rw [hkeep _ (by simp only [R.satSeen]; omega), State.satMarked, if_pos hsat]
  exact (s.setFlag_spec (satSeen_apart c)).1

theorem hitWordFormed_dead (c : Fin 2048) {h : Hit} {rest : List Hit} {stamp : BitVec 61}
    (hh : (s.cell c).hits = h :: rest) (hs : h.stamp = some stamp) (hf : h.full = false) (ht : h.tot ≠ none) (hl : h.live = false)
    (hdue : s.absTick h.coarse + 3 ≤ s.ticks) : exec (.hitWordFormed c) s = .next
      (if h.frost then (s.setCell c { s.cell c with hits := rest }).inc (R.frostDropped (c / 16))
        else s.setCell c { s.cell c with hits := rest }) := by
  show execHitWordFormed c s = _
  unfold execHitWordFormed
  simp only [hh, hs, hf, hl, State.judgeStop_dead hl, decide_eq_true hdue, Option.isSome_iff_ne_none.2 ht, Bool.false_eq_true, if_false,
    Bool.and_true, not_true]

/-! ### Q windows (R108) -/

theorem State.readContainer_touch {c k : Nat} (h : Touch P s u) (hm : ∀ x, memParts 2 x → P x) : Touch P s (u.readContainer c k).2 := by
  unfold State.readContainer
  dsimp only
  split
  · split
    · exact h
    · exact State.readCw_touch h hm
  · exact State.readCw_touch h hm

theorem State.readSample_touch {c : Nat} {n : Int} (h : Touch P s u) (hm : ∀ x, memParts 2 x → P x) (hf : P .free) :
    Touch P s (u.readSample c n).2 := by
  unfold State.readSample
  dsimp only
  split
  · exact State.readContainer_touch h hm
  · split
    · exact Touch.ite2 (State.readContainer_touch h hm) (State.drawn_touch h hf)
    · exact State.drawn_touch h hf

theorem State.qWindow_touch {c m : Nat} {n : Int} {q : QSum} (h : Touch P s u) (hm : ∀ x, memParts 2 x → P x) (hf : P .free) :
    Touch P s (State.qWindow m u c n q).2 := by
  induction m generalizing u n q with
  | zero => exact h
  | succ m ih => exact ih (State.readSample_touch h hm hf)

theorem State.qWindow_cfgF (s : State) (m c : Nat) (n : Int) (q : QSum) (f : CF) : (State.qWindow m s c n q).2.cfgF f = s.cfgF f :=
  (State.qWindow_touch (P := fun x => x = .free ∨ memParts 2 x) (Touch.refl _ s) (fun _ => .inr) (.inl rfl)).cfgF
    (by simp [memParts, logParts, storeParts])

/-- The last sample of a hit's window (R108). -/
def State.windowEnd (s : State) (c : Nat) (h : Hit) : Nat := s.hitSample h + s.cfgF (C.qLen (c / 16)) - 1

/-- What the window of a hit in FULL gathers, once the hit has left its cell. -/
def State.hitWindow (s : State) (c : Nat) (h : Hit) (rest : List Hit) : QSum × State :=
  (s.setCell c { s.cell c with hits := rest, lastWindowEnd := some (s.windowEnd c h) }).qWindow
    (s.cfgF (C.qPre (c / 16)) + s.cfgF (C.qLen (c / 16))) c ((s.hitSample h : Int) - s.cfgF (C.qPre (c / 16))) {}

/-- Q of a window (R108). -/
def State.windowQ (s : State) (c : Nat) (w : QSum) : Nat :=
  if w.poison then 0 else (min 4095 (max 0 (w.sum / 2 ^ s.cfgF (C.qShift (c / 16))))).toNat

/-- The window of a hit reaches into the last one (R109). -/
def State.windowNear (s : State) (c : Nat) (h : Hit) : Bool :=
  match (s.cell c).lastWindowEnd with
  | some e => decide (s.hitSample h ≤ e + s.cfgF (C.qPre (c / 16)))
  | none => false

theorem State.setCell_cfgF (s : State) (c : Nat) (v : Cell) (f : CF) : (s.setCell c v).cfgF f = s.cfgF f := rfl

theorem hitWordFormed_full (c : Fin 2048) {h : Hit} {rest : List Hit} {stamp : BitVec 61} {key : MergeKey}
    (hh : (s.cell c).hits = h :: rest) (hs : h.stamp = some stamp) (hf : h.full = true) (hl : h.live = true)
    (hk : h.key = some key) (hdue : s.absTick h.coarse + 3 ≤ s.ticks) (hlast : s.windowEnd c h + 3 ≤ s.lastSample) :
    exec (.hitWordFormed c) s = .next ((s.hitWindow c h rest).2.wordFormed c h stamp key (s.hitWindow c h rest).1
      (s.windowQ c (s.hitWindow c h rest).1) (h.pileup || s.windowNear c h)) := by
  have hq : s.windowQ c (s.hitWindow c h rest).1 = (s.hitWindow c h rest).2.windowQ c (s.hitWindow c h rest).1 := by
    unfold State.windowQ State.hitWindow
    rw [State.qWindow_cfgF]
    rfl
  have hend : decide (s.hitSample h + s.cfgF (C.qLen (c.val / 16)) - 1 + 3 ≤ s.lastSample) = true := decide_eq_true hlast
  rw [hq]
  show execHitWordFormed c s = _
  unfold execHitWordFormed State.wordFormed State.windowQ State.hitWindow State.windowNear State.windowEnd
  simp only [hh, hs, hf, hl, hk, State.judgeStop_judged hk, decide_eq_true hdue, hend, if_true, Bool.and_true, Bool.true_and, not_true,
    if_false, State.setCell_cfgF] <;> rfl

/-- A sample in range-0 codes: its factor is that of its range, or of the highest where it is saturated (R108). -/
theorem State.rangeZero_eq (s : State) (c : Nat) (x : BitVec 16) : s.rangeZero c x =
    ((x.toNat % 1024 : Nat) - (s.cfgF (C.adcOffset c) : Nat) : Int) *
      ((10 ^ (if x.toNat / 1024 % 4 = 3 then s.topRange c else x.toNat / 1024 % 4) : Nat) : Int) := by
  unfold State.rangeZero containerRange
  by_cases h : x.toNat / 1024 % 4 = 3
  · simp only [if_pos h]
  · simp only [if_neg h]

/-- What a sample adds to a window (R108). -/
theorem State.qWindow_succ (s : State) (m c : Nat) (n : Int) (q : QSum) :
    State.qWindow (m + 1) s c n q = (s.readSample c n).2.qWindow m c (n + 1)
      (match (s.readSample c n).1 with
      | none => { q with poison := true }
      | some x => { q with
          sum := q.sum + ((x.toNat % 1024 : Nat) - (s.cfgF (C.adcOffset c) : Nat) : Int) *
            ((10 ^ (if x.toNat / 1024 % 4 = 3 then s.topRange c else x.toNat / 1024 % 4) : Nat) : Int)
          range := max q.range (x.toNat / 1024 % 4), settle := q.settle || x.getLsbD 12, sat := q.sat || x.toNat / 1024 % 4 = 3 }) := by
  rw [State.qWindow]
  congr 1
  cases (s.readSample c n).1 with
  | none => rfl
  | some x =>
    dsimp only
    rw [State.rangeZero_eq]
    rfl

theorem hitWordFormed_full_derand (c : Fin 2048) {h : Hit} {rest : List Hit} {stamp : BitVec 61} {key : MergeKey}
    (hh : (s.cell c).hits = h :: rest) (hs : h.stamp = some stamp) (hf : h.full = true) (hl : h.live = true)
    (hk : h.key = some key) (hdue : s.absTick h.coarse + 3 ≤ s.ticks) (hlast : s.windowEnd c h + 3 ≤ s.lastSample)
    (hroom : ((s.hitWindow c h rest).2.cell c).derand.length < 8) :
    ∃ t, exec (.hitWordFormed c) s = .next t ∧ (t.cell c).derand = ((s.hitWindow c h rest).2.cell c).derand ++
      [(s.hitWindow c h rest).2.hitWordOf c h stamp key (s.hitWindow c h rest).1 (s.windowQ c (s.hitWindow c h rest).1)
        (h.pileup || s.windowNear c h)] := by
  refine ⟨_, hitWordFormed_full c hh hs hf hl hk hdue hlast, ?_⟩
  rw [(State.wordFormed_room h stamp key _ _ _ hroom).1]

theorem hitWordFormed_timing_room (c : Fin 2048) {h : Hit} {rest : List Hit} {stamp : BitVec 61} {tot : Nat} {sat : Bool} {key : MergeKey}
    (hh : (s.cell c).hits = h :: rest) (hs : h.stamp = some stamp) (hf : h.full = false) (ht : h.tot = some (tot, sat)) (hl : h.live = true)
    (hk : h.key = some key) (hdue : s.absTick h.coarse + 3 ≤ s.ticks) (hroom : (s.cell c).derand.length < 8) :
    ∃ t, exec (.hitWordFormed c) s = .next t ∧ (t.cell c).hits = rest ∧
      (t.cell c).derand = (s.cell c).derand ++ [s.hitWordOf c h stamp key { sat := sat } tot h.pileup] ∧
      ((sat || h.struck) = true → t.getF (R.satSeen c).flag = 1) ∧
      t.getF (R.derandPeak c) = max ((s.cell c).derand.length + 1) (s.getF (R.derandPeak c)) := by
  have hcell : (s.setCell c { s.cell c with hits := rest }).cell c = { s.cell c with hits := rest } := State.setCell_cell_same _ _ _
  obtain ⟨hnew, hsat, hpeak⟩ := State.wordFormed_room (s := s.setCell c { s.cell c with hits := rest }) h stamp key { sat := sat } tot h.pileup
    (by rw [hcell]; exact hroom)
  refine ⟨_, hitWordFormed_timing c hh hs hf ht hl hk hdue, ?_⟩
  rw [hnew, hpeak, hcell]
  exact ⟨rfl, rfl, hsat, rfl⟩

theorem hitWordFormed_timing_full (c : Fin 2048) {h : Hit} {rest : List Hit} {stamp : BitVec 61} {tot : Nat} {key : MergeKey}
    (hh : (s.cell c).hits = h :: rest) (hs : h.stamp = some stamp) (hf : h.full = false) (ht : h.tot = some (tot, false)) (hl : h.live = true)
    (hk : h.key = some key) (hdue : s.absTick h.coarse + 3 ≤ s.ticks) (hfull : 8 ≤ (s.cell c).derand.length) :
    ∃ t, exec (.hitWordFormed c) s = .next t ∧ (t.cell c).hits = rest ∧ (t.cell c).derand = (s.cell c).derand ∧
      t.getF (R.derandLost c) = min (s.getF (R.derandLost c) + 1) 65535 := by
  have hcell : (s.setCell c { s.cell c with hits := rest }).cell c = { s.cell c with hits := rest } := State.setCell_cell_same _ _ _
  have hmarked : ((s.setCell c { s.cell c with hits := rest }).satMarked c (false || h.struck)).cell c = { s.cell c with hits := rest } :=
    (State.satMarked_cell _ _ _).trans hcell
  refine ⟨_, hitWordFormed_timing c hh hs hf ht hl hk hdue, ?_⟩
  rw [State.wordFormed_eq, State.derandomise_full _ (by rw [hmarked]; exact hfull), State.inc_cell, hmarked]
  refine ⟨rfl, rfl, ?_⟩
  rw [State.getF_inc_same _ _ (by simp [R.derandLost]), State.satMarked]
  split
  · rw [State.setFlag_getF_other _ (.inl (by simp [R.derandLost, R.satSeen])) (.inl (by simp [R.derandLost, R.satSeen]))
      (by simp [R.derandLost])]
    rfl
  · rfl

/-- Settles O21. -/
theorem stopsAreStampedAndBecomeHitWords : Obligations.StopsAreStampedAndBecomeHitWords := by
  unfold Obligations.StopsAreStampedAndBecomeHitWords
  intro s c v
  refine ⟨fun h rest hh hs => ?_, fun h rest stamp tot sat key hh hs hf ht hl hk hdue hroom =>
      hitWordFormed_timing_room c hh hs hf ht hl hk hdue hroom,
    fun h rest stamp key hh hs hf hl hk hdue hlast hroom => hitWordFormed_full_derand c hh hs hf hl hk hdue hlast hroom,
    fun u k n q => ⟨rfl, u.qWindow_succ k c n q⟩,
    fun h rest stamp tot key hh hs hf ht hl hk hdue hfull => hitWordFormed_timing_full c hh hs hf ht hl hk hdue hfull,
    fun h rest stamp hh hs hf ht hl hdue => hitWordFormed_dead c hh hs hf ht hl hdue⟩
  · intro x
    obtain ⟨t, hexec, hhits⟩ := interpolationDone_hits c hh hs
    obtain ⟨hstamp, hcoarse, hraw⟩ := (s.interpolated c h).judgeStop_hit c { h with stamp := some (s.stampOf c h) }
    refine ⟨fun h5 => by rw [State.inlRead_intact _ _ h5], fun hb hp => State.inlRead_poisoned c h.raw hb hp, t, hexec, _, hhits,
      hstamp, hcoarse, hraw, rfl, rfl, fun hw hl hk he hp => State.stamped_frame hw hl hk he hp⟩

end Sys2Proof.Machine

namespace Sys2Proof.Machine

variable {s t u : State} {P : Comp → Prop} {r : Nat}

/-! ## External and tree triggers (R121-R125) -/

/-- The trigger state apart from the number of the next record. -/
def TrigSt.sansRec (x : TrigSt) : TrigSt := { x with nextRec := 0 }

/-- A judgement takes record numbers and changes no other trigger state. -/
theorem State.judge_trig (s : State) (b : Nat) (src : BitVec 3) (cells : BitVec 16) (key : MergeKey) (x : BitVec 61) :
    (s.judge b src cells key x).2.trig.sansRec = s.trig.sansRec := by
  have hite : ∀ {c : Prop} {_ : Decidable c} {a b : Judged × State}, a.2.trig.sansRec = s.trig.sansRec → b.2.trig.sansRec = s.trig.sansRec →
      (if c then a else b).2.trig.sansRec = s.trig.sansRec := by
    intro c _ a b ha hb
    split <;> assumption
  unfold State.judge
  extract_lets v st mode pre0 post t0 near upTo start e pre base units late holds held v' yet w next w' w1 w2
  have h1 : w1.trig.sansRec = s.trig.sansRec := rfl
  have h2 : w2.trig.sansRec = s.trig.sansRec := by
    simp only [w2]
    split <;> exact h1
  refine hite rfl (hite rfl (hite rfl (hite rfl (hite rfl (hite rfl (hite rfl (hite rfl (hite rfl ?_))))))))
  show (if base.long then w2.inc (R.wrappedCnt b) else w2).trig.sansRec = _
  split <;> exact h2

theorem State.offer_trig (src : BitVec 3) (key : MergeKey) (x : BitVec 61) (l : List (Nat × BitVec 16)) (s : State) :
    (s.offer src key x l).2.trig.sansRec = s.trig.sansRec := by
  induction l generalizing s with
  | nil => rfl
  | cons e l ih => exact (ih _).trans (s.judge_trig e.1 src e.2 key x)

theorem State.offer_touch (src : BitVec 3) (key : MergeKey) (x : BitVec 61) (l : List (Nat × BitVec 16)) (s : State) :
    Touch judgeParts s (s.offer src key x l).2 := by
  induction l generalizing s with
  | nil => exact Touch.refl _ s
  | cons e l ih => exact (s.judge_touch e.1 src e.2 key x).trans (ih _)

/-- A node with a slot has the fragment that a trigger opens. -/
theorem State.newFrag_isSome (k : MergeKey) (x : BitVec 61) (n : Nat) (c : Bool) (hs : s.slotValid = true) :
    ((s.newFrag k x n c).frag k).isSome = true := by
  unfold State.newFrag
  rw [if_neg (by simp [hs])]
  cases h : s.frag k with
  | some g =>
    rw [if_pos (Option.isSome_some)]
    split
    · simp [h]
    · rw [State.frag_modFrag_same _ _ (by simp), h]
      rfl
  | none =>
    show (List.find? _ (s.pool.frags ++ _)).isSome = true
    rw [List.find?_append, show s.pool.frags.find? (fun f => f.key = k) = none from h]
    simp

/-- A trigger's fragment is there, and all else about triggers is as it was. -/
theorem State.trigger_spec (bit : Nat) (key : MergeKey) (x : BitVec 61) :
    (s.trigger bit key x).trig.sansRec = s.trig.sansRec ∧ (∀ f : RF, f.off < 0x10000 → (s.trigger bit key x).getF f = s.getF f) ∧
      (s.slotValid = true → ((s.trigger bit key x).frag key).isSome = true) := by
  have hoffer := s.offer_touch (BitVec.ofNat 3 bit) key x (s.enabledBlocks bit)
  have hfrag : ∀ (v : State) (n : Nat) (c : Bool), Touch (· = .pool) v (v.newFrag key x n c) := fun v n c =>
    State.newFrag_touch (Touch.refl _ v) rfl
  refine ⟨?_, fun f hf => ?_, fun hs => State.newFrag_isSome _ _ _ _ ?_⟩
  · have htrig : (s.trigger bit key x).trig = (s.offer (BitVec.ofNat 3 bit) key x (s.enabledBlocks bit)).2.trig :=
      (hfrag _ _ _).same (c := .trig) (by simp)
    rw [htrig, State.offer_trig]
  · exact ((hfrag _ _ _).getF (by simp)).trans (hoffer.getF (Nat.not_le.2 hf))
  · rw [State.slotValid, hoffer.cfgF id]
    exact hs

/-- An edge lies within the hold-off of the last one taken. -/
def State.extNear (s : State) (f : BitVec 13) : Bool :=
  match s.trig.lastExt with
  | some k => decide (s.ticks * 8192 + f.toNat - k < s.cfgF C.extHoldoff * 8192)
  | none => false

/-- The edge is remembered and takes the next external number. -/
def State.extTaken (s : State) (f : BitVec 13) : State :=
  ({ s with trig := { s.trig with lastExt := some (s.ticks * 8192 + f.toNat) } } : State).incWrap R.nextExt 1

theorem trigInEdge_eq (hm : s.measuring ≠ none) (hj : s.judging = true) (f : BitVec 13) : exec (.trigInEdge f) s = .next
    (if s.extNear f = true then s.inc R.extIgnored
      else (s.extTaken f).trigger 2 (.event 2 (BitVec.ofNat 32 (s.getF R.nextExt))) (mkStamp s.time.coarse f)) := by
  obtain ⟨r, hr⟩ := Option.ne_none_iff_exists'.1 hm
  show execTrigInEdge f s = _
  unfold execTrigInEdge
  rw [hr]
  exact congrArg Host.Outcome.next (if_neg (not_not.2 hj))

theorem State.extNear_of_far {f : BitVec 13} (h : ∀ k, s.trig.lastExt = some k → s.cfgF C.extHoldoff * 8192 ≤ s.ticks * 8192 + f.toNat - k) :
    s.extNear f = false := by
  unfold State.extNear
  split
  · next k hk => exact decide_eq_false (Nat.not_lt.2 (h k hk))
  · rfl

theorem trigInEdge_taken (hm : s.measuring ≠ none) (hj : s.judging = true) {f : BitVec 13}
    (h : ∀ k, s.trig.lastExt = some k → s.cfgF C.extHoldoff * 8192 ≤ s.ticks * 8192 + f.toNat - k) : exec (.trigInEdge f) s = .next
      ((s.extTaken f).trigger 2 (.event 2 (BitVec.ofNat 32 (s.getF R.nextExt))) (mkStamp s.time.coarse f)) := by
  rw [trigInEdge_eq hm hj, if_neg (by simp [State.extNear_of_far h])]

/-- The oldest pending tree trigger leaves the queue. -/
def State.treeLeft (s : State) (l : List TreeTrig) : State := { s with trig := { s.trig with pending := l } }

theorem treeTriggerDue_eq {x : TreeTrig} {l : List TreeTrig} (hp : s.trig.pending = x :: l)
    (hr : reached s.time.coarse (stampCoarse x.time + 1) = true) :
    exec .treeTriggerDue s = .next ((s.treeLeft l).trigger 3 (.event 1 x.num) x.time) := by
  have hfind : (s.trig.pending.find? fun t => reached s.time.coarse (stampCoarse t.time + 1)) = some x := by
    rw [hp, List.find?_cons_of_pos (by simpa using hr)]
  show execTreeTriggerDue s = _
  unfold execTreeTriggerDue
  rw [hfind]
  dsimp only
  rw [hp, List.erase_cons_head]
  rfl

theorem mem_enabledBlocks {k b : Nat} {cells : BitVec 16} : (b, cells) ∈ s.enabledBlocks k ↔
    b < 128 ∧ s.cfgF (C.trigEn b) / 2 ^ k % 2 = 1 ∧ cells = BitVec.ofNat 16 (s.cfgF (C.recordMask b)) := by
  simp only [State.enabledBlocks, List.mem_map, List.mem_filter, List.mem_range, decide_eq_true_eq, Prod.mk.injEq]
  constructor
  · rintro ⟨b', ⟨hb, hen⟩, rfl, rfl⟩
    exact ⟨hb, hen, rfl⟩
  · rintro ⟨hb, hen, rfl⟩
    exact ⟨b, ⟨hb, hen⟩, rfl, rfl⟩

/-- Settles O24. -/
theorem externalAndTreeTriggersOpenEvents : Obligations.ExternalAndTreeTriggersOpenEvents := by
  refine ⟨fun s f hm hj hs hfar => ?_, fun s f k hm hj hk hnear => ?_, fun s f hm hrun hstop => ?_, fun s x l hp hs hr => ?_,
    fun s f hm hj hfar => trigInEdge_taken hm hj hfar, fun s x l hp hr => treeTriggerDue_eq hp hr,
    fun s src key x b cells l => ⟨rfl, rfl⟩, fun s k b cells => mem_enabledBlocks, fun s f hm hj => ?_, fun s hp => ?_⟩
  · obtain ⟨htrig, hreg, hfrag⟩ := State.trigger_spec (s := s.extTaken f) 2 (.event 2 (BitVec.ofNat 32 (s.getF R.nextExt)))
      (mkStamp s.time.coarse f)
    refine ⟨_, trigInEdge_taken hm hj hfar, (congrArg TrigSt.lastExt htrig : _), ?_, hfrag hs⟩
    rw [hreg _ (by decide), State.extTaken, State.getF_incWrap_same _ _ _ (by decide)]
    rfl
  · have hn : s.extNear f = true := by
      rw [State.extNear, hk]
      exact decide_eq_true hnear
    rw [trigInEdge_eq hm hj, if_pos hn]
  · show execTrigInEdge f s = _
    unfold execTrigInEdge
    rw [hm]
    exact congrArg Host.Outcome.next (if_pos ⟨hrun, by simp [hstop]⟩)
  · obtain ⟨htrig, -, hfrag⟩ := State.trigger_spec (s := s.treeLeft l) 3 (.event 1 x.num) x.time
    exact ⟨_, treeTriggerDue_eq hp hr, (congrArg TrigSt.pending htrig : _), hfrag hs⟩
  · obtain ⟨r, hr⟩ := Option.ne_none_iff_exists'.1 hm
    show execTrigInEdge f s = _
    unfold execTrigInEdge
    rw [hr]
    exact congrArg Host.Outcome.next (if_pos (by simp [hj]))
  · show execTreeTriggerDue s = _
    unfold execTreeTriggerDue
    rw [hp]
    rfl

end Sys2Proof.Machine

namespace Sys2Proof.Machine

variable {s t u : State} {P : Comp → Prop} {r : Nat}

/-! ## Timing markers (R65, R288, R289, R314) -/

/-- A marker leaves on each of a list of ports. -/
def State.markersOut (s : State) (l : List Nat) (w : Word) : State := l.foldl (fun s p => s.emit (.linkWord p 0 w)) s

theorem State.markersOut_touch (l : List Nat) (w : Word) (s : State) : Touch (· = .out) s (s.markersOut l w) :=
  Touch.foldl l (Touch.refl _ s) fun _ _ h => State.emit_touch h rfl

theorem State.mem_markersOut {l : List Nat} {w : Word} {p : Nat} (hp : p ∈ l) (s : State) : Out.linkWord p 0 w ∈ (s.markersOut l w).out := by
  induction l generalizing s with
  | nil => simp at hp
  | cons q l ih =>
    rcases List.mem_cons.1 hp with rfl | hp
    · exact (State.markersOut_touch l w (s.emit (.linkWord p 0 w))).out.subset (by simp)
    · exact ih hp _

/-- The pair link, where a member in step 2 of its partner's resynchronisation sends the marker as well (R314). -/
def State.markerPair (s : State) : List Nat := if s.portUp 18 ∧ s.getF R.resync = 0 ∧ s.pair.resyncStep = 2 then [18] else []

theorem timingMarkerTx_sends (he : s.cfgF C.markerEn = 1) (hl : s.loaded = true) (hc : s.time.coarse.toNat % 65536 < 4) :
    exec .timingMarkerTx s = .next (s.markersOut (s.southUp ++ s.markerPair) (markerWord s.time.coarse)) :=
  congrArg Host.Outcome.next (if_pos ⟨he, hl, hc⟩)

/-- A link word of the kind awaited, with a good CRC, on a port that is UP, is taken, and nothing counts. -/
theorem State.linkWordCheck_good {p : Nat} {w : Word} (hup : s.portUp p = true) (hk : wget w 60 4 = 5) (hcrc : linkCrcOk w = true) :
    s.linkWordCheck p 5 w = (true, s) := by
  have hl : s.getF (R.lstate p) = 5 := of_decide_eq_true hup
  unfold State.linkWordCheck
  dsimp only
  rw [hk, hl, if_neg (by decide), if_neg (by decide), if_neg (by simp [hcrc])]
  rfl

/-- Two coarse times differ by more than a tick. -/
def apart (a b : BitVec 48) : Bool := 1 < (a - b).toNat && 1 < (b - a).toNat

/-- The coarse time of a marker. -/
def markerTime (w : Word) : BitVec 48 := BitVec.ofNat 48 (wget w 12 48)

theorem markerMismatch_apart (p : Nat) : (R.markerMismatch p).Apart := ⟨rfl, rfl, by simp [R.markerMismatch], by simp [R.markerMismatch]⟩

/-- A marker on a north port, at a node that takes its time from markers. -/
theorem timingMarkerRx_north {p : Fin 19} {w : Word} (hup : s.portUp p = true) (hk : wget w 60 4 = 5) (hcrc : linkCrcOk w = true)
    (hroot : s.isRoot = false) (hstream : s.streamStart = true) (hp : p.val = 16 ∨ (p.val = 17 ∧ s.portUp 16 = false)) :
    exec (.timingMarkerRx p w) s = .next
      (if s.loaded = true then (if apart s.time.coarse (markerTime w) = true then s.setFlag (R.markerMismatch p) else s)
        else if s.running = true ∧ ¬ s.node.stopping = true then s.load (markerTime w) (mkStamp (markerTime w) 0) else s) := by
  have h18 : ¬ p.val = 18 := by omega
  have htaken : ¬ (s.isRoot = true ∨ ¬ s.streamStart = true ∨ p.val < 16 ∨ (p.val = 17 ∧ s.portUp 16 = true)) := by
    rintro (h | h | h | ⟨h, hn⟩)
    · simp [hroot] at h
    · exact h hstream
    · omega
    · rcases hp with hp | ⟨-, hp⟩
      · omega
      · simp [hp] at hn
  show execTimingMarkerRx p w s = _
  unfold execTimingMarkerRx
  dsimp only
  rw [State.linkWordCheck_good hup hk hcrc]
  exact congrArg Host.Outcome.next ((if_neg (by simp [hup])).trans ((if_neg h18).trans (if_neg htaken)))

theorem timingMarkerRx_loads {p : Fin 19} {w : Word} (hexec : exec (.timingMarkerRx p w) s = .next
      (s.load (markerTime w) (mkStamp (markerTime w) 0))) :
    ∃ t, exec (.timingMarkerRx p w) s = .next t ∧ t.time.coarse = markerTime w ∧ t.time.loadPoint = mkStamp (markerTime w) 0 ∧
      t.loaded = true ∧ t.time.firstFrame = some (frameOf (markerTime w)) := by
  have htime := s.load_time (markerTime w) (mkStamp (markerTime w) 0)
  exact ⟨_, hexec, congrArg (·.coarse) htime, congrArg (·.loadPoint) htime, decide_eq_true (s.load_loads _ _).loaded,
    congrArg (·.firstFrame) htime⟩

/-- A loaded node only compares a marker with its time. -/
theorem State.markerCompared (s : State) (p : Nat) (b : Bool) :
    let t := if b = true then s.setFlag (R.markerMismatch p) else s
    t.time = s.time ∧ t.getF (R.markerMismatch p).occ =
      (if b = true then (s.getF (R.markerMismatch p).occ + 1) % 256 else s.getF (R.markerMismatch p).occ) ∧
      Frame (fun c => c = .reg (0x6000 + 0x10 * p)) s t := by
  cases b
  · exact ⟨rfl, rfl, (Touch.refl _ s).frame⟩
  · exact ⟨rfl, (s.setFlag_spec (markerMismatch_apart p)).2,
      (State.setFlag_touch (P := fun c => c = .reg (0x6000 + 0x10 * p)) (Touch.refl _ s) rfl rfl).frame⟩

/-- The time that a member in step 3 of its resynchronisation takes from the marker over P (R314). -/
def State.pairTime (s : State) (w : Word) : BitVec 48 := markerTime w + BitVec.ofNat 48 (s.cfgF C.pairFlightTicks)

theorem timingMarkerRx_pair {w : Word} (hup : s.portUp 18 = true) (hk : wget w 60 4 = 5) (hcrc : linkCrcOk w = true)
    (hr : s.getF R.resync ≠ 0) (ho : s.operating = true) (h3 : s.pair.resyncStep = 3) : exec (.timingMarkerRx 18 w) s = .next
      (let v := s.loadTime (s.pairTime w) (mkStamp (s.pairTime w) 0)
       { v with pair := { v.pair with resyncStep := 4, joinFrame := some (frameOf (s.pairTime w) + 2) } }) := by
  show execTimingMarkerRx 18 w s = _
  unfold execTimingMarkerRx
  dsimp only
  rw [show s.linkWordCheck (18 : Fin 19).val 5 w = (true, s) from State.linkWordCheck_good hup hk hcrc]
  exact congrArg Host.Outcome.next ((if_neg (by simp [hup])).trans ((if_pos rfl).trans ((if_neg (by simp [hr, ho])).trans (if_pos h3))))

end Sys2Proof.Machine

namespace Sys2Proof.Machine

variable {s t u : State} {P : Comp → Prop} {r : Nat}

/-! ## Trigger and throttle messages (R122, R209, R284, R286) -/

/-- A message that is taken frees its credit, which an ACK may tell: the port, what leaves, and a draw. -/
def takenParts : Comp → Prop
  | .port _ | .out | .free => True
  | _ => False

theorem State.freeCredit_touch (s : State) (p : Nat) (control : Bool) (n : Nat) : Touch takenParts s (s.freeCredit p control n) := by
  have h1 : Touch takenParts s (s.setChan p control { s.chan p control with limit := (s.chan p control).limit + BitVec.ofNat 16 n }) :=
    State.setPort_touch (Touch.refl _ s) trivial
  exact Touch.ite (Touch.refl _ s) (Touch.ite (State.drawn_touch (State.emit_touch h1 trivial) trivial) h1)

theorem State.takeCtl_touch {p : Nat} {k : BitVec 8} {m : CtlMsg} (h : s.takeCtl p k = some (m, u)) : Touch takenParts s u := by
  unfold State.takeCtl at h
  split at h
  · cases h
  · cases h
    exact (State.setPort_touch (Touch.refl _ s) trivial).trans (State.freeCredit_touch _ p true 1)

/-- What a message that is taken leaves as it was. -/
structure CtlTaken (s u : State) : Prop where
  node : u.node = s.node
  trig : u.trig = s.trig
  reg : ∀ f : RF, u.getF f = s.getF f

theorem State.takeCtl_keeps {p : Nat} {k : BitVec 8} {m : CtlMsg} (h : s.takeCtl p k = some (m, u)) : CtlTaken s u :=
  have ht := State.takeCtl_touch h
  ⟨ht.same (c := .node) id, ht.same (c := .trig) id, fun _ => ht.getF id⟩

theorem CtlTaken.operating (h : CtlTaken s u) : u.operating = s.operating := by rw [State.operating, h.node, State.operating]

theorem CtlTaken.running (h : CtlTaken s u) : u.running = s.running := by rw [State.running, h.node, State.running]

theorem CtlTaken.southUp (h : CtlTaken s u) : u.southUp = s.southUp := by
  have hup : u.portUp = s.portUp := funext fun p => by rw [State.portUp, h.reg, State.portUp]
  rw [State.southUp, hup, State.southUp]

/-- The trigger that a message carries. -/
def CtlMsg.tree (m : CtlMsg) : TreeTrig :=
  ⟨BitVec.ofNat 32 (wget (m.payload.headD 0) 0 32), BitVec.ofNat 61 (wget (m.payload.getD 1 0) 0 61)⟩

theorem any_recent_iff (l : List TreeTrig) (x : TreeTrig) : (l.any fun e => decide (e.num = x.num ∧ e.time = x.time)) = true ↔ x ∈ l := by
  rw [List.any_eq_true]
  constructor
  · rintro ⟨e, he, heq⟩
    obtain ⟨hn, ht⟩ := of_decide_eq_true heq
    have hex : e = x := by
      cases e
      cases x
      simp_all
    exact hex ▸ he
  · exact fun hx => ⟨x, hx, decide_eq_true ⟨rfl, rfl⟩⟩

theorem triggerRx_eq {p : Fin 19} {m : CtlMsg} (h : s.takeCtl p 0x10 = some (m, u)) : exec (.triggerRx p) s = .next
    (if ¬ u.operating = true then u.inc R.treeIgnored
      else if (u.trig.recent.any fun e => decide (e.num = m.tree.num ∧ e.time = m.tree.time)) = true then u.inc R.trigDup
      else (u.takeTree m.tree.num m.tree.time).sendAll u.southUp m) := by
  show execTriggerRx p s = _
  unfold execTriggerRx
  rw [h]
  rfl

/-- A message sent to a list of ports waits at each of them. -/
theorem State.mem_sendAll {l : List Nat} {q : Nat} (m : CtlMsg) (s : State) (h : q ∈ l ∨ m ∈ (s.port q).ctlQueue) :
    m ∈ ((s.sendAll l m).port q).ctlQueue := by
  induction l generalizing s with
  | nil => exact h.resolve_left (by simp)
  | cons p l ih =>
    refine ih (s.sendMsg p m) ?_
    rcases h with h | h
    · rcases List.mem_cons.1 h with rfl | h
      · exact .inr (s.sendMsg_sent q m)
      · exact .inl h
    · right
      by_cases hq : q = p
      · exact hq ▸ s.sendMsg_sent p m
      · rw [State.sendMsg, State.setPort_port_other _ _ hq]
        exact h

/-- A tree trigger that is taken is remembered. -/
theorem State.takeTree_recent (s : State) (x : TreeTrig) : (s.takeTree x.num x.time).trig.recent = (x :: s.trig.recent).take 64 := by
  unfold State.takeTree
  dsimp only
  split
  · rfl
  · split
    · exact congrArg TrigSt.recent ((State.newFrag_touch (P := (· = .pool)) (Touch.refl _ _) rfl).same (c := .trig) (by simp))
    · rfl

theorem State.takeTree_idle (x : TreeTrig) (hr : s.running = false) :
    (s.takeTree x.num x.time).getF R.treeIgnored = min (s.getF R.treeIgnored + 1) 65535 ∧
      (s.takeTree x.num x.time).trig.pending = s.trig.pending := by
  have heq : s.takeTree x.num x.time = State.inc { s with trig := { s.trig with recent := (x :: s.trig.recent).take 64 } } R.treeIgnored :=
    if_pos (.inl (by rw [← Bool.not_eq_true] at hr; exact hr))
  rw [heq]
  exact ⟨(State.getF_inc_same _ _ (by decide)).trans rfl, rfl⟩

theorem State.takeTree_joins (x : TreeTrig) (hr : s.running = true) (hs : s.node.stopping = false) (hl : s.trig.pending.length < 16) :
    (s.takeTree x.num x.time).trig.pending = s.trig.pending ++ [x] := by
  unfold State.takeTree
  dsimp only
  rw [if_neg, if_neg (Nat.not_le.2 hl)]
  rintro (h | h)
  · exact h hr
  · simp [hs] at h

/-- What sending a message leaves as it was. -/
theorem State.sendAll_kept (l : List Nat) (m : CtlMsg) (s : State) :
    (s.sendAll l m).trig = s.trig ∧ ∀ f : RF, (s.sendAll l m).getF f = s.getF f := by
  have h := State.sendAll_touch (P := fun c => ∃ p, c = .port p) (l := l) (m := m) (Touch.refl _ s) fun p _ => ⟨p, rfl⟩
  exact ⟨h.same (c := .trig) (by simp), fun f => h.getF (by simp)⟩

theorem triggerRx_spec {p : Fin 19} {m : CtlMsg} (h : s.takeCtl p 0x10 = some (m, u)) :
    ∃ t, exec (.triggerRx p) s = .next t ∧
      (s.operating = false → t.getF R.treeIgnored = min (s.getF R.treeIgnored + 1) 65535 ∧ t.trig = s.trig) ∧
      (s.operating = true → m.tree ∈ s.trig.recent → t.getF R.trigDup = min (s.getF R.trigDup + 1) 65535 ∧ t.trig = s.trig) ∧
      (s.operating = true → m.tree ∉ s.trig.recent → t.trig.recent = (m.tree :: s.trig.recent).take 64 ∧
        (∀ q ∈ s.southUp, m ∈ (t.port q).ctlQueue) ∧
        (s.running = false → t.getF R.treeIgnored = min (s.getF R.treeIgnored + 1) 65535 ∧ t.trig.pending = s.trig.pending) ∧
        (s.running = true → s.node.stopping = false → s.trig.pending.length < 16 → t.trig.pending = s.trig.pending ++ [m.tree])) := by
  have hk := State.takeCtl_keeps h
  refine ⟨_, triggerRx_eq h, fun ho => ?_, fun ho hin => ?_, fun ho hout => ?_⟩
  · rw [if_pos (by simp [hk.operating, ho]), State.getF_inc_same _ _ (by decide), hk.reg]
    exact ⟨rfl, hk.trig⟩
  · rw [if_neg (by simp [hk.operating, ho]), if_pos ((any_recent_iff _ _).2 (hk.trig ▸ hin)), State.getF_inc_same _ _ (by decide), hk.reg]
    exact ⟨rfl, hk.trig⟩
  · rw [if_neg (by simp [hk.operating, ho]), if_neg (fun hin => hout (hk.trig ▸ (any_recent_iff _ _).1 hin))]
    obtain ⟨htrig, hreg⟩ := State.sendAll_kept u.southUp m (u.takeTree m.tree.num m.tree.time)
    rw [htrig, hreg, State.takeTree_recent, hk.trig]
    refine ⟨rfl, fun q hq => State.mem_sendAll m _ (.inl (hk.southUp ▸ hq)), fun hr => ?_, fun hr hs hl => ?_⟩
    · obtain ⟨hcount, hpend⟩ := State.takeTree_idle m.tree (hk.running.trans hr)
      rw [hcount, hpend, hk.reg, hk.trig]
      exact ⟨rfl, rfl⟩
    · rw [State.takeTree_joins m.tree (hk.running.trans hr) (by rw [hk.node, hs]) (by rw [hk.trig]; exact hl), hk.trig]

theorem throttleRx_spec {p : Fin 16} {m : CtlMsg} (h : s.takeCtl p 0x11 = some (m, u)) :
    ∃ t, exec (.throttleRx (p.castLE (by decide))) s = .next t ∧ t.getF (R.southState p) = wget (m.payload.headD 0) 0 1 := by
  have hexec : exec (.throttleRx (p.castLE (by decide))) s =
      .next ((u.setF (R.southState p) (wget (m.payload.headD 0) 0 1)).throttleUpdate) := by
    show execThrottleRx (p.castLE (by decide)) s = _
    unfold execThrottleRx
    rw [show s.takeCtl (p.castLE (m := 19) (by decide)).val 0x11 = some (m, u) from h]
    exact congrArg Host.Outcome.next (if_pos p.isLt)
  have hw : wget (m.payload.headD 0) 0 1 < 2 := Nat.mod_lt _ (by decide)
  refine ⟨_, hexec, ?_⟩
  rw [(State.throttleUpdate_touch (P := storeParts) (Touch.refl _ _) fun _ => id).getF (by simp [storeParts, R.southState]),
    State.getF_setF_same _ _ _ (by simp only [R.southState]; omega)]
  exact Nat.mod_eq_of_lt hw

/-- Settles O56. -/
theorem markersTriggersAndThrottleTravel : Obligations.MarkersTriggersAndThrottleTravel := by
  refine ⟨fun s he hl hc => ⟨_, timingMarkerTx_sends he hl hc,
      fun p hp => State.mem_markersOut (List.mem_append_left _ hp) s, (State.markersOut_touch _ _ s).frame⟩,
    fun s hno => congrArg Host.Outcome.next (if_neg ?_), fun s p w hup hk hcrc hroot hstream hp => ?_,
    fun s w hup hk hcrc hr ho h3 => ?_, fun s u p m h => triggerRx_spec h, fun s u p m h => throttleRx_spec h⟩
  · rintro ⟨he, hl, hc⟩
    rcases hno with hno | hno | hno
    · omega
    · simp [hl] at hno
    · omega
  · have hexec := timingMarkerRx_north hup hk hcrc hroot hstream hp
    refine ⟨fun hl hrun hstop => timingMarkerRx_loads (hexec.trans ?_), fun hl => ?_, fun hl hrun => ?_⟩
    · rw [if_neg (by simp [hl]), if_pos ⟨hrun, by simp [hstop]⟩]
    · rw [if_pos hl] at hexec
      obtain ⟨htime, hocc, hframe⟩ := s.markerCompared p (apart s.time.coarse (markerTime w))
      refine ⟨_, hexec, htime, hocc.trans ?_, hframe⟩
      simp [apart, markerTime]
    · rw [hexec, if_neg (by simp [hl]), if_neg (by simp [hrun])]
  · have htime := s.loadTime_time (s.pairTime w) (mkStamp (s.pairTime w) 0)
    exact ⟨_, timingMarkerRx_pair hup hk hcrc hr ho h3, congrArg (·.coarse) htime, congrArg (·.loadPoint) htime,
      decide_eq_true (s.loadTime_loads _ _).loaded, rfl, rfl⟩

end Sys2Proof.Machine

namespace Sys2Proof.Machine

variable {s u : State}

/-! ## Range switches (R93-R95) -/

/-- What a range switch changes: the cell, the word of CUR_RANGE and that of the switch counters. -/
def switchParts (c : Nat) (x : Comp) : Prop := x = .cell c ∨ x = .reg (0x20004 + 0x20 * c) ∨ x = .reg (0x20008 + 0x20 * c)

/-- A cell moves to a range, which counter `f` counts. -/
def State.rangeSwitched (s : State) (c range : Nat) (f : RF) : State :=
  ((s.setCell c { s.cell c with switched := true, downCount := 0 }).setF (R.curRange c) range).incWrap f 1

theorem State.rangeSwitched_spec (s : State) {c range : Nat} {f : RF} (hr : range < 4) (hoff : f.off = 0x20008 + 0x20 * c)
    (hw : f.w = 16) (hlo : f.lo + 16 ≤ 32) :
    let t := s.rangeSwitched c range f
    t.getF (R.curRange c) = range ∧ t.getF f = (s.getF f + 1) % 65536 ∧ (t.cell c).switched = true ∧ (t.cell c).downCount = 0 ∧
      Frame (switchParts c) s t := by
  have hcell : (s.rangeSwitched c range f).cell c = { s.cell c with switched := true, downCount := 0 } :=
    State.setCell_cell_same _ _ _
  have hmoved : Touch (switchParts c) s
      ((s.setCell c { s.cell c with switched := true, downCount := 0 }).setF (R.curRange c) range) :=
    State.setF_touch (State.setCell_touch (Touch.refl _ s) (.inl rfl)) (.inr (.inl rfl))
  refine ⟨?_, ?_, by rw [hcell], by rw [hcell], (State.incWrap_touch hmoved (.inr (.inr (by rw [hoff])))).frame⟩
  · rw [State.rangeSwitched, State.incWrap, State.getF_setF_other _ _ (.inl (by simp [R.curRange, hoff])) (by simp [R.curRange]),
      State.getF_setF_same _ _ _ (by simp [R.curRange])]
    exact Nat.mod_eq_of_lt hr
  · rw [State.rangeSwitched, State.getF_incWrap_same _ _ _ (by omega), hw,
      State.getF_setF_other _ _ (.inl (by simp [R.curRange, hoff])) (by omega)]
    rfl

theorem rangeSwitchUp_switches {c : Fin 2048} (hm : s.cellMode c = 2) (ha : s.cfgF (C.rangeMode c) = 0)
    (hr : s.getF (R.curRange c) < 2) (hs : (s.cell c).switched = false) :
    exec (.rangeSwitchUp c) s = .next (s.rangeSwitched c (s.getF (R.curRange c) + 1) (R.rangeUp c)) :=
  congrArg Host.Outcome.next (if_pos ⟨hm, ha, hr, by simp [hs]⟩)

theorem rangeSwitchDown_switches {c : Fin 2048} (hm : s.cellMode c = 2) (ha : s.cfgF (C.rangeMode c) = 0)
    (hr : 0 < s.getF (R.curRange c)) (hd : 16 ≤ (s.cell c).downCount) :
    exec (.rangeSwitchDown c) s = .next (s.rangeSwitched c (s.getF (R.curRange c) - 1) (R.rangeDown c)) :=
  congrArg Host.Outcome.next (if_pos ⟨hm, ha, hr, hd⟩)

theorem rangeSwitchUp_once {c : Fin 2048} (hs : (s.cell c).switched = true) : exec (.rangeSwitchUp c) s = .next s :=
  congrArg Host.Outcome.next (if_neg fun ⟨_, _, _, hn⟩ => hn hs)

/-- CELL_SETTLE_END (R114): 2 us after the settling began. -/
theorem cellSettleEnd_eq {c : Fin 2048} {k : Nat} (hk : (s.cell c).settling = some k) : exec (.cellSettleEnd c) s = .next
    (if k + 320 ≤ s.ticks then s.setCell c { s.cell c with settling := none } else s) := by
  show execCellSettleEnd c s = _
  rw [execCellSettleEnd, hk]

/-! ## The staging register (R322, R328) -/

theorem State.setMem_unitRetired (s : State) {m : Nat} (v : Mem) (h : 5 ≠ m) (k p : Nat) :
    (s.setMem m v).unitRetired k p = s.unitRetired k p := by
  unfold State.unitRetired State.mapWithheld
  rw [State.setMem_mem_other _ _ h]
  rfl

theorem State.setRaw_raw_same (s : State) {m a : Nat} (w : BitVec 152) (h : s.unitRetired m (a / 256) = false) :
    (s.setRaw m a w).raw m a = w := by
  rw [State.setRaw, if_neg (by simp [h]), State.raw, State.setMem_mem_same]
  exact Tab.get_set_same _ _ _ _

theorem State.setRaw_raw_other (s : State) {m a b : Nat} (w : BitVec 152) (h : b ≠ a) : (s.setRaw m a w).raw m b = s.raw m b := by
  unfold State.setRaw
  split
  · rfl
  · rw [State.raw, State.setMem_mem_same]
    exact Tab.get_set_other _ _ _ h

/-- A merge buffer entry of a whole code word is written as it stands, or discarded with its retired unit. -/
theorem State.drainEntry_whole (s : State) {m : Nat} {e : MbEntry} (he : e.mask = 0xFFFF) : s.drainEntry m e =
    (s.setMem m { s.mem m with buffer := (s.mem m).buffer.filter fun x => x.addr ≠ e.addr }).setRaw m e.addr (encodeCw e.data) := by
  unfold State.drainEntry
  extract_lets v u bits merge
  by_cases hret : m ≠ 0 ∧ u.unitRetired m (e.addr / 256) = true
  · rw [if_pos hret]
    exact (if_pos hret).symm
  · rw [if_neg hret, if_pos he]

/-- What stands in memory after a whole staging register is written. -/
def stagedCw (w : BitVec 152) : BitVec 152 := match cwFixed w with | some d => encodeCw d | none => poisonCw

/-- A cell's part and the segment memory. -/
def samplerParts (c : Nat) (x : Comp) : Prop := x = .cell c ∨ x = .mem 2

/-- The staging register `g` of cell `c` has been written. -/
structure Flushed (s t : State) (c : Nat) (g : Staging) : Prop where
  cell : t.cell c = { s.cell c with staging := none }
  written : s.unitRetired 2 (g.addr / 256) = false → t.raw 2 g.addr = stagedCw g.cw
  others : ∀ a, a ≠ g.addr → t.raw 2 a = s.raw 2 a
  touch : Touch (samplerParts c) s t

theorem Flushed.setRaw {c : Nat} {g : Staging} (hcell : u.cell c = { s.cell c with staging := none })
    (hret : u.unitRetired 2 (g.addr / 256) = s.unitRetired 2 (g.addr / 256)) (hraw : ∀ a, u.raw 2 a = s.raw 2 a)
    (ht : Touch (samplerParts c) s u) : Flushed s (u.setRaw 2 g.addr (stagedCw g.cw)) c g where
  cell := by
    rw [← hcell]
    exact (State.setRaw_touch (P := (· = .mem 2)) (Touch.refl _ u) rfl).same (c := .cell c) (by simp)
  written h := u.setRaw_raw_same _ (hret.trans h)
  others a ha := (u.setRaw_raw_other _ ha).trans (hraw a)
  touch := State.setRaw_touch ht (.inr rfl)

theorem State.flushStaging_whole {c : Nat} {g : Staging} (hg : (s.cell c).staging = some g) (hm : g.mask = 0xFFFF) :
    Flushed s (s.flushStaging c) c g := by
  have hcell := s.setCell_cell_same c { s.cell c with staging := none }
  have ht : Touch (samplerParts c) s (s.setCell c { s.cell c with staging := none }) :=
    State.setCell_touch (Touch.refl _ s) (.inl rfl)
  unfold State.flushStaging
  rw [hg]
  dsimp only
  cases hd : cwFixed g.cw with
  | none =>
    rw [show poisonCw = stagedCw g.cw by rw [stagedCw, hd]]
    exact Flushed.setRaw hcell rfl (fun _ => rfl) ht
  | some d =>
    dsimp only
    rw [State.drainEntry_whole _ hm, show encodeCw d = stagedCw g.cw by rw [stagedCw, hd]]
    refine Flushed.setRaw hcell (State.setMem_unitRetired _ _ (by decide) 2 _) (fun a => ?_)
      (State.setMem_touch ht (.inr rfl) fun hv => ?_)
    · rw [State.raw, State.setMem_mem_same]
      rfl
    · obtain ⟨hcells, hbuf⟩ := (Mem.wf_iff _).1 hv
      exact (Mem.wf_iff _).2 ⟨hcells, Nat.le_trans (List.length_filter_le _ _) hbuf⟩

/-- The staging register with container `k` of its code word. -/
def Staging.withContainer (g : Staging) (k : Nat) (x : BitVec 16) : Staging :=
  ⟨g.addr, g.mask ||| containerBytes k,
    encodeCw (((cwFixed g.cw).getD 0 &&& ~~~(byteBits (containerBytes k))) ||| BitVec.ofNat 128 (x.toNat * 2 ^ (16 * (k % 8))))⟩

/-- Container `k` has joined the staging register `g` of cell `c`, which is written with the eighth. -/
structure ContainerStored (s t : State) (c k : Nat) (g : Staging) : Prop where
  cell : t.cell c = { s.cell c with staging := if k % 8 = 7 then none else some g }
  written : k % 8 = 7 → s.unitRetired 2 (g.addr / 256) = false → t.raw 2 g.addr = stagedCw g.cw
  others : ∀ a, a ≠ g.addr ∨ k % 8 < 7 → t.raw 2 a = s.raw 2 a
  touch : Touch (samplerParts c) s t

theorem State.storeContainer_joins {c k : Nat} {g : Staging} (x : BitVec 16) (hg : (s.cell c).staging = some g)
    (ha : g.addr = segAddr c k) (hm : k % 8 < 7 ∨ g.mask ||| containerBytes k = 0xFFFF) :
    ContainerStored s (s.storeContainer c k x) c k (g.withContainer k x) := by
  have hstore : s.storeContainer c k x = if k % 8 = 7 then
        (s.setCell c { s.cell c with staging := some (g.withContainer k x) }).flushStaging c
      else s.setCell c { s.cell c with staging := some (g.withContainer k x) } := by
    unfold State.storeContainer
    dsimp only
    rw [hg]
    dsimp only
    rw [if_pos ha, hg, ← ha]
    rfl
  have hcell := s.setCell_cell_same c { s.cell c with staging := some (g.withContainer k x) }
  have ht : Touch (samplerParts c) s (s.setCell c { s.cell c with staging := some (g.withContainer k x) }) :=
    State.setCell_touch (Touch.refl _ s) (.inl rfl)
  rw [hstore]
  by_cases hk : k % 8 = 7
  · rw [if_pos hk]
    have hf := State.flushStaging_whole (s := s.setCell c { s.cell c with staging := some (g.withContainer k x) })
      (congrArg Cell.staging hcell) (hm.resolve_left (by omega))
    exact ⟨by rw [hf.cell, hcell, if_pos hk], fun _ => hf.written, fun a ha => hf.others a (ha.resolve_right (by omega)),
      ht.trans hf.touch⟩
  · rw [if_neg hk]
    exact ⟨by rw [hcell, if_neg hk], fun h => absurd h hk, fun _ _ => rfl, ht⟩

/-! ## SAMPLE_CONVERSION (R94, R96, R105, R106) -/

/-- The first sample of a page's newest filling. -/
def Block.pageFirst (v : Block) (p : Nat) : Nat := ((Tab.get {} v.pages p).gens.headD (0, 0)).1

/-- A sample that counts towards the lower range (R94). -/
def State.qualifies (s : State) (c : Nat) (code : BitVec 10) : Bool :=
  s.cfgF (C.rangeMode c) = 0 ∧ 0 < s.getF (R.curRange c) ∧ ¬ (s.cell c).switched ∧ code.toNat ≤ s.cfgF (C.adcOffset c) + 12

/-- The container of a conversion (R106). -/
def State.container (s : State) (c : Nat) (code : BitVec 10) : BitVec 16 :=
  let sat : Bool := decide (code = 0x3FF ∧ s.getF (R.curRange c) = s.topRange c)
  BitVec.ofNat 16 (code.toNat + (if sat then 3 else s.getF (R.curRange c)) * 1024 + boolNat (s.cell c).switched * 4096)

/-- Cell `c` after sample `n` is judged for range switching. -/
def State.sampled (s : State) (c n : Nat) (code : BitVec 10) : State :=
  s.setCell c { s.cell c with
    switched := false, downCount := if s.qualifies c code then (s.cell c).downCount + 1 else 0, lastConv := some n }

theorem State.sampled_cell (s : State) (c n : Nat) (code : BitVec 10) : (s.sampled c n code).cell c = { s.cell c with
    switched := false, downCount := if s.qualifies c code then (s.cell c).downCount + 1 else 0, lastConv := some n } :=
  State.setCell_cell_same _ _ _

theorem State.sampled_downCount (s : State) (c n : Nat) (code : BitVec 10) : ((s.sampled c n code).cell c).downCount =
    if s.cfgF (C.rangeMode c) = 0 ∧ 0 < s.getF (R.curRange c) ∧ (s.cell c).switched = false ∧
      code.toNat ≤ s.cfgF (C.adcOffset c) + 12 then (s.cell c).downCount + 1 else 0 := by
  rw [State.sampled_cell]
  simp [State.qualifies]

/-- Sample `n` is the next of a cell in FULL whose region's timebase runs. -/
structure State.Samples (s : State) (c n : Nat) : Prop where
  mode : s.cellMode c = 2
  on : s.regionState (c / 256) ≠ 0
  sound : s.regionState (c / 256) ≠ 5
  taken : n ≤ s.lastSample
  next : ∀ j, (s.cell c).lastConv = some j → j < n

/-- Page `p` is the one that block `v` writes, and sample `n` belongs to it. -/
structure State.PageTakes (s : State) (v : Block) (p n : Nat) : Prop where
  page : v.page = some p
  sampling : v.sampling = true
  first : v.pageFirst p ≤ n
  last : n < v.pageFirst p + 64
  written : n < s.writtenEnd v

theorem State.Samples.not_idle {c n : Nat} (h : s.Samples c n) : ¬ (s.cellMode c ≠ 2 ∨ s.regionState (c / 256) = 0 ∨
    s.regionState (c / 256) = 5 ∨ s.lastSample < n ∨ ((s.cell c).lastConv.any fun m => decide (n ≤ m)) = true) := by
  obtain ⟨hmode, hon, hsound, htaken, hnext⟩ := h
  rintro (h | h | h | h | h)
  · exact h hmode
  · exact hon h
  · exact hsound h
  · omega
  · obtain ⟨j, hj, hle⟩ := (Option.any_eq_true _ _).1 h
    exact absurd (hnext j hj) (Nat.not_lt.2 (of_decide_eq_true hle))

/-- The samplers of the cell's block store container `x` of sample `n` where they write it. -/
def State.storeSample (s : State) (c n : Nat) (x : BitVec 16) : State :=
  let blk := s.block (c / 16)
  match blk.page with
  | some p =>
    if blk.sampling ∧ blk.pageFirst p ≤ n ∧ n < blk.pageFirst p + 64 ∧ n < s.writtenEnd blk then
      s.storeContainer c (64 * p + (n - blk.pageFirst p)) x
    else s
  | none => s

theorem State.storeSample_page {c n p : Nat} (x : BitVec 16) (h : s.PageTakes (s.block (c / 16)) p n) :
    s.storeSample c n x = s.storeContainer c (64 * p + (n - (s.block (c / 16)).pageFirst p)) x := by
  obtain ⟨hpage, hsampling, hfirst, hlast, hwritten⟩ := h
  unfold State.storeSample
  dsimp only
  rw [hpage]
  exact if_pos ⟨hsampling, hfirst, hlast, hwritten⟩

theorem sampleConversion_eq {c : Fin 2048} {n : Nat} (code : BitVec 10) (h : s.Samples c n) :
    exec (.sampleConversion c n code) s = .next ((s.sampled c n code).storeSample c n (s.container c code)) :=
  congrArg Host.Outcome.next (if_neg h.not_idle)

/-- A sample of the page that is written, the staging register at its code word. -/
theorem sampleConversion_stores {c : Fin 2048} {n p : Nat} {g : Staging} (code : BitVec 10) (h : s.Samples c n)
    (hp : s.PageTakes (s.block (c.val / 16)) p n) (hg : (s.cell c).staging = some g) :
    let k := 64 * p + (n - (s.block (c.val / 16)).pageFirst p)
    g.addr = segAddr c k → (k % 8 < 7 ∨ g.mask ||| containerBytes k = 0xFFFF) →
    ∃ t, exec (.sampleConversion c n code) s = .next t ∧
      ContainerStored (s.sampled c n code) t c k (g.withContainer k (s.container c code)) := by
  intro k haddr hmask
  have hpage : (s.sampled c n code).PageTakes ((s.sampled c n code).block (c.val / 16)) p n :=
    ⟨hp.page, hp.sampling, hp.first, hp.last, hp.written⟩
  exact ⟨_, (sampleConversion_eq code h).trans (congrArg Host.Outcome.next (State.storeSample_page _ hpage)),
    State.storeContainer_joins _ ((congrArg Cell.staging (s.sampled_cell c n code)).trans hg) haddr hmask⟩

/-- Settles O22: a range switch moves one cell, its range and one counter; a container joins the staging register, which a whole write
puts into its code word. -/
theorem rangesSwitchAndSamplesAreStored : Obligations.RangesSwitchAndSamplesAreStored := by
  intro s c
  refine ⟨fun hm ha hr hs => ?_, fun hm ha h0 h3 hd => ?_, rangeSwitchUp_once, fun k hk hle => ?_, fun k hk hlt => ?_,
    fun n p code g hm h0 h5 hpage hsamp hfirst hlast htaken hwritten hconv hg haddr hmask => ?_⟩
  · exact ⟨_, rangeSwitchUp_switches hm ha hr hs, s.rangeSwitched_spec (by omega) rfl rfl (by simp [R.rangeUp])⟩
  · exact ⟨_, rangeSwitchDown_switches hm ha h0 hd, s.rangeSwitched_spec (by omega) rfl rfl (by simp [R.rangeDown])⟩
  · exact (cellSettleEnd_eq hk).trans (congrArg Host.Outcome.next (if_pos hle))
  · exact (cellSettleEnd_eq hk).trans (congrArg Host.Outcome.next (if_neg (by omega)))
  · obtain ⟨t, hexec, hcell, hwhole, hothers, htouch⟩ := sampleConversion_stores code (State.Samples.mk hm h0 h5 htaken hconv)
      ⟨hpage, hsamp, hfirst, hlast, hwritten⟩ hg haddr hmask
    have hsampled := s.sampled_cell c n code
    refine ⟨t, hexec, ?_, ?_, ?_, congrArg Cell.staging hcell, fun hk hret => ?_, fun a ha => ?_, ?_⟩
    · exact (congrArg Cell.switched hcell).trans (congrArg Cell.switched hsampled)
    · exact (congrArg Cell.lastConv hcell).trans (congrArg Cell.lastConv hsampled)
    · exact (congrArg Cell.downCount hcell).trans (s.sampled_downCount c n code)
    · rw [← haddr] at hret ⊢
      exact hwhole hk hret
    · exact hothers a (ha.imp_left fun hne heq => hne (heq.trans haddr))
    · exact ((State.setCell_touch (P := samplerParts c) (Touch.refl _ s) (.inl rfl)).trans htouch).frame

end Sys2Proof.Machine

namespace Sys2Proof.Machine

variable {s t : State}

/-! ## What answers and notices leave of the acquisition -/

theorem not_answerParts_time (i : Nat) : ¬ answerParts i .time := by simp [answerParts, queueParts, memParts, logParts, storeParts]
theorem not_answerParts_trig (i : Nat) : ¬ answerParts i .trig := by simp [answerParts, queueParts, memParts, logParts, storeParts]
theorem not_answerParts_block (i b : Nat) : ¬ answerParts i (.block b) := by
  simp [answerParts, queueParts, memParts, logParts, storeParts]

theorem kept_acts (h : t.kept = s.kept) : t.node.acts = s.node.acts := congrArg (·.node.acts) h
theorem kept_stopping (h : t.kept = s.kept) : t.node.stopping = s.node.stopping := congrArg (·.node.stopping) h

theorem State.enterState_touches (s : State) (n : NodeState) : Touch queueParts s (s.enterState n) :=
  State.enterState_touch (Touch.refl _ s) fun _ => id

/-- A change of state changes that, and of what is kept nothing else. -/
theorem State.enterState_node (s : State) (n : NodeState) : (s.enterState n).node.state = n ∧
    (s.enterState n).node.stopping = s.node.stopping ∧ (s.enterState n).fw.waits = s.fw.waits :=
  have h := s.enterState_kept n
  ⟨congrArg (·.node.state) h, congrArg (·.node.stopping) h, congrArg (·.fw.waits) h⟩

theorem State.enterState_getF (s : State) (n : NodeState) {f : RF} (hf : f.off < 0x3000) : (s.enterState n).getF f = s.getF f :=
  (s.enterState_touches n).getF fun h => not_answerParts_reg (i := 0) (by decide) (.inl hf) (answerParts_queue h)

/-! ## ACQ_START (R147, R402) -/

/-- The run that begins is unloaded, without a window, and its events count from 0. -/
structure RunBegun (s t : State) : Prop where
  state : t.node.state = .running
  stopping : t.node.stopping = false
  epochLoaded : t.getF R.epochLoaded = 0
  nextSelf : t.getF R.nextSelf = 0
  nextExt : t.getF R.nextExt = 0
  nextStart : t.time.nextStart = 0
  starts : t.time.starts = s.time.starts + 1
  window : t.time.window = none

theorem State.startAcq_begun (s : State) : RunBegun s ((s.setF R.epochLoaded 0).startAcq) := by
  unfold State.startAcq
  extract_lets u timeSrc time nodeSrc poolSrc v
  obtain ⟨hstate, hstop, -⟩ := v.enterState_node .running
  have htime : (v.enterState .running).time = time :=
    (v.enterState_touches .running).same (c := .time) fun h => not_answerParts_time 0 (answerParts_queue h)
  have hreg : ∀ f : RF, f.off < 0x3000 → (v.enterState .running).getF f = u.getF f := fun f hf => v.enterState_getF .running hf
  refine ⟨hstate, hstop, ?_, ?_, ?_, by rw [htime], by rw [htime]; rfl, by rw [htime]⟩ <;> rw [hreg _ (by decide)]
  · exact (State.getF_setF_other _ _ (by decide) (by decide)).trans
      ((State.getF_setF_other _ _ (by decide) (by decide)).trans (State.getF_setF_same s _ 0 (by decide)))
  · exact (State.getF_setF_other _ _ (by decide) (by decide)).trans (State.getF_setF_same _ _ 0 (by decide))
  · exact State.getF_setF_same _ _ 0 (by decide)

theorem RunBegun.answer (h : RunBegun s t) {m : Msg} (hm : m.mbox < 16) (st : Nat) (l : List Byte) : RunBegun s (t.answer m st l) := by
  have hk := t.answer_kept m st l
  have htime : (t.answer m st l).time = t.time := (t.answer_touches m st l).same (c := .time) (not_answerParts_time _)
  have hreg : ∀ f : RF, f.off < 0x3000 → (t.answer m st l).getF f = t.getF f := fun f hf => t.answer_getF m st l hm (.inl hf)
  exact ⟨(kept_state hk).trans h.state, (kept_stopping hk).trans h.stopping, (hreg _ (by decide)).trans h.epochLoaded,
    (hreg _ (by decide)).trans h.nextSelf, (hreg _ (by decide)).trans h.nextExt, htime ▸ h.nextStart, htime ▸ h.starts, htime ▸ h.window⟩

theorem acqStart_begins {m : Msg} (h : Taken s 0x300 0 [.configured] m) (hrole : s.role ≠ 3)
    (hlock : ∀ r, r < 8 → s.regionConfigured r = true → s.regionState r = 2) :
    exec .acqStart s = .next (((s.begun.setF R.epochLoaded 0).startAcq).answer m 0 []) := by
  have hall : ((List.range 8).any fun r => s.begun.regionConfigured r && decide (s.begun.regionState r ≠ 2)) = false := by
    refine List.any_eq_false.2 fun r hr hbad => ?_
    obtain ⟨hconf, hst⟩ := Bool.and_eq_true_iff.1 hbad
    exact of_decide_eq_true hst (hlock r (List.mem_range.1 hr) hconf)
  refine (congrArg Host.Outcome.next (h.command _)).trans (congrArg Host.Outcome.next ?_)
  rw [if_neg (ne_true_of_eq_false hall), if_neg (show ¬ s.begun.role = 3 from hrole)]

/-! ## ACQ_STOP and ACQ_STOP_COMPLETE (R147, R402) -/

theorem acqStop_waits {m : Msg} (h : Taken s 0x301 0 [.running] m) (hs : s.node.stopping = false) (ha : .stop ∉ s.node.acts) :
    exec .acqStop s = .next { s with node := { s.node with acts := s.node.acts ++ [.stop] },
                                     fw := { s.fw with cur := none, waits := s.fw.waits ++ [(m, .acqStop)] } } := by
  refine (congrArg Host.Outcome.next (h.command _)).trans (congrArg Host.Outcome.next (if_neg ?_))
  rintro (h | h)
  · rw [show (s.begun.addWait m .acqStop).node = s.node from rfl, hs] at h
    cases h
  · exact ha (List.contains_iff_mem.1 h)

theorem acqStopComplete_waits (h : s.acqDrained = false ∨ s.windowShut = false ∨ s.fwRuns = false) :
    exec .acqStopComplete s = .next s := congrArg Host.Outcome.next (if_pos (by simpa using h))

/-- The node once its stop has ended, but for the reply. -/
def State.stopEnded (s : State) : State := ({ s with node := { s.node with stopping := false } } : State).enterState .configured

/-- The message that waits for the stop, if any, is answered. -/
def State.stopAnswered (s : State) : State :=
  match s.takeWait .acqStop with
  | some (m, v) => v.answer m 0 []
  | none => s

theorem acqStopComplete_ends (hd : s.acqDrained = true) (hw : s.windowShut = true) (hf : s.fwRuns = true) (hr : s.running = true) :
    exec .acqStopComplete s = .next s.stopEnded.stopAnswered := by
  refine congrArg Host.Outcome.next ((if_neg (by simp [hd, hw, hf])).trans ?_)
  exact congrArg State.stopAnswered (if_pos hr)

theorem State.stopAnswered_spec (s : State) : s.stopAnswered.node.state = s.node.state ∧
    s.stopAnswered.node.stopping = s.node.stopping ∧ (∀ m, (s.fw.waits.find? fun e => e.2 = .acqStop) = some (m, .acqStop) →
      s.stopAnswered.getF (R.mboxState m.mbox) = 0) := by
  unfold State.stopAnswered State.takeWait
  cases s.fw.waits.find? fun e => e.2 = .acqStop with
  | none => exact ⟨rfl, rfl, fun m hm => by cases hm⟩
  | some e =>
    dsimp only [Option.map]
    have hk := (s.setWaits (s.fw.waits.erase e)).answer_kept e.1 0 []
    refine ⟨(kept_state hk).trans rfl, (kept_stopping hk).trans rfl, fun m hm => ?_⟩
    cases hm
    exact State.answer_mboxState _ _ _ _

theorem acqStopComplete_spec (hd : s.acqDrained = true) (hw : s.windowShut = true) (hf : s.fwRuns = true) (hr : s.running = true) :
    ∃ t, exec .acqStopComplete s = .next t ∧ t.node.state = .configured ∧ t.node.stopping = false ∧
      (∀ m, (s.fw.waits.find? fun e => e.2 = .acqStop) = some (m, .acqStop) → m.mbox < 16 → t.getF (R.mboxState m.mbox) = 0) := by
  obtain ⟨hstate, hstop, hwaits⟩ := State.enterState_node { s with node := { s.node with stopping := false } } .configured
  obtain ⟨hstate', hstop', hempty⟩ := s.stopEnded.stopAnswered_spec
  exact ⟨_, acqStopComplete_ends hd hw hf hr, hstate'.trans hstate, hstop'.trans hstop,
    fun m hm _ => hempty m ((congrArg (List.find? _) hwaits).trans hm)⟩

/-! ## ACQ_TRIGGER (R122, R283, R284, R402) -/

/-- A tree trigger that is taken is remembered and joins the pending ones. -/
theorem State.takeTree_running (num : BitVec 32) (x : BitVec 61) (hr : s.running = true) (hs : s.node.stopping = false)
    (hl : s.trig.pending.length < 16) : s.takeTree num x =
      { s with trig := { s.trig with recent := (⟨num, x⟩ :: s.trig.recent).take 64, pending := s.trig.pending ++ [⟨num, x⟩] } } := by
  unfold State.takeTree
  refine (if_neg ?_).trans (if_neg (Nat.not_le.2 hl))
  rintro (h | h)
  · exact h hr
  · exact absurd (hs.symm.trans h) (by decide)

/-- One message to each of some ports, each under the port's own stamp. -/
def State.sendStamped (s : State) (l : List Nat) (k : BitVec 8) (ws : List Word) : State :=
  l.foldl (fun (s : State) (p : Nat) => s.sendMsg p (.of k 0xFFF (s.portStamp p) ws)) s

theorem State.mem_sendStamped (s : State) {l : List Nat} {q : Nat} (k : BitVec 8) (ws : List Word) {x : CtlMsg} (hq16 : q < 16)
    (h : q ∈ l ∧ x = .of k 0xFFF (s.portStamp q) ws ∨ x ∈ (s.port q).ctlQueue) : x ∈ ((s.sendStamped l k ws).port q).ctlQueue := by
  induction l generalizing s with
  | nil => exact h.resolve_left (by simp)
  | cons p l ih =>
    refine ih (s.sendMsg p (.of k 0xFFF (s.portStamp p) ws)) ?_
    rcases h with ⟨hq, hx⟩ | h
    · rcases List.mem_cons.1 hq with rfl | hq
      · exact .inr (hx ▸ s.sendMsg_sent q _)
      · exact .inl ⟨hq, hx⟩
    · exact .inr ((Steady.sendMsg s p _).sent q hq16 x h)

theorem State.sendStamped_trig (s : State) (l : List Nat) (k : BitVec 8) (ws : List Word) : (s.sendStamped l k ws).trig = s.trig :=
  (Touch.foldl (P := fun c => ∃ p, c = .port p) l (Touch.refl _ s) fun _ p h => State.sendMsg_touch h ⟨p, rfl⟩).same (c := .trig) (by simp)

/-- A tree trigger goes south on every UP port (R283, R284). -/
def State.treeSouth (s : State) (num : BitVec 32) (x : BitVec 61) : State :=
  s.sendStamped s.southUp 0x10 [BitVec.ofNat 64 num.toNat, BitVec.ofNat 64 x.toNat]

theorem acqTrigger_forwards {m : Msg} (h : Taken s 0x305 16 [.running] m) :
    let num := BitVec.ofNat 32 (m.field 0 4)
    let x := BitVec.ofNat 61 (m.field 8 8)
    exec .acqTrigger s = .next (((s.begun.takeTree num x).treeSouth num x).answer m 0 []) := by
  intro num x
  rw [State.treeSouth, BitVec.ofNat_toNat, BitVec.ofNat_toNat]
  exact congrArg Host.Outcome.next (h.command _)

theorem acqTrigger_spec {m : Msg} (h : Taken s 0x305 16 [.running] m) (hs : s.node.stopping = false) (hl : s.trig.pending.length < 16) :
    let num := BitVec.ofNat 32 (m.field 0 4)
    let time := BitVec.ofNat 61 (m.field 8 8)
    ∃ t, exec .acqTrigger s = .next t ∧ t.trig.pending = s.trig.pending ++ [⟨num, time⟩] ∧
      (∀ p ∈ s.southUp, CtlMsg.of 0x10 0xFFF (s.portStamp p) [BitVec.ofNat 64 num.toNat, BitVec.ofNat 64 time.toNat] ∈
        (t.port p).ctlQueue) ∧ t.getF (R.mboxState m.mbox) = 0 := by
  intro num time
  obtain ⟨-, hm, -, -, -, hstate⟩ := id h
  have hrun : s.begun.running = true := decide_eq_true (List.mem_singleton.1 hstate)
  have htake := State.takeTree_running (s := s.begun) num time hrun hs hl
  have hexec : exec .acqTrigger s = .next (((s.begun.takeTree num time).treeSouth num time).answer m 0 []) := acqTrigger_forwards h
  rw [htake] at hexec
  refine ⟨_, hexec, ?_, fun p hp => ?_, State.answer_mboxState _ _ _ _⟩
  · rw [(State.answer_touches _ m 0 []).same (c := .trig) (not_answerParts_trig _), State.treeSouth, State.sendStamped_trig]
    rfl
  · have hp16 : p < 16 := List.mem_range.1 (List.mem_filter.1 hp).1
    exact (Steady.answer _ hm 0 []).sent p hp16 _ (State.mem_sendStamped _ _ _ hp16 (.inl ⟨hp, rfl⟩))

/-! ## ACQ_THAW and ACQ_CELL_SET (R102, R142, R402, R403) -/

theorem acqThaw_waits {m : Msg} (h : Taken s 0x302 16 statesCR m) :
    let named := (bitsOf 128 (m.field 0 16)).filter fun b => s.getF (R.acqState b) = 6
    exec .acqThaw s = .next { s with
      node := { s.node with acts := s.node.acts ++ [.thaw (BitVec.ofNat 128 (named.foldl (fun a b => a + 2 ^ b) 0))] },
      fw := { s.fw with cur := none, waits := s.fw.waits ++ [(m, .thaw)] } } := congrArg Host.Outcome.next (h.command _)

theorem acqCellSet_spec {m : Msg} (h : Taken s 0x303 16 statesCR m) : ∃ first count : Nat, 0 < count ∧ first + count ≤ 2048 ∧
    (m.field 0 2 ≤ 2047 → first = m.field 0 2 ∧ (0 < m.field 2 2 → first + m.field 2 2 ≤ 2048 → count = m.field 2 2)) ∧
    ∃ t, exec .acqCellSet s = .next t ∧ t.node.acts = s.node.acts ++ [.cellSet first count
      (BitVec.ofNat 8 (m.byte 4 % 16)) (m.field 6 2 % 1024) (m.byte 8 % 16) (m.byte 9 % 2) (m.byte 10 % 4)] ∧
      t.getF (R.mboxState m.mbox) = 0 := by
  obtain ⟨hpos, hle, hnamed⟩ := s.begun.cellRange_spec m
  exact ⟨_, _, hpos, hle, hnamed, _, congrArg Host.Outcome.next (h.command _), kept_acts (State.answer_kept _ m 0 []),
    State.answer_mboxState _ _ _ _⟩

/-! ## Configuration fields after a write (R472) -/

theorem nget_testBit (v lo n i : Nat) : (nget v lo n).testBit i = (decide (i < n) && v.testBit (lo + i)) := by
  simp [nget, Nat.testBit_mod_two_pow, Nat.testBit_shiftRight]

theorem nset_testBit (v lo n x i : Nat) :
    (nset v lo n x).testBit i = if lo ≤ i ∧ i < lo + n then x.testBit (i - lo) else v.testBit i := by
  rw [nset, Nat.testBit_xor, Nat.testBit_shiftLeft, Nat.testBit_xor, nget_testBit, Nat.testBit_mod_two_pow]
  by_cases hlo : lo ≤ i
  · by_cases hn : i < lo + n
    · simp [hlo, hn, show i - lo < n by omega]
    · simp [hlo, hn, show ¬ i - lo < n by omega]
  · simp [hlo]

theorem nget_nset_same (v lo n x : Nat) : nget (nset v lo n x) lo n = x % 2 ^ n := by
  apply Nat.eq_of_testBit_eq
  intro i
  rw [nget_testBit, nset_testBit, Nat.testBit_mod_two_pow]
  by_cases hi : i < n
  · rw [if_pos ⟨by omega, by omega⟩, Nat.add_sub_cancel_left]
  · simp [hi]

theorem nget_nset_other {v lo n lo' n' : Nat} (x : Nat) (h : lo' + n' ≤ lo ∨ lo + n ≤ lo') :
    nget (nset v lo n x) lo' n' = nget v lo' n' := by
  apply Nat.eq_of_testBit_eq
  intro i
  rw [nget_testBit, nget_testBit, nset_testBit]
  by_cases hi : i < n'
  · rw [if_neg (by omega)]
  · simp [hi]

theorem State.setCfg_cfgF_same (s : State) (f : CF) (x : Nat) : (s.setCfg f x).cfgF f = x % 2 ^ f.w := by
  rw [State.cfgF, State.setCfg, State.setRecord_record_same, nget_nset_same]

theorem State.setCfg_cfgF_other (s : State) {f g : CF} (x : Nat) (h : g.key ≠ f.key ∨ g.lo + g.w ≤ f.lo ∨ f.lo + f.w ≤ g.lo) :
    (s.setCfg f x).cfgF g = s.cfgF g := by
  by_cases hk : g.key = f.key
  · rw [State.cfgF, State.setCfg, hk, State.setRecord_record_same, nget_nset_other _ (h.resolve_left (not_not.2 hk)), State.cfgF, hk]
  · rw [State.cfgF, State.setCfg, State.setRecord_record_other _ _ hk, State.cfgF]

/-! ## Mask points (R404) -/

/-- What a mask write changes: the block's records, the words of the mask table, and the block's configuration record. -/
def maskParts (b : Nat) (x : Comp) : Prop := x = .block b ∨ x = .mem 5 ∨ x = .cfg (512 + b)

/-- A mask point as a record keeps it: point, LOWER, UPPER. -/
def State.maskEntry (s : State) (b i : Nat) : Nat × Nat × Nat := (i, s.cfgF (C.maskLower b i), s.cfgF (C.maskUpper b i))

/-- A record that is not yet read keeps a point that is replaced as it stood when the record was accepted. -/
def Rec.keepPoint (r : Rec) (old : Nat × Nat × Nat) : Rec :=
  if r.read ∨ r.points.any (fun e => e.1 = old.1) then r else { r with points := old :: r.points }

/-- Mask point `i` of block `b` has been replaced. -/
structure PointReplaced (s t : State) (b i lower upper : Nat) : Prop where
  touch : Touch (maskParts b) s t
  recs : (t.block b).recs = (s.block b).recs.map fun r => r.keepPoint (s.maskEntry b i)
  value : t.maskEntry b i = (i, lower % 2 ^ 18, upper % 2 ^ 18)
  others : ∀ j, j ≠ i → t.maskEntry b j = s.maskEntry b j

theorem State.setMaskPoint_replaces (s : State) (b i lower upper : Nat) :
    PointReplaced s (s.setMaskPoint b i lower upper) b i lower upper := by
  unfold State.setMaskPoint
  extract_lets v old recs
  have hblock : Touch (maskParts b) s (s.setBlock b { v with recs := recs }) := State.setBlock_touch (Touch.refl _ s) (.inl rfl)
  have hsaved : (s.setBlock b { v with recs := recs }).block b = { v with recs := recs } := State.setBlock_block_same _ _ _
  have hread : ∀ f, (s.setBlock b { v with recs := recs }).cfgF f = s.cfgF f := fun _ => rfl
  generalize s.setBlock b { v with recs := recs } = u at hblock hsaved hread ⊢
  have htable : Touch (· = Comp.mem 5) u (u.tableWrite [Config.maskWord b i]) := State.tableWrite_touch (Touch.refl _ u) rfl
  have hw : Touch (maskParts b) s (u.tableWrite [Config.maskWord b i]) := State.tableWrite_touch hblock (.inr (.inl rfl))
  have hrecs : ((u.tableWrite [Config.maskWord b i]).block b).recs = recs := by
    rw [htable.same (c := .block b) (by simp), hsaved]
  have hcfg : ∀ f, (u.tableWrite [Config.maskWord b i]).cfgF f = s.cfgF f := fun f => (htable.cfgF (by simp)).trans (hread f)
  generalize u.tableWrite [Config.maskWord b i] = w at hw hrecs hcfg ⊢
  refine ⟨State.setCfg_touch (State.setCfg_touch hw (.inr (.inr rfl))) (.inr (.inr rfl)), hrecs, ?_, fun j hj => ?_⟩
  · have hbelow : (C.maskLower b i).lo + 18 ≤ (C.maskUpper b i).lo := by simp only [C.maskLower, C.maskUpper]; omega
    rw [State.maskEntry, State.setCfg_cfgF_same, State.setCfg_cfgF_other _ _ (.inr (.inl hbelow)), State.setCfg_cfgF_same]
    rfl
  · have hother : ∀ f : CF, f.w = 18 → f.lo = 81 + 36 * j ∨ f.lo = 99 + 36 * j →
        ((w.setCfg (C.maskLower b i) lower).setCfg (C.maskUpper b i) upper).cfgF f = s.cfgF f := fun f hf hlo => by
      rw [State.setCfg_cfgF_other _ _ (.inr (by simp only [C.maskUpper]; omega)),
        State.setCfg_cfgF_other _ _ (.inr (by simp only [C.maskLower]; omega)), hcfg]
    rw [State.maskEntry, hother _ rfl (.inl rfl), hother _ rfl (.inr rfl), State.maskEntry]

/-- Points written one after another. -/
def State.writeMask (s : State) (b n : Nat) (point lower upper : Nat → Nat) : State :=
  (List.range n).foldl (fun (s : State) (k : Nat) => s.setMaskPoint b (point k) (lower k) (upper k)) s

/-- What a record keeps of `n` points written since: what it had, and the `entry` of those points at its acceptance. -/
structure PointsKept (entry : Nat → Nat × Nat × Nat) (n : Nat) (point : Nat → Nat) (before after : List (Nat × Nat × Nat)) : Prop where
  had : ∀ e ∈ before, e ∈ after
  old : ∀ k, k < n → (∀ e ∈ before, e.1 ≠ point k) → entry (point k) ∈ after
  named : ∀ e ∈ after, e ∈ before ∨ ∃ k, k < n ∧ e.1 = point k

/-- A further point joins what a record keeps, unless the record has kept it before. -/
theorem PointsKept.succ {b n : Nat} {point : Nat → Nat} {r : Rec} {ps : List (Nat × Nat × Nat)}
    (h : PointsKept (s.maskEntry b) n point r.points ps) (hread : r.read = false) (hnew : ∀ k, k < n → point n ≠ point k) :
    ∃ qs, ({ r with points := ps } : Rec).keepPoint (s.maskEntry b (point n)) = { r with points := qs } ∧
      PointsKept (s.maskEntry b) (n + 1) point r.points qs := by
  have hlast : ∀ k, k < n + 1 → k < n ∨ k = n := fun k hk => by omega
  have hnamed : ∀ e ∈ ps, e ∈ r.points ∨ ∃ k, k < n + 1 ∧ e.1 = point k := fun e he =>
    (h.named e he).imp_right fun ⟨k, hk, hek⟩ => ⟨k, by omega, hek⟩
  by_cases hany : ps.any (fun e => e.1 = point n) = true
  · refine ⟨ps, if_pos (.inr hany), h.had, fun k hk hno => ?_, hnamed⟩
    rcases hlast k hk with hk | rfl
    · exact h.old k hk hno
    · obtain ⟨e, he, hek⟩ := List.any_eq_true.1 hany
      have hek : e.1 = point k := of_decide_eq_true hek
      rcases h.named e he with hin | ⟨j, hj, hej⟩
      · exact absurd hek (hno e hin)
      · exact absurd (hek.symm.trans hej) (hnew j hj)
  · have hadds : ¬ (r.read = true ∨ ps.any (fun e => e.1 = point n) = true) := by simp [hread, hany]
    refine ⟨s.maskEntry b (point n) :: ps, if_neg hadds, fun e he => List.mem_cons_of_mem _ (h.had e he), fun k hk hno => ?_,
      fun e he => ?_⟩
    · rcases hlast k hk with hk | rfl
      · exact List.mem_cons_of_mem _ (h.old k hk hno)
      · exact List.mem_cons_self ..
    · rcases List.mem_cons.1 he with rfl | he
      · exact .inr ⟨n, Nat.lt_succ_self n, rfl⟩
      · exact hnamed e he

/-- `n` points of block `b` have been written. -/
structure MaskWritten (s t : State) (b n : Nat) (point lower upper : Nat → Nat) : Prop where
  records : ∀ k, k ≠ 512 + b → t.record k = s.record k
  values : ∀ k, k < n → t.maskEntry b (point k) = (point k, lower k % 2 ^ 18, upper k % 2 ^ 18)
  others : ∀ i, (∀ k, k < n → i ≠ point k) → t.maskEntry b i = s.maskEntry b i
  recs : ∀ r ∈ (s.block b).recs, r.read = false →
    ∃ ps, { r with points := ps } ∈ (t.block b).recs ∧ PointsKept (s.maskEntry b) n point r.points ps

theorem MaskWritten.succ {b n : Nat} {point lower upper : Nat → Nat} (h : MaskWritten s t b n point lower upper)
    (hnew : ∀ k, k < n → point n ≠ point k) :
    MaskWritten s (t.setMaskPoint b (point n) (lower n) (upper n)) b (n + 1) point lower upper := by
  have hstep := t.setMaskPoint_replaces b (point n) (lower n) (upper n)
  refine ⟨fun k hk => ?_, fun k hk => ?_, fun i hi => ?_, fun r hr hread => ?_⟩
  · rw [← h.records k hk]
    exact hstep.touch.same (c := .cfg k) (by simp [maskParts, hk])
  · by_cases hkn : k = n
    · rw [hkn, hstep.value]
    · have hk : k < n := by omega
      rw [hstep.others _ (hnew k hk).symm, h.values k hk]
  · rw [hstep.others i (hi n (Nat.lt_succ_self n)), h.others i fun k hk => hi k (by omega)]
  · obtain ⟨ps, hmem, hkept⟩ := h.recs r hr hread
    obtain ⟨qs, hq, hkept'⟩ := hkept.succ hread hnew
    refine ⟨qs, ?_, hkept'⟩
    rw [hstep.recs, h.others _ hnew, ← hq]
    exact List.mem_map_of_mem hmem

theorem State.writeMask_written (s : State) (b n : Nat) {point : Nat → Nat} (lower upper : Nat → Nat)
    (hinj : ∀ j k, j < n → k < j → point j ≠ point k) : MaskWritten s (s.writeMask b n point lower upper) b n point lower upper := by
  induction n with
  | zero =>
    exact ⟨fun _ _ => rfl, fun k hk => absurd hk (Nat.not_lt_zero k), fun _ _ => rfl,
      fun r hr _ => ⟨r.points, hr, fun _ he => he, fun k hk => absurd hk (Nat.not_lt_zero k), fun _ he => .inl he⟩⟩
  | succ n ih =>
    rw [State.writeMask, List.range_succ, List.foldl_append]
    exact (ih fun j k hj => hinj j k (by omega)).succ fun k hk => hinj n k (Nat.lt_succ_self n) hk

/-! ## ACQ_MASK_WRITE (R404) -/

/-- What a command checks whose argument sets the size (R386). -/
theorem State.commandL_of_cur {opcode : BitVec 16} {size : Msg → Nat} {states : List NodeState} {m : Msg} (hstate : s.node.state ∈ states)
    (hcur : s.fw.cur = some m) (hop : m.opcode = opcode) (hsize : size m ≤ m.length) (hmax : m.length ≤ 248)
    (f : Msg → State → State) : s.commandL opcode size states f = f m s.begun := by
  rw [State.commandL, hcur]
  dsimp only
  rw [if_neg (by simp [hop]), if_neg (by omega), if_neg (not_not.2 hstate)]
  rfl

/-- The `k`-th point that a mask write names. -/
def Msg.maskPoint (m : Msg) (k : Nat) : Nat := (m.byte 2 + k) % 256
def Msg.maskLower (m : Msg) (k : Nat) : Nat := nget (m.field (8 + 8 * k) 8) 0 18
def Msg.maskUpper (m : Msg) (k : Nat) : Nat := nget (m.field (8 + 8 * k) 8) 32 18

/-- UPPER of the `k`-th point as the node takes it (R18). -/
def State.takenUpper (s : State) (m : Msg) (k : Nat) : Nat :=
  unsigned 18 (s.legalInt (2 + k) (signed 18 (m.maskLower k)) 131071 (signed 18 (m.maskUpper k)))

/-- Up to 30 points named by a mask write are different ones. -/
theorem Msg.maskPoint_ne (m : Msg) {j k : Nat} (hj : j < 30) (hk : k < j) : m.maskPoint j ≠ m.maskPoint k := by
  simp only [Msg.maskPoint]
  omega

theorem unsigned_signed (n v : Nat) : unsigned n (signed n v) = v % 2 ^ n := by
  unfold unsigned signed
  split
  · rw [← Int.natCast_emod, Nat.mod_mod, Int.toNat_natCast]
  · rw [Int.sub_emod_right, ← Int.natCast_emod, Nat.mod_mod, Int.toNat_natCast]

theorem signed18_le (v : Nat) : signed 18 v ≤ 131071 := by
  have hlt : v % 2 ^ 18 < 2 ^ 18 := Nat.mod_lt v (Nat.two_pow_pos 18)
  unfold signed
  split <;> omega

/-- An UPPER that is not below its LOWER is taken as it stands. -/
theorem State.takenUpper_of_le (s : State) {m : Msg} {k : Nat} (h : signed 18 (m.maskLower k) ≤ signed 18 (m.maskUpper k)) :
    s.takenUpper m k % 2 ^ 18 = m.maskUpper k := by
  rw [State.takenUpper, State.legalInt, if_pos ⟨h, signed18_le _⟩, unsigned_signed, Nat.mod_mod]
  exact Nat.mod_mod _ _

/-- A mask write whose message passes the checks and names a block and 1 to 30 points. -/
structure MaskTaken (s : State) (m : Msg) : Prop where
  cur : s.fw.cur = some m
  mbox : m.mbox < 16
  opcode : m.opcode = 0x304
  state : s.node.state ∈ statesCR
  size : 8 + 8 * m.byte 3 ≤ m.length
  max : m.length ≤ 248
  block : m.field 0 2 ≤ 127
  pos : 0 < m.byte 3
  count : m.byte 3 ≤ 30

theorem acqMaskWrite_eq {m : Msg} (h : MaskTaken s m) : exec .acqMaskWrite s = .next
    (if s.getF (R.acqState (m.field 0 2)) ≠ 0 ∧ s.getF (R.acqState (m.field 0 2)) ≠ 6 then (s.begun.skip 32).answer m 4 []
      else ((s.begun.skip 32).writeMask (m.field 0 2) (m.byte 3) m.maskPoint m.maskLower (s.begun.takenUpper m)).answer m 0 []) := by
  have hb : s.begun.legal 0 0 127 (m.field 0 2) = m.field 0 2 := State.legal_of_mem (Nat.zero_le _) h.block
  have hn : s.begun.legal 1 1 30 (m.byte 3) = m.byte 3 := State.legal_of_mem h.pos h.count
  refine (congrArg Host.Outcome.next (State.commandL_of_cur h.state h.cur h.opcode h.size h.max _)).trans ?_
  dsimp only
  rw [hb, hn]
  rfl

theorem State.answer_cfgF (s : State) (m : Msg) (st : Nat) (l : List Byte) (f : CF) : (s.answer m st l).cfgF f = s.cfgF f := by
  rw [State.cfgF, State.answer_record, State.cfgF]

theorem State.answer_maskEntry (s : State) (m : Msg) (st : Nat) (l : List Byte) (b i : Nat) :
    (s.answer m st l).maskEntry b i = s.maskEntry b i := by
  rw [State.maskEntry, State.answer_cfgF, State.answer_cfgF, State.maskEntry]

/-- The answer leaves what has been written. -/
theorem MaskWritten.answer {b n : Nat} {point lower upper : Nat → Nat} (h : MaskWritten s t b n point lower upper) (m : Msg) (st : Nat)
    (l : List Byte) : MaskWritten s (t.answer m st l) b n point lower upper := by
  refine ⟨fun k hk => ?_, fun k hk => ?_, fun i hi => ?_, fun r hr hread => ?_⟩
  · rw [State.answer_record, h.records k hk]
  · rw [State.answer_maskEntry, h.values k hk]
  · rw [State.answer_maskEntry, h.others i hi]
  · rw [show (t.answer m st l).block b = t.block b from
      (t.answer_touches m st l).same (c := .block b) (not_answerParts_block _ _)]
    exact h.recs r hr hread

theorem acqMaskWrite_writes {m : Msg} (h : MaskTaken s m)
    (hst : s.getF (R.acqState (m.field 0 2)) = 0 ∨ s.getF (R.acqState (m.field 0 2)) = 6) :
    ∃ t, exec .acqMaskWrite s = .next t ∧ t.getF (R.mboxState m.mbox) = 0 ∧
      MaskWritten s t (m.field 0 2) (m.byte 3) m.maskPoint m.maskLower (s.begun.takenUpper m) := by
  have hw := (s.begun.skip 32).writeMask_written (m.field 0 2) (m.byte 3) m.maskLower (s.begun.takenUpper m)
    fun j k hj hk => m.maskPoint_ne (Nat.lt_of_lt_of_le hj h.count) hk
  obtain ⟨hrecords, hvalues, hothers, hrecs⟩ := hw.answer m 0 []
  exact ⟨_, (acqMaskWrite_eq h).trans (congrArg Host.Outcome.next (if_neg (by omega))), State.answer_mboxState _ _ _ _,
    hrecords, hvalues, hothers, hrecs⟩

/-- Settles O35, each command by what it does to the node, the block or the ports, said above. -/
theorem acquisitionCommandsActOrWait : Obligations.AcquisitionCommandsActOrWait := by
  refine ⟨fun s m h hrole hlock => ?_, fun _ _ => acqStop_waits, fun _ => acqStopComplete_spec, fun _ _ => acqThaw_waits,
    fun _ _ => acqCellSet_spec, fun _ => acqStopComplete_waits, fun s m hcur hm hop hstate hsize hmax hb hpos hcount => ?_,
    fun _ _ => acqTrigger_spec⟩
  · obtain ⟨-, hm, -⟩ := id h
    obtain ⟨hstate, hstop, hloaded, hself, hext, hnext, hstarts, hwin⟩ := s.begun.startAcq_begun.answer hm 0 []
    exact ⟨_, acqStart_begins h hrole hlock, hstate, hstop, hloaded, hself, hext, hnext, hstarts, hwin, State.answer_mboxState _ _ _ _⟩
  · have h : MaskTaken s m := ⟨hcur, hm, hop, hstate, hsize, hmax, hb, hpos, hcount⟩
    refine ⟨fun h0 h6 => (acqMaskWrite_eq h).trans (congrArg Host.Outcome.next (if_pos ⟨h0, h6⟩)), fun hst hle => ?_⟩
    obtain ⟨t, hexec, hempty, hrecords, hvalues, hothers, hrecs⟩ := acqMaskWrite_writes h hst
    refine ⟨t, hexec, hempty, fun k hk => ?_, fun i _ hi => ?_, hrecords, fun r hr hread => ?_⟩
    · obtain ⟨hlower, hupper⟩ := Prod.mk.inj (Prod.mk.inj (hvalues k hk)).2
      exact ⟨hlower.trans (Nat.mod_mod _ _), hupper.trans (State.takenUpper_of_le _ (hle k hk))⟩
    · exact Prod.mk.inj (Prod.mk.inj (hothers i hi)).2
    · obtain ⟨ps, hmem, hkept⟩ := hrecs r hr hread
      exact ⟨ps, hmem, hkept.had, hkept.old⟩

end Sys2Proof.Machine

namespace Sys2Proof.Machine

variable {s t u : State} {P : Comp → Prop}

/-! ## Pages and histories of a block (R126, R127) -/

/-- Finishing a page changes the pages alone. -/
theorem State.finishPage_eq (s : State) (v : Block) : ∃ ps, s.finishPage v = { v with pages := ps } := by
  unfold State.finishPage
  split
  · exact ⟨v.pages, rfl⟩
  · dsimp only
    split
    · exact ⟨v.pages, rfl⟩
    · exact ⟨_, rfl⟩

/-- Ending a history changes the histories alone. -/
theorem Block.endRun_eq (v : Block) (e : Nat) : ∃ rs, v.endRun e = { v with runs := rs } := by
  unfold Block.endRun
  split
  · exact ⟨_, rfl⟩
  · exact ⟨v.runs, rfl⟩

theorem State.finishPage_sampling (s : State) (v : Block) : (s.finishPage v).sampling = v.sampling := by
  obtain ⟨ps, h⟩ := s.finishPage_eq v
  rw [h]

/-- A page as it begins holds no sample yet. -/
theorem Block.beginPage_gens (v : Block) (p n : Nat) : (Tab.get {} (v.beginPage p n).pages p).gens.head? = some (n, 0) := by
  unfold Block.beginPage
  dsimp only
  rw [Tab.get_set_same]
  rfl

/-- A gap in the samples: no page is written, and SAMPLE_GAP counts (R126). -/
theorem State.beginGap_spec (s : State) (b e : Nat) : ((s.beginGap b e).block b).page = none ∧ ((s.beginGap b e).block b).gap = true ∧
    ((s.beginGap b e).block b).recs = (s.block b).recs ∧
    (s.beginGap b e).getF (R.sampleGap b) = min (s.getF (R.sampleGap b) + 1) 65535 := by
  have hblock : (s.beginGap b e).block b = { (s.finishPage (s.block b)).endRun e with page := none, gap := true } :=
    State.setBlock_block_same s b _
  obtain ⟨ps, hpages⟩ := s.finishPage_eq (s.block b)
  obtain ⟨rs, hruns⟩ := (s.finishPage (s.block b)).endRun_eq e
  rw [hblock, hruns, hpages]
  exact ⟨rfl, rfl, rfl, State.getF_inc_same _ _ (by simp [R.sampleGap])⟩

theorem State.beginGap_touch {b e : Nat} (h : Touch P s u) (hb : P (.block b)) (hr : P (.reg (R.sampleGap b).off)) :
    Touch P s (u.beginGap b e) :=
  State.inc_touch (State.setBlock_touch h hb) hr

/-! ### PAGE_ADVANCE (R126, R132, R134) -/

/-- The page is full, and the sample after it is the next that is written. -/
structure State.PageFull (s : State) (b p n : Nat) : Prop where
  page : (s.block b).page = some p
  sampling : (s.block b).sampling = true
  next : n = (s.block b).pageFirst p + 64
  written : n ≤ s.writtenEnd (s.block b)

theorem pageAdvance_eq {b : Fin 128} {n p : Nat} (h : s.PageFull b p n) : exec (.pageAdvance b n) s = .next
    (match (s.finishPage (s.block b)).nextPage p with
      | some q => s.setBlock b ((s.finishPage (s.block b)).beginPage q n)
      | none => s.beginGap b (n - 1)) := by
  show execPageAdvance b n s = _
  unfold execPageAdvance
  dsimp only
  rw [h.page]
  exact congrArg Host.Outcome.next (if_pos ⟨h.sampling, h.next, h.written⟩)

/-- The next page that may be begun is begun with the next sample. -/
theorem pageAdvance_begins {b : Fin 128} {n p q : Nat} (h : s.PageFull b p n) (hq : (s.finishPage (s.block b)).nextPage p = some q) :
    ∃ t, exec (.pageAdvance b n) s = .next t ∧ (t.block b).page = some q ∧ (t.block b).sampling = true ∧ (t.block b).gap = false ∧
      (Tab.get {} (t.block b).pages q).gens.head? = some (n, 0) ∧ Frame (fun x => x = .block b) s t := by
  refine ⟨s.setBlock b ((s.finishPage (s.block b)).beginPage q n), by rw [pageAdvance_eq h, hq], ?_, ?_, ?_, ?_,
    (State.setBlock_touch (Touch.refl (· = .block b) s) rfl).frame⟩ <;> rw [State.setBlock_block_same]
  · rfl
  · exact (s.finishPage_sampling _).trans h.sampling
  · rfl
  · exact Block.beginPage_gens _ _ _

/-- With no page that may be begun a gap begins. -/
theorem pageAdvance_leaves_gap {b : Fin 128} {n p : Nat} (h : s.PageFull b p n) (hq : (s.finishPage (s.block b)).nextPage p = none) :
    ∃ t, exec (.pageAdvance b n) s = .next t ∧ (t.block b).page = none ∧ (t.block b).gap = true ∧
      t.getF (R.sampleGap b) = min (s.getF (R.sampleGap b) + 1) 65535 ∧ (∀ q, q ≠ b.val → t.block q = s.block q) := by
  obtain ⟨hpage, hgap, -, hcount⟩ := s.beginGap_spec b (n - 1)
  exact ⟨_, by rw [pageAdvance_eq h, hq], hpage, hgap, hcount, fun q hne => State.setBlock_block_other s _ hne⟩

/-- Settles O23. -/
theorem pagesAdvanceOrLeaveAGap : Obligations.PagesAdvanceOrLeaveAGap := by
  intro s b n p hpage hsampling hnext hwritten
  have h : s.PageFull b p n := ⟨hpage, hsampling, hnext, hwritten⟩
  exact ⟨fun q hq => pageAdvance_begins h hq, fun hq => pageAdvance_leaves_gap h hq⟩


/-! ## Frost (R141) -/

/-- The blocks and their registers stand outside what code words of segment memory, items and notices change. -/
theorem not_memParts_block {m b : Nat} : ¬ memParts m (.block b) := by simp [memParts, logParts, storeParts]
theorem not_queueParts_block {b : Nat} : ¬ queueParts (.block b) := by simp [queueParts, memParts, logParts, storeParts]

/-- What the staging registers of cells change when they are written. -/
def flushParts (c : Comp) : Prop := (∃ i, c = .cell i) ∨ memParts 2 c

theorem State.flushBlock_touch (s : State) (b : Nat) : Touch flushParts s (s.flushBlock b) :=
  Touch.foldl _ (Touch.refl _ s) fun _ _ h => State.flushStaging_touch h (.inl ⟨_, rfl⟩) fun _ => .inr

theorem State.flushBlock_block (s : State) (b c : Nat) : (s.flushBlock b).block c = s.block c :=
  (s.flushBlock_touch b).same (c := .block c) (by simp [flushParts, not_memParts_block])

/-- What the stop of its samplers leaves of a block: nothing is sampled any more, its records are as they were. -/
structure Halted (v w : Block) : Prop where
  sampling : w.sampling = false
  recs : w.recs = v.recs
  records : w.records = v.records

theorem State.stopSamplers_halted (s : State) (b : Nat) : Halted (s.block b) ((s.stopSamplers b).block b) := by
  obtain ⟨ps, hpages⟩ := s.finishPage_eq (s.block b)
  obtain ⟨rs, hruns⟩ := (s.finishPage (s.block b)).endRun_eq (s.writtenEnd (s.block b) - 1)
  unfold State.stopSamplers
  dsimp only
  split
  · rw [State.flushBlock_block, State.setBlock_block_same, hruns, hpages]
    exact ⟨rfl, rfl, rfl⟩
  · next h => exact ⟨by simpa using h, rfl, rfl⟩

theorem frostEvent_apart (b : Nat) : (R.frostEvent b).Apart := ⟨rfl, rfl, by simp [R.frostEvent], by simp [R.frostEvent]⟩

/-- The node whose block has entered Frost, before the notice of it. -/
def State.frozen (s : State) (b : Nat) : State := ((s.stopSamplers b).setF (R.acqState b) 6).setFlag (R.frostEvent b)

theorem State.frostEntry_touch (s : State) (b : Nat) : Touch queueParts (s.frozen b) (s.frostEntry b) :=
  State.notice_touch (Touch.refl _ _) fun _ => id

theorem State.frostEntry_halted (s : State) (b : Nat) : Halted (s.block b) ((s.frostEntry b).block b) := by
  rw [(s.frostEntry_touch b).same (c := .block b) not_queueParts_block]
  exact s.stopSamplers_halted b

/-- A block that enters Frost is in state 6 and has its event flagged (R141). -/
theorem State.frostEntry_spec (s : State) (b : Nat) :
    (s.frostEntry b).getF (R.acqState b) = 6 ∧ (s.frostEntry b).getF (R.frostEvent b).flag = 1 := by
  have hkeep : ∀ f : RF, f.off = 0x10000 + 0x40 * b → (s.frostEntry b).getF f = (s.frozen b).getF f := fun f hf =>
    (s.frostEntry_touch b).getF (not_queueParts_reg (.inr (by omega)))
  refine ⟨?_, ?_⟩
  · rw [hkeep _ rfl, State.frozen, State.setFlag_getF_other _ (.inr (.inl (by simp [R.acqState, R.frostEvent])))
      (.inr (.inl (by simp [R.acqState, R.frostEvent]))) (by simp [R.acqState])]
    exact State.getF_setF_same _ _ _ (by simp [R.acqState])
  · rw [hkeep _ rfl]
    exact (State.setFlag_spec _ (frostEvent_apart b)).1

/-! ### RECORD_COMPLETE (R130, R134, R141) -/

/-- The only record of a block is complete. -/
def State.onlyComplete (s : State) (b : Nat) (r : Rec) : State := s.setBlock b { s.block b with recs := [{ r with complete := true }] }

/-- The last sample of the block's only record has been written. -/
structure State.OnlyWritten (s : State) (b : Nat) (r : Rec) : Prop where
  recs : (s.block b).recs = [r]
  incomplete : r.complete = false
  written : r.last ≤ s.lastSample

theorem State.onlyComplete_block (s : State) (b : Nat) (r : Rec) :
    (s.onlyComplete b r).block b = { s.block b with recs := [{ r with complete := true }] } := State.setBlock_block_same _ _ _

/-- Behind a record longer than the memory, which holds every page, a gap begins (R134). -/
def State.gapBehind (s : State) (b : Nat) (r : Rec) : State :=
  if r.long = true ∧ (s.block b).sampling = true ∧ (s.block b).page.isSome = true then s.beginGap b r.last else s

theorem recordComplete_eq {b : Fin 128} {r : Rec} (h : s.OnlyWritten b r) : exec (.recordComplete b) s =
    .next (((s.onlyComplete b r).recordsDone b).gapBehind b r) := by
  have hnone : (recording ((s.onlyComplete b r).block b)).isEmpty = true := by
    rw [State.onlyComplete_block]
    rfl
  have hcomplete : s.setBlock b { s.block b with recs := [r].map fun x => if x.id = r.id then { x with complete := true } else x } =
      s.onlyComplete b r := by simp [State.onlyComplete]
  show execRecordComplete b s = _
  unfold execRecordComplete
  dsimp only
  rw [h.recs, List.find?_cons_of_pos (by simp [h.incomplete, h.written])]
  dsimp only
  rw [hcomplete, if_pos hnone]
  rfl

/-- With its last record written a RECORDING block enters REARM (R130). -/
theorem State.recordsDone_rearms {b : Nat} (hst : s.getF (R.acqState b) = 2) (hstop : s.node.stopping = false) :
    s.recordsDone b = s.setF (R.acqState b) 3 := by
  unfold State.recordsDone
  dsimp only
  rw [hst, hstop]
  rfl

/-- A FREEZING one enters Frost (R141). -/
theorem State.recordsDone_freezes {b : Nat} (hst : s.getF (R.acqState b) = 5) : s.recordsDone b = s.frostEntry b :=
  if_pos hst

theorem State.setF_acqState_same (s : State) (b v : Nat) : (s.setF (R.acqState b) v).getF (R.acqState b) = v % 8 :=
  State.getF_setF_same _ _ _ (by simp [R.acqState])

theorem recordComplete_rearms {b : Fin 128} {r : Rec} (h : s.OnlyWritten b r) (hstop : s.node.stopping = false)
    (hst : s.getF (R.acqState b) = 2) (hlong : r.long = false) :
    ∃ t, exec (.recordComplete b) s = .next t ∧ (t.block b).recs = [{ r with complete := true }] ∧ t.getF (R.acqState b) = 3 ∧
      Frame (fun x => x = .block b ∨ x = .reg (0x10000 + 0x40 * b)) s t := by
  refine ⟨(s.onlyComplete b r).setF (R.acqState b) 3, ?_, ?_, State.setF_acqState_same _ _ _, ?_⟩
  · rw [recordComplete_eq h, State.recordsDone_rearms (s := s.onlyComplete b r) hst hstop]
    exact congrArg Host.Outcome.next (if_neg (by simp [hlong]))
  · exact congrArg Block.recs (s.onlyComplete_block b r)
  · exact (State.setF_touch (State.setBlock_touch (Touch.refl _ s) (.inl rfl)) (.inr rfl)).frame

/-- Behind a record longer than the memory a gap begins (R134). -/
theorem recordComplete_rearms_long {b : Fin 128} {r : Rec} (h : s.OnlyWritten b r) (hstop : s.node.stopping = false)
    (hst : s.getF (R.acqState b) = 2) (hlong : r.long = true) (hs : (s.block b).sampling = true) (hp : (s.block b).page ≠ none) :
    ∃ t, exec (.recordComplete b) s = .next t ∧ (t.block b).recs = [{ r with complete := true }] ∧ t.getF (R.acqState b) = 3 ∧
      (t.block b).page = none ∧ (t.block b).gap = true ∧ t.getF (R.sampleGap b) = min (s.getF (R.sampleGap b) + 1) 65535 := by
  have hblock : ((s.onlyComplete b r).setF (R.acqState b) 3).block b = { s.block b with recs := [{ r with complete := true }] } :=
    s.onlyComplete_block b r
  obtain ⟨hpage, hgap, hrecs, hcount⟩ := ((s.onlyComplete b r).setF (R.acqState b) 3).beginGap_spec b r.last
  refine ⟨((s.onlyComplete b r).setF (R.acqState b) 3).beginGap b r.last, ?_, ?_, ?_, hpage, hgap, ?_⟩
  · rw [recordComplete_eq h, State.recordsDone_rearms (s := s.onlyComplete b r) hst hstop]
    exact congrArg Host.Outcome.next (if_pos (by rw [hblock]; exact ⟨hlong, hs, Option.isSome_iff_ne_none.2 hp⟩))
  · rw [hrecs, hblock]
  · rw [(State.beginGap_touch (P := fun x => x = .block b ∨ x = .reg (R.sampleGap b).off) (Touch.refl _ _) (.inl rfl) (.inr rfl)).getF
      (by simp [R.sampleGap, R.acqState])]
    exact State.setF_acqState_same _ _ _
  · rw [hcount, State.getF_setF_other _ _ (.inl (by simp [R.sampleGap, R.acqState])) (by simp [R.sampleGap])]
    rfl

theorem recordComplete_freezes {b : Fin 128} {r : Rec} (h : s.OnlyWritten b r) (hst : s.getF (R.acqState b) = 5) :
    ∃ t, exec (.recordComplete b) s = .next t ∧ (t.block b).recs = [{ r with complete := true }] ∧ t.getF (R.acqState b) = 6 ∧
      (t.block b).sampling = false ∧ t.getF (R.frostEvent b).flag = 1 := by
  obtain ⟨hsampling, hrecs, -⟩ := (s.onlyComplete b r).frostEntry_halted b
  obtain ⟨hstate, hflag⟩ := (s.onlyComplete b r).frostEntry_spec b
  refine ⟨(s.onlyComplete b r).frostEntry b, ?_, ?_, hstate, hsampling, hflag⟩
  · rw [recordComplete_eq h, State.recordsDone_freezes (s := s.onlyComplete b r) hst]
    exact congrArg Host.Outcome.next (if_neg (by simp [hsampling]))
  · rw [hrecs, State.onlyComplete_block]

/-! ### REARM_END (R130, R133) -/

/-- The last sample of a block's records, or the latest acceptance of one. -/
def State.lastRecorded (s : State) (b : Nat) : Nat := ((s.block b).recs.map fun r => max r.last r.accepted).foldl max 0

theorem State.settlePages_armed {b : Nat} (hst : s.getF (R.acqState b) = 1) : (s.settlePages b).getF (R.acqState b) =
    if s.pagesNeeded b ≤ freePages (s.block b) then 1 else 4 := by
  unfold State.settlePages
  dsimp only
  rw [hst]
  by_cases hfree : s.pagesNeeded b ≤ freePages (s.block b)
  · simp [hfree, hst]
  · rw [if_pos ⟨rfl, hfree⟩, if_neg hfree, State.setF_acqState_same]

theorem rearmEnd_arms {b : Fin 128} (hst : s.getF (R.acqState b) = 3) (hlast : s.lastRecorded b + 65 ≤ s.lastSample) :
    ∃ t, exec (.rearmEnd b) s = .next t ∧
      t.getF (R.acqState b) = (if s.pagesNeeded b ≤ freePages (s.block b) then 1 else 4) ∧
      Frame (fun x => x = .reg (0x10000 + 0x40 * b)) s t := by
  refine ⟨(s.setF (R.acqState b) 1).settlePages b, congrArg Host.Outcome.next (if_pos ⟨hst, hlast⟩), ?_, ?_⟩
  · exact State.settlePages_armed (State.setF_acqState_same s b 1)
  · exact (State.settlePages_touch (State.setF_touch (Touch.refl (· = .reg (0x10000 + 0x40 * b)) s) rfl) rfl).frame

/-- Settles O26. -/
theorem recordsCompleteAndBlocksRearm : Obligations.RecordsCompleteAndBlocksRearm := by
  intro s b
  refine ⟨fun r hrecs hinc hlast hstop => ?_, fun hst hlast => rearmEnd_arms hst hlast⟩
  have h : s.OnlyWritten b r := ⟨hrecs, hinc, hlast⟩
  exact ⟨recordComplete_rearms h hstop, recordComplete_rearms_long h hstop, recordComplete_freezes h⟩

end Sys2Proof.Machine

namespace Sys2Proof.Machine

variable {s t u : State} {P : Comp → Prop}

/-! ## What the judging of a trigger looks at (R129-R133) -/

section
variable (s : State) (b : Nat) (x : BitVec 61)

/-- The sample of T0. -/
def State.trigSample : Nat := s.sampleAt (stampCoarse x)

/-- The last sample of the record that the trigger asks for. -/
def State.trigLast : Nat := s.trigSample x + s.cfgF (C.post b) - 1

/-- The records of the last 4,096 samples. -/
def State.nearRecs : List Rec := (s.block b).recs.filter fun r => s.lastSample < r.last + 4096

/-- The first sample of the history that T0 lies in. -/
def State.historyStart : Nat :=
  match (s.block b).runs.find? fun h => h.1 ≤ s.trigSample x with
  | some h => h.1
  | none => s.trigSample x

/-- The first sample that PRE may reach back to: behind the history's start and the earlier records. -/
def State.preStart : Nat :=
  ((s.nearRecs b).filter fun r => r.last < s.trigSample x).foldl (fun a r => max a (r.last + 1)) (s.historyStart b x)

/-- PRE as the trigger gets it. -/
def State.trigPre : Nat := min (s.cfgF (C.pre b)) (s.trigSample x - s.preStart b x)

/-- The last sample of the record that is written. -/
def State.trigWritten : Nat := min (s.trigLast b x) (s.lastWritten (s.block b))

/-- The record of a trigger. -/
def State.trigRec (src : BitVec 3) (cells : BitVec 16) (key : MergeKey) : Rec :=
  { id := s.trig.nextRec, src := src, cells := cells, key := key, trigTime := x, t0 := s.trigSample x,
    first := s.trigSample x - s.trigPre b x, last := s.trigLast b x, preShort := s.trigPre b x < s.cfgF (C.pre b),
    accepted := s.lastSample }

/-- A record near T0 overlaps the one that the trigger asks for. -/
def State.Overlaps : Prop := ∃ r ∈ s.nearRecs b, s.trigSample x ≤ r.last ∧ r.first ≤ s.trigLast b x

/-- T0 lies in the re-arm span of a record. -/
def State.Rearming : Prop := ∃ r ∈ s.nearRecs b, r.last < s.trigSample x ∧ s.trigSample x ≤ r.last + 64

/-- The samples from T0 on that are written stand in memory, and T0 is not before the load. -/
def State.InMemory : Prop :=
  s.time.loadSample ≤ s.trigSample x ∧
    (s.trigSample x ≤ s.trigWritten b x → s.allInMemory (s.block b) (s.trigSample x) (s.trigWritten b x) = true)

/-- The first sample of the record stands in memory, if it is written. -/
def State.PreInMemory : Prop :=
  s.trigSample x - s.trigPre b x ≤ s.lastWritten (s.block b) →
    (s.findSample (s.block b) (s.trigSample x - s.trigPre b x)).isSome = true

end

/-! ## What a judgement does -/

/-- The empty records of a trigger that comes too late (R131, R135). -/
def State.lateUnits (s : State) (b : Nat) (r : Rec) : List Unit' :=
  (recCells b r).map fun c => ⟨r.key, r.trigTime, c, emptyRecord s c r 13, true⟩

/-- A trigger that comes too late delivers its empty records (R131). -/
def State.tooLateRecord (s : State) (b : Nat) (r : Rec) : Judged × State :=
  (some (s.lateUnits b r).length,
    (s.setBlock b { s.block b with records := (s.block b).records ++ s.lateUnits b r }).inc (R.tooLate b))

/-- The page is to hold samples of a record, or those to come that complete it (R132). -/
def State.holdsPage (s : State) (v : Block) (r : Rec) (p : Nat) : Bool :=
  r.long || ((s.spans v p).any fun e => e.1 ≤ r.last && r.first < e.2.1) ||
    (v.sampling && v.page = some p && decide (s.writtenEnd v ≤ r.last) && ((s.gensOf v p).head?.any fun g => g.2 < 64))

/-- The block with a record behind its earlier ones, and the pages that it holds. -/
def State.withRecord (s : State) (v : Block) (r : Rec) : Block :=
  { v with pages := Tab.update {} v.pages 0 64 fun p g => if s.holdsPage v r p then { g with holders := g.holders ++ [r.id] } else g
           recs := v.recs ++ [r] }

/-- The most samples that a record of a block has still to write. -/
def State.samplesYet (s : State) (v : Block) : Nat := ((recording v).map fun r => r.last - s.lastSample).foldl max 0

/-- The block records, with one record more, which TRIG_ACCEPTED counts (R131). -/
def State.recordKept (s : State) (b : Nat) (r : Rec) : State :=
  let u := s.setBlock b (s.withRecord (s.block b) r)
  (({ u with trig := { u.trig with nextRec := u.trig.nextRec + 1 } } : State).incWrap (R.trigAccepted b) 1).setF (R.acqState b) 2

/-- PRE_SHORT_CNT and WRAPPED_CNT count. -/
def State.recordCounted (s : State) (b : Nat) (r : Rec) : State :=
  let u := if r.preShort then s.inc (R.preShortCnt b) else s
  if r.long then u.inc (R.wrappedCnt b) else u

/-- The trigger is accepted. -/
def State.acceptRecord (s : State) (b : Nat) (r : Rec) : Judged × State :=
  (some (recCells b r).length, (s.recordKept b r).recordCounted b r)

/-- The judgement by R133, once all else allows the record. -/
def State.judgePages (s : State) (b : Nat) (r : Rec) : Judged × State :=
  if s.getF (R.acqState b) = 2 ∧ freePages (s.withRecord (s.block b) r) < (s.samplesYet (s.block b) + 63) / 64 + 1 then
    (none, s.inc (R.pageWaitLost b))
  else s.acceptRecord b r

/-- The judgement by the samples in memory (R131), once no other record stands in the way. -/
def State.judgeFree (s : State) (b : Nat) (x : BitVec 61) (r : Rec) : Judged × State :=
  if s.trigSample x < s.time.loadSample ∨ (s.trigSample x ≤ s.trigWritten b x ∧
      ¬ s.allInMemory (s.block b) (s.trigSample x) (s.trigWritten b x) = true) then s.tooLateRecord b r
  else if s.trigPre b x < s.cfgF (C.pre b) ∧ s.cfgF (C.recordMode b) = 2 then (none, s.inc (R.ignoredEarly b))
  else if s.trigSample x - s.trigPre b x ≤ s.lastWritten (s.block b) ∧
      (s.findSample (s.block b) (s.trigSample x - s.trigPre b x)).isNone = true then s.tooLateRecord b r
  else s.judgePages b r

/-- The judgement of a block that takes records. -/
def State.judgeRecord (s : State) (b : Nat) (x : BitVec 61) (r : Rec) : Judged × State :=
  if ((s.nearRecs b).any fun r => decide (s.trigSample x ≤ r.last ∧ r.first ≤ s.trigLast b x)) = true then (none, s.inc (R.overlapLost b))
  else if ((s.nearRecs b).any fun r => decide (r.last < s.trigSample x ∧ s.trigSample x ≤ r.last + 64)) = true then
    (none, s.inc (R.rearmLost b))
  else s.judgeFree b x r

section
variable {b : Nat} {src : BitVec 3} {cells : BitVec 16} {key : MergeKey} {x : BitVec 61}

/-- The order of R131. -/
theorem State.judge_eq : s.judge b src cells key x =
    if s.getF (R.acqState b) = 0 ∨ s.cfgF (C.recordMode b) = 0 ∨ s.cfgF (C.recordMode b) = 3 then (none, s)
    else if s.getF (R.acqState b) = 5 ∨ s.getF (R.acqState b) = 6 then (none, s.inc (R.frostLost b))
    else if s.getF (R.acqState b) = 4 then (none, s.inc (R.pageWaitLost b))
    else s.judgeRecord b x (s.trigRec b x src cells key) := by
  rfl

/-- A block takes records: it is to record, and neither IDLE, in Frost or freezing, nor without pages. -/
structure State.Takes (s : State) (b : Nat) : Prop where
  mode : s.cfgF (C.recordMode b) = 1 ∨ s.cfgF (C.recordMode b) = 2
  state : s.getF (R.acqState b) = 1 ∨ s.getF (R.acqState b) = 2 ∨ s.getF (R.acqState b) = 3

theorem State.judge_idle (h : s.getF (R.acqState b) = 0 ∨ s.cfgF (C.recordMode b) = 0 ∨ s.cfgF (C.recordMode b) = 3) :
    s.judge b src cells key x = (none, s) := by
  rw [State.judge_eq, if_pos h]

theorem State.judge_frost (hm : s.cfgF (C.recordMode b) = 1 ∨ s.cfgF (C.recordMode b) = 2)
    (h : s.getF (R.acqState b) = 5 ∨ s.getF (R.acqState b) = 6) : s.judge b src cells key x = (none, s.inc (R.frostLost b)) := by
  rw [State.judge_eq, if_neg (by omega), if_pos h]

theorem State.judge_waiting (hm : s.cfgF (C.recordMode b) = 1 ∨ s.cfgF (C.recordMode b) = 2) (h : s.getF (R.acqState b) = 4) :
    s.judge b src cells key x = (none, s.inc (R.pageWaitLost b)) := by
  rw [State.judge_eq, if_neg (by omega), if_neg (by omega), if_pos h]

theorem State.Takes.judge (h : s.Takes b) : s.judge b src cells key x = s.judgeRecord b x (s.trigRec b x src cells key) := by
  obtain ⟨hm, hs⟩ := h
  rw [State.judge_eq, if_neg (by omega), if_neg (by omega), if_neg (by omega)]

theorem State.judgeRecord_overlap {r : Rec} (h : s.Overlaps b x) : s.judgeRecord b x r = (none, s.inc (R.overlapLost b)) := by
  obtain ⟨y, hy, ho⟩ := h
  exact if_pos (List.any_eq_true.2 ⟨y, hy, decide_eq_true ho⟩)

theorem State.overlaps_iff : ((s.nearRecs b).any fun r => decide (s.trigSample x ≤ r.last ∧ r.first ≤ s.trigLast b x)) = true ↔
    s.Overlaps b x := by
  simp [State.Overlaps]

theorem State.rearming_iff : ((s.nearRecs b).any fun r => decide (r.last < s.trigSample x ∧ s.trigSample x ≤ r.last + 64)) = true ↔
    s.Rearming b x := by
  simp [State.Rearming]

theorem State.judgeRecord_rearm {r : Rec} (ho : ¬ s.Overlaps b x) (h : s.Rearming b x) :
    s.judgeRecord b x r = (none, s.inc (R.rearmLost b)) := by
  rw [State.judgeRecord, if_neg (mt State.overlaps_iff.1 ho), if_pos (State.rearming_iff.2 h)]

theorem State.judgeRecord_free {r : Rec} (ho : ¬ s.Overlaps b x) (hr : ¬ s.Rearming b x) : s.judgeRecord b x r = s.judgeFree b x r := by
  rw [State.judgeRecord, if_neg (mt State.overlaps_iff.1 ho), if_neg (mt State.rearming_iff.1 hr)]

theorem State.judgeFree_late {r : Rec} (h : ¬ s.InMemory b x) : s.judgeFree b x r = s.tooLateRecord b r := by
  refine if_pos ?_
  by_cases hload : s.trigSample x < s.time.loadSample
  · exact .inl hload
  · exact .inr (Classical.not_imp.1 fun hall => h ⟨Nat.not_lt.1 hload, hall⟩)

theorem State.InMemory.not_late (h : s.InMemory b x) : ¬ (s.trigSample x < s.time.loadSample ∨
    (s.trigSample x ≤ s.trigWritten b x ∧ ¬ s.allInMemory (s.block b) (s.trigSample x) (s.trigWritten b x) = true)) := by
  rintro (hload | ⟨hle, hall⟩)
  · exact Nat.not_lt.2 h.1 hload
  · exact hall (h.2 hle)

theorem State.judgeFree_early {r : Rec} (h : s.InMemory b x) (hpre : s.trigPre b x < s.cfgF (C.pre b))
    (hm : s.cfgF (C.recordMode b) = 2) : s.judgeFree b x r = (none, s.inc (R.ignoredEarly b)) := by
  rw [State.judgeFree, if_neg h.not_late, if_pos ⟨hpre, hm⟩]

theorem State.judgeFree_pages {r : Rec} (h : s.InMemory b x) (hpre : s.cfgF (C.recordMode b) = 1 ∨ s.trigPre b x = s.cfgF (C.pre b))
    (hfirst : s.PreInMemory b x) : s.judgeFree b x r = s.judgePages b r := by
  have hsome : ¬ (s.trigSample x - s.trigPre b x ≤ s.lastWritten (s.block b) ∧
      (s.findSample (s.block b) (s.trigSample x - s.trigPre b x)).isNone = true) := fun ⟨hle, hnone⟩ =>
    absurd (hfirst hle) (by simp [Option.isNone_iff_eq_none.1 hnone])
  rw [State.judgeFree, if_neg h.not_late, if_neg (by omega), if_neg hsome]

theorem State.judgePages_accepts {r : Rec} (h : s.getF (R.acqState b) ≠ 2) : s.judgePages b r = s.acceptRecord b r := if_neg fun hn => h hn.1

theorem State.judgePages_or {r : Rec} : s.judgePages b r = s.acceptRecord b r ∨ s.judgePages b r = (none, s.inc (R.pageWaitLost b)) := by
  rw [State.judgePages]
  split
  · exact .inr rfl
  · exact .inl rfl

/-! ### What the answer leaves -/

theorem recCells_length (b : Nat) (r : Rec) : (recCells b r).length = (bitsOf 16 r.cells.toNat).length := List.length_map _

theorem State.lateUnits_cells (s : State) (b : Nat) (r : Rec) : (s.lateUnits b r).map (·.cell) = recCells b r := by
  simp [State.lateUnits, Function.comp_def]

theorem State.mem_lateUnits {r : Rec} {u : Unit'} (h : u ∈ s.lateUnits b r) :
    u.key = r.key ∧ u.stamp = r.trigTime ∧ u.isRecord = true ∧ u.words.length = 3 := by
  obtain ⟨c, -, rfl⟩ := List.mem_map.1 h
  exact ⟨rfl, rfl, rfl, rfl⟩

/-- An empty record for each cell, TOO_LATE counted, and nothing else of the block changed (R131). -/
theorem State.tooLateRecord_spec (s : State) (b : Nat) (r : Rec) :
    (s.tooLateRecord b r).1 = some (bitsOf 16 r.cells.toNat).length ∧
    (s.tooLateRecord b r).2.getF (R.tooLate b) = min (s.getF (R.tooLate b) + 1) 65535 ∧
    (s.tooLateRecord b r).2.getF (R.acqState b) = s.getF (R.acqState b) ∧
    (s.tooLateRecord b r).2.block b = { s.block b with records := (s.block b).records ++ s.lateUnits b r } := by
  refine ⟨?_, State.getF_inc_same _ _ (by simp [R.tooLate]), ?_, State.setBlock_block_same _ _ _⟩
  · rw [← recCells_length b r, ← s.lateUnits_cells b r, List.length_map]
    rfl
  · exact State.getF_setF_other _ _ (.inl (by simp [R.acqState, R.tooLate])) (by simp [R.acqState])

theorem State.recordCounted_touch (s : State) (b : Nat) (r : Rec) : Touch (· = .reg (R.preShortCnt b).off) s (s.recordCounted b r) := by
  have h0 := Touch.refl (· = .reg (R.preShortCnt b).off) s
  unfold State.recordCounted
  dsimp only
  exact Touch.ite (State.inc_touch (Touch.ite (State.inc_touch h0 rfl) h0) rfl) (Touch.ite (State.inc_touch h0 rfl) h0)

theorem State.recordKept_block_same (s : State) (b : Nat) (r : Rec) : (s.recordKept b r).block b = s.withRecord (s.block b) r :=
  State.setBlock_block_same _ _ _

theorem State.recordKept_block_other (s : State) {b q : Nat} (r : Rec) (h : q ≠ b) : (s.recordKept b r).block q = s.block q :=
  State.setBlock_block_other _ _ h

/-- An accepted trigger: the block records, TRIG_ACCEPTED counts, the record stands behind the earlier ones (R131, R132). -/
theorem State.acceptRecord_spec (s : State) (b : Nat) (r : Rec) :
    (s.acceptRecord b r).1 = some (bitsOf 16 r.cells.toNat).length ∧ (s.acceptRecord b r).2.getF (R.acqState b) = 2 ∧
    (s.acceptRecord b r).2.getF (R.trigAccepted b) = (s.getF (R.trigAccepted b) + 1) % 2 ^ 32 ∧
    ((s.acceptRecord b r).2.block b).recs = (s.block b).recs ++ [r] ∧ ∀ q, q ≠ b → (s.acceptRecord b r).2.block q = s.block q := by
  have htouch := (s.recordKept b r).recordCounted_touch b r
  have hblock : ∀ q, ((s.recordKept b r).recordCounted b r).block q = (s.recordKept b r).block q := fun q =>
    htouch.same (c := .block q) (by simp)
  refine ⟨congrArg some (recCells_length b r), ?_, ?_, ?_, fun q hq => (hblock q).trans (s.recordKept_block_other r hq)⟩
  · exact (htouch.getF (by simp [R.acqState, R.preShortCnt])).trans (State.setF_acqState_same _ b 2)
  · refine (htouch.getF (by simp [R.trigAccepted, R.preShortCnt])).trans ?_
    rw [State.recordKept, State.getF_setF_other _ _ (.inl (by simp [R.trigAccepted, R.acqState])) (by simp [R.trigAccepted]),
      State.getF_incWrap_same _ _ _ (by simp [R.trigAccepted])]
    rfl
  · exact (congrArg Block.recs (hblock b)).trans (congrArg Block.recs (s.recordKept_block_same b r))

theorem State.preStart_eq (s : State) (b : Nat) (x : BitVec 61) : s.preStart b x =
    (((s.nearRecs b).filter fun r => r.last < s.trigSample x).map fun r => r.last + 1).foldl max (s.historyStart b x) :=
  List.foldl_map.symm

end

/-! ## The triggers of a stop (R119, R123) -/

/-- What a stop's stamp and its judgement change. -/
def stampParts (c : Nat) (x : Comp) : Prop := x = .cell c ∨ x = .reg (R.outOfWindow c).off ∨ memParts 5 x

section
variable {c : Nat}

theorem State.calCount_touch {x : BitVec 13} (h : Touch P s u) (hc : P (.cell c)) : Touch P s (u.calCount c x) :=
  Touch.ite h (State.setCell_touch h hc)

theorem State.acceptStop_touch {x : BitVec 61} (h : Touch P s u) (hc : P (.cell c)) (hr : P (.reg (R.outOfWindow c).off)) :
    Touch P s (u.acceptStop c x).2 := by
  unfold State.acceptStop
  refine Touch.ite2 h ?_
  split
  · exact State.inc_touch h hr
  · exact Touch.ite2 (Touch.ite2 (State.setCell_touch h hc) (State.inc_touch (State.setCell_touch h hc) hr)) (State.inc_touch h hr)

theorem State.judgeStop_touch {h' : Hit} (h : Touch P s u) (hc : P (.cell c)) (hr : P (.reg (R.outOfWindow c).off)) :
    Touch P s (u.judgeStop c h').2 := by
  unfold State.judgeStop
  split
  · exact h
  · exact Touch.ite2 h (Touch.ite2 (State.acceptStop_touch h hc hr) h)

theorem State.acceptStop_kept (s : State) (c : Nat) (x : BitVec 61) : (s.acceptStop c x).2.kept = s.kept := by
  unfold State.acceptStop
  extract_lets coarse
  split
  · rfl
  · split
    · rfl
    · split
      · extract_lets n u
        have hu : u.kept = s.kept := rfl
        split <;> exact hu
      · rfl

theorem State.judgeStop_kept (s : State) (c : Nat) (h : Hit) : (s.judgeStop c h).2.kept = s.kept := by
  unfold State.judgeStop
  split
  · rfl
  · split
    · rfl
    · dsimp only
      split
      · exact s.acceptStop_kept c _
      · rfl

theorem State.inlRead_kept (s : State) (c : Nat) (x : BitVec 13) : (s.inlRead c x).2.kept = s.kept := by
  unfold State.inlRead
  dsimp only
  split
  · exact s.tableCw_kept _
  · exact (State.tableCw_kept _ _).trans (s.tableCw_kept _)

theorem State.calCount_state_kept (s : State) (c : Nat) (x : BitVec 13) : (s.calCount c x).kept = s.kept := kept_ite rfl rfl

/-- The node as the stop's stamp, once judged, stands in its cell. -/
def State.stopPut (s : State) (c : Nat) (h : Hit) : State := (s.stamped c h).2.hitPut c (s.stamped c h).1

theorem State.stopPut_touch (s : State) (c : Nat) (h : Hit) : Touch (stampParts c) s (s.stopPut c h) := by
  have hread : Touch (stampParts c) s (s.inlRead c h.raw).2 := (s.inlRead_touch c h.raw).mono fun _ hx => .inr (.inr hx)
  have hdone : Touch (stampParts c) s (s.interpolated c h) := Touch.ite (State.calCount_touch hread (.inl rfl)) hread
  exact State.setCell_touch (State.judgeStop_touch hdone (.inl rfl) (.inr (.inl rfl))) (.inl rfl)

theorem State.stopPut_kept (s : State) (c : Nat) (h : Hit) : (s.stopPut c h).kept = s.kept := by
  have hdone : (s.interpolated c h).kept = s.kept :=
    kept_ite ((State.calCount_state_kept _ _ _).trans (s.inlRead_kept c _)) (s.inlRead_kept c _)
  exact (State.judgeStop_kept _ _ _).trans hdone

/-- A stop's stamp leaves the blocks, the time and the configuration, and whether triggers are judged. -/
theorem State.stopPut_spec (s : State) (c : Nat) (h : Hit) : (∀ b, (s.stopPut c h).block b = s.block b) ∧
    (s.stopPut c h).time = s.time ∧ (s.stopPut c h).cfg = s.cfg ∧ (s.stopPut c h).judging = s.judging := by
  have htouch := s.stopPut_touch c h
  have hkept := s.stopPut_kept c h
  refine ⟨fun b => htouch.same (c := .block b) (by simp [stampParts, not_memParts_block]),
    htouch.same (c := .time) (by simp [stampParts, memParts, logParts, storeParts]), kept_cfg hkept, ?_⟩
  have hloaded : (s.stopPut c h).getF R.epochLoaded = s.getF R.epochLoaded :=
    htouch.getF (by simp [stampParts, memParts, logParts, storeParts, R.epochLoaded, R.outOfWindow]; omega)
  have hload : (s.stopPut c h).loaded = s.loaded := congrArg (fun n => decide (n = 1)) hloaded
  have hrun : (s.stopPut c h).running = s.running := congrArg (fun n => decide (n = NodeState.running)) (kept_state hkept)
  rw [State.judging, hrun, hload, kept_stopping hkept, State.judging]

end

/-- A stop at or after the load point ends in its CELL and BLOCK triggers. -/
theorem interpolationDone_triggers {c : Fin 2048} {h : Hit} {rest : List Hit} (hh : (s.cell c).hits = h :: rest) (hs : h.stamp = none)
    (hj : s.judging = true) (hp : stampReached (s.stampOf c h) s.time.loadPoint = true) :
    ∃ u : State, exec (.interpolationDone c) s = .next (u.edgeTriggers c (s.stampOf c h)) ∧
      u.block (c / 16) = s.block (c / 16) ∧ u.time = s.time ∧ u.cfg = s.cfg := by
  obtain ⟨hblock, htime, hcfg, hjudging⟩ := s.stopPut_spec c h
  refine ⟨s.stopPut c h, ?_, hblock _, htime, hcfg⟩
  have hcond : (s.stopPut c h).judging = true ∧ stampReached (s.stampOf c h) (s.stopPut c h).time.loadPoint = true :=
    ⟨hjudging.trans hj, by rw [htime]; exact hp⟩
  exact (interpolationDone_eq c hh hs).trans (congrArg Host.Outcome.next (if_pos hcond))

/-- Settles O25: the order of R131 is that of the definitions above, and what each answer leaves is said by its own lemma. -/
theorem triggersAreJudgedInOrder : Obligations.TriggersAreJudgedInOrder := by
  refine ⟨?_, fun s src b cells x => rfl, fun s c h rest hh hs hj hp => interpolationDone_triggers hh hs hj hp,
    fun s c x hen hmask => if_pos ⟨hen, hmask⟩⟩
  intro s b src cells key x _ v st mode t0 last upTo near start e pre j free there accepted
  have hpre : pre = s.trigPre b x := congrArg (fun n => min (s.cfgF (C.pre b)) (s.trigSample x - n)) (s.preStart_eq b x).symm
  clear_value pre
  subst hpre
  refine ⟨State.judge_idle, fun hm => ⟨State.judge_frost hm, State.judge_waiting hm, fun hst => ?_⟩⟩
  have htakes : s.Takes b := ⟨hm, hst⟩
  have hj : j = s.judgeRecord b x (s.trigRec b x src cells key) := htakes.judge
  have hfree : free → j = s.judgeFree b x (s.trigRec b x src cells key) := fun hf =>
    hj.trans (State.judgeRecord_free (fun ⟨r, hr, ho⟩ => (hf r hr).1 ho) (fun ⟨r, hr, ho⟩ => (hf r hr).2 ho))
  refine ⟨fun r hr h1 h2 => hj.trans (State.judgeRecord_overlap ⟨r, hr, h1, h2⟩),
    fun r hr h1 h2 hno => hj.trans (State.judgeRecord_rearm (fun ⟨y, hy, ho⟩ => hno y hy ho) ⟨r, hr, h1, h2⟩),
    fun hf hlate => ?_, fun hf hthere hlt hm2 => (hfree hf).trans (State.judgeFree_early hthere hlt hm2),
    fun hf hthere hmp hfirst => ?_⟩
  · obtain ⟨hcount, htoo, hstate, hblock⟩ := s.tooLateRecord_spec b (s.trigRec b x src cells key)
    rw [(hfree hf).trans (State.judgeFree_late hlate), hblock]
    exact ⟨hcount, htoo, rfl, hstate, _, rfl, s.lateUnits_cells b _, fun _ => State.mem_lateUnits⟩
  · have haccepted : j = s.acceptRecord b (s.trigRec b x src cells key) → accepted := fun he => by
      obtain ⟨hcount, hstate, htrig, hrecs, hother⟩ := s.acceptRecord_spec b (s.trigRec b x src cells key)
      rw [← he] at hcount hstate htrig hrecs hother
      exact ⟨hcount, hstate, htrig, ⟨_, hrecs, rfl, rfl, rfl, rfl, rfl, rfl, rfl, rfl, rfl⟩, hother⟩
    have hpages := (hfree hf).trans (State.judgeFree_pages hthere hmp hfirst)
    exact ⟨fun h2 => haccepted (hpages.trans (State.judgePages_accepts h2)), State.judgePages_or.imp (haccepted ∘ hpages.trans) hpages.trans⟩

end Sys2Proof.Machine

namespace Sys2Proof.Machine

variable {s t u : State} {P : Comp → Prop}

/-! ## The record builder (R132, R137-R139) -/

/-- What reading a record changes: segment memory, the mask points' tables, and a free value for a sample that stands nowhere. -/
def recordParts (x : Comp) : Prop := x = .free ∨ memParts 2 x ∨ memParts 5 x

theorem State.readMask_touch {old : List (Nat × Nat × Nat)} {b j : Nat} {x : Option (BitVec 16)} (h : Touch recordParts s u) :
    Touch recordParts s (u.readMask old b j x).2 := by
  unfold State.readMask
  split
  · exact h
  · exact Touch.ite2 h (Touch.ite2 (State.tableCw_touch h fun _ hx => .inr (.inr hx)) h)

/-- A record's next sample: what it adds, and how the reading goes on. -/
theorem State.readRecord_succ (s : State) (old : List (Nat × Nat × Nat)) (c sample i n off k : Nat) (q : RecSum) :
    ∃ q' : RecSum, q'.data = (s.readSample c ((sample + i : Nat) : Int)).1.getD 0xE000 :: q.data ∧
      State.readRecord (k + 1) s old c sample i n off q = State.readRecord k
        ((s.readSample c ((sample + i : Nat) : Int)).2.readMask old (c / 16) (off + i) (s.readSample c ((sample + i : Nat) : Int)).1).2
        old c sample (i + 1) n off q' := by
  refine ⟨_, ?_, rfl⟩
  cases (s.readSample c ((sample + i : Nat) : Int)).1 <;> rfl

theorem State.readRecord_touch {old : List (Nat × Nat × Nat)} {c sample i n off k : Nat} {q : RecSum} (h : Touch recordParts s u) :
    Touch recordParts s (State.readRecord k u old c sample i n off q).2 := by
  induction k generalizing u i q with
  | zero => exact h
  | succ k ih =>
    obtain ⟨q', -, hq⟩ := u.readRecord_succ old c sample i n off k q
    rw [hq]
    exact ih (State.readMask_touch (State.readSample_touch h (fun _ hx => .inr (.inl hx)) (.inl rfl)))

/-- Each sample adds one container. -/
theorem State.readRecord_length (s : State) (old : List (Nat × Nat × Nat)) (c sample i n off k : Nat) (q : RecSum) :
    (State.readRecord k s old c sample i n off q).1.data.length = q.data.length + k := by
  induction k generalizing s i q with
  | zero => rfl
  | succ k ih =>
    obtain ⟨q', hdata, hq⟩ := s.readRecord_succ old c sample i n off k q
    rw [hq, ih, hdata, List.length_cons]
    omega

/-- The containers read do not depend on the flags gathered before. -/
theorem State.readRecord_data_congr (s : State) (old : List (Nat × Nat × Nat)) (c sample i n off k : Nat) {p q : RecSum}
    (h : p.data = q.data) :
    (State.readRecord k s old c sample i n off p).1.data = (State.readRecord k s old c sample i n off q).1.data := by
  induction k generalizing s i p q with
  | zero => exact h
  | succ k ih =>
    obtain ⟨p', hp, hpe⟩ := s.readRecord_succ old c sample i n off k p
    obtain ⟨q', hq, hqe⟩ := s.readRecord_succ old c sample i n off k q
    rw [hpe, hqe]
    exact ih _ _ (by rw [hp, hq, h])

/-- The container of the next sample comes before those read after it, 0xE000 for a poisoned one (R137, R138). -/
theorem State.readRecord_data (s : State) (old : List (Nat × Nat × Nat)) (c sample i n off k : Nat) (q : RecSum) :
    (State.readRecord (k + 1) s old c sample i n off q).1.data = (State.readRecord k
      ((s.readSample c ((sample + i : Nat) : Int)).2.readMask old (c / 16) (off + i) (s.readSample c ((sample + i : Nat) : Int)).1).2
      old c sample (i + 1) n off { q with data := (s.readSample c ((sample + i : Nat) : Int)).1.getD 0xE000 :: q.data }).1.data := by
  obtain ⟨q', hdata, hq⟩ := s.readRecord_succ old c sample i n off k q
  rw [hq]
  exact State.readRecord_data_congr _ _ _ _ _ _ _ _ hdata

/-- Four containers to a word. -/
theorem packContainers_length (k : Nat) (l : List (BitVec 16)) (h : l.length ≤ 4 * k) : (packContainers k l).length = (l.length + 3) / 4 := by
  induction k generalizing l with
  | zero => simp [List.eq_nil_of_length_eq_zero (show l.length = 0 by omega), packContainers]
  | succ k ih =>
    rw [packContainers]
    cases l with
    | nil => rfl
    | cons x l =>
      rw [if_neg (by simp), List.length_cons, ih _ (by simp only [List.length_drop]; omega)]
      simp only [List.length_drop, List.length_cons] at h ⊢
      omega

/-! ### Record headers (R137) -/

theorem wget_ofNat (v lo n : Nat) : wget (BitVec.ofNat 64 v) lo n = v % 2 ^ 64 / 2 ^ lo % 2 ^ n := by
  rw [wget, nget, BitVec.toNat_ofNat, Nat.shiftRight_eq_div_pow]

/-- The first word of a record header, by its fields. -/
theorem recordWord_fields {cell n pos src flags : Nat} (hc : cell < 2048) (hn : n < 8192) (hp : pos < 131072) (hs : src < 8)
    (hf : flags < 65536) {w : Word} (hw : w = BitVec.ofNat 64 (5 * 2 ^ 60 + cell * 2 ^ 49 + n * 2 ^ 36 + pos * 2 ^ 19 + src * 2 ^ 16 + flags)) :
    wget w 60 4 = 5 ∧ wget w 49 11 = cell ∧ wget w 36 13 = n ∧ wget w 16 3 = src ∧ wget w 15 1 = flags / 2 ^ 15 % 2 ∧
      wget w 14 1 = flags / 2 ^ 14 % 2 ∧ wget w 12 1 = flags / 2 ^ 12 % 2 := by
  subst hw
  simp only [wget_ofNat]
  omega

theorem unsigned_lt (n : Nat) (v : Int) : unsigned n v < 2 ^ n := by
  have hpos := Nat.two_pow_pos n
  have hlt := Int.emod_lt_of_pos v (show (0 : Int) < (2 ^ n : Nat) by exact_mod_cast hpos)
  have hnn := Int.emod_nonneg v (show ((2 ^ n : Nat) : Int) ≠ 0 by exact_mod_cast hpos.ne')
  rw [unsigned]
  omega

/-! ### The record of a cell (R135, R137) -/

/-- The first sample that a record delivers: of one longer than the memory the last 4,096 stand (R134). -/
def Rec.readFirst (r : Rec) : Nat := max r.first (r.last - 4095)

/-- The number of samples that a record delivers. -/
def Rec.readCount (r : Rec) : Nat := r.last + 1 - r.readFirst

/-- The samples of a record as they are read for a cell. -/
def State.recordSum (s : State) (b c : Nat) (r : Rec) : RecSum × State :=
  State.readRecord r.readCount s r.points c r.readFirst 0 r.readCount
    ((r.readFirst : Int) - ((r.t0 : Int) - s.cfgF (C.pre b))).toNat {}

/-- What the header and the samples of a record say of it. -/
structure RecordWords (s : State) (b c : Nat) (r : Rec) (ws : List PWord) : Prop where
  length : ws.length = 3 + (r.readCount + 3) / 4
  fields : (ws[0]?.map fun p => (wget p.w 60 4, wget p.w 49 11, wget p.w 36 13, wget p.w 16 3, wget p.w 15 1, wget p.w 14 1)) =
    some (5, c, r.readCount, r.src.toNat, boolNat r.preShort, boolNat r.long)
  trigTime : (ws[1]?.map fun p => p.w.toNat) = some r.trigTime.toNat
  firstCoarse : (ws[2]?.map fun p => wget p.w 0 48) = some (s.sampleTick r.readFirst).toNat
  samples : ws.drop 3 = (packContainers ((r.readCount + 3) / 4) (s.recordSum b c r).1.data.reverse).map pw

theorem State.recordSum_touch (s : State) (b c : Nat) (r : Rec) : Touch recordParts s (s.recordSum b c r).2 :=
  State.readRecord_touch (Touch.refl _ s)

theorem State.recordSum_sampleTick (s : State) (b c : Nat) (r : Rec) (n : Nat) : (s.recordSum b c r).2.sampleTick n = s.sampleTick n := by
  have htime : (s.recordSum b c r).2.time = s.time :=
    (s.recordSum_touch b c r).same (c := .time) (by simp [recordParts, memParts, logParts, storeParts])
  have hticks : (s.recordSum b c r).2.ticks = s.ticks :=
    (s.recordSum_touch b c r).same (c := .ticks) (by simp [recordParts, memParts, logParts, storeParts])
  rw [State.sampleTick, htime, hticks, State.sampleTick]

theorem boolNat_le (x : Bool) : boolNat x ≤ 1 := by cases x <;> decide

theorem State.recordSum_packed (s : State) (b c : Nat) (r : Rec) :
    (packContainers ((r.readCount + 3) / 4) (s.recordSum b c r).1.data.reverse).length = (r.readCount + 3) / 4 := by
  have hdata : (s.recordSum b c r).1.data.reverse.length = r.readCount := by
    rw [List.length_reverse, State.recordSum, State.readRecord_length]
    exact Nat.zero_add _
  rw [packContainers_length _ _ (by omega), hdata]

/-- The flags of a record header. -/
def recordFlags (preShort wrapped maskFail sat settle hold poison : Bool) : Nat :=
  boolNat preShort * 2 ^ 15 + boolNat wrapped * 2 ^ 14 + boolNat maskFail * 2 ^ 11 + boolNat sat * 2 ^ 10 + boolNat settle * 2 ^ 9 +
    boolNat hold * 2 ^ 8 + boolNat poison

theorem recordFlags_fields (preShort wrapped maskFail sat settle hold poison : Bool) :
    recordFlags preShort wrapped maskFail sat settle hold poison < 65536 ∧
    recordFlags preShort wrapped maskFail sat settle hold poison / 2 ^ 15 % 2 = boolNat preShort ∧
    recordFlags preShort wrapped maskFail sat settle hold poison / 2 ^ 14 % 2 = boolNat wrapped := by
  have h1 := boolNat_le preShort
  have h2 := boolNat_le wrapped
  have h3 := boolNat_le maskFail
  have h4 := boolNat_le sat
  have h5 := boolNat_le settle
  have h6 := boolNat_le hold
  have h7 := boolNat_le poison
  unfold recordFlags
  omega

/-- The words of a record as it is built: its header and the samples. -/
def State.builtWords (s : State) (b c : Nat) (r : Rec) : List PWord :=
  let u := (s.recordSum b c r).2
  let sum := (s.recordSum b c r).1
  (recordHeader c r.readCount ((r.t0 : Int) - r.readFirst) r.src.toNat
    (recordFlags r.preShort r.long sum.violation.isSome sum.sat sum.settle (u.inHoldover (c / 256) (stampCoarse r.trigTime) ||
      u.heldDuring (c / 256) (u.sampleTick r.readFirst) (u.sampleTick r.last)) (sum.poisonMask ≠ 0))
    r.trigTime.toNat sum.poisonMask (u.sampleTick r.readFirst).toNat ++ packContainers ((r.readCount + 3) / 4) sum.data.reverse).map pw

theorem State.builtWords_record {c : Nat} (s : State) (b : Nat) (r : Rec) (hc : c < 2048) : RecordWords s b c r (s.builtWords b c r) := by
  have hcount : r.readCount < 8192 := by simp only [Rec.readCount, Rec.readFirst]; omega
  have htrig : r.trigTime.toNat < 2 ^ 61 := r.trigTime.isLt
  have htick : (s.sampleTick r.readFirst).toNat < 2 ^ 48 := (s.sampleTick r.readFirst).isLt
  unfold State.builtWords
  extract_lets u sum
  rw [show u.sampleTick r.readFirst = s.sampleTick r.readFirst from s.recordSum_sampleTick b c r _]
  generalize (u.inHoldover _ _ || u.heldDuring _ _ _) = hold
  obtain ⟨hflags, hpre, hlong⟩ := recordFlags_fields r.preShort r.long sum.violation.isSome sum.sat sum.settle hold (sum.poisonMask ≠ 0)
  obtain ⟨h60, h49, h36, h16, h15, h14, -⟩ := recordWord_fields hc hcount (unsigned_lt 17 ((r.t0 : Int) - r.readFirst))
    (show r.src.toNat < 8 from r.src.isLt) hflags rfl
  refine ⟨?_, congrArg some ?_, congrArg some ?_, congrArg some ?_, rfl⟩
  · rw [List.length_map, List.length_append, s.recordSum_packed b c r]
    rfl
  · simp only [pw, h60, h49, h36, h16, h15, h14, hpre, hlong]
  · simp only [pw, BitVec.toNat_ofNat]
    omega
  · simp only [pw, wget_ofNat]
    omega

theorem State.buildRecord_stale {b c : Nat} {r : Rec} (h : (s.cell c).allFull r.readFirst r.last = false) :
    s.buildRecord b c r = ((⟨r.key, r.trigTime, c, emptyRecord s c r 12, true⟩, none), s) :=
  if_pos (show ¬ (s.cell c).allFull r.readFirst r.last = true by simp [h])

theorem State.buildRecord_full {b c : Nat} {r : Rec} (h : (s.cell c).allFull r.readFirst r.last = true) : s.buildRecord b c r =
    ((⟨r.key, r.trigTime, c, s.builtWords b c r, true⟩, (s.recordSum b c r).1.violation), (s.recordSum b c r).2) :=
  if_neg (not_not.2 h)

/-- The words of the record of a cell that was not in FULL throughout: an empty one, STALE (R135). -/
theorem emptyRecord_stale {c : Nat} (s : State) (r : Rec) (hc : c < 2048) : (emptyRecord s c r 12).length = 3 ∧
    ((emptyRecord s c r 12)[0]?.map fun p => (wget p.w 60 4, wget p.w 49 11, wget p.w 36 13, wget p.w 12 1)) = some (5, c, 0, 1) := by
  have hhold := boolNat_le (s.inHoldover (c / 256) (stampCoarse r.trigTime))
  have hflags : ∀ k ≤ 1, 2 ^ 12 + k * 2 ^ 8 + (if r.preShort = true ∧ 12 = 12 then 2 ^ 15 else 0) < 65536 ∧
      (2 ^ 12 + k * 2 ^ 8 + (if r.preShort = true ∧ 12 = 12 then 2 ^ 15 else 0)) / 2 ^ 12 % 2 = 1 := by
    intro k hk
    split <;> omega
  obtain ⟨hlow, hstale⟩ := hflags _ hhold
  obtain ⟨h60, h49, h36, -, -, -, h12⟩ := recordWord_fields (n := 0) hc (by omega) (unsigned_lt 17 0)
    (show r.src.toNat < 8 from r.src.isLt) hlow rfl
  exact ⟨rfl, congrArg some (Prod.ext h60 (Prod.ext h49 (Prod.ext h36 (h12.trans hstale))))⟩

/-- The words that a cell's record has, in FULL throughout or not. -/
theorem State.buildRecord_words {c : Nat} (s : State) (b : Nat) (r : Rec) (hc : c < 2048) :
    ((s.cell c).allFull r.readFirst r.last = true → RecordWords s b c r (s.buildRecord b c r).1.1.words) ∧
    ((s.cell c).allFull r.readFirst r.last = false → (s.buildRecord b c r).1.1.words.length = 3 ∧
      ((s.buildRecord b c r).1.1.words[0]?.map fun p => (wget p.w 60 4, wget p.w 49 11, wget p.w 36 13, wget p.w 12 1)) =
        some (5, c, 0, 1)) := by
  refine ⟨fun h => ?_, fun h => ?_⟩
  · rw [State.buildRecord_full h]
    exact s.builtWords_record b r hc
  · rw [State.buildRecord_stale h]
    exact emptyRecord_stale s r hc

/-- The unit of a cell's record. -/
theorem State.buildRecord_unit (s : State) (b c : Nat) (r : Rec) : (s.buildRecord b c r).1.1.cell = c ∧
    (s.buildRecord b c r).1.1.key = r.key ∧ (s.buildRecord b c r).1.1.stamp = r.trigTime ∧ (s.buildRecord b c r).1.1.isRecord = true := by
  cases h : (s.cell c).allFull r.readFirst r.last with
  | true => rw [State.buildRecord_full h]; exact ⟨rfl, rfl, rfl, rfl⟩
  | false => rw [State.buildRecord_stale h]; exact ⟨rfl, rfl, rfl, rfl⟩

theorem State.buildRecord_block (s : State) (b c : Nat) (r : Rec) (q : Nat) : (s.buildRecord b c r).2.block q = s.block q := by
  cases h : (s.cell c).allFull r.readFirst r.last with
  | true =>
    rw [State.buildRecord_full h]
    exact (s.recordSum_touch b c r).same (c := .block q) (by simp [recordParts, not_memParts_block])
  | false => rw [State.buildRecord_stale h]

/-! ## RECORD_READ (R125, R132, R135, R141) -/

theorem State.setF_block (s : State) (f : RF) (v q : Nat) : (s.setF f v).block q = s.block q := rfl
theorem State.setFlag_block (s : State) (f : FlagF) (q : Nat) : (s.setFlag f).block q = s.block q := rfl

/-- The block freezes on a mask violation, and holds what its Frost notice names (R140). -/
def State.maskFreezes (s : State) (b c j : Nat) (x : BitVec 61) : State :=
  (s.setBlock b { s.block b with frost := some (c, j, x) }).setF (R.acqState b) 5

theorem State.maskFreezes_records (s : State) (b c j : Nat) (x : BitVec 61) :
    ((s.maskFreezes b c j x).block b).recs = (s.block b).recs ∧ ((s.maskFreezes b c j x).block b).records = (s.block b).records := by
  rw [State.maskFreezes, State.setF_block, State.setBlock_block_same]
  exact ⟨rfl, rfl⟩

theorem State.maskHit_eq (s : State) (b c j : Nat) (x : BitVec 61) : s.maskHit b c j x =
    (let u := s.setFlag (R.maskFail b)
     if u.cfgF (C.maskAction b) ≠ 2 ∨ u.getF (R.acqState b) = 5 ∨ u.getF (R.acqState b) = 6 then u
     else if (recording ((u.maskFreezes b c j x).block b)).isEmpty = true then (u.maskFreezes b c j x).frostEntry b
     else u.maskFreezes b c j x) := rfl

/-- A mask violation leaves the block's records (R140). -/
theorem State.maskHit_records (s : State) (b c j : Nat) (x : BitVec 61) :
    ((s.maskHit b c j x).block b).recs = (s.block b).recs ∧ ((s.maskHit b c j x).block b).records = (s.block b).records := by
  obtain ⟨hrecs, hrecords⟩ := (s.setFlag (R.maskFail b)).maskFreezes_records b c j x
  obtain ⟨-, hrecs', hrecords'⟩ := ((s.setFlag (R.maskFail b)).maskFreezes b c j x).frostEntry_halted b
  rw [State.setFlag_block] at hrecs hrecords
  rw [State.maskHit_eq]
  dsimp only
  split
  · rw [State.setFlag_block]
    exact ⟨rfl, rfl⟩
  · split
    · exact ⟨hrecs'.trans hrecs, hrecords'.trans hrecords⟩
    · exact ⟨hrecs, hrecords⟩

/-- A unit joins the records of a block that wait. -/
def State.queueUnit (s : State) (b : Nat) (u : Unit') : State := s.setBlock b { s.block b with records := (s.block b).records ++ [u] }

theorem State.queueUnit_records (s : State) (b : Nat) (u : Unit') : ((s.queueUnit b u).block b).recs = (s.block b).recs ∧
    ((s.queueUnit b u).block b).records = (s.block b).records ++ [u] := by
  rw [State.queueUnit, State.setBlock_block_same]
  exact ⟨rfl, rfl⟩

/-- The record of a cell is built and queued, and its mask violation has its consequence. -/
def State.recordQueued (s : State) (b c : Nat) (r : Rec) : State :=
  let x := s.buildRecord b c r
  match x.1.2 with
  | some j => (x.2.queueUnit b x.1.1).maskHit b c j r.trigTime
  | none => x.2.queueUnit b x.1.1

theorem State.recordQueued_records (s : State) (b c : Nat) (r : Rec) :
    ((s.recordQueued b c r).block b).recs = (s.block b).recs ∧
      ((s.recordQueued b c r).block b).records = (s.block b).records ++ [(s.buildRecord b c r).1.1] := by
  obtain ⟨hrecs, hrecords⟩ := (s.buildRecord b c r).2.queueUnit_records b (s.buildRecord b c r).1.1
  rw [State.buildRecord_block] at hrecs hrecords
  unfold State.recordQueued
  dsimp only
  split
  · next j _ =>
    obtain ⟨hrecs', hrecords'⟩ := ((s.buildRecord b c r).2.queueUnit b (s.buildRecord b c r).1.1).maskHit_records b c j r.trigTime
    exact ⟨hrecs'.trans hrecs, hrecords'.trans hrecords⟩
  · exact ⟨hrecs, hrecords⟩

theorem State.buildAll_cons (s : State) (b : Nat) (r : Rec) (c : Nat) (l : List Nat) :
    s.buildAll b r (c :: l) = (s.recordQueued b c r).buildAll b r l := rfl

/-- The units that a record delivers: one for each cell of a list, with its key and trigger time. -/
structure Delivered (s : State) (b : Nat) (r : Rec) (l : List Nat) (us : List Unit') : Prop where
  cells : us.map (·.cell) = l
  marks : ∀ u ∈ us, u.key = r.key ∧ u.stamp = r.trigTime ∧ u.isRecord = true
  first : ∀ c cs, l = c :: cs → us.head? = some (s.buildRecord b c r).1.1

/-- The records of the cells stand behind those that wait. -/
theorem State.buildAll_delivers (b : Nat) (r : Rec) (l : List Nat) (s : State) : ((s.buildAll b r l).block b).recs = (s.block b).recs ∧
    ∃ us, ((s.buildAll b r l).block b).records = (s.block b).records ++ us ∧ Delivered s b r l us := by
  induction l generalizing s with
  | nil => exact ⟨rfl, [], (List.append_nil _).symm, rfl, by simp, by simp⟩
  | cons c l ih =>
    obtain ⟨hcell, hmarks⟩ := s.buildRecord_unit b c r
    obtain ⟨hrecs, hrecords⟩ := s.recordQueued_records b c r
    obtain ⟨hrest, us, hus, hdel⟩ := ih (s.recordQueued b c r)
    rw [State.buildAll_cons]
    refine ⟨hrest.trans hrecs, (s.buildRecord b c r).1.1 :: us, by rw [hus, hrecords, List.append_assoc, List.singleton_append], ?_, ?_, ?_⟩
    · rw [List.map_cons, hcell, hdel.cells]
    · intro u hu
      rcases List.mem_cons.1 hu with rfl | hu
      · exact hmarks
      · exact hdel.marks u hu
    · rintro c' cs ⟨⟩
      rfl

/-- No page of a block is held by a record. -/
def Block.Free (v : Block) (id : Nat) : Prop := ∀ p, id ∉ (Tab.get {} v.pages p).holders

/-- A read record holds no page any more, and its entry says so (R132). -/
theorem State.freePagesOf_spec (s : State) (b id : Nat) : ((s.freePagesOf b id).block b).Free id ∧
    ((s.freePagesOf b id).block b).records = (s.block b).records ∧
    ∀ x ∈ ((s.freePagesOf b id).block b).recs, ∃ y ∈ (s.block b).recs, x = if y.id = id then { y with read := true } else y := by
  unfold State.freePagesOf
  extract_lets v pages recs kept
  rw [State.setBlock_block_same]
  refine ⟨fun p => ?_, rfl, fun x hx => ?_⟩
  · rcases Tab.get_mem_or ({} : Page) (pages.filter fun e => e.2 ≠ {}) p with h | ⟨e, he, h⟩
    · show id ∉ (Tab.get {} (pages.filter fun e => e.2 ≠ {}) p).holders
      rw [h]
      exact List.not_mem_nil
    · show id ∉ (Tab.get {} (pages.filter fun e => e.2 ≠ {}) p).holders
      obtain ⟨e', -, rfl⟩ := List.mem_map.1 (List.mem_filter.1 he).1
      rw [← h]
      simp
  · obtain ⟨y, hy, rfl⟩ := List.mem_map.1 (List.mem_filter.1 hx).1
    exact ⟨y, hy, rfl⟩

theorem State.settlePages_block (s : State) (b q : Nat) : (s.settlePages b).block q = s.block q :=
  (State.settlePages_touch (P := (· = .reg (0x10000 + 0x40 * b))) (Touch.refl _ s) rfl).same (c := .block q) (by simp)

/-- A page begun is held by records being recorded alone. -/
theorem Block.beginPage_free {v : Block} {id : Nat} (p n : Nat) (h : v.Free id) (hc : ∀ x ∈ v.recs, x.id = id → x.complete = true) :
    (v.beginPage p n).Free id := by
  have hids : id ∉ (recording v).map (·.id) := by
    rintro hmem
    obtain ⟨x, hx, rfl⟩ := List.mem_map.1 hmem
    obtain ⟨hx, hinc⟩ := List.mem_filter.1 hx
    simp [hc x hx rfl] at hinc
  intro q
  unfold Block.beginPage
  dsimp only
  by_cases hq : q = p
  · rw [hq, Tab.get_set_same]
    simp only [List.mem_append, List.mem_filter, not_or]
    exact ⟨fun hm => h p hm.1, hids⟩
  · rw [Tab.get_set_other _ _ _ hq]
    exact h q

/-- A block that leaves a gap keeps its records, and gives no page to a complete one (R126). -/
theorem State.resumeGap_spec (s : State) (b : Nat) : ((s.resumeGap b).block b).recs = (s.block b).recs ∧
    ((s.resumeGap b).block b).records = (s.block b).records ∧
    ∀ id, (s.block b).Free id → (∀ x ∈ (s.block b).recs, x.id = id → x.complete = true) → ((s.resumeGap b).block b).Free id := by
  unfold State.resumeGap
  dsimp only
  split
  · split
    · next p _ =>
      rw [State.startSamplers, State.setBlock_block_same]
      exact ⟨rfl, rfl, fun id h hc => Block.beginPage_free p (s.lastSample + 1) h hc⟩
    · exact ⟨rfl, rfl, fun _ h _ => h⟩
  · exact ⟨rfl, rfl, fun _ h _ => h⟩

theorem recordRead_eq {b : Fin 128} {r : Rec} {l : List Rec} (h : (s.block b).recs = r :: l) (hc : r.complete = true)
    (hr : r.read = false) : exec (.recordRead b) s = .next ((((s.buildAll b r (recCells b r)).freePagesOf b r.id).settlePages b).resumeGap b) := by
  show execRecordRead b s = _
  unfold execRecordRead
  dsimp only
  rw [h, List.find?_cons_of_pos (by simp [hc, hr])]

/-- A complete record that is not read delivers its cells' records, is read, and holds no page any more. -/
theorem recordRead_delivers {b : Fin 128} {r : Rec} {l : List Rec} (h : (s.block b).recs = r :: l) (hc : r.complete = true)
    (hr : r.read = false) : ∃ t us, exec (.recordRead b) s = .next t ∧ (t.block b).records = (s.block b).records ++ us ∧
      Delivered s b r (recCells b r) us ∧ (∀ x ∈ (t.block b).recs, x.id = r.id → x.read = true) ∧
      ((∀ x ∈ l, x.id = r.id → x.complete = true) → (t.block b).Free r.id) := by
  obtain ⟨hrecs, us, hus, hdel⟩ := s.buildAll_delivers b r (recCells b r)
  obtain ⟨hfree, hrecords, hread⟩ := (s.buildAll b r (recCells b r)).freePagesOf_spec b r.id
  obtain ⟨hrecs', hrecords', hfree'⟩ := (((s.buildAll b r (recCells b r)).freePagesOf b r.id).settlePages b).resumeGap_spec b
  rw [State.settlePages_block] at hrecs' hrecords' hfree'
  rw [hrecs, h] at hread
  refine ⟨_, us, recordRead_eq h hc hr, by rw [hrecords', hrecords, hus], hdel, fun x hx hid => ?_, fun hl => hfree' _ hfree fun x hx hid => ?_⟩
  · obtain ⟨y, -, rfl⟩ := hread x (hrecs' ▸ hx)
    split at hid
    · next hy => rw [if_pos hy]
    · next hy => exact absurd hid hy
  · obtain ⟨y, hy, rfl⟩ := hread x hx
    have hyc : y.id = r.id → y.complete = true := by
      rcases List.mem_cons.1 hy with rfl | hy
      · exact fun _ => hc
      · exact hl y hy
    split at hid
    · next hid' => rw [if_pos hid']; exact hyc hid'
    · next hid' => exact absurd hid hid'

theorem recordRead_idle {b : Fin 128} (h : ∀ r ∈ (s.block b).recs, r.complete = false ∨ r.read = true) :
    exec (.recordRead b) s = .next s := by
  have hfind : ((s.block b).recs.find? fun r => r.complete && !r.read) = none := by
    rw [List.find?_eq_none]
    intro r hr
    rcases h r hr with h | h <;> simp [h]
  show execRecordRead b s = _
  unfold execRecordRead
  dsimp only
  rw [hfind]

/-- Settles O27: a record's units are delivered one by one, and the words of each are those of its header and its samples. -/
theorem recordReadDeliversOnePerCell : Obligations.RecordReadDeliversOnePerCell := by
  refine ⟨fun s b r l h hc hr => ?_, fun s b h => recordRead_idle h, fun s b c r hlt => ?_, fun s old k c sample i n off => ?_⟩
  · obtain ⟨t, us, hexec, hus, ⟨hcells, hmarks, hfirst⟩, hread, hfree⟩ := recordRead_delivers h hc hr
    exact ⟨t, hexec, ⟨us, hus, hcells, hmarks, hfirst⟩, hread, hfree⟩
  · obtain ⟨hfull, hstale⟩ := s.buildRecord_words b r hlt
    refine ⟨fun h => ?_, hstale⟩
    obtain ⟨hlength, hfields, htrig, hcoarse, hsamples⟩ := hfull h
    exact ⟨hlength, hfields, htrig, hcoarse, hsamples⟩
  · exact s.readRecord_data old c sample i n off k

end Sys2Proof.Machine

namespace Sys2Proof.Machine

/-! ## Which contexts are open (R196, R202)

Reads, resets and splices mark entries of contexts, and none of them opens a context or reorders them: the keys of the open contexts stay. -/

/-- The keys of the open contexts, oldest first. -/
def State.ctxKeys (s : State) : List MergeKey := s.pool.ctxs.map (·.key)

section
variable {s : State}

theorem ctxKeys_ite {c : Prop} {_ : Decidable c} {a b : State} (ha : a.ctxKeys = s.ctxKeys) (hb : b.ctxKeys = s.ctxKeys) :
    (if c then a else b).ctxKeys = s.ctxKeys := by split <;> assumption

theorem ctxKeys_foldl {α : Type} {f : State → α → State} (hf : ∀ v a, (f v a).ctxKeys = v.ctxKeys) (l : List α) (s : State) :
    (l.foldl f s).ctxKeys = s.ctxKeys := by
  induction l generalizing s with
  | nil => rfl
  | cons a l ih => exact (ih _).trans (hf s a)

theorem ctxKeys_foldl_snd {α β : Type} {f : β × State → α → β × State} (hf : ∀ r a, (f r a).2.ctxKeys = r.2.ctxKeys) (l : List α)
    (r : β × State) : (l.foldl f r).2.ctxKeys = r.2.ctxKeys := by
  induction l generalizing r with
  | nil => rfl
  | cons a l ih => exact (ih _).trans (hf r a)

end

section
variable (s : State)

theorem State.ctxKeys_length : s.ctxKeys.length = s.pool.ctxs.length := List.length_map _

/-! ### Items and code words -/

@[simp] theorem State.incBy_ctxKeys (f : RF) (n : Nat) : (s.incBy f n).ctxKeys = s.ctxKeys := rfl
@[simp] theorem State.inc_ctxKeys (f : RF) : (s.inc f).ctxKeys = s.ctxKeys := rfl
@[simp] theorem State.setFlag_ctxKeys (f : FlagF) : (s.setFlag f).ctxKeys = s.ctxKeys := rfl
@[simp] theorem State.setMem_ctxKeys (m : Nat) (v : Mem) : (s.setMem m v).ctxKeys = s.ctxKeys := rfl
@[simp] theorem State.remember_ctxKeys (n : Nat) : (s.remember n).ctxKeys = s.ctxKeys := rfl
@[simp] theorem State.drawn_ctxKeys : s.drawn.ctxKeys = s.ctxKeys := rfl
@[simp] theorem State.setItems_ctxKeys (l : List Item) : (s.setItems l).ctxKeys = s.ctxKeys := rfl
@[simp] theorem State.unchoose_ctxKeys (l : List Nat) : (s.unchoose l).ctxKeys = s.ctxKeys := rfl
@[simp] theorem State.viewsKeep_ctxKeys (id : Nat) (l : List Nat) : (s.viewsKeep id l).ctxKeys = s.ctxKeys := rfl
@[simp] theorem State.freeItem_ctxKeys (id : Nat) : (s.freeItem id).ctxKeys = s.ctxKeys := rfl
@[simp] theorem State.cutItems_ctxKeys (l : List Nat) : (s.cutItems l).ctxKeys = s.ctxKeys := rfl
theorem State.ctxKeys_pair (v : PairSt) : ({ s with pair := v } : State).ctxKeys = s.ctxKeys := rfl
@[simp] theorem State.msix_ctxKeys (v : Nat) : (s.msix v).ctxKeys = s.ctxKeys := ctxKeys_ite rfl (ctxKeys_ite rfl rfl)

@[simp] theorem State.throttleUpdate_ctxKeys : s.throttleUpdate.ctxKeys = s.ctxKeys := by
  obtain ⟨a, n, h⟩ := s.throttleUpdate_pool
  rw [State.ctxKeys, h, State.ctxKeys]

@[simp] theorem State.loseEntries_ctxKeys (l : List Nat) : (s.loseEntries l).ctxKeys = s.ctxKeys := by
  simp [State.ctxKeys, State.loseEntries, Function.comp_def]

@[simp] theorem State.countLost_ctxKeys (q n : Nat) : (s.countLost q n).ctxKeys = s.ctxKeys := ctxKeys_ite rfl rfl

@[simp] theorem State.loseItem_ctxKeys (i : Item) : (s.loseItem i).ctxKeys = s.ctxKeys :=
  (State.countLost_ctxKeys _ _ _).trans (State.loseEntries_ctxKeys _ _)

theorem State.allocSlot_ctxKeys {n : Nat} {t : State} (h : s.allocSlot = some (n, t)) : t.ctxKeys = s.ctxKeys := by
  rw [State.allocSlot] at h
  split at h <;> cases h
  rfl

theorem State.overwrite_ctxKeys (fuel q : Nat) : (State.overwrite fuel s q).2.ctxKeys = s.ctxKeys := by
  induction fuel generalizing s with
  | zero => rfl
  | succ k ih =>
    rw [State.overwrite]
    split
    · rfl
    · dsimp only
      split
      · exact s.loseItem_ctxKeys _
      · exact (ih _).trans (s.loseItem_ctxKeys _)

theorem State.takeSlot_ctxKeys (q : Nat) : (s.takeSlot q).2.2.ctxKeys = s.ctxKeys := by
  rw [State.takeSlot]
  split
  · next r hr =>
    split at hr
    · exact s.allocSlot_ctxKeys hr
    · cases hr
  · split
    · rfl
    · have ho := s.overwrite_ctxKeys s.pool.items.length q
      split <;> (next e => rw [e] at ho; exact ho)

theorem State.growItem_ctxKeys (fuel id n : Nat) : (State.growItem fuel s id n).2.ctxKeys = s.ctxKeys := by
  induction fuel generalizing s with
  | zero => rfl
  | succ k ih =>
    rw [State.growItem]
    split
    · rfl
    · next i _ =>
      have ht := s.takeSlot_ctxKeys i.queue
      split
      · rfl
      · split <;> (rename_i e; rw [e] at ht)
        · exact (ih _).trans ht
        · exact ht

@[simp] theorem State.completeItem_ctxKeys (id : Nat) : (s.completeItem id).ctxKeys = s.ctxKeys := by
  unfold State.completeItem
  split <;> rfl

@[simp] theorem State.storeRaw_ctxKeys (q : Nat) (c : Cls) (ws : List PWord) : (s.storeRaw q c ws).ctxKeys = s.ctxKeys := by
  have hg : _ = s.ctxKeys := State.growItem_ctxKeys ((s.newItem q c).modItem s.pool.nextItem fun i => { i with words := ws })
    (slotsFor ws.length + 1) s.pool.nextItem (slotsFor ws.length)
  unfold State.storeRaw
  dsimp only
  split
  · rfl
  · split <;> (rename_i e; rw [e] at hg)
    · simpa using hg
    · simpa using hg
    · exact hg

@[simp] theorem State.noticeRaw_ctxKeys (code : Nat) (l : List Byte) : (s.noticeRaw code l).ctxKeys = s.ctxKeys :=
  State.storeRaw_ctxKeys _ _ _ _

@[simp] theorem State.logEntry_ctxKeys (a b c d e f g : Nat) : (s.logEntry a b c d e f g).ctxKeys = s.ctxKeys :=
  State.storeRaw_ctxKeys _ _ _ _

theorem State.memNotice_ctxKeys (m : Nat) : (s.memNotice m).ctxKeys = s.ctxKeys := ctxKeys_ite rfl (State.noticeRaw_ctxKeys _ _ _)

@[simp] theorem State.memEvent_ctxKeys (m : Nat) (f : FlagF) (c : BitVec 3) : (s.memEvent m f c).ctxKeys = s.ctxKeys := by
  rw [State.memEvent, State.memNotice_ctxKeys, State.setMem_ctxKeys, State.msix_ctxKeys, State.setFlag_ctxKeys]

@[simp] theorem State.correction_ctxKeys (m a b c d e : Nat) : (s.correction m a b c d e).ctxKeys = s.ctxKeys := by
  unfold State.correction
  extract_lets u mac lastAt named supp prot v lv w
  have hv : v.ctxKeys = s.ctxKeys := ctxKeys_ite rfl ((State.remember_ctxKeys _ _).trans (State.logEntry_ctxKeys _ _ _ _ _ _ _ _))
  exact ctxKeys_ite ((State.memEvent_ctxKeys _ _ _ _).trans hv) hv

@[simp] theorem State.ueFound_ctxKeys (m a o : Nat) (f : RF) : (s.ueFound m a o f).ctxKeys = s.ctxKeys := by
  simp [State.ueFound]

@[simp] theorem State.setRaw_ctxKeys (m a : Nat) (c : BitVec 152) : (s.setRaw m a c).ctxKeys = s.ctxKeys := ctxKeys_ite rfl rfl

theorem State.drainEntry_ctxKeys (m : Nat) (e : MbEntry) : (s.drainEntry m e).ctxKeys = s.ctxKeys := by
  unfold State.drainEntry
  extract_lets v u bits merge
  have hset : ∀ c, (u.setRaw m e.addr c).ctxKeys = s.ctxKeys := fun c => u.setRaw_ctxKeys m e.addr c
  refine ctxKeys_ite rfl (ctxKeys_ite (hset _) ?_)
  split
  case h_5 => exact ctxKeys_ite (by simp [hset]) (by simp [hset])
  all_goals simp [hset]

theorem State.drainFor_ctxKeys (m a : Nat) : (s.drainFor m a).ctxKeys = s.ctxKeys := by
  unfold State.drainFor
  split
  · exact s.drainEntry_ctxKeys m _
  · rfl

@[simp] theorem State.readCw_ctxKeys (m a : Nat) : (s.readCw m a).2.ctxKeys = s.ctxKeys := by
  have hd := s.drainFor_ctxKeys m a
  unfold State.readCw
  split
  · rfl
  · dsimp only
    split
    case h_5 => split <;> simp [hd]
    all_goals simp [hd]

@[simp] theorem State.tableCw_ctxKeys (a : Nat) : (s.tableCw a).2.ctxKeys = s.ctxKeys := by
  unfold State.tableCw
  split
  · rfl
  · exact s.readCw_ctxKeys 5 a

@[simp] theorem State.readMap_ctxKeys : s.readMap.ctxKeys = s.ctxKeys := by
  unfold State.readMap
  split
  · rfl
  · exact ctxKeys_foldl (fun v a => ctxKeys_ite rfl (v.tableCw_ctxKeys a)) _ s

/-! ### Resets, and items that leave OUTPUT (R182, R185, R186, R203) -/

@[simp] theorem State.setFail_ctxKeys (cause : Nat) : (s.setFail cause).ctxKeys = s.ctxKeys := ctxKeys_ite rfl rfl

@[simp] theorem State.resetQueue_ctxKeys (q cause : Nat) : (s.resetQueue q cause).ctxKeys = s.ctxKeys := by
  unfold State.resetQueue
  extract_lets ids cut pool v lost logged z near pair r
  have hv : v.ctxKeys = s.ctxKeys := s.cutItems_ctxKeys ids
  have hz : z.ctxKeys = s.ctxKeys := by
    simp only [z, logged, lost, State.noticeRaw_ctxKeys, State.setFlag_ctxKeys, State.drawn_ctxKeys, State.remember_ctxKeys,
      State.logEntry_ctxKeys, State.countLost_ctxKeys, State.loseEntries_ctxKeys]
    exact hv
  have hr : r.ctxKeys = z.ctxKeys := z.ctxKeys_pair _
  rw [State.throttleUpdate_ctxKeys]
  exact ctxKeys_ite ((State.setFail_ctxKeys _ _).trans (hr.trans hz)) (hr.trans hz)

theorem State.tableWrite_ctxKeys (l : List Nat) : (s.tableWrite l).ctxKeys = s.ctxKeys := by
  rw [State.ctxKeys, State.tableWrite_pool, State.ctxKeys]

@[simp] theorem State.checkQueue_ctxKeys (q : Nat) : (s.checkQueue q).ctxKeys = s.ctxKeys := by
  unfold State.checkQueue
  split
  · rfl
  · extract_lets r
    have hr : r.2.ctxKeys = s.ctxKeys := by
      refine ctxKeys_foldl_snd ?_ _ _
      intro r a
      exact r.2.tableCw_ctxKeys a
    exact ctxKeys_ite ((State.resetQueue_ctxKeys _ _ _).trans ((State.tableWrite_ctxKeys _ _).trans hr)) hr

theorem State.releaseItem_ctxKeys (id : Nat) : (s.releaseItem id).ctxKeys = s.ctxKeys := by
  unfold State.releaseItem
  extract_lets u
  have hu : u.ctxKeys = s.ctxKeys := s.checkQueue_ctxKeys 0
  split
  · exact hu
  · simp [hu]

theorem State.trimRetained_ctxKeys : s.trimRetained.ctxKeys = s.ctxKeys :=
  ctxKeys_ite rfl (ctxKeys_foldl (fun v (i : Item) => v.releaseItem_ctxKeys i.id) _ s)

/-- Joining chains rewrites slot headers alone. -/
theorem State.joinChains_pool (l : List (List Nat)) : (s.joinChains l).pool = s.pool := by
  induction l generalizing s with
  | nil => rfl
  | cons a l ih =>
    cases l with
    | nil => rfl
    | cons b l =>
      refine (ih _).trans ?_
      unfold State.setNext State.setRaw
      split
      · split <;> rfl
      · rfl

@[simp] theorem State.spliceReads_ctxKeys (l : List (List Nat)) : (s.spliceReads l).2.ctxKeys = s.ctxKeys := by
  induction l generalizing s with
  | nil => rfl
  | cons a l ih =>
    cases l with
    | nil => rfl
    | cons b l => exact (ih _).trans (s.readCw_ctxKeys _ _)

@[simp] theorem State.spliceMerged_ctxKeys (k : MergeKey) (late : Bool) (rows : List Row) (slot : Nat) :
    (s.spliceMerged k late rows slot).ctxKeys = s.ctxKeys := by
  unfold State.spliceMerged
  extract_lets h table words items chains ids id cls merged u rest pool v w f crc had sigs pair x
  have hv : v.ctxKeys = s.ctxKeys := congrArg (fun v => v.ctxs.map (·.key)) (State.joinChains_pool _ _)
  have hw : w.ctxKeys = s.ctxKeys := ctxKeys_ite ((State.releaseItem_ctxKeys _ _).trans hv) ((State.trimRetained_ctxKeys _).trans hv)
  exact (State.throttleUpdate_ctxKeys _).trans (ctxKeys_ite hw hw)

/-- A context that is spliced is open no more. -/
theorem State.spliceCtx_ctxKeys (c : Ctx) (slot : Nat) : (s.spliceCtx c slot).ctxKeys = s.ctxKeys.filter (· ≠ c.key) := by
  unfold State.spliceCtx
  extract_lets status rows pool u pool' v w
  have hu : u.ctxKeys = s.ctxKeys.filter (· ≠ c.key) := by
    rw [State.ctxKeys, State.ctxKeys, List.filter_map]
    rfl
  have hv : v.ctxKeys = u.ctxKeys := by
    simp only [v]
    split <;> rfl
  have hw : w.ctxKeys = s.ctxKeys.filter (· ≠ c.key) := (State.spliceMerged_ctxKeys _ _ _ _ _).trans (hv.trans hu)
  split <;> exact hw

/-- A close leaves the contexts' keys, or takes its own from them. -/
theorem State.closeCtx_ctxKeys (k : MergeKey) :
    (s.closeCtx k).ctxKeys = s.ctxKeys ∨ (s.closeCtx k).ctxKeys = s.ctxKeys.filter (· ≠ k) := by
  unfold State.closeCtx
  split
  · exact .inl rfl
  · split
    · exact .inl rfl
    · extract_lets u
      have hu : u.ctxKeys = s.ctxKeys := by simp [u]
      split
      · exact .inl hu
      · next c hc =>
        have hk : c.key = k := by simpa using List.find?_some hc
        split
        · exact .inl hu
        · next slot t ha =>
          have ht := (u.allocSlot_ctxKeys ha).trans hu
          extract_lets r
          have hr : r.2.ctxKeys = s.ctxKeys := (State.spliceReads_ctxKeys _ _).trans ht
          split
          · exact .inr (by rw [State.spliceCtx_ctxKeys, hr, hk])
          · exact .inl ((State.resetQueue_ctxKeys _ _ _).trans hr)

end

end Sys2Proof.Machine

namespace Sys2Proof.Machine

variable {s t u : State} {P : Comp → Prop} {k : MergeKey} {c : Ctx}

/-! ## A context whose deadline comes (R198, R199) -/

/-- The entries that a context still awaits. -/
def Ctx.openEntries (c : Ctx) : List Entry := c.entries.filter fun e => !entryDone e

/-- The context with what it still awaits MISSING, closing. -/
def Ctx.shut (c : Ctx) : Ctx :=
  { c.modEntries (fun e => !entryDone e) (fun e => { e with st := .missing, item := none }) with closing := true }

theorem Ctx.shut_eq (c : Ctx) : c.shut = { c with
    closing := true
    entries := c.entries.map fun e => if entryDone e then e else { e with st := .missing, item := none } } := by
  refine congrArg (fun l => ({ c with closing := true, entries := l } : Ctx)) (List.map_congr_left fun e _ => ?_)
  by_cases he : entryDone e = true <;> simp [he]

/-- A fragment in progress of an entry that is still awaited moves to LATE. -/
def Ctx.lateItem (c : Ctx) (i : Item) : Item :=
  if (c.openEntries.filterMap (·.item)).contains i.id then { i with queue := 1 } else i

/-- The south ports of some entries count a missing child. -/
def State.countMissing (s : State) (l : List Entry) : State :=
  l.foldl (fun s e => match e.child with
    | .south p => s.inc (R.childMissing (s.grantedPort p))
    | _ => s) s

/-- The context of a key is shut, its fragments in progress in LATE. -/
def State.shutCtx (s : State) (k : MergeKey) (c : Ctx) (asms : Tab Asm) : State :=
  { s with pool := { s.pool with items := s.pool.items.map c.lateItem, asms := asms,
                                 ctxs := s.pool.ctxs.map fun d => if d.key = k then d.shut else d } }

theorem State.countMissing_touch (l : List Entry) (h : Touch P s u) (hr : ∀ o, 0x3028 ≤ o → P (.reg o)) :
    Touch P s (u.countMissing l) := by
  refine Touch.foldl _ h fun v e hv => ?_
  split
  · exact State.inc_touch hv (hr _ (Nat.le_add_right _ _))
  · exact hv

/-- Counting changes registers alone. -/
theorem State.countMissing_regs (s : State) (l : List Entry) : ∃ r, s.countMissing l = { s with regs := r } := by
  induction l generalizing s with
  | nil => exact ⟨s.regs, rfl⟩
  | cons e l ih =>
    unfold State.countMissing
    rw [List.foldl_cons]
    split
    · obtain ⟨r, hr⟩ := ih (s.inc (R.childMissing (s.grantedPort _)))
      exact ⟨r, hr⟩
    · exact ih s

theorem State.closeNow_eq (h : s.ctx k = some c) : ∃ a, s.closeNow k = (s.countMissing c.openEntries).shutCtx k c a := by
  obtain ⟨r, hr⟩ := s.countMissing_regs c.openEntries
  unfold State.closeNow
  rw [h]
  exact ⟨_, rfl⟩

/-- What a shut context leaves of the state: registers apart, the items and contexts of the pool change. -/
theorem State.closeNow_regs (h : s.ctx k = some c) : ∃ r a, s.closeNow k = ({ s with regs := r } : State).shutCtx k c a := by
  obtain ⟨a, ha⟩ := State.closeNow_eq h
  obtain ⟨r, hr⟩ := s.countMissing_regs c.openEntries
  exact ⟨r, a, by rw [ha, hr]⟩

theorem State.closeNow_touch (h : Touch P s u) (hp : P .pool) (hr : ∀ o, 0x3028 ≤ o → P (.reg o)) : Touch P s (u.closeNow k) := by
  cases hc : u.ctx k with
  | none =>
    have hn : u.closeNow k = u := by
      unfold State.closeNow
      rw [hc]
    rwa [hn]
  | some c =>
    obtain ⟨a, ha⟩ := State.closeNow_eq hc
    rw [ha]
    exact (State.countMissing_touch _ h hr).pool hp rfl

theorem State.closeNow_ctx (h : s.ctx k = some c) : (s.closeNow k).ctx k = some c.shut := by
  obtain ⟨r, a, ha⟩ := State.closeNow_regs h
  rw [ha]
  show State.ctx (s.modCtx k Ctx.shut) k = _
  rw [State.ctx_modCtx_same _ _ (by exact fun _ => rfl), h, Option.map_some]

theorem State.closeNow_item {id : Nat} {i : Item} (h : s.ctx k = some c) (hi : s.item id = some i) :
    (s.closeNow k).item id = some (c.lateItem i) := by
  obtain ⟨r, a, ha⟩ := State.closeNow_regs h
  rw [ha]
  show List.find? _ (s.pool.items.map c.lateItem) = _
  rw [find?_map_same, show s.pool.items.find? (fun i => i.id = id) = some i from hi, Option.map_some]
  intro x
  unfold Ctx.lateItem
  split <;> rfl

/-- No entry of a shut context is newly PRESENT. -/
theorem Ctx.shut_absent (h : ∀ e ∈ c.entries, e.st ≠ .present) : ∀ e ∈ c.shut.entries, e.st ≠ .present := by
  intro e he
  obtain ⟨x, hx, rfl⟩ := List.mem_map.1 he
  split
  · simp
  · exact h x hx

theorem contextDeadline_idle (h : ∀ c, s.ctx k = some c → c.closing = true ∨ reached s.time.coarse c.deadline = false) :
    exec (.contextDeadline k) s = .next s := by
  show execContextDeadline k s = _
  unfold execContextDeadline
  cases hc : s.ctx k with
  | none => rfl
  | some c => rcases h c hc with h | h <;> simp [h]

theorem contextDeadline_due (h : s.ctx k = some c) (hc : c.closing = false) (hr : reached s.time.coarse c.deadline = true) :
    exec (.contextDeadline k) s = .next (s.closeNow k) := by
  show execContextDeadline k s = _
  unfold execContextDeadline
  rw [h]
  simp [hc, hr]

/-- The one entry that a context still awaits, of a south port: its port counts it. -/
theorem State.closeNow_counts {e : Entry} {p : Nat} (h : s.ctx k = some c) (ho : c.openEntries = [e]) (hp : e.child = .south p) :
    (s.closeNow k).getF (R.childMissing (s.grantedPort p)) = min (s.getF (R.childMissing (s.grantedPort p)) + 1) 65535 := by
  obtain ⟨a, ha⟩ := State.closeNow_eq h
  rw [ha]
  show (s.countMissing c.openEntries).getF _ = _
  have hcount : s.countMissing c.openEntries = s.inc (R.childMissing (s.grantedPort p)) := by
    rw [ho, State.countMissing, List.foldl_cons, hp, List.foldl_nil]
  rw [hcount]
  exact State.getF_inc_same s _ (by simp [R.childMissing])

/-- Its fragment in progress moves to LATE. -/
theorem State.closeNow_late {e : Entry} {id : Nat} {i : Item} (h : s.ctx k = some c) (ho : c.openEntries = [e]) (he : e.item = some id)
    (hi : s.item id = some i) : (s.closeNow k).item id = some { i with queue := 1 } := by
  rw [State.closeNow_item h hi, Ctx.lateItem, ho, if_pos (by simp [he, State.id_of_item hi])]

end Sys2Proof.Machine

namespace Sys2Proof.Machine

variable {s t u : State} {P : Comp → Prop} {k : MergeKey} {c : Ctx}

/-! ## A context closes (R185, R198, R203) -/

/-- What closing a context changes: its queue's and OUTPUT's pointers are compared, slot headers are read and rewritten, and items that a
standby retained leave OUTPUT. -/
def mergeParts (c : Comp) : Prop := queueParts c ∨ memParts 0 c ∨ c = .reg 0x306C

section
variable (hq : ∀ c, queueParts c → P c) (hm : ∀ c, memParts 0 c → P c) (h6 : P (.reg 0x306C))

include hm in
theorem State.joinChains_touch {l : List (List Nat)} (h : Touch P s u) : Touch P s (u.joinChains l) := by
  induction l generalizing u with
  | nil => exact h
  | cons a l ih =>
    cases l with
    | nil => exact h
    | cons b l =>
      refine ih ?_
      unfold State.setNext
      split
      · exact State.setRaw_touch h (hm _ memParts_mem)
      · exact h

include hm in
theorem State.spliceReads_touch {l : List (List Nat)} (h : Touch P s u) : Touch P s (u.spliceReads l).2 := by
  induction l generalizing u with
  | nil => exact h
  | cons a l ih =>
    cases l with
    | nil => exact h
    | cons b l => exact ih (State.readCw_touch h hm)

include hq h6

theorem State.trimRetained_touch (h : Touch P s u) : Touch P s u.trimRetained :=
  Touch.ite h (Touch.foldl _ h fun _ _ hv => State.releaseItem_touch hq h6 hv)

include hm

theorem State.spliceMerged_touch {late : Bool} {rows : List Row} {slot : Nat} (h : Touch P s u) :
    Touch P s (u.spliceMerged k late rows slot) := by
  have hpool : P .pool := hq _ (queueParts_store trivial)
  have hpair : P .pair := hq _ (.inr (.inl rfl))
  unfold State.spliceMerged
  extract_lets head table words items chains ids id cls merged joined rest pool v w f crc had sigs pair x
  have hjoined : Touch P s joined := State.joinChains_touch hm (State.writePool_touch h (hm _ memParts_mem))
  clear_value joined
  have hv : Touch P s v := hjoined.pool hpool rfl
  have hw : Touch P s w := Touch.ite (State.releaseItem_touch hq h6 hv) (State.trimRetained_touch hq h6 hv)
  clear_value w
  exact State.throttleUpdate_touch (Touch.ite (hw.upd (hpair := .inl hpair)) hw) fun c hc => hq c (queueParts_store hc)

theorem State.spliceCtx_touch {slot : Nat} (h : Touch P s u) : Touch P s (u.spliceCtx c slot) := by
  have hpool : P .pool := hq _ (queueParts_store trivial)
  unfold State.spliceCtx
  extract_lets status rows pool gone pool' v w
  have hgone : Touch P s gone := h.pool hpool rfl
  have hv : Touch P s v := by
    simp only [v]
    split
    · exact hgone.pool hpool rfl
    · exact hgone
  have hw : Touch P s w := State.spliceMerged_touch hq hm h6 hv
  split
  · exact hw.pool hpool rfl
  · exact hw.close hpool

theorem State.closeCtx_touch (h : Touch P s u) : Touch P s (u.closeCtx k) := by
  have hpool : P .pool := hq _ (queueParts_store trivial)
  unfold State.closeCtx
  split
  · exact h
  · refine Touch.ite h ?_
    extract_lets v
    have hv : Touch P s v := State.readMap_touch (State.checkQueue_touch (State.checkQueue_touch h hq) hq)
      fun c hc => hq c (queueParts_mem hc)
    split
    · exact hv
    · split
      · exact hv
      · next slot w ha =>
        have hw : Touch P s w := State.allocSlot_touch hv hpool ha
        extract_lets r
        have hr : Touch P s r.2 := State.spliceReads_touch hm hw
        exact Touch.ite (State.spliceCtx_touch hq hm h6 hr) (State.resetQueue_touch hr hq)

end

theorem State.closeCtx_touches (s : State) (k : MergeKey) : Touch mergeParts s (s.closeCtx k) :=
  State.closeCtx_touch (fun _ => .inl) (fun _ h => .inr (.inl h)) (.inr (.inr rfl)) (Touch.refl _ s)

/-! ### Where no table word is damaged -/

/-- The chains of a context's PRESENT fragments. -/
def State.chainsOf (s : State) (c : Ctx) : List (List Nat) :=
  c.entries.filterMap fun e => if e.st = .present then (e.item.bind s.item).map (·.slots) else none

theorem State.closeCtx_idle (h : (∀ c, s.ctx k = some c → s.closable c = false) ∨ s.transfersWait = true ∨
    ((s.mem 5).cells = [] ∧ s.freeInBanks 12 s.pool.bankPtr = none)) : s.closeCtx k = s := by
  unfold State.closeCtx
  cases hctx : s.ctx k with
  | none => rfl
  | some c =>
    dsimp only
    rcases h with h | h | ⟨hc, hfree⟩
    · exact if_pos (.inl (by simp [h c hctx]))
    · exact if_pos (.inr h)
    · split
      · rfl
      · rw [State.checkQueue_intact hc, State.checkQueue_intact hc, State.readMap_intact hc, hctx]
        dsimp only
        rw [State.allocSlot, hfree]

section
variable {n : Nat} (hc : (s.mem 5).cells = []) (hctx : s.ctx k = some c) (hcl : s.closable c = true) (hw : s.transfersWait = false)
  (hn : s.freeInBanks 12 s.pool.bankPtr = some n) (hread : (s.bankPast n).spliceReads (s.chainsOf c) = (true, s.bankPast n))
include hc hctx hcl hw hn hread

/-- A context that may close is spliced into OUTPUT behind a header item in the free slot. -/
theorem State.closeCtx_splices : s.closeCtx k = (s.bankPast n).spliceCtx c n := by
  unfold State.chainsOf at hread
  unfold State.closeCtx
  rw [hctx]
  dsimp only
  rw [if_neg (by simp [hcl, hw]), State.checkQueue_intact hc, State.checkQueue_intact hc, State.readMap_intact hc, hctx]
  dsimp only
  rw [State.allocSlot_of_free hn]
  dsimp only
  rw [hread]
  rfl

end

theorem State.trimRetained_of_none (h : ∀ i ∈ s.pool.items, i.retained = true → i.hidden = true) : s.trimRetained = s := by
  unfold State.trimRetained
  split
  · rfl
  · rw [List.filter_eq_nil_iff.2]
    · rfl
    · intro i hi
      cases hr : i.retained with
      | false => simp
      | true => simp [h i hi hr]

/-- The header item of a merged fragment of key `k` that enters OUTPUT in the state `s`. -/
def State.HeaderItem (s : State) (k : MergeKey) (i : Item) : Prop :=
  i.id = s.pool.nextItem ∧ i.queue = 0 ∧ i.complete = true ∧ i.gen = true ∧ i.key = some k ∧ i.age = s.pool.nextAge ∧
    i.cls = (if keyIsEvent k then .triggered else .streaming)

/-- At an active node that retains nothing a merged fragment enters OUTPUT, and no other item leaves it. -/
theorem State.spliceMerged_active (ha : s.isActive = true) (hr : ∀ i ∈ s.pool.items, i.retained = true → i.hidden = true)
    (rows : List Row) (slot : Nat) : ∃ l i m a n, s.HeaderItem k i ∧ (s.spliceMerged k false rows slot).pool =
      { s.pool with items := l ++ [i], nextItem := m, nextAge := s.pool.nextAge + 1, agg := a, lastThrottle := n } := by
  unfold State.spliceMerged
  extract_lets head table words items chains ids id cls merged joined rest pool v w f crc had sigs pair x
  have hjoined : joined.pool = s.pool := State.joinChains_pool _ _
  have hheader : s.HeaderItem k merged := ⟨rfl, rfl, rfl, rfl, rfl, rfl, rfl⟩
  have hkept : merged.retained = false := by simp [merged, ha]
  clear_value joined merged ids
  have htrim : v.trimRetained = v := by
    refine State.trimRetained_of_none fun i hi hret => ?_
    rcases List.mem_append.1 hi with hi | hi
    · obtain ⟨j, hj, rfl⟩ := List.mem_map.1 hi
      rw [hjoined] at hj
      have hold := hr j (List.mem_filter.1 hj).1
      revert hret
      split
      · split <;> exact hold
      · exact hold
    · rw [List.mem_singleton.1 hi, hkept] at hret
      cases hret
  have hw : w = v := htrim
  have hvpool : v.pool = { s.pool with items := rest ++ [merged], nextItem := id + 1, nextAge := s.pool.nextAge + 1 } := by
    rw [← hjoined]
  clear_value w
  have hx : x.pool = v.pool := by
    rw [← hw]
    simp only [x]
    split <;> rfl
  obtain ⟨a, n, ht⟩ := x.throttleUpdate_pool
  clear_value x v
  rw [hx, hvpool] at ht
  exact ⟨rest, merged, id + 1, a, n, hheader, ht⟩

end Sys2Proof.Machine

namespace Sys2Proof.Machine

variable {s t u : State} {P : Comp → Prop} {k : MergeKey} {c : Ctx}

/-- What the splice of a context leaves at an active node that retains nothing. -/
theorem State.spliceCtx_active (ha : s.isActive = true) (hr : ∀ i ∈ s.pool.items, i.retained = true → i.hidden = true) (n : Nat) :
    (∃ i ∈ (s.spliceCtx c n).pool.items, s.HeaderItem c.key i) ∧
      (∀ f, c.key = .frame f → (∀ l, s.pool.lastClosed = some l → olderFrame f l = false) →
        (s.spliceCtx c n).pool.lastClosed = some f) ∧
      (keyIsEvent c.key = true → (s.spliceCtx c n).pool.closedEvents =
        ((c.key, (c.entries.filter fun e => e.st = .present).map (·.node)) :: s.pool.closedEvents).take 4096) := by
  unfold State.spliceCtx
  extract_lets status rows pool gone pool' v w
  obtain ⟨closed, hv⟩ : ∃ closed, v = { gone with pool := { gone.pool with closedFrames := closed } } := by
    simp only [v]
    split <;> exact ⟨_, rfl⟩
  obtain ⟨l, i, m, a, b, hi, hpool⟩ := State.spliceMerged_active (s := v) (k := c.key) (by rw [hv]; exact ha) (by rw [hv]; exact hr) rows n
  have hw : w.pool = _ := hpool
  have hlast : w.pool.lastClosed = s.pool.lastClosed := by rw [hw, hv]
  have hevents : w.pool.closedEvents = s.pool.closedEvents := by rw [hw, hv]
  have hin : i ∈ w.pool.items := by rw [hw]; simp
  have hheader : s.HeaderItem c.key i := by rw [hv] at hi; exact hi
  clear_value w
  cases hk : c.key with
  | frame f =>
    refine ⟨⟨i, hin, hk ▸ hheader⟩, fun g hg hold => ?_, fun h => by simp [keyIsEvent] at h⟩
    cases hg
    show some (match w.pool.lastClosed with | some l => if olderFrame f l then l else f | none => f) = some f
    rw [hlast]
    cases hl : s.pool.lastClosed with
    | none => rfl
    | some l => simp [hold l hl]
  | event ns num =>
    refine ⟨⟨i, hin, hk ▸ hheader⟩, fun g hg => (by cases hg), fun _ => ?_⟩
    show (_ :: w.pool.closedEvents).take 4096 = _
    rw [hevents]

theorem State.ctx_none_of_keys (h : k ∉ s.ctxKeys) : s.ctx k = none := by
  refine List.find?_eq_none.2 fun d hd he => h (List.mem_map.2 ⟨d, hd, by simpa using he⟩)

/-! ## A context opens (R165, R196, R198, R202) -/

/-- Of fewer numbers than there are, one is free. -/
theorem freeIndex_not_mem {used : List Nat} (h : used.length < 1024) :
    ((List.range 1024).find? fun i => !used.contains i).getD 1024 ∉ used := by
  cases hf : (List.range 1024).find? fun i => !used.contains i with
  | some i => simpa using List.find?_some hf
  | none =>
    have hsub : List.range 1024 ⊆ used := fun i hi => by simpa using List.find?_eq_none.1 hf i hi
    have hle := (List.subperm_of_subset List.nodup_range hsub).length_le
    rw [List.length_range] at hle
    omega

/-- What a context is as it opens in the state `s`. -/
structure Opening (s : State) (k : MergeKey) (c : Ctx) : Prop where
  key : c.key = k
  closing : c.closing = false
  deadline : c.deadline = s.deadline k
  nodes : c.entries.map (·.node) = s.expected.map (·.node)
  index : ∀ d ∈ s.pool.ctxs, s.pool.ctxs.length < 1024 → c.index ≠ d.index

/-- A context opens behind those that are open, once the oldest has been closed where too many are. -/
theorem State.openCtx_opens (h : s.ctx k = none) (hroom : s.forceOldest.pool.ctxs.length < s.forceOldest.cfgF C.mergeOpenMax) :
    ∃ c, (s.openCtx k).2.pool.ctxs = s.forceOldest.pool.ctxs ++ [c] ∧ Opening s.forceOldest k c ∧
      Touch (· = .pool) s.forceOldest (s.openCtx k).2 := by
  generalize hu : s.forceOldest = u at *
  unfold State.openCtx
  rw [if_neg (by simp [h])]
  extract_lets v used index own entries w d
  subst hu
  rw [if_neg (Nat.not_le.2 hroom)]
  have hw : w.deadline k = v.deadline k ∧ w.pool.ctxs = v.pool.ctxs ∧ Touch (· = .pool) v w := by
    simp only [w]
    split
    · exact ⟨by cases k <;> rfl, rfl, State.modItem_touch (Touch.refl _ v) rfl⟩
    · exact ⟨rfl, rfl, Touch.refl _ v⟩
  obtain ⟨hdeadline, hctxs, htouch⟩ := hw
  have hfree : v.pool.ctxs.length < 1024 → index ∉ used := fun hlen => freeIndex_not_mem (by rwa [List.length_map])
  clear_value index
  refine ⟨d, congrArg (· ++ [d]) hctxs, ⟨rfl, rfl, hdeadline, ?_, fun x hx hlen hi => ?_⟩, htouch.pool rfl rfl⟩
  · show entries.map _ = _
    simp only [entries, List.map_map]
    refine List.map_congr_left fun e _ => ?_
    dsimp only [Function.comp]
    split
    · split
      · rfl
      · split <;> rfl
    · split <;> rfl
    · rfl
  · exact hfree hlen (List.mem_map.2 ⟨x, hx, hi.symm⟩)

/-- Where too many are open still, none opens. -/
theorem State.openCtx_full (h : s.ctx k = none) (hfull : s.forceOldest.cfgF C.mergeOpenMax ≤ s.forceOldest.pool.ctxs.length) :
    s.openCtx k = (false, s.forceOldest) := by
  unfold State.openCtx
  rw [if_neg (by simp [h])]
  exact if_pos hfull

theorem State.forceOldest_room (h : s.pool.ctxs.length < s.cfgF C.mergeOpenMax) : s.forceOldest = s := if_pos h

/-- The state in which the oldest context is forced to close: it is counted but where it was closing already (assumption 132). -/
def State.forced (s : State) (c : Ctx) : State := if c.closing then s else (s.closeNow c.key).inc R.mergeForced

section
variable {l : List Ctx} (h : s.pool.ctxs = c :: l)
include h

theorem State.ctx_oldest : s.ctx c.key = some c := by simp [State.ctx, h]

theorem State.forceOldest_full (hfull : s.cfgF C.mergeOpenMax ≤ s.pool.ctxs.length) : s.forceOldest = (s.forced c).closeCtx c.key := by
  unfold State.forceOldest State.forced
  rw [if_neg (Nat.not_lt.2 hfull), h]

end

theorem State.closeNow_ctxKeys (s : State) (k : MergeKey) : (s.closeNow k).ctxKeys = s.ctxKeys := by
  cases hc : s.ctx k with
  | none =>
    unfold State.closeNow
    rw [hc]
  | some c =>
    obtain ⟨r, a, ha⟩ := State.closeNow_regs hc
    rw [ha]
    show (s.pool.ctxs.map _).map _ = _
    rw [List.map_map]
    refine List.map_congr_left fun d _ => ?_
    dsimp only [Function.comp]
    split <;> rfl

theorem State.forced_ctxKeys (s : State) (c : Ctx) : (s.forced c).ctxKeys = s.ctxKeys :=
  ctxKeys_ite rfl (s.closeNow_ctxKeys c.key)

/-- What forcing a context to close changes. -/
def forceParts (c : Comp) : Prop := mergeParts c ∨ ∃ o, c = .reg o

theorem State.forced_touch (s : State) (c : Ctx) : Touch (fun x => x = .pool ∨ ∃ o, x = .reg o) s (s.forced c) :=
  Touch.ite (Touch.refl _ s) (State.inc_touch (State.closeNow_touch (Touch.refl _ s) (.inl rfl) fun o _ => .inr ⟨o, rfl⟩)
    (.inr ⟨_, rfl⟩))

theorem State.forceOldest_touch (s : State) : Touch forceParts s s.forceOldest := by
  have hpool : forceParts .pool := .inl (.inl (queueParts_store trivial))
  unfold State.forceOldest
  refine Touch.ite (Touch.refl _ s) ?_
  split
  · exact Touch.refl _ s
  · next c l h =>
    refine Touch.trans ((s.forced_touch c).mono fun x hx => ?_) ((State.closeCtx_touches (s.forced c) c.key).mono fun x => .inl)
    rcases hx with rfl | ⟨o, rfl⟩
    · exact hpool
    · exact .inr ⟨o, rfl⟩

theorem State.forced_count (s : State) (c : Ctx) : (s.forced c).getF R.mergeForced =
    if c.closing then s.getF R.mergeForced else min (s.getF R.mergeForced + 1) 65535 := by
  unfold State.forced
  split
  · rfl
  · have hnow : Touch (fun x => x = .pool ∨ ∃ o, x = .reg o ∧ 0x3028 ≤ o) s (s.closeNow c.key) :=
      State.closeNow_touch (Touch.refl _ s) (.inl rfl) fun o ho => .inr ⟨o, rfl, ho⟩
    rw [State.getF_inc_same _ _ (by decide), hnow.getF (by simp [R.mergeForced])]
    rfl

theorem State.forceOldest_count {l : List Ctx} (h : s.pool.ctxs = c :: l) (hfull : s.cfgF C.mergeOpenMax ≤ s.pool.ctxs.length) :
    s.forceOldest.getF R.mergeForced = if c.closing then s.getF R.mergeForced else min (s.getF R.mergeForced + 1) 65535 := by
  rw [State.forceOldest_full h hfull, (State.closeCtx_touches _ _).getF (f := R.mergeForced), State.forced_count]
  simp [mergeParts, queueParts, memParts, logParts, storeParts, R.mergeForced]

/-- Forcing a context to close opens none. -/
theorem State.forceOldest_length (s : State) : s.forceOldest.pool.ctxs.length ≤ s.pool.ctxs.length := by
  by_cases hroom : s.pool.ctxs.length < s.cfgF C.mergeOpenMax
  · rw [State.forceOldest_room hroom]
  · cases h : s.pool.ctxs with
    | nil =>
      unfold State.forceOldest
      rw [if_neg hroom, h]
      dsimp only
      rw [h]
    | cons c l =>
      rw [State.forceOldest_full h (Nat.not_lt.1 hroom), ← h, ← State.ctxKeys_length, ← State.ctxKeys_length, ← s.forced_ctxKeys c]
      rcases (s.forced c).closeCtx_ctxKeys c.key with hk | hk <;> rw [hk]
      exact List.length_filter_le _ _

/-- Forcing a context to close leaves the configuration as it is. -/
theorem State.forceOldest_cfgF (s : State) (f : CF) : s.forceOldest.cfgF f = s.cfgF f := by
  have h : s.forceOldest.record f.key = s.record f.key := s.forceOldest_touch.same (c := .cfg f.key)
    (by simp [forceParts, mergeParts, queueParts, memParts, logParts, storeParts])
  rw [State.cfgF, h, State.cfgF]

/-! ### A lone context makes room -/

/-- A lone context that is closing may write its header item. -/
theorem State.closable_lone (h : s.pool.ctxs = [c]) (hc : c.closing = true) : s.closable c = true := by
  unfold State.closable
  rw [hc, h]
  cases hk : c.key with
  | event ns n => rfl
  | frame f => simp [hk, olderFrame]

theorem State.chainsOf_absent (h : ∀ e ∈ c.entries, e.st ≠ .present) : s.chainsOf c = [] :=
  List.filterMap_eq_nil_iff.2 fun e he => if_neg (h e he)

/-- What is forced to close is closing, and nothing of it is PRESENT that was not. -/
theorem State.forced_lone (h : s.pool.ctxs = [c]) (he : ∀ e ∈ c.entries, e.st ≠ .present) : ∃ d, (s.forced c).pool.ctxs = [d] ∧
    d.key = c.key ∧ d.closing = true ∧ (∀ e ∈ d.entries, e.st ≠ .present) ∧
    (s.forced c).freeInBanks 12 (s.forced c).pool.bankPtr = s.freeInBanks 12 s.pool.bankPtr := by
  unfold State.forced
  split
  · next hc => exact ⟨c, h, rfl, hc, he, rfl⟩
  · obtain ⟨r, a, ha⟩ := State.closeNow_regs (State.ctx_oldest h)
    rw [ha]
    refine ⟨c.shut, ?_, rfl, rfl, Ctx.shut_absent he, Eq.trans (b := State.freeInBanks _ 12 s.pool.bankPtr) rfl
      (State.freeInBanks_congr (fun n => ?_) ?_ _ _)⟩
    · show s.pool.ctxs.map _ = _
      rw [h, List.map_singleton, if_pos rfl]
    · have hslots : ∀ i, (c.lateItem i).slots = i.slots := fun i => by
        unfold Ctx.lateItem
        split <;> rfl
      show (_ || (s.pool.items.map c.lateItem).any _ || _) = _
      rw [List.any_map]
      simp only [Function.comp_def, hslots]
      rfl
    · rfl

section
variable (h : s.pool.ctxs = [c]) (hfull : s.cfgF C.mergeOpenMax ≤ s.pool.ctxs.length) (hc : (s.mem 5).cells = [])
  (hw : s.transfersWait = false) (hfree : (s.freeInBanks 12 s.pool.bankPtr).isSome = true) (he : ∀ e ∈ c.entries, e.st ≠ .present)
include h hfull hc hw hfree he

/-- A lone context with nothing PRESENT is closed where a slot is free for its header item. -/
theorem State.forceOldest_lone : s.forceOldest.pool.ctxs = [] := by
  obtain ⟨d, hd, hkey, hclosing, hno, hbanks⟩ := State.forced_lone h he
  obtain ⟨n, hn⟩ := Option.isSome_iff_exists.1 hfree
  have htouch := s.forced_touch c
  have hmem : ((s.forced c).mem 5).cells = [] := by
    rw [show (s.forced c).mem 5 = s.mem 5 from htouch.same (c := .mem 5) (by simp), hc]
  have hwait : (s.forced c).transfersWait = false := by
    rw [State.transfersWait, show (s.forced c).test = s.test from htouch.same (c := .test) (by simp)]
    exact hw
  have hclose := State.closeCtx_splices (n := n) hmem (State.ctx_oldest hd) (State.closable_lone hd hclosing) hwait (hbanks.trans hn)
    (by rw [State.chainsOf_absent hno]; rfl)
  rw [hkey] at hclose
  have hkeys : s.forceOldest.ctxKeys = [] := by
    rw [State.forceOldest_full h hfull, hclose, State.spliceCtx_ctxKeys]
    show ((s.forced c).pool.ctxs.map (·.key)).filter _ = _
    simp [hd]
  exact List.map_eq_nil_iff.1 hkeys

end

end Sys2Proof.Machine

namespace Sys2Proof.Machine

variable {s t u : State} {P : Comp → Prop}

/-! ## The readers of OUTPUT (R35, R204, R207) -/

/-- The older of an item and the oldest so far. -/
def olderItem (b : Option Item) (i : Item) : Option Item :=
  match b with
  | none => some i
  | some j => if i.age < j.age then some i else some j

/-- The oldest of some items is one of them, and there is one unless there are none. -/
theorem foldl_olderItem (l : List Item) (b : Option Item) :
    (l.foldl olderItem b = none → b = none ∧ l = []) ∧ (∀ i, l.foldl olderItem b = some i → i ∈ l ∨ b = some i) :=
  foldl_choice (fun b i => by
    cases b with
    | none => exact .inl rfl
    | some j =>
      unfold olderItem
      dsimp only
      split
      · exact .inl rfl
      · exact .inr ⟨rfl, by simp⟩) l b

theorem foldl_olderItem_le (l : List Item) (b : Option Item) (i : Item) (h : l.foldl olderItem b = some i) :
    (∀ j ∈ l, i.age ≤ j.age) ∧ ∀ j, b = some j → i.age ≤ j.age := by
  induction l generalizing b with
  | nil =>
    refine ⟨by simp, fun j hj => ?_⟩
    rw [List.foldl_nil, hj] at h
    cases h
    exact Nat.le_refl _
  | cons a l ih =>
    obtain ⟨hl, hb⟩ := ih _ h
    cases b with
    | none => exact ⟨List.forall_mem_cons.2 ⟨hb a rfl, hl⟩, by simp⟩
    | some j =>
      have hmin : i.age ≤ a.age ∧ i.age ≤ j.age := by
        by_cases ha : a.age < j.age
        · have := hb a (if_pos ha)
          omega
        · have := hb j (if_neg ha)
          omega
      exact ⟨List.forall_mem_cons.2 ⟨hmin.1, hl⟩, fun x hx => by cases hx; exact hmin.2⟩

theorem State.headOf_none {r : Reader} {c : Cls} (h : s.headOf r c = none) {j : Item} (hj : j ∈ s.pool.items) (hc : j.cls = c) :
    s.readable r j = false := by
  have hnil := ((foldl_olderItem (s.pool.items.filter fun i => i.cls = c && s.readable r i) none).1 h).2
  simpa [hc] using List.filter_eq_nil_iff.1 hnil j hj

theorem State.headOf_some {r : Reader} {c : Cls} {i : Item} (h : s.headOf r c = some i) :
    i ∈ s.pool.items ∧ i.cls = c ∧ s.readable r i = true ∧
      ∀ j ∈ s.pool.items, j.cls = c → s.readable r j = true → i.age ≤ j.age := by
  have hmem := ((foldl_olderItem (s.pool.items.filter fun i => i.cls = c && s.readable r i) none).2 i h).resolve_right (by simp)
  obtain ⟨hi, hsel⟩ := List.mem_filter.1 hmem
  obtain ⟨hc, hr⟩ : i.cls = c ∧ s.readable r i = true := by simpa using hsel
  exact ⟨hi, hc, hr, fun j hj hjc hjr => (foldl_olderItem_le _ _ i h).1 j (List.mem_filter.2 ⟨hj, by simp [hjc, hjr]⟩)⟩

/-- Only the DMA engine passes over the head of a list. -/
theorem State.classItem_eq {r : Reader} (hr : r ≠ .dma) (c : Cls) : s.classItem r c = s.headOf r c := by
  unfold State.classItem
  cases s.headOf r c <;> simp [hr]

theorem State.classItem_head {r : Reader} {c : Cls} {i : Item} (h : s.classItem r c = some i) : s.headOf r c = some i :=
  (Option.filter_eq_some_iff.1 h).1

theorem mem_classOrder (c : Cls) : c ∈ classOrder := by cases c <;> decide

theorem classOrder_sorted : classOrder.Pairwise fun a b => a.code < b.code := by decide

/-- The item chosen is one that the reader may read. -/
theorem State.chooseItem_readable {r : Reader} {i : Item} (h : s.chooseItem r = some i) : i ∈ s.pool.items ∧ s.readable r i = true := by
  obtain ⟨c, -, hc⟩ := List.exists_of_findSome?_eq_some h
  obtain ⟨hi, -, hr, -⟩ := State.headOf_some (State.classItem_head hc)
  exact ⟨hi, hr⟩

/-- It is the oldest of the highest class, where the reader is not the DMA engine. -/
theorem State.chooseItem_oldest {r : Reader} (hr : r ≠ .dma) {i : Item} (h : s.chooseItem r = some i) {j : Item}
    (hj : j ∈ s.pool.items) (hread : s.readable r j = true) : i.cls.code < j.cls.code ∨ (i.cls = j.cls ∧ i.age ≤ j.age) := by
  obtain ⟨before, c, after, hsplit, hc, hnone⟩ := List.findSome?_eq_some_iff.1 h
  obtain ⟨-, hcls, -, hage⟩ := State.headOf_some (State.classItem_head hc)
  have hsorted := classOrder_sorted
  rw [hsplit] at hsorted
  have hafter := (List.pairwise_cons.1 (List.pairwise_append.1 hsorted).2.1).1
  have hmem := mem_classOrder j.cls
  rw [hsplit] at hmem
  rcases List.mem_append.1 hmem with hmem | hmem
  · have hno := hnone _ hmem
    rw [State.classItem_eq hr] at hno
    simp [State.headOf_none hno hj rfl] at hread
  · rcases List.mem_cons.1 hmem with heq | hmem
    · exact .inr ⟨hcls.trans heq.symm, hage j hj heq hread⟩
    · exact .inl (hcls ▸ hafter _ hmem)

theorem State.chooseItem_none {r : Reader} (hr : r ≠ .dma) (h : s.chooseItem r = none) {j : Item} (hj : j ∈ s.pool.items) :
    s.readable r j = false := by
  have hno := List.findSome?_eq_none_iff.1 h j.cls (mem_classOrder _)
  rw [State.classItem_eq hr] at hno
  exact State.headOf_none hno hj rfl

/-! ### OUTPUT_READER_SELECT -/

@[simp] theorem State.setReader_reader_same (s : State) (r : Reader) (v : Rd) : (s.setReader r v).reader r = v := Tab.get_set_same _ _ _ _

theorem State.setReader_touch {r : Reader} {v : Rd} (h : Touch P s u) (hp : P .pool) : Touch P s (u.setReader r v) := h.pool hp rfl

theorem State.noteChoice_spec (s : State) (r : Reader) (id : Nat) (taken : Bool) : (s.noteChoice r id taken).reader r = s.reader r ∧
    (s.noteChoice r id taken).pool.items = s.pool.items ∧ Touch (fun c => c = .pool) s (s.noteChoice r id taken) := by
  unfold State.noteChoice
  split
  · exact ⟨rfl, rfl, Touch.pool (P := fun c => c = .pool) (Touch.refl _ s) rfl rfl⟩
  · exact ⟨rfl, rfl, Touch.refl _ s⟩

section
variable {r : Reader} {id : Nat} {i : Item} (hid : (s.reader r).item = some id) (hi : s.item id = some i)
include hid hi

theorem State.idleReader_busy : s.idleReader r = false := by
  unfold State.idleReader
  simp [hid, hi]

/-- A reader keeps its item, but for the DMA engine whose ring does not take it on. -/
theorem outputReaderSelect_busy (h : r ≠ .dma ∨ s.ringTakes (s.reader r).ring ((s.reader r).written + 8) = true) :
    exec (.outputReaderSelect r) s = .next s := by
  have hidle := State.idleReader_busy hid hi
  have hchooses : s.chooses r = false := by
    unfold State.chooses
    rcases h with h | h <;> simp [hidle, h]
  have hchoose : s.choose r = s := by
    unfold State.choose
    split
    · next hr =>
      subst hr
      have hpark : s.dmaPark = s := if_pos (.inr (h.resolve_left (by simp)))
      unfold State.dmaChoose
      simp [hidle, hpark, hid]
    · simp [hidle]
  show Host.Outcome.next (if s.chooses r then _ else _) = _
  rw [hchooses, if_neg (by simp), hchoose]

end

section
variable {r : Reader} (h : (s.reader r).item = none)
include h

theorem State.idleReader_none : s.idleReader r = true := by
  unfold State.idleReader
  simp [h]

variable (hr : r ≠ .dma)
include hr

theorem outputReaderSelect_down (hup : s.portUp (readerPort r) = false) :
    exec (.outputReaderSelect r) s = .next (s.setReader r {}) := by
  have hidle := State.idleReader_none h
  have hchooses : s.chooses r = false := by
    unfold State.chooses
    simp [hr, hup]
  show Host.Outcome.next (if s.chooses r then _ else _) = _
  rw [hchooses, if_neg (by simp)]
  unfold State.choose
  rw [if_neg hr, if_neg (by simp [hidle]), if_pos (by simp [hchooses])]

/-- What a trained port takes: what the other has chosen before it, or an item of its own choice (R35). -/
def State.nextItemOf (s : State) (r : Reader) : Option Nat :=
  match s.northNext r with
  | some i => some i.id
  | none => (s.chooseItem r).map (·.id)

theorem outputReaderSelect_takes (hup : s.portUp (readerPort r) = true) (hc : (s.mem 5).cells = []) :
    ∃ t, exec (.outputReaderSelect r) s = .next t ∧ t.reader r = { item := s.nextItemOf r } ∧ t.pool.items = s.pool.items ∧
      Frame (fun c => c = .pool) s t := by
  have hidle := State.idleReader_none h
  have hchooses : s.chooses r = true := by
    unfold State.chooses
    simp [hr, hup, hidle]
  have hexec : exec (.outputReaderSelect r) s = .next (s.choose r) := by
    show Host.Outcome.next (if s.chooses r then _ else _) = _
    rw [if_pos hchooses, State.checkQueue_intact hc]
  have hset : ∀ v, Touch (fun c => c = .pool) s (s.setReader r v) := fun v => State.setReader_touch (Touch.refl _ s) rfl
  refine ⟨_, hexec, ?_⟩
  unfold State.choose State.nextItemOf
  rw [if_neg hr, if_neg (by simp [hidle]), if_neg (by simp [hchooses])]
  cases s.northNext r with
  | some i =>
    obtain ⟨hreader, hitems, htouch⟩ := (s.setReader r { item := some i.id }).noteChoice_spec r i.id true
    exact ⟨hreader.trans (State.setReader_reader_same _ _ _), hitems, ((hset _).trans htouch).frame⟩
  | none =>
    cases s.chooseItem r with
    | some i =>
      obtain ⟨hreader, hitems, htouch⟩ := (s.setReader r { item := some i.id }).noteChoice_spec r i.id false
      exact ⟨hreader.trans (State.setReader_reader_same _ _ _), hitems, ((hset _).trans htouch).frame⟩
    | none => exact ⟨State.setReader_reader_same _ _ _, rfl, (hset _).frame⟩

end

/-! ### The DMA engine -/

/-- The reader's place is no part of the choice. -/
theorem State.setReader_dmaNext (s : State) (r : Reader) (v : Rd) : (s.setReader r v).dmaNext = s.dmaNext := rfl

/-- With no item that waits in a ring the DMA engine takes up what it chooses. -/
theorem State.dmaNext_chooses (h : s.pool.parked = []) : s.dmaNext = (s.chooseItem .dma).map .inr := by
  have hpark : ∀ c, s.parkedOf c = none := fun c => by
    unfold State.parkedOf
    rw [h]
    rfl
  unfold State.dmaNext State.chooseItem
  simp only [hpark]
  rw [List.map_findSome?]
  rfl

/-- The DMA engine takes up the item that waits in ring `n`. -/
def State.dmaResumes (s : State) (n : Nat) : State :=
  State.setReader { s with pool := { s.pool with parked := Tab.set {} s.pool.parked n {} } } .dma (Tab.get {} s.pool.parked n)

theorem State.dmaResumes_touch {n : Nat} (h : Touch P s u) (hp : P .pool) : Touch P s (u.dmaResumes n) :=
  State.setReader_touch (h.pool hp rfl) hp

/-- What the DMA engine holds once it has chosen. -/
def State.dmaTaken (s : State) : Rd :=
  match s.dmaNext with
  | some (.inl n) => Tab.get {} s.pool.parked n
  | some (.inr i) => { item := some i.id, ring := s.ringOf i, cls := i.cls }
  | none => {}

theorem outputReaderSelect_dma (h : (s.reader .dma).item = none) (hc : (s.mem 5).cells = []) :
    ∃ t, exec (.outputReaderSelect .dma) s = .next t ∧ t.pool.items = s.pool.items ∧
      Frame (fun c => c = .pool ∨ c = .free) s t ∧ t.reader .dma = s.dmaTaken := by
  have hidle := State.idleReader_none h
  have hexec : exec (.outputReaderSelect .dma) s = .next s.dmaChoose := by
    show Host.Outcome.next (if s.chooses .dma then (s.checkQueue 0).choose .dma else s.choose .dma) = _
    rw [State.checkQueue_intact hc, ite_self]
    rfl
  refine ⟨_, hexec, ?_⟩
  unfold State.dmaChoose State.dmaTaken
  rw [if_pos hidle]
  extract_lets u n v
  have hnone : ¬ (u.reader .dma).item.isSome := by
    rw [State.setReader_reader_same]
    simp
  have hn : n = s.dmaNext := s.setReader_dmaNext .dma {}
  have hv : v.pool = u.pool ∧ v.reader .dma = {} ∧ (∀ i, v.ringOf i = s.ringOf i) ∧ Touch (fun c => c = .pool ∨ c = .free) s v := by
    have hu : Touch (fun c => c = .pool ∨ c = .free) s u := State.setReader_touch (Touch.refl _ s) (.inl rfl)
    simp only [v]
    split
    · exact ⟨rfl, State.setReader_reader_same _ _ _, fun i => rfl, State.drawn_touch hu (.inr rfl)⟩
    · exact ⟨rfl, State.setReader_reader_same _ _ _, fun i => rfl, hu⟩
  obtain ⟨hpool, hreader, hring, htouch⟩ := hv
  have hitems : v.pool.items = u.pool.items := congrArg PoolSt.items hpool
  have hparked : v.pool.parked = u.pool.parked := congrArg PoolSt.parked hpool
  rw [if_neg hnone, hn]
  cases s.dmaNext with
  | none => exact ⟨hitems, htouch.frame, hreader⟩
  | some x =>
    cases x with
    | inl n =>
      exact ⟨hitems, (State.dmaResumes_touch (n := n) htouch (.inl rfl)).frame,
        (State.setReader_reader_same _ _ _).trans (congrArg (Tab.get {} · n) hparked)⟩
    | inr i =>
      refine ⟨hitems, (State.setReader_touch htouch (.inl rfl)).frame, ?_⟩
      dsimp only
      rw [State.setReader_reader_same, hring]

/-! ## THROTTLE_PERIODIC (R210) -/

theorem State.mem_sendThrottles {q : Nat} {v : Word} (l : List Nat) (s : State)
    (h : q ∈ l ∨ CtlMsg.of 0x11 0xFFF (s.portStamp q) [v] ∈ (s.port q).ctlQueue) :
    CtlMsg.of 0x11 0xFFF (s.portStamp q) [v] ∈
      ((l.foldl (fun (s : State) (p : Nat) => s.sendMsg p (.of 0x11 0xFFF (s.portStamp p) [v])) s).port q).ctlQueue := by
  induction l generalizing s with
  | nil => exact h.resolve_left (by simp)
  | cons p l ih =>
    refine ih (s.sendMsg p (.of 0x11 0xFFF (s.portStamp p) [v])) ?_
    rcases h with h | h
    · rcases List.mem_cons.1 h with rfl | h
      · exact .inr (s.sendMsg_sent q _)
      · exact .inl h
    · right
      by_cases hq : q = p
      · subst hq
        exact s.sendMsg_sent q _
      · rw [State.sendMsg, State.setPort_port_other _ _ hq]
        exact h

/-- THROTTLE goes out on every trained north port. -/
theorem State.sendThrottle_sent (s : State) (v : Word) {p : Nat} (h : p ∈ s.northUp) :
    CtlMsg.of 0x11 0xFFF (s.portStamp p) [v] ∈ ((s.sendThrottle v).port p).ctlQueue :=
  State.mem_sendThrottles _ s (.inl h)

theorem State.sendThrottle_frame (s : State) (v : Word) : Touch (fun c => c = .port 16 ∨ c = .port 17) s (s.sendThrottle v) :=
  Touch.foldl_mem _ (Touch.refl _ s) fun w p hp hw => State.sendMsg_touch hw (by
    rcases northUp_mem hp with rfl | rfl
    · exact .inl rfl
    · exact .inr rfl)

/-- THROTTLE is due again, 1 ms after the last message. -/
def State.throttleDue (s : State) : Bool := s.pool.agg && !s.isRoot && decide (s.pool.lastThrottle + 160000 ≤ s.ticks)

theorem throttlePeriodic_idle (h : s.throttleDue = false) : exec .throttlePeriodic s = .next s := by
  refine congrArg Host.Outcome.next (if_neg fun ⟨ha, hr, hl⟩ => ?_)
  simp [State.throttleDue, ha, hr, hl] at h

theorem throttlePeriodic_due (h : s.throttleDue = true) : ∃ t, exec .throttlePeriodic s = .next t ∧
    t.pool = { s.pool with lastThrottle := s.ticks } ∧
    (∀ p ∈ s.northUp, CtlMsg.of 0x11 0xFFF (s.portStamp p) [1] ∈ (t.port p).ctlQueue) ∧
    Frame (fun c => c = .pool ∨ c = .port 16 ∨ c = .port 17) s t := by
  have hdue : s.pool.agg ∧ ¬ s.isRoot ∧ s.pool.lastThrottle + 160000 ≤ s.ticks := by
    simpa [State.throttleDue, and_assoc] using h
  let u : State := { s with pool := { s.pool with lastThrottle := s.ticks } }
  have hsend := u.sendThrottle_frame 1
  have hu : Touch (fun c => c = .pool ∨ c = .port 16 ∨ c = .port 17) s u := (Touch.refl _ s).pool (.inl rfl) rfl
  exact ⟨u.sendThrottle 1, congrArg Host.Outcome.next (if_pos hdue), hsend.same (c := .pool) (by simp),
    fun p hp => u.sendThrottle_sent 1 hp, (hu.trans (hsend.mono fun c => .inr)).frame⟩

end Sys2Proof.Machine

namespace Sys2Proof.Machine

variable {s t u : State}

/-! ## CONTEXT_OPEN (R196, R198, R202) -/

theorem contextOpen_idle {f : BitVec 32}
    (h : s.merging = false ∨ s.frameRuns f = false ∨ s.isLate (.frame f) = true ∨ s.ctx (.frame f) ≠ none) :
    exec (.contextOpen f) s = .next s := by
  show Host.Outcome.next (if _ then _ else _) = _
  split
  · next hdue =>
    obtain ⟨hm, hr, hl⟩ := hdue
    have hopen : s.ctx (.frame f) ≠ none := by simpa [hm, hr, hl] using h
    unfold State.openCtx
    rw [if_pos (Option.isSome_iff_ne_none.2 hopen)]
  · rfl

section
variable {f : BitVec 32} (hm : s.merging = true) (hr : s.frameRuns f = true) (hl : s.isLate (.frame f) = false)
include hm hr hl

theorem contextOpen_due : exec (.contextOpen f) s = .next (s.openCtx (.frame f)).2 :=
  congrArg Host.Outcome.next (if_pos ⟨hm, hr, by simp [hl]⟩)

variable (hnone : s.ctx (.frame f) = none)
include hnone

theorem contextOpen_room (hroom : s.pool.ctxs.length < s.cfgF C.mergeOpenMax) :
    ∃ t c, exec (.contextOpen f) s = .next t ∧ t.pool.ctxs = s.pool.ctxs ++ [c] ∧ Opening s (.frame f) c ∧
      Frame (fun c => c = .pool) s t := by
  have hforce := State.forceOldest_room hroom
  obtain ⟨c, hctxs, hopening, htouch⟩ := State.openCtx_opens hnone (by rw [hforce]; exact hroom)
  rw [hforce] at hctxs hopening htouch
  exact ⟨_, c, contextOpen_due hm hr hl, hctxs, hopening, htouch.frame⟩

/-- Where too many are open, the oldest is forced to close, and there are never more than before. -/
theorem contextOpen_forces {c : Ctx} {l : List Ctx} (h : s.pool.ctxs = c :: l) (hfull : s.cfgF C.mergeOpenMax ≤ s.pool.ctxs.length) :
    ∃ t, exec (.contextOpen f) s = .next t ∧
      t.getF R.mergeForced = (if c.closing then s.getF R.mergeForced else min (s.getF R.mergeForced + 1) 65535) ∧
      t.pool.ctxs.length ≤ s.pool.ctxs.length ∧
      (s.forceOldest.pool.ctxs = [] → 0 < s.cfgF C.mergeOpenMax → ∃ c, t.pool.ctxs = [c] ∧ Opening s.forceOldest (.frame f) c) := by
  have hcount := State.forceOldest_count h hfull
  have hmax := s.forceOldest_cfgF C.mergeOpenMax
  refine ⟨_, contextOpen_due hm hr hl, ?_⟩
  by_cases hroom : s.forceOldest.pool.ctxs.length < s.forceOldest.cfgF C.mergeOpenMax
  · obtain ⟨d, hctxs, hopening, htouch⟩ := State.openCtx_opens hnone hroom
    refine ⟨(htouch.getF (by simp)).trans hcount, ?_, fun hnil _ => ⟨d, by rw [hctxs, hnil, List.nil_append], hopening⟩⟩
    rw [hctxs, List.length_append, List.length_singleton]
    omega
  · rw [State.openCtx_full hnone (Nat.not_lt.1 hroom)]
    refine ⟨hcount, s.forceOldest_length, fun hnil hpos => absurd ?_ hroom⟩
    rw [hnil, hmax]
    exact hpos

end

/-- Settles O60, clause by clause: what opens, closes or is chosen is said above by the operation that does it. -/
theorem contextsCloseAndReadersChoose : Obligations.ContextsCloseAndReadersChoose := by
  unfold Obligations.ContextsCloseAndReadersChoose
  refine ⟨fun s f h => contextOpen_idle h, fun s f hm hr hl hnone => ?_, fun s k h => contextDeadline_idle h, fun s k c h hc hr => ?_,
    fun s k h => congrArg Host.Outcome.next (State.closeCtx_idle h), fun s k c h hcl hw hc hfree ha hret hread => ?_, fun s r => ?_,
    fun s => ⟨throttlePeriodic_idle, throttlePeriodic_due⟩⟩
  · refine ⟨fun hroom => ?_, fun c₀ l h hfull => ?_⟩
    · obtain ⟨t, c, ht, hctxs, ho, hframe⟩ := contextOpen_room hm hr hl hnone hroom
      exact ⟨t, c, ht, hctxs, ho.key, ho.closing, ho.deadline, ho.nodes, ho.index, hframe⟩
    · obtain ⟨t, ht, hcount, hlength, hlone⟩ := contextOpen_forces hm hr hl hnone h hfull
      refine ⟨t, ht, hcount, hlength, fun hl hmax hc hw hfree he => ?_⟩
      subst hl
      obtain ⟨c, hctxs, ho⟩ := hlone (State.forceOldest_lone h hfull hc hw hfree he) (by omega)
      exact ⟨c, hctxs, ho.key, ho.closing⟩
  · refine ⟨_, contextDeadline_due h hc hr, c.shut_eq ▸ State.closeNow_ctx h, fun e p ho hp => ⟨State.closeNow_counts h ho hp,
      fun id i he hi => State.closeNow_late h ho he hi⟩, ?_⟩
    exact (State.closeNow_touch (Touch.refl _ s) (.inl rfl) fun o ho => .inr ⟨o, rfl, ho⟩).frame
  · obtain ⟨n, hn⟩ := Option.isSome_iff_exists.1 hfree
    have hclose := State.closeCtx_splices hc h hcl hw hn (hread n _ (State.allocSlot_of_free hn))
    have hkey : c.key = k := by simpa using List.find?_some h
    obtain ⟨hin, hlast, hclosed⟩ := State.spliceCtx_active (s := s.bankPast n) (c := c) ha hret n
    rw [hkey] at hin hlast hclosed
    refine ⟨_, congrArg Host.Outcome.next hclose, State.ctx_none_of_keys ?_, hin, hlast, hclosed⟩
    rw [State.spliceCtx_ctxKeys, hkey]
    simp
  · refine ⟨fun id i hid hi => outputReaderSelect_busy hid hi, fun h hr => outputReaderSelect_down h hr,
      fun h hr hup hc => outputReaderSelect_takes h hr hup hc, fun hr h hc => ?_,
      fun i hi => ?_, fun hr h j hj => State.chooseItem_none hr h hj⟩
    · subst hr
      obtain ⟨t, ht, hitems, hframe, hreader⟩ := outputReaderSelect_dma h hc
      refine ⟨t, ht, hitems, hframe, fun n hn => ?_, fun i hi => ?_, fun hno => ?_, State.dmaNext_chooses⟩
      · rw [hreader, State.dmaTaken, hn]
      · rw [hreader, State.dmaTaken, hi]
      · rw [hreader, State.dmaTaken, hno]
    · obtain ⟨hmem, hread⟩ := State.chooseItem_readable hi
      exact ⟨hmem, hread, fun hr j hj hjr => State.chooseItem_oldest hr hi hj hjr⟩

end Sys2Proof.Machine
